-- ==== Sys2Proof/Word.lean ====
section
/-!
DEFINITION. The words of the LMB-4820 (spec 00 Table 0.3) and the small types that instruction operands and device events are made of.
-/
namespace Sys2Proof

/-- A byte, 8 bits (Table 0.3). -/
abbrev Byte := BitVec 8
/-- An instruction word, 32 bits (R3). -/
abbrev IWord := BitVec 32
/-- A word, 64 bits: the unit of the full/empty bit (Table 0.3). -/
abbrev Word := BitVec 64
/-- A line, 512 bits: the width of w and z registers (Table 0.3). -/
abbrev Line := BitVec 512

/-- A g register number (R232). -/
abbrev GReg := Fin 16
/-- A w register number (R232). -/
abbrev WReg := Fin 8
/-- A z register number (R232). -/
abbrev ZReg := Fin 16

/-- LD access sizes, Table 10.13 (mode of major 0x20). -/
inductive LdMode
  | b | q | h | w | l | bs | qs | hs
  deriving DecidableEq, Repr

/-- ST access sizes, Table 10.13 (mode of major 0x21). -/
inductive StMode
  | b | q | h | w | l
  deriving DecidableEq, Repr

/-- Immediate ST sizes, Table 10.13 (mode of major 0x22). -/
inductive StiMode
  | b | q | h | w
  deriving DecidableEq, Repr

/-- RCAP and RPUT forms, Table 10.13: a word through a g register or a line through a w register. -/
inductive RingForm
  | word | line
  deriving DecidableEq, Repr

/-- RWAIT conditions, Table 10.13 (mode of major 0x36). -/
inductive RwCond
  | eq | ne | ltn | gen | lti | gei
  deriving DecidableEq, Repr

/-- Operations of RUPD (0 to 7), R239. -/
inductive RmwOp
  | add | and | or | xor | minI | maxI | minN | maxN
  deriving DecidableEq, Repr

/-- Operations of AMO, R239: those of RUPD, and swap and compare-and-swap. -/
inductive AmoOp
  | rmw (o : RmwOp) | swap | cas
  deriving DecidableEq, Repr

/-- Operand size of AMO and RUPD, R239. -/
inductive AmoSize
  | h | w
  deriving DecidableEq, Repr

/-- Element formats that the fmt field of majors 0x40 to 0x46 names, Table 10.10 (codes 0x01 to 0x0D). -/
inductive Elt
  | i8 | n8 | i16 | n16 | i32 | n32 | i64 | n64 | i4 | n4 | bf16 | f16 | f32
  deriving DecidableEq, Repr

/-- A binary8 format: signed or unsigned, finite or extended, precision P = p + 1 with p in 0 to 6 (R218, Table 10.10). -/
structure Bin8 where
  signed : Bool
  ext : Bool
  p : Fin 7
  deriving DecidableEq, Repr

/-- Every element format code of Table 10.10. -/
inductive Fmt
  | elt (e : Elt) | b8 (f : Bin8)
  deriving DecidableEq, Repr

/-- Pivot formats of WCVT (R242). -/
inductive Pivot
  | f32 | bf16 | f16 | i32
  deriving DecidableEq, Repr

/-- Rounding modes, Table 9.7. -/
inductive Rnd
  | rn | rz | rd | ru
  deriving DecidableEq, Repr

/-- Pairings of WDOT (R240). -/
inductive Pairing
  | i8i8 | n8n8 | i8n8 | i16i16 | n16n16 | i4i4 | n4n4
  deriving DecidableEq, Repr

/-- Lane formats of WDOT (R240). -/
inductive DotLane
  | i32 | n32 | i64 | n64
  deriving DecidableEq, Repr

/-- The control registers of Table 16.2. -/
inductive CReg
  | xstat | xpc | xcause | xval | xvec | xframe | spaceid | partid | slotid | brickid | regionid
  | ackcnt | tkt | mqval | srem0 | srem1 | srem2 | devtime | wakeat | bwphase | bankmap | sinv
  deriving DecidableEq, Repr

/-- An image of the module flash (R27): the header's three fields, and a number that stands for the whole content, from which the digest follows. -/
structure Image where
  version : Nat
  rollback : Nat
  bodyLen : Nat
  content : Nat
  deriving DecidableEq, Repr

/-- Classes of keys under which images are signed (Table 1.5). -/
inductive SigningKey
  | test | development | production
  deriving DecidableEq, Repr

/-- Registers of a function's BAR0 that the host writes whole (Tables 2.2 and 2.3). -/
inductive HostReg
  | qbase | qctl
  deriving DecidableEq, Repr

/-- What the patrol scrubber finds at a granule (R32, R140): `uncorrectable` is an error of ECC that channel parity would repair, `lost` one that it would not. -/
inductive EccResult
  | clean | corrected | uncorrectable | lost
  deriving DecidableEq, Repr

/-- What the media answer when a home reads a granule (R69, R71, R140): nothing wrong; an error that ECC corrects; one that only channel parity repairs; one that remains; a counter line that does not verify; a tree node that does not, by its level above the counter lines; a tag that does not. -/
inductive Media
  | sound | corrected | uncorrectable | lost | stale | staleNode (level : Nat) | badTag
  deriving DecidableEq, Repr

/-- Why a frame is dropped at its port (R50 and the paragraph above it). -/
inductive PortDrop
  | fcs | runt | oversize
  deriving DecidableEq, Repr

/-- Who asks for a debug session with a virtual device (R58, Table 1.5): has its SPDM session authenticated it, and has the owner authorised it? -/
structure Requester where
  vd : Nat
  authenticated : Bool
  owner : Bool
  deriving DecidableEq, Repr

/-- A request to change the life-cycle state (R25): the new state, the unlock token that comes with it, and whether the owner authorises it. -/
structure LifeChange where
  lcs : Nat
  token : Nat
  owner : Bool
  deriving DecidableEq, Repr

/-- Where Nerem puts what a new virtual device needs: the root of its hypervisor-stage tables (R126) and its save region (R175). -/
structure DevicePlace where
  root : Nat
  save : Nat
  deriving DecidableEq, Repr

/-- An error of a ring slot (R191): one that ECC corrects, one in its payload or in its header that it cannot. -/
inductive SlotError
  | corrected | payload | header
  deriving DecidableEq, Repr

/-- A member of a window: its virtual device and whether its right is RW (Table 3.5). -/
structure WinMember where
  vd : Nat
  rw : Bool
  deriving DecidableEq, Repr

/-- What a debug READ or WRITE names (Table 2.11): a word of a saved context image, or device memory in the device's own view. -/
inductive DebugTarget
  | image (slot : Nat) (offset : Nat)
  | memory (space : Nat) (va : Nat)
  deriving DecidableEq, Repr

/-- One 8-byte table entry that Nerem writes at a physical address of the firmware reserve (R126). -/
structure TableWrite where
  pa : Nat
  entry : Word
  deriving DecidableEq, Repr

/-- What Nerem does about pages that a host request meets without backing: the table entries that it writes, and whether it declines to back what they leave out, as FATAL answers a demand fault (R126, R132). -/
structure Backing where
  writes : List TableWrite
  declined : Bool
  deriving DecidableEq, Repr

/-- What Nerem writes to invalidate hypervisor-stage translations: a value with the fields of SINV (R130), after the table entries that it changes. -/
structure HypInval where
  value : Word
  writes : List TableWrite
  deriving DecidableEq, Repr

end Sys2Proof
end

