-- ==== Sys2Proof/Config.lean ====
section
/-!
DEFINITION. What the spec leaves open or names without giving a value. Every constant here is opaque: no proof can learn a value of it.
-/
namespace Sys2Proof.Config

/-- Free values: choice number `n` of the machine, for outcomes that the spec leaves open. -/
opaque freeNat : Nat → Nat
/-- Does the Ed25519 signature of an image verify under a key of a class, which is fused (R24, R27)? -/
opaque signedBy : SigningKey → Image → Bool
/-- SHA-512 of an image or of the boot ROM (R27, R86). -/
opaque sha512 : Nat → BitVec 512
/-- SHA-512 of a virtual device's resource set (Table 3.10). -/
opaque resourceDigest : List Nat → BitVec 512
/-- CRC-16 of a Birtil flit taken with its CRC field zero (R37); the spec names no polynomial. -/
opaque crc16 : List Byte → BitVec 16
/-- Does one of Nerem's own steering rules, 0 to 15, take a frame that arrives on a port (R50)? -/
opaque neremTakes : Nat → List Byte → Bool
/-- Function results whose rounding the interval arithmetic of the model could not decide (R313). -/
opaque undecided : Nat → Word → Word
/-- AES-256-GCM ciphertext of a granule (R63, Table 3.2): key, address bits [39:6], minor counter, MAJOR, KID and plaintext. -/
opaque gcmText (key addr minor major kid : Nat) (plain : Line) : Line
/-- The first 56 bits of the GCM tag of the same message (R63). -/
opaque gcmTag (key addr minor major kid : Nat) (plain : Line) : BitVec 56
/-- Physical address of a counter line or tree node: its level above the counter lines and its number (R65); the spec places neither. -/
opaque nodeAddr (level n : Nat) : Nat
/-- 56-bit tag of a counter line or tree node (R65): firmware-reserve key, address, parent counter and the line. -/
opaque nodeTag (key addr parent : Nat) (line : Line) : BitVec 56
/-- Ed25519 signature with the device's attestation key over a list of numbers (R86). -/
opaque attestSign : List Nat → BitVec 512
/-- Certificate chain of the attestation key, up to Ouvain's root (R86). -/
opaque certificates : List Byte
/-- Does an unlock token for RMA carry Ouvain's signature (R25)? -/
opaque unlockOk : Nat → Bool
/-- The test keys that Chaestend gives KIDs in life-cycle state TEST (Table 1.5). -/
opaque testKey : Nat → Nat
/-- Spare rows of each HBM channel (R34); the spec gives no number. -/
opaque spareRows : Nat
/-- The row of an HBM granule (R34); the spec gives no row size. -/
opaque rowOf : Nat → Nat

end Sys2Proof.Config
end

