-- ==== Sys2Proof/Syntax.lean ====
section
/-!
DEFINITION. The instruction set: one constructor for every row of the table of operations and events. The constructors down to `hloc` are instruction words (chapters 10 and 12 to 16); the others are the device's indivisible steps (spec 95), whose arguments say what the outside world, or Nerem, chose.
-/
namespace Sys2Proof

/-- The rows of the table of operations and events. -/
inductive Instr
  /-- ADD (R259). Writes the 64-bit wrapped sum of two g registers. -/
  | add (d a b : GReg)
  /-- SUB (R259). Writes the 64-bit wrapped difference of two g registers. -/
  | sub (d a b : GReg)
  /-- AND (R259). Writes the bitwise AND of two g registers. -/
  | and (d a b : GReg)
  /-- OR (R259). Writes the bitwise OR of two g registers. -/
  | or (d a b : GReg)
  /-- XOR (R259). Writes the bitwise XOR of two g registers. -/
  | xor (d a b : GReg)
  /-- ANDN (R259). Writes the first register ANDed with the complement of the second. -/
  | andn (d a b : GReg)
  /-- SHL (R259). Shifts a register left by the low six bits of another. -/
  | shl (d a b : GReg)
  /-- SHR (R259). Shifts a register right logically by the low six bits of another. -/
  | shr (d a b : GReg)
  /-- SRA (R259). Shifts a register right arithmetically by the low six bits of another. -/
  | sra (d a b : GReg)
  /-- ROL (R259). Rotates a register left by the low six bits of another. -/
  | rol (d a b : GReg)
  /-- MUL (R259). Writes the low 64 bits of the product of two registers. -/
  | mul (d a b : GReg)
  /-- MULH_I64 (R259). Writes the high 64 bits of the signed 128-bit product. -/
  | mulhI64 (d a b : GReg)
  /-- MULH_N64 (R259). Writes the high 64 bits of the natural 128-bit product. -/
  | mulhN64 (d a b : GReg)
  /-- DIV_I64 (R260). Writes the signed truncated quotient, with defined results for zero and overflow. -/
  | divI64 (d a b : GReg)
  /-- DIV_N64 (R260). Writes the natural quotient, all ones for a zero divisor. -/
  | divN64 (d a b : GReg)
  /-- REM_I64 (R260). Writes the signed remainder, with the sign of the dividend. -/
  | remI64 (d a b : GReg)
  /-- REM_N64 (R260). Writes the natural remainder, the dividend for a zero divisor. -/
  | remN64 (d a b : GReg)
  /-- MIN_I64 (R261). Writes the signed lesser of two registers. -/
  | minI64 (d a b : GReg)
  /-- MIN_N64 (R261). Writes the natural lesser of two registers. -/
  | minN64 (d a b : GReg)
  /-- MAX_I64 (R261). Writes the signed greater of two registers. -/
  | maxI64 (d a b : GReg)
  /-- MAX_N64 (R261). Writes the natural greater of two registers. -/
  | maxN64 (d a b : GReg)
  /-- CLZ (R261). Counts the leading zero bits of a register. -/
  | clz (d a : GReg)
  /-- CTZ (R261). Counts the trailing zero bits of a register. -/
  | ctz (d a : GReg)
  /-- POPC (R261). Counts the one bits of a register. -/
  | popc (d a : GReg)
  /-- SEL (R265). Selects one of two registers by whether a third is nonzero. -/
  | sel (d a b c : GReg)
  /-- MOV (R262). Copies one g register into another. -/
  | mov (d a : GReg)
  /-- CEQ (R266). Writes 1 when two registers are equal, else 0. -/
  | ceq (d a b : GReg)
  /-- CNE (R266). Writes 1 when two registers differ, else 0. -/
  | cne (d a b : GReg)
  /-- CLT_I64 (R266). Writes 1 when the first register is signed-less than the second. -/
  | cltI64 (d a b : GReg)
  /-- CLT_N64 (R266). Writes 1 when the first register is natural-less than the second. -/
  | cltN64 (d a b : GReg)
  /-- CLE_I64 (R266). Writes 1 when the first register is signed-less-or-equal to the second. -/
  | cleI64 (d a b : GReg)
  /-- CLE_N64 (R266). Writes 1 when the first register is natural-less-or-equal to the second. -/
  | cleN64 (d a b : GReg)
  /-- ADD_IMM (R259). Adds a sign-extended 17-bit immediate to a register. -/
  | addImm (d a : GReg) (i : BitVec 17)
  /-- AND_IMM (R259). ANDs a register with a sign-extended immediate. -/
  | andImm (d a : GReg) (i : BitVec 17)
  /-- OR_IMM (R259). ORs a register with a sign-extended immediate. -/
  | orImm (d a : GReg) (i : BitVec 17)
  /-- XOR_IMM (R259). XORs a register with a sign-extended immediate. -/
  | xorImm (d a : GReg) (i : BitVec 17)
  /-- SHL_IMM (R259). Shifts a register left by an immediate count. -/
  | shlImm (d a : GReg) (n : BitVec 6)
  /-- SHR_IMM (R259). Shifts a register right logically by an immediate count. -/
  | shrImm (d a : GReg) (n : BitVec 6)
  /-- SRA_IMM (R259). Shifts a register right arithmetically by an immediate count. -/
  | sraImm (d a : GReg) (n : BitVec 6)
  /-- LUI (R263). Replaces one 16-bit chunk of a register with an immediate. -/
  | lui (d : GReg) (k : BitVec 2) (c : BitVec 16)
  /-- MOV_IMM (R262). Writes a sign-extended 17-bit immediate into a register. -/
  | movImm (d : GReg) (i : BitVec 17)
  /-- EXT_N64 (R264). Extracts a bit field and zero-extends it. -/
  | extN64 (d a : GReg) (w p : BitVec 6)
  /-- EXT_I64 (R264). Extracts a bit field and sign-extends it. -/
  | extI64 (d a : GReg) (w p : BitVec 6)
  /-- INS (R264). Inserts the low bits of a register into a field of the destination. -/
  | ins (d a : GReg) (w p : BitVec 6)
  /-- RPT (R272). Captures a body of up to 16 words and runs it N times with register stagger. -/
  | rpt (l : BitVec 4) (st : BitVec 3) (n : BitVec 12)
  /-- BEQ (R267). Branches when two registers are equal. -/
  | beq (a b : GReg) (o : BitVec 17)
  /-- BNE (R267). Branches when two registers differ. -/
  | bne (a b : GReg) (o : BitVec 17)
  /-- BLT_I64 (R267). Branches when the first register is signed-less than the second. -/
  | bltI64 (a b : GReg) (o : BitVec 17)
  /-- BGE_I64 (R267). Branches when the first register is signed-greater-or-equal to the second. -/
  | bgeI64 (a b : GReg) (o : BitVec 17)
  /-- BLT_N64 (R267). Branches when the first register is natural-less than the second. -/
  | bltN64 (a b : GReg) (o : BitVec 17)
  /-- BGE_N64 (R267). Branches when the first register is natural-greater-or-equal to the second. -/
  | bgeN64 (a b : GReg) (o : BitVec 17)
  /-- JAL (R268). Writes the link address and jumps by a signed word offset. -/
  | jal (d : GReg) (o : BitVec 21)
  /-- JALR (R269). Writes the link address and jumps to a register plus offset. -/
  | jalr (d a : GReg) (i : BitVec 17)
  /-- LD (R277). Loads a byte to line at its home, or forwards it from the store buffer. -/
  | ld (m : LdMode) (r b : GReg) (i : BitVec 14)
  /-- ST (R278). Buffers a store of a register or line for departure to its home. -/
  | st (m : StMode) (r b : GReg) (i : BitVec 14)
  /-- ST_IMM (R278). Buffers a store of a small immediate value. -/
  | stImm (m : StiMode) (v : BitVec 4) (b : GReg) (i : BitVec 14)
  /-- LDR (R279). Loads a word with an acquire at its home's scope. -/
  | ldr (r b : GReg) (i : BitVec 14)
  /-- LDFF (R280). Waits for a word to be full and reads it, leaving it full. -/
  | ldff (r b : GReg) (i : BitVec 14)
  /-- LDFE (R280). Waits for a word to be full, reads it and sets it empty. -/
  | ldfe (r b : GReg) (i : BitVec 14)
  /-- STEF (R281). Waits for a word to be empty, writes a register and sets it full. -/
  | stef (r b : GReg) (i : BitVec 14)
  /-- STEF_IMM (R281). Waits for a word to be empty, writes an immediate and sets it full. -/
  | stefImm (v : BitVec 4) (b : GReg) (i : BitVec 14)
  /-- STFF (R281). Writes a register into a word and sets it full without waiting. -/
  | stff (r b : GReg) (i : BitVec 14)
  /-- STFF_IMM (R281). Writes an immediate into a word and sets it full without waiting. -/
  | stffImm (v : BitVec 4) (b : GReg) (i : BitVec 14)
  /-- LRW (R282). Joins the word's reservation queue and reads it on reaching the head. -/
  | lrw (r b : GReg) (i : BitVec 14)
  /-- SCW (R283). Writes a reserved word, hands the reservation on and returns a status. -/
  | scw (r b : GReg) (i : BitVec 14)
  /-- MIGR (R292). Drains and moves the thread to the home brick of an address. -/
  | migr (b : GReg) (i : BitVec 14)
  /-- PREF_HBM (R289). Starts a copy of HBM lines into the own bank bound to a barrier. -/
  | prefHbm (r b : GReg) (i : BitVec 14)
  /-- PREF_WAKE (R290). Starts waking the sleeping memory that a byte range touches. -/
  | prefWake (r b : GReg) (i : BitVec 14)
  /-- WREL (R80). Drains, then atomically increments a window's generation word and returns it. -/
  | wrel (r b : GReg) (i : BitVec 14)
  /-- WACQ (R81). Reads a window's generation word with a sys-scope acquire. -/
  | wacq (r b : GReg) (i : BitVec 14)
  /-- RBRD (R183). Queues a request to board an own-bank line onto the course ring. -/
  | rbrd (r b : GReg) (i : BitVec 14)
  /-- RALT (R185). Queues a request to alight a ring line back to its home. -/
  | ralt (r b : GReg) (i : BitVec 14)
  /-- RCAP (R294). Queues a capture of a word or line of a ring slot. -/
  | rcap (m : RingForm) (r b : GReg) (i : BitVec 14)
  /-- RPUT (R294). Queues a put of a register word or line into a ring slot and continues. -/
  | rput (m : RingForm) (r b : GReg) (i : BitVec 14)
  /-- RPUT_IMM (R294). Queues a put of a small immediate into a ring word. -/
  | rputImm (v : BitVec 4) (b : GReg) (i : BitVec 14)
  /-- RADD (R294). Queues an indivisible add to a ring word that returns the old value. -/
  | radd (r b : GReg) (i : BitVec 14)
  /-- RWAIT (R296). Queues a wait until a ring word meets a condition against a comparand. -/
  | rwait (c : RwCond) (r b : GReg) (i : BitVec 14)
  /-- ITER (R299). Claims the next chunk of a nest descriptor in memory at its home atomic unit. -/
  | iter (b : GReg) (i : BitVec 14)
  /-- ITER_RING (R299). Queues a claim on a ring-resident nest descriptor. -/
  | iterRing (b : GReg) (i : BitVec 14)
  /-- NEST (R298). Builds a nest descriptor from three registers and stores it as a line. -/
  | nest (r b : GReg) (i : BitVec 14)
  /-- NEST_RING (R298). Builds a nest descriptor in an own-bank line and boards it. -/
  | nestRing (r b : GReg) (i : BitVec 14)
  /-- AMO (R285). Performs an indivisible read-modify-write at the home and returns the old value. -/
  | amo (o : AmoOp) (sz : AmoSize) (d a b c : GReg)
  /-- RUPD (R286). Sends a remote update to the home and continues, counted in ACKCNT. -/
  | rupd (o : RmwOp) (sz : AmoSize) (a b : GReg)
  /-- FENCE_DIE (R288). Waits for the store buffer to empty and acts as acquire and release. -/
  | fenceDie
  /-- FENCE_PKG (R288). Waits for the store buffer to empty and ACKCNT to reach zero. -/
  | fencePkg
  /-- FENCE_SYS (R288). Waits as FENCE.pkg and empties the brick's instruction cache. -/
  | fenceSys
  /-- RSYNC (R297). Parks until the slot's ring queue is empty. -/
  | rsync
  /-- MQDQ (R303). Takes the oldest inbox entry, parking while the inbox is empty. -/
  | mqdq (d : GReg)
  /-- QUIT (R305). Drains and ends the thread, freeing its slot. -/
  | quit
  /-- SPAWN (R304). Drains and requests placement of a new thread, parking for the result word. -/
  | spawn (d a b : GReg)
  /-- BINIT (R300). Initialises a barrier of the issuing brick with a target count. -/
  | binit (a : GReg) (n : BitVec 7)
  /-- BARR (R301). Releases and sends one arrival to a barrier of a named brick. -/
  | barr (a : GReg) (n : BitVec 7)
  /-- BWAIT (R302). Waits until a barrier's phase differs from the expected one and returns ERR and PHASE. -/
  | bwait (d : GReg) (n : BitVec 7)
  /-- WADD (R309). Adds two wide registers lane by lane. -/
  | wadd (f : Elt) (d a b : WReg)
  /-- WSUB (R309). Subtracts two wide registers lane by lane. -/
  | wsub (f : Elt) (d a b : WReg)
  /-- WMUL (R309). Multiplies two wide registers lane by lane. -/
  | wmul (f : Elt) (d a b : WReg)
  /-- WMIN (R309). Takes the lesser lane of two wide registers. -/
  | wmin (f : Elt) (d a b : WReg)
  /-- WMAX (R309). Takes the greater lane of two wide registers. -/
  | wmax (f : Elt) (d a b : WReg)
  /-- WAND (R309). ANDs two wide registers bitwise. -/
  | wand (f : Elt) (d a b : WReg)
  /-- WOR (R309). ORs two wide registers bitwise. -/
  | wor (f : Elt) (d a b : WReg)
  /-- WXOR (R309). XORs two wide registers bitwise. -/
  | wxor (f : Elt) (d a b : WReg)
  /-- WSHL (R309). Shifts integer lanes left by per-lane counts. -/
  | wshl (f : Elt) (d a b : WReg)
  /-- WSHR (R309). Shifts integer lanes right logically by per-lane counts. -/
  | wshr (f : Elt) (d a b : WReg)
  /-- WSRA (R309). Shifts integer lanes right arithmetically by per-lane counts. -/
  | wsra (f : Elt) (d a b : WReg)
  /-- WADD_SAT (R309). Adds integer lanes with saturation. -/
  | waddSat (f : Elt) (d a b : WReg)
  /-- WSUB_SAT (R309). Subtracts integer lanes with saturation. -/
  | wsubSat (f : Elt) (d a b : WReg)
  /-- WABS (R309). Takes the absolute value of each lane. -/
  | wabs (f : Elt) (d a : WReg)
  /-- WFMA (R310). Computes a fused multiply-add in each floating lane. -/
  | wfma (f : Elt) (d a b c : WReg)
  /-- WFMS (R310). Computes a fused multiply-subtract in each floating lane. -/
  | wfms (f : Elt) (d a b c : WReg)
  /-- WFNMA (R310). Computes a negated fused multiply-add in each floating lane. -/
  | wfnma (f : Elt) (d a b c : WReg)
  /-- WFNMS (R310). Computes a negated fused multiply-subtract in each floating lane. -/
  | wfnms (f : Elt) (d a b c : WReg)
  /-- WCEQ (R311). Sets each lane to all ones where lanes are equal. -/
  | wceq (f : Elt) (d a b : WReg)
  /-- WCNE (R311). Sets each lane to all ones where lanes differ. -/
  | wcne (f : Elt) (d a b : WReg)
  /-- WCLT (R311). Sets each lane to all ones where the first lane is less. -/
  | wclt (f : Elt) (d a b : WReg)
  /-- WCLE (R311). Sets each lane to all ones where the first lane is less or equal. -/
  | wcle (f : Elt) (d a b : WReg)
  /-- WSEL (R311). Selects lanes of two wide registers by a mask register. -/
  | wsel (f : Elt) (d a b c : WReg)
  /-- WPERM (R312). Permutes the lanes of a wide register by index lanes. -/
  | wperm (f : Elt) (d a b : WReg)
  /-- WBCST (R312). Broadcasts the low bits of a g register into every lane. -/
  | wbcst (f : Elt) (d : WReg) (g : GReg)
  /-- WMOV (R312). Copies one wide register into another. -/
  | wmov (f : Elt) (d a : WReg)
  /-- WSIG (R313). Computes the correctly rounded sigmoid of each floating lane. -/
  | wsig (f : Elt) (d a : WReg)
  /-- WEXP (R313). Computes the correctly rounded exponential of each floating lane. -/
  | wexp (f : Elt) (d a : WReg)
  /-- WRCP (R313). Computes the correctly rounded reciprocal of each floating lane. -/
  | wrcp (f : Elt) (d a : WReg)
  /-- WRSQ (R313). Computes the correctly rounded reciprocal square root of each lane. -/
  | wrsq (f : Elt) (d a : WReg)
  /-- WTANH (R313). Computes the correctly rounded hyperbolic tangent of each lane. -/
  | wtanh (f : Elt) (d a : WReg)
  /-- WLOG (R313). Computes the correctly rounded natural logarithm of each lane. -/
  | wlog (f : Elt) (d a : WReg)
  /-- WDOT (R314). Accumulates packed integer dot products into 32- or 64-bit lanes. -/
  | wdot (f : DotLane) (sat : Bool) (p : Pairing) (d a b c : WReg)
  /-- WRED_SUM (R315). Sums every lane of a wide register into a g register. -/
  | wredSum (f : Elt) (g : GReg) (a : WReg)
  /-- WRED_MIN (R315). Writes the least lane of a wide register into a g register. -/
  | wredMin (f : Elt) (g : GReg) (a : WReg)
  /-- WRED_MAX (R315). Writes the greatest lane of a wide register into a g register. -/
  | wredMax (f : Elt) (g : GReg) (a : WReg)
  /-- WCVT (R318). Converts elements between a pivot format and another format without scales. -/
  | wcvt (toPivot : Bool) (pv : Pivot) (f : Fmt) (sat : Bool) (r : Rnd) (d a : WReg)
  /-- WCVT_SCALED (R318). Converts elements with block scales taken from a g register. -/
  | wcvtScaled (toPivot : Bool) (pv : Pivot) (f : Fmt) (sat : Bool) (r : Rnd) (d a : WReg) (g : GReg)
  /-- ZLD (R324). Loads one line into a z register. -/
  | zld (z : ZReg) (g : GReg) (i : BitVec 11)
  /-- ZST (R324). Buffers a line store of a z register. -/
  | zst (z : ZReg) (g : GReg) (i : BitVec 11)
  /-- ZSET (R325). Replaces one word of a z register with a g register. -/
  | zset (z : ZReg) (g : GReg) (k : BitVec 3)
  /-- ZGET (R325). Copies one word of a z register into a g register. -/
  | zget (z : ZReg) (g : GReg) (k : BitVec 3)
  /-- SBIND (R320). Binds or unbinds a stream port from a descriptor in a z register. -/
  | sbind (z : ZReg) (p : Fin 3)
  /-- HIRE (R330). Drains and sends one hod to the kiln yard on a lane, taking a ticket. -/
  | hire (t : GReg) (z : ZReg) (l : BitVec 3)
  /-- HIRET (R330). Drains and sends a train of up to eight hods as one lane entry. -/
  | hiret (t : GReg) (z : ZReg) (n l : BitVec 3)
  /-- PLSE (R333). Leases a pallet of a named kiln and returns its handle. -/
  | plse (d a : GReg)
  /-- PCFG (R334). Sets or removes a region of a leased pallet. -/
  | pcfg (a b : GReg) (r : BitVec 2)
  /-- PWR_R (R335). Writes sixteen FP32 elements along a row of a pallet region. -/
  | pwrR (a b : GReg) (r : BitVec 2) (w : WReg)
  /-- PWR_C (R335). Writes sixteen FP32 elements along a column of a pallet region. -/
  | pwrC (a b : GReg) (r : BitVec 2) (w : WReg)
  /-- PRD_R (R335). Reads sixteen FP32 elements along a row of a pallet region. -/
  | prdR (a b : GReg) (r : BitVec 2) (w : WReg)
  /-- PRD_C (R335). Reads sixteen FP32 elements along a column of a pallet region. -/
  | prdC (a b : GReg) (r : BitVec 2) (w : WReg)
  /-- PCPY (R336). Copies one pallet region into another of equal shape. -/
  | pcpy (a b : GReg) (sr er : BitVec 2)
  /-- PFREE (R337). Marks a lease as being freed and frees it once every naming entry has landed. -/
  | pfree (a : GReg)
  /-- CPY (R341). Drains and sends a strided copy command to a copy engine. -/
  | cpy (t a b c : GReg)
  /-- GATH (R341). Drains and sends an indexed gather command to a copy engine. -/
  | gath (t a b c : GReg)
  /-- SCAT (R341). Drains and sends an indexed scatter command to a copy engine. -/
  | scat (t a b c : GReg)
  /-- COLL (R344). Drains and sends one member's contribution to a collective engine. -/
  | coll (t a b c : GReg)
  /-- CRD (R348). Reads a control register into a g register. -/
  | crd (d : GReg) (c : CReg)
  /-- CWR (R348). Writes a control register that has no behaviour of its own. -/
  | cwr (g : GReg) (c : CReg)
  /-- CWR_XVEC (R349). Sets the partition's handler entry on every brick, once at task level. -/
  | cwrXvec (g : GReg)
  /-- CWR_XFRAME (R164). Clears XFRAME.ACTIVE to abandon a suspended repeat frame. -/
  | cwrXframe (g : GReg)
  /-- CWR_SPACEID (R348). Drains and switches the slot's translation space. -/
  | cwrSpaceid (g : GReg)
  /-- CWR_BWPHASE (R138). Sets the partition's bandwidth phases, parking until raised memory is awake. -/
  | cwrBwphase (g : GReg)
  /-- CWR_BANKMAP (R135). Allocates or releases the partition's sub-banks on the brick. -/
  | cwrBankmap (g : GReg)
  /-- CWR_SINV (R131). Invalidates guest-stage translations at every quoin, parking until complete. -/
  | cwrSinv (g : GReg)
  /-- TRAP (R352). Raises the system-call trap with a number. -/
  | trap (n : BitVec 12)
  /-- XRET (R353). Returns from handler level to XPC or the suspended frame. -/
  | xret
  /-- HALT (R355). Parks the slot until DEVTIME reaches WAKEAT or the inbox holds an entry. -/
  | halt
  /-- BKPT (R354). Raises the breakpoint trap, halting the context when a debugger is attached. -/
  | bkpt (c : BitVec 12)
  /-- SAVE (R356). Writes the slot's whole context into a 4 KiB image. -/
  | save (a : GReg)
  /-- RESTORE (R357). Replaces the slot's context from a well-formed image. -/
  | restore (a : GReg)
  /-- HLOC (R358). Reports where an address is served without accessing data. -/
  | hloc (d s : GReg)
  /-- ISLAND_START (R18). The next pending island starts powering up at least 5 µs after the previous. -/
  | islandStart (isl : Nat)
  /-- ISLAND_READY (R18). An island becomes ready 20 µs after its start. -/
  | islandReady (isl : Nat)
  /-- KILN_ENABLE (R19). A kiln of a ready island enables 32 cycles after the previous one. -/
  | kilnEnable (k : Nat)
  /-- ISLAND_LEAVE_HOLD (R14). A brick island returns to RUN after an event makes a slot ready. -/
  | islandLeaveHold (isl : Nat)
  /-- KILN_POINT_SWITCH (R15). Once running hires end the island switches point and grants resume. -/
  | kilnPointSwitch (k : Nat)
  /-- HEALTH_REPORT (R28). Nerem sends its health report to Chaestend. -/
  | healthReport
  /-- QUEUE_LIVE_CLEAR (R43). Nerem clears LIVE once no device write to the area remains outstanding. -/
  | queueLiveClear (f : Nat)
  /-- QUEUE_POLL (R46). Nerem reads the expected request header and takes a present request. -/
  | queuePoll (f : Nat)
  /-- NOP (R47). Host request answered with status done. -/
  | nop (f id : Nat)
  /-- VDDESTROY (R41). Starts destruction of a virtual device: disables queues and discards queued work. -/
  | vddestroy (f id : Nat)
  /-- VDDESTROY_DRAINED (R41). After the drain, removes windows, frees pallets and barriers, erases the key and zeros sub-banks. -/
  | vddestroyDrained (vd : Nat)
  /-- LOAD (R48). Copies host memory into the device's V-space or IPA space. -/
  | load (f id : Nat) (ws : Backing)
  /-- FETCH (R48). Copies device V-space or IPA space into host memory. -/
  | fetch (f id : Nat) (ws : Backing)
  /-- LAUNCH (R89). Validates a region tree and starts its root thread. -/
  | launch (f id : Nat) (ws : Backing)
  /-- LAUNCH_RESPONSE (R90). When every region's live count is zero, the LAUNCH response is written. -/
  | launchResponse (vd : Nat)
  /-- CANCEL (R376). Ends every thread of a region and its subtree. -/
  | cancel (f id : Nat)
  /-- CANCEL_DONE (R376). Answers the CANCEL once each ended thread has been freed. -/
  | cancelDone (f id : Nat)
  /-- INFO (R48). Returns one set of eight counters. -/
  | info (f id : Nat)
  /-- STEERSET_RULE (R49). Writes one steering rule. -/
  | steersetRule (f id : Nat)
  /-- STEERSET_QUEUE (R51). Writes one steering queue descriptor, enabling it when EN rises. -/
  | steersetQueue (f id : Nat)
  /-- UPDATE_HANDOFF (R56). After system-core requests complete, writes the handoff block and starts the new image. -/
  | updateHandoff
  /-- UPDATE_HEALTH_REPORT (R56). The new image's health report makes its slot active. -/
  | updateHealthReport
  /-- UPDATE_FALLBACK (R57). No health report within 200 ms restarts the old image and marks the new slot failed. -/
  | updateFallback
  /-- UNKNOWN_REQUEST (R47). A request with an unassigned OP is answered with status 0x01. -/
  | unknownRequest (f id : Nat)
  /-- REKEY_DRAINED (R82). After accepted requests drain, writes the new key and starts re-encryption. -/
  | rekeyDrained (w : Nat)
  /-- REKEY_CLOSE (R82). After re-encryption, applies the new list, zeros the old key and adds 2^32 to GEN. -/
  | rekeyClose (w : Nat)
  /-- DEBUG_HALT_TAKES_EFFECT (R59). At an instruction boundary the context is saved and its slot freed. -/
  | debugHaltTakesEffect (b n : Nat)
  /-- SUBBANK_WAKE_DONE (R21). A waking sub-bank can serve, releasing stalled accesses in order. -/
  | subbankWakeDone (b sb : Nat)
  /-- SUBBANK_POWER_UP_DONE (R135). A newly allocated sub-bank finishes powering up with zero contents. -/
  | subbankPowerUpDone (b sb : Nat)
  /-- PCH_WAKE_DONE (R21). A waking pseudo-channel can serve, releasing stalled accesses in order. -/
  | pchWakeDone (p : Nat)
  /-- STORE_DEPART (R153). A store-buffer entry departs to its destination once its departure test holds. -/
  | storeDepart (ctx : Nat)
  /-- STORE_AT_HOME (R154). A store is performed at its home and acknowledged. -/
  | storeAtHome (id : Nat) (r : Media)
  /-- LOAD_AT_HOME (R143). A remote read is performed at its home after the integrity checks. -/
  | loadAtHome (ctx : Nat) (r : Media)
  /-- ATOMIC_AT_HOME (R285). An atomic or remote update is performed indivisibly at the home atomic unit. -/
  | atomicAtHome (id : Nat) (r : Media)
  /-- FULL_EMPTY_AT_HOME (R281). A full/empty access tests and updates a word at its home, serving waiters in order. -/
  | fullEmptyAtHome (ctx : Nat) (r : Media)
  /-- RESERVATION_AT_HOME (R282). A reservation request joins or heads the word's FIFO queue. -/
  | reservationAtHome (ctx : Nat) (r : Media)
  /-- ACK_ARRIVE (R145). An acknowledgement frees a store-buffer entry or decreases ACKCNT. -/
  | ackArrive (id : Nat)
  /-- REPLY_ARRIVE (R98). A reply completes the parked instruction and makes its slot ready. -/
  | replyArrive (ctx : Nat)
  /-- FAULT_HANDLER_PLACE (R115). Nerem places a handler thread for a written notice or ends the domain. -/
  | faultHandlerPlace (vd : Nat)
  /-- INVALIDATE_COMPLETE (R131). All 96 quoins have completed an invalidation and fetch caches empty. -/
  | invalidateComplete (id : Nat)
  /-- RESERVATION_TIMEOUT (R284). A reservation held 32,768 cycles is handed on unwritten. -/
  | reservationTimeout (g : Nat)
  /-- HALT_WAKE (R355). DEVTIME reaching WAKEAT ends a HALT. -/
  | haltWake (b n : Nat)
  /-- SPAWN_PLACE (R94). A spawn request is placed, queued or refused at the target brick. -/
  | spawnPlace (id : Nat)
  /-- MIGRATION_ARRIVE (R173). A migrating context takes a free slot or waits in the arrival queue. -/
  | migrationArrive (id : Nat) (r : Media)
  /-- ARRIVAL_SPILL (R173). An arrival waiting 256 rotations is spilled to the arrival spill area. -/
  | arrivalSpill (b vd : Nat)
  /-- GANG_SWITCH (R110). At the stamp each outgoing slot stops at its stop turn and is saved. -/
  | gangSwitch (id : Nat)
  /-- SLOT_HANDOVER (R110). Once a slot's save ends, the incoming context is restored into it. -/
  | slotHandover (b n : Nat)
  /-- ENTRY_AGE (R104). A yard entry eligible for YAGE resident cycles becomes aged. -/
  | entryAge (die : Nat)
  /-- GRANT (R103). The yard grants a free kiln to the chosen eligible lane entry. -/
  | grant (die k : Nat)
  /-- HOD_START (R208). A hod begins its work at its offset once its operands are staged. -/
  | hodStart (id : Nat)
  /-- HOD_END (R200). A hod finishes its scheduled work and begins landing. -/
  | hodEnd (id : Nat)
  /-- HOD_COMPLETE (R211). After its last write is acknowledged a hod sends its completion message. -/
  | hodComplete (id : Nat)
  /-- INBOX_ENTRY_ARRIVE (R166). A completion or notice enters the inbox or its overflow area. -/
  | inboxEntryArrive (id : Nat)
  /-- ENGINE_COMMAND_START (R341). An engine starts its next command and moves its lines. -/
  | engineCommandStart (id : Nat)
  /-- ENGINE_COMPLETE (R342). After its writes are acknowledged an engine command posts its completion. -/
  | engineComplete (id : Nat)
  /-- COLL_ARRIVE (R344). A member's contribution joins or opens a collective instance. -/
  | collArrive (id : Nat)
  /-- COLL_PATIENCE_EXPIRY (R346). An incomplete instance after PATIENCE µs sends stall notices. -/
  | collPatienceExpiry (id : Nat)
  /-- PREF_COMPLETE (R289). A finished prefetch makes its barrier arrival. -/
  | prefComplete (id : Nat)
  /-- BARRIER_ARRIVAL (R168). An arrival is counted at a barrier or its saved image. -/
  | barrierArrival (id : Nat)
  /-- RING_MISS (R191). An entry unmatched for 512 cycles traps or drops its put. -/
  | ringMiss (ctx : Nat)
  /-- ILLEGAL_INSTRUCTION (R246). A slot that would execute an unassigned instruction word raises the illegal-instruction trap with the word in XVAL. -/
  | illegalInstruction (w : IWord)
  /-- FETCH_FAULT (R229). A fetch at a misaligned, out-of-range or guest-faulting address raises the fetch fault at the fetch address. -/
  | fetchFault
  /-- SPARE_LINE_REMAP_DONE (R33). The copy of a lasting SRAM granule to a spare line ends and the stalled accesses resume. -/
  | spareLineRemapDone (b sb g : Nat)
  /-- SPARE_ROW_REPAIR_DONE (R34). The spare-row repair of an HBM row ends and the accesses stalled on that row resume. -/
  | spareRowRepairDone (g : Nat)
  /-- MAJOR_ROLLOVER_DONE (R66). The re-encryption of a block after its MAJOR counter increases ends and the block's stalled accesses resume. -/
  | majorRolloverDone (blk : Nat)
  /-- COLD_RESET (R22). Power applied or PERST# asserted wipes the device and restarts at the boot ROM. -/
  | coldReset
  /-- DRST_GO (R31). A host write of GO to DRST causes a host reset in any boot stage. -/
  | drstGo
  /-- PF_FUNCTION_LEVEL_RESET (R22). A function-level reset of the PF causes a host reset. -/
  | pfFunctionLevelReset
  /-- VF_FUNCTION_LEVEL_RESET (R43). A function-level reset of a VF clears its queue enable only. -/
  | vfFunctionLevelReset (f : Nat)
  /-- THERMAL_TRIP (R17). A junction temperature of 115 °C causes a thermal-trip reset. -/
  | thermalTrip
  /-- THERMAL_HOLD (R17). A junction temperature of 105 °C holds every kiln island of the die at K10. -/
  | thermalHold (die : Nat)
  /-- WATCHDOG_RESET (R28). A missed 60 s health report causes a reset and marks a trial slot failed. -/
  | watchdogReset
  /-- LIFE_CYCLE_CHANGE (R25). A forward life-cycle change refuses keys, blows fuses, erases NVMe and resets. -/
  | lifeCycleChange (lcs : LifeChange)
  /-- RCMD_GO (R30). In recovery, verifies the recovery buffer and installs it as slot A with a reset. -/
  | rcmdGo (v : Word)
  /-- ISLAND_ENTER_HOLD (R14). A brick island with no ready slot enters HOLD. -/
  | islandEnterHold (isl : Nat)
  /-- ISLAND_ENTER_OFF (R14). A brick island with no resident slot or allocated sub-bank turns off. -/
  | islandEnterOff (isl : Nat)
  /-- POWER_SAMPLE (R16). Every 10 µs the power controller samples module power and adjusts kiln points. -/
  | powerSample (mw : Nat)
  /-- QCTL_ENABLE (R43). Setting QCTL.EN starts service of the function's queue area. -/
  | qctlEnable (f : Nat)
  /-- QCTL_DISABLE (R43). Clearing QCTL.EN stops reading the area and drops pending responses. -/
  | qctlDisable (f : Nat)
  /-- HOST_REGISTER_WRITE (R43). A host write to QBASE or QCTL.LOG2N, refused while enabled or out of range. -/
  | hostRegisterWrite (f : Nat) (r : HostReg) (v : Word)
  /-- VDCREATE (R39). Creates a virtual device with its resources and key. -/
  | vdcreate (f id : Nat) (place : DevicePlace) (ws : List TableWrite)
  /-- UPDATE (R56). Verifies the inactive image and begins a hitless update. -/
  | update (f id : Nat)
  /-- VDKEY (R85). Chaestend generates a virtual device's key. -/
  | vdkey (vd : Nat)
  /-- VDERASE (R74). Chaestend erases a device key and clears its units. -/
  | vderase (vd : Nat)
  /-- WINOPEN (R77). Creates a window with a fresh key, cleared units and a member list. -/
  | winopen (w : Nat) (units : List Nat) (ms : List WinMember) (creator : Nat)
  /-- WINMEMBERS (R82). Starts a window re-key by fencing removed or lowered members. -/
  | winmembers (w : Nat) (ms : List WinMember)
  /-- WINCLOSE (R82). Erases a window's key and sets it CLOSED. -/
  | winclose (w : Nat)
  /-- ATTEST (R86). Builds and signs an attestation report for a virtual device. -/
  | attest (vd nonce : Nat)
  /-- SPDM_GET_MEASUREMENTS (R86). A function returns its signed measurement blocks. -/
  | spdmGetMeasurements (f : Nat)
  /-- DEBUG_LIST (R58). Lists every context of an attached device. -/
  | debugList (vd : Nat)
  /-- DEBUG_HALT (R59). Requests a halt of one context or all contexts of a device. -/
  | debugHalt (vd : Nat) (c : Option Nat)
  /-- DEBUG_READ (R58). Reads a saved context image or device memory. -/
  | debugRead (vd : Nat) (t : DebugTarget)
  /-- DEBUG_WRITE (R58). Writes a saved context image or device memory, emptying instruction caches. -/
  | debugWrite (vd : Nat) (t : DebugTarget) (v : Word)
  /-- DEBUG_STEP (R58). Resumes a halted context for one instruction, then halts it. -/
  | debugStep (vd c : Nat)
  /-- DEBUG_RESUME (R59). Returns a halted context to a free slot of its device. -/
  | debugResume (vd c : Nat)
  /-- HASHMASK_WRITE (R123). Nerem writes a stack's hash masks, refused per quarter with an owned unit. -/
  | hashmaskWrite (stack : Nat) (v : Word)
  /-- HYP_INVALIDATE (R130). Nerem invalidates hypervisor-stage translations through its controller port. -/
  | hypInvalidate (vd : Nat) (v : HypInval)
  /-- FRAME_ACCEPT (R53). A frame with valid FCS is steered and written into its queue entry or dropped. -/
  | frameAccept (port : Nat) (bytes : List Byte)
  /-- FRAME_DROP_AT_PORT (R50). A frame with FCS error, runt or oversize is dropped and counted at the port. -/
  | frameDropAtPort (port : Nat) (why : PortDrop)
  /-- PTP_EVENT_MESSAGE (R38). A PTP event message is taken by the PTP unit to discipline device time. -/
  | ptpEventMessage (port : Nat) (corr : Int)
  /-- PPS_INPUT (R38). A pulse on the PPS input disciplines device time. -/
  | ppsInput (corr : Int)
  /-- FLIT_RECEIVE (R37). A Birtil flit is taken whole, checked and delivered in order per channel. -/
  | flitReceive (port : Nat) (bytes : List Byte)
  /-- RETRAIN_COMPLETE (R37). A port retrain ends in success or failure. -/
  | retrainComplete (port : Nat) (ok : Bool)
  /-- PATROL_SCRUB (R32). The patrol scrubber reads and corrects a granule on its periodic pass. -/
  | patrolScrub (g : Nat) (r : EccResult)
  /-- SUBBANK_WITHDRAW (R33). A sub-bank without spares is withdrawn as unavailable after migration. -/
  | subbankWithdraw (b sb : Nat)
  /-- CHANNEL_REBUILD_COMPLETE (R124). Every granule of the stack has moved to its 62-way place. -/
  | channelRebuildComplete (stack : Nat)
  /-- SUBBANK_RETENTION (R136). An allocated sub-bank idle for 64 µs enters retention. -/
  | subbankRetention (b sb : Nat)
  /-- PCH_POWER_DOWN (R137). An idle pseudo-channel enters power-down on its phase timer. -/
  | pchPowerDown (p : Nat)
  /-- PCH_SELF_REFRESH (R137). An idle pseudo-channel enters self-refresh on its phase timer. -/
  | pchSelfRefresh (p : Nat)
  /-- DEMAND_FAULT_RETRY (R132). Nerem's RETRY retranslates the held request. -/
  | demandFaultRetry (id : Nat) (ws : List TableWrite)
  /-- DEMAND_FAULT_LONG (R132). Nerem's LONG saves a parked slot and frees it until the page is present. -/
  | demandFaultLong (id : Nat)
  /-- DEMAND_FAULT_FATAL (R132). Nerem's FATAL delivers the context with the hypervisor fault. -/
  | demandFaultFatal (id : Nat)
  /-- PAGE_PRESENT (R132). After LONG, the page is present and the context or held request is re-injected. -/
  | pagePresent (id : Nat) (ws : List TableWrite)
  /-- GANG_SWITCH_ARM (R110). Nerem arms a switch record with outgoing and incoming VDIDs and a stamp. -/
  | gangSwitchArm (out inc : Option Nat) (t : Nat)
  /-- RING_STOW (R189). An outgoing partition's ring slot is written back at HOME and its line STOWED. -/
  | ringStow (ring idx : Nat)
  /-- RING_REBOARD (R190). A STOWED line boards again on the first free ring slot after resume. -/
  | ringReboard (b line : Nat)
  /-- RING_BOARD_APPLY (R183). A boarding entry is decided and a line copied onto a free ring slot. -/
  | ringBoardApply (b n : Nat)
  /-- RING_CAPTURE_APPLY (R186). A capture entry reads the matching ring slot as it passes. -/
  | ringCaptureApply (b n : Nat)
  /-- RING_PUT_APPLY (R186). A put entry writes the matching ring slot as it passes. -/
  | ringPutApply (b n : Nat)
  /-- RING_ADD_APPLY (R182). An add entry indivisibly updates a ring word and returns the old value. -/
  | ringAddApply (b n : Nat)
  /-- RING_WAIT_APPLY (R296). A wait entry tests the passing ring word and leaves when satisfied. -/
  | ringWaitApply (b n : Nat)
  /-- RING_CLAIM_APPLY (R100). A claim entry performs the nest claim on the passing ring slot. -/
  | ringClaimApply (b n : Nat)
  /-- RING_ALIGHT_MATCH (R185). An alight entry matches its ring slot and sets ALTPEND. -/
  | ringAlightMatch (b n : Nat)
  /-- RING_ALIGHT_WRITEBACK (R364). At HOME the payload is written back, the line freed and RALT completed. -/
  | ringAlightWriteback (ring idx : Nat)
  /-- RING_SLOT_ERROR (R191). An uncorrectable error in a ring slot poisons or frees it. -/
  | ringSlotError (ring idx : Nat) (e : SlotError)
  /-- DEBUG_ATTACH (R58). Chaestend authenticates a requester in an SPDM secured session and attaches the debug server to a virtual device created with DBG = 1. -/
  | debugAttach (who : Requester)
  /-- DEBUG_DETACH (R354). The debug session ends, so that a later BKPT enters XVEC instead of halting the context. -/
  | debugDetach (vd : Nat)
  /-- RING_LOCK_CLEAR (R191). After a header error freed its ring slot, Nerem clears the lock of the home line. -/
  | ringLockClear (b line : Nat)
  deriving DecidableEq, Repr

end Sys2Proof
end

