-- ==== Sys2Proof/Machine/State.lean ====
section
/-!
DEFINITION. The state of the LMB-4820 as plain data: slots, bricks, memories, translation, kilns, ring, engines, keys, power, boot, host queues and links; and the state right after reset.
-/
namespace Sys2Proof.Machine

/-- A finite map: pairs of key and value, keys strictly rising. -/
abbrev KMap (α : Type) := List (Nat × α)
/-- A finite set of numbers, strictly rising. -/
abbrev NSet := List Nat

/-! ### Addresses -/

/-- Where a translated address is served (Table 5.2). -/
inductive Place
  | sram (brick off : Nat)
  | hbm (pa : Nat)
  | host (a : Nat)
  | peer (port a : Nat)
  deriving DecidableEq, Repr

/-- Scope of a location relative to a slot (R120). -/
inductive Scope
  | die | pkg | sys
  deriving DecidableEq, Repr

/-- Level of a slot (R148). -/
inductive Level
  | task | handler
  deriving DecidableEq, Repr

/-- Kinds of access that translation checks (R128); `rw` is both. -/
inductive Access
  | read | write | rw | exec
  deriving DecidableEq, Repr

/-! ### What a slot holds (R147, Table 6.1) -/

/-- The repeat frame: XFRAME (Table 6.6) and the 16 words of the capture buffer. `running` tells a frame that runs from one that a trap suspended; both have ACTIVE 1. `base` is the address of the first body word. -/
structure Frame where
  active : Bool
  running : Bool
  base : Word
  iter : Nat
  pos : Nat
  lenm1 : Nat
  cntm1 : Nat
  stag : Nat
  body : List IWord
  deriving DecidableEq, Repr

/-- A stream port (Table 6.3); `ahead` holds the lines read ahead with their addresses, `asked` the addresses of the lines whose loads have been sent and wait at memory that cannot serve them yet (R159, R21). -/
structure Port where
  bound : Bool
  queueFed : Bool
  addr : Word
  stride : BitVec 32
  rem : BitVec 40
  ahead : List (Nat × Line)
  asked : List Nat
  deriving DecidableEq, Repr

/-- An inbox entry (Table 6.7): word 0 and VALUE. -/
structure InboxEntry where
  word0 : Word
  value : Word
  deriving DecidableEq, Repr

/-- A store-buffer entry (R151, R152). `id` also numbers its message once it has departed; `place` and `win` are what translation gave (none before it), `home` the destination brick to which it has departed; `demand` is the demand fault that holds it (R133). -/
structure SbEntry where
  id : Nat
  ea : Word
  size : Nat
  data : Line
  level : Level
  space : BitVec 12
  place : Option Place
  win : Nat
  home : Option Nat
  departed : Bool
  demand : Option Nat
  deriving DecidableEq, Repr

/-- Operations in a ring queue (Table 7.2). `set` tells whether an alight that has matched set ALTPEND. -/
inductive RingOp
  | board (nest : Option Line)
  | capture (form : RingForm)
  | put (form : RingForm) (v : Line)
  | add (v : Word)
  | wait (c : RwCond) (v : Word)
  | claim
  | alight (set : Bool)
  deriving DecidableEq, Repr

/-- An entry of a ring queue (R180): the home line, the word, the register and the ring cycle in which it became eligible. -/
structure RingEntry where
  op : RingOp
  ea : Word
  brick : Nat
  line : Nat
  word : Nat
  reg : Nat
  since : Nat
  matched : Bool
  deriving DecidableEq, Repr

/-- A configured region of a lease (Table 15.6). -/
structure PalletRegion where
  row0 : Nat
  col0 : Nat
  rows : Nat
  cols : Nat
  deriving DecidableEq, Repr

/-- What a parked slot has sent to a home, or to a kiln: a pallet instruction takes the regions that it has checked with it (R332). `wrel`, `wacq` and `descr` are the accesses of WREL, WACQ and an engine command's descriptor that wait for a wake (Table 4.12). -/
inductive ReqKind
  | ld (m : LdMode) | zld | ldr | ldff | ldfe | stef | stff | lrw | scw
  | amo (o : AmoOp) (sz : AmoSize) | iter | spawn | barr | ringWord | ringLine | ringClaim | pfree
  | wrel | wacq | descr
  | pcfg (r : Nat)
  | pwr (g : PalletRegion) (byRow : Bool) (i j : Nat) (v : Line)
  | prd (g : PalletRegion) (byRow : Bool) (i j : Nat)
  | pcpy (dest : Nat) (g x : PalletRegion)
  deriving DecidableEq, Repr

/-- How far a request has come. -/
inductive ReqStage
  | sent
  | queued
  | done (v : Line)
  | failed (cause : Nat) (xval : Word) (fatal : Bool)
  deriving DecidableEq, Repr

/-- The outstanding request of a slot. -/
structure Request where
  kind : ReqKind
  ea : Word
  place : Place
  win : Nat
  reg : Nat
  data : Word
  cmp : Word
  stage : ReqStage
  deriving DecidableEq, Repr

/-- Conditions on which an instruction waits without having executed; it executes afresh when the condition holds (Table 4.12). -/
inductive Cond
  | drained
  | drainedAck
  | drainedAckRing
  | storeEntry (held : Nat)
  | ackRoom
  | ringEmpty
  | ringPlace
  | loadClear (p : Place) (ea size : Nat)
  | wordClear (p : Place) (ea size : Nat)
  | inbox
  | haltEnd
  | prefetchPlace
  | awake (p : Place) (ea : Word)
  | yard (brick lane n : Nat) (share : Bool)
  deriving DecidableEq, Repr

/-- Why a slot is parked (Table 4.6). `spread` waits until every brick holds the value written, in the cycle `stop`, and until the named stacks serve under a BWPHASE (R138). -/
inductive Wait
  | cond (c : Cond)
  | reply
  | demand (id : Nat)
  | wordFull (key : Nat)
  | barrier (n reg : Nat)
  | ring
  | invalidation (id : Nat)
  | spread (stop : Nat) (value : Word) (sts : List Nat) (phase : Nat)
  deriving DecidableEq, Repr

/-- Slot states (Table 4.6). A SWITCHING slot names the outgoing context while its save has not ended. -/
inductive SlotMode
  | free | ready | parked (w : Wait) | switching (out : Option Nat) | halted
  deriving DecidableEq, Repr

/-- A held reservation (R282): the word's key in memory, its place and its address. -/
structure Reservation where
  key : Nat
  ea : Word
  deriving DecidableEq, Repr

/-- A slot: a context and the state of its units (Table 6.1). `ctx` numbers the context through moves and saves; `descr` is the descriptor that its engine command has read and whose wait has not ended (R340), `overflowPos` the place in the overflow area of its oldest entry there (R166). -/
structure Slot where
  mode : SlotMode
  ctx : Nat
  vd : Nat
  region : Nat
  space : BitVec 12
  g : Vector Word 16
  pc : Word
  level : Level
  plevel : Level
  sstep : Bool
  w : Vector Line 8
  wv : BitVec 8
  z : Vector Line 16
  zv : BitVec 16
  ports : Vector Port 3
  frame : Frame
  xpc : Word
  xcause : BitVec 16
  xval : Word
  ackcnt : Nat
  wakeat : Word
  tkt : BitVec 32
  mqval : Word
  inbox : List InboxEntry
  overflow : List InboxEntry
  overflowPos : Nat
  sb : List SbEntry
  ringq : List RingEntry
  resv : Option Reservation
  req : Option Request
  descr : Option Line
  hires : Nat
  engines : Nat
  prefs : Nat
  debugStep : Bool
  haltAsked : Bool
  cancelled : Bool
  deriving DecidableEq, Repr

/-! ### Bricks -/

/-- A barrier (Table 6.8). -/
structure Barrier where
  target : Nat
  count : Nat
  phase : Bool
  err : Bool
  errNow : Bool
  bound : Nat
  deriving DecidableEq, Repr

/-- A migrating context (Table 6.9); `halt` tells that a debugger's STEP halts it where it arrives (R58). -/
structure Migrant where
  ctx : Nat
  vd : Nat
  g : Vector Word 16
  pc : Word
  space : BitVec 12
  region : Nat
  halt : Bool
  deriving DecidableEq, Repr

/-- A context waiting in an arrival queue (R173): a migrant, or a whole context that Nerem re-injects (R132). -/
inductive Arrival
  | migrant (m : Migrant) (since : Nat)
  | context (k : Slot) (since : Nat)
  deriving DecidableEq, Repr

/-- A fault notice on its way to its domain's queue (R114, Table 4.13): the region and the fault domain, its sequence number and the device time of the fault. -/
structure Notice where
  id : Nat
  vd : Nat
  region : Nat
  domain : Nat
  cause : Nat
  xval : Word
  whre : Word
  seq : Nat
  stamp : Nat
  deriving DecidableEq, Repr

/-- A queued spawn (R96): region, start values and the handler's entry when it starts a fault handler. -/
structure SpawnEntry where
  region : Nat
  args : List Word
  entry : Word
  deriving DecidableEq, Repr

/-- Power of a sub-bank (Table 5.7); `waking` and `poweringUp` are the stalls of R21 and R135. -/
inductive BankPower
  | on | retention | waking | poweringUp | off | unavailable
  deriving DecidableEq, Repr

/-- A sub-bank of a brick: whether its partition has allocated it, its power, the cycle of its last access, its spare lines used, and whether it is to be withdrawn (R33). One that is not allocated and yet has power is closing: the accesses it had accepted still complete (R135). -/
structure SubBank where
  alloc : Bool
  power : BankPower
  lastUse : Nat
  spares : Nat
  noticed : Bool
  deriving DecidableEq, Repr

/-- Instruction cache of a brick (R230): the fetch history position at which it was last emptied, and per code word the newest value that a fetch has returned. -/
structure ICache where
  emptied : Nat
  seen : KMap Nat
  deriving DecidableEq, Repr

/-- A translation that a quoin's cache holds (R125, R128): the space, an address of the page, and the leaves of both stages with the shifts of their levels. -/
structure TlbEntry where
  vd : Nat
  space : BitVec 12
  va : Nat
  guest : Nat
  gsh : Nat
  hyp : Nat
  hsh : Nat
  deriving DecidableEq, Repr

/-- An access that has arrived at memory which cannot serve it (R21): the number of its context, message or command, its place, the sub-bank or pseudo-channel, and whether the whole of that unit stood still. -/
structure Stalled where
  token : Nat
  place : Place
  unit : Nat
  whole : Bool
  deriving DecidableEq, Repr

/-! ### Messages -/

/-- What a message does at its home. -/
inductive MsgKind
  | store
  | rupd (o : RmwOp) (sz : AmoSize)
  deriving DecidableEq, Repr

/-- A store or remote update that has left its slot (R153, R286) for the brick `home`. A remote update that a demand fault holds has `demand` set and no place yet; the number 0 stands for a walk that waits for memory (R21). -/
structure Msg where
  id : Nat
  ctx : Nat
  slotKey : Nat
  vd : Nat
  region : Nat
  kind : MsgKind
  ea : Word
  size : Nat
  data : Line
  place : Place
  win : Nat
  home : Option Nat
  scope : Scope
  level : Level
  space : BitVec 12
  demand : Option Nat
  performed : Bool
  deriving DecidableEq, Repr

/-- A barrier arrival under way (R168). `ctx` is the parked slot of a BARR. -/
structure BarrierMsg where
  id : Nat
  vd : Nat
  brick : Nat
  n : Nat
  ctx : Option Nat
  err : Bool
  bound : Bool
  deriving DecidableEq, Repr

/-- A completion message on its way to an inbox (R165). -/
structure InboxMsg where
  id : Nat
  ctx : Nat
  lane : Option Nat
  entry : InboxEntry
  deriving DecidableEq, Repr

/-- A spawn under way (R94); `ctx` is the spawner. -/
structure SpawnMsg where
  id : Nat
  ctx : Nat
  vd : Nat
  region : Nat
  target : Word
  args : List Word
  deriving DecidableEq, Repr

/-- A migrant under way to a brick (R171). -/
structure MigMsg where
  id : Nat
  brick : Nat
  m : Migrant
  deriving DecidableEq, Repr

/-- An invalidation under way (R130, R131); `ctx` is the parked writer, absent for Nerem's. -/
structure Inval where
  id : Nat
  ctx : Option Nat
  vd : Nat
  value : Word
  deriving DecidableEq, Repr

/-- Who waits for a demand fault (R132). -/
inductive DemandFor
  | slot (ctx : Nat)
  | store (ctx entry : Nat)
  | update (msg : Nat)
  | engine (id : Nat)
  | pull (entry : Nat)
  | landing (entry : Nat)
  deriving DecidableEq, Repr

/-- A posted demand fault. `long` records Nerem's LONG for work that parks no slot. -/
structure Demand where
  id : Nat
  vd : Nat
  ipa : Nat
  va : Word
  who : DemandFor
  long : Bool
  deriving DecidableEq, Repr

/-- Queue of a reserved word (R282): the holding context, the cycle it came to head the queue, and the waiting contexts. -/
structure ResvQueue where
  holder : Nat
  since : Nat
  waiters : List Nat
  deriving DecidableEq, Repr

/-! ### Protection of HBM -/

/-- State of a window (Table 3.5). -/
inductive WinState
  | opened | rekey | closed
  deriving DecidableEq, Repr

/-- A window descriptor (Table 3.5); `next` is the member list of a re-key under way, `old` the key it replaces, and `passed` the address below which each channel controller has encrypted its granules again (R82, R83). -/
structure Window where
  units : List Nat
  members : List WinMember
  gen : Word
  state : WinState
  next : List WinMember
  drained : Bool
  creator : Nat
  old : Option Nat
  passed : KMap Nat
  deriving DecidableEq, Repr

/-- What waits for the erasure of a key (R74): VDERASE's answer, a window that closes, or a device that is destroyed. -/
inductive EraseFor
  | key
  | window (w : Nat)
  | device (vd : Nat)
  deriving DecidableEq, Repr

/-- A key between the two steps of its erasure (R74, R75): its entry is zero, and its units are not yet CLEARED. -/
structure Erase where
  kid : Nat
  who : EraseFor
  deriving DecidableEq, Repr

/-- 62-way mode of a stack (R124): the retired channel, and the offset below which every granule has moved to its new place. -/
structure W62 where
  channel : Nat
  moved : Nat
  deriving DecidableEq, Repr

/-- State of a pseudo-channel (R137). -/
inductive PchState
  | active | powerDown | selfRefresh | waking
  deriving DecidableEq, Repr

/-! ### Virtual devices -/

/-- A region of a running tree (Tables 4.1 and 4.3): what its RCB gives, its effective values and its counts. `bwNum` over 256 ^ `depth` is its bandwidth fraction. -/
structure Region where
  rcb : Word
  parent : Option Nat
  depth : Nat
  entry : Word
  args : List Word
  home : Word
  space : BitVec 12
  slots : Nat
  hireShare : Nat
  bwNum : Nat
  ringQ : List Nat
  prio : Nat
  domain : Nat
  notice : Word
  handler : Word
  live : Nat
  noticeSeq : Nat
  noticeIdx : Nat
  deriving DecidableEq, Repr

/-- A running region tree (R89, R90). `owed` is the function and SEQ of the LAUNCH to answer, unless its queues have been disabled since (R43). -/
structure Tree where
  owed : Option (Nat × Nat)
  space : BitVec 12
  fatal : Bool
  cancelled : Bool
  regions : List Region
  deriving DecidableEq, Repr

/-- A virtual device (Tables 2.1 and 2.13). `destroy` is set while VDDESTROY drains, with the function and SEQ to answer unless its queues have been disabled since (R41, R43); `save` is the address of its save region (R175), `launched` the function and SEQ of the last LAUNCH of a tree that has ended (R89), `created` the cycle of VDCREATE. -/
structure VDev where
  func : Nat
  dbg : Bool
  slotNums : NSet
  subbanks : NSet
  kilns : NSet
  copies : NSet
  colls : NSet
  ringQ : List Nat
  hbmq : Nat
  hbmwt : Nat
  yage : Nat
  save : Nat
  hypRoot : Nat
  resident : Bool
  residentSince : Nat
  residentCycles : Nat
  xvec : Word
  bwphase : BitVec 8
  tree : Option Tree
  launched : Option (Nat × Nat)
  attached : Bool
  destroy : Option (Option (Nat × Nat))
  created : Nat
  fatalNotices : Nat
  droppedNotices : Nat
  deferredErrors : Nat
  demandsServed : Nat
  hiresDone : Nat
  enginesDone : Nat
  deriving DecidableEq, Repr

/-- An armed gang switch (R110). -/
structure SwitchRec where
  id : Nat
  out : Option Nat
  inc : Option Nat
  stamp : Nat
  taken : Bool
  deriving DecidableEq, Repr

/-! ### Kilns and the yard -/

/-- A weight plane (R192); `w` holds the bits of element k × 128 + n and `scale` the FP32 group scales of b × 128 + n, absent entries being 1.0. -/
structure Plane where
  valid : Bool
  k : Nat
  n : Nat
  fmt : Nat
  tag : Nat
  vd : Nat
  w : KMap Nat
  scale : KMap Nat
  deriving DecidableEq, Repr

/-- Contents of a pallet: FP32 bits by row × 128 + column, absent entries +0.0, and the dirty rows (R202). -/
structure PalletData where
  cells : KMap Nat
  dirty : NSet
  deriving DecidableEq, Repr

/-- Who holds a pallet of a kiln (Table 8.6): a lease number, or a lane entry's temporary or parked pallet. -/
inductive PalletHolder
  | lease (n : Nat)
  | temp (entry : Nat)
  | parked (entry : Nat)
  deriving DecidableEq, Repr

/-- A physical pallet that is not FREE. -/
structure Pallet where
  vd : Nat
  holder : PalletHolder
  data : PalletData
  lastUse : Nat
  deriving DecidableEq, Repr

/-- A lease of a kiln (R203); `saved` tells that its pallet stands in the owner's save region (R205), and `freer` is the context whose PFREE waits (R337). -/
structure Lease where
  vd : Nat
  freer : Option Nat
  regions : KMap PalletRegion
  saved : Bool
  deriving DecidableEq, Repr

/-- Operand lines in a kiln's staging buffer (R208): of which entry, hod and repetition, and the lines by address. -/
structure Staged where
  entry : Nat
  hod : Nat
  rep : Nat
  lines : List (Nat × Line)
  deriving DecidableEq, Repr

/-- A kiln (R192, R202, R203, R208). `pallets` has at most four entries. -/
structure Kiln where
  enabled : Bool
  front : Plane
  shadow : Plane
  lastVd : Option Nat
  running : Option Nat
  pallets : List Pallet
  leases : KMap Lease
  staging : List Staged
  deriving DecidableEq, Repr

/-- How far a lane entry has come: it waits for a grant, runs or lands, is held by a demand fault of a pull or of a landing, or replays a landing, after which the messages of its first `sent` hods are awaited (R212). -/
inductive EntryStage
  | waiting
  | granted
  | parkedPull (demand : Nat)
  | parkedLanding (demand : Nat)
  | replaying (sent : Nat)
  deriving DecidableEq, Repr

/-- A hod, or one repetition of it, at work (R208, R209): the start of the hod, the end of this work, whether it is run again without a message, and its status. -/
structure Run where
  hod : Nat
  rep : Nat
  start : Nat
  stop : Nat
  silent : Bool
  status : Nat
  deriving DecidableEq, Repr

/-- A line of a landing: its address and its bytes (R207). -/
structure LandLine where
  ea : Word
  bytes : List Byte
  deriving DecidableEq, Repr

/-- A landing not yet complete: its hod and repetition, the hod's start, whether the hod ends with it, and the first line still to be written. -/
structure Landing where
  hod : Nat
  rep : Nat
  start : Nat
  last : Bool
  next : Nat
  deriving DecidableEq, Repr

/-- A lane entry of a yard: one hod or one train (R102), with what HIRE recorded (R128). `master` is 16 × slot key + device (R5), `place` the yard entry whose pallet image it uses and `saved` whether its pallet stands there (R175, R205). `since` counts the device's resident cycles. `hod` is the next hod to start, `resume` a repetition of an earlier one, `redo` the hods that a continuation runs again, `base` the offset that its grant counts from (R212, R213); `statuses` are keyed by hod. -/
structure Entry where
  id : Nat
  vd : Nat
  ctx : Nat
  master : Nat
  brick : Nat
  region : Nat
  prio : Nat
  lane : Nat
  level : Level
  space : BitVec 12
  hods : List Line
  ticket : Nat
  stage : EntryStage
  since : Option Nat
  aged : Option Nat
  kiln : Option Nat
  grantAt : Nat
  base : Nat
  hod : Nat
  resume : Option (Nat × Nat × Nat)
  redo : List Nat
  runs : List Run
  lands : List Landing
  statuses : KMap (Nat × Nat)
  sent : Nat
  place : Nat
  saved : Bool
  deriving DecidableEq, Repr

/-- Grant stamps of a master (R103): the master's and its lanes'. -/
structure GrantStamp where
  last : Nat
  lanes : KMap Nat
  deriving DecidableEq, Repr

/-! ### Copy and collective engines -/

/-- Commands that run beside a slot: engine commands and tier prefetches. -/
inductive CmdKind
  | cpy | gath | scat | coll | pref
  deriving DecidableEq, Repr

/-- How far a command has come: in its engine's queue, moving lines, a contribution read (R344) and then counted in an instance, results being written, or ended. -/
inductive CmdPhase
  | queued
  | moving
  | staged
  | joined (inst : Nat)
  | writing
  | ended
  deriving DecidableEq, Repr

/-- An engine command or prefetch with what its instruction recorded (R128, R340, R289). `line` counts the lines moved and `got` is the line that has been read and not yet written (R343); `data` holds the index of the row under way, or a collective's contribution and then its result. -/
structure Cmd where
  id : Nat
  kind : CmdKind
  vd : Nat
  ctx : Nat
  brick : Nat
  slot : Nat
  region : Nat
  level : Level
  space : BitVec 12
  ticket : Nat
  engine : Nat
  desc : Line
  dst : Word
  src : Word
  barrier : Option Nat
  phase : CmdPhase
  line : Nat
  bytes : Nat
  status : Nat
  demand : Option Nat
  data : List Line
  got : Option Line
  deriving DecidableEq, Repr

/-- A member of an instance: its command, its rank, and whether it has had its stall notice (R344, R346). -/
structure CollMember where
  cmd : Nat
  rank : Nat
  noticed : Bool
  deriving DecidableEq, Repr

/-- An open instance of a collective (R344): its device and group, what its first COLL fixed, and the device time of its first arrival. -/
structure CollInst where
  id : Nat
  vd : Nat
  group : Nat
  rowlen : Nat
  opc : Nat
  fmt : Nat
  size : Nat
  patience : Nat
  opened : Nat
  stalled : Bool
  members : List CollMember
  deriving DecidableEq, Repr

/-! ### The course ring -/

/-- A ring slot: its header fields (Table 7.1) and payload. An absent slot is free. -/
structure RingSlot where
  altpend : Bool
  poison : Bool
  vd : Nat
  home : Nat
  line : Nat
  payload : Line
  deriving DecidableEq, Repr

/-- A payload that its home station has taken off the ring and not yet written, because the home sub-bank stands still (R185, R189, R21): the die, the slot, and whether the line is stowed. -/
structure RingBack where
  die : Nat
  slot : RingSlot
  stow : Bool
  deriving DecidableEq, Repr

/-- Ring state of a locked line (R179); an absent line is FREE. -/
inductive LineState
  | aboard | stowed (altpend poison : Bool)
  deriving DecidableEq, Repr

/-- A locked line with the partition and region charged for it (R183). -/
structure LineLock where
  state : LineState
  vd : Nat
  region : Nat
  deriving DecidableEq, Repr

/-! ### Power, boot and errors -/

/-- Operating points of brick and kiln islands (Table 1.2), and the start of R18. -/
inductive IslandState
  | off | starting (since : Nat) | run | hold | k2 | k15 | k10
  deriving DecidableEq, Repr

/-- An island: its state, the point asked for (R15, R16), the thermal hold (R17), the cycle it last became ready, and the clock of its bricks: the cycle in which its count was 0 (R97), and in HOLD, where the clock stands still (Table 1.2), the count itself. -/
structure Island where
  state : IslandState
  wanted : IslandState
  held : Bool
  readyAt : Nat
  clock : Nat
  deriving DecidableEq, Repr

/-- The boot hardware: fuses, module flash (Table 1.6; its health log stands in State), the recovery buffer (R30), the NVMe namespaces, BSTAT (Tables 1.5 to 1.8), and which of its parts are broken: islands by number, and 64 for the wipe. -/
structure Boot where
  lcs : Nat
  minMonitor : Nat
  minNerem : Nat
  monitor : Image
  slotA : Option Image
  slotB : Option Image
  activeB : Bool
  trial : Bool
  failA : Bool
  failB : Bool
  errcode : Nat
  img : Nat
  stage : Nat
  healthBy : Nat
  monitorMeasured : Option Image
  neremMeasured : Option Image
  keysRefused : Bool
  config : List Host.Cell
  recovery : Option Image
  nvme : KMap (List Host.Cell)
  defects : NSet
  deriving DecidableEq, Repr

/-- A hitless update under way (R56, R57): who asked, the time of its hand-off, the gang switches that it cancelled, the image that the monitor has accepted and recorded (R27), and the record of the image before it. -/
structure Update where
  owed : Option (Nat × Nat)
  toB : Bool
  handed : Bool
  startedAt : Nat
  fellBack : Bool
  cancelled : List SwitchRec
  accepted : Option Image
  before : Option Image
  deriving DecidableEq, Repr

/-- An event in the health log (R35, R71). -/
structure LogEntry where
  what : Nat
  unit : Nat
  stamp : Nat
  deriving DecidableEq, Repr

/-! ### Host queues, steering and links -/

/-- A request that Nerem has taken from a queue and not yet answered (R45); `done` counts the bytes that a LOAD or FETCH has copied. -/
structure HostReq where
  seq : Nat
  op : Nat
  len : Nat
  payload : List Byte
  done : Nat
  deriving DecidableEq, Repr

/-- The queues of a function (Tables 2.2 and 2.3): registers, expected counts, requests taken. -/
structure HostFun where
  qbase : Nat
  log2n : Nat
  en : Bool
  live : Bool
  err : Nat
  reqCount : Nat
  rspCount : Nat
  pending : List HostReq
  cancels : List (Nat × Nat × Nat)
  waiting : List (List Byte)
  deriving DecidableEq, Repr

/-- A steering rule (Table 2.15) as its record, bytes 16 to 111 of the entry. -/
structure SteerRule where
  record : List Byte
  drops : Nat
  deriving DecidableEq, Repr

/-- A steering queue (Table 2.16) and what the unit keeps for it (R53). -/
structure SteerQueue where
  vd : Nat
  en : Bool
  log2e : Nat
  log2s : Nat
  brick : Nat
  offset : Nat
  seq : Nat
  widx : Nat
  accepted : Nat
  fullDrops : Nat
  truncated : Nat
  disabledDrops : Nat
  deriving DecidableEq, Repr

/-- What a debug server asks for that memory can make wait (Table 2.11): a read, a write, one instruction of a halted context, or that it goes on. -/
inductive DebugOp
  | read (t : DebugTarget)
  | write (t : DebugTarget) (v : Word)
  | resume (ctx : Nat) (step : Bool)
  deriving DecidableEq, Repr

/-- A frame that a steering queue has accepted and not yet written, because the memory of its entry cannot serve (R53, R21): its queue, the port and rule, its SEQ and STAMP, and its bytes. -/
structure SteeredFrame where
  id : Nat
  queue : Nat
  port : Nat
  rule : Nat
  seq : Nat
  stamp : Nat
  bytes : List Byte
  deriving DecidableEq, Repr

/-- The image of the barriers of a slot, by its key, that is still to be written, or read, in the save region of a device (R170, R21). -/
structure BarrierPass where
  vd : Nat
  key : Nat
  wr : Bool
  deriving DecidableEq, Repr

/-- Counters of an Ethernet port (Table 2.14, set 2), and the device time, in half nanoseconds, at which its last accepted frame ended: 0 for none. -/
structure EthPort where
  received : Nat
  fcs : Nat
  runts : Nat
  oversize : Nat
  management : Nat
  unmatched : Nat
  ptp : Nat
  lastEnd : Nat
  deriving DecidableEq, Repr

/-- State of a Birtil port's link (R37). -/
inductive LinkState
  | lanes8 | lanes4 | retraining (lanes : Nat) | down
  deriving DecidableEq, Repr

/-- A Birtil port (R37): link, receive sequence, flits in a row whose CRC failed, protocol errors, the flits delivered on each virtual channel, and the next sequence number sent with the replay buffer of flits not yet acknowledged, as pairs of number and payload. -/
structure BirtilPort where
  link : LinkState
  rxSeq : Nat
  replays : Nat
  protocolErrors : Nat
  delivered : KMap (List (List Byte))
  txSeq : Nat
  replay : List (Nat × List Byte)
  deriving DecidableEq, Repr

/-- What happens next: a slot's turn, the passing of cycles, an event, bytes that the outside world writes into host or peer memory, an image (or none) that the host writes into the recovery buffer (R30), bytes written to a namespace of the NVMe flash, parts of the device that break, or what the media will answer. -/
inductive Move
  | turn (brick slot : Nat)
  | elapse (cycles : Nat)
  | event (i : Instr)
  | outside (a : Nat) (bytes : List Byte)
  | recovery (image : Option Image)
  | storage (namespc a : Nat) (bytes : List Byte)
  | broken (parts : NSet)
  | media (answers : List Media)
  deriving DecidableEq, Repr

/-- The machine. Sparse maps hold only what differs from the value that an absent key stands for. -/
structure State where
  /-- the moves that the outside world has laid down; when none is left the machine moves itself -/
  agenda : List Move
  /-- arithmetic-clock cycles since device reset -/
  cycle : Nat
  /-- device time in half nanoseconds, and the correction still to be slewed in (R38) -/
  devHalfNs : Nat
  slew : Int
  /-- the slot whose turn it is: 8 × brick + slot number -/
  cur : Nat
  /-- slots that have had their turn in the present cycle -/
  hadTurn : NSet
  /-- the slot, by its key, that the station of a brick has come to in the present cycle (R181) -/
  stations : KMap Nat
  /-- position in the free values -/
  freeCtr : Nat
  /-- what the media will answer to the coming reads of a turn or of a unit; none stands for sound -/
  answers : List Media
  /-- next number for contexts, messages and the like -/
  nextId : Nat
  slots : KMap Slot
  saved : KMap Slot
  held : KMap Slot
  orphans : KMap Slot
  handlerPlaces : List (Nat × Nat × Nat × Nat)
  /-- contexts whose page is present and whose images memory is still to serve before they are injected again (R132, R21) -/
  returning : NSet
  notices : List Notice
  barriers : KMap Barrier
  barrierImages : KMap Barrier
  barrierPasses : List BarrierPass
  arrivals : KMap (List Arrival)
  spills : KMap (List Arrival)
  /-- position in the ring of an arrival spill area at which its oldest context stands (R173, R175) -/
  spillPos : KMap Nat
  spawnq : KMap (List SpawnEntry)
  subbanks : KMap SubBank
  remapping : NSet
  icaches : KMap ICache
  codeLog : List (Nat × IWord)
  mem : List Host.Cell
  fe : NSet
  poison : NSet
  owner : KMap Nat
  written : NSet
  minor : KMap Nat
  major : KMap Nat
  treeCtr : KMap Nat
  rolling : NSet
  fenced : NSet
  badTag : NSet
  keys : KMap Nat
  windows : KMap Window
  hashmask : KMap Word
  w62 : KMap W62
  failedStacks : NSet
  pch : KMap PchState
  pchUse : KMap Nat
  tlb : KMap (List TlbEntry)
  erasing : List Erase
  stallq : List Stalled
  migrated : KMap (List Host.Cell)
  feq : KMap (List Nat)
  resvq : KMap ResvQueue
  msgs : List Msg
  barrierMsgs : List BarrierMsg
  inboxMsgs : List InboxMsg
  spawnMsgs : List SpawnMsg
  migMsgs : List MigMsg
  invals : List Inval
  demands : List Demand
  vds : KMap VDev
  switches : List SwitchRec
  kilns : KMap Kiln
  entries : List Entry
  grants : KMap GrantStamp
  yardWaits : List (Nat × Nat × Nat × Bool)
  cmds : List Cmd
  colls : List CollInst
  rings : KMap RingSlot
  writebacks : List RingBack
  locks : KMap LineLock
  islands : KMap Island
  lastStart : Option Nat
  powerSamples : List Nat
  lastSample : Option Nat
  boot : Boot
  update : Option Update
  healthLog : List LogEntry
  tamper : Bool
  eccTimes : KMap (List Nat)
  spareRowsUsed : KMap Nat
  rowRepair : NSet
  failingRows : KMap (List (Nat × Nat))
  corrSram : Nat
  corrHbm : Nat
  sparedLines : Nat
  funs : KMap HostFun
  rules : KMap SteerRule
  queues : KMap SteerQueue
  eth : KMap EthPort
  birtil : KMap BirtilPort
  mailbox : Option (Nat × Nat)
  reports : List (Nat × List Nat)
  debugReplies : List (Nat × List Word)
  /-- debug operations that memory has stalled, with their numbers and devices, the oldest first (R58, R21) -/
  debugOps : List (Nat × Nat × DebugOp)
  frames : List SteeredFrame
  deriving DecidableEq, Repr

/-- Reasons a step can stop with a fault. None: every trap the spec describes is a next state. -/
inductive Fault
  /-- raised by no meaning; it stands so that a later repair has a name for a stop of the machine: safe. -/
  | stopped
  deriving DecidableEq, Repr

/-- Reasons a step can be refused. -/
inductive Refusal
  /-- raised by an arm of exec whose instruction has no meaning yet: safe. -/
  | notModelled (mnemonic : String)
  deriving DecidableEq, Repr

/-! ### Reset -/

/-- A frame with nothing running (Table 6.6). -/
def Frame.idle : Frame := ⟨false, false, 0, 0, 0, 0, 0, 0, List.replicate 16 0⟩
/-- An unbound port. -/
def Port.idle : Port := ⟨false, false, 0, 0, 0, [], []⟩
/-- A slot with no context: every register is zero after a wipe (R23). -/
def Slot.empty : Slot :=
  { mode := .free, ctx := 0, vd := 0, region := 0, space := 0, g := Vector.replicate 16 0, pc := 0, level := .task,
    plevel := .task, sstep := false, w := Vector.replicate 8 0, wv := 0, z := Vector.replicate 16 0, zv := 0,
    ports := Vector.replicate 3 Port.idle, frame := Frame.idle, xpc := 0, xcause := 0, xval := 0, ackcnt := 0,
    wakeat := 0, tkt := 0, mqval := 0, inbox := [], overflow := [], overflowPos := 0, sb := [], ringq := [], resv := none, req := none, descr := none,
    hires := 0, engines := 0, prefs := 0, debugStep := false, haltAsked := false, cancelled := false }
/-- A barrier that is not initialised (Table 6.8). -/
def Barrier.off : Barrier := ⟨0, 0, false, false, false, 0⟩
/-- A plane with tag invalid (R193). -/
def Plane.zero : Plane := ⟨false, 0, 0, 0, 0, 0, [], []⟩
/-- A pallet full of +0.0 (R203). -/
def PalletData.zero : PalletData := ⟨[], []⟩
/-- A kiln after a wipe. -/
def Kiln.zero : Kiln := ⟨false, Plane.zero, Plane.zero, none, none, [], [], []⟩
/-- An island without power. -/
def Island.dark : Island := ⟨.off, .off, false, 0, 0⟩
/-- Queues of a function at reset (Tables 2.2 and 2.3). -/
def HostFun.atReset : HostFun := ⟨0, 4, false, false, 0, 1, 1, [], [], []⟩
/-- The boot hardware right after reset (Table 1.7); the fuses and the flash keep what they hold. -/
def Boot.atReset (b : Boot) : Boot :=
  { b with
    errcode := 0, img := 0, stage := 0, healthBy := 0, monitorMeasured := none, neremMeasured := none,
    keysRefused := false, recovery := none }
/-- Fuses and flash of a new part: life-cycle state PROD, a monitor and one Nerem image in slot A. -/
def Boot.factory : Boot :=
  { lcs := 3, minMonitor := 0, minNerem := 0, monitor := ⟨1, 0, 0, 1⟩, slotA := some ⟨1, 0, 0, 2⟩, slotB := none,
    activeB := false, trial := false, failA := false, failB := false, errcode := 0, img := 0, stage := 0, healthBy := 0,
    monitorMeasured := none, neremMeasured := none, keysRefused := false,
    config := [], recovery := none, nvme := [], defects := [] }

/-- The machine right after reset: everything wiped, every unit of HBM cleared, nothing placed. -/
def State.reset : State :=
  { agenda := [], cycle := 0, devHalfNs := 0, slew := 0, cur := 0, hadTurn := [], stations := [], freeCtr := 0, answers := [], nextId := 1, slots := [], saved := [], held := [],
    orphans := [], handlerPlaces := [], returning := [], notices := [],
    barriers := [], barrierImages := [], barrierPasses := [], arrivals := [], spills := [], spillPos := [], spawnq := [], subbanks := [], remapping := [],
    icaches := [], codeLog := [], mem := [], fe := [], poison := [], owner := [], written := [], minor := [],
    major := [], treeCtr := [], rolling := [], fenced := [], badTag := [], keys := [], windows := [], hashmask := [], w62 := [],
    failedStacks := [], pch := [], pchUse := [], tlb := [], erasing := [], stallq := [], migrated := [], feq := [], resvq := [], msgs := [], barrierMsgs := [], inboxMsgs := [],
    spawnMsgs := [], migMsgs := [], invals := [], demands := [], vds := [], switches := [], kilns := [], entries := [],
    grants := [], yardWaits := [], cmds := [], colls := [], rings := [], writebacks := [], locks := [], islands := [],
    lastStart := none, powerSamples := [], lastSample := none, boot := Boot.factory, update := none, healthLog := [], tamper := false,
    eccTimes := [], spareRowsUsed := [], rowRepair := [], failingRows := [], corrSram := 0, corrHbm := 0,
    sparedLines := 0, funs := [], rules := [], queues := [], eth := [], birtil := [], mailbox := none, reports := [],
    debugReplies := [], debugOps := [], frames := [] }

end Sys2Proof.Machine
end

