-- ==== Sys2Proof/Machine/Bits.lean ====
section
/-!
DEFINITION. Finite maps, bit fields, byte order and trap causes: the helpers that the meanings share.
-/
namespace Sys2Proof.Machine

/-! ### Finite maps and sets -/

/-- The value at a key. -/
def KMap.find? {α : Type} : KMap α → Nat → Option α
  | [], _ => none
  | (k, v) :: r, x => if k = x then some v else KMap.find? r x
/-- The value at a key, or the value that an absent key stands for. -/
def KMap.getD {α : Type} (m : KMap α) (x : Nat) (d : α) : α := (KMap.find? m x).getD d
/-- Set the value at a key, keeping keys rising. -/
def KMap.set {α : Type} : KMap α → Nat → α → KMap α
  | [], x, v => [(x, v)]
  | (k, u) :: r, x, v =>
    if x < k then (x, v) :: (k, u) :: r else if x = k then (x, v) :: r else (k, u) :: KMap.set r x v
/-- Remove a key. -/
def KMap.erase {α : Type} : KMap α → Nat → KMap α
  | [], _ => []
  | (k, u) :: r, x => if k = x then r else (k, u) :: KMap.erase r x
/-- Change the value at a key if there is one. -/
def KMap.modify {α : Type} (m : KMap α) (x : Nat) (f : α → α) : KMap α :=
  m.map fun kv => if kv.1 = x then (kv.1, f kv.2) else kv
/-- Is the key present? -/
def KMap.has {α : Type} (m : KMap α) (x : Nat) : Bool := (KMap.find? m x).isSome

/-- Add a number to a set. -/
def NSet.insert : NSet → Nat → NSet
  | [], x => [x]
  | k :: r, x => if x < k then x :: k :: r else if x = k then k :: r else k :: NSet.insert r x
/-- Remove a number from a set. -/
def NSet.erase : NSet → Nat → NSet
  | [], _ => []
  | k :: r, x => if k = x then r else k :: NSet.erase r x
/-- Remove the numbers from `lo` up to but not including `hi`. -/
def NSet.eraseRange (m : NSet) (lo hi : Nat) : NSet := m.filter fun x => decide (x < lo) || decide (hi ≤ x)
/-- Is the number in the set? -/
def NSet.has (m : NSet) (x : Nat) : Bool := m.contains x
/-- The numbers of the bits that are set in `v`, below `n`. -/
def bitsOf (v n : Nat) : NSet := (List.range n).filter fun i => v.testBit i
/-- Have two sets no number in common? -/
def NSet.disjoint (a b : NSet) : Bool := a.all fun x => !b.contains x

/-! ### Bit fields -/

/-- Bits [hi:lo] of a value as a number. -/
def bits (v : Word) (hi lo : Nat) : Nat := v.toNat / 2 ^ lo % 2 ^ (hi + 1 - lo)
/-- Bits [hi:lo] of a number. -/
def nbits (v hi lo : Nat) : Nat := v / 2 ^ lo % 2 ^ (hi + 1 - lo)
/-- One bit of a value. -/
def bit (v : Word) (i : Nat) : Bool := v.toNat.testBit i
/-- A Boolean as a bit. -/
def b2n (b : Bool) : Nat := if b then 1 else 0
/-- A number as a word, modulo 2 ^ 64 (Wrap). -/
def wrap (n : Nat) : Word := BitVec.ofNat 64 n
/-- An integer as a word, modulo 2 ^ 64 (Wrap). -/
def wrapInt (i : Int) : Word := BitVec.ofInt 64 i
/-- Sign extension of a value of any width to a word. -/
def sext {n : Nat} (v : BitVec n) : Word := v.signExtend 64
/-- Zero extension to a line. -/
def lineOf (v : Word) : Line := v.setWidth 512
/-- The low word of a line. -/
def lowWord (l : Line) : Word := l.setWidth 64
/-- Word `k` of a line. -/
def wordOf (l : Line) (k : Nat) : Word := BitVec.ofNat 64 (l.toNat / 2 ^ (64 * k))
/-- A line with word `k` replaced. -/
def setWord (l : Line) (k : Nat) (v : Word) : Line :=
  let m := l.toNat
  BitVec.ofNat 512 (m % 2 ^ (64 * k) + v.toNat * 2 ^ (64 * k) + m / 2 ^ (64 * k + 64) * 2 ^ (64 * k + 64))
/-- Bits [hi:lo] of word `k` of a line. -/
def lbits (l : Line) (k hi lo : Nat) : Nat := bits (wordOf l k) hi lo
/-- Signed value of an n-bit number. -/
def signedOf (n v : Nat) : Int := if v % 2 ^ n < 2 ^ (n - 1) then (v % 2 ^ n : Nat) else (v % 2 ^ n : Nat) - (2 ^ n : Nat)
/-- A two's-complement bit pattern of an integer, n bits. -/
def patternOf (n : Nat) (i : Int) : Nat := (i % (2 ^ n : Nat)).toNat
/-- Quotient rounded up (CeilDiv). -/
def ceilDiv (a b : Nat) : Nat := (a + b - 1) / b

/-! ### Byte order (R2): little-endian, decided here once -/

/-- The number that bytes hold, lowest address first. -/
def leNat : List Byte → Nat
  | [] => 0
  | b :: r => b.toNat + 256 * leNat r
/-- The `n` bytes of a number, lowest address first. -/
def leBytes : Nat → Nat → List Byte
  | 0, _ => []
  | n + 1, v => BitVec.ofNat 8 v :: leBytes n (v / 256)
/-- The 64 bytes of a line. -/
def lineBytes (l : Line) : List Byte := leBytes 64 l.toNat
/-- The line that bytes hold, zero-extended. -/
def bytesLine (bs : List Byte) : Line := BitVec.ofNat 512 (leNat bs)

/-! ### Trap causes (Table 16.3) -/

/-- Cause codes. -/
inductive Cause
  | illegal | privilege | illegalOperand | stale | streamEnd | palletRegion | migrateBusy | breakpoint | systemCall
  | singleStep | fetch | address | alignment | bank | sleep | guestPage | guestPerm | guestFormat | poison | integrity
  | freshness | windowRevoked | ringLock | ringMiss | hypervisor | spillOverflow | linkLost | healthNotice
  | collectiveStall
  deriving DecidableEq, Repr

/-- The code of a cause. -/
def Cause.code : Cause → Nat
  | .illegal => 0x01 | .privilege => 0x02 | .illegalOperand => 0x03 | .stale => 0x04 | .streamEnd => 0x05
  | .palletRegion => 0x06 | .migrateBusy => 0x07 | .breakpoint => 0x08 | .systemCall => 0x09 | .singleStep => 0x0A
  | .fetch => 0x10 | .address => 0x11 | .alignment => 0x12 | .bank => 0x13 | .sleep => 0x14 | .guestPage => 0x15
  | .guestPerm => 0x16 | .guestFormat => 0x17 | .poison => 0x18 | .integrity => 0x19 | .freshness => 0x1A
  | .windowRevoked => 0x1B | .ringLock => 0x1C | .ringMiss => 0x1D | .hypervisor => 0x20 | .spillOverflow => 0x21
  | .linkLost => 0x30 | .healthNotice => 0x40 | .collectiveStall => 0x41

/-- XCAUSE bit DELIVERED (R350). -/
def deliveredBit : Nat := 2 ^ 14
/-- XCAUSE bit DEFERRED (R350). -/
def deferredBit : Nat := 2 ^ 15

end Sys2Proof.Machine
end

