-- ==== Sys2Proof/Machine/Numbers.lean ====
section
/-!
DEFINITION. Number formats and exact arithmetic (chapter 9): values of codes (R215 to R219), rounding (R220), conversion (R221 to R224), exact sums and products, and the functions of R313.
-/
namespace Sys2Proof.Machine

/-- An exact value: NaN, an infinity, or ± m × 2 ^ e. A zero keeps its sign. -/
inductive Num
  | nan
  | inf (neg : Bool)
  | fin (neg : Bool) (m : Nat) (e : Int)
  deriving DecidableEq, Repr

/-- A floating format: width, precision, exponent of the least normal value, code of the largest finite magnitude, infinities, sign, canonical NaN (Tables 9.2 to 9.6). -/
structure FloatFmt where
  width : Nat
  prec : Nat
  emin : Int
  maxMag : Nat
  hasInf : Bool
  signed : Bool
  nan : Nat
  deriving DecidableEq, Repr

/-- FP32 (Table 9.2). -/
def fp32 : FloatFmt := ⟨32, 24, -126, 0x7F7FFFFF, true, true, 0x7FC00000⟩
/-- FP16 (Table 9.2). -/
def fp16 : FloatFmt := ⟨16, 11, -14, 0x7BFF, true, true, 0x7E00⟩
/-- BF16 (Table 9.2). -/
def bf16 : FloatFmt := ⟨16, 8, -126, 0x7F7F, true, true, 0x7FC0⟩
/-- A binary8 format (R218, Table 9.3). -/
def bin8 (f : Bin8) : FloatFmt :=
  let p := f.p.val + 1
  if f.signed then ⟨8, p, 1 - 2 ^ (7 - p), if f.ext then 0x7E else 0x7F, f.ext, true, 0x80⟩
  else ⟨8, p, 1 - 2 ^ (8 - p), if f.ext then 0xFD else 0xFE, f.ext, false, 0xFF⟩

/-- The value of a code (R216, R218). -/
def FloatFmt.value (f : FloatFmt) (c : Nat) : Num :=
  let half := 2 ^ (f.width - 1)
  let neg := f.signed && decide (half ≤ c)
  let mag := if f.signed then c % half else c
  let q := 2 ^ (f.prec - 1)
  if c = f.nan then .nan
  else if f.maxMag < mag then (if f.hasInf ∧ mag = f.maxMag + 1 then .inf neg else .nan)
  else if mag / q = 0 then .fin neg mag (f.emin - (f.prec - 1 : Nat))
  else .fin neg (q + mag % q) (f.emin - (f.prec - 1 : Nat) + (mag / q - 1 : Nat))
/-- The code of a magnitude code with a sign; binary8 has no negative zero. -/
def FloatFmt.code (f : FloatFmt) (neg : Bool) (mag : Nat) : Nat :=
  if f.width = 8 ∧ mag = 0 then 0 else if neg ∧ f.signed then 2 ^ (f.width - 1) + mag else mag

/-! ### Rounding (R220) -/

/-- The integer that a value of q units plus r / d of a unit rounds to (Table 9.7). -/
def roundUnit (rm : Rnd) (neg : Bool) (q r d : Nat) : Nat :=
  match rm with
  | .rn => if d < 2 * r ∨ (2 * r = d ∧ q % 2 = 1) then q + 1 else q
  | .rz => q
  | .rd => if neg ∧ r ≠ 0 then q + 1 else q
  | .ru => if !neg ∧ r ≠ 0 then q + 1 else q
/-- m × 2 ^ e in units of 2 ^ u, rounded. -/
def roundAt (rm : Rnd) (neg : Bool) (m : Nat) (e u : Int) : Nat :=
  if u ≤ e then m * 2 ^ (e - u).toNat
  else
    let d := 2 ^ (u - e).toNat
    roundUnit rm neg (m / d) (m % d) d
/-- RoundGrid as a magnitude code, which may lie beyond the largest finite one: the grid is unbounded above (R220). -/
def FloatFmt.roundMag (f : FloatFmt) (rm : Rnd) (neg : Bool) (m : Nat) (e : Int) : Nat :=
  if m = 0 then 0
  else
    let top := max ((Nat.log2 m : Nat) + e) f.emin
    let k := roundAt rm neg m e (top - (f.prec - 1 : Nat))
    (top - f.emin).toNat * 2 ^ (f.prec - 1) + k
/-- ToInf of R221. -/
def toInf (rm : Rnd) (neg : Bool) : Bool :=
  match rm with
  | .rn => true
  | .rz => false
  | .rd => neg
  | .ru => !neg
/-- Convert (R221). -/
def FloatFmt.convert (f : FloatFmt) (rm : Rnd) (sat : Bool) (x : Num) : Nat :=
  let tooBig := fun (neg inf : Bool) =>
    if sat then f.code neg f.maxMag
    else if inf || toInf rm neg then (if f.hasInf then f.code neg (f.maxMag + 1) else f.nan)
    else f.code neg f.maxMag
  let below := if sat then 0 else f.nan
  match x with
  | .nan => f.nan
  | .inf neg => if neg && !f.signed then below else tooBig neg true
  | .fin neg m e =>
    let mag := f.roundMag rm neg m e
    if neg && !f.signed && decide (mag ≠ 0) then below
    else if f.maxMag < mag then tooBig neg false
    else f.code neg mag
/-- RoundNE to a format. -/
def FloatFmt.rne (f : FloatFmt) (x : Num) : Nat := f.convert .rn false x

/-! ### Integer formats (R215, R222, R223) -/

/-- Least and greatest value of an integer format (Table 9.1). -/
def intRange (signed : Bool) (n : Nat) : Int × Int :=
  if signed then (-(2 ^ (n - 1) : Nat), (2 ^ (n - 1) : Nat) - 1) else (0, (2 ^ n : Nat) - 1)
/-- Clamp a value to a format's range. -/
def clampInt (signed : Bool) (n : Nat) (v : Int) : Int :=
  let (lo, hi) := intRange signed n
  max lo (min hi v)
/-- Value of an integer code. -/
def intValue (signed : Bool) (n c : Nat) : Int := if signed then signedOf n c else (c % 2 ^ n : Nat)
/-- An integer as an exact value. -/
def numOfInt (v : Int) : Num := .fin (decide (v < 0)) v.natAbs 0
/-- Conversion of an exact value to an integer format (R222). -/
def intConvert (rm : Rnd) (signed : Bool) (n : Nat) (x : Num) : Nat :=
  match x with
  | .nan => 0
  | .inf neg => patternOf n (if neg then (intRange signed n).1 else (intRange signed n).2)
  | .fin neg m e =>
    let k := roundAt rm neg m e 0
    patternOf n (clampInt signed n (if neg then -(k : Int) else k))
/-- Conversion between integer formats (R223). -/
def intNarrow (sat signed : Bool) (n : Nat) (v : Int) : Nat :=
  patternOf n (if sat then clampInt signed n v else v)

/-! ### Exact arithmetic -/

/-- The value with its sign changed. -/
def Num.negate : Num → Num
  | .nan => .nan
  | .inf s => .inf !s
  | .fin s m e => .fin (!s) m e
/-- Signed mantissa in units of 2 ^ u, for u at most the exponent. -/
def mantAt (neg : Bool) (m : Nat) (e u : Int) : Int :=
  let k : Int := (m * 2 ^ (e - u).toNat : Nat)
  if neg then -k else k
/-- Exact sum; an exact zero of opposite signs is +0, of two -0 values -0 (R308). -/
def Num.add : Num → Num → Num
  | .nan, _ => .nan
  | _, .nan => .nan
  | .inf s, .inf t => if s = t then .inf s else .nan
  | .inf s, .fin _ _ _ => .inf s
  | .fin _ _ _, .inf t => .inf t
  | .fin s m e, .fin t n f =>
    if m = 0 ∧ n = 0 then .fin (s && t) 0 0
    else
      let u := min e f
      let v := mantAt s m e u + mantAt t n f u
      .fin (decide (v < 0)) v.natAbs u
/-- Exact product (R310, R224). -/
def Num.mul : Num → Num → Num
  | .nan, _ => .nan
  | _, .nan => .nan
  | .inf s, .inf t => .inf (s != t)
  | .inf s, .fin t n _ => if n = 0 then .nan else .inf (s != t)
  | .fin s m _, .inf t => if m = 0 then .nan else .inf (s != t)
  | .fin s m e, .fin t n f => .fin (s != t) (m * n) (e + f)
/-- Is the first value less? NaN is less than nothing, and -0 equals +0 (R311). -/
def Num.less : Num → Num → Bool
  | .nan, _ => false
  | _, .nan => false
  | .inf s, .inf t => s && !t
  | .inf s, .fin _ _ _ => s
  | .fin _ _ _, .inf t => !t
  | .fin s m e, .fin t n f =>
    let u := min e f
    decide (mantAt s m e u < mantAt t n f u)
/-- Is it NaN? -/
def Num.isNan (x : Num) : Bool := decide (x = .nan)
/-- Are the values equal (R311)? -/
def Num.same (x y : Num) : Bool := !x.isNan && !y.isNan && !(x.less y) && !(y.less x)
/-- Is it a zero? -/
def Num.isZero : Num → Bool
  | .fin _ m _ => decide (m = 0)
  | _ => false
/-- Is the sign set? -/
def Num.sign : Num → Bool
  | .nan => false
  | .inf s => s
  | .fin s _ _ => s

/-! ### The functions of R313

Every result is computed as bounds in units of 2 ^ -F, and both bounds are rounded; when they round alike, that is the correctly rounded result. -/

/-- Root of a number, rounded down, from bit `n` - 1 down. -/
def rootFrom (v acc : Nat) : Nat → Nat
  | 0 => acc
  | n + 1 => if (acc + 2 ^ n) * (acc + 2 ^ n) ≤ v then rootFrom v (acc + 2 ^ n) n else rootFrom v acc n
/-- A positive value given by its floor in units of 2 ^ e and whether something is left: one more bit says so. -/
def sticky (neg : Bool) (q : Nat) (rest : Bool) (e : Int) : Num := .fin neg (2 * q + b2n rest) (e - 1)
/-- 1 / x for m × 2 ^ e, to 64 bits more than m has. -/
def rcpNum (neg : Bool) (m : Nat) (e : Int) : Num :=
  let n := Nat.log2 m + 64
  sticky neg (2 ^ n / m) (decide (2 ^ n % m ≠ 0)) (-(n : Int) - e)
/-- 1 / √x for m × 2 ^ e > 0. -/
def rsqNum (m : Nat) (e : Int) : Num :=
  let (m, e) := if e % 2 = 0 then (m, e) else (2 * m, e - 1)
  let n := Nat.log2 m + 64
  let v := 2 ^ (2 * n) / m
  let r := rootFrom v 0 (n + 1)
  sticky false r (decide (r * r * m ≠ 2 ^ (2 * n))) (-(n : Int) - e / 2)
/-- Bounds of e ^ t by its series, t in units of 2 ^ -F and below one half: terms from `i` on. -/
def expSeries (F t : Nat) : Nat → Nat → Nat → Nat → Nat → Nat → Nat × Nat
  | 0, _, _, hi, sl, sh => (sl, sh + hi + 1)
  | n + 1, i, lo, hi, sl, sh =>
    let lo' := lo * t / (2 ^ F * i)
    let hi' := hi * t / (2 ^ F * i) + 1
    expSeries F t n (i + 1) lo' hi' (sl + lo') (sh + hi')
/-- Square bounds `n` times. -/
def squares (F : Nat) : Nat → Nat × Nat → Nat × Nat
  | 0, b => b
  | n + 1, (lo, hi) => squares F n (lo * lo / 2 ^ F, hi * hi / 2 ^ F + 1)
/-- Bounds of e ^ x for x = m × 2 ^ e in 0 to 256. -/
def expBounds (F m : Nat) (e : Int) : Nat × Nat :=
  let t := m * 2 ^ (e + F - 9).toNat
  squares F 9 (expSeries F t (F / 4) 1 (2 ^ F) (2 ^ F) (2 ^ F) (2 ^ F))
/-- Bounds of 1 / y. -/
def inverse (F : Nat) (b : Nat × Nat) : Nat × Nat := (2 ^ (2 * F) / b.2, 2 ^ (2 * F) / b.1 + 1)
/-- Bounds of e ^ ± x. -/
def expSigned (F : Nat) (neg : Bool) (m : Nat) (e : Int) : Nat × Nat :=
  if neg then inverse F (expBounds F m e) else expBounds F m e
/-- Bounds of the series of atanh for a / b up to one third: sums of z ^ (2i + 1) / (2i + 1). -/
def atanhSeries (F zl zh : Nat) : Nat → Nat → Nat → Nat → Nat → Nat → Nat × Nat
  | 0, _, _, ph, sl, sh => (sl, sh + ph + 1)
  | n + 1, i, pl, ph, sl, sh =>
    let pl' := pl * zl / 2 ^ F * zl / 2 ^ F
    let ph' := (ph * zh / 2 ^ F + 1) * zh / 2 ^ F + 1
    atanhSeries F zl zh n (i + 2) pl' ph' (sl + pl / i) (sh + ph / i + 1)
/-- Bounds of 2 atanh(a / b). -/
def atanhBounds (F a b : Nat) : Nat × Nat :=
  let zl := a * 2 ^ F / b
  let zh := zl + 1
  let (lo, hi) := atanhSeries F zl zh (F / 3 + 4) 1 zl zh 0 0
  (2 * lo, 2 * hi)
/-- Bounds of ln(m × 2 ^ e). -/
def logBounds (F m : Nat) (e : Int) : Int × Int :=
  let l := Nat.log2 m
  let (fl, fh) := atanhBounds F (m - 2 ^ l) (m + 2 ^ l)
  let (tl, th) := atanhBounds F 1 3
  let k : Int := (l : Int) + e
  (k * (if k < 0 then th else tl : Nat) + fl, k * (if k < 0 then tl else th : Nat) + fh)

/-- The functions of Table 14.4. -/
inductive Special
  | sig | exp | rcp | rsq | tanh | log
  deriving DecidableEq, Repr
/-- Is |m × 2 ^ e| at least 2 ^ n? -/
def atLeast (m : Nat) (e : Int) (n : Int) : Bool := decide (m ≠ 0) && decide (n ≤ (Nat.log2 m : Nat) + e)
/-- Bounds of a function at a finite nonzero value, in units of 2 ^ -F; the sign of the result stands in them. -/
def Special.bounds (s : Special) (F : Nat) (neg : Bool) (m : Nat) (e : Int) : Int × Int :=
  let one : Nat := 2 ^ F
  match s with
  | .exp => let (a, b) := expSigned F neg m e; (a, b)
  | .sig =>
    let (a, b) := expSigned F (!neg) m e
    ((2 ^ (2 * F) / (one + b) : Nat), (2 ^ (2 * F) / (one + a) + 1 : Nat))
  | .tanh =>
    let (a, b) := expBounds F m (e + 1)
    let lo : Int := ((a - one) * one / (a + one) : Nat)
    let hi : Int := ((b - one) * one / (b + one) + 1 : Nat)
    if neg then (-hi, -lo) else (lo, hi)
  | .log => logBounds F m e
  | .rcp | .rsq => (0, 0)
/-- A bound as an exact value. -/
def boundNum (F : Nat) (v : Int) : Num := .fin (decide (v < 0)) v.natAbs (-(F : Int))
/-- Round a function by its bounds, with more and more bits; what no bound decides is left open. -/
def Special.decideBy (s : Special) (f : FloatFmt) (neg : Bool) (m : Nat) (e : Int) (left : Nat) : List Nat → Nat
  | [] => left
  | F :: rest =>
    let (lo, hi) := s.bounds F neg m e
    let a := f.rne (boundNum F lo)
    let b := f.rne (boundNum F hi)
    if a = b then a else s.decideBy f neg m e left rest
/-- The number that stands for a function among the open results. -/
def Special.number : Special → Nat
  | .sig => 0 | .exp => 1 | .rcp => 2 | .rsq => 3 | .tanh => 4 | .log => 5
/-- A function at a code of a format, rounded once (R313, Table 14.4). -/
def Special.apply (s : Special) (f : FloatFmt) (c : Nat) : Nat :=
  let one : Num := .fin false 1 0
  let tiny : Num := .fin false 1 (-400)
  let nearOne := fun (neg : Bool) => Num.fin neg (2 ^ 400 - 1) (-400)
  let undecided := (Config.undecided s.number (wrap c)).toNat % 2 ^ f.width
  match f.value c, s with
  | .nan, _ => f.nan
  | .inf neg, .sig => f.rne (if neg then .fin false 0 0 else one)
  | .inf neg, .exp => f.rne (if neg then .fin false 0 0 else .inf false)
  | .inf neg, .rcp => f.rne (.fin neg 0 0)
  | .inf neg, .rsq => f.rne (if neg then .nan else .fin false 0 0)
  | .inf neg, .tanh => f.rne (.fin neg 1 0)
  | .inf neg, .log => f.rne (if neg then .nan else .inf false)
  | .fin _ 0 _, .sig => f.rne (.fin false 1 (-1))
  | .fin _ 0 _, .exp => f.rne one
  | .fin neg 0 _, .rcp => f.rne (.inf neg)
  | .fin neg 0 _, .rsq => f.rne (.inf neg)
  | .fin neg 0 _, .tanh => f.rne (.fin neg 0 0)
  | .fin _ 0 _, .log => f.rne (.inf true)
  | .fin neg m e, .rcp => f.rne (rcpNum neg m e)
  | .fin neg m e, .rsq => f.rne (if neg then .nan else rsqNum m e)
  | .fin neg m e, .log =>
    if neg then f.nan
    else if Num.same (.fin false m e) one then f.rne (.fin false 0 0)
    else s.decideBy f neg m e undecided [320, 640, 1280]
  | .fin neg m e, .exp =>
    if atLeast m e 8 then f.rne (if neg then tiny else .fin false 1 400)
    else s.decideBy f neg m e undecided [320, 640, 1280]
  | .fin neg m e, .sig =>
    if atLeast m e 8 then f.rne (if neg then tiny else nearOne false)
    else s.decideBy f neg m e undecided [320, 640, 1280]
  | .fin neg m e, .tanh =>
    if atLeast m e 7 then f.rne (nearOne neg) else s.decideBy f neg m e undecided [320, 640, 1280]

end Sys2Proof.Machine
end

