-- ==== Sys2Proof/WellFormed.lean ====
section
/-!
DEFINITION. What the spec asks of an instruction term beyond its shape: the register runs of R232, the immediate limits of R237, the formats of R240, and, for events, numbers that name a unit of the device (chapter 0, Table 0.2).
-/
namespace Sys2Proof

/-- Integer element formats (Table 10.10). -/
def Elt.isInt : Elt → Bool
  | .i8 | .n8 | .i16 | .n16 | .i32 | .n32 | .i64 | .n64 | .i4 | .n4 => true
  | .bf16 | .f16 | .f32 => false
/-- Floating element formats of the wide unit. -/
def Elt.isFloat : Elt → Bool
  | .bf16 | .f16 | .f32 => true
  | .i8 | .n8 | .i16 | .n16 | .i32 | .n32 | .i64 | .n64 | .i4 | .n4 => false

/-- Control registers whose CWR has a row of its own. -/
def CReg.hasOwnRow : CReg → Bool
  | .xvec | .xframe | .spaceid | .bwphase | .bankmap | .sinv => true
  | .xstat | .xpc | .xcause | .xval | .partid | .slotid | .brickid | .regionid | .ackcnt | .tkt | .mqval
  | .srem0 | .srem1 | .srem2 | .devtime | .wakeat => false

/-- The checks, one arm per constructor. -/
def wellFormed : Instr → Bool
  | .add _ _ _ => true
  | .sub _ _ _ => true
  | .and _ _ _ => true
  | .or _ _ _ => true
  | .xor _ _ _ => true
  | .andn _ _ _ => true
  | .shl _ _ _ => true
  | .shr _ _ _ => true
  | .sra _ _ _ => true
  | .rol _ _ _ => true
  | .mul _ _ _ => true
  | .mulhI64 _ _ _ => true
  | .mulhN64 _ _ _ => true
  | .divI64 _ _ _ => true
  | .divN64 _ _ _ => true
  | .remI64 _ _ _ => true
  | .remN64 _ _ _ => true
  | .minI64 _ _ _ => true
  | .minN64 _ _ _ => true
  | .maxI64 _ _ _ => true
  | .maxN64 _ _ _ => true
  | .clz _ _ => true
  | .ctz _ _ => true
  | .popc _ _ => true
  | .sel _ _ _ _ => true
  | .mov _ _ => true
  | .ceq _ _ _ => true
  | .cne _ _ _ => true
  | .cltI64 _ _ _ => true
  | .cltN64 _ _ _ => true
  | .cleI64 _ _ _ => true
  | .cleN64 _ _ _ => true
  | .addImm _ _ _ => true
  | .andImm _ _ _ => true
  | .orImm _ _ _ => true
  | .xorImm _ _ _ => true
  | .shlImm _ _ _ => true
  | .shrImm _ _ _ => true
  | .sraImm _ _ _ => true
  | .lui _ _ _ => true
  | .movImm _ _ => true
  | .extN64 _ _ w p => decide (p.toNat + w.toNat + 1 ≤ 64)
  | .extI64 _ _ w p => decide (p.toNat + w.toNat + 1 ≤ 64)
  | .ins _ _ w p => decide (p.toNat + w.toNat + 1 ≤ 64)
  | .rpt _ _ _ => true
  | .beq _ _ _ => true
  | .bne _ _ _ => true
  | .bltI64 _ _ _ => true
  | .bgeI64 _ _ _ => true
  | .bltN64 _ _ _ => true
  | .bgeN64 _ _ _ => true
  | .jal _ _ => true
  | .jalr _ _ _ => true
  | .ld m r _ _ => decide (m ≠ .l ∨ r.val < 8)
  | .st m r _ _ => decide (m ≠ .l ∨ r.val < 8)
  | .stImm _ _ _ _ => true
  | .ldr _ _ _ => true
  | .ldff _ _ _ => true
  | .ldfe _ _ _ => true
  | .stef _ _ _ => true
  | .stefImm _ _ _ => true
  | .stff _ _ _ => true
  | .stffImm _ _ _ => true
  | .lrw _ _ _ => true
  | .scw _ _ _ => true
  | .migr _ _ => true
  | .prefHbm _ _ _ => true
  | .prefWake _ _ _ => true
  | .wrel _ _ _ => true
  | .wacq _ _ _ => true
  | .rbrd _ _ _ => true
  | .ralt _ _ _ => true
  | .rcap m r _ _ => decide (m ≠ .line ∨ r.val < 8)
  | .rput m r _ _ => decide (m ≠ .line ∨ r.val < 8)
  | .rputImm _ _ _ => true
  | .radd _ _ _ => true
  | .rwait _ _ _ _ => true
  | .iter _ _ => true
  | .iterRing _ _ => true
  | .nest r _ _ => decide (r.val ≤ 13)
  | .nestRing r _ _ => decide (r.val ≤ 13)
  | .amo o _ _ _ _ c => decide (o = .cas ∨ c = 0)
  | .rupd _ _ _ _ => true
  | .fenceDie => true
  | .fencePkg => true
  | .fenceSys => true
  | .rsync => true
  | .mqdq _ => true
  | .quit => true
  | .spawn _ _ b => decide (b.val ≤ 12)
  | .binit _ _ => true
  | .barr _ _ => true
  | .bwait _ _ => true
  | .wadd _ _ _ _ => true
  | .wsub _ _ _ _ => true
  | .wmul _ _ _ _ => true
  | .wmin _ _ _ _ => true
  | .wmax _ _ _ _ => true
  | .wand f _ _ _ => f.isInt
  | .wor f _ _ _ => f.isInt
  | .wxor f _ _ _ => f.isInt
  | .wshl f _ _ _ => f.isInt
  | .wshr f _ _ _ => f.isInt
  | .wsra f _ _ _ => f.isInt
  | .waddSat f _ _ _ => f.isInt
  | .wsubSat f _ _ _ => f.isInt
  | .wabs _ _ _ => true
  | .wfma f _ _ _ _ => f.isFloat
  | .wfms f _ _ _ _ => f.isFloat
  | .wfnma f _ _ _ _ => f.isFloat
  | .wfnms f _ _ _ _ => f.isFloat
  | .wceq _ _ _ _ => true
  | .wcne _ _ _ _ => true
  | .wclt _ _ _ _ => true
  | .wcle _ _ _ _ => true
  | .wsel _ _ _ _ _ => true
  | .wperm _ _ _ _ => true
  | .wbcst _ _ _ => true
  | .wmov _ _ _ => true
  | .wsig f _ _ => f.isFloat
  | .wexp f _ _ => f.isFloat
  | .wrcp f _ _ => f.isFloat
  | .wrsq f _ _ => f.isFloat
  | .wtanh f _ _ => f.isFloat
  | .wlog f _ _ => f.isFloat
  | .wdot _ _ _ _ _ _ _ => true
  | .wredSum _ _ _ => true
  | .wredMin _ _ _ => true
  | .wredMax _ _ _ => true
  | .wcvt _ _ _ _ _ _ _ => true
  | .wcvtScaled _ _ _ _ _ _ _ _ => true
  | .zld _ _ _ => true
  | .zst _ _ _ => true
  | .zset _ _ _ => true
  | .zget _ _ _ => true
  | .sbind _ _ => true
  | .hire _ _ _ => true
  | .hiret _ z n _ => decide (z.val + n.toNat ≤ 15)
  | .plse _ _ => true
  | .pcfg _ _ _ => true
  | .pwrR _ _ _ _ => true
  | .pwrC _ _ _ _ => true
  | .prdR _ _ _ _ => true
  | .prdC _ _ _ _ => true
  | .pcpy _ _ _ _ => true
  | .pfree _ => true
  | .cpy _ _ _ _ => true
  | .gath _ _ _ _ => true
  | .scat _ _ _ _ => true
  | .coll _ _ _ _ => true
  | .crd _ _ => true
  | .cwr _ c => !c.hasOwnRow
  | .cwrXvec _ => true
  | .cwrXframe _ => true
  | .cwrSpaceid _ => true
  | .cwrBwphase _ => true
  | .cwrBankmap _ => true
  | .cwrSinv _ => true
  | .trap _ => true
  | .xret => true
  | .halt => true
  | .bkpt _ => true
  | .save _ => true
  | .restore _ => true
  | .hloc _ _ => true
  | .islandStart isl => decide (isl < 64)
  | .islandReady isl => decide (isl < 64)
  | .kilnEnable k => decide (k < 128)
  | .islandLeaveHold isl => decide (isl < 64)
  | .kilnPointSwitch k => decide (k < 128)
  | .healthReport => true
  | .queueLiveClear f => decide (f < 9)
  | .queuePoll f => decide (f < 9)
  | .nop f _ => decide (f < 9)
  | .vddestroy f _ => decide (f < 9)
  | .vddestroyDrained vd => decide (vd < 16)
  | .load f _ _ => decide (f < 9)
  | .fetch f _ _ => decide (f < 9)
  | .launch f _ _ => decide (f < 9)
  | .launchResponse vd => decide (vd < 16)
  | .cancel f _ => decide (f < 9)
  | .cancelDone f _ => decide (f < 9)
  | .info f _ => decide (f < 9)
  | .steersetRule f _ => decide (f < 9)
  | .steersetQueue f _ => decide (f < 9)
  | .updateHandoff => true
  | .updateHealthReport => true
  | .updateFallback => true
  | .unknownRequest f _ => decide (f < 9)
  | .rekeyDrained w => decide (w < 64)
  | .rekeyClose w => decide (w < 64)
  | .debugHaltTakesEffect b n => decide (b < 2048 ∧ n < 8)
  | .subbankWakeDone b sb => decide (b < 2048 ∧ sb < 16)
  | .subbankPowerUpDone b sb => decide (b < 2048 ∧ sb < 16)
  | .pchWakeDone _ => true
  | .storeDepart _ => true
  | .storeAtHome _ _ => true
  | .loadAtHome _ _ => true
  | .atomicAtHome _ _ => true
  | .fullEmptyAtHome _ _ => true
  | .reservationAtHome _ _ => true
  | .ackArrive _ => true
  | .replyArrive _ => true
  | .faultHandlerPlace vd => decide (vd < 16)
  | .invalidateComplete _ => true
  | .reservationTimeout _ => true
  | .haltWake b n => decide (b < 2048 ∧ n < 8)
  | .spawnPlace _ => true
  | .migrationArrive _ _ => true
  | .arrivalSpill b vd => decide (b < 2048 ∧ vd < 16)
  | .gangSwitch _ => true
  | .slotHandover b n => decide (b < 2048 ∧ n < 8)
  | .entryAge die => decide (die < 4)
  | .grant die k => decide (die < 4 ∧ k < 128)
  | .hodStart _ => true
  | .hodEnd _ => true
  | .hodComplete _ => true
  | .inboxEntryArrive _ => true
  | .engineCommandStart _ => true
  | .engineComplete _ => true
  | .collArrive _ => true
  | .collPatienceExpiry _ => true
  | .prefComplete _ => true
  | .barrierArrival _ => true
  | .ringMiss _ => true
  | .illegalInstruction _ => true
  | .fetchFault => true
  | .spareLineRemapDone b sb _ => decide (b < 2048 ∧ sb < 16)
  | .spareRowRepairDone _ => true
  | .majorRolloverDone _ => true
  | .coldReset => true
  | .drstGo => true
  | .pfFunctionLevelReset => true
  | .vfFunctionLevelReset f => decide (f < 9)
  | .thermalTrip => true
  | .thermalHold die => decide (die < 4)
  | .watchdogReset => true
  | .lifeCycleChange _ => true
  | .rcmdGo _ => true
  | .islandEnterHold isl => decide (isl < 64)
  | .islandEnterOff isl => decide (isl < 64)
  | .powerSample _ => true
  | .qctlEnable f => decide (f < 9)
  | .qctlDisable f => decide (f < 9)
  | .hostRegisterWrite f _ _ => decide (f < 9)
  | .vdcreate f _ _ _ => decide (f < 9)
  | .update f _ => decide (f < 9)
  | .vdkey vd => decide (vd < 16)
  | .vderase vd => decide (vd < 16)
  | .winopen w _ _ _ => decide (w < 64)
  | .winmembers w _ => decide (w < 64)
  | .winclose w => decide (w < 64)
  | .attest vd _ => decide (vd < 16)
  | .spdmGetMeasurements f => decide (f < 9)
  | .debugList vd => decide (vd < 16)
  | .debugHalt vd _ => decide (vd < 16)
  | .debugRead vd _ => decide (vd < 16)
  | .debugWrite vd _ _ => decide (vd < 16)
  | .debugStep vd _ => decide (vd < 16)
  | .debugResume vd _ => decide (vd < 16)
  | .hashmaskWrite stack _ => decide (stack < 12)
  | .hypInvalidate vd _ => decide (vd < 16)
  | .frameAccept port _ => decide (port < 2)
  | .frameDropAtPort port _ => decide (port < 2)
  | .ptpEventMessage port _ => decide (port < 2)
  | .ppsInput _ => true
  | .flitReceive port _ => decide (port < 16)
  | .retrainComplete port _ => decide (port < 16)
  | .patrolScrub _ _ => true
  | .subbankWithdraw b sb => decide (b < 2048 ∧ sb < 16)
  | .channelRebuildComplete stack => decide (stack < 12)
  | .subbankRetention b sb => decide (b < 2048 ∧ sb < 16)
  | .pchPowerDown _ => true
  | .pchSelfRefresh _ => true
  | .demandFaultRetry _ _ => true
  | .demandFaultLong _ => true
  | .demandFaultFatal _ => true
  | .pagePresent _ _ => true
  | .gangSwitchArm _ _ _ => true
  | .ringStow ring idx => decide (ring < 4 ∧ idx < 512)
  | .ringReboard b line => decide (b < 2048 ∧ line < 16384)
  | .ringBoardApply b n => decide (b < 2048 ∧ n < 8)
  | .ringCaptureApply b n => decide (b < 2048 ∧ n < 8)
  | .ringPutApply b n => decide (b < 2048 ∧ n < 8)
  | .ringAddApply b n => decide (b < 2048 ∧ n < 8)
  | .ringWaitApply b n => decide (b < 2048 ∧ n < 8)
  | .ringClaimApply b n => decide (b < 2048 ∧ n < 8)
  | .ringAlightMatch b n => decide (b < 2048 ∧ n < 8)
  | .ringAlightWriteback ring idx => decide (ring < 4 ∧ idx < 512)
  | .ringSlotError ring idx _ => decide (ring < 4 ∧ idx < 512)
  | .debugAttach who => decide (who.vd < 16)
  | .debugDetach vd => decide (vd < 16)
  | .ringLockClear b line => decide (b < 2048 ∧ line < 16384)

/-- An instruction term that the spec admits. -/
abbrev WellFormed (i : Instr) : Prop := wellFormed i = true

end Sys2Proof
end

