-- ==== Sys2Proof/Decode.lean ====
section
/-!
DEFINITION. The words of the instruction set: the nine formats (R231), the fields (R232 to R234), the opcode map (R235 to R245), decoding of any word, and the encoder.
-/
namespace Sys2Proof

/-- Why a word is no instruction (R246), or why bytes hold no word. -/
inductive DecodeError
  | permanentlyIllegal | unassignedMajor | unassignedFunction | unassignedMode | unassignedFormat | unassignedPairing
  | unassignedPort | unassignedRegister | nonzeroField | registerLimit | immediateLimit | tooShort
  deriving DecidableEq, Repr

/-- The answer of the decoder. -/
abbrev Decoded := Except DecodeError Instr

/-! ### Fields of a word -/

/-- The `len` bits of `w` from bit `lo` up. -/
def field (w : IWord) (lo len : Nat) : BitVec len := BitVec.ofNat len (w.toNat / 2 ^ lo)

/-- A 4-bit register field at bit `lo`. -/
def fieldG (w : IWord) (lo : Nat) : GReg := (field w lo 4).toFin
/-- A 3-bit wide-register field at bit `lo`. -/
def fieldW (w : IWord) (lo : Nat) : WReg := (field w lo 3).toFin

/-- Major opcode, bits [31:25] (R231). -/
def fMajor (w : IWord) : BitVec 7 := field w 25 7
/-- dst of formats A, I, J and S, sa of format B, reg of format M, z of format Z, tk of format H: bits [24:21]. -/
def fD (w : IWord) : GReg := fieldG w 21
/-- sa of formats A and I, sb of format B, base of format M, g of format Z, z of format H: bits [20:17]. -/
def fA (w : IWord) : GReg := fieldG w 17
/-- sb of format A: bits [16:13]. -/
def fB (w : IWord) : GReg := fieldG w 13
/-- sc of format A and sg of format W: bits [12:9]. -/
def fC (w : IWord) : GReg := fieldG w 9
/-- fn of formats A and S: bits [8:0]. -/
def fFn (w : IWord) : BitVec 9 := field w 0 9
/-- imm17 and off17: bits [16:0]. -/
def fI17 (w : IWord) : BitVec 17 := field w 0 17
/-- off21: bits [20:0]. -/
def fO21 (w : IWord) : BitVec 21 := field w 0 21
/-- mode of format M: bits [16:14]. -/
def fMode (w : IWord) : BitVec 3 := field w 14 3
/-- imm14 of format M: bits [13:0]. -/
def fI14 (w : IWord) : BitVec 14 := field w 0 14
/-- wd of format W: bits [24:22]. -/
def fWd (w : IWord) : WReg := fieldW w 22
/-- wa of format W: bits [21:19]. -/
def fWa (w : IWord) : WReg := fieldW w 19
/-- wb of format W: bits [18:16]. -/
def fWb (w : IWord) : WReg := fieldW w 16
/-- wc of format W: bits [15:13]. -/
def fWc (w : IWord) : WReg := fieldW w 13
/-- fmt of format W: bits [8:4]. -/
def fFmt (w : IWord) : BitVec 5 := field w 4 5
/-- fn of format W: bits [3:0]. -/
def fWfn (w : IWord) : BitVec 4 := field w 0 4
/-- field of format Z: bits [16:11]. -/
def fZf (w : IWord) : BitVec 6 := field w 11 6
/-- imm11 of format Z and fn of format H: bits [10:0]. -/
def fI11 (w : IWord) : BitVec 11 := field w 0 11
/-- train of format H: bits [16:14]. -/
def fTrain (w : IWord) : BitVec 3 := field w 14 3
/-- lane of format H: bits [13:11]. -/
def fLane (w : IWord) : BitVec 3 := field w 11 3
/-- creg of format S: bits [20:9]. -/
def fCreg (w : IWord) : BitVec 12 := field w 9 12

/-! ### Codes of the small types -/

/-- Mode of LD (Table 10.13). -/
def LdMode.code : LdMode → BitVec 3
  | .b => 0 | .q => 1 | .h => 2 | .w => 3 | .l => 4 | .bs => 5 | .qs => 6 | .hs => 7
/-- The LD form of a mode value: every value is assigned. -/
def LdMode.ofCode (c : BitVec 3) : LdMode :=
  match c.toNat with
  | 0 => .b | 1 => .q | 2 => .h | 3 => .w | 4 => .l | 5 => .bs | 6 => .qs | _ => .hs
/-- Mode of ST (Table 10.13). -/
def StMode.code : StMode → BitVec 3
  | .b => 0 | .q => 1 | .h => 2 | .w => 3 | .l => 4
/-- The ST form of a mode value. -/
def StMode.ofCode (c : BitVec 3) : Option StMode :=
  match c.toNat with
  | 0 => some .b | 1 => some .q | 2 => some .h | 3 => some .w | 4 => some .l | _ => none
/-- Mode of ST from an immediate source (Table 10.13). -/
def StiMode.code : StiMode → BitVec 3
  | .b => 0 | .q => 1 | .h => 2 | .w => 3
/-- The immediate ST form of a mode value. -/
def StiMode.ofCode (c : BitVec 3) : Option StiMode :=
  match c.toNat with
  | 0 => some .b | 1 => some .q | 2 => some .h | 3 => some .w | _ => none
/-- Mode of RCAP and RPUT (Table 10.13). -/
def RingForm.code : RingForm → BitVec 3
  | .word => 3 | .line => 4
/-- The RCAP or RPUT form of a mode value. -/
def RingForm.ofCode (c : BitVec 3) : Option RingForm :=
  match c.toNat with
  | 3 => some .word | 4 => some .line | _ => none
/-- Mode of RWAIT (Table 10.13). -/
def RwCond.code : RwCond → BitVec 3
  | .eq => 0 | .ne => 1 | .ltn => 2 | .gen => 3 | .lti => 4 | .gei => 5
/-- The RWAIT condition of a mode value. -/
def RwCond.ofCode (c : BitVec 3) : Option RwCond :=
  match c.toNat with
  | 0 => some .eq | 1 => some .ne | 2 => some .ltn | 3 => some .gen | 4 => some .lti | 5 => some .gei | _ => none
/-- Operation code of RUPD (R239). -/
def RmwOp.code : RmwOp → Nat
  | .add => 0 | .and => 1 | .or => 2 | .xor => 3 | .minI => 4 | .maxI => 5 | .minN => 6 | .maxN => 7
/-- The read-modify-write operation of a code 0 to 7. -/
def RmwOp.ofCode (c : Nat) : RmwOp :=
  match c with
  | 0 => .add | 1 => .and | 2 => .or | 3 => .xor | 4 => .minI | 5 => .maxI | 6 => .minN | _ => .maxN
/-- Operation code of AMO (R239). -/
def AmoOp.code : AmoOp → Nat
  | .rmw o => o.code | .swap => 8 | .cas => 9
/-- The AMO operation of a code. -/
def AmoOp.ofCode (c : Nat) : Option AmoOp :=
  if c < 8 then some (.rmw (RmwOp.ofCode c)) else if c = 8 then some .swap else if c = 9 then some .cas else none
/-- Size bit of AMO and RUPD (R239). -/
def AmoSize.code : AmoSize → Nat
  | .h => 0 | .w => 1
/-- The size of a size bit. -/
def AmoSize.ofCode (c : Nat) : AmoSize := if c = 0 then .h else .w
/-- Element code of the wide majors (Table 10.10). -/
def Elt.code : Elt → BitVec 5
  | .i8 => 1 | .n8 => 2 | .i16 => 3 | .n16 => 4 | .i32 => 5 | .n32 => 6 | .i64 => 7 | .n64 => 8
  | .i4 => 9 | .n4 => 10 | .bf16 => 11 | .f16 => 12 | .f32 => 13
/-- The element format of a code 0x01 to 0x0D. -/
def Elt.ofCode (c : BitVec 5) : Option Elt :=
  match c.toNat with
  | 1 => some .i8 | 2 => some .n8 | 3 => some .i16 | 4 => some .n16 | 5 => some .i32 | 6 => some .n32
  | 7 => some .i64 | 8 => some .n64 | 9 => some .i4 | 10 => some .n4 | 11 => some .bf16 | 12 => some .f16
  | 13 => some .f32 | _ => none
/-- Bits [4:0] of a binary8 code: group (signed, extended) and K = P (Table 10.10). -/
def Bin8.code (f : Bin8) : BitVec 5 :=
  BitVec.ofNat 5 ((if f.signed then 0 else 16) + (if f.ext then 8 else 0) + f.p.val + 1)
/-- The binary8 format of bits [4:0]; K = 0 is unassigned. -/
def Bin8.ofCode (c : BitVec 5) : Option Bin8 :=
  if c.toNat % 8 = 0 then none
  else some ⟨decide (c.toNat / 16 = 0), decide (c.toNat / 8 % 2 = 1), Fin.ofNat 7 (c.toNat % 8 - 1)⟩
/-- Bit [5] of an element code: 1 for the binary8 family (R234). -/
def Fmt.isBin8 : Fmt → Bool
  | .elt _ => false | .b8 _ => true
/-- Bits [4:0] of an element code. -/
def Fmt.code : Fmt → BitVec 5
  | .elt e => e.code | .b8 f => f.code
/-- The format of bit [5] and bits [4:0]. -/
def Fmt.ofCode (bit5 : Bool) (c : BitVec 5) : Option Fmt :=
  if bit5 then (Bin8.ofCode c).map .b8 else (Elt.ofCode c).map .elt
/-- Pivot code pv (R242). -/
def Pivot.code : Pivot → Nat
  | .f32 => 0 | .bf16 => 1 | .f16 => 2 | .i32 => 3
/-- The pivot of a code. -/
def Pivot.ofCode (c : Nat) : Pivot :=
  match c with
  | 0 => .f32 | 1 => .bf16 | 2 => .f16 | _ => .i32
/-- Rounding code (Table 9.7). -/
def Rnd.code : Rnd → Nat
  | .rn => 0 | .rz => 1 | .rd => 2 | .ru => 3
/-- The rounding mode of a code. -/
def Rnd.ofCode (c : Nat) : Rnd :=
  match c with
  | 0 => .rn | 1 => .rz | 2 => .rd | _ => .ru
/-- Pairing code of WDOT (R240). -/
def Pairing.code : Pairing → Nat
  | .i8i8 => 0 | .n8n8 => 1 | .i8n8 => 2 | .i16i16 => 3 | .n16n16 => 4 | .i4i4 => 5 | .n4n4 => 6
/-- The pairing of a code; 7 is unassigned. -/
def Pairing.ofCode (c : Nat) : Option Pairing :=
  match c with
  | 0 => some .i8i8 | 1 => some .n8n8 | 2 => some .i8n8 | 3 => some .i16i16 | 4 => some .n16n16 | 5 => some .i4i4
  | 6 => some .n4n4 | _ => none
/-- Lane format code of WDOT (R240). -/
def DotLane.code : DotLane → BitVec 5
  | .i32 => 5 | .n32 => 6 | .i64 => 7 | .n64 => 8
/-- The WDOT lane format of a code. -/
def DotLane.ofCode (c : BitVec 5) : Option DotLane :=
  match c.toNat with
  | 5 => some .i32 | 6 => some .n32 | 7 => some .i64 | 8 => some .n64 | _ => none
/-- Number of a control register (Table 16.2). -/
def CReg.code : CReg → BitVec 12
  | .xstat => 0x000 | .xpc => 0x001 | .xcause => 0x002 | .xval => 0x003 | .xvec => 0x004 | .xframe => 0x005
  | .spaceid => 0x010 | .partid => 0x011 | .slotid => 0x012 | .brickid => 0x013 | .regionid => 0x014
  | .ackcnt => 0x020 | .tkt => 0x021 | .mqval => 0x022 | .srem0 => 0x023 | .srem1 => 0x024 | .srem2 => 0x025
  | .devtime => 0x030 | .wakeat => 0x031 | .bwphase => 0x040 | .bankmap => 0x041 | .sinv => 0x042
/-- The control register of a number. -/
def CReg.ofCode (c : BitVec 12) : Option CReg :=
  match c.toNat with
  | 0x000 => some .xstat | 0x001 => some .xpc | 0x002 => some .xcause | 0x003 => some .xval | 0x004 => some .xvec
  | 0x005 => some .xframe | 0x010 => some .spaceid | 0x011 => some .partid | 0x012 => some .slotid
  | 0x013 => some .brickid | 0x014 => some .regionid | 0x020 => some .ackcnt | 0x021 => some .tkt
  | 0x022 => some .mqval | 0x023 => some .srem0 | 0x024 => some .srem1 | 0x025 => some .srem2
  | 0x030 => some .devtime | 0x031 => some .wakeat | 0x040 => some .bwphase | 0x041 => some .bankmap
  | 0x042 => some .sinv | _ => none

/-! ### Decoding by major opcode -/

/-- Go on if `c` holds, else refuse the word for reason `e`. -/
def need (c : Bool) (e : DecodeError) (k : Decoded) : Decoded := if c then k else .error e
/-- Go on with the value found, else refuse the word for reason `e`. -/
def needSome {α : Type} (o : Option α) (e : DecodeError) (k : α → Decoded) : Decoded :=
  match o with
  | some a => k a
  | none => .error e

/-- A three-register word of major 0x01: sc must be 0 (R236). -/
def threeReg (w : IWord) (f : GReg → GReg → GReg → Instr) : Decoded :=
  need (fC w = 0) .nonzeroField (.ok (f (fD w) (fA w) (fB w)))
/-- A two-register word of major 0x01: sb and sc must be 0 (R236). -/
def twoReg (w : IWord) (f : GReg → GReg → Instr) : Decoded :=
  need (fB w = 0 ∧ fC w = 0) .nonzeroField (.ok (f (fD w) (fA w)))

/-- Major 0x01 (Table 10.12). -/
def decodeScalar (w : IWord) : Decoded :=
  match (fFn w).toNat with
  | 0x000 => threeReg w .add
  | 0x001 => threeReg w .sub
  | 0x002 => threeReg w .and
  | 0x003 => threeReg w .or
  | 0x004 => threeReg w .xor
  | 0x005 => threeReg w .andn
  | 0x006 => threeReg w .shl
  | 0x007 => threeReg w .shr
  | 0x008 => threeReg w .sra
  | 0x009 => threeReg w .rol
  | 0x010 => threeReg w .mul
  | 0x011 => threeReg w .mulhI64
  | 0x012 => threeReg w .mulhN64
  | 0x013 => threeReg w .divI64
  | 0x014 => threeReg w .divN64
  | 0x015 => threeReg w .remI64
  | 0x016 => threeReg w .remN64
  | 0x020 => threeReg w .minI64
  | 0x021 => threeReg w .minN64
  | 0x022 => threeReg w .maxI64
  | 0x023 => threeReg w .maxN64
  | 0x030 => twoReg w .clz
  | 0x031 => twoReg w .ctz
  | 0x032 => twoReg w .popc
  | 0x041 => twoReg w .mov
  | 0x050 => threeReg w .ceq
  | 0x051 => threeReg w .cne
  | 0x052 => threeReg w .cltI64
  | 0x053 => threeReg w .cltN64
  | 0x054 => threeReg w .cleI64
  | 0x055 => threeReg w .cleN64
  | 0x040 => .ok (.sel (fD w) (fA w) (fB w) (fC w))
  | _ => .error .unassignedFunction

/-- A shift by an immediate: imm17[16:6] must be 0 (R237). -/
def shiftImm (w : IWord) (f : GReg → GReg → BitVec 6 → Instr) : Decoded :=
  need (field w 6 11 = 0) .immediateLimit (.ok (f (fD w) (fA w) (field w 0 6)))
/-- A bit-field word: imm17[16:12] must be 0 and p + width at most 64 (R237, R264). -/
def fieldImm (w : IWord) (f : GReg → GReg → BitVec 6 → BitVec 6 → Instr) : Decoded :=
  need (field w 12 5 = 0) .nonzeroField
    (need ((field w 0 6).toNat + (field w 6 6).toNat + 1 ≤ 64) .immediateLimit
      (.ok (f (fD w) (fA w) (field w 6 6) (field w 0 6))))
/-- LUI: sa[3:2] and imm17[16] must be 0 (R237). -/
def decodeLui (w : IWord) : Decoded :=
  need (field w 19 2 = 0 ∧ field w 16 1 = 0) .nonzeroField (.ok (.lui (fD w) (field w 17 2) (field w 0 16)))
/-- RPT: off21[5:0] must be 0 (R237). -/
def decodeRpt (w : IWord) : Decoded :=
  need (field w 0 6 = 0) .nonzeroField (.ok (.rpt (field w 21 4) (field w 18 3) (field w 6 12)))
/-- BINIT and BARR: dst and imm17[16:7] must be 0 (R237). -/
def barrierImm (w : IWord) (f : GReg → BitVec 7 → Instr) : Decoded :=
  need (fD w = 0 ∧ field w 7 10 = 0) .nonzeroField (.ok (f (fA w) (field w 0 7)))

/-- A format-M word whose one mode is `m` (Table 10.13). -/
def oneMode (w : IWord) (m : Nat) (f : GReg → GReg → BitVec 14 → Instr) : Decoded :=
  need ((fMode w).toNat = m) .unassignedMode (.ok (f (fD w) (fA w) (fI14 w)))
/-- A format-M word with an immediate source and the one mode `m` (Table 10.13). -/
def oneModeImm (w : IWord) (m : Nat) (f : BitVec 4 → GReg → BitVec 14 → Instr) : Decoded :=
  need ((fMode w).toNat = m) .unassignedMode (.ok (f (field w 21 4) (fA w) (fI14 w)))
/-- LD: in the line form reg names a w register and bit [24] must be 0 (R232). -/
def decodeLd (w : IWord) : Decoded :=
  need (LdMode.ofCode (fMode w) ≠ .l ∨ (fD w).val < 8) .registerLimit
    (.ok (.ld (LdMode.ofCode (fMode w)) (fD w) (fA w) (fI14 w)))
/-- ST from a register (R232, Table 10.13). -/
def decodeSt (w : IWord) : Decoded :=
  needSome (StMode.ofCode (fMode w)) .unassignedMode fun m =>
    need (m ≠ .l ∨ (fD w).val < 8) .registerLimit (.ok (.st m (fD w) (fA w) (fI14 w)))
/-- ST from an immediate (Table 10.13). -/
def decodeStImm (w : IWord) : Decoded :=
  needSome (StiMode.ofCode (fMode w)) .unassignedMode fun m =>
    .ok (.stImm m (field w 21 4) (fA w) (fI14 w))
/-- RCAP and RPUT (R232, Table 10.13). -/
def ringWord (w : IWord) (f : RingForm → GReg → GReg → BitVec 14 → Instr) : Decoded :=
  needSome (RingForm.ofCode (fMode w)) .unassignedMode fun m =>
    need (m ≠ .line ∨ (fD w).val < 8) .registerLimit (.ok (f m (fD w) (fA w) (fI14 w)))
/-- RWAIT (Table 10.13). -/
def decodeRwait (w : IWord) : Decoded :=
  needSome (RwCond.ofCode (fMode w)) .unassignedMode fun c => .ok (.rwait c (fD w) (fA w) (fI14 w))
/-- MIGR: reg and mode must be 0 (Table 10.13). -/
def decodeMigr (w : IWord) : Decoded :=
  need ((fMode w).toNat = 0) .unassignedMode (need (fD w = 0) .nonzeroField (.ok (.migr (fA w) (fI14 w))))
/-- PREF: mode 0 is .hbm and mode 1 is .wake (Table 10.13). -/
def decodePref (w : IWord) : Decoded :=
  match (fMode w).toNat with
  | 0 => .ok (.prefHbm (fD w) (fA w) (fI14 w))
  | 1 => .ok (.prefWake (fD w) (fA w) (fI14 w))
  | _ => .error .unassignedMode
/-- ITER: reg must be 0; mode 1 is .ring (Table 10.13). -/
def decodeIter (w : IWord) : Decoded :=
  match (fMode w).toNat with
  | 0 => need (fD w = 0) .nonzeroField (.ok (.iter (fA w) (fI14 w)))
  | 1 => need (fD w = 0) .nonzeroField (.ok (.iterRing (fA w) (fI14 w)))
  | _ => .error .unassignedMode
/-- NEST: the three operands need reg at most 13 (R232); mode 1 is .ring (Table 10.13). -/
def decodeNest (w : IWord) : Decoded :=
  match (fMode w).toNat with
  | 0 => need ((fD w).val ≤ 13) .registerLimit (.ok (.nest (fD w) (fA w) (fI14 w)))
  | 1 => need ((fD w).val ≤ 13) .registerLimit (.ok (.nestRing (fD w) (fA w) (fI14 w)))
  | _ => .error .unassignedMode

/-- AMO: fn[3:0] must be 0; sc is in use by cas only (R239). -/
def decodeAmo (w : IWord) : Decoded :=
  needSome (AmoOp.ofCode (field w 5 4).toNat) .unassignedFunction fun o =>
    need (field w 0 4 = 0 ∧ (o = .cas ∨ fC w = 0)) .nonzeroField
      (.ok (.amo o (AmoSize.ofCode (field w 4 1).toNat) (fD w) (fA w) (fB w) (fC w)))
/-- RUPD: operations 0 to 7; dst, sc and fn[3:0] must be 0 (R239). -/
def decodeRupd (w : IWord) : Decoded :=
  need (field w 8 1 = 0) .unassignedFunction
    (need (fD w = 0 ∧ fC w = 0 ∧ field w 0 4 = 0) .nonzeroField
      (.ok (.rupd (RmwOp.ofCode (field w 5 3).toNat) (AmoSize.ofCode (field w 4 1).toNat) (fA w) (fB w))))

/-- A word with no register fields: bits [24:9] must be 0. -/
def noReg (w : IWord) (i : Instr) : Decoded := need (field w 9 16 = 0) .nonzeroField (.ok i)
/-- Major 0x3C (Table 10.14); SPAWN's four arguments need sb at most 12 (R232). -/
def decodeSync (w : IWord) : Decoded :=
  match (fFn w).toNat with
  | 0x001 => noReg w .fenceDie
  | 0x002 => noReg w .fencePkg
  | 0x003 => noReg w .fenceSys
  | 0x010 => noReg w .rsync
  | 0x020 => need (field w 9 12 = 0) .nonzeroField (.ok (.mqdq (fD w)))
  | 0x030 => noReg w .quit
  | 0x040 =>
    need (fC w = 0) .nonzeroField (need ((fB w).val ≤ 12) .registerLimit (.ok (.spawn (fD w) (fA w) (fB w))))
  | _ => .error .unassignedFunction

/-- The element format of fmt, allowed by the Formats column when `ok` says so (R240). -/
def needElt (w : IWord) (ok : Elt → Bool) (k : Elt → Decoded) : Decoded :=
  needSome (Elt.ofCode (fFmt w)) .unassignedFormat fun e => need (ok e) .unassignedFormat (k e)
/-- A wide word that uses wd, wa and wb: wc and sg must be 0 (R240, R241). -/
def wideThree (w : IWord) (ok : Elt → Bool) (f : Elt → WReg → WReg → WReg → Instr) : Decoded :=
  needElt w ok fun e => need (fWc w = 0 ∧ fC w = 0) .nonzeroField (.ok (f e (fWd w) (fWa w) (fWb w)))
/-- A wide word that uses wd and wa. -/
def wideTwo (w : IWord) (ok : Elt → Bool) (f : Elt → WReg → WReg → Instr) : Decoded :=
  needElt w ok fun e => need (fWb w = 0 ∧ fWc w = 0 ∧ fC w = 0) .nonzeroField (.ok (f e (fWd w) (fWa w)))
/-- A wide word that uses wd, wa, wb and wc. -/
def wideFour (w : IWord) (ok : Elt → Bool) (f : Elt → WReg → WReg → WReg → WReg → Instr) : Decoded :=
  needElt w ok fun e => need (fC w = 0) .nonzeroField (.ok (f e (fWd w) (fWa w) (fWb w) (fWc w)))
/-- A reduction: it uses sg and wa (Table 10.15). -/
def wideRed (w : IWord) (f : Elt → GReg → WReg → Instr) : Decoded :=
  needElt w (fun _ => true) fun e =>
    need (fWd w = 0 ∧ fWb w = 0 ∧ fWc w = 0) .nonzeroField (.ok (f e (fC w) (fWa w)))
/-- WBCST: it uses wd and sg (Table 10.15). -/
def decodeWbcst (w : IWord) : Decoded :=
  needElt w (fun _ => true) fun e =>
    need (fWa w = 0 ∧ fWb w = 0 ∧ fWc w = 0) .nonzeroField (.ok (.wbcst e (fWd w) (fC w)))

/-- Major 0x40 (Table 10.15). -/
def decodeWideAlu (w : IWord) : Decoded :=
  match (fWfn w).toNat with
  | 0 => wideThree w (fun _ => true) .wadd
  | 1 => wideThree w (fun _ => true) .wsub
  | 2 => wideThree w (fun _ => true) .wmul
  | 3 => wideThree w (fun _ => true) .wmin
  | 4 => wideThree w (fun _ => true) .wmax
  | 5 => wideThree w Elt.isInt .wand
  | 6 => wideThree w Elt.isInt .wor
  | 7 => wideThree w Elt.isInt .wxor
  | 8 => wideThree w Elt.isInt .wshl
  | 9 => wideThree w Elt.isInt .wshr
  | 10 => wideThree w Elt.isInt .wsra
  | 11 => wideThree w Elt.isInt .waddSat
  | 12 => wideThree w Elt.isInt .wsubSat
  | 13 => wideTwo w (fun _ => true) .wabs
  | _ => .error .unassignedFunction
/-- Major 0x41 (Table 10.15). -/
def decodeWideFma (w : IWord) : Decoded :=
  match (fWfn w).toNat with
  | 0 => wideFour w Elt.isFloat .wfma
  | 1 => wideFour w Elt.isFloat .wfms
  | 2 => wideFour w Elt.isFloat .wfnma
  | 3 => wideFour w Elt.isFloat .wfnms
  | _ => .error .unassignedFunction
/-- Major 0x42 (Table 10.15). -/
def decodeWideCmp (w : IWord) : Decoded :=
  match (fWfn w).toNat with
  | 0 => wideThree w (fun _ => true) .wceq
  | 1 => wideThree w (fun _ => true) .wcne
  | 2 => wideThree w (fun _ => true) .wclt
  | 3 => wideThree w (fun _ => true) .wcle
  | 4 => wideFour w (fun _ => true) .wsel
  | _ => .error .unassignedFunction
/-- Major 0x43 (Table 10.15). -/
def decodeWideMove (w : IWord) : Decoded :=
  match (fWfn w).toNat with
  | 0 => wideThree w (fun _ => true) .wperm
  | 1 => decodeWbcst w
  | 2 => wideTwo w (fun _ => true) .wmov
  | _ => .error .unassignedFunction
/-- Major 0x44 (Table 10.15). -/
def decodeWideFun (w : IWord) : Decoded :=
  match (fWfn w).toNat with
  | 0 => wideTwo w Elt.isFloat .wsig
  | 1 => wideTwo w Elt.isFloat .wexp
  | 2 => wideTwo w Elt.isFloat .wrcp
  | 3 => wideTwo w Elt.isFloat .wrsq
  | 4 => wideTwo w Elt.isFloat .wtanh
  | 5 => wideTwo w Elt.isFloat .wlog
  | _ => .error .unassignedFunction
/-- Major 0x45, WDOT (R240). -/
def decodeWdot (w : IWord) : Decoded :=
  needSome (DotLane.ofCode (fFmt w)) .unassignedFormat fun l =>
    needSome (Pairing.ofCode (field w 0 3).toNat) .unassignedPairing fun p =>
      need (fC w = 0) .nonzeroField
        (.ok (.wdot l (decide (field w 3 1 = 1)) p (fWd w) (fWa w) (fWb w) (fWc w)))
/-- Major 0x46 (Table 10.15). -/
def decodeWideRed (w : IWord) : Decoded :=
  match (fWfn w).toNat with
  | 0 => wideRed w .wredSum
  | 1 => wideRed w .wredMin
  | 2 => wideRed w .wredMax
  | _ => .error .unassignedFunction
/-- Majors 0x48 to 0x57, WCVT (R242): the major is 0x48 + 8 × sc + 4 × dir + pv. -/
def decodeWcvt (w : IWord) (scaled : Bool) : Decoded :=
  needSome (Fmt.ofCode (decide (field w 0 1 = 1)) (fFmt w)) .unassignedFormat fun f =>
    need (fWb w = 0 ∧ fWc w = 0) .nonzeroField
      (if scaled then
        .ok (.wcvtScaled (decide (field w 27 1 = 1)) (Pivot.ofCode (field w 25 2).toNat) f (decide (field w 3 1 = 1))
          (Rnd.ofCode (field w 1 2).toNat) (fWd w) (fWa w) (fC w))
      else
        need (fC w = 0) .nonzeroField
          (.ok (.wcvt (decide (field w 27 1 = 1)) (Pivot.ofCode (field w 25 2).toNat) f (decide (field w 3 1 = 1))
            (Rnd.ofCode (field w 1 2).toNat) (fWd w) (fWa w))))

/-- ZLD and ZST: field must be 0 (Table 10.16). -/
def zMem (w : IWord) (f : ZReg → GReg → BitVec 11 → Instr) : Decoded :=
  need (fZf w = 0) .nonzeroField (.ok (f (fD w) (fA w) (fI11 w)))
/-- ZSET and ZGET: field[5:3] and imm11 must be 0 (Table 10.16). -/
def zWord (w : IWord) (f : ZReg → GReg → BitVec 3 → Instr) : Decoded :=
  need (field w 14 3 = 0 ∧ fI11 w = 0) .nonzeroField (.ok (f (fD w) (fA w) (field w 11 3)))
/-- SBIND: ports 0 to 2; g and imm11 must be 0 (Table 10.16, R320). -/
def decodeSbind (w : IWord) : Decoded :=
  need (fA w = 0 ∧ fI11 w = 0) .nonzeroField
    (match (fZf w).toNat with
    | 0 => .ok (.sbind (fD w) 0)
    | 1 => .ok (.sbind (fD w) 1)
    | 2 => .ok (.sbind (fD w) 2)
    | _ => .error .unassignedPort)
/-- HIRE: train and fn must be 0 (Table 10.16). -/
def decodeHire (w : IWord) : Decoded :=
  need (fTrain w = 0 ∧ fI11 w = 0) .nonzeroField (.ok (.hire (fD w) (fA w) (fLane w)))
/-- HIRET: fn must be 0, and z + train must be at most 15 (R232). -/
def decodeHiret (w : IWord) : Decoded :=
  need (fI11 w = 0) .nonzeroField
    (need ((fA w).val + (fTrain w).toNat ≤ 15) .registerLimit (.ok (.hiret (fD w) (fA w) (fTrain w) (fLane w))))
/-- PWR and PRD: dst and sc must be 0 (Table 10.17). -/
def palletLine (w : IWord) (f : GReg → GReg → BitVec 2 → WReg → Instr) : Decoded :=
  need (fD w = 0 ∧ fC w = 0) .nonzeroField (.ok (f (fA w) (fB w) (field w 3 2) (fieldW w 0)))
/-- Major 0x62 (Table 10.17). -/
def decodePallet (w : IWord) : Decoded :=
  match (field w 5 4).toNat with
  | 0 => need (fB w = 0 ∧ fC w = 0 ∧ field w 0 5 = 0) .nonzeroField (.ok (.plse (fD w) (fA w)))
  | 1 => need (fD w = 0 ∧ fC w = 0 ∧ field w 0 3 = 0) .nonzeroField (.ok (.pcfg (fA w) (fB w) (field w 3 2)))
  | 2 => palletLine w .pwrR
  | 3 => palletLine w .pwrC
  | 4 => palletLine w .prdR
  | 5 => palletLine w .prdC
  | 6 =>
    need (fD w = 0 ∧ fC w = 0 ∧ field w 2 1 = 0) .nonzeroField
      (.ok (.pcpy (fA w) (fB w) (field w 3 2) (field w 0 2)))
  | 7 => need (fD w = 0 ∧ fB w = 0 ∧ fC w = 0 ∧ field w 0 5 = 0) .nonzeroField (.ok (.pfree (fA w)))
  | _ => .error .unassignedFunction
/-- An engine command: fn[5:0] must be 0 (R244). -/
def engineWord (w : IWord) (f : GReg → GReg → GReg → GReg → Instr) : Decoded :=
  need (field w 0 6 = 0) .nonzeroField (.ok (f (fD w) (fA w) (fB w) (fC w)))
/-- Major 0x63 (Table 10.17). -/
def decodeEngine (w : IWord) : Decoded :=
  match (field w 6 3).toNat with
  | 0 => engineWord w .cpy
  | 1 => engineWord w .gath
  | 2 => engineWord w .scat
  | 3 => engineWord w .coll
  | _ => .error .unassignedFunction

/-- The CWR instruction of a control register: six registers have behaviour of their own. -/
def cwrOf (g : GReg) (c : CReg) : Instr :=
  match c with
  | .xvec => .cwrXvec g
  | .xframe => .cwrXframe g
  | .spaceid => .cwrSpaceid g
  | .bwphase => .cwrBwphase g
  | .bankmap => .cwrBankmap g
  | .sinv => .cwrSinv g
  | .xstat => .cwr g .xstat
  | .xpc => .cwr g .xpc
  | .xcause => .cwr g .xcause
  | .xval => .cwr g .xval
  | .partid => .cwr g .partid
  | .slotid => .cwr g .slotid
  | .brickid => .cwr g .brickid
  | .regionid => .cwr g .regionid
  | .ackcnt => .cwr g .ackcnt
  | .tkt => .cwr g .tkt
  | .mqval => .cwr g .mqval
  | .srem0 => .cwr g .srem0
  | .srem1 => .cwr g .srem1
  | .srem2 => .cwr g .srem2
  | .devtime => .cwr g .devtime
  | .wakeat => .cwr g .wakeat
/-- Major 0x70 (Table 10.18). -/
def decodeSystem (w : IWord) : Decoded :=
  match (fFn w).toNat with
  | 0x001 => needSome (CReg.ofCode (fCreg w)) .unassignedRegister fun c => .ok (.crd (fD w) c)
  | 0x002 => needSome (CReg.ofCode (fCreg w)) .unassignedRegister fun c => .ok (cwrOf (fD w) c)
  | 0x003 => need (fD w = 0) .nonzeroField (.ok (.trap (fCreg w)))
  | 0x004 => noReg w .xret
  | 0x005 => noReg w .halt
  | 0x006 => need (fD w = 0) .nonzeroField (.ok (.bkpt (fCreg w)))
  | 0x007 => need (fCreg w = 0) .nonzeroField (.ok (.save (fD w)))
  | 0x008 => need (fCreg w = 0) .nonzeroField (.ok (.restore (fD w)))
  | 0x009 => need (field w 13 8 = 0) .nonzeroField (.ok (.hloc (fD w) (fC w)))
  | _ => .error .unassignedFunction

/-- The instruction of a word, or why the word is unassigned (R235, R246). -/
def decode (w : IWord) : Decoded :=
  match (fMajor w).toNat with
  | 0x00 => .error .permanentlyIllegal
  | 0x01 => decodeScalar w
  | 0x08 => .ok (.addImm (fD w) (fA w) (fI17 w))
  | 0x09 => .ok (.andImm (fD w) (fA w) (fI17 w))
  | 0x0A => .ok (.orImm (fD w) (fA w) (fI17 w))
  | 0x0B => .ok (.xorImm (fD w) (fA w) (fI17 w))
  | 0x0C => shiftImm w .shlImm
  | 0x0D => shiftImm w .shrImm
  | 0x0E => shiftImm w .sraImm
  | 0x0F => decodeLui w
  | 0x10 => need (fA w = 0) .nonzeroField (.ok (.movImm (fD w) (fI17 w)))
  | 0x11 => fieldImm w .extN64
  | 0x12 => fieldImm w .extI64
  | 0x13 => fieldImm w .ins
  | 0x17 => decodeRpt w
  | 0x18 => .ok (.beq (fD w) (fA w) (fI17 w))
  | 0x19 => .ok (.bne (fD w) (fA w) (fI17 w))
  | 0x1A => .ok (.bltI64 (fD w) (fA w) (fI17 w))
  | 0x1B => .ok (.bgeI64 (fD w) (fA w) (fI17 w))
  | 0x1C => .ok (.bltN64 (fD w) (fA w) (fI17 w))
  | 0x1D => .ok (.bgeN64 (fD w) (fA w) (fI17 w))
  | 0x1E => .ok (.jal (fD w) (fO21 w))
  | 0x1F => .ok (.jalr (fD w) (fA w) (fI17 w))
  | 0x20 => decodeLd w
  | 0x21 => decodeSt w
  | 0x22 => decodeStImm w
  | 0x23 => oneMode w 3 .ldr
  | 0x24 => oneMode w 0 .ldff
  | 0x25 => oneMode w 0 .ldfe
  | 0x26 => oneMode w 0 .stef
  | 0x27 => oneModeImm w 0 .stefImm
  | 0x28 => oneMode w 0 .stff
  | 0x29 => oneModeImm w 0 .stffImm
  | 0x2A => oneMode w 0 .lrw
  | 0x2B => oneMode w 0 .scw
  | 0x2C => decodeMigr w
  | 0x2D => decodePref w
  | 0x2E => oneMode w 0 .wrel
  | 0x2F => oneMode w 0 .wacq
  | 0x30 => oneMode w 0 .rbrd
  | 0x31 => oneMode w 0 .ralt
  | 0x32 => ringWord w .rcap
  | 0x33 => ringWord w .rput
  | 0x34 => oneModeImm w 3 .rputImm
  | 0x35 => oneMode w 3 .radd
  | 0x36 => decodeRwait w
  | 0x37 => decodeIter w
  | 0x38 => decodeNest w
  | 0x3A => decodeAmo w
  | 0x3B => decodeRupd w
  | 0x3C => decodeSync w
  | 0x3D => barrierImm w .binit
  | 0x3E => barrierImm w .barr
  | 0x3F => need (fA w = 0 ∧ field w 7 10 = 0) .nonzeroField (.ok (.bwait (fD w) (field w 0 7)))
  | 0x40 => decodeWideAlu w
  | 0x41 => decodeWideFma w
  | 0x42 => decodeWideCmp w
  | 0x43 => decodeWideMove w
  | 0x44 => decodeWideFun w
  | 0x45 => decodeWdot w
  | 0x46 => decodeWideRed w
  | 0x48 | 0x49 | 0x4A | 0x4B | 0x4C | 0x4D | 0x4E | 0x4F => decodeWcvt w false
  | 0x50 | 0x51 | 0x52 | 0x53 | 0x54 | 0x55 | 0x56 | 0x57 => decodeWcvt w true
  | 0x58 => zMem w .zld
  | 0x59 => zMem w .zst
  | 0x5A => zWord w .zset
  | 0x5B => zWord w .zget
  | 0x5C => decodeSbind w
  | 0x60 => decodeHire w
  | 0x61 => decodeHiret w
  | 0x62 => decodePallet w
  | 0x63 => decodeEngine w
  | 0x70 => decodeSystem w
  | 0x7F => .error .permanentlyIllegal
  | _ => .error .unassignedMajor

/-- The word of the first four bytes, little-endian (R2, R229). -/
def wordOfBytes (b0 b1 b2 b3 : Byte) : IWord :=
  BitVec.ofNat 32 (b0.toNat + 2 ^ 8 * b1.toNat + 2 ^ 16 * b2.toNat + 2 ^ 24 * b3.toNat)
/-- The four bytes of a word, lowest address first (R2). -/
def bytesOfWord (w : IWord) : List Byte :=
  [BitVec.ofNat 8 w.toNat, BitVec.ofNat 8 (w.toNat / 2 ^ 8), BitVec.ofNat 8 (w.toNat / 2 ^ 16),
    BitVec.ofNat 8 (w.toNat / 2 ^ 24)]
/-- The first instruction of a list of bytes, and the bytes after it. -/
def decodeBytes : List Byte → Except DecodeError (Instr × List Byte)
  | b0 :: b1 :: b2 :: b3 :: rest =>
    match decode (wordOfBytes b0 b1 b2 b3) with
    | .ok i => .ok (i, rest)
    | .error e => .error e
  | _ => .error .tooShort

/-- The instruction that the decoder reads from an instruction whose bits are `w`, as the table of operations numbers them: one 32-bit word, stored little-endian. -/
def decodeTableWord (nbits w : Nat) : Option Instr :=
  match decodeBytes (bytesOfWord (BitVec.ofNat 32 (w % 2 ^ nbits))) with
  | .ok (i, _) => some i
  | .error _ => none

/-! ### Encoding -/

/-- Format A (Table 10.1). -/
def packA (op : Nat) (d a b c : GReg) (fn : Nat) : IWord :=
  BitVec.ofNat 32 (op * 2 ^ 25 + d.val * 2 ^ 21 + a.val * 2 ^ 17 + b.val * 2 ^ 13 + c.val * 2 ^ 9 + fn)
/-- Formats I and B (Tables 10.2 and 10.4). -/
def packI (op : Nat) (d a : GReg) (imm : Nat) : IWord :=
  BitVec.ofNat 32 (op * 2 ^ 25 + d.val * 2 ^ 21 + a.val * 2 ^ 17 + imm)
/-- Format M (Table 10.3); reg is a Nat because it may hold an immediate source. -/
def packM (op reg : Nat) (b : GReg) (mode : Nat) (i : BitVec 14) : IWord :=
  BitVec.ofNat 32 (op * 2 ^ 25 + reg * 2 ^ 21 + b.val * 2 ^ 17 + mode * 2 ^ 14 + i.toNat)
/-- Format J (Table 10.5). -/
def packJ (op d off : Nat) : IWord := BitVec.ofNat 32 (op * 2 ^ 25 + d * 2 ^ 21 + off)
/-- Format W (Table 10.6). -/
def packW (op : Nat) (d a b c : WReg) (sg : GReg) (fmt fn : Nat) : IWord :=
  BitVec.ofNat 32 (op * 2 ^ 25 + d.val * 2 ^ 22 + a.val * 2 ^ 19 + b.val * 2 ^ 16 + c.val * 2 ^ 13 + sg.val * 2 ^ 9
    + fmt * 2 ^ 4 + fn)
/-- Format Z (Table 10.7). -/
def packZ (op : Nat) (z g : Fin 16) (f : Nat) (imm : Nat) : IWord :=
  BitVec.ofNat 32 (op * 2 ^ 25 + z.val * 2 ^ 21 + g.val * 2 ^ 17 + f * 2 ^ 11 + imm)
/-- Format H (Table 10.8). -/
def packH (op : Nat) (t z : Fin 16) (train lane : Nat) : IWord :=
  BitVec.ofNat 32 (op * 2 ^ 25 + t.val * 2 ^ 21 + z.val * 2 ^ 17 + train * 2 ^ 14 + lane * 2 ^ 11)
/-- Format S (Table 10.9). -/
def packS (d : GReg) (creg fn : Nat) : IWord :=
  BitVec.ofNat 32 (0x70 * 2 ^ 25 + d.val * 2 ^ 21 + creg * 2 ^ 9 + fn)

/-- The word of an instruction; a row that is an event of the device has none. -/
def encode : Instr → Option IWord
  | .add d a b => some (packA 0x01 d a b 0 0x000)
  | .sub d a b => some (packA 0x01 d a b 0 0x001)
  | .and d a b => some (packA 0x01 d a b 0 0x002)
  | .or d a b => some (packA 0x01 d a b 0 0x003)
  | .xor d a b => some (packA 0x01 d a b 0 0x004)
  | .andn d a b => some (packA 0x01 d a b 0 0x005)
  | .shl d a b => some (packA 0x01 d a b 0 0x006)
  | .shr d a b => some (packA 0x01 d a b 0 0x007)
  | .sra d a b => some (packA 0x01 d a b 0 0x008)
  | .rol d a b => some (packA 0x01 d a b 0 0x009)
  | .mul d a b => some (packA 0x01 d a b 0 0x010)
  | .mulhI64 d a b => some (packA 0x01 d a b 0 0x011)
  | .mulhN64 d a b => some (packA 0x01 d a b 0 0x012)
  | .divI64 d a b => some (packA 0x01 d a b 0 0x013)
  | .divN64 d a b => some (packA 0x01 d a b 0 0x014)
  | .remI64 d a b => some (packA 0x01 d a b 0 0x015)
  | .remN64 d a b => some (packA 0x01 d a b 0 0x016)
  | .minI64 d a b => some (packA 0x01 d a b 0 0x020)
  | .minN64 d a b => some (packA 0x01 d a b 0 0x021)
  | .maxI64 d a b => some (packA 0x01 d a b 0 0x022)
  | .maxN64 d a b => some (packA 0x01 d a b 0 0x023)
  | .clz d a => some (packA 0x01 d a 0 0 0x030)
  | .ctz d a => some (packA 0x01 d a 0 0 0x031)
  | .popc d a => some (packA 0x01 d a 0 0 0x032)
  | .sel d a b c => some (packA 0x01 d a b c 0x040)
  | .mov d a => some (packA 0x01 d a 0 0 0x041)
  | .ceq d a b => some (packA 0x01 d a b 0 0x050)
  | .cne d a b => some (packA 0x01 d a b 0 0x051)
  | .cltI64 d a b => some (packA 0x01 d a b 0 0x052)
  | .cltN64 d a b => some (packA 0x01 d a b 0 0x053)
  | .cleI64 d a b => some (packA 0x01 d a b 0 0x054)
  | .cleN64 d a b => some (packA 0x01 d a b 0 0x055)
  | .addImm d a i => some (packI 0x08 d a i.toNat)
  | .andImm d a i => some (packI 0x09 d a i.toNat)
  | .orImm d a i => some (packI 0x0A d a i.toNat)
  | .xorImm d a i => some (packI 0x0B d a i.toNat)
  | .shlImm d a n => some (packI 0x0C d a n.toNat)
  | .shrImm d a n => some (packI 0x0D d a n.toNat)
  | .sraImm d a n => some (packI 0x0E d a n.toNat)
  | .lui d k c => some (packI 0x0F d (Fin.ofNat 16 k.toNat) c.toNat)
  | .movImm d i => some (packI 0x10 d 0 i.toNat)
  | .extN64 d a w p => some (packI 0x11 d a (w.toNat * 2 ^ 6 + p.toNat))
  | .extI64 d a w p => some (packI 0x12 d a (w.toNat * 2 ^ 6 + p.toNat))
  | .ins d a w p => some (packI 0x13 d a (w.toNat * 2 ^ 6 + p.toNat))
  | .rpt l st n => some (packJ 0x17 l.toNat (st.toNat * 2 ^ 18 + n.toNat * 2 ^ 6))
  | .beq a b o => some (packI 0x18 a b o.toNat)
  | .bne a b o => some (packI 0x19 a b o.toNat)
  | .bltI64 a b o => some (packI 0x1A a b o.toNat)
  | .bgeI64 a b o => some (packI 0x1B a b o.toNat)
  | .bltN64 a b o => some (packI 0x1C a b o.toNat)
  | .bgeN64 a b o => some (packI 0x1D a b o.toNat)
  | .jal d o => some (packJ 0x1E d.val o.toNat)
  | .jalr d a i => some (packI 0x1F d a i.toNat)
  | .ld m r b i => some (packM 0x20 r.val b m.code.toNat i)
  | .st m r b i => some (packM 0x21 r.val b m.code.toNat i)
  | .stImm m v b i => some (packM 0x22 v.toNat b m.code.toNat i)
  | .ldr r b i => some (packM 0x23 r.val b 3 i)
  | .ldff r b i => some (packM 0x24 r.val b 0 i)
  | .ldfe r b i => some (packM 0x25 r.val b 0 i)
  | .stef r b i => some (packM 0x26 r.val b 0 i)
  | .stefImm v b i => some (packM 0x27 v.toNat b 0 i)
  | .stff r b i => some (packM 0x28 r.val b 0 i)
  | .stffImm v b i => some (packM 0x29 v.toNat b 0 i)
  | .lrw r b i => some (packM 0x2A r.val b 0 i)
  | .scw r b i => some (packM 0x2B r.val b 0 i)
  | .migr b i => some (packM 0x2C 0 b 0 i)
  | .prefHbm r b i => some (packM 0x2D r.val b 0 i)
  | .prefWake r b i => some (packM 0x2D r.val b 1 i)
  | .wrel r b i => some (packM 0x2E r.val b 0 i)
  | .wacq r b i => some (packM 0x2F r.val b 0 i)
  | .rbrd r b i => some (packM 0x30 r.val b 0 i)
  | .ralt r b i => some (packM 0x31 r.val b 0 i)
  | .rcap m r b i => some (packM 0x32 r.val b m.code.toNat i)
  | .rput m r b i => some (packM 0x33 r.val b m.code.toNat i)
  | .rputImm v b i => some (packM 0x34 v.toNat b 3 i)
  | .radd r b i => some (packM 0x35 r.val b 3 i)
  | .rwait c r b i => some (packM 0x36 r.val b c.code.toNat i)
  | .iter b i => some (packM 0x37 0 b 0 i)
  | .iterRing b i => some (packM 0x37 0 b 1 i)
  | .nest r b i => some (packM 0x38 r.val b 0 i)
  | .nestRing r b i => some (packM 0x38 r.val b 1 i)
  | .amo o sz d a b c => some (packA 0x3A d a b c (o.code * 2 ^ 5 + sz.code * 2 ^ 4))
  | .rupd o sz a b => some (packA 0x3B 0 a b 0 (o.code * 2 ^ 5 + sz.code * 2 ^ 4))
  | .fenceDie => some (packA 0x3C 0 0 0 0 0x001)
  | .fencePkg => some (packA 0x3C 0 0 0 0 0x002)
  | .fenceSys => some (packA 0x3C 0 0 0 0 0x003)
  | .rsync => some (packA 0x3C 0 0 0 0 0x010)
  | .mqdq d => some (packA 0x3C d 0 0 0 0x020)
  | .quit => some (packA 0x3C 0 0 0 0 0x030)
  | .spawn d a b => some (packA 0x3C d a b 0 0x040)
  | .binit a n => some (packI 0x3D 0 a n.toNat)
  | .barr a n => some (packI 0x3E 0 a n.toNat)
  | .bwait d n => some (packI 0x3F d 0 n.toNat)
  | .wadd f d a b => some (packW 0x40 d a b 0 0 f.code.toNat 0)
  | .wsub f d a b => some (packW 0x40 d a b 0 0 f.code.toNat 1)
  | .wmul f d a b => some (packW 0x40 d a b 0 0 f.code.toNat 2)
  | .wmin f d a b => some (packW 0x40 d a b 0 0 f.code.toNat 3)
  | .wmax f d a b => some (packW 0x40 d a b 0 0 f.code.toNat 4)
  | .wand f d a b => some (packW 0x40 d a b 0 0 f.code.toNat 5)
  | .wor f d a b => some (packW 0x40 d a b 0 0 f.code.toNat 6)
  | .wxor f d a b => some (packW 0x40 d a b 0 0 f.code.toNat 7)
  | .wshl f d a b => some (packW 0x40 d a b 0 0 f.code.toNat 8)
  | .wshr f d a b => some (packW 0x40 d a b 0 0 f.code.toNat 9)
  | .wsra f d a b => some (packW 0x40 d a b 0 0 f.code.toNat 10)
  | .waddSat f d a b => some (packW 0x40 d a b 0 0 f.code.toNat 11)
  | .wsubSat f d a b => some (packW 0x40 d a b 0 0 f.code.toNat 12)
  | .wabs f d a => some (packW 0x40 d a 0 0 0 f.code.toNat 13)
  | .wfma f d a b c => some (packW 0x41 d a b c 0 f.code.toNat 0)
  | .wfms f d a b c => some (packW 0x41 d a b c 0 f.code.toNat 1)
  | .wfnma f d a b c => some (packW 0x41 d a b c 0 f.code.toNat 2)
  | .wfnms f d a b c => some (packW 0x41 d a b c 0 f.code.toNat 3)
  | .wceq f d a b => some (packW 0x42 d a b 0 0 f.code.toNat 0)
  | .wcne f d a b => some (packW 0x42 d a b 0 0 f.code.toNat 1)
  | .wclt f d a b => some (packW 0x42 d a b 0 0 f.code.toNat 2)
  | .wcle f d a b => some (packW 0x42 d a b 0 0 f.code.toNat 3)
  | .wsel f d a b c => some (packW 0x42 d a b c 0 f.code.toNat 4)
  | .wperm f d a b => some (packW 0x43 d a b 0 0 f.code.toNat 0)
  | .wbcst f d g => some (packW 0x43 d 0 0 0 g f.code.toNat 1)
  | .wmov f d a => some (packW 0x43 d a 0 0 0 f.code.toNat 2)
  | .wsig f d a => some (packW 0x44 d a 0 0 0 f.code.toNat 0)
  | .wexp f d a => some (packW 0x44 d a 0 0 0 f.code.toNat 1)
  | .wrcp f d a => some (packW 0x44 d a 0 0 0 f.code.toNat 2)
  | .wrsq f d a => some (packW 0x44 d a 0 0 0 f.code.toNat 3)
  | .wtanh f d a => some (packW 0x44 d a 0 0 0 f.code.toNat 4)
  | .wlog f d a => some (packW 0x44 d a 0 0 0 f.code.toNat 5)
  | .wdot f sat p d a b c => some (packW 0x45 d a b c 0 f.code.toNat ((if sat then 8 else 0) + p.code))
  | .wredSum f g a => some (packW 0x46 0 a 0 0 g f.code.toNat 0)
  | .wredMin f g a => some (packW 0x46 0 a 0 0 g f.code.toNat 1)
  | .wredMax f g a => some (packW 0x46 0 a 0 0 g f.code.toNat 2)
  | .wcvt toPivot pv f sat r d a => some (packW (0x48 + (if toPivot then 4 else 0) + pv.code) d a 0 0 0 f.code.toNat
      ((if sat then 8 else 0) + r.code * 2 + (if f.isBin8 then 1 else 0)))
  | .wcvtScaled toPivot pv f sat r d a g => some (packW (0x50 + (if toPivot then 4 else 0) + pv.code) d a 0 0 g f.code.toNat
      ((if sat then 8 else 0) + r.code * 2 + (if f.isBin8 then 1 else 0)))
  | .zld z g i => some (packZ 0x58 z g 0 i.toNat)
  | .zst z g i => some (packZ 0x59 z g 0 i.toNat)
  | .zset z g k => some (packZ 0x5A z g k.toNat 0)
  | .zget z g k => some (packZ 0x5B z g k.toNat 0)
  | .sbind z p => some (packZ 0x5C z 0 p.val 0)
  | .hire t z l => some (packH 0x60 t z 0 l.toNat)
  | .hiret t z n l => some (packH 0x61 t z n.toNat l.toNat)
  | .plse d a => some (packA 0x62 d a 0 0 (0 * 2 ^ 5))
  | .pcfg a b r => some (packA 0x62 0 a b 0 (1 * 2 ^ 5 + r.toNat * 2 ^ 3))
  | .pwrR a b r w => some (packA 0x62 0 a b 0 (2 * 2 ^ 5 + r.toNat * 2 ^ 3 + w.val))
  | .pwrC a b r w => some (packA 0x62 0 a b 0 (3 * 2 ^ 5 + r.toNat * 2 ^ 3 + w.val))
  | .prdR a b r w => some (packA 0x62 0 a b 0 (4 * 2 ^ 5 + r.toNat * 2 ^ 3 + w.val))
  | .prdC a b r w => some (packA 0x62 0 a b 0 (5 * 2 ^ 5 + r.toNat * 2 ^ 3 + w.val))
  | .pcpy a b sr er => some (packA 0x62 0 a b 0 (6 * 2 ^ 5 + sr.toNat * 2 ^ 3 + er.toNat))
  | .pfree a => some (packA 0x62 0 a 0 0 (7 * 2 ^ 5))
  | .cpy t a b c => some (packA 0x63 t a b c (0 * 2 ^ 6))
  | .gath t a b c => some (packA 0x63 t a b c (1 * 2 ^ 6))
  | .scat t a b c => some (packA 0x63 t a b c (2 * 2 ^ 6))
  | .coll t a b c => some (packA 0x63 t a b c (3 * 2 ^ 6))
  | .crd d c => some (packS d c.code.toNat 0x001)
  | .cwr g c => some (packS g c.code.toNat 0x002)
  | .cwrXvec g => some (packS g 0x004 0x002)
  | .cwrXframe g => some (packS g 0x005 0x002)
  | .cwrSpaceid g => some (packS g 0x010 0x002)
  | .cwrBwphase g => some (packS g 0x040 0x002)
  | .cwrBankmap g => some (packS g 0x041 0x002)
  | .cwrSinv g => some (packS g 0x042 0x002)
  | .trap n => some (packS 0 n.toNat 0x003)
  | .xret => some (packS 0 0 0x004)
  | .halt => some (packS 0 0 0x005)
  | .bkpt c => some (packS 0 c.toNat 0x006)
  | .save a => some (packS a 0 0x007)
  | .restore a => some (packS a 0 0x008)
  | .hloc d s => some (packS d s.val 0x009)
  | .islandStart _ => none
  | .islandReady _ => none
  | .kilnEnable _ => none
  | .islandLeaveHold _ => none
  | .kilnPointSwitch _ => none
  | .healthReport => none
  | .queueLiveClear _ => none
  | .queuePoll _ => none
  | .nop _ _ => none
  | .vddestroy _ _ => none
  | .vddestroyDrained _ => none
  | .load _ _ _ => none
  | .fetch _ _ _ => none
  | .launch _ _ _ => none
  | .launchResponse _ => none
  | .cancel _ _ => none
  | .cancelDone _ _ => none
  | .info _ _ => none
  | .steersetRule _ _ => none
  | .steersetQueue _ _ => none
  | .updateHandoff => none
  | .updateHealthReport => none
  | .updateFallback => none
  | .unknownRequest _ _ => none
  | .rekeyDrained _ => none
  | .rekeyClose _ => none
  | .debugHaltTakesEffect _ _ => none
  | .subbankWakeDone _ _ => none
  | .subbankPowerUpDone _ _ => none
  | .pchWakeDone _ => none
  | .storeDepart _ => none
  | .storeAtHome _ _ => none
  | .loadAtHome _ _ => none
  | .atomicAtHome _ _ => none
  | .fullEmptyAtHome _ _ => none
  | .reservationAtHome _ _ => none
  | .ackArrive _ => none
  | .replyArrive _ => none
  | .faultHandlerPlace _ => none
  | .invalidateComplete _ => none
  | .reservationTimeout _ => none
  | .haltWake _ _ => none
  | .spawnPlace _ => none
  | .migrationArrive _ _ => none
  | .arrivalSpill _ _ => none
  | .gangSwitch _ => none
  | .slotHandover _ _ => none
  | .entryAge _ => none
  | .grant _ _ => none
  | .hodStart _ => none
  | .hodEnd _ => none
  | .hodComplete _ => none
  | .inboxEntryArrive _ => none
  | .engineCommandStart _ => none
  | .engineComplete _ => none
  | .collArrive _ => none
  | .collPatienceExpiry _ => none
  | .prefComplete _ => none
  | .barrierArrival _ => none
  | .ringMiss _ => none
  | .illegalInstruction _ => none
  | .fetchFault => none
  | .spareLineRemapDone _ _ _ => none
  | .spareRowRepairDone _ => none
  | .majorRolloverDone _ => none
  | .coldReset => none
  | .drstGo => none
  | .pfFunctionLevelReset => none
  | .vfFunctionLevelReset _ => none
  | .thermalTrip => none
  | .thermalHold _ => none
  | .watchdogReset => none
  | .lifeCycleChange _ => none
  | .rcmdGo _ => none
  | .islandEnterHold _ => none
  | .islandEnterOff _ => none
  | .powerSample _ => none
  | .qctlEnable _ => none
  | .qctlDisable _ => none
  | .hostRegisterWrite _ _ _ => none
  | .vdcreate _ _ _ _ => none
  | .update _ _ => none
  | .vdkey _ => none
  | .vderase _ => none
  | .winopen _ _ _ _ => none
  | .winmembers _ _ => none
  | .winclose _ => none
  | .attest _ _ => none
  | .spdmGetMeasurements _ => none
  | .debugList _ => none
  | .debugHalt _ _ => none
  | .debugRead _ _ => none
  | .debugWrite _ _ _ => none
  | .debugStep _ _ => none
  | .debugResume _ _ => none
  | .hashmaskWrite _ _ => none
  | .hypInvalidate _ _ => none
  | .frameAccept _ _ => none
  | .frameDropAtPort _ _ => none
  | .ptpEventMessage _ _ => none
  | .ppsInput _ => none
  | .flitReceive _ _ => none
  | .retrainComplete _ _ => none
  | .patrolScrub _ _ => none
  | .subbankWithdraw _ _ => none
  | .channelRebuildComplete _ => none
  | .subbankRetention _ _ => none
  | .pchPowerDown _ => none
  | .pchSelfRefresh _ => none
  | .demandFaultRetry _ _ => none
  | .demandFaultLong _ => none
  | .demandFaultFatal _ => none
  | .pagePresent _ _ => none
  | .gangSwitchArm _ _ _ => none
  | .ringStow _ _ => none
  | .ringReboard _ _ => none
  | .ringBoardApply _ _ => none
  | .ringCaptureApply _ _ => none
  | .ringPutApply _ _ => none
  | .ringAddApply _ _ => none
  | .ringWaitApply _ _ => none
  | .ringClaimApply _ _ => none
  | .ringAlightMatch _ _ => none
  | .ringAlightWriteback _ _ => none
  | .ringSlotError _ _ _ => none
  | .debugAttach _ => none
  | .debugDetach _ => none
  | .ringLockClear _ _ => none

end Sys2Proof
end

