-- ==== Sys2Proof/Machine/Memory.lean ====
section
/-!
DEFINITION. Memory as one canonical list of (address, byte) cells: SRAM at its B-space address, HBM at its physical address, host and peer memory above them.
-/
namespace Sys2Proof.Machine

/-- What an unlisted address reads as: zero, as a wipe leaves SRAM and HBM (R23). -/
def Mem.blank : Byte := 0

/-- The byte at an address. -/
def Mem.read : List Host.Cell → Nat → Byte
  | [], _ => Mem.blank
  | (k, v) :: r, a => if k = a then v else Mem.read r a
/-- Remove the cell at an address. -/
def Mem.drop : List Host.Cell → Nat → List Host.Cell
  | [], _ => []
  | (k, v) :: r, a => if k = a then r else (k, v) :: Mem.drop r a
/-- List a byte at an address, keeping addresses rising. -/
def Mem.put : List Host.Cell → Nat → Byte → List Host.Cell
  | [], a, b => [(a, b)]
  | (k, v) :: r, a, b =>
    if a < k then (a, b) :: (k, v) :: r else if a = k then (a, b) :: r else (k, v) :: Mem.put r a b
/-- Write a byte: a blank byte is not listed. -/
def Mem.write (m : List Host.Cell) (a : Nat) (b : Byte) : List Host.Cell :=
  if b = Mem.blank then Mem.drop m a else Mem.put m a b
/-- The `n` bytes from an address up. -/
def Mem.readBytes (m : List Host.Cell) (a : Nat) : Nat → List Byte
  | 0 => []
  | n + 1 => Mem.read m a :: Mem.readBytes m (a + 1) n
/-- Write bytes from an address up. -/
def Mem.writeBytes (m : List Host.Cell) (a : Nat) : List Byte → List Host.Cell
  | [] => m
  | b :: r => Mem.writeBytes (Mem.write m a b) (a + 1) r
/-- Blank every byte from `lo` up to but not including `hi`. -/
def Mem.blankRange (m : List Host.Cell) (lo hi : Nat) : List Host.Cell :=
  m.filter fun c => decide (c.1 < lo) || decide (hi ≤ c.1)

/-- Are addresses strictly rising and above `lo`, and no byte blank? -/
def Mem.wfFrom : Option Nat → List Host.Cell → Bool
  | _, [] => true
  | none, (k, v) :: r => decide (v ≠ Mem.blank) && Mem.wfFrom (some k) r
  | some p, (k, v) :: r => decide (p < k) && decide (v ≠ Mem.blank) && Mem.wfFrom (some k) r
/-- The canonical form of memory. -/
def Memory.wf (m : List Host.Cell) : Bool := Mem.wfFrom none m

/-! ### Where a place lies in memory -/

/-- B-space address of an offset of a package-wide brick (Table 5.1). -/
def bankAddr (brick off : Nat) : Nat :=
  0xFFFE000000000000 + brick / 512 * 2 ^ 32 + brick % 512 * 2 ^ 20 + off
/-- The address of a place in the one memory. -/
def Place.key : Place → Nat
  | .sram b o => bankAddr b o
  | .hbm pa => pa
  | .host a => 2 ^ 64 + a
  | .peer p a => 2 ^ 65 + p * 2 ^ 48 + a
/-- The 64-byte granule of a place, by the address of its first byte. -/
def Place.granule (p : Place) : Nat := p.key / 64 * 64
/-- The place that a key of SRAM or HBM names. -/
def placeOf (g : Nat) : Place :=
  if 0xFFFE000000000000 ≤ g ∧ g < 2 ^ 64 then
    let o := g - 0xFFFE000000000000
    .sram (512 * (o / 2 ^ 32) + o % 2 ^ 32 / 2 ^ 20) (o % 2 ^ 20)
  else .hbm g
/-- A place `n` bytes further on. -/
def Place.plus : Place → Nat → Place
  | .sram b o, n => .sram b (o + n)
  | .hbm pa, n => .hbm (pa + n)
  | .host a, n => .host (a + n)
  | .peer p a, n => .peer p (a + n)

/-- End of partition memory within a stack, and end of the firmware reserve (Table 5.3). -/
def partitionEnd : Nat := 0xD78400000
/-- End of the populated offsets of a stack (Table 5.3). -/
def stackEnd : Nat := 0xDF8400000
/-- The 2 MiB unit of an HBM address. -/
def unitOf (pa : Nat) : Nat := pa / 2 ^ 21
/-- Does a physical address lie in a populated stack (R121)? -/
def hbmExists (pa : Nat) : Bool := decide (pa / 2 ^ 36 < 12 ∧ pa % 2 ^ 36 < stackEnd)
/-- Does a physical address lie in partition memory (Table 5.3)? -/
def inPartition (pa : Nat) : Bool := decide (pa / 2 ^ 36 < 12 ∧ pa % 2 ^ 36 < partitionEnd)

end Sys2Proof.Machine
end

