-- ==== Sys2Proof/Machine/Access.lean ====
section
/-!
DEFINITION. Reaching memory: sub-bank ownership and power, HBM placement, owners, windows and cleared granules, what HBM holds under its keys, waking and stalls, the reads and writes that homes perform, and translation in two stages through the quoins' caches.
-/
namespace Sys2Proof.Machine

/-! ### Units -/

/-- The virtual device of a number. -/
def State.vd? (s : State) (vd : Nat) : Option VDev := KMap.find? s.vds vd
/-- Change a virtual device. -/
def State.modVd (s : State) (vd : Nat) (f : VDev → VDev) : State := { s with vds := KMap.modify s.vds vd f }
/-- Key of a sub-bank of a brick. -/
def subKey (b sb : Nat) : Nat := 16 * b + sb
/-- The virtual device that holds a sub-bank number, on every brick alike (Table 2.1). -/
def State.subHolder (s : State) (sb : Nat) : Option Nat :=
  (List.find? (fun kv => kv.2.subbanks.contains sb) s.vds).map (·.1)
/-- Island of a brick (R12). -/
def brickIsland (b : Nat) : Nat := 16 * (b / 512) + b % 512 / 64
/-- An island; one never started is dark. -/
def State.island (s : State) (i : Nat) : Island := KMap.getD s.islands i Island.dark
/-- Has the island of a brick power: it runs or is in HOLD (Table 1.2)? -/
def State.brickUp (s : State) (b : Nat) : Bool :=
  match (s.island (brickIsland b)).state with
  | .run | .hold => true
  | .off | .starting _ | .k2 | .k15 | .k10 => false
/-- A sub-bank: VDCREATE leaves every held sub-bank allocated (R135), and it powers up with its brick island (R20). -/
def State.subBank (s : State) (b sb : Nat) : SubBank :=
  match KMap.find? s.subbanks (subKey b sb) with
  | some x => x
  | none =>
    if (s.subHolder sb).isSome then ⟨true, if s.brickUp b then .on else .poweringUp, 0, 0, false⟩
    else ⟨false, .off, 0, 0, false⟩
/-- Change a sub-bank. -/
def State.modSub (s : State) (b sb : Nat) (f : SubBank → SubBank) : State :=
  { s with subbanks := KMap.set s.subbanks (subKey b sb) (f (s.subBank b sb)) }
/-- Does the virtual device hold the sub-bank number? -/
def State.holdsSub (s : State) (vd sb : Nat) : Bool :=
  match s.vd? vd with
  | some v => v.subbanks.contains sb
  | none => false
/-- Is the line locked on the ring (R179)? -/
def State.lineLocked (s : State) (lineKey : Nat) : Bool := KMap.has s.locks lineKey

/-! ### HBM placement (R121 to R124) -/

/-- HASHMASK of a stack; its fields reset to 0x3F (Table 5.4). -/
def State.hashMask (s : State) (stack : Nat) : Word := KMap.getD s.hashmask stack (wrap (2 ^ 48 - 1))
/-- Mask field j (0 for M1, 1 for M2) that governs an address (R123). -/
def State.maskFor (s : State) (pa j : Nat) : Nat :=
  if pa % 2 ^ 36 < partitionEnd then
    let q := nbits pa 35 34
    bits (s.hashMask (pa / 2 ^ 36)) (12 * q + 6 * j + 5) (12 * q + 6 * j)
  else 0x3F
/-- pc of R122, before 62-way mode. -/
def State.hashPc (s : State) (pa : Nat) : Nat :=
  nbits pa 12 7 ^^^ (nbits pa 18 13 &&& s.maskFor pa 0) ^^^ (nbits pa 24 19 &&& s.maskFor pa 1)
/-- Pseudo-channel of a granule within its stack, in the placement in force: in 62-way mode a granule that has not moved yet has its old place (R122, R124). -/
def State.pchOf (s : State) (pa : Nat) : Nat :=
  let pc := s.hashPc pa
  match KMap.find? s.w62 (pa / 2 ^ 36) with
  | some w =>
    if pa % 2 ^ 36 < w.moved then
      let p := (nbits pa 35 13 * 64 + pc) % 62
      if p < 2 * w.channel then p else p + 2
    else pc
  | none => pc
/-- Key of a pseudo-channel of the package. -/
def State.pchKey (s : State) (pa : Nat) : Nat := 64 * (pa / 2 ^ 36) + s.pchOf pa
/-- Package-wide brick of a pseudo-channel's home (R122). -/
def State.channelBrick (s : State) (pa : Nat) : Nat :=
  let stack := pa / 2 ^ 36
  512 * (stack / 3) + 416 + 32 * (stack % 3) + s.pchOf pa / 2
/-- The brick that is the home of a place, when it is one of this package (Table 5.2). -/
def State.homeBrick (s : State) : Place → Option Nat
  | .sram b _ => some b
  | .hbm pa => some (s.channelBrick pa)
  | .host _ => none
  | .peer _ _ => none
/-- Scope of a place from a brick (Table 5.2). -/
def scopeFrom (brick : Nat) : Place → Scope
  | .sram b _ => if b / 512 = brick / 512 then .die else .pkg
  | .hbm pa => if pa / 2 ^ 36 / 3 = brick / 512 then .die else .pkg
  | .host _ => .sys
  | .peer _ _ => .sys

/-! ### Owners, windows and cleared granules (R61 to R78) -/

/-- KID of a request (R62). -/
def kidOf (vd win : Nat) : Nat := if win = 0 then vd + 1 else 31 + win
/-- Is the granule cleared (R72)? -/
def State.cleared (s : State) (pa : Nat) : Bool :=
  !(KMap.has s.owner (unitOf pa)) || !(s.written.contains (pa / 64))
/-- Is the granule below a fenced counter line or tree node (R71)? Level `l` of the tree covers 8 ^ l counter lines. -/
def State.isFenced (s : State) (pa : Nat) : Bool :=
  (List.range 9).any fun l => s.fenced.contains (l * 2 ^ 40 + pa / 2048 / 8 ^ l)
/-- The right of a virtual device in a member list: none, or whether it may write. -/
def memberRight (ms : List WinMember) (vd : Nat) : Option Bool := (ms.find? fun m => m.vd = vd).map (·.rw)
/-- Does a member list permit the access? -/
def permits (ms : List WinMember) (vd : Nat) (wr : Bool) : Bool :=
  match memberRight ms vd with
  | some rw => rw || !wr
  | none => false
/-- May the virtual device make the access to window `win` - 1 now (R62, R82)? -/
def State.winAllows (s : State) (win vd : Nat) (wr : Bool) : Bool :=
  match KMap.find? s.windows (win - 1) with
  | some w =>
    match w.state with
    | .opened => permits w.members vd wr
    | .rekey => permits w.members vd wr && permits w.next vd wr
    | .closed => false
  | none => false
/-- First byte of a window. -/
def State.winBase (s : State) (win : Nat) : Nat :=
  match KMap.find? s.windows (win - 1) with
  | some w => (w.units.headD 0) * 2 ^ 21
  | none => 0
/-- Does an access touch the generation word of its window (R78)? -/
def State.touchesGen (s : State) (win pa size : Nat) : Bool :=
  decide (win ≠ 0) && decide (pa < s.winBase win + 8) && decide (s.winBase win < pa + size)

/-! ### Checks at the home -/

/-- Fault of an SRAM access (R119, R179, R33). -/
def State.sramFault (s : State) (vd b off : Nat) : Option Cause :=
  let sb := off / 2 ^ 16
  if !(s.holdsSub vd sb) then some .bank
  else
    let x := s.subBank b sb
    if x.power = .unavailable then some .bank
    else if !x.alloc || decide (x.power = .off) then some .sleep
    else if s.lineLocked (bankAddr b (off / 64 * 64)) then some .ringLock
    else none
/-- Is a key between the two steps of its erasure (R75)? -/
def State.beingErased (s : State) (kid : Nat) : Bool := s.erasing.any fun e => decide (e.kid = kid)
/-- Fault of an access by its KID and the owner of the unit: a key that is being erased, or an owner that is another KID (R68, R69 step 2, R75). A CLEARED unit is open to any KID (R69 step 1, R72). An access under a KID that has no key any more, after step 3 of an erasure and before a new VDKEY, is made like any other, and what it wrote stays readable under the next key (DESIGN CHOICE: log entry 115). -/
def State.ownerFault (s : State) (kid pa : Nat) : Option Cause :=
  if s.beingErased kid then some .integrity
  else
    match KMap.find? s.owner (unitOf pa) with
    | some o => if o ≠ kid then some .integrity else none
    | none => none
/-- Fault of an HBM access by its window right and owner, before the granule is looked at (R62, R68, R69, R78). In a failed stack nothing is served any more: its translations are withdrawn (R35; DEDUCED for accesses already translated and for save regions: log entry 111). -/
def State.hbmFault (s : State) (vd win pa size : Nat) (wr : Bool) : Option Cause :=
  if s.failedStacks.contains (pa / 2 ^ 36) then some .hypervisor
  else if win ≠ 0 ∧ !(s.winAllows win vd wr) then some .windowRevoked
  else if s.touchesGen win pa size then some .windowRevoked
  else s.ownerFault (kidOf vd win) pa
/-- Fault of an access at its home. `whole` says that it writes a whole granule, which clears poison (R141); a write verifies the counter line, of a cleared granule as well (R70). -/
def State.homeFault (s : State) (vd win : Nat) (p : Place) (size : Nat) (wr whole : Bool) : Option Cause :=
  match p with
  | .sram b off =>
    match s.sramFault vd b off with
    | some c => some c
    | none => if !whole && s.poison.contains p.granule then some .poison else none
  | .hbm pa =>
    match s.hbmFault vd win pa size wr with
    | some c => some c
    | none =>
      if s.cleared pa then (if wr && s.isFenced pa then some .freshness else none)
      else if !whole && s.poison.contains p.granule then some .poison
      else if s.isFenced pa then some .freshness
      else if !whole && s.badTag.contains (pa / 64) then some .integrity
      else none
  | .host _ => none
  | .peer _ _ => none

/-- The bytes at a place as a requester with the right KID reads them (R69 steps 1 and 3). -/
def State.peek (s : State) (p : Place) (size : Nat) : List Byte :=
  match p with
  | .hbm pa => if inPartition pa && s.cleared pa then List.replicate size 0 else Mem.readBytes s.mem pa size
  | .sram _ _ => Mem.readBytes s.mem p.key size
  | .host _ => Mem.readBytes s.mem p.key size
  | .peer _ _ => Mem.readBytes s.mem p.key size
/-- The value at a place, zero-extended to a line. -/
def State.peekLine (s : State) (p : Place) (size : Nat) : Line := bytesLine (s.peek p size)

/-- Full/empty bit of the word at a place (R142). -/
def State.feBit (s : State) (p : Place) : Bool :=
  match p with
  | .hbm pa => !(s.cleared pa) && s.fe.contains (pa / 8 * 8)
  | .sram _ _ => s.fe.contains (p.key / 8 * 8)
  | .host _ => false
  | .peer _ _ => s.fe.contains (p.key / 8 * 8)
/-- Set or clear the full/empty bit of the word at a place. -/
def State.setFe (s : State) (p : Place) (full : Bool) : State :=
  let k := p.key / 8 * 8
  { s with fe := if full then NSet.insert s.fe k else NSet.erase s.fe k }

/-! ### Waking memory (R21, R136) -/

/-- Note an access to a sub-bank or a pseudo-channel, which restarts its idle time (R136, R137). -/
def State.touch (s : State) (p : Place) : State :=
  match p with
  | .sram b off => s.modSub b (off / 2 ^ 16) fun x => { x with lastUse := s.cycle }
  | .hbm pa => { s with pchUse := KMap.set s.pchUse (s.pchKey pa) s.cycle }
  | .host _ | .peer _ _ => s
/-- Does the sub-bank or pseudo-channel of a place stand still: it sleeps, wakes or powers up (R21)? -/
def State.unitStill (s : State) (p : Place) : Bool :=
  match p with
  | .sram b off =>
    match (s.subBank b (off / 2 ^ 16)).power with
    | .retention | .waking | .poweringUp => true
    | .on | .off | .unavailable => false
  | .hbm pa => decide (KMap.getD s.pch (s.pchKey pa) .active ≠ .active)
  | .host _ | .peer _ _ => false
/-- Do two granules of HBM, by their numbers, lie in one row (R34)? -/
def sameRow (g h : Nat) : Bool := decide (g = h) || decide (Config.rowOf (64 * g) = Config.rowOf (64 * h))
/-- Does an accessed granule of a stack in 62-way mode move at this moment (R124)? -/
def State.moving (s : State) (pa : Nat) : Bool :=
  match KMap.find? s.w62 (pa / 2 ^ 36) with
  | some w => decide (w.moved < stackEnd ∧ pa % 2 ^ 36 / 128 = w.moved / 128)
  | none => false
/-- The channel controller of an address, by one number over the package: it serves two pseudo-channels (R122). -/
def State.controller (s : State) (pa : Nat) : Nat := s.pchKey pa / 2
/-- The granule, by its address, that a channel controller encrypts again for a window: the first in ascending order that it has not passed and that is not cleared (R82 step 4). -/
def State.rekeyNext (s : State) (w : Window) (ctl : Nat) : Option Nat :=
  (List.find? (fun g => decide (KMap.getD w.passed ctl 0 ≤ 64 * g) && w.units.contains (unitOf (64 * g))
    && KMap.has s.owner (unitOf (64 * g)) && decide (s.controller (64 * g) = ctl)) s.written).map (64 * ·)
/-- Is the granule of a place being encrypted again for a re-key (R83)? -/
def State.rekeying (s : State) (pa : Nat) : Bool :=
  s.windows.any fun kv => decide (kv.2.state = .rekey) && kv.2.drained && kv.2.units.contains (unitOf pa)
    && decide (s.rekeyNext kv.2 (s.controller pa) = some (pa / 64 * 64))
/-- Is the granule of a place held up: it is remapped, its row repaired, its block, its window or its place changed (R33, R34, R66, R83, R124)? -/
def State.granuleStill (s : State) (p : Place) : Bool :=
  match p with
  | .sram _ _ => s.remapping.contains p.granule
  | .hbm pa =>
    s.rolling.contains (pa / 2048) || (s.rowRepair.any fun g => sameRow g (pa / 64)) || s.moving pa || s.rekeying pa
  | .host _ | .peer _ _ => false
/-- Is the memory at a place unable to serve now (R21, R33, R34, R66, R83, R124)? -/
def State.stalled (s : State) (p : Place) : Bool := s.unitStill p || s.granuleStill p
/-- Begin the wake that an access asks for (R21). -/
def State.wake (s : State) (p : Place) : State :=
  match p with
  | .sram b off =>
    if (s.subBank b (off / 2 ^ 16)).power = .retention then
      s.modSub b (off / 2 ^ 16) fun x => { x with power := .waking }
    else s
  | .hbm pa =>
    match KMap.getD s.pch (s.pchKey pa) .active with
    | .powerDown | .selfRefresh => { s with pch := KMap.set s.pch (s.pchKey pa) .waking }
    | .active | .waking => s
  | .host _ | .peer _ _ => s

/-! ### The order of stalled accesses (R21) -/

/-- The number by which memory keeps the order of arrival of an access that belongs to no context, message or command: its kind, and its number within it. -/
def unitToken (kind n : Nat) : Nat := kind * 2 ^ 56 + n
/-! Kinds of those accesses: write-backs of the ring, images, debug operations, spilled contexts on their way out and in, inbox entries likewise, pallets for pallet instructions, for lane entries and gathered from other kilns, barrier images, ring lines that board again, and what lands in images. -/
abbrev backPass : Nat := 1
abbrev imagePass : Nat := 2
abbrev debugPass : Nat := 3
abbrev spillOut : Nat := 4
abbrev spillIn : Nat := 5
abbrev mailOut : Nat := 6
abbrev mailIn : Nat := 7
abbrev leasePass : Nat := 8
abbrev entryPass : Nat := 9
abbrev gatherPass : Nat := 10
abbrev barrierPass : Nat := 11
abbrev boardPass : Nat := 12
abbrev landPass : Nat := 13

/-- The sub-bank or pseudo-channel of a place, by one number. -/
def State.unitKey (s : State) : Place → Nat
  | .sram b off => subKey b (off / 2 ^ 16)
  | .hbm pa => 2 ^ 20 + s.pchKey pa
  | .host _ | .peer _ _ => 2 ^ 21
/-- Must an access to a place wait behind an arrival that stalled before it: one at a unit that stood still as a whole, or one that the same granule, row or block held up? -/
def State.waitsBehind (s : State) (p : Place) (e : Stalled) : Bool :=
  (e.whole && decide (e.unit = s.unitKey p))
    || match e.place, p with
      | .sram _ _, .sram _ _ => decide (e.place.granule = p.granule)
      | .hbm a, .hbm b => decide (a / 2048 = b / 2048) || sameRow (a / 64) (b / 64)
      | _, _ => false
/-- Does an access, named by the number of its context, message or command, stand behind an earlier arrival? -/
def State.behind (s : State) (token : Nat) (p : Place) : Bool :=
  (s.stallq.takeWhile fun e => decide (e.token ≠ token)).any (s.waitsBehind p)
/-- Can an access not be served now: its memory cannot serve, or earlier arrivals come first (R21)? -/
def State.blocked (s : State) (token : Nat) (p : Place) : Bool := s.stalled p || s.behind token p
/-- An access arrives at memory that cannot serve it: it begins the wake and takes its place in the order of arrival. -/
def State.stallAt (s : State) (token : Nat) (p : Place) : State :=
  if s.stallq.any fun e => decide (e.token = token ∧ e.place = p) then s.wake p
  else { s.wake p with
    stallq := (s.stallq.filter fun e => decide (e.token ≠ token)) ++ [⟨token, p, s.unitKey p, s.unitStill p⟩] }
/-- An access that is served, or withdrawn, leaves the order of arrival. -/
def State.unstall (s : State) (token : Nat) : State :=
  { s with stallq := s.stallq.filter fun e => decide (e.token ≠ token) }
/-- Can every line of HBM that one passage reaches be served now (R21)? -/
def State.linesReady (s : State) (token : Nat) (gs : List Nat) : Bool := gs.all fun g => !(s.blocked token (.hbm g))
/-- A passage waits: its lines take their places in the order of arrival together, and the wakes that they need begin. One that has come to need other lines gives its places up for new ones. -/
def State.linesWait (s : State) (token : Nat) (gs : List Nat) : State :=
  let mine := s.stallq.filter fun e => decide (e.token = token)
  let s := gs.foldl (fun (s : State) g => s.wake (.hbm g)) s
  if mine.map (·.place) = gs.map Place.hbm then s
  else { s with
    stallq := (s.stallq.filter fun e => decide (e.token ≠ token))
      ++ gs.map fun g => ⟨token, .hbm g, s.unitKey (.hbm g), s.unitStill (.hbm g)⟩ }

/-! ### Sub-banks that close (R135) -/

/-- Is the sub-bank of a place closing: no longer allocated, with accesses that it had accepted still to complete? -/
def State.closing (s : State) (p : Place) : Bool :=
  match p with
  | .sram b off =>
    let x := s.subBank b (off / 2 ^ 16)
    !x.alloc && match x.power with
      | .on | .retention | .waking | .poweringUp => true
      | .off | .unavailable => false
  | .hbm _ | .host _ | .peer _ _ => false
/-- Set whether the sub-bank of a place is allocated. -/
def State.allocated (s : State) (p : Place) (on : Bool) : State :=
  match p with
  | .sram b off => s.modSub b (off / 2 ^ 16) fun x => { x with alloc := on }
  | .hbm _ | .host _ | .peer _ _ => s
/-- Do what an access that a sub-bank had accepted before it was cleared still does (R135). -/
def State.accepted (s : State) (p : Place) (f : State → State) : State :=
  if s.closing p then (f (s.allocated p true)).allocated p false else f s

/-- Serve an access at its memory in the order of arrival (R21): it waits there, or `f` serves it. One that arrives at a sub-bank that closes is not accepted (R135). -/
def State.inTurn (s : State) (token : Nat) (p : Place) (f : State → State) : State :=
  let was := s.stallq.any fun e => decide (e.token = token)
  if s.blocked token p && (was || !(s.closing p)) then s.stallAt token p
  else if was then (s.accepted p f).unstall token
  else f s

/-! ### What HBM holds (R63 to R66) -/

/-- The key under which a granule stands: during a re-key the old one until the pointer has passed it (R83). -/
def State.keyAt (s : State) (kid pa : Nat) : Nat :=
  let held := KMap.getD s.keys kid 0
  match List.find? (fun kv => decide (kid = 32 + kv.1 ∧ kv.2.state = .rekey) && kv.2.drained) s.windows with
  | some kv => if KMap.getD kv.2.passed (s.controller pa) 0 ≤ pa / 64 * 64 then kv.2.old.getD held else held
  | none => held
/-- The ciphertext of a granule under its owner's KID (R63, Table 3.2). -/
def State.cipher (s : State) (kid pa : Nat) : Line :=
  let g := pa / 64
  Config.gcmText (s.keyAt kid pa) (g % 2 ^ 34) (KMap.getD s.minor g 0) (KMap.getD s.major (pa / 2048) 0) kid
    (bytesLine (Mem.readBytes s.mem (64 * g) 64))
/-- The tag in the side band of a granule (R63); a granule whose stored tag does not verify is marked in `badTag`. -/
def State.granuleTag (s : State) (kid pa : Nat) : BitVec 56 :=
  let g := pa / 64
  Config.gcmTag (s.keyAt kid pa) (g % 2 ^ 34) (KMap.getD s.minor g 0) (KMap.getD s.major (pa / 2048) 0) kid
    (bytesLine (Mem.readBytes s.mem (64 * g) 64))
/-- A counter line (Table 3.3): MAJOR and the 32 minor counters of a 2 KiB block. -/
def State.counterLine (s : State) (blk : Nat) : Line :=
  BitVec.ofNat 512 (KMap.getD s.major blk 0 % 2 ^ 48 * 2 ^ 448
    + (List.range 32).foldl (fun n i => n + KMap.getD s.minor (32 * blk + i) 0 * 2 ^ (14 * i)) 0)
/-- A node of the counter tree: eight 64-bit counters, one for each child (R65). `treeCtr` holds at level `l` the counter that covers line `n` of that level. -/
def State.treeNode (s : State) (level n : Nat) : Line :=
  BitVec.ofNat 512 ((List.range 8).foldl (fun v i =>
    v + KMap.getD s.treeCtr (level * 2 ^ 40 + 8 * n + i) 0 % 2 ^ 64 * 2 ^ (64 * i)) 0)
/-- Tag of a counter line (level 0) or of a node above it, under the firmware-reserve key (R65). -/
def State.lineTag (s : State) (level n : Nat) : BitVec 56 :=
  Config.nodeTag (KMap.getD s.keys 0 0) (Config.nodeAddr level n) (KMap.getD s.treeCtr (level * 2 ^ 40 + n) 0)
    (match level with
      | 0 => s.counterLine n
      | l + 1 => s.treeNode l n)

/-! ### Writing at a home -/

/-- Note the old value of each instruction word that a store changes, for the fetches of R230. -/
def State.logCode (s : State) (p : Place) (size : Nat) : State :=
  match p with
  | .sram _ _ => s
  | .hbm _ | .host _ | .peer _ _ =>
    let first := p.key / 4 * 4
    let n := (p.key + size - first + 3) / 4
    let old := fun i => (first + 4 * i, BitVec.ofNat 32 (leNat (Mem.readBytes s.mem (first + 4 * i) 4)))
    { s with codeLog := s.codeLog ++ (List.range n).map old }
/-- Raise the counters that a granule's write raises: its minor counter and its path in the counter tree (R64, R65, R66). -/
def State.count (s : State) (pa : Nat) : State :=
  let g := pa / 64
  let blk := pa / 2048
  let up := fun (t : KMap Nat) (l : Nat) =>
    KMap.set t (l * 2 ^ 40 + blk / 8 ^ l) (KMap.getD t (l * 2 ^ 40 + blk / 8 ^ l) 0 + 1)
  let s := { s with treeCtr := (List.range 9).foldl up s.treeCtr }
  if KMap.getD s.minor g 0 = 16383 then
    { s with
      major := KMap.set s.major blk (KMap.getD s.major blk 0 + 1)
      minor := s.minor.filter fun kv => decide (kv.1 / 32 ≠ blk)
      rolling := NSet.insert s.rolling blk }
  else { s with minor := KMap.set s.minor g (KMap.getD s.minor g 0 + 1) }
/-- Make a granule of HBM ready for a write under a KID: convert a CLEARED unit and uncover a cleared granule (R68, R73). -/
def State.uncover (s : State) (kid pa : Nat) : State :=
  let s := if KMap.has s.owner (unitOf pa) then s
    else
    { s with
      owner := KMap.set s.owner (unitOf pa) kid
      written := NSet.eraseRange s.written (unitOf pa * 2 ^ 15) (unitOf pa * 2 ^ 15 + 2 ^ 15) }
  if s.written.contains (pa / 64) then s
  else
  { s with
    written := NSet.insert s.written (pa / 64)
    mem := Mem.blankRange s.mem (pa / 64 * 64) (pa / 64 * 64 + 64)
    fe := NSet.eraseRange s.fe (pa / 64 * 64) (pa / 64 * 64 + 64)
    poison := NSet.erase s.poison (pa / 64 * 64)
    badTag := NSet.erase s.badTag (pa / 64) }
/-- The granules, by address, that `n` bytes from an address up touch. -/
def granulesOf (a n : Nat) : List Nat := (List.range ((a % 64 + n + 63) / 64)).map fun i => a / 64 * 64 + 64 * i
/-- A granule of HBM before a write under a KID: uncovered, and its counters raised (R64, R68, R73); the firmware reserve has neither owners nor counters. -/
def State.openGranule (s : State) (kid g : Nat) : State := if inPartition g then (s.uncover kid g).count g else s
/-- The granules of HBM that `n` bytes at a place touch are opened for a write under a KID. -/
def State.opened (s : State) (kid : Nat) (p : Place) (n : Nat) : State :=
  match p with
  | .hbm _ => (granulesOf p.key n).foldl (fun (s : State) g => s.openGranule kid g) s
  | .sram _ _ | .host _ | .peer _ _ => s
/-- Bytes are laid down at a place: each granule that they cover whole loses its poison and has a new tag (R141). -/
def State.lay (s : State) (p : Place) (bs : List Byte) : State :=
  let whole := (granulesOf p.key bs.length).filter fun g => decide (p.key ≤ g ∧ g + 64 ≤ p.key + bs.length)
  { s with
    poison := s.poison.filter fun g => !(whole.contains g)
    badTag := s.badTag.filter fun g => !(whole.contains (64 * g))
    mem := Mem.writeBytes s.mem p.key bs }
/-- Store bytes at a place for a KID. -/
def State.poke (s : State) (kid : Nat) (p : Place) (bs : List Byte) : State :=
  ((s.opened kid p bs.length).logCode p bs.length).lay p bs

/-- A read at its home: the value, or the fault. -/
def State.readAt (s : State) (vd win : Nat) (p : Place) (size : Nat) : Except Cause Line :=
  match s.homeFault vd win p size false false with
  | some c => .error c
  | none => .ok (s.peekLine p size)
/-- A write at its home: the machine after it, or the fault. -/
def State.writeAt (s : State) (vd win : Nat) (p : Place) (size : Nat) (v : Line) : Except Cause State :=
  match s.homeFault vd win p size true (decide (size = 64)) with
  | some c => .error c
  | none => .ok ((s.poke (kidOf vd win) p (leBytes size v.toNat)).touch p)

/-! ### Translation (R125 to R128) -/

/-- Result of a translation. -/
inductive TResult
  | ok (p : Place) (win : Nat)
  | fault (c : Cause)
  | demand (ipa : Nat)
  | fatal
  deriving DecidableEq, Repr

/-- Zero bits that both stages share (Table 5.5): [54:52], [11:7] and [5]. -/
def entryZeros (e : Nat) : Bool := decide (nbits e 54 52 = 0 ∧ nbits e 11 7 = 0 ∧ nbits e 5 5 = 0)
/-- Is a leaf where the walk allows one, and aligned to its page? `sh` is the shift of the level. -/
def leafShape (e sh : Nat) : Bool :=
  if e.testBit 1 then decide (sh ≠ 39) && decide (nbits e 51 12 * 4096 % 2 ^ sh = 0) else decide (sh ≠ 12)
/-- Is a hypervisor-stage entry malformed (R127)? -/
def badHyp (e sh : Nat) : Bool :=
  let win := nbits e 63 57
  let target := nbits e 56 55
  let pn := nbits e 51 12 * 4096
  !(entryZeros e) || e.testBit 6 || (e.testBit 3 && !(e.testBit 2)) || decide (64 < win)
    || (decide (win ≠ 0) && decide (target ≠ 0)) || decide (target = 3) || !(leafShape e sh)
    || (decide (target = 0) && (decide (2 ^ 40 ≤ pn) || !(hbmExists pn)))
    || (e.testBit 1 && decide (target = 0) && !(inPartition pn && inPartition (pn + 2 ^ sh - 1)))
/-- Is a guest-stage entry malformed (R127)? -/
def badGuest (e sh : Nat) : Bool :=
  !(entryZeros e) || decide (nbits e 63 55 ≠ 0) || (e.testBit 3 && !(e.testBit 2)) || !(leafShape e sh)
/-- Does a leaf allow the access (R128)? -/
def leafAllows (e : Nat) : Access → Bool
  | .read => e.testBit 2
  | .write => e.testBit 3
  | .rw => e.testBit 2 && e.testBit 3
  | .exec => e.testBit 4
/-- A 64-bit table entry of the hypervisor stage, in the firmware reserve. -/
def State.rawWord (s : State) (pa : Nat) : Nat := leNat (Mem.readBytes s.mem pa 8)
/-- The place a hypervisor leaf names (R127). -/
def hypPlace (e sh ipa : Nat) : Place :=
  let a := nbits e 51 12 * 4096 + ipa % 2 ^ sh
  match nbits e 56 55 with
  | 0 => .hbm a
  | 1 => .host a
  | _ => .peer (a / 2 ^ 48) (a % 2 ^ 48)
/-- Walk the hypervisor stage: table address, levels left; the leaf and the shift of its level. -/
def State.walkHyp (s : State) (ipa : Nat) : Nat → List Nat → Except TResult (Nat × Nat)
  | _, [] => .error .fatal
  | table, sh :: rest =>
    let e := s.rawWord (table + 8 * (ipa / 2 ^ sh % 512))
    if !(e.testBit 0) then .error (.demand ipa)
    else if badHyp e sh then .error .fatal
    else if e.testBit 1 then .ok (e, sh)
    else s.walkHyp ipa (nbits e 51 12 * 4096) rest
/-- The hypervisor-stage leaf of an IPA (WalkHyp of R128). -/
def State.hypLeaf (s : State) (vd ipa : Nat) : Except TResult (Nat × Nat) :=
  match s.vd? vd with
  | some v => s.walkHyp ipa v.hypRoot [39, 30, 21, 12]
  | none => .error .fatal
/-- What a hypervisor-stage leaf gives an access: its place, unless it lacks the right or its stack has failed (R128, R35). -/
def State.useHyp (s : State) (k : Access) (ipa e sh : Nat) : TResult :=
  if !(leafAllows e k) then .fatal
  else if nbits e 56 55 = 0 ∧ s.failedStacks.contains (nbits e 51 36) then .fatal
  else .ok (hypPlace e sh ipa) (nbits e 63 57)
/-- Translate an IPA. -/
def State.stage2 (s : State) (vd : Nat) (k : Access) (ipa : Nat) : TResult :=
  match s.hypLeaf vd ipa with
  | .ok (e, sh) => s.useHyp k ipa e sh
  | .error r => r
/-- Read a 64-bit word through the hypervisor stage (Stage2Read64 of R128). -/
def State.stage2Read (s : State) (vd ipa : Nat) : Except TResult Nat :=
  match s.stage2 vd .read ipa with
  | .ok p win =>
    match s.readAt vd win p 8 with
    | .ok v => .ok (v.toNat % 2 ^ 64)
    | .error c => .error (.fault c)
  | r => .error r
/-- Walk the guest stage: table address, levels left; the leaf and the shift of its level (WalkGuest of R128). -/
def State.walkGuest (s : State) (vd va : Nat) : Nat → List Nat → Except TResult (Nat × Nat)
  | _, [] => .error (.fault .guestFormat)
  | table, sh :: rest =>
    match s.stage2Read vd (table + 8 * (va / 2 ^ sh % 512)) with
    | .error r => .error r
    | .ok e =>
      if !(e.testBit 0) then .error (.fault .guestPage)
      else if badGuest e sh then .error (.fault .guestFormat)
      else if e.testBit 1 then .ok (e, sh)
      else s.walkGuest vd va (nbits e 51 12 * 4096) rest
/-- The guest-stage leaf of a V-space address, from the root word of its space (R126, R128). -/
def State.guestLeaf (s : State) (vd : Nat) (space : BitVec 12) (va : Nat) : Except TResult (Nat × Nat) :=
  match s.stage2Read vd (2 ^ 32 + 8 * space.toNat) with
  | .error r => .error r
  | .ok root =>
    if !(root.testBit 0) then .error (.fault .guestPage)
    else if nbits root 63 52 ≠ 0 ∨ nbits root 11 1 ≠ 0 then .error (.fault .guestFormat)
    else s.walkGuest vd va (nbits root 51 12 * 4096) [39, 30, 21, 12]
/-- Does a guest-stage leaf deny an access at a level (R128)? -/
def guestDenies (e : Nat) (lvl : Level) (k : Access) : Bool :=
  !(leafAllows e k) || (decide (lvl = .task) && !(e.testBit 6))
/-- The IPA that a guest-stage leaf gives an address. -/
def leafIpa (e sh va : Nat) : Nat := nbits e 51 12 * 4096 + va % 2 ^ sh
/-- Translate a V-space address by walking both stages (Translate of R128). -/
def State.translate (s : State) (vd : Nat) (space : BitVec 12) (lvl : Level) (va : Nat) (k : Access) : TResult :=
  match s.guestLeaf vd space va with
  | .error r => r
  | .ok (e, sh) => if guestDenies e lvl k then .fault .guestPerm else s.stage2 vd k (leafIpa e sh va)

/-! ### The quoins' translation caches (R125, R128) -/

/-- The quoin of a die that translates an address of a space (R125), numbered over the package. -/
def quoinOf (die : Nat) (space : BitVec 12) (va : Nat) : Nat :=
  24 * die + (space.toNat ^^^ nbits va 32 21 ^^^ nbits va 44 33 ^^^ nbits va 47 45) % 24
/-- The shift of a cached translation's page: the smaller of the two stages' (R128). -/
def TlbEntry.sh (e : TlbEntry) : Nat := min e.gsh e.hsh
/-- Does a cached translation hold an address of a space? -/
def TlbEntry.holds (e : TlbEntry) (vd : Nat) (space : BitVec 12) (va : Nat) : Bool :=
  decide (e.vd = vd ∧ e.space = space ∧ va / 2 ^ e.sh = e.va / 2 ^ e.sh)
/-- The cached translation of an address at its quoin. -/
def State.cached (s : State) (die vd : Nat) (space : BitVec 12) (va : Nat) : Option TlbEntry :=
  (KMap.getD s.tlb (quoinOf die space va) []).find? fun e => e.holds vd space va
/-- Translate a V-space address at its quoin: from the cache, else by walking. -/
def State.translateAt (s : State) (die vd : Nat) (space : BitVec 12) (lvl : Level) (va : Nat) (k : Access) : TResult :=
  match s.cached die vd space va with
  | some e => if guestDenies e.guest lvl k then .fault .guestPerm else s.useHyp k (leafIpa e.guest e.gsh va) e.hyp e.hsh
  | none => s.translate vd space lvl va k
/-- The combined result of a walk of both stages. -/
def State.walked (s : State) (vd : Nat) (space : BitVec 12) (va : Nat) : Option TlbEntry :=
  match s.guestLeaf vd space va with
  | .error _ => none
  | .ok (e, sh) =>
    match s.hypLeaf vd (leafIpa e sh va) with
    | .error _ => none
    | .ok (h, hs) => some ⟨vd, space, va, e, sh, h, hs⟩
/-- A quoin keeps a walk's result; a full cache drops an entry that is left open (R125). -/
def State.keepWalk (s : State) (q : Nat) (e : TlbEntry) : State :=
  let es := KMap.getD s.tlb q []
  if es.length < 2048 then { s with tlb := KMap.set s.tlb q (e :: es) }
  else { s with freeCtr := s.freeCtr + 1, tlb := KMap.set s.tlb q (e :: es.eraseIdx (Config.freeNat s.freeCtr % es.length)) }

/-- Is the address in V-space (Table 5.1)? -/
def inVspace (ea : Nat) : Bool := decide (2 ^ 32 ≤ ea ∧ ea < 2 ^ 48)
/-- The brick and offset of an own-bank or B-space address (Table 5.1). -/
def bankOf (brick ea : Nat) : Option (Nat × Nat) :=
  if ea < 2 ^ 20 then some (brick, ea)
  else if ea / 2 ^ 34 = 0xFFFE000000000000 / 2 ^ 34 ∧ nbits ea 31 29 = 0 then
    some (512 * nbits ea 33 32 + nbits ea 28 20, ea % 2 ^ 20)
  else none
/-- Where an address that a slot of `brick` issues is served (R117, R128). -/
def State.resolve (s : State) (brick vd : Nat) (space : BitVec 12) (lvl : Level) (ea : Word) (k : Access) : TResult :=
  match bankOf brick ea.toNat with
  | some (b, off) => .ok (.sram b off) 0
  | none => if inVspace ea.toNat then s.translateAt (brick / 512) vd space lvl ea.toNat k else .fault .address
/-- The machine once a slot or unit of `brick` has had an address translated: the quoin's cache holds the result of a walk that gave one (R128). -/
def State.translated (s : State) (brick vd : Nat) (space : BitVec 12) (lvl : Level) (ea : Word) (k : Access) : State :=
  let va := ea.toNat
  if (bankOf brick va).isSome || !(inVspace va) || (s.cached (brick / 512) vd space va).isSome then s
  else
    match s.translate vd space lvl va k, s.walked vd space va with
    | .ok _ _, some e => s.keepWalk (quoinOf (brick / 512) space va) e
    | _, _ => s

/-! ### The words that a walk reads -/

/-- A word of a table that a walk reads: its place and window, and whether it belongs to the guest stage, whose tables are partition memory (R126, R128). -/
structure TableRead where
  place : Place
  win : Nat
  guest : Bool
  deriving DecidableEq, Repr
/-- The entries that a walk of the hypervisor stage reads, in order. -/
def State.hypReads (s : State) (ipa : Nat) : Nat → List Nat → List TableRead
  | _, [] => []
  | table, sh :: rest =>
    let a := table + 8 * (ipa / 2 ^ sh % 512)
    let e := s.rawWord a
    ⟨.hbm a, 0, false⟩ :: (if !(e.testBit 0) || badHyp e sh || e.testBit 1 then [] else s.hypReads ipa (nbits e 51 12 * 4096) rest)
/-- The entries that translating an IPA reads. -/
def State.ipaReads (s : State) (vd ipa : Nat) : List TableRead :=
  match s.vd? vd with
  | some v => s.hypReads ipa v.hypRoot [39, 30, 21, 12]
  | none => []
/-- The words that reading a guest-stage word reads: the hypervisor stage's entries, and then the word itself. -/
def State.wordReads (s : State) (vd ipa : Nat) : List TableRead :=
  s.ipaReads vd ipa ++ match s.stage2 vd .read ipa with
    | .ok p win => [⟨p, win, true⟩]
    | _ => []
/-- The words that the levels of a guest-stage walk read, and those of the IPA that its leaf gives. -/
def State.guestReads (s : State) (vd va : Nat) : Nat → List Nat → List TableRead
  | _, [] => []
  | table, sh :: rest =>
    let ipa := table + 8 * (va / 2 ^ sh % 512)
    s.wordReads vd ipa ++ match s.stage2Read vd ipa with
      | .error _ => []
      | .ok e =>
        if !(e.testBit 0) || badGuest e sh then []
        else if e.testBit 1 then s.ipaReads vd (leafIpa e sh va)
        else s.guestReads vd va (nbits e 51 12 * 4096) rest
/-- The words that a walk of both stages reads for an address, in order (R128). -/
def State.walkReads (s : State) (vd : Nat) (space : BitVec 12) (va : Nat) : List TableRead :=
  let root := 2 ^ 32 + 8 * space.toNat
  s.wordReads vd root ++ match s.stage2Read vd root with
    | .error _ => []
    | .ok r =>
      if !(r.testBit 0) || decide (nbits r 63 52 ≠ 0 ∨ nbits r 11 1 ≠ 0) then []
      else s.guestReads vd va (nbits r 51 12 * 4096) [39, 30, 21, 12]
/-- Under what an access is translated: the number by which memory keeps the order of arrival (R21), the brick that own-bank addresses name, the device, its space and the level. -/
structure Agent where
  token : Nat
  brick : Nat
  vd : Nat
  space : BitVec 12
  level : Level
  deriving DecidableEq, Repr
/-- Does translating an address need no walk: it is no V-space address, or the quoin's cache holds it? -/
def State.noWalk (s : State) (a : Agent) (va : Nat) : Bool :=
  (bankOf a.brick va).isSome || !(inVspace va) || (s.cached (a.brick / 512) a.vd a.space va).isSome

end Sys2Proof.Machine
end

