-- ==== Sys2Proof/Machine/Ops.lean ====
section
/-!
DEFINITION. Operations over slots: registers, contexts and their messages, completion of an instruction, taking an exception and returning from one, fault notices, the end of a thread and the filling of a free slot.
-/
namespace Sys2Proof.Machine

/-- The outcome of an instruction. -/
abbrev Out := Host.Outcome State Fault Refusal

/-! ### Slots and contexts -/

/-- The slot with key 8 × brick + slot number. -/
def State.slotAt (s : State) (key : Nat) : Slot := KMap.getD s.slots key Slot.empty
/-- Replace a slot. -/
def State.setSlot (s : State) (key : Nat) (k : Slot) : State := { s with slots := KMap.set s.slots key k }
/-- Change a slot. -/
def State.modSlot (s : State) (key : Nat) (f : Slot → Slot) : State := s.setSlot key (f (s.slotAt key))
/-- The slot whose turn it is. -/
def State.me (s : State) : Slot := s.slotAt s.cur
/-- Its brick. -/
def State.brick (s : State) : Nat := s.cur / 8
/-- Read a g register. -/
def Slot.getG (k : Slot) (r : GReg) : Word := k.g[r]
/-- Write a g register: there is no hard-wired zero (R257). -/
def Slot.setG (k : Slot) (r : GReg) (v : Word) : Slot := { k with g := k.g.set r v }
/-- Write a w register whole and set its valid bit (R150). -/
def Slot.setW (k : Slot) (r : WReg) (v : Line) : Slot := { k with w := k.w.set r v, wv := k.wv ||| (1 <<< r.val) }
/-- Is a w register valid? -/
def Slot.wValid (k : Slot) (r : WReg) : Bool := k.wv.getLsbD r.val
/-- Write a z register whole and set its valid bit (R150). -/
def Slot.setZ (k : Slot) (r : ZReg) (v : Line) : Slot := { k with z := k.z.set r v, zv := k.zv ||| (1 <<< r.val) }
/-- Is a z register valid? -/
def Slot.zValid (k : Slot) (r : ZReg) : Bool := k.zv.getLsbD r.val
/-- Drop every line that the stream ports hold or have asked for ahead (R159). -/
def Slot.dropAhead (k : Slot) : Slot := { k with ports := k.ports.map fun p => { p with ahead := [], asked := [] } }
/-- Device time in nanoseconds (R38). -/
def State.devTime (s : State) : Nat := s.devHalfNs / 2
/-- Do Nerem's system cores run: it serves, and an update has not stopped them (R29, R56)? They complete the requests in progress. -/
def State.coresRun (s : State) : Bool :=
  decide (s.boot.stage = 5) && match s.update with
    | some u => !u.handed
    | none => true
/-- Does Nerem take up events: it serves, and no update gap is open, which lasts from step 2 of an update to the health report (R29, R56, R57)? -/
def State.neremRuns (s : State) : Bool := decide (s.boot.stage = 5) && s.update.isNone
/-- The next free value (see the free values of the assumption log). -/
def State.choose (s : State) : Nat × State := (Config.freeNat s.freeCtr, { s with freeCtr := s.freeCtr + 1 })
/-- A number not used before. -/
def State.fresh (s : State) : Nat × State := (s.nextId, { s with nextId := s.nextId + 1 })
/-- The context that waits in an arrival queue or spill area, when it is a whole one (R132). -/
def Arrival.whole : Arrival → Option Slot
  | .migrant _ _ => none
  | .context k _ => some k
/-- Change the whole contexts among the arrivals of some queues. -/
def onArrivals (q : KMap (List Arrival)) (f : Slot → Slot) : KMap (List Arrival) :=
  q.map fun kv => (kv.1, kv.2.map fun a => match a with
    | .migrant m t => .migrant m t
    | .context k t => .context (f k) t)
/-- Change a context wherever it stands: in a slot, saved by a gang switch, held while it is halted or waits for a page, ended with stores still to leave, or waiting to arrive. -/
def State.modCtx (s : State) (ctx : Nat) (f : Slot → Slot) : State :=
  let f' := fun (k : Slot) => if k.ctx = ctx ∧ ctx ≠ 0 then f k else k
  let g := fun (kv : Nat × Slot) => (kv.1, f' kv.2)
  { s with
    slots := s.slots.map g
    saved := s.saved.map g
    held := s.held.map g
    orphans := s.orphans.map g
    arrivals := onArrivals s.arrivals f'
    spills := onArrivals s.spills f' }
/-- The whole contexts that wait in arrival queues and spill areas, each with the key of its queue (R132). -/
def State.arriving (s : State) : List (Nat × Slot) :=
  (s.arrivals ++ s.spills).flatMap fun kv => kv.2.filterMap fun a => a.whole.map fun k => (kv.1, k)
/-- The key of the slot that a context occupies. -/
def State.keyOf (s : State) (ctx : Nat) : Option Nat :=
  (List.find? (fun kv => decide (kv.2.ctx = ctx ∧ ctx ≠ 0)) s.slots).map (·.1)
/-- A context wherever it stands. -/
def State.ctxOf (s : State) (ctx : Nat) : Option Slot :=
  (List.find? (fun kv => decide (kv.2.ctx = ctx ∧ ctx ≠ 0))
    (s.slots ++ s.saved ++ s.held ++ s.orphans ++ s.arriving)).map (·.2)
/-- The 144 bytes of a migration message (Table 6.9). -/
def Migrant.message (m : Migrant) : List Byte :=
  (m.g.toList.map fun v => leBytes 8 v.toNat).flatten ++ leBytes 8 m.pc.toNat ++ leBytes 8 (m.space.toNat * 2 ^ 10 + m.region % 2 ^ 10)
/-- The 144 bytes that stand for an arrival in a spill area; those of a whole context tell its registers and PC alone, and the rest of it is kept beside them (DESIGN CHOICE: log entry 112). -/
def Arrival.message : Arrival → List Byte
  | .migrant m _ => m.message
  | .context k _ => (Migrant.mk k.ctx k.vd k.g k.pc k.space k.region false).message
/-- Is the partition resident? -/
def State.isResident (s : State) (vd : Nat) : Bool :=
  match s.vd? vd with
  | some v => v.resident
  | none => false
/-- Do the buffered stores of a context stay in its image: its partition is switched out and its save has ended, so what is left stands behind a held store (R133)? -/
def State.storesStay (s : State) (ctx : Nat) : Bool :=
  match List.find? (fun kv => decide (kv.2.ctx = ctx ∧ ctx ≠ 0)) (s.saved ++ s.held) with
  | some kv => (s.keyOf ctx).isNone && !(s.isResident kv.2.vd) && !(s.slots.any fun x => decide (x.2.mode = .switching (some ctx)))
  | none => false
/-- Record how far a context's request has come. -/
def Slot.setStage (k : Slot) (st : ReqStage) : Slot := { k with req := k.req.map fun r => { r with stage := st } }

/-- The key under which a context is kept outside a slot: its number, the slot it left and its device. -/
def keepKey (ctx key vd : Nat) : Nat := ctx * 2 ^ 18 + 16 * key + vd

/-! ### Save regions (R175) -/

/-- The position of a number in a rising set. -/
def rankIn (m : NSet) (n : Nat) : Nat := (m.takeWhile fun x => decide (x < n)).length
/-- Bytes of a device's context images with their overflow areas, for each brick and slot number. -/
def VDev.contextBytes (v : VDev) : Nat := 2048 * v.slotNums.length * 20480
/-- Bytes of its arrival spill areas and barrier images, for each brick. -/
def VDev.spillBytes (v : VDev) : Nat := 2048 * (16384 + 2048 * v.slotNums.length)
/-- Bytes of a pallet image (Table 6.11 and R205). -/
def palletBytes : Nat := 69632
/-- Bytes of a device's save region; a unit at its end is the fallout area of R113. -/
def VDev.saveBytes (v : VDev) : Nat :=
  v.contextBytes + v.spillBytes + (4 * v.kilns.length + 4 * 1024 * v.slotNums.length) * palletBytes
/-- Units of a device's save region, which count against its HBM quota (R175). -/
def VDev.saveUnits (v : VDev) : Nat := (v.saveBytes + 2 ^ 21 - 1) / 2 ^ 21 + 1
/-- Address of the context image of a slot, by its key; the overflow area of its inbox follows it. -/
def VDev.imageAt (v : VDev) (key : Nat) : Nat := v.save + (key / 8 * v.slotNums.length + rankIn v.slotNums (key % 8)) * 20480
/-- Address of the arrival spill area of a brick. -/
def VDev.spillArea (v : VDev) (b : Nat) : Nat := v.save + v.contextBytes + b * (16384 + 2048 * v.slotNums.length)
/-- Address of the image of the sixteen barriers of a slot number of a brick (R170). -/
def VDev.barrierArea (v : VDev) (b n : Nat) : Nat := v.spillArea b + 16384 + 2048 * rankIn v.slotNums n
/-- Address of the pallet image of lease number `n` of a kiln. -/
def VDev.leaseImage (v : VDev) (kn n : Nat) : Nat :=
  v.save + v.contextBytes + v.spillBytes + (4 * rankIn v.kilns kn + n) * palletBytes
/-- Address of the pallet image of a yard entry of a die. -/
def VDev.entryImage (v : VDev) (die place : Nat) : Nat :=
  v.save + v.contextBytes + v.spillBytes + (4 * v.kilns.length + 1024 * v.slotNums.length * die + place) * palletBytes

/-! ### Regions -/

/-- Change a region of a device's running tree. -/
def State.modRegion (s : State) (vd region : Nat) (f : Region → Region) : State :=
  s.modVd vd fun v => { v with tree := v.tree.map fun t => { t with regions := t.regions.modify region f } }
/-- A region of a device's running tree. -/
def State.region? (s : State) (vd region : Nat) : Option Region :=
  match s.vd? vd with
  | some v =>
    match v.tree with
    | some t => t.regions[region]?
    | none => none
  | none => none

/-! ### Full/empty words and reservations at their homes (R142, R281 to R284) -/

/-- Is the request a full/empty access? -/
def ReqKind.isFullEmpty : ReqKind → Bool
  | .ldff | .ldfe | .stef | .stff => true
  | _ => false
/-- Is the request one of a reservation? -/
def ReqKind.isResv : ReqKind → Bool
  | .lrw | .scw => true
  | _ => false
/-- Does a slot parked on a reply wait for one that its home will send, and not for a word or a reservation, which is a wait that can be withdrawn (Table 4.12)? -/
def Slot.awaitsReply (k : Slot) : Bool :=
  match k.req with
  | some q => !(decide (q.stage = .queued) && (q.kind.isFullEmpty || q.kind.isResv))
  | none => false
/-- Can the full/empty request be served now: its word is in the state it waits for, or it faults? -/
def State.feReady (s : State) (k : Slot) (r : Request) : Bool :=
  let wr := match r.kind with
    | .ldff => false
    | _ => true
  match s.homeFault k.vd r.win r.place 8 wr false with
  | some _ => true
  | none =>
    match r.kind with
    | .ldff | .ldfe => s.feBit r.place
    | .stef => !(s.feBit r.place)
    | _ => true
/-- The effect of a full/empty access at its home, once its word is in the state it waits for: the machine after it, and the reply (Table 13.4). -/
def State.fePerform (s : State) (vd : Nat) (q : Request) : State × ReqStage :=
  match q.kind with
  | .ldff =>
    match s.readAt vd q.win q.place 8 with
    | .ok v => (s.touch q.place, .done v)
    | .error c => (s, .failed c.code q.ea false)
  | .ldfe =>
    match s.homeFault vd q.win q.place 8 true false with
    | some c => (s, .failed c.code q.ea false)
    | none => ((s.setFe q.place false).touch q.place, .done (s.peekLine q.place 8))
  | _ =>
    match s.writeAt vd q.win q.place 8 (lineOf q.data) with
    | .ok s => (s.setFe q.place true, .done 0)
    | .error c => (s, .failed c.code q.ea false)
/-- Serve a full/empty request of a context at its home. -/
def State.feServe (s : State) (k : Slot) (q : Request) : State :=
  let (s, st) := s.fePerform k.vd q
  s.modCtx k.ctx fun k => k.setStage st
/-- What the first waiter of a word that can go on is: a request, or a slot that waits to pop the word's line (R160). -/
def State.feFirst (s : State) (key : Nat) : List Nat → Option (Nat × Option (Slot × Request))
  | [] => none
  | c :: rest =>
    match s.ctxOf c with
    | none => s.feFirst key rest
    | some k =>
      match k.req with
      | some r => if s.feReady k r then some (c, some (k, r)) else s.feFirst key rest
      | none => if s.fe.contains key then some (c, none) else s.feFirst key rest
/-- A slot that waits to pop a line whose word has become full goes on (R160). -/
def Slot.wordIsFull (k : Slot) : Slot :=
  match k.mode with
  | .parked (.wordFull _) => { k with mode := .ready }
  | .parked _ | .free | .ready | .switching _ | .halted => k
/-- Serve the waiters of a word in arrival order until none can go on. -/
def State.feRun (s : State) (key : Nat) : Nat → State
  | 0 => s
  | fuel + 1 =>
    let q := KMap.getD s.feq key []
    match s.feFirst key q with
    | none => s
    | some (c, some (k, r)) =>
      let q' := q.filter fun x => decide (x ≠ c)
      let s := s.feServe k r
      let s := { s with feq := if q' = [] then KMap.erase s.feq key else KMap.set s.feq key q' }
      s.feRun key fuel
    | some (c, none) => s.modCtx c Slot.wordIsFull
/-- Serve the waiters of a word after its state may have changed. A sub-bank that closes had accepted them (R135). -/
def State.feWake (s : State) (key : Nat) : State :=
  s.accepted (placeOf key) fun s => s.feRun key (KMap.getD s.feq key []).length
/-- A context joins the queue of a word, and is served at once if it can be. -/
def State.feJoin (s : State) (key ctx : Nat) : State :=
  { s with feq := KMap.set s.feq key (KMap.getD s.feq key [] ++ [ctx]) }.feWake key

/-- Give the reservation of a word to the first waiter whose read succeeds (R282). -/
def State.resvRun (s : State) (key : Nat) : List Nat → State
  | [] => { s with resvq := KMap.erase s.resvq key }
  | c :: rest =>
    match s.ctxOf c with
    | none => s.resvRun key rest
    | some k =>
      match k.req with
      | none => s.resvRun key rest
      | some r =>
        match s.readAt k.vd r.win r.place 8 with
        | .error e => (s.modCtx c fun k => k.setStage (.failed e.code r.ea false)).resvRun key rest
        | .ok v =>
          let s := { s with resvq := KMap.set s.resvq key ⟨c, s.cycle, rest⟩ }
          s.modCtx c fun k => { (k.setStage (.done v)) with resv := some ⟨key, r.ea⟩ }
/-- Hand on the reservation of a word (R284). -/
def State.handOnWord (s : State) (key : Nat) : State :=
  match KMap.find? s.resvq key with
  | some q => s.accepted (placeOf key) fun s => s.resvRun key q.waiters
  | none => s
/-- Hand on the reservation that a context holds, unwritten (R284). -/
def State.handOn (s : State) (k : Slot) : State :=
  match k.resv with
  | some r => (s.modCtx k.ctx fun k => { k with resv := none }).handOnWord r.key
  | none => s
/-- Withdraw a context from every queue in which it waits (Table 4.12). -/
def State.withdraw (s : State) (ctx : Nat) : State :=
  { s with
    feq := (s.feq.map fun kv => (kv.1, kv.2.filter fun c => decide (c ≠ ctx))).filter fun kv => decide (kv.2 ≠ [])
    resvq := s.resvq.map fun kv => (kv.1, { kv.2 with waiters := kv.2.waiters.filter fun c => decide (c ≠ ctx) })
    yardWaits := s.yardWaits.filter fun y => decide (y.1 ≠ ctx) }

/-- A context gives up what it holds and waits for: its reservation is handed on, and it leaves every queue, the order of arrival among them (Table 4.12, R284). -/
def State.release (s : State) (k : Slot) : State := ((s.handOn k).withdraw k.ctx).unstall k.ctx
/-- The context of a thread that ends gives up everything, the demand fault it is parked on as well (R377). -/
def State.leave (s : State) (k : Slot) : State :=
  let s := s.release k
  { s with demands := s.demands.filter fun d => decide (d.who ≠ DemandFor.slot k.ctx) }

/-! ### Threads begin and end -/

/-- The slot of a thread that begins (R92). -/
def newThread (ctx vd region : Nat) (space : BitVec 12) (pc : Word) (args : List Word) : Slot :=
  let k := { Slot.empty with mode := .ready, ctx := ctx, vd := vd, region := region, space := space, pc := pc }
  { k with g := #v[args.getD 0 0, args.getD 1 0, args.getD 2 0, args.getD 3 0, 0, 0, 0, 0, 0, 0, 0, 0, 0, 0, 0, 0] }
/-- The slot of a migrant that arrives (R172). -/
def landed (m : Migrant) : Slot :=
  { Slot.empty with mode := .ready, ctx := m.ctx, vd := m.vd, region := m.region, space := m.space, pc := m.pc, g := m.g, haltAsked := m.halt }
/-- The slot that an arrival fills. -/
def Arrival.slot : Arrival → Slot
  | .migrant m _ => landed m
  | .context k _ => { k with mode := .ready }
/-- Key of the queues that a brick keeps for a virtual device. -/
def queueKey (brick vd : Nat) : Nat := 16 * brick + vd
/-- Set a queue; an empty one is not listed. -/
def setQueue {α : Type} [DecidableEq α] (m : KMap (List α)) (key : Nat) (q : List α) : KMap (List α) :=
  if q = [] then KMap.erase m key else KMap.set m key q
/-- Start the thread of a queued spawn in a slot. -/
def State.startSpawn (s : State) (key vd : Nat) (e : SpawnEntry) : State :=
  let (c, s) := s.fresh
  let space := match s.region? vd e.region with
    | some r => r.space
    | none => 0
  s.setSlot key (newThread c vd e.region space e.entry e.args)
/-- Fill a free slot of a partition from its arrival queue, or, when no context waits there, from its spawn queue (R96). What has spilled comes through the arrival queue (R173). -/
def State.fillFor (s : State) (key vd : Nat) : State :=
  let q := queueKey (key / 8) vd
  match KMap.getD s.arrivals q [] with
  | a :: rest => { s with arrivals := setQueue s.arrivals q rest }.setSlot key a.slot
  | [] =>
    match KMap.getD s.spawnq q [] with
    | e :: rest => ({ s with spawnq := setQueue s.spawnq q rest }).startSpawn key vd e
    | [] => s
/-- The resident partition that holds a slot number. -/
def State.residentOf (s : State) (n : Nat) : Option Nat :=
  (List.find? (fun kv => kv.2.resident && kv.2.slotNums.contains n) s.vds).map (·.1)
/-- The saved context of a partition for a slot, when one waits for its restore (R110). -/
def State.savedFor (s : State) (key vd : Nat) : Option (Nat × Slot) :=
  List.find? (fun kv => decide (kv.1 % 2 ^ 18 = 16 * key + vd)) s.saved
/-- Fill a slot that has become free (R96); one whose incoming context still waits for its restore is not free for placement (R375). -/
def State.fill (s : State) (key : Nat) : State :=
  if (s.slotAt key).mode = .free then
    match s.residentOf (key % 8) with
    | some vd =>
      if (s.savedFor key vd).isSome then s.setSlot key { Slot.empty with mode := .switching none } else s.fillFor key vd
    | none => s
  else s
/-- Is the entry a put, which its slot does not wait for? -/
def RingEntry.isPut (e : RingEntry) : Bool :=
  match e.op with
  | .put _ _ => true
  | _ => false
/-- What outlives a thread that ends: its stores depart, and its puts are applied, as usual (R377). -/
def Slot.leftover (k : Slot) : Slot :=
  { k with mode := .free, req := none, resv := none, ringq := k.ringq.filter RingEntry.isPut }
/-- Keep what outlives a thread, if anything does. -/
def keepLeft (m : KMap Slot) (key : Nat) (k : Slot) : KMap Slot :=
  let left := k.leftover
  if left.sb = [] ∧ left.ringq = [] then m else KMap.set m key left
/-- A slot whose thread has ended: its ports are unbound, its queues and counts are empty, and its registers keep what they held (R305, Table 18.5). -/
def Slot.freed (k : Slot) : Slot :=
  { Slot.empty with
    g := k.g, pc := k.pc, space := k.space, level := k.level, plevel := k.plevel, sstep := k.sstep, w := k.w, wv := k.wv
    z := k.z, zv := k.zv, xpc := k.xpc, xcause := k.xcause, xval := k.xval, wakeat := k.wakeat, tkt := k.tkt
    mqval := k.mqval }
/-- End the thread of a slot: reservation handed on, waits withdrawn, stores left to depart, live count lowered, slot freed and filled (R305, R377). -/
def State.endThread (s : State) (key : Nat) : State :=
  let k := s.slotAt key
  if k.mode = .free then s
  else
    let s := s.leave k
    let s := { s with orphans := keepLeft s.orphans (keepKey k.ctx key k.vd) k }
    let s := s.modRegion k.vd k.region fun r => { r with live := r.live - 1 }
    (s.setSlot key k.freed).fill key

/-! ### Fault domains (R114, R115) -/

/-- Regions of a tree that share a fault domain. -/
def domainRegions (t : Tree) (d : Nat) : List Nat :=
  (List.range t.regions.length).filter fun i =>
    match t.regions[i]? with
    | some r => decide (r.domain = d)
    | none => false
/-- Does the slot wait for an answer that will land, from a home or from the ring: a thread that is cancelled meanwhile ends with it (R377)? -/
def Slot.endsLater (k : Slot) : Bool :=
  (decide (k.mode = .parked .reply) && k.awaitsReply)
    || (decide (k.mode = .parked .ring) && k.ringq.any fun e => match e.op with
      | .put _ _ | .wait _ _ => false
      | .board _ | .capture _ | .add _ | .claim | .alight _ => true)
/-- End every thread of some regions of a device (R376, R377): those that wait in queues and save areas first, so that none takes a slot that is freed. A thread parked on a reply, in its slot or saved, ends when the reply lands. -/
def State.endRegions (s : State) (vd : Nat) (rs : List Nat) : State :=
  let mine := fun (k : Slot) => decide (k.vd = vd) && rs.contains k.region && decide (k.mode ≠ .free ∧ k.ctx ≠ 0)
  let lower := fun (s : State) (r : Nat) => s.modRegion vd r fun x => { x with live := x.live - 1 }
  let now := fun (k : Slot) => mine k && !k.endsLater
  let later := fun (kv : Nat × Slot) => if mine kv.2 then (kv.1, { kv.2 with cancelled := true }) else kv
  let gone := (s.saved ++ s.held).filter fun kv => now kv.2
  let s := gone.foldl (fun s kv => lower (s.leave kv.2) kv.2.region) s
  let s := { s with
    saved := List.map later (s.saved.filter fun kv => !(now kv.2))
    held := List.map later (s.held.filter fun kv => !(now kv.2))
    orphans := gone.foldl (fun (m : KMap Slot) (kv : Nat × Slot) => keepLeft m kv.1 kv.2) s.orphans }
  let ofArr := fun (a : Arrival) => match a with
    | .migrant m _ => if m.vd = vd ∧ rs.contains m.region then some m.region else none
    | .context k _ => if k.vd = vd ∧ rs.contains k.region then some k.region else none
  let lost := ((s.arrivals ++ s.spills).map (·.2)).flatten.filterMap ofArr
  let cut := s.arriving.filter fun kv => decide (kv.2.vd = vd) && rs.contains kv.2.region
  let s := lost.foldl lower s
  let s := cut.foldl (fun s kv => s.leave kv.2) s
  let s := { s with orphans := cut.foldl (fun (m : KMap Slot) (kv : Nat × Slot) =>
    keepLeft m (keepKey kv.2.ctx (8 * (kv.1 / 16)) kv.2.vd) kv.2) s.orphans }
  let keep := fun (m : KMap (List Arrival)) =>
    (m.map fun kv => (kv.1, kv.2.filter fun a => (ofArr a).isNone)).filter fun kv => decide (kv.2 ≠ [])
  let s := { s with arrivals := keep s.arrivals, spills := keep s.spills }
  let migs := s.migMsgs.filter fun m => decide (m.m.vd = vd) && rs.contains m.m.region
  let s := migs.foldl (fun s m => lower s m.m.region) s
  let s := { s with migMsgs := s.migMsgs.filter fun m => !(decide (m.m.vd = vd) && rs.contains m.m.region) }
  let q := (s.spawnq.filter fun kv => decide (kv.1 % 16 = vd)).map (·.2)
  let s := (q.flatten.filter fun e => rs.contains e.region).foldl (fun s e => lower s e.region) s
  let queued := s.spawnq.map fun kv =>
    if kv.1 % 16 = vd then (kv.1, kv.2.filter fun e => !(rs.contains e.region)) else kv
  let s := { s with spawnq := queued.filter fun kv => decide (kv.2 ≠ []) }
  let keys := (s.slots.filter fun kv => mine kv.2).map (·.1)
  keys.foldl (fun s key =>
    if (s.slotAt key).endsLater then s.modSlot key fun k => { k with cancelled := true } else s.endThread key) s
/-- A notice is fatal to a domain: its threads end and the LAUNCH response will say so (R115, R90). -/
def State.fatalDomain (s : State) (vd d : Nat) : State :=
  match s.vd? vd with
  | some v =>
    match v.tree with
    | some t =>
      let s := s.modVd vd fun v =>
        { v with tree := v.tree.map fun t => { t with fatal := true }, fatalNotices := v.fatalNotices + 1 }
      s.endRegions vd (domainRegions t d)
    | none => s
  | none => s
/-- A notice that is not written is counted (R114). -/
def State.dropNotice (s : State) (vd : Nat) : State := s.modVd vd fun v => { v with droppedNotices := v.droppedNotices + 1 }
/-- Give a notice to the fault domain of a region: it takes the domain's next sequence number and sets out for its queue, or is dropped where there is none; in a domain without a handler it is fatal (R114, R115). `cause` holds the 16 bits of XCAUSE. -/
def State.notify (s : State) (vd region cause : Nat) (xval whre : Word) : State :=
  match s.region? vd region with
  | none => s
  | some me =>
    match s.region? vd me.domain with
    | none => s
    | some r =>
      let d := me.domain
      let (i, t) := s.fresh
      let t := if r.notice = 0 then t.dropNotice vd
        else { t with notices := t.notices ++ [⟨i, vd, region, d, cause, xval, whre, r.noticeSeq, s.devTime⟩] }
      let s := t.modRegion vd d fun r => { r with noticeSeq := r.noticeSeq + 1 }
      if r.handler = 0 then s.fatalDomain vd d else s
/-- The WHERE of an engine or kiln (Table 4.13). -/
def whereEngine : Word := wrap (2 ^ 64 - 1)
/-- A deferred error of a write (Table 5.9). -/
def State.deferred (s : State) (vd region key : Nat) (c : Cause) (xval : Word) : State :=
  (s.modVd vd fun v => { v with deferredErrors := v.deferredErrors + 1 }).notify vd region (c.code + deferredBit) xval
    (wrap key)
/-- Deliver a slot's context to its fault domain: the thread ends, and its notice is the only record (R351, R377). -/
def State.deliver (s : State) (key code : Nat) (xval : Word) : State :=
  let k := s.slotAt key
  (s.endThread key).notify k.vd k.region (code + deliveredBit) xval (wrap key)

/-! ### Taking an exception and returning from one (R174, R351, R353) -/

/-- The registers that a trap writes, with the slot at `vec`. -/
def Slot.enter (k : Slot) (code : Nat) (xval vec : Word) : Slot :=
  { k with
    mode := .ready
    req := none
    descr := none
    xpc := k.pc
    xcause := BitVec.ofNat 16 code
    xval := xval
    plevel := k.level
    level := .handler
    pc := vec
    haltAsked := k.haltAsked || k.debugStep
    frame := { k.frame with running := false } }
/-- A slot takes a trap of a cause code at its PC: XPC, XCAUSE, XVAL and the levels are written and it continues at XVEC; with XVEC zero its context is delivered. -/
def State.trapCodeAt (s : State) (key code : Nat) (xval : Word) : State :=
  let k := s.slotAt key
  match s.vd? k.vd with
  | some v => if v.xvec = 0 then s.deliver key code xval else s.setSlot key (k.enter code xval v.xvec)
  | none => s.deliver key code xval
/-- A slot takes a trap of a cause. -/
def State.trapAt (s : State) (key : Nat) (c : Cause) (xval : Word) : State := s.trapCodeAt key c.code xval
/-- The slot whose turn it is takes a trap. -/
def State.trap (s : State) (c : Cause) (xval : Word) : Out := .next (s.trapAt s.cur c xval)
/-- The slot whose turn it is takes a trap whose XVAL no rule names: the value is left open. -/
def State.trapOpen (s : State) (c : Cause) : Out :=
  let (n, s) := s.choose
  s.trap c (wrap n)
/-- What XRET does to a slot (R353). -/
def Slot.leave (k : Slot) : Slot :=
  if k.frame.active then
    { k with level := k.plevel, plevel := .task, pc := k.frame.base + 4 * wrap k.frame.pos, frame := { k.frame with running := true } }
  else { k with level := k.plevel, plevel := .task, pc := k.xpc }

/-! ### Completing an instruction -/

/-- Move on after an instruction: PC + 4, or the next body execution of a running frame (R229, R272). -/
def Slot.advance (k : Slot) : Slot :=
  if k.frame.running then
    if k.frame.pos < k.frame.lenm1 then { k with pc := k.pc + 4, frame := { k.frame with pos := k.frame.pos + 1 } }
    else if k.frame.iter < k.frame.cntm1 then
      { k with pc := k.frame.base, frame := { k.frame with pos := 0, iter := k.frame.iter + 1 } }
    else { k with pc := k.pc + 4, frame := { k.frame with active := false, running := false } }
  else { k with pc := k.pc + 4 }
/-- A slot has completed an instruction: `k'` is the slot after it. Single step and debug step take effect here (R149, R58). -/
def State.completeAt (s : State) (key : Nat) (k' : Slot) : State :=
  let k := s.slotAt key
  let s := s.setSlot key { k' with mode := .ready, req := none, descr := none, haltAsked := k'.haltAsked || k'.debugStep }
  if k.sstep && decide (k.level = .task) then s.trapAt key .singleStep k.pc else s
/-- The current slot completes an instruction that changes registers by `f` and goes on to the next word. -/
def State.retire (s : State) (f : Slot → Slot) : Out := .next (s.completeAt s.cur (f s.me).advance)
/-- The current slot completes an instruction that changes registers by `f` and goes on at `pc`. -/
def State.retireTo (s : State) (f : Slot → Slot) (pc : Word) : Out :=
  .next (s.completeAt s.cur { (f s.me) with pc := pc })
/-- The current slot parks. -/
def State.park (s : State) (w : Wait) : Out := .next (s.modSlot s.cur fun k => { k with mode := .parked w })
/-- The current slot waits for a condition; its instruction executes afresh. -/
def State.waitFor (s : State) (c : Cond) : Out := s.park (.cond c)

/-- Post a demand fault (R132). -/
def State.postDemand (s : State) (vd ipa : Nat) (va : Word) (who : DemandFor) : State :=
  let (i, s) := s.fresh
  { s with demands := s.demands ++ [⟨i, vd, ipa, va, who, false⟩] }
/-- The current slot meets a demand fault and parks until Nerem answers (R132). -/
def State.demandPark (s : State) (ipa : Nat) (va : Word) : Out :=
  let k := s.me
  (s.postDemand k.vd ipa va (.slot k.ctx)).park (.demand s.nextId)

end Sys2Proof.Machine
end

