-- ==== Sys2Proof/Machine/Errors.lean ====
section
/-!
DEFINITION. Errors of memory: corrected errors and lasting granules (R32), spare lines and rows (R33, R34), channel retirement and failed stacks (R34, R35), and what the media answer when a home reads a granule (R69, R70, R71, R140).
-/
namespace Sys2Proof.Machine

/-- Kinds of health-log entries. -/
inductive LogKind
  | lineRemap | bankWithdrawn | rowRepair | channelRetired | stackFailed | tamper | ringHeader | portDown | boot | count
  deriving DecidableEq, Repr
/-- The number that stands for a kind in the log. -/
def LogKind.code : LogKind → Nat
  | .lineRemap => 1 | .bankWithdrawn => 2 | .rowRepair => 3 | .channelRetired => 4 | .stackFailed => 5
  | .tamper => 6 | .ringHeader => 7 | .portDown => 8 | .boot => 9 | .count => 10
/-- Write an event to the health log in module flash, with its device time (R35). -/
def State.log (s : State) (what : LogKind) (unit : Nat) : State :=
  { s with healthLog := s.healthLog ++ [⟨what.code, unit, s.devTime⟩] }

/-- A health notice to the fault domain that owns a sub-bank (R33, R191): the root domain of its virtual device (DESIGN CHOICE: log entry 111). -/
def State.healthNotice (s : State) (sb : Nat) (addr : Nat) : State :=
  match s.subHolder sb with
  | some vd => s.notify vd 0 Cause.healthNotice.code (wrap addr) whereEngine
  | none => s
/-- Regions of a tree that are fault domains. -/
def domainHeads (t : Tree) : List Nat :=
  (List.range t.regions.length).filter fun i => ((t.regions[i]?).map fun r => decide (r.domain = i)).getD false

/-! ### Stacks -/

/-- The entries of a table in the firmware reserve that are not zero, by their index. -/
def State.tableEntries (s : State) (table : Nat) : List Nat :=
  ((s.mem.filter fun c => decide (table ≤ c.1 ∧ c.1 < table + 4096)).map fun c => (c.1 - table) / 8).eraseDups
/-- Does a hypervisor-stage table map a page of a stack (R35)? -/
def State.mapsStack (s : State) (stack : Nat) : Nat → List Nat → Bool
  | _, [] => false
  | table, sh :: rest => (s.tableEntries table).any fun i =>
    let e := s.rawWord (table + 8 * i)
    e.testBit 0 && !(badHyp e sh) && if e.testBit 1 then decide (nbits e 56 55 = 0 ∧ nbits e 51 36 = stack)
      else s.mapsStack stack (nbits e 51 12 * 4096) rest
/-- The devices with pages in a stack, those of windows and of their save regions among them (R35, R175). -/
def State.devicesIn (s : State) (stack : Nat) : List Nat :=
  (s.vds.filter fun kv => s.mapsStack stack kv.2.hypRoot [39, 30, 21, 12] || decide (kv.2.save / 2 ^ 36 = stack)).map (·.1)
/-- A stack fails: a fatal fault in every fault domain of the devices with pages in it, and its translations are withdrawn (R35). That every domain of such a device is affected, since its domains share its tables, is the model's choice (log entry 111). -/
def State.failStack (s : State) (stack : Nat) : State :=
  let hit := s.devicesIn stack
  let domains := fun (vd : Nat) => ((s.vd? vd).bind fun v => v.tree.map domainHeads).getD []
  let s := { s with failedStacks := NSet.insert s.failedStacks stack }
  (hit.foldl (fun s vd => (domains vd).foldl (fun s d => s.fatalDomain vd d) s) s).log .stackFailed stack
/-- A channel meets the retirement condition: 62-way mode, or a failed stack when another channel of it is retired already (R34, R35, R124). -/
def State.retireChannel (s : State) (stack ch : Nat) : State :=
  match KMap.find? s.w62 stack with
  | some w => if w.channel = ch then s else s.failStack stack
  | none => ({ s with w62 := KMap.set s.w62 stack ⟨ch, 0⟩ }).log .channelRetired (32 * stack + ch)

/-! ### Lasting granules -/

/-- A sub-bank has no spare line left: it is to be withdrawn, and its partition has a health notice, once (R33). -/
def State.outOfSpares (s : State) (b sb : Nat) : State :=
  if (s.subBank b sb).noticed then s
  else (s.modSub b sb fun x => { x with noticed := true }).healthNotice sb (bankAddr b (sb * 2 ^ 16))
/-- A lasting SRAM granule is remapped to a spare line of its sub-bank, if it has one; a sub-bank that has used its eighth is to be withdrawn (R33). -/
def State.lastingSram (s : State) (b sb g : Nat) : State :=
  let s := if (s.subBank b sb).spares < 8 then
    ({ s with remapping := NSet.insert s.remapping g }.modSub b sb fun x => { x with spares := x.spares + 1 }).log
      .lineRemap g else s
  if (s.subBank b sb).spares < 8 then s else s.outOfSpares b sb
/-- A lasting HBM granule is repaired with a spare row; without one its row is a failing row (R34). -/
def State.lastingHbm (s : State) (pa : Nat) : State :=
  let stack := pa / 2 ^ 36
  let ch := s.pchOf pa / 2
  let key := 32 * stack + ch
  if KMap.getD s.spareRowsUsed key 0 < Config.spareRows then
    { s with
      spareRowsUsed := KMap.set s.spareRowsUsed key (KMap.getD s.spareRowsUsed key 0 + 1)
      rowRepair := NSet.insert s.rowRepair (pa / 64) }.log .rowRepair pa
  else
    let row := Config.rowOf pa
    let hour := 3600000000000
    let old := (KMap.getD s.failingRows key []).filter fun r => decide (s.devTime ≤ r.2 + hour ∧ r.1 ≠ row)
    let rows := old ++ [(row, s.devTime)]
    let s := { s with failingRows := KMap.set s.failingRows key rows }
    if 16 ≤ rows.length then s.retireChannel stack ch else s
/-- Count a corrected error at a granule in the health log; three within ten minutes of device time mark it lasting (R32, R35). -/
def State.corrected (s : State) (p : Place) : State :=
  let g := p.granule
  let recent := (KMap.getD s.eccTimes g []).filter fun t => decide (s.devTime ≤ t + 600000000000)
  let times := recent ++ [s.devTime]
  let lasting := decide (3 ≤ times.length)
  let s := { s with eccTimes := if lasting then KMap.erase s.eccTimes g else KMap.set s.eccTimes g times }.log .count g
  match p with
  | .sram b off =>
    let s := { s with corrSram := s.corrSram + 1 }
    if lasting then s.lastingSram b (off / 2 ^ 16) g else s
  | .hbm pa =>
    let s := { s with corrHbm := s.corrHbm + 1 }
    if lasting then s.lastingHbm pa else s
  | .host _ | .peer _ _ => s
/-- The granule of a place is poisoned (R140). -/
def State.poisoned (s : State) (p : Place) : State := { s with poison := NSet.insert s.poison p.granule }
/-- Does channel parity still stand for the channel of an address: the stack runs in 64-way mode, or the channel is the retired one, whose granules parity still serves (R35, R124)? -/
def State.hasParity (s : State) (pa : Nat) : Bool :=
  match KMap.find? s.w62 (pa / 2 ^ 36) with
  | some w => decide (s.pchOf pa / 2 = w.channel)
  | none => true
/-- An error that ECC cannot correct: channel parity repairs it, or there is none left, and the granule is poisoned and its stack fails (R140, R35). -/
def State.uncorrectable (s : State) (p : Place) : State :=
  match p with
  | .sram _ _ => s.poisoned p
  | .hbm pa => if s.hasParity pa then s.corrected p else (s.poisoned p).failStack (pa / 2 ^ 36)
  | .host _ | .peer _ _ => s
/-- An error that no parity repairs poisons the granule (R140). -/
def State.lost (s : State) (p : Place) : State :=
  match p with
  | .sram _ _ | .hbm _ => s.poisoned p
  | .host _ | .peer _ _ => s

/-! ### What the media answer -/

/-- A counter line, or a tree node `level` levels above it, that does not verify fences every granule below it, sets TAMPER and is logged (R71). -/
def State.fence (s : State) (level pa : Nat) : State :=
  { s with fenced := NSet.insert s.fenced (level * 2 ^ 40 + pa / 2048 / 8 ^ level), tamper := true }.log .tamper pa
/-- What an answer means for the counter line of a granule, which every write verifies (R70). -/
def State.counterAnswer (s : State) (pa : Nat) : Media → State
  | .stale => s.fence 0 pa
  | .staleNode l => s.fence (l % 9) pa
  | .sound | .corrected | .uncorrectable | .lost | .badTag => s
/-- What an answer means for a granule that is read (R69 steps 4 to 6); SRAM has neither counters nor tags. -/
def State.granuleAnswer (s : State) (p : Place) (r : Media) : State :=
  match r with
  | .sound => s
  | .corrected => s.corrected p
  | .uncorrectable => s.uncorrectable p
  | .lost => s.lost p
  | .stale | .staleNode _ =>
    match p with
    | .hbm pa => s.counterAnswer pa r
    | .sram _ _ | .host _ | .peer _ _ => s
  | .badTag =>
    match p with
    | .hbm pa => { s with badTag := NSet.insert s.badTag (pa / 64) }
    | .sram _ _ | .host _ | .peer _ _ => s
/-- What the media answer to an access, before it is checked. A refused access reaches no granule (R62, R69 step 2); of a cleared granule, or for a write of a whole one, only a write's counter line is read (R69, R70, R141); a granule already poisoned says nothing more. -/
def State.media (s : State) (vd win : Nat) (p : Place) (size : Nat) (wr whole : Bool) (r : Media) : State :=
  match p with
  | .sram b off => if (s.sramFault vd b off).isSome || whole || s.poison.contains p.granule then s else s.granuleAnswer p r
  | .hbm pa =>
    if (s.hbmFault vd win pa size wr).isSome then s
    else if s.cleared pa || whole then (if wr then s.counterAnswer pa r else s)
    else if s.poison.contains p.granule then s
    else s.granuleAnswer p r
  | .host _ | .peer _ _ => s
/-- What the media answer to an access of a turn or of a unit: the next of the answers that are laid down, else nothing wrong. -/
def State.look (s : State) (vd win : Nat) (p : Place) (size : Nat) (wr whole : Bool) : State :=
  match s.answers with
  | [] => s
  | r :: rest => { s with answers := rest }.media vd win p size wr whole r
/-- Go on with an access of the current slot after what the media answer; an error can end the slot's own thread (R35, R115), and then nothing more is done. -/
def State.looking (s : State) (vd win : Nat) (p : Place) (size : Nat) (wr whole : Bool) (go : State → Out) : Out :=
  let s' := s.look vd win p size wr whole
  if s'.me.ctx = s.me.ctx then go s' else .next s'

end Sys2Proof.Machine
end

