-- ==== Sys2Proof/Machine/Reach.lean ====
section
/-!
DEFINITION. Walks of the tables by their reads (R21, R69, R128), how an address of the current slot is reached, the writing of fault notices (R114, Table 4.13), and the lines of a save region (R60, R66, R68, R70, R175).
-/
namespace Sys2Proof.Machine

/-! ### Walks (R21, R69, R128) -/

/-- An access that memory serves there leaves the order of arrival at that place. -/
def State.servedAt (s : State) (token : Nat) (p : Place) : State :=
  { s with stallq := s.stallq.filter fun e => decide (¬ (e.token = token ∧ e.place = p)) }
/-- The words of a walk are read one after another, each at memory that can serve it, a guest-stage word as a request of the device (R69): the machine after it, and the place at which the walk waits. A word that faults ends it. -/
def State.readWords (s : State) (token vd : Nat) : List TableRead → State × Option Place
  | [] => (s, none)
  | r :: rest =>
    if s.blocked token r.place then (s.stallAt token r.place, some r.place)
    else
      let s := s.touch r.place
      if !r.guest then s.readWords token vd rest
      else
        let s := s.look vd r.win r.place 8 false false
        match s.homeFault vd r.win r.place 8 false false with
        | some _ => (s, none)
        | none => s.readWords token vd rest
/-- Read the words of a walk. It keeps its place in the order of arrival until it is over, so that walks which read the same words do not hold each other up. -/
def State.readTables (s : State) (token vd : Nat) (rs : List TableRead) : State × Option Place :=
  match s.readWords token vd rs with
  | (s, some p) => (s, some p)
  | (s, none) => (rs.foldl (fun s r => s.servedAt token r.place) s, none)
/-- The walk that translating an address needs: the machine after it, and the place at which it waits (R21). -/
def State.walk (s : State) (a : Agent) (ea : Word) : State × Option Place :=
  if s.noWalk a ea.toNat then (s, none) else s.readTables a.token a.vd (s.walkReads a.vd a.space ea.toNat)
/-- Under what a context's accesses are translated. -/
def Slot.agent (k : Slot) (brick : Nat) : Agent := ⟨k.ctx, brick, k.vd, k.space, k.level⟩
/-- Under what the current slot's accesses are translated. -/
def State.agent (s : State) : Agent := s.me.agent s.brick
/-- An access of the current slot arrives at memory that cannot serve it: the slot waits, and its instruction executes afresh (R21). -/
def State.awaitMemory (s : State) (p : Place) (ea : Word) : Out := (s.stallAt s.me.ctx p).waitFor (.awake p ea)
/-- Go on after the walk of an address of the current slot: it waits at a table that cannot be read now, and what the media answer can end its own thread (R21, R35, R115). -/
def State.walking (s : State) (ea : Word) (go : State → Out) : Out :=
  let (t, w) := s.walk s.agent ea
  if t.me.ctx ≠ s.me.ctx then .next t
  else
    match w with
    | some p => t.awaitMemory p ea
    | none => go t
/-- Resolve an address for the current slot and go on with the place and window; a fault of the guest stage traps, of the hypervisor stage delivers the context, and a demand fault parks (Table 5.9). -/
def State.resolved (s : State) (ea : Word) (k : Access) (go : State → Place → Nat → Out) : Out :=
  s.walking ea fun s =>
    let m := s.me
    match s.resolve s.brick m.vd m.space m.level ea k with
    | .ok p win => go (s.translated s.brick m.vd m.space m.level ea k) p win
    | .fault c => s.trap c ea
    | .demand ipa => s.demandPark ipa ea
    | .fatal => .next (s.deliver s.cur Cause.hypervisor.code ea)

/-! ### Writing fault notices (R114, R115) -/

/-- The 32 bytes of a notice (Table 4.13). -/
def Notice.word0 (n : Notice) : Nat := n.seq % 2 ^ 32 * 2 ^ 32 + n.cause * 2 ^ 16 + n.region
/-- Words 1 to 3 of a notice. -/
def Notice.body (n : Notice) : List Byte := leBytes 8 n.xval.toNat ++ leBytes 8 n.whre.toNat ++ leBytes 8 n.stamp
/-- Write a notice into an entry that is empty, word 0 last as a full/empty store, and ask for its domain's handler. -/
def State.writeNotice (s : State) (n : Notice) (r : Region) (va : Nat) (p : Place) (win : Nat) : State :=
  let kid := kidOf n.vd win
  let s := (s.poke kid (p.plus 8) n.body).poke kid p (leBytes 8 n.word0)
  let s := ((s.setFe p true).touch p).feWake (p.key / 8 * 8)
  let s := s.modRegion n.vd n.domain fun r => { r with noticeIdx := (r.noticeIdx + 1) % 64 }
  if r.handler = 0 then s else { s with handlerPlaces := s.handlerPlaces ++ [(n.vd, n.domain, n.whre.toNat, va)] }
/-- A notice reaches its queue: the machine after it, and whether it still waits at memory that cannot serve it (R21). One whose entry is full, or cannot be reached, is dropped (DESIGN CHOICE for the latter: log entry 89). -/
def State.putNotice (s : State) (n : Notice) : State × Bool :=
  match s.region? n.vd n.domain with
  | none => (s, false)
  | some r =>
    let va := r.notice.toNat + 32 * r.noticeIdx
    match s.readTables n.id n.vd (s.walkReads n.vd r.space va) with
    | (s, some _) => (s, true)
    | (s, none) =>
      match s.translate n.vd r.space .task va .rw with
      | .ok p win =>
        if s.blocked n.id p then (s.stallAt n.id p, true)
        else
          let s := (s.look n.vd win p 32 true false).unstall n.id
          if (s.homeFault n.vd win p 32 true false).isSome || s.feBit p then (s.dropNotice n.vd, false)
          else (s.writeNotice n r va p win, false)
      | _ => ((s.dropNotice n.vd).unstall n.id, false)
/-- The notices under way are written, those of one domain in order; `late` holds the domains with a notice that waits. -/
def State.sendNotices (s : State) (late : List (Nat × Nat)) : List Notice → State
  | [] => s
  | n :: rest =>
    if late.contains (n.vd, n.domain) then s.sendNotices late rest
    else
      match s.putNotice n with
      | (s, true) => s.sendNotices ((n.vd, n.domain) :: late) rest
      | (s, false) => { s with notices := s.notices.filter fun m => decide (m.id ≠ n.id) }.sendNotices late rest
/-- The notices under way are written as far as memory serves them. -/
def State.writeNotices (s : State) : State := s.sendNotices [] s.notices

/-! ### Lines of a save region (R60, R66, R68 to R71, R175) -/

/-- How a passage to or from a save region ends: it waits for memory, a line faults, or all lines have been served. -/
inductive Passage
  | still
  | fault (c : Cause)
  | done
  deriving DecidableEq, Repr
/-- A line of a save region is read, or written with bytes that lie in it: what the media answer, the checks of the home, and for a write the granule's owner, counters, tag and bytes, as for any write (R64, R68, R73, R141). -/
def State.saveGranule (s : State) (vd g : Nat) (w : Option (Nat × List Byte)) : State × Passage :=
  let wr := w.isSome
  let whole := match w with
    | some x => decide (x.2.length = 64)
    | none => false
  let s := (s.touch (.hbm g)).look vd 0 (.hbm g) 64 wr whole
  match s.homeFault vd 0 (.hbm g) 64 wr whole with
  | some c => (s, .fault c)
  | none =>
    match w with
    | some (lo, bs) => ((s.opened (kidOf vd 0) (.hbm lo) bs.length).lay (.hbm lo) bs, .done)
    | none => (s, .done)
/-- Lines of a save region are reached in ascending order, up to the first that faults; the bytes that are still to be written begin at `a`. -/
def State.saveGranules (s : State) (vd a : Nat) (data : Option (List Byte)) : List Nat → State × Passage
  | [] => (s, .done)
  | g :: rest =>
    match s.saveGranule vd g (data.map fun bs => (a, bs.take (g + 64 - a))) with
    | (s, .done) => s.saveGranules vd (g + 64) (data.map fun bs => bs.drop (g + 64 - a)) rest
    | r => r
/-- `n` bytes of a device's save region are read, or written with `data`, once all of their memory can serve, in the order of arrival (R21, R66). -/
def State.passage (s : State) (token vd a n : Nat) (data : Option (List Byte)) : State × Passage :=
  let gs := granulesOf a n
  if s.linesReady token gs then (s.unstall token).saveGranules vd a data gs else (s.linesWait token gs, .still)
/-- A passage of `n` bytes of the context image and overflow area of a slot, by its key. -/
def State.contextPassage (s : State) (kind vd key off n : Nat) (data : Option (List Byte)) : State × Passage :=
  match s.vd? vd with
  | some v => s.passage (unitToken kind (16 * key + vd)) vd (v.imageAt key + off) n data
  | none => (s, .done)

end Sys2Proof.Machine
end

