-- ==== Sys2Proof/Machine/Operands.lean ====
section
/-!
DEFINITION. Operand forms: immediates and effective addresses (R233, R275), access sizes (Table 0.3, Table 10.13), and the integer results of chapter 12.
-/
namespace Sys2Proof

/-- Bytes of an LD form. -/
def LdMode.size : LdMode → Nat
  | .b | .bs => 1 | .q | .qs => 2 | .h | .hs => 4 | .w => 8 | .l => 64
/-- Bytes of an ST form. -/
def StMode.size : StMode → Nat
  | .b => 1 | .q => 2 | .h => 4 | .w => 8 | .l => 64
/-- Bytes of an immediate ST form. -/
def StiMode.size : StiMode → Nat
  | .b => 1 | .q => 2 | .h => 4 | .w => 8
/-- Bytes of an AMO or RUPD operand. -/
def AmoSize.size : AmoSize → Nat
  | .h => 4 | .w => 8
/-- Bits of an AMO or RUPD operand. -/
def AmoSize.bits : AmoSize → Nat
  | .h => 32 | .w => 64
/-- The register value of a loaded value of a form below the line (R277). -/
def LdMode.extend (m : LdMode) (v : Word) : Word :=
  match m with
  | .bs => Machine.sext (v.setWidth 8)
  | .qs => Machine.sext (v.setWidth 16)
  | .hs => Machine.sext (v.setWidth 32)
  | .b | .q | .h | .w | .l => v

end Sys2Proof

namespace Sys2Proof.Machine

/-- Effective address of format M (R233, R275). -/
def eaM (k : Slot) (b : GReg) (i : BitVec 14) : Word := k.getG b + sext i
/-- Effective address of ZLD and ZST: a signed count of lines (R324). -/
def eaZ (k : Slot) (g : GReg) (i : BitVec 11) : Word := k.getG g + 64 * sext i
/-- Target of a branch or jump (R267, R268). -/
def target {n : Nat} (pc : Word) (off : BitVec n) : Word := pc + 4 * sext off

/-! ### Results of chapter 12 -/

/-- Shift count of a register shift: bits [5:0] (R259). -/
def shiftCount (b : Word) : Nat := b.toNat % 64
/-- ROL (R259). -/
def rolValue (a b : Word) : Word := (a <<< shiftCount b) ||| (a >>> (64 - shiftCount b))
/-- High half of a signed product (R259). -/
def mulhSigned (a b : Word) : Word := wrapInt (a.toInt * b.toInt / 2 ^ 64)
/-- High half of a natural product (R259). -/
def mulhNat (a b : Word) : Word := wrap (a.toNat * b.toNat / 2 ^ 64)
/-- Quotient of natural division; all ones for divisor 0 (R260). -/
def divNat (a b : Word) : Word := if b = 0 then wrap (2 ^ 64 - 1) else wrap (a.toNat / b.toNat)
/-- Remainder of natural division; the dividend for divisor 0 (R260). -/
def remNat (a b : Word) : Word := if b = 0 then a else wrap (a.toNat % b.toNat)
/-- Quotient of signed division, truncated; -1 for divisor 0 (R260). -/
def divSigned (a b : Word) : Word := if b = 0 then wrapInt (-1) else wrapInt (a.toInt.tdiv b.toInt)
/-- Remainder of signed division, of the dividend's sign; the dividend for divisor 0 (R260). -/
def remSigned (a b : Word) : Word := if b = 0 then a else wrapInt (a.toInt - b.toInt * a.toInt.tdiv b.toInt)
/-- Zero bits above the highest 1 bit, among the low `n` bits (R261). -/
def clzFrom (v : Nat) : Nat → Nat
  | 0 => 0
  | n + 1 => if v.testBit n then 0 else clzFrom v n + 1
/-- Zero bits below the lowest 1 bit of the `n` bits from bit `i` up (R261). -/
def ctzFrom (v i : Nat) : Nat → Nat
  | 0 => 0
  | n + 1 => if v.testBit i then 0 else ctzFrom v (i + 1) n + 1
/-- 1 bits among the low `n` bits (R261). -/
def popFrom (v : Nat) : Nat → Nat
  | 0 => 0
  | n + 1 => (if v.testBit n then 1 else 0) + popFrom v n
/-- A value with the `w` bits at bit `p` replaced by the low `w` bits of `f` (R263, R264). -/
def insertBits (v f : Word) (p w : Nat) : Word :=
  let m : Word := wrap ((2 ^ w - 1) * 2 ^ p)
  (v &&& ~~~ m) ||| ((f <<< p) &&& m)
/-- The `w` bits at bit `p`, zero-extended (EXT.n64, R264). -/
def extractNat (v : Word) (p w : Nat) : Word := wrap (v.toNat / 2 ^ p % 2 ^ w)
/-- The `w` bits at bit `p`, sign-extended (EXT.i64, R264). -/
def extractSigned (v : Word) (p w : Nat) : Word := wrapInt (signedOf w (v.toNat / 2 ^ p))

end Sys2Proof.Machine
end

