-- ==== Sys2Proof/Machine/Flags.lean ====
section
/-!
DEFINITION. Conditions. The scalar unit keeps no flags (R258): compares write 0 or 1 into a register, branches and selects test registers, and minimum and maximum choose by the same relations.
-/
namespace Sys2Proof.Machine

/-- A compare result: exactly 0 or 1 (R266). -/
def flagWord (b : Bool) : Word := if b then 1 else 0
/-- S(a) < S(b). -/
def ltSigned (a b : Word) : Bool := a.slt b
/-- N(a) < N(b). -/
def ltNat (a b : Word) : Bool := a.ult b
/-- S(a) ≤ S(b). -/
def leSigned (a b : Word) : Bool := a.sle b
/-- N(a) ≤ N(b). -/
def leNatW (a b : Word) : Bool := a.ule b
/-- SEL's test: a nonzero register (R265). -/
def isSet (c : Word) : Bool := decide (c ≠ 0)
/-- The operand with the lesser value; the first when equal (R261). -/
def minBy (lt : Word → Word → Bool) (a b : Word) : Word := if lt b a then b else a
/-- The operand with the greater value; the first when equal (R261). -/
def maxBy (lt : Word → Word → Bool) (a b : Word) : Word := if lt a b then b else a
/-- Single step is due after an instruction of the slot (R149). -/
def Slot.stepDue (k : Slot) : Bool := k.sstep && decide (k.level = .task)

end Sys2Proof.Machine

namespace Sys2Proof

/-- RWAIT's test of a word against the comparand (R296). -/
def RwCond.holds (c : RwCond) (w v : Word) : Bool :=
  match c with
  | .eq => decide (w = v)
  | .ne => decide (w ≠ v)
  | .ltn => Machine.ltNat w v
  | .gen => !(Machine.ltNat w v)
  | .lti => Machine.ltSigned w v
  | .gei => !(Machine.ltSigned w v)
end Sys2Proof
end

