-- ==== Sys2Proof/Machine/Control.lean ====
section
/-!
DEFINITION. Fetch through the instruction cache (R229, R230), branches and jumps (R267 to R269), repeat frames (R162 to R164, R271 to R274), and the steps for a word that is no instruction and for a fetch that fails.
-/
namespace Sys2Proof.Machine

/-! ### Fetch -/

/-- What a fetch gives. -/
inductive Fetched
  | word (w : IWord) (s : State)
  | fault (c : Cause)
  | demand (ipa : Nat)
  | fatal

/-- The instruction cache of a brick; at reset it is empty at the start of the history. -/
def State.icache (s : State) (brick : Nat) : ICache := KMap.getD s.icaches brick ⟨0, []⟩
/-- Old values of a code word that a fetch on a brick may still return, with their places in the history (R230). -/
def staleFrom (log : List (Nat × IWord)) (i key lo : Nat) : List (Nat × IWord) :=
  match log with
  | [] => []
  | (k, w) :: r => if k = key ∧ lo ≤ i then (i, w) :: staleFrom r (i + 1) key lo else staleFrom r (i + 1) key lo
/-- The code word at a place as a brick's fetch returns it: its value now, or one it held since the cache was emptied (R230). -/
def State.fetchFrom (s : State) (brick : Nat) (p : Place) : IWord × State :=
  let now := BitVec.ofNat 32 (leNat (s.peek p 4))
  let c := s.icache brick
  let lo := max c.emptied (KMap.getD c.seen p.key 0)
  match staleFrom s.codeLog 0 p.key lo with
  | [] => (now, s)
  | old =>
    let (n, s) := s.choose
    let pick := (old ++ [(s.codeLog.length, now)]).getD (n % (old.length + 1)) (s.codeLog.length, now)
    (pick.2, { s with icaches := KMap.set s.icaches brick { c with seen := KMap.set c.seen p.key pick.1 } })
/-- Empty a brick's instruction cache (R230). -/
def State.emptyICache (s : State) (brick : Nat) : State :=
  { s with icaches := KMap.set s.icaches brick ⟨s.codeLog.length, []⟩ }
/-- Fetch the instruction word at an address for a slot (R229). -/
def State.fetch (s : State) (key : Nat) (va : Word) : Fetched :=
  let k := s.slotAt key
  if va.toNat % 4 ≠ 0 ∨ !(inVspace va.toNat) then .fault .fetch
  else
    match s.translateAt (key / 8 / 512) k.vd k.space k.level va.toNat .exec with
    | .demand ipa => .demand ipa
    | .fatal => .fatal
    | .fault .guestPage | .fault .guestPerm | .fault .guestFormat => .fault .fetch
    | .fault c => .fault c
    | .ok p win =>
      match s.homeFault k.vd win p 4 false false with
      | some c => .fault c
      | none =>
        let (w, s) := s.fetchFrom (key / 8) p
        .word w s

/-- The machine once a slot's fetch at an address has reached its home: the quoin keeps the walk, and the media have answered (R125, R70); or the place of memory that cannot serve the walk or the fetch, at which it waits (R21). -/
def State.fetchReady (s : State) (key : Nat) (va : Word) : State × Option Place :=
  let k := s.slotAt key
  if va.toNat % 4 ≠ 0 ∨ !(inVspace va.toNat) then (s, none)
  else
    match s.walk (k.agent (key / 8)) va with
    | (s, some p) => (s, some p)
    | (s, none) =>
      let s' := s.translated (key / 8) k.vd k.space k.level va .exec
      match s.translateAt (key / 8 / 512) k.vd k.space k.level va.toNat .exec with
      | .ok p win =>
        if s'.blocked k.ctx p then (s'.stallAt k.ctx p, some p)
        else (((s'.touch p).servedAt k.ctx p).look k.vd win p 4 false false, none)
      | .fault _ | .demand _ | .fatal => (s', none)

/-- The word of an instruction, zero-extended. -/
def instrWord (i : Instr) : Word := ((encode i).getD 0).setWidth 64

/-- ILLEGAL_INSTRUCTION: an unassigned word traps with XVAL the word (R246). -/
def execIllegalInstruction (w : IWord) (s : State) : Out := s.trap .illegal (w.setWidth 64)
/-- FETCH_FAULT: the fetch at PC fails, and the kind of failure decides (R229). -/
def execFetchFault (s : State) : Out :=
  match s.fetch s.cur s.me.pc with
  | .word _ s => .next s
  | .fault c => s.trap c s.me.pc
  | .demand ipa => s.demandPark ipa s.me.pc
  | .fatal => .next (s.deliver s.cur Cause.hypervisor.code s.me.pc)

/-! ### Branches and jumps -/

/-- Branch when the relation of the two sources holds (R267). -/
def State.branch (s : State) (a b : GReg) (o : BitVec 17) (rel : Word → Word → Bool) : Out :=
  let k := s.me
  s.retireTo id (if rel (k.getG a) (k.getG b) then target k.pc o else k.pc + 4)
/-- Beq (R267). -/
def execBeq (a b : GReg) (o : BitVec 17) (s : State) : Out := s.branch a b o fun x y => decide (x = y)
/-- Bne (R267). -/
def execBne (a b : GReg) (o : BitVec 17) (s : State) : Out := s.branch a b o fun x y => decide (x ≠ y)
/-- BltI64 (R267). -/
def execBltI64 (a b : GReg) (o : BitVec 17) (s : State) : Out := s.branch a b o fun x y => ltSigned x y
/-- BgeI64 (R267). -/
def execBgeI64 (a b : GReg) (o : BitVec 17) (s : State) : Out := s.branch a b o fun x y => !(ltSigned x y)
/-- BltN64 (R267). -/
def execBltN64 (a b : GReg) (o : BitVec 17) (s : State) : Out := s.branch a b o fun x y => ltNat x y
/-- BgeN64 (R267). -/
def execBgeN64 (a b : GReg) (o : BitVec 17) (s : State) : Out := s.branch a b o fun x y => !(ltNat x y)
/-- JAL (R268). -/
def execJal (d : GReg) (o : BitVec 21) (s : State) : Out :=
  s.retireTo (fun k => k.setG d (k.pc + 4)) (target s.me.pc o)
/-- JALR: the target is read before the link is written (R269). -/
def execJalr (d a : GReg) (i : BitVec 17) (s : State) : Out :=
  s.retireTo (fun k => k.setG d (k.pc + 4)) (s.me.getG a + sext i)

/-! ### Repeat frames -/

/-- May a word stand in an RPT body (Table 12.11)? -/
def eligible (w : IWord) : Bool :=
  let m := (fMajor w).toNat
  (decide (m = 1) || decide (8 ≤ m ∧ m ≤ 0x13) || decide (0x40 ≤ m ∧ m ≤ 0x46) || decide (0x48 ≤ m ∧ m ≤ 0x57))
    && (match decode w with
      | .ok _ => true
      | .error _ => false)
/-- A w register name moved by the stagger: (field + n) mod 8 (R163). -/
def bump (r : WReg) (n : Nat) : WReg := Fin.ofNat 8 (r.val + n)
/-- The instruction of repetition k with stagger s, n = k × s: only w fields in use change (R163, R241). -/
def stagger (n : Nat) (i : Instr) : Instr :=
  match i with
  | .wadd f d a b => .wadd f (bump d n) (bump a n) (bump b n)
  | .wsub f d a b => .wsub f (bump d n) (bump a n) (bump b n)
  | .wmul f d a b => .wmul f (bump d n) (bump a n) (bump b n)
  | .wmin f d a b => .wmin f (bump d n) (bump a n) (bump b n)
  | .wmax f d a b => .wmax f (bump d n) (bump a n) (bump b n)
  | .wand f d a b => .wand f (bump d n) (bump a n) (bump b n)
  | .wor f d a b => .wor f (bump d n) (bump a n) (bump b n)
  | .wxor f d a b => .wxor f (bump d n) (bump a n) (bump b n)
  | .wshl f d a b => .wshl f (bump d n) (bump a n) (bump b n)
  | .wshr f d a b => .wshr f (bump d n) (bump a n) (bump b n)
  | .wsra f d a b => .wsra f (bump d n) (bump a n) (bump b n)
  | .waddSat f d a b => .waddSat f (bump d n) (bump a n) (bump b n)
  | .wsubSat f d a b => .wsubSat f (bump d n) (bump a n) (bump b n)
  | .wabs f d a => .wabs f (bump d n) (bump a n)
  | .wfma f d a b c => .wfma f (bump d n) (bump a n) (bump b n) (bump c n)
  | .wfms f d a b c => .wfms f (bump d n) (bump a n) (bump b n) (bump c n)
  | .wfnma f d a b c => .wfnma f (bump d n) (bump a n) (bump b n) (bump c n)
  | .wfnms f d a b c => .wfnms f (bump d n) (bump a n) (bump b n) (bump c n)
  | .wceq f d a b => .wceq f (bump d n) (bump a n) (bump b n)
  | .wcne f d a b => .wcne f (bump d n) (bump a n) (bump b n)
  | .wclt f d a b => .wclt f (bump d n) (bump a n) (bump b n)
  | .wcle f d a b => .wcle f (bump d n) (bump a n) (bump b n)
  | .wsel f d a b c => .wsel f (bump d n) (bump a n) (bump b n) (bump c n)
  | .wperm f d a b => .wperm f (bump d n) (bump a n) (bump b n)
  | .wbcst f d g => .wbcst f (bump d n) g
  | .wmov f d a => .wmov f (bump d n) (bump a n)
  | .wsig f d a => .wsig f (bump d n) (bump a n)
  | .wexp f d a => .wexp f (bump d n) (bump a n)
  | .wrcp f d a => .wrcp f (bump d n) (bump a n)
  | .wrsq f d a => .wrsq f (bump d n) (bump a n)
  | .wtanh f d a => .wtanh f (bump d n) (bump a n)
  | .wlog f d a => .wlog f (bump d n) (bump a n)
  | .wdot f sat p d a b c => .wdot f sat p (bump d n) (bump a n) (bump b n) (bump c n)
  | .wredSum f g a => .wredSum f g (bump a n)
  | .wredMin f g a => .wredMin f g (bump a n)
  | .wredMax f g a => .wredMax f g (bump a n)
  | .wcvt toPivot pv f sat r d a => .wcvt toPivot pv f sat r (bump d n) (bump a n)
  | .wcvtScaled toPivot pv f sat r d a g => .wcvtScaled toPivot pv f sat r (bump d n) (bump a n) g
  | i => i
/-- Fetch and check the words of a body, lowest address first: the words, or how the first bad one ends RPT (R272). -/
def State.captureBody (s : State) (va : Word) : Nat → Except Out (List IWord × State)
  | 0 => .ok ([], s)
  | n + 1 =>
    let (s', still) := s.fetchReady s.cur va
    if s'.me.ctx ≠ s.me.ctx then .error (.next s')
    else if let some p := still then .error (s'.awaitMemory p va)
    else
      match s'.fetch s'.cur va with
      | .fault c => .error (s'.trap c va)
      | .demand ipa => .error (s'.demandPark ipa va)
      | .fatal => .error (.next (s'.deliver s'.cur Cause.hypervisor.code va))
      | .word w s' =>
        if eligible w then
          match s'.captureBody (va + 4) n with
          | .ok (ws, s'') => .ok (w :: ws, s'')
          | .error o => .error o
        else .error (s'.trap .illegal va)
/-- RPT (R272): `l` is L - 1, `n` is N - 1. The capture buffer's words beyond the body keep what they held. -/
def execRpt (l : BitVec 4) (st : BitVec 3) (n : BitVec 12) (s : State) : Out :=
  let k := s.me
  if k.frame.active then s.trap .illegal (instrWord (.rpt l st n))
  else
    match s.captureBody (k.pc + 4) (l.toNat + 1) with
    | .error o => o
    | .ok (ws, s) =>
      let body := ws ++ k.frame.body.drop ws.length
      s.retireTo (fun k => { k with frame := ⟨true, true, k.pc + 4, 0, 0, l.toNat, n.toNat, st.toNat, body⟩ }) (k.pc + 4)

end Sys2Proof.Machine
end

