-- ==== Sys2Proof/Machine/System.lean ====
section
/-!
DEFINITION. System instructions (chapter 16): control registers, traps and returns, breakpoints, sleep, SAVE and RESTORE, HLOC.
-/
namespace Sys2Proof.Machine

/-- The privilege trap (Table 16.4): XVAL holds the word. -/
def State.privilege (s : State) (i : Instr) : Out := s.trap .privilege (instrWord i)

/-! ### Values of the control registers (Table 16.2) -/

/-- LEVEL and PLEVEL as bits. -/
def Level.bit : Level → Nat
  | .task => 0
  | .handler => 1
/-- XSTAT (Table 6.2). -/
def Slot.xstat (k : Slot) : Word :=
  wrap (k.zv.toNat * 2 ^ 16 + k.wv.toNat * 2 ^ 8 + b2n k.sstep * 8 + b2n k.frame.active * 4 + k.plevel.bit * 2 + k.level.bit)
/-- XFRAME (Table 6.6). -/
def Slot.xframe (k : Slot) : Word :=
  wrap (b2n k.frame.active * 2 ^ 63 + k.frame.iter * 2 ^ 36 + k.frame.pos * 2 ^ 32 + k.frame.lenm1 * 2 ^ 28
    + k.frame.cntm1 * 2 ^ 16 + k.frame.stag)
/-- STATE field of one sub-bank (Table 5.8). That one which powers up reads as ON, and one which wakes as RETENTION, is the model's choice (log entry 102). -/
def State.bankState (s : State) (vd b sb : Nat) : Nat :=
  if !(s.holdsSub vd sb) then 0
  else
    let x := s.subBank b sb
    match x.power with
    | .unavailable => 3
    | .off => 0
    | .retention | .waking => if x.alloc then 1 else 0
    | .on | .poweringUp => if x.alloc then 2 else 0
/-- BANKMAP of a brick for a partition (Table 5.8). -/
def State.bankmap (s : State) (vd b : Nat) : Word :=
  let f := fun (acc : Nat) (sb : Nat) =>
    acc + s.bankState vd b sb * 2 ^ (32 + 2 * sb) + b2n (s.holdsSub vd sb) * 2 ^ (16 + sb)
      + b2n (s.holdsSub vd sb && (s.subBank b sb).alloc) * 2 ^ sb
  wrap ((List.range 16).foldl f 0)
/-- XVEC of the current slot's partition. -/
def State.xvec (s : State) : Word :=
  match s.vd? s.me.vd with
  | some v => v.xvec
  | none => 0
/-- BWPHASE of the current slot's partition. -/
def State.bwphase (s : State) : BitVec 8 :=
  match s.vd? s.me.vd with
  | some v => v.bwphase
  | none => 0
/-- The value that CRD reads. -/
def State.crValue (s : State) (c : CReg) : Word :=
  let k := s.me
  match c with
  | .xstat => k.xstat
  | .xpc => k.xpc
  | .xcause => k.xcause.setWidth 64
  | .xval => k.xval
  | .xvec => s.xvec
  | .xframe => k.xframe
  | .spaceid => k.space.setWidth 64
  | .partid => wrap k.vd
  | .slotid => wrap (s.cur % 8)
  | .brickid => wrap s.brick
  | .regionid => wrap k.region
  | .ackcnt => wrap k.ackcnt
  | .tkt => k.tkt.setWidth 64
  | .mqval => k.mqval
  | .srem0 => k.ports[0].rem.setWidth 64
  | .srem1 => k.ports[1].rem.setWidth 64
  | .srem2 => k.ports[2].rem.setWidth 64
  | .devtime => wrap s.devTime
  | .wakeat => k.wakeat
  | .bwphase => s.bwphase.setWidth 64
  | .bankmap => s.bankmap k.vd s.brick
  | .sinv => 0
/-- May CRD read the register at the level (Table 16.2)? -/
def crdAllowed (c : CReg) (l : Level) (xvec : Word) : Bool :=
  match l with
  | .handler => true
  | .task =>
    match c with
    | .xpc | .xcause | .xval | .sinv => false
    | .xvec => decide (xvec = 0)
    | _ => true
/-- CRD (R348). -/
def execCrd (d : GReg) (c : CReg) (s : State) : Out :=
  if crdAllowed c s.me.level s.xvec then s.retire fun k => k.setG d (s.crValue c)
  else s.privilege (.crd d c)

/-! ### CWR -/

/-- The illegal-operand trap of a CWR: XVAL holds the value written (R348). -/
def State.refuseCwr (s : State) (v : Word) : Out := s.trap .illegalOperand v
/-- CWR of a register with no behaviour of its own (R347, R348). -/
def execCwr (g : GReg) (c : CReg) (s : State) : Out :=
  let k := s.me
  let v := k.getG g
  match c with
  | .wakeat => s.retire fun k => { k with wakeat := v }
  | .xstat =>
    if k.level = .task then s.privilege (.cwr g c)
    else if bits v 63 32 ≠ 0 ∨ bits v 7 4 ≠ 0 then s.refuseCwr v
    else s.retire fun k => { k with sstep := bit v 3, plevel := if bit v 1 then .handler else .task }
  | .xpc => if k.level = .task then s.privilege (.cwr g c) else s.retire fun k => { k with xpc := v }
  | .xcause =>
    if k.level = .task then s.privilege (.cwr g c)
    else if bits v 63 16 ≠ 0 then s.refuseCwr v
    else s.retire fun k => { k with xcause := v.setWidth 16 }
  | .xval => if k.level = .task then s.privilege (.cwr g c) else s.retire fun k => { k with xval := v }
  | .partid | .slotid | .brickid | .regionid | .ackcnt | .tkt | .mqval | .srem0 | .srem1 | .srem2 | .devtime =>
    s.privilege (.cwr g c)
  | .xvec | .xframe | .spaceid | .bwphase | .bankmap | .sinv => s.privilege (.cwr g c)
/-- The cycle by which every brick holds a value that a CWR writes: one that is left open, within 1 µs (R348). -/
def State.spreadStop (s : State) : Nat × State :=
  let (c, s) := s.choose
  (s.cycle + c % 2001, s)
/-- CWR XVEC: the partition's handler entry (R349); task level may write it once, and the writer parks until every brick holds it (R348). -/
def execCwrXvec (g : GReg) (s : State) : Out :=
  let k := s.me
  let v := k.getG g
  if k.level = .task ∧ s.xvec ≠ 0 then s.privilege (.cwrXvec g)
  else if bits v 1 0 ≠ 0 then s.refuseCwr v
  else
    let (stop, s) := s.spreadStop
    (s.modVd k.vd fun d => { d with xvec := v }).park (.spread stop v [] 0)
/-- CWR XFRAME: a handler may only clear ACTIVE (Table 6.6). -/
def execCwrXframe (g : GReg) (s : State) : Out :=
  let k := s.me
  let v := k.getG g
  if k.level = .task then s.privilege (.cwrXframe g)
  else if bits v 62 48 ≠ 0 ∨ bits v 15 3 ≠ 0 ∨ bit v 63 then s.refuseCwr v
  else s.retire fun k => { k with frame := { k.frame with active := false, running := false } }
/-- CWR SPACEID waits until the store buffer is empty (R348). -/
def execCwrSpaceid (g : GReg) (s : State) : Out :=
  let k := s.me
  let v := k.getG g
  if k.level = .task then s.privilege (.cwrSpaceid g)
  else if bits v 63 12 ≠ 0 then s.refuseCwr v
  else if k.sb ≠ [] then s.waitFor .drained
  else s.retire fun k => { k with space := v.setWidth 12 }

/-- The phase that a BWPHASE value declares for a priority class (R138). -/
def phaseOf (w : BitVec 8) (c : Nat) : Nat := w.toNat / 4 ^ c % 4
/-- Effective phase of a device with a BWPHASE value: the highest among the classes of its live threads (R138). -/
def effectivePhase (v : VDev) (w : BitVec 8) : Nat :=
  match v.tree with
  | some t => (t.regions.filter fun r => decide (0 < r.live)).foldl (fun m r => max m (phaseOf w r.prio)) 0
  | none => 0
/-- Stacks in which a device owns units (R137). -/
def State.stacksOf (s : State) (vd : Nat) : List Nat :=
  (List.range 12).filter fun st => s.owner.any fun kv => decide (kv.2 = vd + 1 ∧ kv.1 / 2 ^ 15 = st)
/-- Must a pseudo-channel in this state be woken for a phase (R137)? That a phase keeps out only the sleep states whose timer is 'never' is the model's choice (log entry 101). -/
def sleepsUnder (p : PchState) (phase : Nat) : Bool :=
  match p with
  | .active => false
  | .waking => true
  | .powerDown => decide (3 ≤ phase)
  | .selfRefresh => decide (2 ≤ phase)
/-- Do the pseudo-channels of some stacks that a phase keeps awake all serve (R138)? -/
def State.phaseServes (s : State) (sts : List Nat) (phase : Nat) : Bool :=
  s.pch.all fun kv => !(sts.contains (kv.1 / 64) && sleepsUnder kv.2 phase)
/-- CWR BWPHASE writes the register; the writer parks until every brick holds the value, and, when that raises the effective phase, until the pseudo-channels that the new phase keeps awake serve; the CWR is then complete (R138, R348). -/
def execCwrBwphase (g : GReg) (s : State) : Out :=
  let k := s.me
  let v := k.getG g
  if k.level = .task then s.privilege (.cwrBwphase g)
  else if bits v 63 8 ≠ 0 then s.refuseCwr v
  else
    match s.vd? k.vd with
    | none => s.retire id
    | some d =>
      let phase := effectivePhase d (v.setWidth 8)
      let sts := s.stacksOf k.vd
      let mustWake := fun (kv : Nat × PchState) => sts.contains (kv.1 / 64) && sleepsUnder kv.2 phase
      let (stop, s) := (s.modVd k.vd fun d => { d with bwphase := v.setWidth 8 }).spreadStop
      if effectivePhase d d.bwphase < phase then
        let up := s.pch.map fun kv => if mustWake kv then (kv.1, PchState.waking) else kv
        { s with pch := up }.park (.spread stop v sts phase)
      else s.park (.spread stop v [] 0)

/-- Does an enabled steering queue lie in a sub-bank of a brick (R51, R135)? -/
def State.queueIn (s : State) (b sb : Nat) : Bool :=
  s.queues.any fun kv =>
    let q := kv.2
    q.en && decide (q.brick = b ∧ q.offset / 2 ^ 16 ≤ sb ∧ sb ≤ (q.offset + 2 ^ (q.log2e + q.log2s) - 1) / 2 ^ 16)
/-- Does a sub-bank hold a line that is ABOARD or STOWED (R135)? -/
def State.lockedIn (s : State) (b sb : Nat) : Bool :=
  s.locks.any fun kv => decide (kv.1 / 2 ^ 16 = bankAddr b (sb * 2 ^ 16) / 2 ^ 16)
/-- Is a sub-bank the destination of an outstanding prefetch of the partition on this brick (R135)? -/
def State.prefIn (s : State) (vd b sb : Nat) : Bool :=
  s.cmds.any fun c =>
    decide (c.kind = .pref ∧ c.vd = vd ∧ c.brick = b ∧ c.dst.toNat / 2 ^ 16 ≤ sb
      ∧ sb ≤ (c.dst.toNat + 64 * (bits (wordOf c.desc 0) 31 20) + 63) / 2 ^ 16)
/-- Zero a sub-bank and empty its words, as it loses power or is allocated (Table 5.7). -/
def State.blankSub (s : State) (b sb : Nat) : State :=
  let lo := bankAddr b (sb * 2 ^ 16)
  { s with
    mem := Mem.blankRange s.mem lo (lo + 2 ^ 16)
    fe := NSet.eraseRange s.fe lo (lo + 2 ^ 16)
    poison := NSet.eraseRange s.poison lo (lo + 2 ^ 16) }
/-- Does a waiter's target lie in a sub-bank (R136, R142)? -/
def State.waitedIn (s : State) (b sb : Nat) : Bool :=
  let hit := fun (key : Nat) => decide (key / 2 ^ 16 = bankAddr b (sb * 2 ^ 16) / 2 ^ 16)
  s.feq.any (fun kv => hit kv.1) || s.resvq.any fun kv => hit kv.1 && decide (kv.2.waiters ≠ [])
/-- Has a sub-bank accepted an access that is not complete: one that stalls there, or waits there (R135)? -/
def State.acceptedIn (s : State) (b sb : Nat) : Bool :=
  (s.stallq.any fun e => decide (e.unit = subKey b sb)) || s.waitedIn b sb
/-- A sub-bank enters OFF (R135). -/
def State.turnOff (s : State) (b sb : Nat) : State :=
  (s.blankSub b sb).modSub b sb fun x =>
    { x with alloc := false, power := if x.power = .unavailable then .unavailable else .off }
/-- The sub-banks that close, with no accepted access left, enter OFF (R135). -/
def State.closeSubs (s : State) : State :=
  let ended := s.subbanks.filter fun kv =>
    let b := kv.1 / 16
    let sb := kv.1 % 16
    s.closing (.sram b (sb * 2 ^ 16)) && !(s.acceptedIn b sb)
  ended.foldl (fun s kv => s.turnOff (kv.1 / 16) (kv.1 % 16)) s
/-- Set or clear one ALLOC bit (R135). A cleared sub-bank first completes what it has accepted; set again before it is OFF, it is allocated as it stands. -/
def State.setAlloc (s : State) (vd b : Nat) (v : Word) (sb : Nat) : State :=
  let x := s.subBank b sb
  if !(s.holdsSub vd sb) || decide (x.alloc = bit v sb) then s
  else if bit v sb then
    if s.closing (.sram b (sb * 2 ^ 16)) then s.modSub b sb fun x => { x with alloc := true }
    else
      (s.blankSub b sb).modSub b sb fun x =>
        { x with alloc := true, power := if x.power = .unavailable then .unavailable else .poweringUp }
  else if s.acceptedIn b sb then s.modSub b sb fun x => { x with alloc := false }
  else s.turnOff b sb
/-- CWR BANKMAP (R135). -/
def execCwrBankmap (g : GReg) (s : State) : Out :=
  let k := s.me
  let v := k.getG g
  let b := s.brick
  let bad := fun (sb : Nat) =>
    if bit v sb then !(s.holdsSub k.vd sb)
    else s.holdsSub k.vd sb && (s.subBank b sb).alloc
      && (s.queueIn b sb || s.lockedIn b sb || s.prefIn k.vd b sb)
  if k.level = .task then s.privilege (.cwrBankmap g)
  else if (List.range 16).any bad then s.refuseCwr v
  else ((List.range 16).foldl (fun s sb => s.setAlloc k.vd b v sb) s).retire id
/-- CWR SINV parks until the invalidation completes (R130, R131). -/
def execCwrSinv (g : GReg) (s : State) : Out :=
  let k := s.me
  let v := k.getG g
  if k.level = .task then s.privilege (.cwrSinv g)
  else if bits v 51 48 ≠ 0 ∨ bits v 11 2 ≠ 0 then s.refuseCwr v
  else
    let (i, s) := s.fresh
    { s with invals := s.invals ++ [Inval.mk i (some k.ctx) k.vd v] }.park (.invalidation i)

/-! ### Traps, returns, breakpoints and sleep -/

/-- TRAP (R352). -/
def execTrap (n : BitVec 12) (s : State) : Out := s.trap .systemCall (n.setWidth 64)
/-- XRET (R353). -/
def execXret (s : State) : Out :=
  if s.me.level = .task then s.privilege .xret
  else .next (s.completeAt s.cur s.me.leave)
/-- Is a debug server attached to the current slot's virtual device (R354)? -/
def State.attached (s : State) : Bool :=
  match s.vd? s.me.vd with
  | some v => v.attached
  | none => false
/-- BKPT: with a debug server attached the context halts at the BKPT, else it traps (R354). -/
def execBkpt (c : BitVec 12) (s : State) : Out :=
  if s.attached then
    .next (s.modSlot s.cur fun k => { k with xcause := 8, xval := c.setWidth 64, haltAsked := true })
  else s.trap .breakpoint (c.setWidth 64)
/-- Has the wait of HALT ended (R355)? -/
def State.haltOver (s : State) (k : Slot) : Bool :=
  decide (k.wakeat.toNat ≤ s.devTime) || decide (k.inbox ≠ []) || decide (k.overflow ≠ [])
/-- HALT (R355). -/
def execHalt (s : State) : Out := if s.haltOver s.me then s.retire id else s.waitFor .haltEnd
/-- HALT_WAKE: a slot asleep in HALT whose wait has ended completes it (R355). -/
def execHaltWake (b n : Nat) (s : State) : Out :=
  let key := 8 * b + n
  let k := s.slotAt key
  if k.mode = .parked (.cond .haltEnd) ∧ s.haltOver k then .next (s.completeAt key k.advance) else .next s

/-! ### Context images (Table 6.11) -/

/-- `n` zero bytes. -/
def zeros (n : Nat) : List Byte := List.replicate n 0
/-- The 32 bytes of a stream port in an image. -/
def Port.image (p : Port) : List Byte :=
  leBytes 8 p.addr.toNat ++ leBytes 8 (sext p.stride).toNat ++ leBytes 8 p.rem.toNat
    ++ leBytes 8 (b2n p.bound + 2 * b2n p.queueFed)
/-- The number of a scope in an image; an entry that has not been translated has none. -/
def Scope.code : Option Scope → Nat
  | none => 0
  | some .die => 1
  | some .pkg => 2
  | some .sys => 3
/-- The 128 bytes of a store-buffer entry of a slot of `brick` in an image: address, size and scope, data. -/
def SbEntry.image (e : SbEntry) (brick : Nat) : List Byte :=
  leBytes 8 e.ea.toNat ++ leBytes 4 e.size ++ leBytes 4 (Scope.code (e.place.map (scopeFrom brick)))
    ++ leBytes 64 e.data.toNat ++ zeros 48
/-- The number of a request's kind in an image. -/
def ReqKind.code : ReqKind → Nat
  | .ld _ => 1 | .zld => 2 | .ldr => 3 | .ldff => 4 | .ldfe => 5 | .stef => 6 | .stff => 7 | .lrw => 8 | .scw => 9
  | .amo _ _ => 10 | .iter => 11 | .spawn => 12 | .barr => 13 | .ringWord => 14 | .ringLine => 15 | .ringClaim => 16
  | .pfree => 17 | .pcfg _ => 18 | .pwr _ _ _ _ _ => 19 | .prd _ _ _ _ => 20 | .pcpy _ _ _ => 21
  | .wrel => 22 | .wacq => 23 | .descr => 24
/-- The number of a request's stage in an image. -/
def ReqStage.code : ReqStage → Nat
  | .sent => 1 | .queued => 2 | .done _ => 3 | .failed _ _ _ => 4
/-- The number of a wait in an image. -/
def Wait.code : Wait → Nat
  | .cond _ => 1 | .reply => 2 | .demand _ => 3 | .wordFull _ => 4 | .barrier _ _ => 5 | .ring => 6 | .invalidation _ => 7
  | .spread _ _ _ _ => 8
/-- Kind and address of a saved wait that is no request: an access that a demand fault holds or that memory stalls, an invalidation, and a CWR whose value spreads, with that value for an address (Tables 4.12 and 6.11). -/
def State.waitRecord (s : State) : Wait → Nat × Word
  | .demand id => (25, ((s.demands.find? fun d => decide (d.id = id)).map (·.va)).getD 0)
  | .cond (.awake _ ea) => (26, ea)
  | .invalidation id => (27, ((s.invals.find? fun i => decide (i.id = id)).map (·.value)).getD 0)
  | .spread _ v _ _ => (28, v)
  | .cond _ | .reply | .wordFull _ | .barrier _ _ | .ring => (0, 0)
/-- The 40 bytes of the outstanding request record: kind, address, stage of the request, and the slot's wait (Table 6.11). -/
def State.requestRecord (s : State) (k : Slot) : List Byte :=
  let (w, wait) := match k.mode with
    | .parked w => (w.code, s.waitRecord w)
    | .free | .ready | .switching _ | .halted => (0, (0, 0))
  match k.req with
  | some r => leBytes 8 r.kind.code ++ leBytes 8 r.ea.toNat ++ leBytes 8 r.stage.code ++ leBytes 8 w ++ zeros 8
  | none => leBytes 8 wait.1 ++ leBytes 8 wait.2.toNat ++ zeros 8 ++ leBytes 8 w ++ zeros 8
/-- The first 0x1C0 bytes of an image: registers of the slot, ports, the outstanding request record, WAKEAT, TKT and MQVAL. -/
def Slot.imageHead (k : Slot) (request : List Byte) : List Byte :=
  (k.g.toList.map fun v => leBytes 8 v.toNat).flatten
    ++ leBytes 8 k.pc.toNat ++ leBytes 8 k.xstat.toNat ++ leBytes 8 k.xpc.toNat ++ leBytes 8 k.xcause.toNat
    ++ leBytes 8 k.xval.toNat ++ leBytes 8 k.space.toNat ++ leBytes 8 k.ackcnt ++ leBytes 8 k.region
    ++ leBytes 8 k.xframe.toNat
    ++ ((List.range 16).map fun i => leBytes 4 (k.frame.body.getD i 0).toNat).flatten ++ zeros 24
    ++ (k.ports.toList.map Port.image).flatten ++ request
    ++ leBytes 8 k.wakeat.toNat ++ leBytes 8 k.tkt.toNat ++ leBytes 8 k.mqval.toNat
/-- The bytes of w and z registers in an image. -/
def Slot.imageWide (k : Slot) : List Byte :=
  (k.w.toList.map lineBytes).flatten ++ (k.z.toList.map lineBytes).flatten
/-- The image that SAVE writes: request record, inbox and store-buffer areas zero (R356). -/
def Slot.saveImage (k : Slot) : List Byte := k.imageHead (zeros 40) ++ zeros 64 ++ k.imageWide ++ zeros 2048
/-- The whole image of a context in its save area, for a slot of `brick` (Table 6.11). -/
def State.fullImage (s : State) (k : Slot) (brick : Nat) : List Byte :=
  let inbox := (k.inbox.map fun e => leBytes 8 e.word0.toNat ++ leBytes 8 e.value.toNat).flatten
  let sb := (k.sb.map fun e => e.image brick).flatten
  let reply := match k.req with
    | some r =>
      match r.stage with
      | .done v => lineBytes v
      | .sent | .queued | .failed _ _ _ => zeros 64
    | none => zeros 64
  k.imageHead (s.requestRecord k) ++ reply ++ k.imageWide ++ inbox ++ zeros (256 - inbox.length) ++ sb ++ zeros (1280 - sb.length)
    ++ zeros 512

/-- A word of an image. -/
def imgWord (img : List Byte) (off : Nat) : Word := wrap (leNat ((img.drop off).take 8))
/-- A line of an image. -/
def imgLine (img : List Byte) (off : Nat) : Line := bytesLine ((img.drop off).take 64)
/-- Are the bytes from `lo` up to but not including `hi` zero? -/
def imgZero (img : List Byte) (lo hi : Nat) : Bool := ((img.drop lo).take (hi - lo)).all fun b => decide (b = 0)
/-- A stream port of an image. -/
def imgPort (img : List Byte) (off : Nat) : Port :=
  { bound := bit (imgWord img (off + 24)) 0, queueFed := bit (imgWord img (off + 24)) 1, addr := imgWord img off,
    stride := (imgWord img (off + 8)).setWidth 32, rem := (imgWord img (off + 16)).setWidth 40, ahead := [], asked := [] }
/-- Is a bound port of an image sound (R357)? -/
def portSound (p : Port) (last : Bool) : Bool :=
  !p.bound || (decide (p.addr.toNat % 64 = 0) && decide (p.stride.toNat % 64 = 0) && !(last && p.queueFed))
/-- Are the bits of an image's XCAUSE, SPACEID, TKT and SREM words beyond those that the registers use zero? R357 does not name them; a reserved bit of a slot's control register is never ignored (R7, R348; DEDUCED: log entry 107). -/
def reservedZero (img : List Byte) : Bool :=
  decide (bits (imgWord img 0x98) 63 16 = 0 ∧ bits (imgWord img 0xA8) 63 12 = 0 ∧ bits (imgWord img 0x1B0) 63 32 = 0)
    && [0x130, 0x150, 0x170].all fun o => decide (bits (imgWord img o) 63 40 = 0)
/-- WellFormed of R357; `regions` is the size of the partition's region table. -/
def imageSound (img : List Byte) (regions : Nat) : Bool :=
  let xstat := imgWord img 0x88
  let xframe := imgWord img 0xC0
  decide (imgWord img 0xB0 = 0) && imgZero img 0x108 0x120 && imgZero img 0x180 0x1A8 && imgZero img 0x1C0 0x200
    && imgZero img 0x800 0x1000
    && decide (bits xstat 63 32 = 0 ∧ bits xstat 7 4 = 0 ∧ bits xframe 62 48 = 0 ∧ bits xframe 15 3 = 0)
    && decide (bit xstat 2 = bit xframe 63)
    && (!(bit xframe 63)
      || decide (bits xframe 35 32 ≤ bits xframe 31 28 ∧ bits xframe 47 36 ≤ bits xframe 27 16))
    && decide ((imgWord img 0xB8).toNat < regions) && decide (bits (imgWord img 0x80) 1 0 = 0)
    && reservedZero img && portSound (imgPort img 0x120) false && portSound (imgPort img 0x140) false && portSound (imgPort img 0x160) true
/-- The slot that an image describes, in the place of slot `k` (R357). -/
def Slot.fromImage (k : Slot) (img : List Byte) : Slot :=
  let xstat := imgWord img 0x88
  let xframe := imgWord img 0xC0
  let level := if bit xstat 0 then Level.handler else Level.task
  let pc := imgWord img 0x80
  let xpc := imgWord img 0x90
  let pos := bits xframe 35 32
  { k with
    g := Vector.ofFn fun i => imgWord img (8 * i.val)
    pc := pc
    level := level
    plevel := if bit xstat 1 then .handler else .task
    sstep := bit xstat 3
    wv := BitVec.ofNat 8 (bits xstat 15 8)
    zv := BitVec.ofNat 16 (bits xstat 31 16)
    xpc := xpc
    xcause := (imgWord img 0x98).setWidth 16
    xval := imgWord img 0xA0
    space := (imgWord img 0xA8).setWidth 12
    region := (imgWord img 0xB8).toNat
    frame := { active := bit xframe 63, running := bit xframe 63 && decide (level = .task),
               base := (if level = .task then pc else xpc) - 4 * wrap pos,
               iter := bits xframe 47 36, pos := pos, lenm1 := bits xframe 31 28, cntm1 := bits xframe 27 16,
               stag := bits xframe 2 0,
               body := (List.range 16).map fun i =>
                 BitVec.ofNat 32 (leNat ((img.drop (0xC8 + 4 * i)).take 4)) }
    ports := #v[imgPort img 0x120, imgPort img 0x140, imgPort img 0x160]
    wakeat := imgWord img 0x1A8
    tkt := (imgWord img 0x1B0).setWidth 32
    mqval := imgWord img 0x1B8
    w := Vector.ofFn fun i => imgLine img (0x200 + 64 * i.val)
    z := Vector.ofFn fun i => imgLine img (0x400 + 64 * i.val) }

/-- Does the slot have a hire entry, an engine command or a prefetch outstanding (R329)? -/
def Slot.busy (k : Slot) : Bool := decide (k.hires ≠ 0) || decide (k.engines ≠ 0) || decide (k.prefs ≠ 0)
/-- Does its inbox or overflow area hold an entry? -/
def Slot.hasMail (k : Slot) : Bool := decide (k.inbox ≠ []) || decide (k.overflow ≠ [])
/-- Has it neither stores nor remote acknowledgements nor ring entries outstanding? -/
def Slot.quiet (k : Slot) : Bool := decide (k.sb = []) && decide (k.ackcnt = 0) && decide (k.ringq = [])
/-- Reach a line for SAVE or RESTORE: its place and window, after the waits and the answers of its memory, or how the instruction ends; a fault of either stage is a precise trap (R356, R357). -/
def State.reachLine (s : State) (ea : Word) (k : Access) : Except Out (State × Place × Nat) :=
  let m := s.me
  match s.walk s.agent ea with
  | (s, some p) => .error (if s.me.ctx = m.ctx then s.awaitMemory p ea else .next s)
  | (s, none) =>
    if s.me.ctx ≠ m.ctx then .error (.next s)
    else
      match s.resolve s.brick m.vd m.space m.level ea k with
      | .fault c => .error (s.trap c ea)
      | .demand ipa => .error (s.demandPark ipa ea)
      | .fatal => .error (s.trap .hypervisor ea)
      | .ok p win =>
        let s := s.translated s.brick m.vd m.space m.level ea k
        if s.blocked m.ctx p then .error (s.awaitMemory p ea)
        else
          let wr := decide (k = .write)
          let s' := s.look m.vd win p 64 wr wr
          if s'.me.ctx = m.ctx then .ok (s', p, win) else .error (.next s')
/-- Store the lines of an image from an address up; a fault ends it with a precise trap (R356). -/
def State.saveLines (s : State) (ea : Word) : List Byte → Nat → Except Out State
  | _, 0 => .ok s
  | img, n + 1 =>
    match s.reachLine ea .write with
    | .error o => .error o
    | .ok (s, p, win) =>
      match s.writeAt s.me.vd win p 64 (bytesLine (img.take 64)) with
      | .error c => .error (s.trap c ea)
      | .ok s => s.saveLines (ea + 64) (img.drop 64) n
/-- Load lines from an address up (R357). -/
def State.loadLines (s : State) (ea : Word) : Nat → Except Out (List Byte × State)
  | 0 => .ok ([], s)
  | n + 1 =>
    match s.reachLine ea .read with
    | .error o => .error o
    | .ok (s, p, win) =>
      match s.readAt s.me.vd win p 64 with
      | .error c => .error (s.trap c ea)
      | .ok v =>
        match (s.touch p).loadLines (ea + 64) n with
        | .ok (bs, s) => .ok (lineBytes v ++ bs, s)
        | .error o => .error o
/-- SAVE (R356). -/
def execSave (a : GReg) (s : State) : Out :=
  let k := s.me
  let ea := k.getG a
  if k.level = .task then s.privilege (.save a)
  else if k.busy || k.hasMail then s.trap .migrateBusy 0
  else if bits ea 11 0 ≠ 0 then s.trap .alignment ea
  else if !k.quiet then s.waitFor .drainedAckRing
  else
    let s := (s.handOn k).modSlot s.cur Slot.dropAhead
    match s.saveLines ea ({ s.me with pc := k.pc + 8 }.saveImage) 64 with
    | .error o => o
    | .ok s => (s.unstall k.ctx).retire id
/-- May the slot's thread go over to another region (R357)? -/
def State.regionRoom (s : State) (vd home dest : Nat) : Bool :=
  decide (home = dest) ||
    (match s.region? vd dest with
      | some r => decide (r.live < r.slots)
      | none => false)
/-- RESTORE (R357). -/
def execRestore (a : GReg) (s : State) : Out :=
  let k := s.me
  let ea := k.getG a
  if k.level = .task then s.privilege (.restore a)
  else if k.busy || k.hasMail then s.trap .migrateBusy 0
  else if bits ea 11 0 ≠ 0 then s.trap .alignment ea
  else if !k.quiet then s.waitFor .drainedAckRing
  else
    match s.loadLines ea 64 with
    | .error o => o
    | .ok (img, s) =>
      let s := s.unstall k.ctx
      let n := match s.vd? k.vd with
        | some v => (v.tree.map fun t => t.regions.length).getD 0
        | none => 0
      let dest := (imgWord img 0xB8).toNat
      if !(imageSound img n) || !(s.regionRoom k.vd k.region dest) then s.trap .illegalOperand ea
      else
        let s := if dest = k.region then s
          else (s.modRegion k.vd dest fun r => { r with live := r.live + 1 }).modRegion k.vd k.region fun r =>
            { r with live := r.live - 1 }
        let s := s.handOn k
        s.retireTo (fun k => k.fromImage img) (imgWord img 0x80)

/-! ### HLOC -/

/-- Result of HLOC for a place (Table 16.6). -/
def State.hlocWord (s : State) : Place → Word
  | .sram b off => wrap (b * 2 ^ 16 + off / 2 ^ 16)
  | .hbm pa =>
    wrap (2 ^ 62 + b2n (KMap.has s.w62 (pa / 2 ^ 36)) * 2 ^ 61 + pa / 2 ^ 36 * 2 ^ 44 + nbits pa 35 34 * 2 ^ 42
      + s.pchOf pa * 2 ^ 32 + s.channelBrick pa * 2 ^ 16)
  | .host _ => wrap (2 * 2 ^ 62)
  | .peer _ _ => wrap (3 * 2 ^ 62)
/-- HLOC (R358). -/
def execHloc (d r : GReg) (s : State) : Out :=
  s.resolved (s.me.getG r) .read fun s p _ => s.retire fun k => k.setG d (s.hlocWord p)

end Sys2Proof.Machine
end

