-- ==== Sys2Proof/Machine/Streams.lean ====
section
/-!
DEFINITION. The store buffer's front and forwarding (R151, R155), loads that wait (R136), stream ports (R157 to R161, R319 to R322), and the sources and destinations of wide instructions (R307).
-/
namespace Sys2Proof.Machine

/-! ### Store buffer -/

/-- Entries of the shared sixteen that a slot holds: all beyond its own two (R151). -/
def Slot.sharedUsed (k : Slot) : Nat := k.sb.length - 2
/-- May the slot take a store-buffer entry (R151)? -/
def State.entryFree (s : State) (key : Nat) : Bool :=
  let n := (s.slotAt key).sb.length
  let used := (List.range 8).foldl (fun a i => a + (s.slotAt (key / 8 * 8 + i)).sharedUsed) 0
  decide (n < 2) || (decide (n < 10) && decide (used < 16))
/-- An address in one spelling: own-bank addresses as B-space addresses. -/
def canonical (brick : Nat) (ea : Word) : Nat :=
  match bankOf brick ea.toNat with
  | some (b, off) => bankAddr b off
  | none => ea.toNat
/-- Do two addresses of a slot lie in one line, by themselves or by the locations that they name (R159)? -/
def State.sameLine (s : State) (k : Slot) (brick : Nat) (ea held : Word) : Bool :=
  decide (canonical brick ea / 64 = canonical brick held / 64)
    || match s.resolve brick k.vd k.space k.level ea .write, s.resolve brick k.vd k.space k.level held .read with
      | .ok p _, .ok q _ => decide (p.granule = q.granule)
      | _, _ => false
/-- Put a store into the current slot's buffer; a line that a port holds ahead is discarded (R159, R278). -/
def State.buffer (s : State) (ea : Word) (size : Nat) (data : Line) : State :=
  let (i, s) := s.fresh
  let gone := s.sameLine s.me s.brick ea
  s.modSlot s.cur fun k =>
    let keep := fun (p : Port) =>
      { p with ahead := p.ahead.filter fun l => !(gone (wrap l.1)), asked := p.asked.filter fun a => !(gone (wrap a)) }
    { k with
      sb := k.sb ++ [⟨i, ea, size, data, k.level, k.space, none, 0, none, false, none⟩]
      ports := k.ports.map keep }
/-- The place of a buffered entry: what translation gave it, or what it gives it now. -/
def State.entryPlace (s : State) (k : Slot) (brick : Nat) (e : SbEntry) : Option Place :=
  match e.place with
  | some p => some p
  | none =>
    match s.resolve brick k.vd e.space e.level e.ea .write with
    | .ok p _ => some p
    | .fault _ | .demand _ | .fatal => none
/-- The first bytes of two ranges, when these overlap. -/
def overlapAt (a n b m : Nat) : Option (Nat × Nat) := if a < b + m ∧ b < a + n then some (a, b) else none
/-- Where an access and an entry of its slot begin, in one numbering, when they overlap: by their addresses, or by the locations that these name (R143, R155). -/
def State.meeting (s : State) (k : Slot) (brick : Nat) (p : Place) (ea size : Nat) (e : SbEntry) : Option (Nat × Nat) :=
  match overlapAt ea size (canonical brick e.ea) e.size with
  | some x => some x
  | none =>
    match s.entryPlace k brick e with
    | some q => overlapAt p.key size q.key e.size
    | none => none
/-- Do two ranges share a 64-bit word? -/
def sameWord (a n b m : Nat) : Bool := decide (a / 8 ≤ (b + m - 1) / 8 ∧ b / 8 ≤ (a + n - 1) / 8)
/-- The location of a write under way from a slot of `brick`; one that a demand fault holds has that which its address names now, if it names one. -/
def State.msgPlace (s : State) (brick : Nat) (m : Msg) : Option Place :=
  if m.demand.isNone then some m.place
  else match s.resolve brick m.vd m.space m.level m.ea .rw with
    | .ok p _ => some p
    | .fault _ | .demand _ | .fatal => none
/-- Does an access share a word with a write under way (R143)? A write that a demand fault holds has no place yet: it is known by its address, and by the location that its address names once it names one. -/
def State.meetsWord (s : State) (m : Msg) (brick : Nat) (space : BitVec 12) (p : Place) (ea size : Nat) : Bool :=
  (m.demand.isSome && decide (m.space = space) && sameWord (canonical brick m.ea) m.size ea size)
    || match s.msgPlace brick m with
      | some q => sameWord q.key m.size p.key size
      | none => false
/-- Has a context a remote update under way, not yet performed, to a word of an access (R143)? -/
def State.updating (s : State) (k : Slot) (brick : Nat) (p : Place) (ea size : Nat) : Bool :=
  s.msgs.any fun m =>
    decide (m.ctx = k.ctx ∧ ¬ m.performed ∧ m.kind ≠ .store) && s.meetsWord m brick k.space p ea size
/-- What the store buffer says to a load (R155): nothing, the bytes it forwards, or that the load must wait. -/
inductive Forward
  | clear | bytes (v : Line) | wait
  deriving DecidableEq, Repr
/-- Check a load of a context at a place against its own entries (R155), and against its remote updates of the same word (R143). -/
def State.forward (s : State) (k : Slot) (brick : Nat) (p : Place) (ea : Word) (size : Nat) : Forward :=
  let a := canonical brick ea
  if s.updating k brick p a size then .wait
  else
    match (k.sb.filterMap fun e => (s.meeting k brick p a size e).map fun x => (e, x)).getLast? with
    | none => .clear
    | some (e, x, y) =>
      if y ≤ x ∧ x + size ≤ y + e.size then .bytes (BitVec.ofNat 512 (e.data.toNat / 2 ^ (8 * (x - y)) % 2 ^ (8 * size)))
      else .wait
/-- Has a context neither a buffered store nor a remote update of its own still to reach a word? What only its home can answer waits until then (R143, R155). -/
def State.wordOpen (s : State) (k : Slot) (brick : Nat) (p : Place) (ea : Word) (size : Nat) : Bool :=
  decide (s.forward k brick p ea size = .clear)

/-! ### Ports -/

/-- The wide register that a port appears as: w5, w6, w7 (R157). -/
def portReg (p : Fin 3) : WReg := Fin.ofNat 8 (5 + p.val)
/-- The port that is bound to a wide register. -/
def Slot.portOf (k : Slot) (r : WReg) : Option (Fin 3) :=
  if r = 5 ∧ k.ports[0].bound then some 0
  else if r = 6 ∧ k.ports[1].bound then some 1
  else if r = 7 ∧ k.ports[2].bound then some 2
  else none
/-- Change a port. -/
def Slot.setPort (k : Slot) (p : Fin 3) (x : Port) : Slot := { k with ports := k.ports.set p x }
/-- Bytes that the next pop or push moves: VL (R158). -/
def Port.vl (p : Port) : Nat := min 64 p.rem.toNat
/-- A port of a slot of `brick` after a pop or push (R158); a line that was held or asked for ahead is used up. -/
def Port.step (p : Port) (brick : Nat) : Port :=
  { p with addr := p.addr + sext p.stride, rem := BitVec.ofNat 40 (p.rem.toNat - p.vl),
           ahead := p.ahead.filter fun l => decide (l.1 ≠ canonical brick p.addr),
           asked := p.asked.filter fun a => decide (a ≠ canonical brick p.addr) }
/-- The first bytes of a line, the rest zero (R158). -/
def firstBytes (l : Line) (n : Nat) : Line := BitVec.ofNat 512 (l.toNat % 2 ^ (8 * n))
/-- The number by which memory orders the load of a line that a port of a context has asked for ahead (R21, R159). -/
def aheadToken (ctx p a : Nat) : Nat := (4 * ctx + p + 1) * 2 ^ 64 + a
/-- Read a line that a load sent ahead names, at memory that serves it: what the media answer counts as for any read (R69), and the line, unless it cannot be read now (R159). -/
def State.aheadLine (s : State) (k : Slot) (win : Nat) (pl : Place) : State × Option Line :=
  let s := (s.touch pl).look k.vd win pl 64 false false
  match s.readAt k.vd win pl 64 with
  | .ok v => (s, if (s.ctxOf k.ctx).isSome then some v else none)
  | .error _ => (s, none)
/-- What a port's loads ahead bring: the lines that return at once, and those whose loads wait at memory that cannot serve them (R21). -/
structure Ahead where
  held : List (Nat × Line)
  sent : List (Nat × Place)
/-- Loads that a port sends ahead, for up to `n` lines from the `i`-th on that can be read without a fault (R159). -/
def State.readAhead (s : State) (k : Slot) (brick : Nat) (p : Port) : Nat → Nat → State × Ahead
  | _, 0 => (s, ⟨[], []⟩)
  | i, n + 1 =>
    let ea := p.addr + wrap i * sext p.stride
    let a := canonical brick ea
    if p.rem.toNat ≤ 64 * i then (s, ⟨[], []⟩)
    else
      match s.resolve brick k.vd k.space k.level ea .read with
      | .ok pl win =>
        if ea.toNat % 64 ≠ 0 ∨ !(s.wordOpen k brick pl ea 64) ∨ (s.homeFault k.vd win pl 64 false false).isSome then (s, ⟨[], []⟩)
        else if s.blocked k.ctx pl then
          let (s, r) := s.readAhead k brick p (i + 1) n
          (s, { r with sent := (a, pl) :: r.sent })
        else
          match s.aheadLine k win pl with
          | (s, none) => (s, ⟨[], []⟩)
          | (s, some v) =>
            let (s, r) := s.readAhead k brick p (i + 1) n
            (s, { r with held := (a, v) :: r.held })
      | _ => (s, ⟨[], []⟩)
/-- A port once its loads have been sent ahead. -/
def Port.withAhead (x : Port) (r : Ahead) : Port :=
  { x with ahead := r.held, asked := (x.asked ++ r.sent.map (·.1)).eraseDups.filter fun a => r.held.all fun l => decide (l.1 ≠ a) }
/-- Loads sent ahead for port `p` of a context take their places in the order of arrival. -/
def State.sendAhead (s : State) (ctx p : Nat) (sent : List (Nat × Place)) : State :=
  sent.foldl (fun s a => s.stallAt (aheadToken ctx p a.1) a.2) s
/-- A load that a port has asked for ahead is served: its line is held, unless it cannot be read now. -/
def State.landAhead (s : State) (key : Nat) (p : Fin 3) (a : Nat) : State :=
  let k := s.slotAt key
  let token := aheadToken k.ctx p.val a
  match s.stallq.find? fun e => decide (e.token = token) with
  | none => s
  | some e =>
    if s.blocked token e.place then s
    else
      let s := s.unstall token
      let (s, got) := match s.resolve (key / 8) k.vd k.space k.level (wrap a) .read with
        | .ok pl win => if pl = e.place ∧ s.wordOpen k (key / 8) pl (wrap a) 64 then s.aheadLine k win pl else (s, none)
        | _ => (s, none)
      s.modCtx k.ctx fun k =>
        let x := k.ports[p]
        k.setPort p { x with ahead := x.ahead ++ got.toList.map fun v => (a, v), asked := x.asked.filter fun b => decide (b ≠ a) }
/-- The loads that the ports of a slot have asked for ahead are served as far as memory can. -/
def State.landAheads (s : State) (key : Nat) : State :=
  let one := fun (s : State) (p : Fin 3) => ((s.slotAt key).ports[p]).asked.foldl (fun s a => s.landAhead key p a) s
  one (one s 0) 1
/-- One pop of the current slot. Every wait or fault leaves the machine as `s0` has it: nothing is popped (R161). A slot that traps, or meets a demand fault, waits for its word no longer (Table 4.12). -/
def State.pop (s0 s : State) (p : Fin 3) : Except Out (Line × State) :=
  let k := s.me
  let port := k.ports[p]
  let ea := port.addr
  let take := fun (s : State) (v : Line) =>
    (firstBytes v port.vl, (s.unstall k.ctx).modSlot s.cur fun k => k.setPort p ((k.ports[p]).step s.brick))
  let s0' := s0.withdraw k.ctx
  if port.queueFed then
    match s.resolve s.brick k.vd k.space k.level ea .rw with
    | .fault c => .error (s0'.trap c ea)
    | .demand ipa => .error (s0'.demandPark ipa ea)
    | .fatal => .error (.next (s0.deliver s0.cur Cause.hypervisor.code ea))
    | .ok pl win =>
      let host := match pl with
        | .host _ => true
        | .sram _ _ | .hbm _ | .peer _ _ => false
      let first := match s.feFirst pl.key (KMap.getD s.feq pl.key []) with
        | some (c, _) => decide (c = k.ctx)
        | none => true
      if ea.toNat % 64 ≠ 0 then .error (s0'.trap .alignment ea)
      else if host then .error (s0'.trap .illegalOperand ea)
      else if !(s.wordOpen k s.brick pl ea 64) then .error (s0.waitFor (.wordClear pl ea.toNat 64))
      else if s.blocked k.ctx pl then .error (s0.awaitMemory pl ea)
      else
        match s.homeFault k.vd win pl 64 true false with
        | some c => .error (s0'.trap c ea)
        | none =>
          if s.feBit pl && first then
            let v := s.peekLine pl 64
            let s := (((s.setFe pl false).touch pl).withdraw k.ctx).feWake (pl.key / 8 * 8)
            .ok (take (s.modSlot s.cur Slot.dropAhead) v)
          else
            let q := KMap.getD s0.feq pl.key []
            let s0 := if q.contains k.ctx then s0 else { s0 with feq := KMap.set s0.feq pl.key (q ++ [k.ctx]) }
            .error (s0.park (.wordFull pl.key))
  else
    match List.find? (fun l => decide (l.1 = canonical s.brick ea)) port.ahead with
    | some l => .ok (take s l.2)
    | none =>
      match s.resolve s.brick k.vd k.space k.level ea .read with
      | .fault c => .error (s0'.trap c ea)
      | .demand ipa => .error (s0'.demandPark ipa ea)
      | .fatal => .error (.next (s0.deliver s0.cur Cause.hypervisor.code ea))
      | .ok pl win =>
        if ea.toNat % 64 ≠ 0 then .error (s0'.trap .alignment ea)
        else
          match s.forward k s.brick pl ea 64 with
          | .bytes v => .ok (take s v)
          | .wait => .error (s0.waitFor (.loadClear pl ea.toNat 64))
          | .clear =>
            if s.blocked k.ctx pl then .error (s0.awaitMemory pl ea)
            else
              match s.readAt k.vd win pl 64 with
              | .error c => .error (s0'.trap c ea)
              | .ok v =>
                let (n, s) := (s.touch pl).choose
                let (s, more) := s.readAhead k s.brick port 1 (n % 4)
                if s.me.ctx ≠ k.ctx then .error (.next s)
                else
                  let s := s.modSlot s.cur fun k => k.setPort p ((k.ports[p]).withAhead more)
                  .ok (take (s.sendAhead k.ctx p.val more.sent) v)

/-- The machine once the line of a pop has been reached: the quoin keeps the walk and the media have answered; or the place, with the line's address, at which the walk waits (R21). A line held ahead is not read again. -/
def State.popReach (s : State) (p : Fin 3) : State × Option (Place × Word) :=
  let k := s.me
  let port := k.ports[p]
  let acc := if port.queueFed then Access.rw else Access.read
  if !port.queueFed && port.ahead.any fun l => decide (l.1 = canonical s.brick port.addr) then (s, none)
  else
    match s.walk s.agent port.addr with
    | (s, some p) => (s, some (p, port.addr))
    | (s, none) =>
      match s.resolve s.brick k.vd k.space k.level port.addr acc with
      | .ok pl win =>
        let s' := s.translated s.brick k.vd k.space k.level port.addr acc
        (if s'.blocked k.ctx pl then s' else s'.look k.vd win pl 64 port.queueFed false, none)
      | .fault _ | .demand _ | .fatal => (s, none)
/-- The lines of some pops are reached, in order, up to the first that waits. -/
def State.reachPops (s : State) : List (Fin 3) → State × Option (Place × Word)
  | [] => (s, none)
  | p :: rest =>
    match s.popReach p with
    | (s, none) => s.reachPops rest
    | r => r

/-! ### Sources and destinations of wide instructions -/

/-- XVAL of an illegal or stale use of a w register (R150, R307). -/
def wXval (r : WReg) : Word := wrap (0x100 + r.val)
/-- XVAL of a stale z register (R150). -/
def zXval (r : ZReg) : Word := wrap (0x200 + r.val)
/-- The first stale source (R150). -/
def Slot.staleW (k : Slot) (srcs : List WReg) : Option WReg :=
  srcs.find? fun r => (k.portOf r).isNone && !(k.wValid r)
/-- The first illegal use of a w register: w7 as a source while port 2 is bound, w5 or w6 as a destination while bound (R157). -/
def Slot.illegalW (k : Slot) (srcs : List WReg) (d : Option WReg) : Option WReg :=
  match srcs.find? fun (r : WReg) => decide (r = 7 ∧ k.ports[2].bound) with
  | some r => some r
  | none =>
    match d with
    | some r => if (r = 5 ∨ r = 6) ∧ (k.portOf r).isSome then some r else none
    | none => none
/-- Input ports that the sources pop, port 0 first (R321). -/
def Slot.popsOf (k : Slot) (srcs : List WReg) : List (Fin 3) :=
  [0, 1].filter fun p => k.ports[p].bound && srcs.contains (portReg p)
/-- Does the destination push on port 2? -/
def Slot.pushes (k : Slot) (d : Option WReg) : Bool := decide (d = some 7) && k.ports[2].bound
/-- The first port at its end: a pop, then the push (R158). -/
def Slot.streamEnd (k : Slot) (srcs : List WReg) (d : Option WReg) : Option Nat :=
  match (k.popsOf srcs).find? fun (p : Fin 3) => decide (k.ports[p].rem = 0) with
  | some p => some p.val
  | none => if k.pushes d && decide (k.ports[2].rem = 0) then some 2 else none
/-- The stale and illegal-operand checks of R307 on the w registers of an instruction. -/
def State.wLegal (s : State) (srcs : List WReg) (d : Option WReg) (go : Out) : Out :=
  let k := s.me
  match k.staleW srcs with
  | some r => s.trap .stale (wXval r)
  | none =>
    match k.illegalW srcs d with
    | some r => s.trap .illegalOperand (wXval r)
    | none => go
/-- The stream-end check, after the stale and illegal-operand checks (R158, R307). -/
def State.notAtEnd (s : State) (srcs : List WReg) (d : Option WReg) (go : Out) : Out :=
  match s.me.streamEnd srcs d with
  | some p => s.trap .streamEnd (wrap p)
  | none => go
/-- The checks of R307 on the w registers of an instruction; the first that fails traps. -/
def State.wChecks (s : State) (srcs : List WReg) (d : Option WReg) (go : Out) : Out :=
  s.wLegal srcs d (s.notAtEnd srcs d go)
/-- Pop the ports in order, giving the popped lines by port. -/
def State.popAll (s0 s : State) : List (Fin 3) → Except Out (List (Nat × Line) × State)
  | [] => .ok ([], s)
  | p :: rest =>
    match s0.pop s p with
    | .error o => .error o
    | .ok (v, s) =>
      match s0.popAll s rest with
      | .error o => .error o
      | .ok (vs, s) => .ok ((5 + p.val, v) :: vs, s)
/-- Pop the ports of an instruction and go on, unless an error that a line meets ends the slot's own thread. -/
def State.popping (s : State) (ps : List (Fin 3)) (go : List (Nat × Line) → State → Out) : Out :=
  let (s', still) := s.reachPops ps
  if s'.me.ctx ≠ s.me.ctx then .next s'
  else
    match still with
    | some (p, ea) => s'.awaitMemory p ea
    | none =>
      match s'.popAll s' ps with
      | .error o => o
      | .ok (vs, s'') => go vs s''
/-- The value of a source: the line popped, or the register. -/
def srcValue (k : Slot) (popped : List (Nat × Line)) (r : WReg) : Line :=
  match List.find? (fun x => decide (x.1 = r.val)) popped with
  | some x => x.2
  | none => k.w[r]
/-- The address fault of a push whose line lies in no range (R117, R278). -/
def pushFault (brick : Nat) (p : Port) : Option Cause :=
  if (bankOf brick p.addr.toNat).isNone ∧ !(inVspace p.addr.toNat) then some .address
  else if p.addr.toNat % 64 ≠ 0 then some .alignment
  else none
/-- Push the result on port 2 through the store buffer (R158). -/
def State.push (s : State) (v : Line) : State :=
  let port := s.me.ports[(2 : Fin 3)]
  (s.buffer port.addr port.vl v).modSlot s.cur fun k => k.setPort 2 ((k.ports[(2 : Fin 3)]).step s.brick)
/-- What an instruction with the destination meets before it may push: the checks of the push, then a free store-buffer entry (R158, R151). -/
def State.pushGuard (s : State) (d : Option WReg) (go : Out) : Out :=
  let k := s.me
  match if k.pushes d then pushFault s.brick k.ports[(2 : Fin 3)] else none with
  | some c => s.trap c k.ports[(2 : Fin 3)].addr
  | none => if k.pushes d && !(s.entryFree s.cur) then s.waitFor (.storeEntry k.sb.length) else go
/-- Run an instruction with wide sources: checks, pops, its result by `f`, then a push, or the register changes `fin` (R307). -/
def State.wideRun (s : State) (srcs : List WReg) (d : Option WReg) (f : (WReg → Line) → Line)
    (fin : Line → Slot → Slot) : Out :=
  let k := s.me
  s.wChecks srcs d <| s.pushGuard d <| s.popping (k.popsOf srcs) fun popped s' =>
    let v := f (srcValue k popped)
    if k.pushes d then (s'.push v).retire id else s'.retire (fin v)
/-- Run an instruction that writes a wide register. -/
def State.wideTo (s : State) (srcs : List WReg) (d : WReg) (f : (WReg → Line) → Line) : Out :=
  s.wideRun srcs (some d) f fun v k => k.setW d v

/-! ### SBIND -/

/-- Is a stream descriptor sound for a port (R320)? -/
def descSound (z : Line) (p : Fin 3) : Bool :=
  decide (lbits z 1 31 0 = 0 ∧ lbits z 2 63 40 = 0 ∧ lbits z 3 63 2 = 0 ∧ wordOf z 4 = 0 ∧ wordOf z 5 = 0
    ∧ wordOf z 6 = 0 ∧ wordOf z 7 = 0 ∧ lbits z 0 5 0 = 0 ∧ lbits z 1 37 32 = 0 ∧ (lbits z 3 1 1 = 0 ∨ p ≠ 2))
/-- SBIND (R320). -/
def execSbind (z : ZReg) (p : Fin 3) (s : State) : Out :=
  let k := s.me
  let d := k.z[z]
  if !(k.zValid z) then s.trap .stale (zXval z)
  else if !(descSound d p) then s.trap .illegalOperand (wrap p.val)
  else if lbits d 3 0 0 = 1 then
    let port : Port :=
      ⟨true, decide (lbits d 3 1 1 = 1), wordOf d 0, BitVec.ofNat 32 (lbits d 1 63 32), BitVec.ofNat 40 (lbits d 2 39 0), [], []⟩
    if port.queueFed ∨ p = 2 then s.retire fun k => k.setPort p port
    else
      let (n, s) := s.choose
      let (s, ahead) := s.readAhead k s.brick port 0 (n % 5)
      if s.me.ctx ≠ k.ctx then .next s
      else (s.sendAhead k.ctx p.val ahead.sent).retire fun k => k.setPort p (port.withAhead ahead)
  else
    s.retire fun k => { (k.setPort p { k.ports[p] with bound := false, rem := 0, ahead := [], asked := [] }) with
      wv := k.wv &&& ~~~ ((1 : BitVec 8) <<< (5 + p.val)) }

end Sys2Proof.Machine
end

