-- ==== Sys2Proof/Machine/Home.lean ====
section
/-!
DEFINITION. What homes do: the effect of a request on memory, the nest claim (R100), replies (R98), the departure of stores and their performance (R152 to R154), remote updates (R286), and their events.
-/
namespace Sys2Proof

/-- The new value of Table 13.7 for n-bit operands. -/
def RmwOp.apply (o : RmwOp) (n old v : Nat) : Nat :=
  match o with
  | .add => (old + v) % 2 ^ n
  | .and => old &&& v
  | .or => old ||| v
  | .xor => old ^^^ v
  | .minI => if Machine.signedOf n v < Machine.signedOf n old then v else old
  | .maxI => if Machine.signedOf n old < Machine.signedOf n v then v else old
  | .minN => if v < old then v else old
  | .maxN => if old < v then v else old
/-- What AMO writes, if it writes (R285). -/
def AmoOp.apply (o : AmoOp) (n old v cmp : Nat) : Option Nat :=
  match o with
  | .rmw r => some (r.apply n old v)
  | .swap => some v
  | .cas => if old = cmp then some v else none
end Sys2Proof

namespace Sys2Proof.Machine

/-! ### Effects at a home -/

/-- Is a nest descriptor sound for a claim (R100)? -/
def nestSound (d : Line) : Bool :=
  decide ((wordOf d 1).toNat ≤ 2 ^ 48 ∧ wordOf d 2 ≠ 0 ∧ (wordOf d 2).toNat ≤ 2 ^ 32 ∧ lbits d 3 15 0 ≠ 0
    ∧ lbits d 3 63 16 = 0 ∧ wordOf d 6 = 0 ∧ wordOf d 7 = 0)
/-- The chunk that a claim takes (R100). -/
def claimChunk (d : Line) : Nat :=
  let rem := (wordOf d 1).toNat - (wordOf d 0).toNat
  if rem = 0 then 0 else min rem (max (max (wordOf d 4).toNat 1) (ceilDiv rem (lbits d 3 15 0)))
/-- The descriptor after a claim (R100). -/
def claimed (d : Line) : Line :=
  let c := claimChunk d
  if c = 0 then d else setWord (setWord d 0 (wordOf d 0 + wrap c)) 5 (wordOf d 5 + 1)
/-- What a claim gives: words 0 to 3 go to g12 to g15 (R100). -/
def claimResult (d : Line) : Line :=
  let f := (wordOf d 0).toNat
  let n1 := (wordOf d 2).toNat
  setWord (setWord (setWord (setWord 0 0 (wrap f)) 1 (wrap (claimChunk d))) 2 (wrap (f / n1))) 3 (wrap (f % n1))
/-- SCW at the home: the reservation that the context holds must name the same address (R283). -/
def State.scwPerform (s : State) (k : Slot) (q : Request) : State × ReqStage :=
  match k.resv with
  | none => (s, .done 1)
  | some r =>
    if r.ea ≠ q.ea then (s, .done 2)
    else
      match s.writeAt k.vd q.win q.place 8 (lineOf q.data) with
      | .ok s => (s.handOn k, .done 0)
      | .error .poison => (s.handOn k, .failed Cause.poison.code q.ea false)
      | .error c => (s, .failed c.code q.ea false)
/-- An atomic at its home: one indivisible read and write (R285, R287). -/
def State.amoPerform (s : State) (vd : Nat) (q : Request) (o : AmoOp) (sz : AmoSize) : State × ReqStage :=
  match s.homeFault vd q.win q.place sz.size true false with
  | some c => (s, .failed c.code q.ea false)
  | none =>
    let old := s.peekLine q.place sz.size
    let v := q.data.toNat % 2 ^ sz.bits
    match o.apply sz.bits old.toNat v (q.cmp.toNat % 2 ^ sz.bits) with
    | some new => ((s.poke (kidOf vd q.win) q.place (leBytes sz.size new)).touch q.place, .done old)
    | none => (s.touch q.place, .done old)
/-- A claim on a descriptor in memory (R299). -/
def State.iterPerform (s : State) (vd : Nat) (q : Request) : State × ReqStage :=
  match s.homeFault vd q.win q.place 64 true false with
  | some c => (s, .failed c.code q.ea false)
  | none =>
    let d := s.peekLine q.place 64
    if !(nestSound d) then (s, .failed Cause.illegalOperand.code q.ea false)
    else if claimChunk d = 0 then (s.touch q.place, .done (claimResult d))
    else ((s.poke (kidOf vd q.win) q.place (lineBytes (claimed d))).touch q.place, .done (claimResult d))
/-- Fault of an access to a generation word at its home controller: the member's right, the owner, then the granule (R62, R69, Table 5.9). A cleared granule has a counter line for a write to verify (R70). -/
def State.genFault (s : State) (vd win pa : Nat) (wr : Bool) : Option Cause :=
  if !(s.winAllows win vd wr) then some .windowRevoked
  else
    match s.ownerFault (kidOf vd win) pa with
    | some c => some c
    | none =>
      if s.cleared pa then (if wr && s.isFenced pa then some .freshness else none)
      else if s.poison.contains (pa / 64 * 64) then some .poison
      else if s.isFenced pa then some .freshness
      else if s.badTag.contains (pa / 64) then some .integrity
      else none
/-- What an answer of the media means for an access to a generation word: its granule is looked at once the right and the owner are checked. -/
def State.genMedia (s : State) (vd win pa : Nat) (wr : Bool) (r : Media) : State :=
  if !(s.winAllows win vd wr) || (s.ownerFault (kidOf vd win) pa).isSome then s
  else if s.cleared pa then (if wr then s.counterAnswer pa r else s)
  else if s.poison.contains (pa / 64 * 64) then s
  else s.granuleAnswer (.hbm pa) r
/-- What the media answer to an access to a generation word. -/
def State.genLook (s : State) (vd win pa : Nat) (wr : Bool) : State :=
  match s.answers with
  | [] => s
  | r :: rest => { s with answers := rest }.genMedia vd win pa wr r
/-- GEN of the window that a leaf names. -/
def State.genOf (s : State) (win : Nat) : Word :=
  match KMap.find? s.windows (win - 1) with
  | some w => w.gen
  | none => 0
/-- The release of a window: its generation goes up (R80). Table 3.5 holds GEN in the controllers: no granule is written (DESIGN CHOICE: log entry 90). -/
def State.nextGen (s : State) (win : Nat) : State :=
  { s with windows := KMap.modify s.windows (win - 1) fun w => { w with gen := s.genOf win + 1 } }
/-- A release or an acquire at the home controller of its window (R80, R81). -/
def State.genPerform (s : State) (vd : Nat) (q : Request) (wr : Bool) : State × ReqStage :=
  match s.genFault vd q.win q.place.key wr with
  | some c => (s, .failed c.code q.ea false)
  | none =>
    let s := if wr then s.nextGen q.win else s
    (s, .done (lineOf (s.genOf q.win)))
/-- A read of a request at its home. -/
def State.readPerform (s : State) (vd : Nat) (q : Request) (size : Nat) : State × ReqStage :=
  match s.readAt vd q.win q.place size with
  | .ok v => (s.touch q.place, .done v)
  | .error c => (s, .failed c.code q.ea false)
/-- The effect of a request at its home: the machine after it, and the reply. -/
def State.perform (s : State) (k : Slot) (q : Request) : State × ReqStage :=
  match q.kind with
  | .ld m => s.readPerform k.vd q m.size
  | .zld | .descr => s.readPerform k.vd q 64
  | .ldr | .lrw => s.readPerform k.vd q 8
  | .ldff | .ldfe | .stef | .stff => s.fePerform k.vd q
  | .scw => s.scwPerform k q
  | .amo o sz => s.amoPerform k.vd q o sz
  | .iter => s.iterPerform k.vd q
  | .wrel => s.genPerform k.vd q true
  | .wacq => s.genPerform k.vd q false
  | .spawn | .barr | .ringWord | .ringLine | .ringClaim | .pfree | .pcfg _ | .pwr _ _ _ _ _ | .prd _ _ _ _ | .pcpy _ _ _ => (s, .sent)

/-! ### Completing a parked instruction -/

/-- The wide register that a register field of a line form names (R232). -/
def toW (r : GReg) : WReg := Fin.ofNat 8 r.val
/-- The register that a load form writes. -/
def Slot.load (k : Slot) (m : LdMode) (r : GReg) (v : Line) : Slot :=
  match m with
  | .l => k.setW (toW r) v
  | .b | .q | .h | .w | .bs | .qs | .hs => k.setG r (m.extend (lowWord v))
/-- g12 to g15 after a claim (R100). -/
def Slot.claimRegs (k : Slot) (v : Line) : Slot :=
  (((k.setG 12 (wordOf v 0)).setG 13 (wordOf v 1)).setG 14 (wordOf v 2)).setG 15 (wordOf v 3)
/-- The registers that a reply changes. An acquire discards the lines that ports hold ahead (R276). -/
def Slot.reply (k : Slot) (kind : ReqKind) (reg : Nat) (v : Line) : Slot :=
  let g : GReg := Fin.ofNat 16 reg
  match kind with
  | .ld m => k.load m g v
  | .zld => k.setZ g v
  | .ldr | .ldff | .ldfe | .lrw | .scw | .amo _ _ | .wrel | .wacq => (k.setG g (lowWord v)).dropAhead
  | .stef | .stff => k.dropAhead
  | .iter | .ringClaim => (k.claimRegs v).dropAhead
  | .spawn | .ringWord => (k.setG g (lowWord v)).dropAhead
  | .ringLine => (k.setW (toW g) v).dropAhead
  | .barr => k.dropAhead
  | .prd _ _ _ _ => k.setW (toW g) v
  | .pfree | .pcfg _ | .pwr _ _ _ _ _ | .pcpy _ _ _ | .descr => k
/-- Does a reply push its line on port 2 (R277, R335)? -/
def Slot.replyPushes (k : Slot) (q : Request) : Bool :=
  match q.kind with
  | .ld .l | .ringLine | .prd _ _ _ _ => k.pushes (some (toW (Fin.ofNat 16 q.reg)))
  | _ => false
/-- A reply completes the parked instruction of a slot, if it has come (R98); a descriptor lets its engine command go on (R340). A slot that was cancelled ends instead (R376). -/
def State.repliedAt (s : State) (key : Nat) : State :=
  let k := s.slotAt key
  match k.req with
  | none => s
  | some q =>
    match q.stage with
    | .sent | .queued => s
    | .done v =>
      if k.cancelled then s.endThread key
      else if q.kind = .descr then s.setSlot key { k with mode := .ready, req := none, descr := some v }
      else if k.replyPushes q then
        if s.entryFree key then
          let s' := { s with cur := key }.push v
          let k' := s'.slotAt key
          { s' with cur := s.cur }.completeAt key (if q.kind = ReqKind.ringLine then k'.dropAhead else k').advance
        else s
      else s.completeAt key (k.reply q.kind q.reg v).advance
    | .failed c x fatal =>
      if k.cancelled then s.endThread key
      else if fatal then s.deliver key c x
      else s.trapCodeAt key c x
/-- Has the answer to a context's request landed? -/
def Slot.answered (k : Slot) : Bool :=
  match k.req with
  | some q =>
    match q.stage with
    | .done _ | .failed _ _ _ => true
    | .sent | .queued => false
  | none => false
/-- A context in its save area ends as a thread (R377). -/
def State.dropKept (s : State) (kv : Nat × Slot) : State :=
  let ctx := kv.2.ctx
  let s := (s.leave kv.2).modRegion kv.2.vd kv.2.region fun r => { r with live := r.live - 1 }
  { s with
    saved := s.saved.filter fun x => decide (x.2.ctx ≠ ctx)
    held := s.held.filter fun x => decide (x.2.ctx ≠ ctx)
    orphans := keepLeft s.orphans kv.1 kv.2 }
/-- A cancelled context in its save area ends once the answer to its request has landed, or its request has come to wait (R376, R377). -/
def State.endKept (s : State) (ctx : Nat) : State :=
  match List.find? (fun kv => decide (kv.2.ctx = ctx ∧ ctx ≠ 0) && kv.2.cancelled
      && (kv.2.answered || decide (kv.2.mode = .parked .reply) && !kv.2.awaitsReply)) (s.saved ++ s.held) with
  | some kv => s.dropKept kv
  | none => s
/-- REPLY_ARRIVE: a reply completes the parked instruction and makes its slot ready (R98); for a saved context it waits in the save area (Table 4.12). -/
def execReplyArrive (ctx : Nat) (s : State) : Out :=
  match s.keyOf ctx with
  | some key =>
    let k := s.slotAt key
    if k.mode = .parked .reply ∨ (k.mode = .parked .ring ∧ k.answered) then .next (s.repliedAt key) else .next s
  | none => .next (s.endKept ctx)

/-! ### Links to peers (R37) -/

/-- A Birtil port. -/
def State.birtilPort (s : State) (port : Nat) : BirtilPort := KMap.getD s.birtil port ⟨.lanes8, 0, 0, 0, [], 0, []⟩
/-- Replace a port. -/
def State.setBirtil (s : State) (port : Nat) (b : BirtilPort) : State := { s with birtil := KMap.set s.birtil port b }
/-- Bytes as the payloads of flits, 56 to a flit, filled with zeros (Table 1.10). -/
def payloads (bs : List Byte) : List (List Byte) :=
  (List.range (ceilDiv bs.length 56)).map fun i =>
    let p := (bs.drop (56 * i)).take 56
    p ++ List.replicate (56 - p.length) 0
/-- A port sends flits: they take the next sequence numbers and stay in the replay buffer until they are acknowledged. -/
def BirtilPort.send (b : BirtilPort) (ps : List (List Byte)) : BirtilPort :=
  ps.foldl (fun b p => { b with txSeq := (b.txSeq + 1) % 2 ^ 16, replay := b.replay ++ [(b.txSeq, p)] }) b
/-- What goes to a place crosses its port, when it is a peer's. The spec does not lay messages out in flits; the model sends the address and then the data. -/
def State.cross (s : State) (p : Place) (bs : List Byte) : State :=
  match p with
  | .peer port a => s.setBirtil port ((s.birtilPort port).send (payloads (leBytes 8 a ++ bs)))
  | .sram _ _ | .hbm _ | .host _ => s

/-! ### Sending a request -/

/-- Is a place in the current slot's own bank? -/
def State.ownBank (s : State) (p : Place) : Bool :=
  match p with
  | .sram b _ => decide (b = s.brick)
  | .hbm _ | .host _ | .peer _ _ => false
/-- Is a place in the current slot's own bank, and able to serve it now (R136)? -/
def State.atHand (s : State) (p : Place) : Bool := s.ownBank p && !(s.blocked s.me.ctx p)
/-- Send a request and park until its reply. One to the own bank has arrived there, and begins the wake (R21). -/
def State.send (s : State) (q : Request) : Out :=
  let s := if s.ownBank q.place && s.blocked s.me.ctx q.place then s.stallAt s.me.ctx q.place else s
  ((s.cross q.place (leBytes 8 q.data.toNat)).modSlot s.cur fun k => { k with req := some q }).park .reply
/-- Bytes that a request reaches at its home. -/
def ReqKind.size : ReqKind → Nat
  | .ld m => m.size
  | .zld | .iter | .descr => 64
  | .amo _ sz => sz.size
  | .ldr | .ldff | .ldfe | .stef | .stff | .lrw | .scw | .wrel | .wacq => 8
  | .spawn | .barr | .ringWord | .ringLine | .ringClaim | .pfree | .pcfg _ | .pwr _ _ _ _ _ | .prd _ _ _ _ | .pcpy _ _ _ => 8
/-- Does a request write at its home? -/
def ReqKind.writes : ReqKind → Bool
  | .ldfe | .stef | .stff | .scw | .amo _ _ | .iter | .wrel => true
  | .ld _ | .zld | .ldr | .ldff | .lrw | .wacq | .descr => false
  | .spawn | .barr | .ringWord | .ringLine | .ringClaim | .pfree | .pcfg _ | .pwr _ _ _ _ _ | .prd _ _ _ _ | .pcpy _ _ _ => false
/-- Take the reply of a request that was served at once. -/
def State.served (s : State) (q : Request) : Out :=
  match q.stage with
  | .done v => s.retire fun k => k.reply q.kind q.reg v
  | .failed c x _ => .next (s.trapCodeAt s.cur c x)
  | .sent | .queued => s.send q
/-- Make a request: at once in the own bank, else by a message to its home. -/
def State.request (s : State) (q : Request) : Out :=
  if s.atHand q.place then
    s.looking s.me.vd q.win q.place q.kind.size q.kind.writes false fun s =>
      let (s', st) := s.perform s.me q
      (s'.unstall s.me.ctx).served { q with stage := st }
  else s.send q
/-- A request that has just been made. -/
def mkReq (kind : ReqKind) (ea : Word) (p : Place) (win reg : Nat) (data cmp : Word) : Request :=
  ⟨kind, ea, p, win, reg, data, cmp, .sent⟩

/-- Is the port of a peer place down (R37)? -/
def State.linkDown (s : State) (p : Place) : Bool :=
  match p with
  | .peer port _ =>
    match KMap.find? s.birtil port with
    | some b => decide (b.link = .down)
    | none => false
  | .sram _ _ | .hbm _ | .host _ => false
/-- The request that a context has sent and its home has not yet served, when it is of a wanted kind. One to a peer whose port is down gets no answer. -/
def State.sentReq (s : State) (ctx : Nat) (want : ReqKind → Bool) : Option (Slot × Request) :=
  match s.ctxOf ctx with
  | some k =>
    match k.req with
    | some q => if q.stage = .sent && want q.kind && !(s.linkDown q.place) then some (k, q) else none
    | none => none
  | none => none
/-- What the media answer to a request at its home. -/
def State.mediaFor (s : State) (k : Slot) (q : Request) (r : Media) : State :=
  match q.kind with
  | .wrel | .wacq => s.genMedia k.vd q.win q.place.key q.kind.writes r
  | _ => s.media k.vd q.win q.place q.kind.size q.kind.writes false r
/-- Serve a context's request at its home when the memory there can serve, after what the media answer. -/
def State.serveAt (s : State) (k : Slot) (q : Request) (r : Media) : State :=
  s.inTurn k.ctx q.place fun s =>
    let (s, st) := (s.mediaFor k q r).perform k q
    s.modCtx k.ctx fun k => k.setStage st
/-- Is the request a read? -/
def ReqKind.isRead : ReqKind → Bool
  | .ld _ | .zld | .ldr | .wacq | .descr => true
  | _ => false
/-- Does the request read and write at once at its home? -/
def ReqKind.isAtomic : ReqKind → Bool
  | .amo _ _ | .iter | .wrel => true
  | _ => false
/-- A cancelled context whose request now waits at its home ends, in its slot or saved: its wait is withdrawn (R376, R377). -/
def State.endWaiting (s : State) (ctx : Nat) : State :=
  match s.ctxOf ctx, s.keyOf ctx with
  | some k, some key => if k.cancelled && decide (k.mode = .parked .reply) && !k.awaitsReply then s.endThread key else s
  | some _, none => s.endKept ctx
  | none, _ => s
/-- LOAD_AT_HOME (R143, R69). -/
def execLoadAtHome (ctx : Nat) (r : Media) (s : State) : Out :=
  match s.sentReq ctx ReqKind.isRead with
  | some (k, q) => .next (s.serveAt k q r)
  | none => .next s

/-- Join the queue of a full/empty word at its home; STFF waits for nothing (R142). -/
def State.feArrive (s : State) (k : Slot) (q : Request) : State :=
  match q.kind with
  | .stff => (s.feServe k q).feWake (q.place.key / 8 * 8)
  | _ => (s.modCtx k.ctx fun k => k.setStage .queued).feJoin (q.place.key / 8 * 8) k.ctx
/-- FULL_EMPTY_AT_HOME (R142, R281). -/
def execFullEmptyAtHome (ctx : Nat) (r : Media) (s : State) : Out :=
  match s.sentReq ctx ReqKind.isFullEmpty with
  | some (k, q) =>
    .next (s.inTurn ctx q.place fun s => ((s.mediaFor k q r).feArrive k q).endWaiting ctx)
  | none => .next s
/-- Join or head the reservation queue of a word (R282). -/
def State.resvArrive (s : State) (k : Slot) (q : Request) : State :=
  let key := q.place.key
  match KMap.find? s.resvq key with
  | some w =>
    { s with resvq := KMap.set s.resvq key { w with waiters := w.waiters ++ [k.ctx] } }.modCtx k.ctx fun k =>
      k.setStage .queued
  | none => s.resvRun key [k.ctx]
/-- RESERVATION_AT_HOME (R282, R283). -/
def execReservationAtHome (ctx : Nat) (r : Media) (s : State) : Out :=
  match s.sentReq ctx ReqKind.isResv with
  | some (k, q) =>
    if q.kind = .lrw then
      .next (s.inTurn ctx q.place fun s => ((s.mediaFor k q r).resvArrive k q).endWaiting ctx)
    else .next (s.serveAt k q r)
  | none => .next s
/-- RESERVATION_TIMEOUT: a reservation that has headed its queue for 32,768 cycles is handed on unwritten (R284). -/
def execReservationTimeout (g : Nat) (s : State) : Out :=
  match KMap.find? s.resvq g with
  | some w =>
    if w.since + 32768 ≤ s.cycle then .next ((s.modCtx w.holder fun k => { k with resv := none }).handOnWord g)
    else .next s
  | none => .next s

/-! ### Stores and remote updates on their way -/

/-- Change a message. -/
def State.modMsg (s : State) (id : Nat) (f : Msg → Msg) : State :=
  { s with msgs := s.msgs.map fun m => if m.id = id then f m else m }
/-- Must a write of a slot be performed before a later one of it, when both are under way? Stores on one path of a die (R153), stores to one line (R145), updates of one line (R286), and writes of one word (R143). One that a demand fault holds has no place yet: it is known by its address, and by the location that its address names once it names one. -/
def State.msgBefore (s : State) (x m : Msg) : Bool :=
  let b := m.slotKey / 8
  let byAddr := decide (x.space = m.space) && (x.demand.isSome || m.demand.isSome)
  let ax := canonical b x.ea
  let am := canonical b m.ea
  let atP := fun (f : Place → Place → Bool) => match s.msgPlace b x, s.msgPlace b m with
    | some p, some q => f p q
    | _, _ => false
  let line := (byAddr && decide (ax / 64 = am / 64)) || atP fun p q => decide (p.granule = q.granule)
  let word := (byAddr && sameWord ax x.size am m.size) || atP fun p q => sameWord p.key x.size q.key m.size
  let store := decide (x.kind = .store)
  if store = decide (m.kind = .store) then
    line || (store && decide (x.scope = .die ∧ m.scope = .die ∧ x.home = m.home))
  else word
/-- Does a buffered store, not yet departed, share a word with a later write of its slot (R143)? -/
def State.storesBefore (s : State) (k : Slot) (m : Msg) : Bool :=
  let b := m.slotKey / 8
  k.sb.any fun e => decide (e.id < m.id ∧ ¬ e.departed) &&
    (sameWord (canonical b e.ea) e.size (canonical b m.ea) m.size
      || match s.entryPlace k b e with
        | some q => sameWord q.key e.size m.place.key m.size
        | none => false)
/-- Has every earlier write of the message's slot that must come before it been performed (R143, R145, R153, R286)? -/
def State.msgFree (s : State) (m : Msg) : Bool :=
  let before := s.msgs.filter fun x => decide (x.ctx = m.ctx ∧ x.id < m.id ∧ ¬ x.performed)
  let buffered := match s.ctxOf m.ctx with
    | some k => decide (m.kind ≠ .store) && s.storesBefore k m
    | none => false
  m.demand.isNone && !m.performed && !buffered && before.all fun x => !(s.msgBefore x m)
/-- A write is not performed: its deferred error goes to the writer's fault domain (Table 5.9), and it counts as acknowledged by its home. -/
def State.msgError (s : State) (m : Msg) (c : Cause) : State :=
  (s.modMsg m.id fun m => { m with performed := true }).deferred m.vd m.region m.slotKey c m.ea
/-- The bytes that a remote update writes (R286), or its fault. -/
def State.updatePerform (s : State) (m : Msg) (o : RmwOp) (sz : AmoSize) : Except Cause State :=
  match s.homeFault m.vd m.win m.place sz.size true false with
  | some c => .error c
  | none =>
    let new := o.apply sz.bits (s.peekLine m.place sz.size).toNat (m.data.toNat % 2 ^ sz.bits)
    .ok ((s.poke (kidOf m.vd m.win) m.place (leBytes sz.size new)).touch m.place)
/-- A message is performed at its home, in the order of arrival, or its error is deferred (R154). -/
def State.msgPerform (s : State) (m : Msg) (r : Media) : State :=
  if s.linkDown m.place then s.msgError m .linkLost
  else s.inTurn m.id m.place fun s =>
    let s := s.media m.vd m.win m.place m.size true (decide (m.size = 64)) r
    let done := match m.kind with
      | .store => s.writeAt m.vd m.win m.place m.size m.data
      | .rupd o sz => s.updatePerform m o sz
    match done with
    | .ok s => s.modMsg m.id fun m => { m with performed := true }
    | .error c => s.msgError m c
/-- STORE_AT_HOME (R154). -/
def execStoreAtHome (id : Nat) (r : Media) (s : State) : Out :=
  match s.msgs.find? fun m => decide (m.id = id ∧ m.kind = .store) with
  | some m => if s.msgFree m then .next (s.msgPerform m r) else .next s
  | none => .next s
/-- ATOMIC_AT_HOME (R285, R286): `id` is the context that an atomic parks, or the number of a remote update. -/
def execAtomicAtHome (id : Nat) (r : Media) (s : State) : Out :=
  match s.sentReq id ReqKind.isAtomic with
  | some (k, q) => .next (s.serveAt k q r)
  | none =>
    match s.msgs.find? fun m => decide (m.id = id ∧ m.kind ≠ .store) with
    | some m => if s.msgFree m then .next (s.msgPerform m r) else .next s
    | none => .next s
/-- An acknowledgement frees a store-buffer entry or lowers ACKCNT (R145, R151). -/
def Slot.acked (k : Slot) (m : Msg) : Slot :=
  { k with
    sb := k.sb.filter fun e => decide (e.id ≠ m.id)
    ackcnt := if m.kind = .store ∧ m.scope = .die then k.ackcnt else k.ackcnt - 1 }
/-- Forget ended threads that have neither stores nor ring entries left. -/
def State.dropOrphans (s : State) : State :=
  { s with orphans := s.orphans.filter fun kv => decide (kv.2.sb ≠ [] ∨ kv.2.ringq ≠ []) }
/-- ACK_ARRIVE (R145, R111). -/
def execAckArrive (id : Nat) (s : State) : Out :=
  match s.msgs.find? fun m => decide (m.id = id ∧ m.performed) with
  | some m =>
    let s := { s with msgs := s.msgs.filter fun x => decide (x.id ≠ id) }
    let s := s.modCtx m.ctx fun k => k.acked m
    .next s.dropOrphans
  | none => .next s

/-- The brick on which a context's stores are issued: that of its slot, else that of its save area or of the slot it left. -/
def State.homeKey (s : State) (ctx : Nat) : Option Nat :=
  let f := fun (kv : Nat × Slot) => decide (kv.2.ctx = ctx ∧ ctx ≠ 0)
  match List.find? f s.slots with
  | some kv => some kv.1
  | none =>
    (List.find? f (s.saved ++ s.held ++ s.orphans)).map fun kv => kv.1 % 2 ^ 18 / 16
/-- The slot that a notice about a context's own work names: the one in which it stands or which it left; all ones for one that waits to arrive, which has none (Table 4.13; DESIGN CHOICE: log entry 91). -/
def State.whereKey (s : State) (ctx : Nat) : Nat := (s.homeKey ctx).getD whereEngine.toNat
/-- May an entry with a place depart (R153, R154)? Its destination is compared with those that earlier entries departed to. -/
def State.canDepart (s : State) (k : Slot) (e : SbEntry) (brick : Nat) (p : Place) : Bool :=
  let sc := scopeFrom brick p
  let earlier := k.sb.takeWhile fun x => decide (x.id ≠ e.id)
  let fine := fun (x : SbEntry) => match x.place with
    | some y => decide (scopeFrom brick y ≠ .die ∨ x.home = s.homeBrick p)
    | none => false
  if sc = .die then earlier.all fine else decide (k.ackcnt < 65535)
/-- Change an entry of a slot's store buffer. -/
def Slot.modSb (k : Slot) (id : Nat) (f : SbEntry → SbEntry) : Slot :=
  { k with sb := k.sb.map fun e => if e.id = id then f e else e }
/-- Translate a store-buffer entry, once memory serves its walk (R21); a fault that translation meets is a deferred error and frees the entry, and a demand fault holds it (R152, R133, Table 5.9). -/
def State.translateEntry (s : State) (key : Nat) (k : Slot) (e : SbEntry) : State :=
  let b := key / 8
  let refuse := fun (s : State) (c : Cause) =>
    (s.modCtx k.ctx fun k => { k with sb := k.sb.filter fun x => decide (x.id ≠ e.id) }).deferred k.vd k.region key c e.ea
  match s.walk ⟨e.id, b, k.vd, e.space, e.level⟩ e.ea with
  | (s, some _) => s
  | (s, none) =>
    match s.resolve b k.vd e.space e.level e.ea .write with
    | .fault c => refuse s c
    | .fatal => refuse s .hypervisor
    | .demand ipa =>
      let d := s.nextId
      (s.postDemand k.vd ipa e.ea (.store k.ctx e.id)).modCtx k.ctx fun k => k.modSb e.id fun e => { e with demand := some d }
    | .ok p win =>
      (s.translated b k.vd e.space e.level e.ea .write).modCtx k.ctx fun k =>
        k.modSb e.id fun e => { e with place := some p, win := win }
/-- Do two entries name one 4 KiB virtual page of a space? -/
def SbEntry.samePage (e f : SbEntry) : Bool := decide (e.space = f.space ∧ e.ea.toNat / 4096 = f.ea.toNat / 4096)
/-- Does a demand fault hold a store-buffer entry, or an earlier entry to its page (R152)? -/
def Slot.heldBack (k : Slot) (e : SbEntry) : Bool :=
  e.demand.isSome || (k.sb.takeWhile fun x => decide (x.id ≠ e.id)).any fun x => x.demand.isSome && x.samePage e
/-- Translate the entry of a number, unless it is held back (R152). -/
def State.translateNext (s : State) (key ctx id : Nat) : State :=
  match s.ctxOf ctx with
  | none => s
  | some k =>
    match k.sb.find? fun e => decide (e.id = id) with
    | none => s
    | some e => if k.heldBack e then s else s.translateEntry key k e
/-- The oldest four untranslated entries of a context are translated, in program order (R152). -/
def State.translateOldest (s : State) (key : Nat) (k : Slot) : State :=
  (((k.sb.filter fun e => e.place.isNone).take 4).map (·.id)).foldl (fun s id => s.translateNext key k.ctx id) s
/-- A translated store-buffer entry departs if its test holds (R153). -/
def State.depart (s : State) (key : Nat) (k : Slot) (e : SbEntry) (p : Place) : State :=
  let b := key / 8
  if s.canDepart k e b p then
    let sc := scopeFrom b p
    let home := s.homeBrick p
    let m : Msg := ⟨e.id, k.ctx, key, k.vd, k.region, .store, e.ea, e.size, e.data, p, e.win, home, sc, e.level, e.space, none, false⟩
    let s := { s with msgs := s.msgs ++ [m] }.cross p (leBytes e.size e.data.toNat)
    s.modCtx k.ctx fun k =>
      { (k.modSb e.id fun e => { e with home := home, departed := true }) with
        ackcnt := if sc = .die then k.ackcnt else k.ackcnt + 1 }
  else s
/-- The oldest entry of a context that has not departed goes, once it has a destination. -/
def State.departOldest (s : State) (key ctx : Nat) : State :=
  match s.ctxOf ctx with
  | none => s
  | some k =>
    match k.sb.find? fun e => !e.departed with
    | none => s
    | some e =>
      match e.place with
      | some p => s.depart key k e p
      | none => s
/-- STORE_DEPART (R152, R153): the oldest entries are translated, and the oldest that has not departed goes if it can. -/
def execStoreDepart (ctx : Nat) (s : State) : Out :=
  match s.ctxOf ctx, s.homeKey ctx with
  | some k, some key => if s.storesStay ctx then .next s else .next ((s.translateOldest key k).departOldest key ctx)
  | _, _ => .next s

/-- Send a remote update to the home that translation names (R286, R287): the machine after it. It waits for memory that cannot serve its walk (R21). -/
def State.updateGo (s : State) (brick : Nat) (m : Msg) : State :=
  match s.walk ⟨m.id, brick, m.vd, m.space, m.level⟩ m.ea with
  | (s, some _) => s.modMsg m.id fun m => { m with demand := some 0 }
  | (s, none) =>
    match s.resolve brick m.vd m.space m.level m.ea .rw with
    | .fault c => s.msgError m c
    | .fatal => s.msgError m .hypervisor
    | .demand ipa =>
      let d := s.nextId
      (s.postDemand m.vd ipa m.ea (.update m.id)).modMsg m.id fun m => { m with demand := some d }
    | .ok p win =>
      let s := s.translated brick m.vd m.space m.level m.ea .rw
      match p with
      | .host _ => s.msgError m .illegalOperand
      | .sram _ _ | .hbm _ | .peer _ _ =>
        (s.cross p (leBytes 8 m.data.toNat)).modMsg m.id fun m =>
          { m with place := p, win := win, home := s.homeBrick p, scope := scopeFrom brick p, demand := none }
/-- The remote updates whose walks memory can serve again go on. -/
def State.updatesOn (s : State) : State :=
  (s.msgs.filter fun m => decide (m.demand = some 0 ∧ ¬ m.performed)).foldl (fun s m =>
    if s.stallq.any fun e => decide (e.token = m.id) && s.blocked m.id e.place then s else s.updateGo (m.slotKey / 8) m) s
/-- A remote update to the own bank is performed there at once when nothing comes before it, so that no later load of the slot has to wait for it (R136, R143). -/
def State.updateHere (s : State) (id : Nat) : State :=
  match s.msgs.find? fun m => decide (m.id = id) with
  | some m =>
    if s.ownBank m.place && s.msgFree m then
      let r := s.answers.headD .sound
      { s with answers := s.answers.tail }.msgPerform m r
    else s
  | none => s

end Sys2Proof.Machine
end

