-- ==== Sys2Proof/Machine/MemInstr.lean ====
section
/-!
DEFINITION. Loads, stores, full/empty accesses, reservations, atomics, remote updates, fences, prefetch and windows (chapter 13: R275 to R293), and lines of z registers (R324).
-/
namespace Sys2Proof.Machine

/-! ### Checks and waits -/

/-- The checks of an address before translation: its range, then its alignment (R275, R117, R118). -/
def addrFault (brick : Nat) (ea : Word) (align : Nat) : Option Cause :=
  if (bankOf brick ea.toNat).isNone && !(inVspace ea.toNat) then some .address
  else if ea.toNat % align ≠ 0 then some .alignment
  else none
/-- Check an address and find its place (R275). -/
def State.reach (s : State) (ea : Word) (align : Nat) (k : Access) (go : State → Place → Nat → Out) : Out :=
  match addrFault s.brick ea align with
  | some c => s.trap c ea
  | none => s.resolved ea k go
/-- "Drains" of Table 13.1 (R156). -/
def State.drained (s : State) (go : Out) : Out := if s.me.sb ≠ [] then s.waitFor .drained else go
/-- "Drains + ACK" of Table 13.1 (R145). -/
def State.drainedAck (s : State) (go : Out) : Out :=
  if s.me.sb ≠ [] ∨ s.me.ackcnt ≠ 0 then s.waitFor .drainedAck else go
/-- "Drains + ACK at pkg or sys" of Table 13.1, for the home of a place. -/
def State.drainedFor (s : State) (p : Place) (go : Out) : Out :=
  if scopeFrom s.brick p = .die then s.drained go else s.drainedAck go
/-- An access that only its home can answer waits behind the slot's own buffered stores and remote updates to its word (R143, R155). -/
def State.behindOwn (s : State) (p : Place) (ea : Word) (size : Nat) (go : Out) : Out :=
  if s.wordOpen s.me s.brick p ea size then go else s.waitFor (.wordClear p ea.toNat size)
/-- Is the place in host memory? -/
def Place.isHost : Place → Bool
  | .host _ => true
  | .sram _ _ | .hbm _ | .peer _ _ => false

/-! ### Loads and stores (R277 to R279, R324) -/

/-- A load of a form: forwarded from the store buffer, or made at its home (R277, R155). -/
def State.loadFrom (s : State) (q : Request) (size : Nat) : Out :=
  match s.forward s.me s.brick q.place q.ea size with
  | .bytes v => s.served { q with stage := .done v }
  | .wait => s.waitFor (.loadClear q.place q.ea.toNat size)
  | .clear => s.request q
/-- A line load into w7 while port 2 is bound: the line loaded is pushed (R277). -/
def State.loadPush (s : State) (q : Request) : Out :=
  let give := fun (s : State) (v : Line) => (s.push v).retire id
  match s.forward s.me s.brick q.place q.ea 64 with
  | .bytes v => give s v
  | .wait => s.waitFor (.loadClear q.place q.ea.toNat 64)
  | .clear =>
    if s.atHand q.place then
      s.looking s.me.vd q.win q.place 64 false false fun s =>
        match s.readAt s.me.vd q.win q.place 64 with
        | .ok v => give ((s.touch q.place).unstall s.me.ctx) v
        | .error c => s.trap c q.ea
    else s.send q
/-- LD (R277). -/
def execLd (m : LdMode) (r b : GReg) (i : BitVec 14) (s : State) : Out :=
  let k := s.me
  let ea := eaM k b i
  let body := s.reach ea m.size .read fun s p win => s.loadFrom (mkReq (.ld m) ea p win r.val 0 0) m.size
  if m = .l then
    s.wChecks [] (some (toW r)) <|
      if k.pushes (some (toW r)) then
        s.pushGuard (some (toW r)) <| s.reach ea 64 .read fun s p win => s.loadPush (mkReq (.ld m) ea p win r.val 0 0)
      else body
  else body
/-- ST of a value: checked at issue, then buffered (R278). -/
def State.storeValue (s : State) (ea : Word) (size : Nat) (v : Line) : Out :=
  match addrFault s.brick ea size with
  | some c => s.trap c ea
  | none => if s.entryFree s.cur then (s.buffer ea size (firstBytes v size)).retire id
    else s.waitFor (.storeEntry s.me.sb.length)
/-- ST (R278). -/
def execSt (m : StMode) (r b : GReg) (i : BitVec 14) (s : State) : Out :=
  let k := s.me
  let ea := eaM k b i
  let w := toW r
  if m = .l then
    s.wChecks [w] none <|
      match addrFault s.brick ea 64 with
      | some c => s.trap c ea
      | none =>
        if !(s.entryFree s.cur) then s.waitFor (.storeEntry k.sb.length)
        else s.popping (k.popsOf [w]) fun popped s' => (s'.buffer ea 64 (srcValue k popped w)).retire id
  else s.storeValue ea m.size (lineOf (k.getG r))
/-- ST of an immediate (R278). -/
def execStImm (m : StiMode) (v : BitVec 4) (b : GReg) (i : BitVec 14) (s : State) : Out :=
  s.storeValue (eaM s.me b i) m.size (v.setWidth 512)
/-- LDR: LD.w with an acquire (R279). -/
def execLdr (r b : GReg) (i : BitVec 14) (s : State) : Out :=
  let ea := eaM s.me b i
  s.reach ea 8 .read fun s p win => s.loadFrom (mkReq .ldr ea p win r.val 0 0) 8
/-- ZLD (R324). -/
def execZld (z : ZReg) (g : GReg) (i : BitVec 11) (s : State) : Out :=
  let ea := eaZ s.me g i
  s.reach ea 64 .read fun s p win => s.loadFrom (mkReq .zld ea p win z.val 0 0) 64
/-- ZST (R324). -/
def execZst (z : ZReg) (g : GReg) (i : BitVec 11) (s : State) : Out :=
  let k := s.me
  if !(k.zValid z) then s.trap .stale (zXval z) else s.storeValue (eaZ k g i) 64 k.z[z]
/-- ZSET (R325): word `w` of a z register takes a g register; the old line must be valid. -/
def execZset (z : ZReg) (g : GReg) (w : BitVec 3) (s : State) : Out :=
  let k := s.me
  if !(k.zValid z) then s.trap .stale (zXval z)
  else s.retire fun k => k.setZ z (setWord k.z[z] w.toNat (k.getG g))
/-- ZGET (R325). -/
def execZget (z : ZReg) (g : GReg) (w : BitVec 3) (s : State) : Out :=
  let k := s.me
  if !(k.zValid z) then s.trap .stale (zXval z) else s.retire fun k => k.setG g (wordOf k.z[z] w.toNat)

/-! ### Full/empty words (R280, R281) -/

/-- A full/empty access of the current slot: served at once in the own bank when its word is ready and no earlier waiter is; else it waits in the queue of the word, or goes to its home. -/
def State.fullEmpty (s : State) (q : Request) : Out :=
  let key := q.place.key / 8 * 8
  if s.atHand q.place then
    s.looking s.me.vd q.win q.place 8 q.kind.writes false fun s =>
      if q.kind = .stff ∨ (s.feReady s.me q ∧ (s.feFirst key (KMap.getD s.feq key [])).isNone) then
        let (s', st) := s.fePerform s.me.vd q
        (s'.feWake key).served { q with stage := st }
      else
        let c := s.me.ctx
        let s := { s with feq := KMap.set s.feq key (KMap.getD s.feq key [] ++ [c]) }
        (s.modSlot s.cur fun k => { k with req := some { q with stage := .queued } }).park .reply
  else s.send q
/-- A full/empty load (R280). -/
def State.feLoad (s : State) (kind : ReqKind) (acc : Access) (r b : GReg) (i : BitVec 14) : Out :=
  let ea := eaM s.me b i
  s.reach ea 8 acc fun s p win =>
    if p.isHost then s.trap .illegalOperand ea
    else s.behindOwn p ea 8 <| s.fullEmpty (mkReq kind ea p win r.val 0 0)
/-- A full/empty store: a release, not buffered (R281). -/
def State.feStore (s : State) (kind : ReqKind) (v : Word) (b : GReg) (i : BitVec 14) : Out :=
  let ea := eaM s.me b i
  s.reach ea 8 .rw fun s p win =>
    if p.isHost then s.trap .illegalOperand ea
    else s.drainedFor p <| s.behindOwn p ea 8 <| s.fullEmpty (mkReq kind ea p win 0 v 0)
/-- LDFF (R280). -/
def execLdff (r b : GReg) (i : BitVec 14) (s : State) : Out := s.feLoad .ldff .read r b i
/-- LDFE (R280): both RD and W are needed. -/
def execLdfe (r b : GReg) (i : BitVec 14) (s : State) : Out := s.feLoad .ldfe .rw r b i
/-- STEF (R281). -/
def execStef (r b : GReg) (i : BitVec 14) (s : State) : Out := s.feStore .stef (s.me.getG r) b i
/-- STEF of an immediate (R281). -/
def execStefImm (v : BitVec 4) (b : GReg) (i : BitVec 14) (s : State) : Out := s.feStore .stef (v.setWidth 64) b i
/-- STFF (R281). -/
def execStff (r b : GReg) (i : BitVec 14) (s : State) : Out := s.feStore .stff (s.me.getG r) b i
/-- STFF of an immediate (R281). -/
def execStffImm (v : BitVec 4) (b : GReg) (i : BitVec 14) (s : State) : Out := s.feStore .stff (v.setWidth 64) b i

/-! ### Reservations (R282, R283) -/

/-- Ask for a reservation in the own bank, or send the request to its home (R282). -/
def State.reserve (s : State) (q : Request) : Out :=
  let key := q.place.key
  if s.atHand q.place then
    match KMap.find? s.resvq key with
    | some w =>
      let s := { s with resvq := KMap.set s.resvq key { w with waiters := w.waiters ++ [s.me.ctx] } }
      (s.modSlot s.cur fun k => { k with req := some { q with stage := .queued } }).park .reply
    | none =>
      s.looking s.me.vd q.win q.place 8 false false fun s =>
        match s.readPerform s.me.vd q 8 with
        | (s', .done v) =>
          let s' := { s' with resvq := KMap.set s'.resvq key ⟨s.me.ctx, s.cycle, []⟩ }
          s'.retire fun k => { (k.reply .lrw q.reg v) with resv := some ⟨key, q.ea⟩ }
        | (s', st) => s'.served { q with stage := st }
  else s.send q
/-- LRW (R282). -/
def execLrw (r b : GReg) (i : BitVec 14) (s : State) : Out :=
  let ea := eaM s.me b i
  s.reach ea 8 .read fun s p win =>
    if p.isHost then s.trap .illegalOperand ea
    else
      let s := s.handOn s.me
      s.drained <| s.behindOwn p ea 8 <| s.reserve (mkReq .lrw ea p win r.val 0 0)
/-- SCW (R283). -/
def execScw (r b : GReg) (i : BitVec 14) (s : State) : Out :=
  let ea := eaM s.me b i
  s.reach ea 8 .rw fun s p win =>
    s.drainedFor p <| s.behindOwn p ea 8 <| s.request (mkReq .scw ea p win r.val (s.me.getG r) 0)

/-! ### Atomics and remote updates (R285 to R287), ITER (R299) -/

/-- AMO (R285). -/
def execAmo (o : AmoOp) (sz : AmoSize) (d a b c : GReg) (s : State) : Out :=
  let k := s.me
  let ea := k.getG b
  s.reach ea sz.size .rw fun s p win =>
    if p.isHost then s.trap .illegalOperand ea
    else s.drainedFor p <| s.behindOwn p ea sz.size <|
      s.request (mkReq (.amo o sz) ea p win d.val (k.getG a) (k.getG c))
/-- RUPD: the update leaves at once and is counted in ACKCNT (R286). A deferred error that it meets at once can end the slot's own thread (R287, R115). -/
def execRupd (o : RmwOp) (sz : AmoSize) (a b : GReg) (s : State) : Out :=
  let k := s.me
  let ea := k.getG b
  match addrFault s.brick ea sz.size with
  | some c => s.trap c ea
  | none =>
    if 65535 ≤ k.ackcnt then s.waitFor .ackRoom
    else
      let (i, s) := s.fresh
      let m : Msg := ⟨i, k.ctx, s.cur, k.vd, k.region, .rupd o sz, ea, sz.size, lineOf (k.getG a), .host 0, 0, none, .sys,
        k.level, k.space, none, false⟩
      let s := ({ s with msgs := s.msgs ++ [m] }.updateGo s.brick m).updateHere m.id
      if s.me.ctx = k.ctx then s.retire fun k => { k with ackcnt := k.ackcnt + 1 } else .next s
/-- ITER (R299). -/
def execIter (b : GReg) (i : BitVec 14) (s : State) : Out :=
  let ea := eaM s.me b i
  s.reach ea 64 .rw fun s p win =>
    match p with
    | .host _ | .peer _ _ => s.trap .illegalOperand ea
    | .sram _ _ | .hbm _ =>
      s.drainedFor p <| s.behindOwn p ea 64 <| s.request (mkReq .iter ea p win 0 0 0)
/-- The three registers of NEST make a sound descriptor (R298). -/
def nestOk (n0 n1 w : Word) : Bool :=
  decide (n1 ≠ 0 ∧ n1.toNat ≤ 2 ^ 32 ∧ bits w 15 0 ≠ 0 ∧ n0.toNat * n1.toNat ≤ 2 ^ 48)
/-- The descriptor that NEST builds (R298, Table 4.7). -/
def nestLine (n0 n1 w : Word) : Line :=
  setWord (setWord (setWord (setWord 0 1 (n0 * n1)) 2 n1) 3 (wrap (bits w 15 0))) 4 (wrap (bits w 63 16))
/-- Register `n` after another. -/
def GReg.plus (r : GReg) (n : Nat) : GReg := Fin.ofNat 16 (r.val + n)
/-- NEST (R298). -/
def execNest (r b : GReg) (i : BitVec 14) (s : State) : Out :=
  let k := s.me
  let ea := eaM k b i
  let n0 := k.getG r
  let n1 := k.getG (GReg.plus r 1)
  let w := k.getG (GReg.plus r 2)
  if !(nestOk n0 n1 w) then s.trap .illegalOperand ea else s.storeValue ea 64 (nestLine n0 n1 w)

/-! ### Fences (R288) -/

/-- FENCE.die (R288). -/
def execFenceDie (s : State) : Out := s.drained <| s.retire Slot.dropAhead
/-- FENCE.pkg (R288). -/
def execFencePkg (s : State) : Out := s.drainedAck <| s.retire Slot.dropAhead
/-- FENCE.sys also empties the brick's instruction cache (R288, R230). -/
def execFenceSys (s : State) : Out := s.drainedAck <| (s.emptyICache s.brick).retire Slot.dropAhead

/-! ### Barriers that a slot may name (R167) -/

/-- Does the partition hold the slot number that a barrier belongs to? -/
def State.holdsBarrier (s : State) (vd n : Nat) : Bool :=
  match s.vd? vd with
  | some v => v.slotNums.contains (n / 16)
  | none => false
/-- Key of a barrier of a brick. -/
def barrierKey (b n : Nat) : Nat := 128 * b + n
/-- Key of a saved barrier of a partition (R170). -/
def savedBarrierKey (b n vd : Nat) : Nat := 16 * barrierKey b n + vd
/-- A barrier. -/
def State.barrier (s : State) (b n : Nat) : Barrier := KMap.getD s.barriers (barrierKey b n) Barrier.off
/-- Change a barrier. -/
def State.modBarrier (s : State) (b n : Nat) (f : Barrier → Barrier) : State :=
  { s with barriers := KMap.set s.barriers (barrierKey b n) (f (s.barrier b n)) }
/-- Are a partition's barriers of a slot number on the bricks now? -/
def State.barriersIn (s : State) (vd n : Nat) : Bool := decide (s.residentOf (n / 16) = some vd)
/-- The barrier of a partition: the live one, or its saved image (R168). -/
def State.barrierOf (s : State) (vd b n : Nat) : Barrier :=
  if s.barriersIn vd n then s.barrier b n else KMap.getD s.barrierImages (savedBarrierKey b n vd) Barrier.off
/-- Change the barrier of a partition, live or saved. -/
def State.modBarrierOf (s : State) (vd b n : Nat) (f : Barrier → Barrier) : State :=
  if s.barriersIn vd n then s.modBarrier b n f
  else { s with barrierImages := KMap.set s.barrierImages (savedBarrierKey b n vd) (f (s.barrierOf vd b n)) }
/-- An operation is bound to a barrier (R168). -/
def State.bind (s : State) (vd b n : Nat) : State := s.modBarrierOf vd b n fun x => { x with bound := x.bound + 1 }

/-! ### Tier prefetch (R289, R290) -/

/-- Is the request word of PREF.hbm sound, barrier aside? -/
def prefSound (v : Word) : Bool :=
  decide (bits v 63 39 = 0 ∧ bits v 5 0 = 0 ∧ bits v 19 0 + 64 * (bits v 31 20 + 1) ≤ 2 ^ 20)
/-- The first fault of a prefetch's destination: a sub-bank that is not held or not allocated (R289, R119). -/
def State.prefDestFault (s : State) (vd b : Nat) (v : Word) : Option (Cause × Nat) :=
  let lo := bits v 19 0
  let n := bits v 31 20 + 1
  let one := fun (sb : Nat) =>
    if !(s.holdsSub vd sb) || decide ((s.subBank b sb).power = .unavailable) then some (Cause.bank, max lo (sb * 2 ^ 16))
    else if !(s.subBank b sb).alloc then some (Cause.sleep, max lo (sb * 2 ^ 16))
    else none
  (List.range 16).findSome? fun sb => if lo / 2 ^ 16 ≤ sb ∧ sb ≤ (lo + 64 * n - 1) / 2 ^ 16 then one sb else none
/-- PREF.hbm (R289). -/
def execPrefHbm (r b : GReg) (i : BitVec 14) (s : State) : Out :=
  let k := s.me
  let ea := eaM k b i
  let v := k.getG r
  let bar := bits v 38 32
  if !(prefSound v) || !(s.holdsBarrier k.vd bar) || decide ((s.barrier s.brick bar).target = 0) then
    s.trapOpen .illegalOperand
  else
    match addrFault s.brick ea 64 with
    | some c => s.trap c ea
    | none =>
      match s.prefDestFault k.vd s.brick v with
      | some (c, a) => s.trap c (wrap a)
      | none =>
        s.drainedAck <|
          if 16 ≤ k.prefs then s.waitFor .prefetchPlace
          else
            let (id, s) := s.fresh
            let c : Cmd := ⟨id, .pref, k.vd, k.ctx, s.brick, s.cur % 8, k.region, k.level, k.space, 0, 0, lineOf v,
              wrap (bits v 19 0), ea, some bar, .moving, 0, 0, 0, none, [], none⟩
            let s := { s with cmds := s.cmds ++ [c] }.bind k.vd s.brick bar
            s.retire fun k => { k.dropAhead with prefs := k.prefs + 1 }
/-- Start the wake that one 128-byte block asks for, when it can be reached (R290); its tables have been walked. -/
def State.wakeAt (s : State) (ea : Word) : State :=
  let k := s.me
  match s.resolve s.brick k.vd k.space k.level ea .read with
  | .ok (.sram b off) _ => if s.holdsSub k.vd (off / 2 ^ 16) then s.wake (.sram b off) else s
  | .ok (.hbm pa) _ => (s.translated s.brick k.vd k.space k.level ea .read).wake (.hbm pa)
  | _ => s
/-- Walk the tables of a block and start its wake. PREF.wake does not park (Table 13.1): a block whose tables cannot be read now is skipped, the wake of the table begun (DEDUCED: log entry 104). -/
def State.wakeBlock (s : State) (ea : Word) : State :=
  match s.walk s.agent ea with
  | (t, some _) => t.unstall s.me.ctx
  | (t, none) => if t.me.ctx ≠ s.me.ctx then t else t.wakeAt ea
/-- Start the wakes of `n` blocks from block `a` on, as long as the thread stands in its slot. -/
def State.wakeBlocks (s : State) (a : Nat) : Nat → State
  | 0 => s
  | n + 1 =>
    let t := s.wakeBlock (wrap (a * 128))
    if t.me.ctx ≠ s.me.ctx then t else t.wakeBlocks (a + 1) n
/-- PREF.wake (R290). -/
def execPrefWake (r b : GReg) (i : BitVec 14) (s : State) : Out :=
  let k := s.me
  let ea := eaM k b i
  let n := (k.getG r).toNat
  if n = 0 ∨ 2 ^ 24 < n then s.trapOpen .illegalOperand
  else
    let first := ea.toNat / 128
    let last := (ea.toNat + n - 1) / 128
    let t := s.wakeBlocks first (last - first + 1)
    if t.me.ctx ≠ k.ctx then .next t else t.retire id

/-! ### Windows (R80, R81, R293) -/

/-- Reach a generation word: the leaf must name a window, and the address its first byte (R293). Memory that cannot serve the access holds it as a request, whose reply completes the instruction (R21, Table 4.12). -/
def State.reachGen (s : State) (ea : Word) (wr : Bool) (r : GReg) (go : State → Nat → Out) : Out :=
  s.reach ea 8 (if wr then .write else .read) fun s p win =>
    match p with
    | .hbm pa =>
      if win = 0 ∨ pa ≠ s.winBase win then s.trap .illegalOperand ea
      else if s.blocked s.me.ctx p then
        (s.stallAt s.me.ctx p).send (mkReq (if wr then .wrel else .wacq) ea p win r.val 0 0)
      else
        let s' := (s.unstall s.me.ctx).genLook s.me.vd win pa wr
        if s'.me.ctx ≠ s.me.ctx then .next s'
        else
          match s'.genFault s'.me.vd win pa wr with
          | some c => s'.trap c ea
          | none => go s' win
    | .sram _ _ | .host _ | .peer _ _ => s.trap .illegalOperand ea
/-- WREL (R80). -/
def execWrel (r b : GReg) (i : BitVec 14) (s : State) : Out :=
  s.drainedAck <| s.reachGen (eaM s.me b i) true r fun s win =>
    (s.nextGen win).retire fun k => k.dropAhead.setG r (s.genOf win + 1)
/-- WACQ (R81). -/
def execWacq (r b : GReg) (i : BitVec 14) (s : State) : Out :=
  s.reachGen (eaM s.me b i) false r fun s win => s.retire fun k => k.dropAhead.setG r (s.genOf win)

/-! ### Migration (R171, R172, R292) -/

/-- The thread of the current slot travels to a brick; its slot is freed and filled (R292, R96). -/
def State.sendThread (s : State) (b : Nat) : State :=
  let k := s.me
  let m : Migrant := ⟨k.ctx, k.vd, k.g, k.pc + 4, k.space, k.region, k.debugStep⟩
  let (i, s) := s.fresh
  let s := { s with migMsgs := s.migMsgs ++ [MigMsg.mk i b m] }
  (s.setSlot s.cur Slot.empty).fill s.cur
/-- MIGR (R292). -/
def execMigr (b : GReg) (i : BitVec 14) (s : State) : Out :=
  let k := s.me
  let ea := eaM k b i
  if k.level = .handler then s.privilege (.migr b i)
  else
    s.drainedAck <|
      if k.busy || k.hasMail || k.ports.toList.any (·.bound) then s.trap .migrateBusy 0
      else if k.ringq ≠ [] then s.waitFor .ringEmpty
      else
        s.reach ea 1 .read fun s p _ =>
          match s.homeBrick p with
          | none => s.trap .illegalOperand ea
          | some d =>
            let s := s.handOn k
            if d = s.brick then s.retire Slot.dropAhead else .next (s.sendThread d)

end Sys2Proof.Machine
end

