-- ==== Sys2Proof/Machine/Sync.lean ====
section
/-!
DEFINITION. The inbox, QUIT, SPAWN and barriers (R300 to R305, R165 to R170), the placement of threads (R94 to R96) and the arrival of migrating threads (R173).
-/
namespace Sys2Proof.Machine

/-! ### Inbox (R165, R166, R303) -/

/-- An entry enters the inbox, or the overflow area behind what is there (R166). -/
def Slot.addInbox (k : Slot) (e : InboxEntry) : Slot :=
  if k.overflow = [] ∧ k.inbox.length < 16 then { k with inbox := k.inbox ++ [e] }
  else { k with overflow := k.overflow ++ [e] }
/-- A context outside the slots, that no other error has ended meanwhile, is delivered to its fault domain (R377); no rule gives the XVAL of a fault on its way through its save region. -/
def State.loseKept (s : State) (kv : Nat × Slot) (c : Cause) : State :=
  if !(KMap.has s.saved kv.1 || KMap.has s.held kv.1) then s
  else
  let (n, s) := s.choose
  (s.dropKept kv).notify kv.2.vd kv.2.region (c.code + deliveredBit) (wrap n) (wrap (kv.1 % 2 ^ 18 / 16))
/-- A context whose image or overflow area faults is delivered to its fault domain with the fault (Table 3.4, R377). -/
def State.loseContext (s : State) (ctx : Nat) (c : Cause) : State :=
  match s.keyOf ctx with
  | some key =>
    let (n, s) := s.choose
    s.deliver key c.code (wrap n)
  | none =>
    match List.find? (fun kv => decide (kv.2.ctx = ctx ∧ ctx ≠ 0)) (s.saved ++ s.held) with
    | some kv => s.loseKept kv c
    | none => s
/-- The 16 bytes of an inbox entry (R165). -/
def InboxEntry.bytes (e : InboxEntry) : List Byte := leBytes 8 e.word0.toNat ++ leBytes 8 e.value.toNat
/-- Byte offset, after the start of a context image, of an entry of the overflow area (R175). -/
def overflowAt (i : Nat) : Nat := 4096 + 16 * (i % 1024)
/-- A message enters a context's inbox, or its overflow area behind what is there: the machine after it, and whether it waits for memory (R166). -/
def State.addMail (s : State) (ctx : Nat) (e : InboxEntry) : State × Bool :=
  match s.ctxOf ctx, s.homeKey ctx with
  | some k, some key =>
    if k.overflow = [] ∧ k.inbox.length < 16 then (s.modCtx ctx fun k => k.addInbox e, false)
    else
      match s.contextPassage mailOut k.vd key (overflowAt (k.overflowPos + k.overflow.length)) 16 (some e.bytes) with
      | (s, .still) => (s, true)
      | (s, .fault c) => (s.loseContext ctx c, false)
      | (s, .done) => (s.modCtx ctx fun k => k.addInbox e, false)
  | _, _ => (s.modCtx ctx fun k => k.addInbox e, false)
/-- The slot once the oldest entry of its overflow area has moved into its inbox. -/
def Slot.refill (k : Slot) : Slot :=
  { k with inbox := k.inbox ++ k.overflow.take 1, overflow := k.overflow.drop 1, overflowPos := (k.overflowPos + 1) % 1024 }
/-- A completion message sets out for its inbox (R165). -/
def State.post (s : State) (ctx : Nat) (lane : Option Nat) (e : InboxEntry) : State :=
  let (i, s) := s.fresh
  { s with inboxMsgs := s.inboxMsgs ++ [⟨i, ctx, lane, e⟩] }
/-- Has an inbox room for `n` more entries, with none in its overflow area? -/
def Slot.mailRoom (k : Slot) (n : Nat) : Bool := decide (k.overflow = [] ∧ k.inbox.length + n ≤ 16)
/-- Entries of a slot's overflow area move into its inbox, in order, as entries free and memory serves them (R166). -/
def State.refillInbox (s : State) (key : Nat) : Nat → State
  | 0 => s
  | n + 1 =>
    let k := s.slotAt key
    if k.overflow = [] ∨ 16 ≤ k.inbox.length then s
    else
      match s.contextPassage mailIn k.vd key (overflowAt k.overflowPos) 16 none with
      | (s, .still) => s
      | (s, .fault c) => s.loseContext k.ctx c
      | (s, .done) => (s.modSlot key Slot.refill).refillInbox key n
/-- The inbox after its oldest entry has been taken. -/
def Slot.takeInbox (k : Slot) : Slot := { k with inbox := k.inbox.drop 1 }
/-- KIND of an entry (Table 6.7). -/
def InboxEntry.kind (e : InboxEntry) : Nat := bits e.word0 7 0
/-- What MQDQ does to the slot: the counts of what is outstanding fall with the last entry that a request causes (R329), and the dequeue acquires (R303). -/
def Slot.dequeue (k : Slot) (d : GReg) (e : InboxEntry) : Slot :=
  let k := { k.takeInbox with
    mqval := e.value
    hires := if e.kind = 1 then k.hires - 1 else k.hires
    engines := if e.kind = 2 ∨ e.kind = 3 then k.engines - 1 else k.engines }
  (k.setG d e.word0).dropAhead
/-- MQDQ (R303). -/
def execMqdq (d : GReg) (s : State) : Out :=
  let k := s.me
  match k.inbox with
  | e :: _ => s.retire fun k => k.dequeue d e
  | [] => if k.hires = 0 ∧ k.engines = 0 then s.trap .illegalOperand 0 else s.waitFor .inbox
/-- RSYNC waits until the ring queue is empty (R297). -/
def execRsync (s : State) : Out := if s.me.ringq ≠ [] then s.waitFor .ringEmpty else s.retire Slot.dropAhead
/-- QUIT (R305). -/
def execQuit (s : State) : Out :=
  let k := s.me
  if k.busy then s.trap .illegalOperand 0
  else s.drainedAck <| if k.ringq ≠ [] then s.waitFor .ringEmpty else .next (s.endThread s.cur)

/-! ### SPAWN (R93 to R96, R304) -/

/-- A spawn target word with a nonzero bit marked zero, or MODE 3 (R93). -/
def badTarget (t : Word) : Bool :=
  decide (bits t 63 42 ≠ 0 ∨ bits t 30 14 ≠ 0 ∨ bits t 11 11 ≠ 0 ∨ bits t 13 12 = 3)
/-- Is region `r` of a tree the region `top` or below it? The depth bounds the walk (R89). -/
def Tree.below (t : Tree) (top r : Nat) : Nat → Bool
  | 0 => decide (r = top)
  | n + 1 =>
    if r = top then true
    else
      match t.regions[r]? with
      | some x =>
        match x.parent with
        | some p => t.below top p n
        | none => false
      | none => false
/-- May a thread of region `mine` spawn into region `r` (step 1 of Table 4.5)? -/
def State.mayEnter (s : State) (vd mine r : Nat) : Bool :=
  match s.vd? vd with
  | some v =>
    match v.tree with
    | some t => decide (r < t.regions.length) && t.below mine r 8
    | none => false
  | none => false
/-- SPAWN (R304): steps 1 and 2 of Table 4.5 are decided at once, the rest at the target brick. -/
def execSpawn (d a b : GReg) (s : State) : Out :=
  let k := s.me
  let t := k.getG a
  if badTarget t then s.trapOpen .illegalOperand
  else
    s.drainedAck <|
      let region := if bit t 31 then bits t 41 32 else k.region
      let room := match s.region? k.vd region with
        | some r => decide (r.live < r.slots)
        | none => false
      if bit t 31 && !(s.mayEnter k.vd k.region region) then s.retire fun k => k.dropAhead.setG d 4
      else if !room then s.retire fun k => k.dropAhead.setG d 3
      else
        let args := [k.getG b, k.getG (GReg.plus b 1), k.getG (GReg.plus b 2), k.getG (GReg.plus b 3)]
        let (i, s) := s.fresh
        let s := s.modRegion k.vd region fun r => { r with live := r.live + 1 }
        let s := { s with spawnMsgs := s.spawnMsgs ++ [SpawnMsg.mk i k.ctx k.vd region t args] }
        s.send (mkReq .spawn 0 (.host 0) 0 d.val 0 0)

/-- The bricks that a spawn may take, in the order of the search (R95). -/
def spawnBricks (mode b : Nat) : List Nat :=
  let wythe := b / 8 * 8
  let own := (List.range 8).map fun i => wythe + (b % 8 + i) % 8
  if mode = 0 then [b]
  else if mode = 1 then own
  else
    let die := b / 512 * 512
    let m := b % 512 / 8
    own ++ ((List.range 63).map fun i => (List.range 8).map fun j => die + (m + 1 + i) % 64 * 8 + j).flatten
/-- The lowest free slot of a resident partition on a brick (R95). -/
def State.freeSlot (s : State) (vd b : Nat) : Option Nat :=
  match s.vd? vd with
  | some v => if v.resident then v.slotNums.find? fun n => decide ((s.slotAt (8 * b + n)).mode = .free) else none
  | none => none
/-- Steps 3 to 5 of Table 4.5: status, brick, and the machine with the thread placed or queued. -/
def State.place (s : State) (vd target : Nat) (e : SpawnEntry) : Nat × Nat × State :=
  let b := nbits target 10 0
  let fits := fun (x : Nat) => (s.freeSlot vd x).isSome && decide (KMap.getD s.spawnq (queueKey x vd) [] = [])
  match (spawnBricks (nbits target 13 12) b).find? fits with
  | some x =>
    match s.freeSlot vd x with
    | some n => (0, x, s.startSpawn (8 * x + n) vd e)
    | none => (2, b, s)
  | none =>
    let q := KMap.getD s.spawnq (queueKey b vd) []
    if q.length < 8 then (1, b, { s with spawnq := KMap.set s.spawnq (queueKey b vd) (q ++ [e]) })
    else (2, b, s)
/-- SPAWN_PLACE (R94). -/
def execSpawnPlace (id : Nat) (s : State) : Out :=
  match s.spawnMsgs.find? fun m => decide (m.id = id) with
  | some m =>
    let s := { s with spawnMsgs := s.spawnMsgs.filter fun x => decide (x.id ≠ id) }
    match s.region? m.vd m.region with
    | some r =>
      let (st, b, s) := s.place m.vd m.target.toNat ⟨m.region, m.args, r.entry⟩
      let s := if st = 2 then s.modRegion m.vd m.region fun r => { r with live := r.live - 1 } else s
      .next (s.modCtx m.ctx fun k => k.setStage (.done (lineOf (wrap (st + b * 2 ^ 16)))))
    | none => .next (s.modCtx m.ctx fun k => k.setStage (.done 4))
  | none => .next s

/-! ### Barriers (R167 to R170, R300 to R302) -/

/-- The result of BWAIT (R302). -/
def Barrier.result (x : Barrier) : Word := wrap (b2n x.err * 2 + b2n x.phase)
/-- Does a slot of the brick wait on the barrier? -/
def State.barrierWaiters (s : State) (b n : Nat) : List (Nat × Nat) :=
  (s.slots.filter fun kv => decide (kv.1 / 8 = b)).filterMap fun kv =>
    match kv.2.mode with
    | .parked (.barrier m r) => if m = n then some (kv.1, r) else none
    | _ => none
/-- A barrier after one arrival; whether its phase flips (R168). -/
def Barrier.arrive (x : Barrier) (err bound : Bool) : Barrier × Bool :=
  let e := x.errNow || err
  let x := { x with bound := if bound then x.bound - 1 else x.bound }
  if x.count + 1 = x.target then ({ x with count := 0, phase := !x.phase, err := e, errNow := false }, true)
  else ({ x with count := x.count + 1, errNow := e }, false)
/-- An arrival is counted; at a flip every waiter passes, with the result in its register (R168, R169). -/
def State.arriveAt (s : State) (vd b n : Nat) (err bound : Bool) : State :=
  let (x, flip) := (s.barrierOf vd b n).arrive err bound
  let s := s.modBarrierOf vd b n fun _ => x
  if flip && s.barriersIn vd n then
    (s.barrierWaiters b n).foldl (fun s w =>
      let k := s.slotAt w.1
      s.completeAt w.1 ((k.setG (Fin.ofNat 16 w.2) x.result).dropAhead.advance)) s
  else s
/-- BARRIER_ARRIVAL (R168, R170). -/
def execBarrierArrival (id : Nat) (s : State) : Out :=
  match s.barrierMsgs.find? fun m => decide (m.id = id) with
  | some m =>
    let s := { s with barrierMsgs := s.barrierMsgs.filter fun x => decide (x.id ≠ id) }
    let answer := fun (s : State) (st : ReqStage) => match m.ctx with
      | some c => s.modCtx c fun k => k.setStage st
      | none => s
    if (s.barrierOf m.vd m.brick m.n).target = 0 then
      .next (answer s (.failed Cause.illegalOperand.code (wrap m.n) false))
    else .next (answer (s.arriveAt m.vd m.brick m.n m.err m.bound) (.done 0))
  | none => .next s
/-- BINIT (R300). -/
def execBinit (a : GReg) (n : BitVec 7) (s : State) : Out :=
  let k := s.me
  let t := (k.getG a).toNat
  let n := n.toNat
  let b := s.brick
  if t = 0 ∨ 65535 < t then s.trap .illegalOperand (k.getG a)
  else if !(s.holdsBarrier k.vd n) || decide ((s.barrier b n).bound ≠ 0) || decide (s.barrierWaiters b n ≠ []) then
    s.trap .illegalOperand (wrap n)
  else (s.modBarrier b n fun _ => ⟨t, 0, false, false, false, 0⟩).retire id
/-- BARR sends one arrival and parks until it is accepted (R301). -/
def execBarr (a : GReg) (n : BitVec 7) (s : State) : Out :=
  let k := s.me
  let b := (k.getG a).toNat
  let n := n.toNat
  if 2047 < b then s.trap .illegalOperand (k.getG a)
  else if !(s.holdsBarrier k.vd n) then s.trap .illegalOperand (wrap n)
  else
    s.drainedFor (.sram b 0) <|
      let (i, s) := s.fresh
      let s := { s with barrierMsgs := s.barrierMsgs ++ [BarrierMsg.mk i k.vd b n (some k.ctx) false false] }
      s.send (mkReq .barr 0 (.host 0) 0 0 0 0)
/-- BWAIT (R302). -/
def execBwait (d : GReg) (n : BitVec 7) (s : State) : Out :=
  let k := s.me
  let n := n.toNat
  let x := s.barrier s.brick n
  if !(s.holdsBarrier k.vd n) || decide (x.target = 0) then s.trap .illegalOperand (wrap n)
  else if b2n x.phase ≠ bits (k.getG d) 0 0 then s.retire fun k => (k.setG d x.result).dropAhead
  else s.park (.barrier n d.val)

/-! ### Arriving threads (R173, R113, R375) -/

/-- The cycle from which an arrival's patience counts: for an incoming partition, not before 1 µs after the switch (R375). -/
def State.patienceFrom (s : State) (vd : Nat) : Nat :=
  match s.switches.find? fun w => decide (w.inc = some vd ∧ w.taken) with
  | some w => s.cycle + 2 * (w.stamp + 1000 - s.devTime)
  | none => s.cycle
/-- The cycle from which an arrival has waited. -/
def Arrival.since : Arrival → Nat
  | .migrant _ t => t
  | .context _ t => t
/-- An arrival that has waited from another cycle. -/
def Arrival.from (t : Nat) : Arrival → Arrival
  | .migrant m _ => .migrant m t
  | .context k _ => .context k t
/-- A context that waits to arrive, or whose spill fails, is delivered to its fault domain (R173, R377, Table 3.4). WHERE is all ones, since it has no slot (DESIGN CHOICE: log entry 91). -/
def State.loseArrival (s : State) (b vd : Nat) (a : Arrival) (c : Cause) (xval : Word) : State :=
  let k := a.slot
  let s := match a.whole with
    | some k => { s.leave k with orphans := keepLeft s.orphans (keepKey k.ctx (8 * b) vd) k }
    | none => s
  (s.modRegion vd k.region fun x => { x with live := x.live - 1 }).notify vd k.region (c.code + deliveredBit) xval whereEngine
/-- Bytes `i` × 144 on of the spill area of a brick, a ring of 112 contexts (R173, Table 6.9). -/
def VDev.spillEntry (v : VDev) (b i : Nat) : Nat := v.spillArea b + 144 * (i % 112)
/-- A context passes to or from entry `i` of a spill area. -/
def State.spillPassage (s : State) (kind vd b i : Nat) (data : Option (List Byte)) : State × Passage :=
  match s.vd? vd with
  | some v => s.passage (unitToken kind (queueKey b vd)) vd (v.spillEntry b i) 144 data
  | none => (s, .done)
/-- Position in its ring of the oldest context of a spill area. -/
def State.spillHead (s : State) (q : Nat) : Nat := KMap.getD s.spillPos q 0
/-- The context of an arrival goes to the spill area, or is delivered when that is full, or with the fault that it meets (R173, Table 3.4): the machine after it, and whether it waits for memory. No rule gives the XVAL of such a fault. A whole context that Nerem has re-injected takes one entry of 144 bytes like any other (DESIGN CHOICE: log entry 112). -/
def State.spill (s : State) (b vd : Nat) (a : Arrival) : State × Bool :=
  let q := queueKey b vd
  let old := KMap.getD s.spills q []
  if 112 ≤ old.length then (s.loseArrival b vd a .spillOverflow (wrap b), false)
  else
    match s.spillPassage spillOut vd b (s.spillHead q + old.length) (some a.message) with
    | (s, .still) => (s, true)
    | (s, .fault c) =>
      let (n, s) := s.choose
      (s.loseArrival b vd a c (wrap n), false)
    | (s, .done) => ({ s with spills := KMap.set s.spills q (KMap.getD s.spills q [] ++ [a]) }, false)
/-- An arriving context takes the lowest free slot, or waits in the arrival queue or the spill area (R173, R113): the machine after it, and whether it waits for memory. -/
def State.arrive (s : State) (b vd : Nat) (a : Arrival) : State × Bool :=
  let q := queueKey b vd
  let waiting := KMap.getD s.arrivals q []
  if !(s.isResident vd) || decide (KMap.getD s.spills q [] ≠ []) then s.spill b vd a
  else
    match s.freeSlot vd b with
    | some n =>
      if waiting = [] then (s.setSlot (8 * b + n) a.slot, false)
      else ({ s with arrivals := KMap.set s.arrivals q (waiting ++ [a]) }, false)
    | none =>
      if waiting.length < 8 then ({ s with arrivals := KMap.set s.arrivals q (waiting ++ [a]) }, false) else s.spill b vd a
/-- MIGRATION_ARRIVE (R173). `r` is what the media answer first when the context passes through the save region; a fault there delivers it (Table 3.4). -/
def execMigrationArrive (id : Nat) (r : Media) (s : State) : Out :=
  match s.migMsgs.find? fun m => decide (m.id = id) with
  | some m =>
    let t := { s with answers := r :: s.answers, migMsgs := s.migMsgs.filter fun x => decide (x.id ≠ id) }
    match t.arrive m.brick m.m.vd (.migrant m.m (s.patienceFrom m.m.vd)) with
    | (u, true) => .next { u with answers := s.answers, migMsgs := s.migMsgs }
    | (u, false) => .next (if u.answers.length ≤ s.answers.length then u else { u with answers := s.answers })
  | none => .next s
/-- The oldest context of a spill area re-enters the arrival queue, behind those that wait there, and counts its 256 rotations anew (R173; DESIGN CHOICE for the count: log entry 92): the machine after it, and whether it waits for memory. One that faults on its way is delivered (Table 3.4), and one that an error on the way has ended is gone. -/
def State.reenter (s : State) (b vd : Nat) (a : Arrival) (rest : List Arrival) : State × Bool :=
  let q := queueKey b vd
  let go := fun (s : State) =>
    { s with spills := setQueue s.spills q rest, spillPos := KMap.set s.spillPos q ((s.spillHead q + 1) % 112) }
  match s.spillPassage spillIn vd b (s.spillHead q) none with
  | (s, .still) => (s, true)
  | (s, r) =>
    if KMap.getD s.spills q [] ≠ a :: rest then (s, false)
    else
      match r with
      | .fault c =>
        let (n, s) := s.choose
        ((go s).loseArrival b vd a c (wrap n), false)
      | .still | .done =>
        let s := go s
        ({ s with arrivals := KMap.set s.arrivals q (KMap.getD s.arrivals q [] ++ [a.from (s.patienceFrom vd)]) }, false)
/-- Spilled contexts of a resident partition re-enter its arrival queue on a brick as long as it has room, and take slots that are free (R96, R173). -/
def State.refillArrivals (s : State) (q : Nat) : Nat → State
  | 0 => s
  | n + 1 =>
    let b := q / 16
    let vd := q % 16
    match KMap.getD s.spills q [] with
    | a :: rest =>
      if !(s.isResident vd) || decide (8 ≤ (KMap.getD s.arrivals q []).length) then s
      else
        match s.reenter b vd a rest with
        | (s, true) => s
        | (s, false) =>
          let s := match s.freeSlot vd b with
            | some x => s.fillFor (8 * b + x) vd
            | none => s
          s.refillArrivals q n
    | [] => s
/-- Spilled contexts re-enter wherever they can (R173). -/
def State.refillAll (s : State) : State := s.spills.foldl (fun s kv => s.refillArrivals kv.1 kv.2.length) s
/-- The arrivals that wait for a partition count their patience anew (R375). -/
def State.restartPatience (s : State) (vd : Nat) : State :=
  let t := s.patienceFrom vd
  { s with arrivals := s.arrivals.map fun kv => if kv.1 % 16 = vd then (kv.1, kv.2.map (Arrival.from t)) else kv }
/-- ARRIVAL_SPILL: an arrival of a resident partition that has waited 2,048 cycles is spilled (R173); time switched out does not count (R116, R375). -/
def execArrivalSpill (b vd : Nat) (s : State) : Out :=
  let q := queueKey b vd
  match KMap.getD s.arrivals q [] with
  | a :: rest =>
    if s.isResident vd && decide (a.since + 2048 ≤ s.cycle) then
      match { s with arrivals := setQueue s.arrivals q rest }.spill b vd a with
      | (t, true) => .next { t with arrivals := s.arrivals }
      | (t, false) => .next t
    else .next s
  | [] => .next s

end Sys2Proof.Machine
end

