-- ==== Sys2Proof/Machine/Ring.lean ====
section
/-!
DEFINITION. The course ring (chapter 7): ring instructions and their queues (R180, R294 to R299), the application of entries at a station, boarding and alighting, stowing and ring faults, and the ring's cycle.
-/
namespace Sys2Proof.Machine

/-! ### Ring instructions -/

/-- The brick and offset that a ring instruction names, aligned or not: in the own bank, or in B-space on the issuing die (R294, Table 7.9). -/
def State.ringHome (s : State) (ea : Word) (own : Bool) : Option (Nat × Nat) :=
  match bankOf s.brick ea.toNat with
  | some (b, off) => if b / 512 ≠ s.brick / 512 ∨ (own ∧ b ≠ s.brick) then none else some (b, off)
  | none => none
/-- The brick and offset of the word or line that a ring instruction names, or its fault. -/
def State.ringPlace (s : State) (ea : Word) (align : Nat) (own : Bool) : Except Cause (Nat × Nat) :=
  match s.ringHome ea own with
  | some (b, off) => if ea.toNat % align ≠ 0 then .error .alignment else .ok (b, off)
  | none => .error .illegalOperand
/-- An entry joins the slot's ring queue; the head is eligible from this cycle (R180). -/
def Slot.enqueue (k : Slot) (e : RingEntry) : Slot := { k with ringq := k.ringq ++ [e] }
/-- A new entry. -/
def State.ringEntry (s : State) (op : RingOp) (ea : Word) (b off reg : Nat) : RingEntry :=
  ⟨op, ea, b, off / 64, off / 8 % 8, reg, s.cycle, false⟩
/-- Enter the ring queue and park until the entry is applied. -/
def State.ringPark (s : State) (e : RingEntry) (kind : ReqKind) : Out :=
  if 4 ≤ s.me.ringq.length then s.waitFor .ringPlace
  else
    (s.modSlot s.cur fun k =>
      { k.enqueue e with req := some (mkReq kind e.ea (.sram e.brick (64 * e.line + 8 * e.word)) 0 e.reg 0 0) }).park .ring
/-- Name a ring line or word, or trap at issue with the address in XVAL (R191). -/
def State.ringReach (s : State) (ea : Word) (align : Nat) (own : Bool) (go : Nat → Nat → Out) : Out :=
  match s.ringPlace ea align own with
  | .error c => s.trap c ea
  | .ok (b, off) => go b off
/-- Name a ring line for an instruction with a wide register: the checks of its operands come first, among them that the address is one of the ring, then the alignment (R247, R307). -/
def State.ringLine (s : State) (ea : Word) (srcs : List WReg) (d : Option WReg) (go : Nat → Nat → Out) : Out :=
  s.wLegal srcs d <|
    match s.ringHome ea false with
    | none => s.trap .illegalOperand ea
    | some _ => s.notAtEnd srcs d <| s.ringReach ea 64 false go
/-- A ring write is made when the store buffer is empty and every earlier ring entry has been applied (R188). -/
def State.ringWrite (s : State) (go : Out) : Out :=
  s.drained <| if s.me.ringq ≠ [] then s.waitFor .ringEmpty else go
/-- Board a line of the own bank (R183 steps 1 and 2). -/
def State.boardFrom (s : State) (ea : Word) (r : GReg) (nest : Option Line) : Out :=
  s.ringReach ea 64 true fun b off =>
    let sb := off / 2 ^ 16
    let x := s.subBank b sb
    if !(s.holdsSub s.me.vd sb) || decide (x.power = .unavailable) then s.trap .bank ea
    else if !x.alloc then s.trap .sleep ea
    else s.drained <| s.ringPark (s.ringEntry (.board nest) ea b off r.val) .ringWord
/-- RBRD (R183, R295). -/
def execRbrd (r b : GReg) (i : BitVec 14) (s : State) : Out := s.boardFrom (eaM s.me b i) r none
/-- RALT (R185, R295). -/
def execRalt (r b : GReg) (i : BitVec 14) (s : State) : Out :=
  let ea := eaM s.me b i
  s.ringReach ea 64 false fun b off => s.ringWrite <| s.ringPark (s.ringEntry (.alight false) ea b off r.val) .ringWord
/-- RCAP (R294). -/
def execRcap (m : RingForm) (r b : GReg) (i : BitVec 14) (s : State) : Out :=
  let ea := eaM s.me b i
  match m with
  | .word => s.ringReach ea 8 false fun b off => s.ringPark (s.ringEntry (.capture .word) ea b off r.val) .ringWord
  | .line =>
    s.ringLine ea [] (some (toW r)) fun b off => s.pushGuard (some (toW r)) <|
      s.ringPark (s.ringEntry (.capture .line) ea b off r.val) .ringLine
/-- RPUT of a value: queued, and the slot continues (R294). -/
def State.putValue (s : State) (ea : Word) (v : Word) : Out :=
  s.ringReach ea 8 false fun b off => s.ringWrite <|
    s.retire fun k => k.dropAhead.enqueue (s.ringEntry (.put .word (lineOf v)) ea b off 0)
/-- RPUT (R294). -/
def execRput (m : RingForm) (r b : GReg) (i : BitVec 14) (s : State) : Out :=
  let k := s.me
  let ea := eaM k b i
  match m with
  | .word => s.putValue ea (k.getG r)
  | .line =>
    let w := toW r
    s.ringLine ea [w] none fun b off => s.ringWrite <| s.popping (k.popsOf [w]) fun popped s' =>
      s'.retire fun k' => k'.dropAhead.enqueue (s.ringEntry (.put .line (srcValue k popped w)) ea b off 0)
/-- RPUT of an immediate (R294). -/
def execRputImm (v : BitVec 4) (b : GReg) (i : BitVec 14) (s : State) : Out :=
  s.putValue (eaM s.me b i) (v.setWidth 64)
/-- RADD (R294). -/
def execRadd (r b : GReg) (i : BitVec 14) (s : State) : Out :=
  let k := s.me
  let ea := eaM k b i
  s.ringReach ea 8 false fun b off => s.ringWrite <|
    s.ringPark (s.ringEntry (.add (k.getG r)) ea b off r.val) .ringWord
/-- RWAIT (R296). -/
def execRwait (c : RwCond) (r b : GReg) (i : BitVec 14) (s : State) : Out :=
  let k := s.me
  let ea := eaM k b i
  s.ringReach ea 8 false fun b off => s.ringPark (s.ringEntry (.wait c (k.getG r)) ea b off r.val) .ringWord
/-- ITER.ring (R299). -/
def execIterRing (b : GReg) (i : BitVec 14) (s : State) : Out :=
  let ea := eaM s.me b i
  s.ringReach ea 64 false fun b off => s.ringWrite <| s.ringPark (s.ringEntry .claim ea b off 0) .ringClaim
/-- NEST.ring (R298). -/
def execNestRing (r b : GReg) (i : BitVec 14) (s : State) : Out :=
  let k := s.me
  let ea := eaM k b i
  let n0 := k.getG r
  let n1 := k.getG (GReg.plus r 1)
  let w := k.getG (GReg.plus r 2)
  if !(nestOk n0 n1 w) then s.trap .illegalOperand ea else s.boardFrom ea r (some (nestLine n0 n1 w))

/-! ### Applying entries at a station (R177 to R186) -/

/-- Number of ring slot `idx` of a die's ring. -/
def ringKey (ring idx : Nat) : Nat := 512 * ring + idx
/-- The ring slot that stands at a brick's station in this cycle (R177). -/
def State.standing (s : State) (b : Nat) : Nat := ringKey (b / 512) ((b % 512 + 512 - s.cycle % 512) % 512)
/-- Is the ring slot the matching one of an entry (R180)? -/
def RingSlot.isFor (r : RingSlot) (vd : Nat) (e : RingEntry) : Bool :=
  decide (r.vd = vd ∧ r.home = e.brick % 512 ∧ r.line = e.line)
/-- Address of a home line in memory. -/
def lineKey (b line : Nat) : Nat := bankAddr b (64 * line)
/-- Lines that a partition holds aboard or stowed on a die; with a region, that region's (R183). -/
def State.ringCharge (s : State) (die vd : Nat) (region : Option Nat) : Nat :=
  (s.locks.filter fun kv =>
    decide (kv.2.vd = vd ∧ (kv.1 - 0xFFFE000000000000) / 2 ^ 32 = die ∧ (region = none ∨ region = some kv.2.region))).length
/-- Step 4 of Table 7.3. -/
def State.ringFull (s : State) (die vd region : Nat) : Bool :=
  let q := match s.vd? vd with
    | some v => v.ringQ.getD die 0
    | none => 0
  let rq := match s.region? vd region with
    | some r => r.ringQ.getD die 0
    | none => q
  decide (q ≤ s.ringCharge die vd none) || decide (rq ≤ s.ringCharge die vd (some region))
/-- The head of a context's queue leaves it; the next is eligible from this cycle (R180). -/
def Slot.ringPop (k : Slot) (cycle : Nat) : Slot :=
  match k.ringq with
  | _ :: e :: rest => { k with ringq := { e with since := cycle } :: rest }
  | _ => { k with ringq := [] }
/-- An entry of a context has been applied: its result completes the instruction, or waits in the save area (R189). -/
def State.ringGive (s : State) (k : Slot) (st : ReqStage) : State :=
  let s := s.modCtx k.ctx fun k => (k.ringPop s.cycle).setStage st
  match s.keyOf k.ctx with
  | some key => (s.repliedAt key).dropOrphans
  | none => (s.endKept k.ctx).dropOrphans
/-- A put leaves the queue, applied or dropped. -/
def State.ringDone (s : State) (k : Slot) : State := (s.modCtx k.ctx fun k => k.ringPop s.cycle).dropOrphans
/-- Board a line onto a free ring slot (R183 step 5, R184, R190). -/
def State.boardLine (s : State) (idx b line vd region : Nat) (altpend poison : Bool) : State :=
  let p := Place.sram b (64 * line)
  let r : RingSlot := ⟨altpend, poison || s.poison.contains p.granule, vd, b % 512, line, s.peekLine p 64⟩
  { s.touch p with
    rings := KMap.set s.rings idx r
    locks := KMap.set s.locks (lineKey b line) ⟨.aboard, vd, region⟩ }
/-- Does a context still have an entry at the head of its ring queue? -/
def State.ringHead (s : State) (ctx : Nat) (e : RingEntry) : Bool :=
  match s.ctxOf ctx with
  | some k => decide (k.ringq.head? = some e)
  | none => false
/-- Try a boarding entry in this cycle (Table 7.3 steps 3 to 5). The copy reads the home line, unless NEST writes it whole, and may meet an error (R191); that can end the entry's own thread (R115). -/
def State.tryBoard (s : State) (b : Nat) (k : Slot) (e : RingEntry) (nest : Option Line) : Option State :=
  let p := Place.sram e.brick (64 * e.line)
  if s.lineLocked (lineKey e.brick e.line) then some ((s.unstall k.ctx).ringGive k (.done 2))
  else if s.ringFull (b / 512) k.vd k.region then some ((s.unstall k.ctx).ringGive k (.done 1))
  else if KMap.has s.rings (s.standing b) then none
  else if s.blocked k.ctx p then some (s.stallAt k.ctx p)
  else
    let s := (match nest with
      | some l => s.poke (kidOf k.vd 0) p (lineBytes l)
      | none => s.look k.vd 0 p 64 false false).unstall k.ctx
    if s.ringHead k.ctx e then
      some ((s.boardLine (s.standing b) e.brick e.line k.vd k.region false false).ringGive k (.done 0))
    else some s
/-- A capture of a poisoned ring slot traps (Table 7.9). -/
def State.ringPoisoned (s : State) (k : Slot) (e : RingEntry) : State :=
  s.ringGive k (.failed Cause.poison.code e.ea false)
/-- Change the payload of a ring slot. -/
def State.setPayload (s : State) (idx : Nat) (v : Line) : State :=
  { s with rings := KMap.modify s.rings idx fun r => { r with payload := v } }
/-- Has an entry that must match been eligible for 512 cycles without finding its ring slot (R191)? -/
def RingEntry.overdue (e : RingEntry) (cycle : Nat) : Bool := !e.matched && decide (e.since + 512 ≤ cycle)
/-- A head entry misses its ring slot: a put is dropped and its error deferred, any other operation traps (R191). -/
def State.ringMissed (s : State) (k : Slot) (e : RingEntry) : State :=
  if e.isPut then (s.ringDone k).deferred k.vd k.region (s.whereKey k.ctx) .ringMiss e.ea
  else s.ringGive k (.failed Cause.ringMiss.code e.ea false)
/-- Apply the head entry of a context's queue to the ring slot that stands at its station, if it matches and can be applied now (Table 7.2); one that has waited too long misses it instead (R191). A poisoned ring slot traps a capture, that of an add or claim and of a wait whose word does not satisfy it too, and drops a put alone (DESIGN CHOICE: log entry 114). -/
def State.applyHead (s : State) (key : Nat) (k : Slot) (e : RingEntry) : Option State :=
  let b := key / 8
  let idx := s.standing b
  match e.op with
  | .board nest => s.tryBoard b k e nest
  | op =>
    if e.overdue s.cycle then some (s.ringMissed k e)
    else
    match KMap.find? s.rings idx with
    | none => none
    | some r =>
      if !(r.isFor k.vd e) then none
      else
        let w := wordOf r.payload e.word
        match op with
        | .board _ => none
        | .capture f =>
          if r.poison then some (s.ringPoisoned k e)
          else some (s.ringGive k (.done (match f with
            | .word => lineOf w
            | .line => r.payload)))
        | .put f v =>
          if r.poison then some ((s.ringDone k).deferred k.vd k.region (s.whereKey k.ctx) .poison e.ea)
          else
            let new := match f with
              | .word => setWord r.payload e.word (lowWord v)
              | .line => v
            some ((s.setPayload idx new).ringDone k)
        | .add v =>
          if r.poison then some (s.ringPoisoned k e)
          else some ((s.setPayload idx (setWord r.payload e.word (w + v))).ringGive k (.done (lineOf w)))
        | .wait c v =>
          if r.poison then some (s.ringPoisoned k e)
          else if c.holds w v then some (s.ringGive k (.done (lineOf w)))
          else if e.matched then none
          else some (s.modCtx k.ctx fun k => { k with ringq := { e with matched := true } :: k.ringq.drop 1 })
        | .claim =>
          if r.poison then some (s.ringPoisoned k e)
          else if !(nestSound r.payload) then some (s.ringGive k (.failed Cause.illegalOperand.code e.ea false))
          else some ((s.setPayload idx (claimed r.payload)).ringGive k (.done (claimResult r.payload)))
        | .alight _ =>
          if e.matched then none
          else
            let s := { s with rings := KMap.modify s.rings idx fun r => { r with altpend := true } }
            some (s.modCtx k.ctx fun k =>
              { k with ringq := { e with op := .alight (!r.altpend), matched := true, since := s.cycle } :: k.ringq.drop 1 })
/-- Put a holder into a list of rising slot keys, before those of its own key. -/
def insertHolder (x : Nat × Slot) : List (Nat × Slot) → List (Nat × Slot)
  | [] => [x]
  | y :: r => if x.1 ≤ y.1 then x :: y :: r else y :: insertHolder x r
/-- Every context that has ring entries, with the key of the slot whose station it uses, in ascending order; one that has left a slot, or waits to arrive, comes before the slot's own (R181, R189). -/
def State.ringHolders (s : State) : List (Nat × Slot) :=
  let away := ((s.saved ++ s.held ++ s.orphans).map fun kv => (kv.1 % 2 ^ 18 / 16, kv.2))
    ++ s.arriving.map fun kv => (8 * (kv.1 / 16), kv.2)
  ((away ++ s.slots).filter fun kv => decide (kv.2.ringq ≠ [])).foldr insertHolder []
/-- Has the station of a brick gone past a slot in this cycle (R181)? -/
def State.stationPast (s : State) (key : Nat) : Bool := decide (key < KMap.getD s.stations (key / 8) 0)
/-- The station of a brick has come to a slot, by its key, or past the last. -/
def State.stationAt (s : State) (b key : Nat) : State :=
  { s with stations := KMap.set s.stations b (max key (KMap.getD s.stations b 0)) }
/-- Apply consecutive entries from the head of a context's queue in this cycle, unless the station has gone past its slot (R181). -/
def State.applyAll (s : State) (key ctx : Nat) : Nat → State
  | 0 => s
  | n + 1 =>
    if s.stationPast key then s
    else
    match s.ctxOf ctx with
    | some k =>
      match k.ringq with
      | e :: _ =>
        match s.applyHead key k e with
        | some s' => s'.applyAll key ctx n
        | none => s
      | [] => s
    | none => s
/-- The clock of a brick modulo 8, counted since its island last started (R97). -/
def State.beat (s : State) (b : Nat) : Nat := (s.cycle + 8 - (s.island (brickIsland b)).clock % 8) % 8
/-- Is the turn of this cycle over on a brick: its slot has had it, or is not ready (R97)? What enters a ring queue in a cycle counts in that cycle (R180). -/
def State.turnOver (s : State) (b : Nat) : Bool :=
  let key := 8 * b + s.beat b
  s.hadTurn.contains key || decide ((s.slotAt key).mode ≠ .ready)
/-- Can the head entry of a context be applied in this cycle? -/
def State.headGoes (s : State) (kv : Nat × Slot) : Bool :=
  match kv.2.ringq with
  | e :: _ => (s.applyHead kv.1 kv.2 e).isSome
  | [] => false
/-- Is it the turn of a slot at its station: the station has not gone past it, the slots below it have no entry left to apply in this cycle, and none can come (R181)? -/
def State.stationFor (s : State) (key : Nat) : Bool :=
  !(s.stationPast key) && s.turnOver (key / 8) && s.ringHolders.all fun kv => !(decide (kv.1 / 8 = key / 8 ∧ kv.1 < key) && !(s.stationPast kv.1) && s.headGoes kv)
/-- Apply the entry of a slot's context when its operation is of the wanted kind and the station can come to the slot; it is then past the slots below. -/
def State.applyOne (s : State) (b n : Nat) (want : RingOp → Bool) : State :=
  let key := 8 * b + n
  if !(s.stationFor key) then s
  else
  match s.ringHolders.find? fun kv => decide (kv.1 = key) with
  | some (_, k) =>
    match k.ringq with
    | e :: _ =>
      if want e.op then
        match s.applyHead key k e with
        | some s => s.stationAt b key
        | none => s
      else s
    | [] => s
  | none => s
/-- RING_BOARD_APPLY (R183). -/
def execRingBoardApply (b n : Nat) (s : State) : Out :=
  .next (s.applyOne b n fun o => match o with
    | .board _ => true
    | _ => false)
/-- RING_CAPTURE_APPLY (R186). -/
def execRingCaptureApply (b n : Nat) (s : State) : Out :=
  .next (s.applyOne b n fun o => match o with
    | .capture _ => true
    | _ => false)
/-- RING_PUT_APPLY (R186). -/
def execRingPutApply (b n : Nat) (s : State) : Out :=
  .next (s.applyOne b n fun o => match o with
    | .put _ _ => true
    | _ => false)
/-- RING_ADD_APPLY (R182). -/
def execRingAddApply (b n : Nat) (s : State) : Out :=
  .next (s.applyOne b n fun o => match o with
    | .add _ => true
    | _ => false)
/-- RING_WAIT_APPLY (R296). -/
def execRingWaitApply (b n : Nat) (s : State) : Out :=
  .next (s.applyOne b n fun o => match o with
    | .wait _ _ => true
    | _ => false)
/-- RING_CLAIM_APPLY (R100). -/
def execRingClaimApply (b n : Nat) (s : State) : Out :=
  .next (s.applyOne b n fun o => decide (o = .claim))
/-- RING_ALIGHT_MATCH (R185). -/
def execRingAlightMatch (b n : Nat) (s : State) : Out :=
  .next (s.applyOne b n fun o => match o with
    | .alight _ => true
    | _ => false)

/-! ### Writing back, stowing and boarding again -/

/-- Die and home brick of a ring slot. -/
def homeOf (key : Nat) (r : RingSlot) : Nat := 512 * (key / 512) + r.home
/-- Does the ring slot stand at its home station in this cycle? -/
def State.isHome (s : State) (key : Nat) (r : RingSlot) : Bool := decide (s.standing (homeOf key r) = key)
/-- The brick whose line a payload under write-back goes to. -/
def RingBack.brick (w : RingBack) : Nat := 512 * w.die + w.slot.home
/-- The home line of a payload under write-back. -/
def RingBack.place (w : RingBack) : Place := .sram w.brick (64 * w.slot.line)
/-- A write-back to a brick island in HOLD wakes the island (R185, R14). -/
def State.rouse (s : State) (b : Nat) : State :=
  let i := brickIsland b
  if (s.island i).state = .hold then { s with islands := KMap.set s.islands i { s.island i with wanted := .run } } else s
/-- Write a payload back to its home line (R185). -/
def State.writeBack (s : State) (w : RingBack) : State :=
  (s.poke (kidOf w.slot.vd 0) w.place (lineBytes w.slot.payload)).touch w.place
/-- The alights that wait for a line: contexts with the answer they get. -/
def State.alighters (s : State) (b line : Nat) : List (Slot × Bool) :=
  s.ringHolders.filterMap fun kv =>
    match kv.2.ringq with
    | e :: _ =>
      match e.op with
      | .alight set => if e.matched ∧ e.brick = b ∧ e.line = line then some (kv.2, set) else none
      | _ => none
    | [] => none
/-- The home line of a ring slot is written: it is FREE, a poisoned slot poisons it, and the alights complete (R185 steps 3 and 4, R364); or it is STOWED, with ALTPEND and POISON in its side band (R189 step 2). -/
def State.landBack (s : State) (w : RingBack) : State :=
  let key := lineKey w.brick w.slot.line
  if w.stow then
    let s := s.writeBack w
    { s with locks := KMap.modify s.locks key fun l => { l with state := .stowed w.slot.altpend w.slot.poison } }
  else
    let waiting := s.alighters w.brick w.slot.line
    let s := s.writeBack w
    let s := if w.slot.poison then { s with poison := NSet.insert s.poison w.place.granule } else s
    let s := { s with locks := KMap.erase s.locks key }
    waiting.foldl (fun s x => s.ringGive x.1 (.done (if x.2 then 0 else 1))) s
/-- The number by which memory keeps the order of arrival of a write-back (R21). -/
def RingBack.token (w : RingBack) : Nat := unitToken backPass (2 ^ 14 * w.brick + w.slot.line)
/-- Finish a write-back if its home sub-bank can serve; else it begins the wake and takes its place among those that wait there (R185, R21). -/
def State.tryBack (s : State) (w : RingBack) : State :=
  if s.blocked w.token w.place then { s.stallAt w.token w.place with writebacks := s.writebacks ++ [w] }
  else (s.unstall w.token).landBack w
/-- A ring slot that stands at its home leaves the ring: it becomes free, and its payload is written back (R185 step 3, R189 step 2). -/
def State.takeOff (s : State) (key : Nat) (r : RingSlot) (stow : Bool) : State :=
  ({ s with rings := KMap.erase s.rings key }.rouse (homeOf key r)).tryBack ⟨key / 512, r, stow⟩
/-- Is the entry an alight that its ring slot has taken: only its write-back is awaited (R185)? -/
def RingEntry.taken (e : RingEntry) : Bool :=
  match e.op with
  | .alight _ => e.matched
  | _ => false
/-- Have all ring queues of a partition's thread slots on a die drained, alights that have matched aside (R189 step 2)? -/
def State.ringQuiet (s : State) (die vd : Nat) : Bool :=
  s.ringHolders.all fun kv => decide (kv.2.vd ≠ vd ∨ kv.1 / 4096 ≠ die) || kv.2.ringq.all RingEntry.taken
/-- Has an alight matched a ring slot in this very cycle: the pass in which it is written back when it stands at HOME (R364)? -/
def State.alitNow (s : State) (key : Nat) (r : RingSlot) : Bool :=
  s.ringHolders.any fun kv => match kv.2.ringq with
    | e :: _ => e.taken && decide (e.since = s.cycle ∧ e.brick = homeOf key r ∧ e.line = r.line)
    | [] => false
/-- May a ring slot be stowed now (R189)? One that an alight has matched at HOME in this cycle is written back for it instead (R189 step 1, R364). -/
def State.canStow (s : State) (key : Nat) (r : RingSlot) : Bool :=
  !(s.isResident r.vd) && s.ringQuiet (key / 512) r.vd && s.isHome key r && !(s.alitNow key r)
/-- Apply what the station of a brick can apply in this cycle, its slots in ascending order; it is past all of them then (R181). -/
def State.applyStation (s : State) (b : Nat) : State :=
  ((s.ringHolders.filter fun kv => decide (kv.1 / 8 = b)).foldl (fun s kv => s.applyAll kv.1 kv.2.ctx 4) s).stationAt b (8 * b + 8)
/-- RING_ALIGHT_WRITEBACK (R185, R364): it follows every application of the cycle at the home station. -/
def execRingAlightWriteback (ring idx : Nat) (s : State) : Out :=
  let key := ringKey ring idx
  match KMap.find? s.rings key with
  | some r =>
    if r.altpend && s.isHome key r && !(s.canStow key r) && s.turnOver (homeOf key r) then
      let s := s.applyStation (homeOf key r)
      match KMap.find? s.rings key with
      | some r => .next (s.takeOff key r false)
      | none => .next s
    else .next s
  | none => .next s
/-- RING_STOW (R189): it too follows every application of the cycle at the home station. -/
def execRingStow (ring idx : Nat) (s : State) : Out :=
  let key := ringKey ring idx
  match KMap.find? s.rings key with
  | some r =>
    if s.canStow key r && s.turnOver (homeOf key r) then
      let s := s.applyStation (homeOf key r)
      match KMap.find? s.rings key with
      | some r => .next (s.takeOff key r true)
      | none => .next s
    else .next s
  | none => .next s
/-- The number by which memory keeps the order of arrival of a stowed line that boards again (R21). -/
def reboardToken (b line : Nat) : Nat := unitToken boardPass (2 ^ 14 * b + line)
/-- Board a stowed line of a resident partition again, when a free ring slot stands at its home (R190). -/
def State.reboardNow (s : State) (b line : Nat) : State :=
  match KMap.find? s.locks (lineKey b line) with
  | some l =>
    match l.state with
    | .stowed alt poison =>
      if s.isResident l.vd && !(KMap.has s.rings (s.standing b)) then
        let p := Place.sram b (64 * line)
        let token := reboardToken b line
        if s.blocked token p then s.stallAt token p
        else (s.unstall token).boardLine (s.standing b) b line l.vd l.region alt poison
      else s
    | .aboard => s
  | none => s
/-- RING_REBOARD (R190). -/
def execRingReboard (b line : Nat) (s : State) : Out := .next (s.reboardNow b line)

/-! ### Ring faults (R191) -/

/-- Does an entry wait to board, which no ring slot need match? -/
def RingEntry.boards (e : RingEntry) : Bool :=
  match e.op with
  | .board _ => true
  | .capture _ | .put _ _ | .add _ | .wait _ _ | .claim | .alight _ => false
/-- RING_MISS: the head entry of a context has been eligible for 512 cycles without a match (R191). -/
def execRingMiss (ctx : Nat) (s : State) : Out :=
  match s.ctxOf ctx with
  | some k =>
    match k.ringq with
    | e :: _ => if e.boards || !(e.overdue s.cycle) then .next s else .next (s.ringMissed k e)
    | [] => .next s
  | none => .next s
/-- RING_SLOT_ERROR: a corrected error is counted; an uncorrectable one in a slot's payload sets POISON, and in its header it frees the slot, and the line stays locked (R191). Alights that had matched find no slot any more. -/
def execRingSlotError (ring idx : Nat) (e : SlotError) (s : State) : Out :=
  let key := ringKey ring idx
  match KMap.find? s.rings key with
  | some r =>
    match e with
    | .corrected => .next ({ s with corrSram := s.corrSram + 1 }.log .count (lineKey (homeOf key r) r.line))
    | .payload => .next { s with rings := KMap.modify s.rings key fun r => { r with poison := true } }
    | .header =>
      let b := homeOf key r
      let again := (s.alighters b r.line).foldl (fun s w => s.modCtx w.1.ctx fun k =>
        { k with ringq := k.ringq.map fun e => { e with matched := false, since := s.cycle } }) s
      let s := { again with rings := KMap.erase s.rings key }.log .ringHeader (lineKey b r.line)
      .next (s.healthNotice (64 * r.line / 2 ^ 16) (lineKey b r.line))
  | none => .next s
/-- RING_LOCK_CLEAR: Nerem, when it takes up events, clears the lock of a line that no ring slot carries any more (R191, R57). -/
def execRingLockClear (b line : Nat) (s : State) : Out :=
  let carried := s.rings.any (fun kv => decide (homeOf kv.1 kv.2 = b ∧ kv.2.line = line))
    || s.writebacks.any fun w => decide (w.brick = b ∧ w.slot.line = line)
  match KMap.find? s.locks (lineKey b line) with
  | some l => if l.state = .aboard ∧ !carried ∧ s.neremRuns then .next { s with locks := KMap.erase s.locks (lineKey b line) } else .next s
  | none => .next s

/-! ### The ring's cycle -/

/-- Everything that the ring does at the end of this cycle, once the slots have had their turns (R180): entries in the order of R181, then stowed lines boarding again (R190), write-backs that home sub-banks had stalled, and at last the ring slots at home that are stowed or written back (R364), which are free from the next cycle on. -/
def State.ringNow (s : State) : State :=
  let s := s.ringHolders.foldl (fun s kv => s.applyAll kv.1 kv.2.ctx 4) s
  let s := s.locks.foldl (fun s kv =>
    let off := kv.1 - 0xFFFE000000000000
    s.reboardNow (off / 2 ^ 32 * 512 + off % 2 ^ 32 / 2 ^ 20) (off % 2 ^ 20 / 64)) s
  let s := s.writebacks.foldl State.tryBack { s with writebacks := [] }
  s.rings.foldl (fun s kv =>
    if s.canStow kv.1 kv.2 then s.takeOff kv.1 kv.2 true
    else if kv.2.altpend && s.isHome kv.1 kv.2 then s.takeOff kv.1 kv.2 false
    else s) s
/-- Can the ring have anything to do in a coming cycle? -/
def State.ringBusy (s : State) : Bool :=
  decide (s.ringHolders ≠ []) || decide (s.writebacks ≠ []) || s.rings.any (fun kv => kv.2.altpend || !(s.isResident kv.2.vd))
    || s.locks.any fun kv => decide (kv.2.state ≠ .aboard) && s.isResident kv.2.vd

end Sys2Proof.Machine
end

