-- ==== Sys2Proof/Machine/Wide.lean ====
section
/-!
DEFINITION. Wide instructions (chapter 14): lanes, element-wise arithmetic, fused multiply-add, compares, moves, special functions, dot products, reductions and conversions.
-/
namespace Sys2Proof.Machine

/-! ### Lanes (R306) -/

/-- Bits of an element (Table 9.1, Table 9.2). -/
def eltBits : Elt → Nat
  | .i4 | .n4 => 4
  | .i8 | .n8 => 8
  | .i16 | .n16 | .bf16 | .f16 => 16
  | .i32 | .n32 | .f32 => 32
  | .i64 | .n64 => 64
/-- Is the format signed? -/
def eltSigned : Elt → Bool
  | .i4 | .i8 | .i16 | .i32 | .i64 => true
  | .n4 | .n8 | .n16 | .n32 | .n64 | .bf16 | .f16 | .f32 => false
/-- The floating format of an element, if it is one. -/
def eltFloat : Elt → Option FloatFmt
  | .bf16 => some bf16
  | .f16 => some fp16
  | .f32 => some fp32
  | .i4 | .i8 | .i16 | .i32 | .i64 | .n4 | .n8 | .n16 | .n32 | .n64 => none
/-- Lane `i` of a line. -/
def lane (l : Line) (e i : Nat) : Nat := l.toNat / 2 ^ (e * i) % 2 ^ e
/-- The sum of `n` lanes of e bits in their places. -/
def lanesSum (e : Nat) (f : Nat → Nat) : Nat → Nat
  | 0 => 0
  | n + 1 => lanesSum e f n + f n % 2 ^ e * 2 ^ (e * n)
/-- A line made of `n` lanes of e bits, zero above them. -/
def ofLanes (e n : Nat) (f : Nat → Nat) : Line := BitVec.ofNat 512 (lanesSum e f n)
/-- A line whose lanes a function of the lane number gives. -/
def allLanes (e : Nat) (f : Nat → Nat) : Line := ofLanes e (512 / e) f
/-- Apply a function to the lanes of one line. -/
def map1 (e : Nat) (f : Nat → Nat) (a : Line) : Line := allLanes e fun i => f (lane a e i)
/-- Apply a function to the lanes of two lines. -/
def map2 (e : Nat) (f : Nat → Nat → Nat) (a b : Line) : Line := allLanes e fun i => f (lane a e i) (lane b e i)

/-! ### Element-wise arithmetic (R309) -/

/-- The operations of Table 14.2 that take two lanes. -/
inductive Bin
  | add | sub | mul | min | max | and | or | xor | shl | shr | sra | addSat | subSat
  deriving DecidableEq, Repr
/-- Integer lanes of Table 14.2. -/
def Bin.int (o : Bin) (signed : Bool) (e a b : Nat) : Nat :=
  let x := intValue signed e a
  let y := intValue signed e b
  let n := b % e
  match o with
  | .add => patternOf e (x + y)
  | .sub => patternOf e (x - y)
  | .mul => patternOf e (x * y)
  | .min => if y < x then b else a
  | .max => if x < y then b else a
  | .and => a &&& b
  | .or => a ||| b
  | .xor => a ^^^ b
  | .shl => a * 2 ^ n % 2 ^ e
  | .shr => a / 2 ^ n
  | .sra => patternOf e (x / (2 ^ n : Nat))
  | .addSat => patternOf e (clampInt signed e (x + y))
  | .subSat => patternOf e (clampInt signed e (x - y))
/-- WMIN of floating lanes: -0 is less than +0, and NaN if either is NaN. -/
def minFloat (f : FloatFmt) (a b : Nat) : Nat :=
  let x := f.value a
  let y := f.value b
  if x.isNan || y.isNan then f.nan
  else if y.less x || (x.isZero && y.isZero && y.sign) then b
  else a
/-- WMAX of floating lanes. -/
def maxFloat (f : FloatFmt) (a b : Nat) : Nat :=
  let x := f.value a
  let y := f.value b
  if x.isNan || y.isNan then f.nan
  else if x.less y || (x.isZero && y.isZero && x.sign) then b
  else a
/-- Floating lanes of Table 14.2; the bitwise and shift rows are unassigned for them. -/
def Bin.float (o : Bin) (f : FloatFmt) (a b : Nat) : Nat :=
  match o with
  | .add => f.rne ((f.value a).add (f.value b))
  | .sub => f.rne ((f.value a).add (f.value b).negate)
  | .mul => f.rne ((f.value a).mul (f.value b))
  | .min => minFloat f a b
  | .max => maxFloat f a b
  | .and | .or | .xor | .shl | .shr | .sra | .addSat | .subSat => a
/-- Lanes of an operation in a format. -/
def Bin.lanes (o : Bin) (f : Elt) (a b : Nat) : Nat :=
  match eltFloat f with
  | some x => o.float x a b
  | none => o.int (eltSigned f) (eltBits f) a b
/-- A two-source instruction of major 0x40. -/
def State.wide2 (s : State) (o : Bin) (f : Elt) (d a b : WReg) : Out :=
  s.wideTo [a, b] d fun v => map2 (eltBits f) (o.lanes f) (v a) (v b)
/-- WADD (R309). -/
def execWadd (f : Elt) (d a b : WReg) (s : State) : Out := s.wide2 .add f d a b
/-- WSUB (R309). -/
def execWsub (f : Elt) (d a b : WReg) (s : State) : Out := s.wide2 .sub f d a b
/-- WMUL (R309). -/
def execWmul (f : Elt) (d a b : WReg) (s : State) : Out := s.wide2 .mul f d a b
/-- WMIN (R309). -/
def execWmin (f : Elt) (d a b : WReg) (s : State) : Out := s.wide2 .min f d a b
/-- WMAX (R309). -/
def execWmax (f : Elt) (d a b : WReg) (s : State) : Out := s.wide2 .max f d a b
/-- WAND (R309). -/
def execWand (f : Elt) (d a b : WReg) (s : State) : Out := s.wide2 .and f d a b
/-- WOR (R309). -/
def execWor (f : Elt) (d a b : WReg) (s : State) : Out := s.wide2 .or f d a b
/-- WXOR (R309). -/
def execWxor (f : Elt) (d a b : WReg) (s : State) : Out := s.wide2 .xor f d a b
/-- WSHL (R309). -/
def execWshl (f : Elt) (d a b : WReg) (s : State) : Out := s.wide2 .shl f d a b
/-- WSHR (R309). -/
def execWshr (f : Elt) (d a b : WReg) (s : State) : Out := s.wide2 .shr f d a b
/-- WSRA (R309): on a natural format, as WSHR. -/
def execWsra (f : Elt) (d a b : WReg) (s : State) : Out := s.wide2 .sra f d a b
/-- WADD.sat (R309). -/
def execWaddSat (f : Elt) (d a b : WReg) (s : State) : Out := s.wide2 .addSat f d a b
/-- WSUB.sat (R309). -/
def execWsubSat (f : Elt) (d a b : WReg) (s : State) : Out := s.wide2 .subSat f d a b
/-- Lane of WABS (R309). -/
def absLane (f : Elt) (a : Nat) : Nat :=
  match eltFloat f with
  | some x => if (x.value a).isNan then x.nan else a % 2 ^ (x.width - 1)
  | none => if eltSigned f then patternOf (eltBits f) (intValue true (eltBits f) a).natAbs else a
/-- WABS (R309). -/
def execWabs (f : Elt) (d a : WReg) (s : State) : Out :=
  s.wideTo [a] d fun v => map1 (eltBits f) (absLane f) (v a)

/-! ### Fused multiply-add (R310) -/

/-- A lane of Table 14.3: `np` negates the product and `nc` the addend. -/
def fmaLane (f : Elt) (np nc : Bool) (a b c : Nat) : Nat :=
  match eltFloat f with
  | some x =>
    let p := (x.value a).mul (x.value b)
    let p := if np then p.negate else p
    let q := if nc then (x.value c).negate else x.value c
    x.rne (p.add q)
  | none => a
/-- An instruction of major 0x41. -/
def State.fma (s : State) (np nc : Bool) (f : Elt) (d a b c : WReg) : Out :=
  s.wideTo [a, b, c] d fun v =>
    let e := eltBits f
    allLanes e fun i => fmaLane f np nc (lane (v a) e i) (lane (v b) e i) (lane (v c) e i)
/-- WFMA (R310). -/
def execWfma (f : Elt) (d a b c : WReg) (s : State) : Out := s.fma false false f d a b c
/-- WFMS (R310). -/
def execWfms (f : Elt) (d a b c : WReg) (s : State) : Out := s.fma false true f d a b c
/-- WFNMA (R310). -/
def execWfnma (f : Elt) (d a b c : WReg) (s : State) : Out := s.fma true false f d a b c
/-- WFNMS (R310). -/
def execWfnms (f : Elt) (d a b c : WReg) (s : State) : Out := s.fma true true f d a b c

/-! ### Compares, selects and moves (R311, R312) -/

/-- Is lane a less than lane b? -/
def laneLt (f : Elt) (a b : Nat) : Bool :=
  match eltFloat f with
  | some x => (x.value a).less (x.value b)
  | none => decide (intValue (eltSigned f) (eltBits f) a < intValue (eltSigned f) (eltBits f) b)
/-- Are the lanes equal? -/
def laneEq (f : Elt) (a b : Nat) : Bool :=
  match eltFloat f with
  | some x => (x.value a).same (x.value b)
  | none => decide (a = b)
/-- An instruction of major 0x42 that compares. -/
def State.wideCmp (s : State) (rel : Elt → Nat → Nat → Bool) (f : Elt) (d a b : WReg) : Out :=
  s.wideTo [a, b] d fun v =>
    map2 (eltBits f) (fun x y => if rel f x y then 2 ^ eltBits f - 1 else 0) (v a) (v b)
/-- WCEQ (R311). -/
def execWceq (f : Elt) (d a b : WReg) (s : State) : Out := s.wideCmp laneEq f d a b
/-- WCNE (R311). -/
def execWcne (f : Elt) (d a b : WReg) (s : State) : Out := s.wideCmp (fun f x y => !(laneEq f x y)) f d a b
/-- WCLT (R311). -/
def execWclt (f : Elt) (d a b : WReg) (s : State) : Out := s.wideCmp laneLt f d a b
/-- WCLE (R311). -/
def execWcle (f : Elt) (d a b : WReg) (s : State) : Out :=
  s.wideCmp (fun f x y => laneLt f x y || laneEq f x y) f d a b
/-- WSEL (R311). -/
def execWsel (f : Elt) (d a b c : WReg) (s : State) : Out :=
  s.wideTo [a, b, c] d fun v =>
    let e := eltBits f
    allLanes e fun i => if lane (v c) e i ≠ 0 then lane (v a) e i else lane (v b) e i
/-- WPERM (R312). -/
def execWperm (f : Elt) (d a b : WReg) (s : State) : Out :=
  s.wideTo [a, b] d fun v =>
    let e := eltBits f
    allLanes e fun i => lane (v a) e (lane (v b) e i % (512 / e))
/-- WBCST (R312). -/
def execWbcst (f : Elt) (d : WReg) (g : GReg) (s : State) : Out :=
  s.wideTo [] d fun _ => allLanes (eltBits f) fun _ => (s.me.getG g).toNat
/-- WMOV (R312). -/
def execWmov (f : Elt) (d a : WReg) (s : State) : Out :=
  s.wideTo [a] d fun v => map1 (eltBits f) id (v a)

/-! ### Special functions (R313) -/

/-- A lane of major 0x44. -/
def specialLane (o : Special) (f : Elt) (a : Nat) : Nat :=
  match eltFloat f with
  | some x => o.apply x a
  | none => a
/-- An instruction of major 0x44. -/
def State.special (s : State) (o : Special) (f : Elt) (d a : WReg) : Out :=
  s.wideTo [a] d fun v => map1 (eltBits f) (specialLane o f) (v a)
/-- WSIG (R313). -/
def execWsig (f : Elt) (d a : WReg) (s : State) : Out := s.special .sig f d a
/-- WEXP (R313). -/
def execWexp (f : Elt) (d a : WReg) (s : State) : Out := s.special .exp f d a
/-- WRCP (R313). -/
def execWrcp (f : Elt) (d a : WReg) (s : State) : Out := s.special .rcp f d a
/-- WRSQ (R313). -/
def execWrsq (f : Elt) (d a : WReg) (s : State) : Out := s.special .rsq f d a
/-- WTANH (R313). -/
def execWtanh (f : Elt) (d a : WReg) (s : State) : Out := s.special .tanh f d a
/-- WLOG (R313). -/
def execWlog (f : Elt) (d a : WReg) (s : State) : Out := s.special .log f d a

/-! ### Dot products and reductions (R314, R315, R226) -/

/-- Signedness of both sources and their width (R240). -/
def pairingOf : Pairing → Bool × Bool × Nat
  | .i8i8 => (true, true, 8)
  | .n8n8 => (false, false, 8)
  | .i8n8 => (true, false, 8)
  | .i16i16 => (true, true, 16)
  | .n16n16 => (false, false, 16)
  | .i4i4 => (true, true, 4)
  | .n4n4 => (false, false, 4)
/-- Signedness and width of a lane format. -/
def dotLane : DotLane → Bool × Nat
  | .i32 => (true, 32)
  | .n32 => (false, 32)
  | .i64 => (true, 64)
  | .n64 => (false, 64)
/-- The exact sum of the products of `n` pairs from pair `j` up. -/
def dotSum (sa sb : Bool) (e : Nat) (a b : Line) (j : Nat) : Nat → Int
  | 0 => 0
  | n + 1 => dotSum sa sb e a b j n + intValue sa e (lane a e (j + n)) * intValue sb e (lane b e (j + n))
/-- WDOT (R314). -/
def execWdot (f : DotLane) (sat : Bool) (p : Pairing) (d a b c : WReg) (s : State) : Out :=
  s.wideTo [a, b, c] d fun v =>
    let (sl, w) := dotLane f
    let (sa, sb, e) := pairingOf p
    allLanes w fun i =>
      let total := intValue sl w (lane (v c) w i) + dotSum sa sb e (v a) (v b) (w / e * i) (w / e)
      intNarrow sat sl w total
/-- The exact sum of `n` integer lanes. -/
def laneSum (signed : Bool) (e : Nat) (l : Line) : Nat → Int
  | 0 => 0
  | n + 1 => laneSum signed e l n + intValue signed e (lane l e n)
/-- The exact sum of lanes 0 to `n` of a floating format. -/
def floatSum (f : FloatFmt) (l : Line) : Nat → Num
  | 0 => f.value (lane l f.width 0)
  | n + 1 => (floatSum f l n).add (f.value (lane l f.width (n + 1)))
/-- A fold of lanes 0 to `n` by an operation on lanes. -/
def foldLanes (op : Nat → Nat → Nat) (e : Nat) (l : Line) : Nat → Nat
  | 0 => lane l e 0
  | n + 1 => op (foldLanes op e l n) (lane l e (n + 1))
/-- A reduced lane as a word: sign-extended from a signed format, else zero-extended (R315). -/
def laneWord (f : Elt) (c : Nat) : Word := if eltSigned f then wrapInt (signedOf (eltBits f) c) else wrap c
/-- WRED.sum (R315). -/
def redSum (f : Elt) (l : Line) : Word :=
  match eltFloat f with
  | some x => wrap (x.rne (floatSum x l (512 / x.width - 1)))
  | none => wrapInt (laneSum (eltSigned f) (eltBits f) l (512 / eltBits f))
/-- WRED.min and WRED.max (R315). -/
def redBy (o : Bin) (f : Elt) (l : Line) : Word :=
  let c := foldLanes (o.lanes f) (eltBits f) l (512 / eltBits f - 1)
  match eltFloat f with
  | some x => wrap (if (x.value c).isNan then x.nan else c)
  | none => laneWord f c
/-- A reduction into a g register. -/
def State.reduce (s : State) (g : GReg) (a : WReg) (r : Line → Word) : Out :=
  s.wideRun [a] none (fun v => v a) fun v k => k.setG g (r v)
/-- WRED.sum (R315). -/
def execWredSum (f : Elt) (g : GReg) (a : WReg) (s : State) : Out := s.reduce g a (redSum f)
/-- WRED.min (R315). -/
def execWredMin (f : Elt) (g : GReg) (a : WReg) (s : State) : Out := s.reduce g a (redBy .min f)
/-- WRED.max (R315). -/
def execWredMax (f : Elt) (g : GReg) (a : WReg) (s : State) : Out := s.reduce g a (redBy .max f)

/-! ### Conversions (R316 to R318, R242) -/

/-- A format as WCVT sees it: a floating format, or an integer format's signedness and width. -/
inductive Kind
  | float (f : FloatFmt)
  | int (signed : Bool) (n : Nat)
  deriving DecidableEq, Repr
/-- Bits of a format. -/
def Kind.bits : Kind → Nat
  | .float f => f.width
  | .int _ n => n
/-- The kind of an element format. -/
def eltKind (e : Elt) : Kind :=
  match eltFloat e with
  | some f => .float f
  | none => .int (eltSigned e) (eltBits e)
/-- The kind of any format. -/
def fmtKind : Fmt → Kind
  | .elt e => eltKind e
  | .b8 f => .float (bin8 f)
/-- The kind of a pivot. -/
def pivotKind : Pivot → Kind
  | .f32 => .float fp32
  | .bf16 => .float bf16
  | .f16 => .float fp16
  | .i32 => .int true 32
/-- The exact value of a code. -/
def Kind.value (k : Kind) (c : Nat) : Num :=
  match k with
  | .float f => f.value c
  | .int signed n => numOfInt (intValue signed n c)
/-- The scale factor of element j of E elements (Table 14.5). -/
def scaleOf (p : Pivot) (v : Word) (j E : Nat) : Num :=
  match p with
  | .f32 | .i32 => fp32.value (v.toNat / 2 ^ (32 * (2 * j / E)) % 2 ^ 32)
  | .bf16 | .f16 => bf16.value (v.toNat / 2 ^ (16 * (4 * j / E)) % 2 ^ 16)
/-- One element of a conversion (R318). -/
def cvtElt (src dst : Kind) (sat : Bool) (rm : Rnd) (scale : Option Num) (c : Nat) : Nat :=
  let x := src.value c
  let y := match scale with
    | some sg => x.mul sg
    | none => x
  match dst, src with
  | .float f, _ => f.convert rm sat y
  | .int signed n, .float _ => intConvert rm signed n y
  | .int signed n, .int ss sn =>
    if scale.isSome then intConvert rm signed n y else intNarrow sat signed n (intValue ss sn c)
/-- All elements of a conversion (R316). -/
def cvtLine (p : Pivot) (src dst : Kind) (sat : Bool) (rm : Rnd) (scales : Option Word) (a : Line) : Line :=
  let E := 512 / max src.bits dst.bits
  ofLanes dst.bits E fun j => cvtElt src dst sat rm (scales.map fun v => scaleOf p v j E) (lane a src.bits j)
/-- Source and destination of a conversion word (R242). -/
def cvtKinds (toPivot : Bool) (p : Pivot) (f : Fmt) : Kind × Kind :=
  if toPivot then (fmtKind f, pivotKind p) else (pivotKind p, fmtKind f)
/-- The pivot that a format is, when it is one. -/
def fmtPivot : Fmt → Option Pivot
  | .elt .f32 => some .f32
  | .elt .bf16 => some .bf16
  | .elt .f16 => some .f16
  | .elt .i32 => some .i32
  | .elt _ | .b8 _ => none
/-- The pivot whose layout the block scales of a word have: a word whose other format is itself a pivot, and its source, acts as the word with that pivot (R242, R317). -/
def scalePivot (toPivot : Bool) (pv : Pivot) (f : Fmt) : Pivot := if toPivot then (fmtPivot f).getD pv else pv
/-- WCVT (R318). -/
def execWcvt (toPivot : Bool) (pv : Pivot) (f : Fmt) (sat : Bool) (r : Rnd) (d a : WReg) (s : State) : Out :=
  let (src, dst) := cvtKinds toPivot pv f
  s.wideTo [a] d fun v => cvtLine pv src dst sat r none (v a)
/-- WCVT with block scales (R317, R318). -/
def execWcvtScaled (toPivot : Bool) (pv : Pivot) (f : Fmt) (sat : Bool) (r : Rnd) (d a : WReg) (g : GReg)
    (s : State) : Out :=
  let (src, dst) := cvtKinds toPivot pv f
  s.wideTo [a] d fun v => cvtLine (scalePivot toPivot pv f) src dst sat r (some (s.me.getG g)) (v a)

end Sys2Proof.Machine
end

