-- ==== Sys2Proof/Machine/Yard.lean ====
section
/-!
DEFINITION. The kiln yard as a slot sees it (chapters 4, 8 and 15): hod fields and their checks (R197 to R200, R331), admission of entries (R101, R102), HIRE and HIRET (R330), pallets and their saves (R202 to R205), and the pallet instructions (R332 to R337).
-/
namespace Sys2Proof.Machine

/-! ### Hod fields (Table 8.2) -/

/-- OP. -/
def hodOp (h : Line) : Nat := lbits h 0 3 0
/-- OFFSET. -/
def hodOffset (h : Line) : Nat := lbits h 0 63 44
/-- Repetitions. -/
def hodReps (h : Line) : Nat := lbits h 0 43 36 + 1
/-- PSEL. -/
def hodPsel (h : Line) : Nat := lbits h 0 33 32
/-- AFMT. -/
def hodA (h : Line) : Nat := lbits h 0 31 26
/-- WFMT. -/
def hodW (h : Line) : Nat := lbits h 0 25 20
/-- DFMT. -/
def hodD (h : Line) : Nat := lbits h 0 19 14
/-- ACC. -/
def hodAcc (h : Line) : Bool := decide (lbits h 0 11 11 = 1)
/-- LANDF. -/
def hodLandf (h : Line) : Bool := decide (lbits h 0 10 10 = 1)
/-- SCA. -/
def hodSca (h : Line) : Bool := decide (lbits h 0 9 9 = 1)
/-- SCW. -/
def hodScw (h : Line) : Bool := decide (lbits h 0 8 8 = 1)
/-- Rows M. -/
def hodM (h : Line) : Nat := lbits h 6 63 56 + 1
/-- Reduction length K. -/
def hodK (h : Line) : Nat := lbits h 6 55 48 + 1
/-- Columns N. -/
def hodN (h : Line) : Nat := lbits h 6 47 40 + 1
/-- ROW0. -/
def hodRow0 (h : Line) : Nat := lbits h 6 39 32
/-- COL0. -/
def hodCol0 (h : Line) : Nat := lbits h 6 31 24
/-- LEASE. -/
def hodLease (h : Line) : Nat := lbits h 6 15 0
/-- TAG. -/
def hodTag (h : Line) : Nat := lbits h 7 63 32
/-- Does the hod use a pallet: MMA, ZERO and LAND do (Table 8.3)? -/
def usesPallet (h : Line) : Bool := decide (3 ≤ hodOp h)

/-! ### Kiln format codes (Table 8.4) -/

/-- The binary8 format of a kiln code. -/
def kilnBin8 (c : Nat) : Option Bin8 :=
  if c % 8 = 0 then none
  else if c / 8 = 1 then some ⟨true, false, Fin.ofNat 7 (c % 8 - 1)⟩
  else if c / 8 = 2 then some ⟨true, true, Fin.ofNat 7 (c % 8 - 1)⟩
  else if c / 8 = 3 then some ⟨false, false, Fin.ofNat 7 (c % 8 - 1)⟩
  else if c / 8 = 4 then some ⟨false, true, Fin.ofNat 7 (c % 8 - 1)⟩
  else none
/-- Is the code an 8-bit format? -/
def kiln8 (c : Nat) : Bool := decide (c = 3) || decide (c = 4) || (kilnBin8 c).isSome
/-- Is the code a 4-bit format? -/
def kiln4 (c : Nat) : Bool := decide (c = 5) || decide (c = 6)
/-- Bits of an element of an activation or weight format. -/
def kilnBits (c : Nat) : Nat := if c = 1 then 16 else if kiln4 c then 4 else 8
/-- The value of an element code. -/
def kilnValue (c v : Nat) : Num :=
  if c = 1 then bf16.value v
  else if c = 3 then numOfInt (intValue true 8 v)
  else if c = 4 then numOfInt (intValue false 8 v)
  else if c = 5 then numOfInt (intValue true 4 v)
  else if c = 6 then numOfInt (intValue false 4 v)
  else
    match kilnBin8 c with
    | some f => (bin8 f).value v
    | none => .nan
/-- Is the pairing of an activation and a weight format valid (R198)? -/
def pairOk (a w : Nat) : Bool :=
  (kiln8 a && kiln8 w) || (decide (a = 1) && (decide (w = 1) || kiln4 w))
/-- Is the weight format valid? -/
def weightOk (w : Nat) : Bool := decide (w = 1) || kiln8 w || kiln4 w

/-! ### Work (R200) and the checks of the yard (R199, R331) -/

/-- Lines of a landed row. -/
def rowLines (h : Line) : Nat := ceilDiv (hodN h * (if hodD h = 1 then 2 else 4)) 64
/-- Does a WLOAD read its scale table (R194)? -/
def readsTable (h : Line) : Bool := hodScw h || kiln4 (hodW h)
/-- Cycles of one repetition of an MMA after its first 64 (Table 8.5). -/
def repWork (h : Line) : Nat :=
  hodM h * (if kiln8 (hodA h) && kiln8 (hodW h) then 1 else 4) + (if hodLandf h then hodM h * rowLines h else 0)
/-- The work of a hod in cycles (Table 8.5). -/
def hodWork (h : Line) : Nat :=
  match hodOp h with
  | 1 => 64 + (if readsTable h then 64 else 0) + hodK h * (if kiln8 (hodW h) then 1 else 2)
  | 2 => 4
  | 3 => 64 + hodReps h * repWork h
  | 4 => 16 + hodM h
  | 5 => 16 + hodM h * rowLines h
  | _ => 0
/-- Bits [hi:lo] set. -/
def field (hi lo : Nat) : Nat := 2 ^ (hi + 1) - 2 ^ lo
/-- The bits that an operation uses, word by word (Tables 8.2 and 8.3); every other bit must be zero. -/
def hodMask (h : Line) : List Nat :=
  let all := field 63 0
  let up := field 63 32
  let low := field 31 0
  let off := field 63 44 + field 3 0
  let lease := if hodPsel h = 1 then field 15 0 else 0
  let rect := field 63 56 + field 47 24
  match hodOp h with
  | 1 => [off + field 25 20 + field 8 8, all, all, 0, up, 0, field 55 40, up]
  | 2 => [off, 0, 0, 0, 0, 0, 0, 0]
  | 3 =>
    let land := if hodLandf h then low else 0
    [off + field 43 36 + field 33 14 + field 11 8, all, all, if hodLandf h then all else 0, up + land, up + land,
      rect + field 55 48 + lease, up]
  | 4 => [off + field 33 32, 0, 0, 0, 0, 0, rect + lease, 0]
  | 5 => [off + field 33 32 + field 19 14, 0, 0, all, low, 0, rect + lease, 0]
  | _ => [0, 0, 0, 0, 0, 0, 0, 0]
/-- Are the bits of every word within the mask? -/
def maskOk (h : Line) (m : List Nat) : Bool :=
  (List.range 8).all fun i => decide ((wordOf h i).toNat &&& (field 63 0 - m.getD i 0) = 0)
/-- Are bases, strides and steps multiples of 64? -/
def hodAligned (h : Line) : Bool :=
  [lbits h 1 5 0, lbits h 2 5 0, lbits h 3 5 0, lbits h 4 37 32, lbits h 4 5 0, lbits h 5 37 32, lbits h 5 5 0].all
    fun v => decide (v = 0)
/-- The checks of R199 that give MALFORMED. -/
def malformed (h : Line) : Bool :=
  let op := hodOp h
  !(decide (1 ≤ op ∧ op ≤ 5)) || !(maskOk h (hodMask h)) || decide (1 < hodPsel h) || !(hodAligned h)
    || (decide (op = 1) && !(weightOk (hodW h)))
    || (decide (op = 3) && !(pairOk (hodA h) (hodW h)))
    || ((decide (op = 3) || decide (op = 5)) && !(decide (hodD h = 1 ∨ hodD h = 2)))
    || ((decide (op = 1) || decide (op = 3)) && kiln4 (hodW h) && decide (hodN h % 2 = 1))
    || ((decide (op = 1) || decide (op = 3)) && decide (128 < hodK h))
    || (decide (op = 1) && decide (128 < hodN h))
    || (decide (3 ≤ op) && decide (128 < hodRow0 h + hodM h ∨ 128 < hodCol0 h + hodN h))
    || (decide (op = 3) && decide (hodReps h ≠ 1) && (!(hodLandf h) || hodAcc h))

/-- A kiln of the package. -/
def State.kiln (s : State) (kn : Nat) : Kiln := KMap.getD s.kilns kn Kiln.zero
/-- Change a kiln. -/
def State.modKiln (s : State) (kn : Nat) (f : Kiln → Kiln) : State :=
  { s with kilns := KMap.set s.kilns kn (f (s.kiln kn)) }
/-- Kilns of a virtual device on a die. -/
def State.kilnsOn (s : State) (vd die : Nat) : List Nat :=
  match s.vd? vd with
  | some v => v.kilns.filter fun k => decide (k / 32 = die)
  | none => []
/-- The lease that a handle names for a slot of a device on a die, when no PFREE holds it (R332). -/
def State.lease? (s : State) (vd die handle : Nat) : Option Lease :=
  if handle &&& (field 63 0 - (field 14 8 + field 1 0)) ≠ 0 then none
  else if !((s.kilnsOn vd die).contains (handle / 256)) then none
  else
    match KMap.find? (s.kiln (handle / 256)).leases (handle % 4) with
    | some l => if l.vd = vd ∧ l.freer = none then some l else none
    | none => none
/-- Lease handles that hods name. -/
def leasesOf (hods : List Line) : List Nat :=
  (hods.filter fun h => usesPallet h && decide (hodPsel h = 1)).map hodLease
/-- Do two leases lie on different kilns? -/
def leasesSplit (ls : List Nat) : Bool := ls.any fun a => decide (a / 256 ≠ ls.headD 0 / 256)
/-- Do offsets fall along a train? -/
def fallingFrom : Nat → List Nat → Bool
  | _, [] => false
  | a, b :: r => decide (b < a) || fallingFrom b r
/-- Is an offset of a hire wrong (R107, Table 8.2)? -/
def badOffsets (hods : List Line) : Bool :=
  let os := hods.map hodOffset
  decide (os.headD 0 ≠ 0) || os.any (fun o => decide (524287 < o)) || fallingFrom 0 os
/-- Does a hire exceed a limit of R105? -/
def overWork (hods : List Line) : Bool :=
  hods.any (fun h => decide (65536 < hodWork h))
    || match hods.getLast? with
      | some h => decide (524288 < hodOffset h + hodWork h)
      | none => false
/-- YardCheck (R331): the status of a rejection, or 0. -/
def State.yardCheck (s : State) (vd die : Nat) (hods : List Line) : Nat :=
  if s.kilnsOn vd die = [] then 1
  else if hods.any malformed then 2
  else if (leasesOf hods).any (fun l => (s.lease? vd die l).isNone) || leasesSplit (leasesOf hods) then 5
  else if badOffsets hods then 4
  else if overWork hods then 3
  else 0

/-- The kiln that an entry's leases bind it to (R203). -/
def Entry.boundKiln (e : Entry) : Option Nat := (leasesOf e.hods).head?.map fun l => l / 256

/-! ### Admission (R101, R102) -/

/-- Entries of a device on a die. -/
def State.entriesOf (s : State) (vd die : Nat) : List Entry :=
  s.entries.filter fun e => decide (e.vd = vd ∧ e.brick / 512 = die)
/-- Yard entries that lane entries hold: one for each hod. -/
def hodCount (es : List Entry) : Nat := es.foldl (fun n e => n + e.hods.length) 0
/-- A master: a slot of one partition (R5), numbered so that masters stand in the order of their slots. -/
def masterOf (key vd : Nat) : Nat := 16 * key + vd
/-- Lane entries of a lane of a master. -/
def State.laneOf (s : State) (master lane : Nat) : List Entry :=
  s.entries.filter fun e => decide (e.master = master ∧ e.lane = lane)
/-- Does a hire of `n` hods exceed its region's hire share? -/
def State.shareFails (s : State) (vd region die n : Nat) : Bool :=
  let own := hodCount ((s.entriesOf vd die).filter fun e => decide (e.region = region))
  match s.region? vd region with
  | some r => decide (own ≠ 0 ∧ r.hireShare < own + n)
  | none => false
/-- Does it exceed the partition's entries on the die? -/
def State.totalFails (s : State) (vd die n : Nat) : Bool :=
  match s.vd? vd with
  | some v => decide (1024 * v.slotNums.length < hodCount (s.entriesOf vd die) + n)
  | none => true
/-- Does a waiting hire hold back others: it is not waiting for its own lane alone? -/
def State.holdsBack (s : State) (w : Nat × Nat × Nat × Bool) : Bool :=
  match s.ctxOf w.1 with
  | some k =>
    match k.mode with
    | .parked (.cond (.yard _ lane n _)) =>
      decide ((s.laneOf (masterOf ((s.keyOf w.1).getD 0) k.vd) lane).length < 8) || s.shareFails k.vd k.region w.2.1 n || s.totalFails k.vd w.2.1 n
    | _ => true
  | none => false
/-- The hires that began to wait before a context's, of its device on the die. -/
def State.earlierWaits (s : State) (k : Slot) (die : Nat) : List (Nat × Nat × Nat × Bool) :=
  (s.yardWaits.takeWhile fun w => decide (w.1 ≠ k.ctx)).filter fun w =>
    match s.ctxOf w.1 with
    | some x => decide (x.vd = k.vd ∧ w.2.1 = die) && s.holdsBack w
    | none => false
/-- Is a waiter of a region, or does it wait on the partition's total? -/
def State.inWay (s : State) (region : Nat) (w : Nat × Nat × Nat × Bool) : Bool :=
  !w.2.2.2 || match s.ctxOf w.1 with
    | some x => decide (x.region = region) || s.totalFails x.vd w.2.1 w.2.2.1
    | none => false
/-- Must a hire wait for the tests on its region's share and the partition's total, or behind earlier waiters? The answer says whether it waits in its region's order alone. -/
def State.mustWait (s : State) (k : Slot) (die n : Nat) : Option Bool :=
  let own := s.yardWaits.find? fun w => decide (w.1 = k.ctx)
  let onTotal := match own with
    | some w => !w.2.2.2
    | none => false
  let before := s.earlierWaits k die
  if s.totalFails k.vd die n then some false
  else if onTotal && decide (before ≠ []) then some false
  else if s.shareFails k.vd k.region die n then some true
  else if before.any (s.inWay k.region) then some true
  else none
/-- Hires that wait on their region's share alone, and that the partition's total now holds back too, wait on the total from now on (R102). -/
def State.markTotals (s : State) : State :=
  let mark := fun (w : Nat × Nat × Nat × Bool) =>
    match s.ctxOf w.1 with
    | some k => if w.2.2.2 && s.totalFails k.vd w.2.1 w.2.2.1 then (w.1, w.2.1, w.2.2.1, false) else w
    | none => w
  { s with yardWaits := s.yardWaits.map mark }
/-- Can a slot parked on a yard entry go on? -/
def State.yardFree (s : State) (key : Nat) (k : Slot) (brick lane n : Nat) : Bool :=
  decide ((s.laneOf (masterOf key k.vd) lane).length < 8) && (s.mustWait k (brick / 512) n).isNone

/-- Resident time of a device in cycles (R104). -/
def State.residentTime (s : State) (vd : Nat) : Nat :=
  match s.vd? vd with
  | some v => v.residentCycles + if v.resident then s.cycle - v.residentSince else 0
  | none => 0
/-- Has the entry been granted? -/
def Entry.isGranted (e : Entry) : Bool := decide (e.stage ≠ .waiting)
/-- The lowest yard entry of a device on a die that is no lane entry's place. -/
def State.freePlace (s : State) (vd die : Nat) : Nat :=
  let used := (s.entriesOf vd die).map (·.place)
  ((List.range (used.length + 1)).find? fun p => !(used.contains p)).getD 0
/-- A hire enters its lane (R330). -/
def State.enterLane (s : State) (k : Slot) (brick lane : Nat) (hods : List Line) : State :=
  let (id, s) := s.fresh
  let prio := match s.region? k.vd k.region with
    | some r => r.prio
    | none => 0
  let master := masterOf s.cur k.vd
  let since := if (s.laneOf master lane).all Entry.isGranted then some (s.residentTime k.vd) else none
  let e : Entry :=
    { id := id, vd := k.vd, ctx := k.ctx, master := master, brick := brick, region := k.region, prio := prio, lane := lane,
      level := k.level, space := k.space, hods := hods, ticket := k.tkt.toNat, stage := .waiting, since := since,
      aged := none, kiln := none, grantAt := 0, base := 0, hod := 0, resume := none, redo := [], runs := [], lands := [],
      statuses := [], sent := 0, place := s.freePlace k.vd (brick / 512), saved := false }
  { s with entries := s.entries ++ [e], yardWaits := s.yardWaits.filter fun w => decide (w.1 ≠ k.ctx) }

/-! ### HIRE and HIRET (R327 to R330) -/

/-- Word 0 of an inbox entry (Table 6.7). -/
def inboxWord (ticket lane status kind : Nat) : Word :=
  wrap (ticket % 2 ^ 32 * 2 ^ 32 + lane * 2 ^ 16 + status * 2 ^ 8 + kind)
/-- The entries of a rejection (R328). -/
def rejections (ticket lane status n : Nat) : List InboxEntry :=
  (List.range n).map fun i => ⟨inboxWord (ticket + i) lane status 1, 0⟩
/-- What a hire does to its slot: tickets taken, hods counted (R327, R329). -/
def Slot.hired (k : Slot) (t : GReg) (n : Nat) : Slot :=
  { (k.setG t (k.tkt.setWidth 64)).dropAhead with tkt := k.tkt + BitVec.ofNat 32 n, hires := k.hires + n }
/-- A hire parks until the yard can take it; it keeps the place in the order in which it began to wait (R102). -/
def State.awaitYard (s : State) (die n lane : Nat) (share : Bool) : Out :=
  let c := s.me.ctx
  let w := (c, die, n, share)
  let others := s.yardWaits.any fun x => decide (x.1 = c)
  let q := if others then s.yardWaits.map fun x => if x.1 = c then w else x else s.yardWaits ++ [w]
  { s with yardWaits := q }.waitFor (.yard s.brick lane n share)
/-- A hire of the hods in `n` registers from `z` on a lane (R330). -/
def State.hire (s : State) (t : GReg) (z : ZReg) (n lane : Nat) : Out :=
  let k := s.me
  let reg := fun (i : Nat) => (Fin.ofNat 16 (z.val + i) : ZReg)
  match (List.range n).find? fun i => !(k.zValid (reg i)) with
  | some i => s.trap .stale (zXval (reg i))
  | none =>
    if 512 < k.hires + n then s.trap .illegalOperand (wrap k.hires)
    else
      s.drainedAck <|
        let die := s.brick / 512
        let hods := (List.range n).map fun i => k.z[reg i]
        let st := s.yardCheck k.vd die hods
        if st ≠ 0 then
          let es := rejections k.tkt.toNat lane st n
          let s := { s with yardWaits := s.yardWaits.filter fun w => decide (w.1 ≠ k.ctx) }
          if k.mailRoom n then s.retire fun k => es.foldl Slot.addInbox (k.hired t n)
          else (es.foldl (fun s e => s.post k.ctx (some lane) e) s).retire fun k => k.hired t n
        else
          match s.mustWait k die n with
          | some share => s.awaitYard die n lane share
          | none =>
            if 8 ≤ (s.laneOf (masterOf s.cur k.vd) lane).length then s.awaitYard die n lane true
            else (s.enterLane k s.brick lane hods).retire fun k => k.hired t n
/-- HIRE (R330). -/
def execHire (t : GReg) (z : ZReg) (l : BitVec 3) (s : State) : Out := s.hire t z 1 l.toNat
/-- HIRET (R330). -/
def execHiret (t : GReg) (z : ZReg) (n l : BitVec 3) (s : State) : Out := s.hire t z (n.toNat + 1) l.toNat

/-! ### Pallets (R202 to R205) -/

/-- An element of a pallet. -/
def PalletData.cell (d : PalletData) (r c : Nat) : Nat := KMap.getD d.cells (128 * r + c) 0
/-- Write an element, which sets its row's dirty bit (R202). -/
def PalletData.setCell (d : PalletData) (r c v : Nat) : PalletData :=
  { cells := if v = 0 then KMap.erase d.cells (128 * r + c) else KMap.set d.cells (128 * r + c) v,
    dirty := NSet.insert d.dirty r }
/-- Do two holders stand for the same pallet? An entry's temporary pallet may be parked. -/
def PalletHolder.same : PalletHolder → PalletHolder → Bool
  | .lease a, .lease b => decide (a = b)
  | .temp a, .temp b | .temp a, .parked b | .parked a, .temp b | .parked a, .parked b => decide (a = b)
  | .lease _, .temp _ | .lease _, .parked _ | .temp _, .lease _ | .parked _, .lease _ => false
/-- Change an entry. -/
def State.modEntry (s : State) (id : Nat) (f : Entry → Entry) : State :=
  { s with entries := s.entries.map fun e => if e.id = id then f e else e }
/-- An entry. -/
def State.entry? (s : State) (id : Nat) : Option Entry := s.entries.find? fun e => decide (e.id = id)
/-- The pallet that a hod of an entry names. -/
def Entry.holderOf (e : Entry) (h : Line) : PalletHolder := if hodPsel h = 1 then .lease (hodLease h % 4) else .temp e.id

/-- Address of the image of a holder's pallet in the owner's save region (R175, R205). -/
def State.imageAt (s : State) (kn vd : Nat) (h : PalletHolder) : Nat :=
  match s.vd? vd with
  | some v =>
    match h with
    | .lease n => v.leaseImage kn n
    | .temp e | .parked e => v.entryImage (kn / 32) (((s.entry? e).map (·.place)).getD 0)
  | none => 0
/-- The 512 bytes of a row of a pallet. -/
def PalletData.row (d : PalletData) (r : Nat) : List Byte := ((List.range 128).map fun c => leBytes 4 (d.cell r c)).flatten
/-- A region as its configuration word (Table 15.6). -/
def PalletRegion.word (g : PalletRegion) : Nat :=
  2 ^ 32 + (g.cols - 1) * 2 ^ 24 + (g.rows - 1) * 2 ^ 16 + g.col0 * 2 ^ 8 + g.row0
/-- What an image holds beside the rows: the dirty map and the region configuration (R205, R206). -/
def PalletData.tail (d : PalletData) (regions : KMap PalletRegion) : List Byte :=
  leBytes 16 (d.dirty.foldl (fun n r => n + 2 ^ r) 0)
    ++ ((List.range 4).map fun i => leBytes 8 (((KMap.find? regions i).map PalletRegion.word).getD 0)).flatten
    ++ zeros 16
/-- Write a line of a save region under its owner's key, as any write: after what the media answer and the checks of its home (R68 to R71). A line that fails is not written (R70; DESIGN CHOICE for what follows: log entry 94). -/
def State.saveLine (s : State) (vd a : Nat) (bs : List Byte) : State :=
  let p := Place.hbm a
  let s := (s.touch p).look vd 0 p 64 true true
  match s.homeFault vd 0 p 64 true true with
  | some _ => s
  | none => s.poke (kidOf vd 0) p bs
/-- Write `n` lines of a save region. -/
def State.saveBytes (s : State) (vd addr : Nat) : Nat → List Byte → State
  | 0, _ => s
  | n + 1, bs => (s.saveLine vd addr (bs.take 64)).saveBytes vd (addr + 64) n (bs.drop 64)
/-- Read a line of a save region, as any read. One that fails returns no data, and no rule gives what its reader then has: the bytes are left open (R70; DESIGN CHOICE: log entry 94). -/
def State.loadLine (s : State) (vd a : Nat) : List Byte × State :=
  let p := Place.hbm a
  let s := (s.touch p).look vd 0 p 64 false false
  match s.homeFault vd 0 p 64 false false with
  | some _ =>
    let (n, s) := s.choose
    (leBytes 64 n, s)
  | none => (s.peek p 64, s)
/-- Read `n` lines of a save region. -/
def State.loadBytes (s : State) (vd addr : Nat) : Nat → List Byte × State
  | 0 => ([], s)
  | n + 1 =>
    let (bs, s) := s.loadLine vd addr
    let (more, s) := s.loadBytes vd (addr + 64) n
    (bs ++ more, s)
/-- Offset in a pallet's image of the dirty map and the region configuration, after the rows. -/
def tailOffset : Nat := 65536
/-- Mark a holder's pallet as saved, or as no longer so. -/
def State.setSaved (s : State) (kn : Nat) (h : PalletHolder) (b : Bool) : State :=
  match h with
  | .lease n => s.modKiln kn fun k => { k with leases := k.leases.modify n fun l => { l with saved := b } }
  | .temp e | .parked e => s.modEntry e fun x => { x with saved := b }
/-- Save a pallet: each dirty row goes to offset 512 r of its image in the owner's save region, with the dirty map and the region configuration (R205, R367). -/
def State.savePallet (s : State) (kn : Nat) (p : Pallet) : State :=
  let a := s.imageAt kn p.vd p.holder
  let regions := match p.holder with
    | .lease n => ((KMap.find? (s.kiln kn).leases n).map (·.regions)).getD []
    | .temp _ | .parked _ => []
  let s := p.data.dirty.foldl (fun s r => s.saveBytes p.vd (a + 512 * r) 8 (p.data.row r)) s
  (s.saveBytes p.vd (a + tailOffset) 1 (p.data.tail regions)).setSaved kn p.holder true
/-- The lines of a pallet's image that hold some rows, the dirty map and the regions. -/
def palletLines (a : Nat) (rows : List Nat) : List Nat :=
  (a + tailOffset) :: (rows.map fun r => (List.range 8).map fun i => a + 512 * r + 64 * i).flatten
/-- The rows of a dirty map. -/
def dirtyRows (tail : List Byte) : NSet := bitsOf (leNat (tail.take 16)) 128
/-- Read rows of an image: the elements that they hold. -/
def State.loadRows (s : State) (vd a : Nat) : List Nat → KMap Nat × State
  | [] => ([], s)
  | r :: rest =>
    let (bs, s) := s.loadBytes vd (a + 512 * r) 8
    let row := (List.range 128).map fun c => (128 * r + c, leNat ((bs.drop (4 * c)).take 4))
    let (more, s) := s.loadRows vd a rest
    ((row.filter fun x => decide (x.2 ≠ 0)) ++ more, s)
/-- The pallet that an image holds: its dirty rows, and +0.0 in every other row (R205). -/
def State.loadPallet (s : State) (vd a : Nat) : PalletData × State :=
  let (tail, s) := s.loadLine vd (a + tailOffset)
  let rows := dirtyRows tail
  let (cells, s) := s.loadRows vd a rows
  (⟨cells, rows⟩, s)
/-- Is a holder's pallet saved? -/
def State.isSaved (s : State) (kn : Nat) (h : PalletHolder) : Bool :=
  match h with
  | .lease n => ((KMap.find? (s.kiln kn).leases n).map (·.saved)).getD false
  | .temp e | .parked e => ((s.entry? e).map (·.saved)).getD false
/-- The pallet of a kiln whose latest use is earliest among those that are not pinned (R204). -/
def leastUsed (ps : List Pallet) (pins : List PalletHolder) : Option Pallet :=
  (ps.filter fun p => !(pins.any p.holder.same)).foldl (fun best p =>
    match best with
    | some b => if p.lastUse < b.lastUse then some p else some b
    | none => some p) none
/-- Has an entry landed: every hod of it has a status (R108)? -/
def Entry.landed (e : Entry) : Bool := decide (e.hods.length ≤ e.statuses.length)
/-- May an entry land: every earlier entry of its lane has landed (R108)? -/
def State.mayLand (s : State) (e : Entry) : Bool :=
  ((s.laneOf e.master e.lane).takeWhile fun x => decide (x.id ≠ e.id)).all Entry.landed
/-- Entries that a kiln is landing now. -/
def State.landers (s : State) (kn : Nat) : List Entry :=
  s.entries.filter fun e => decide (e.kiln = some kn ∧ e.lands ≠ []) && s.mayLand e
/-- The pallet of an entry's first landing. -/
def Entry.landHolder (e : Entry) : PalletHolder := e.holderOf (e.hods.getD ((e.lands.head?.map (·.hod)).getD 0) 0)
/-- Pallets that a landing under way keeps in its kiln: that of a replay, and the temporary one of an entry that does not wait to land (R204, R212). -/
def State.replayPins (s : State) (kn : Nat) : List PalletHolder :=
  (s.landers kn).filterMap fun e =>
    match e.stage, e.landHolder with
    | .replaying _, h | .granted, h@(.temp _) => some h
    | _, _ => none
/-- Note a use of a holder's pallet. -/
def State.usePallet (s : State) (kn : Nat) (h : PalletHolder) : State :=
  let (t, s) := s.fresh
  s.modKiln kn fun k => { k with pallets := k.pallets.map fun p => if p.holder.same h then { p with lastUse := t } else p }
/-- Does a kiln hold a holder's pallet? -/
def State.hasPallet (s : State) (kn : Nat) (h : PalletHolder) : Bool := (s.kiln kn).pallets.any fun p => p.holder.same h
/-- Is the request a pallet instruction? -/
def ReqKind.isPallet : ReqKind → Bool
  | .pcfg _ | .pwr _ _ _ _ _ | .prd _ _ _ _ | .pcpy _ _ _ => true
  | _ => false
/-- The lease handles that a pallet request names. -/
def Request.handles (q : Request) : List Nat :=
  match q.kind with
  | .pcpy t _ _ => [q.ea.toNat, t]
  | _ => [q.ea.toNat]
/-- Leased pallets of a kiln that pallet instructions which wait there name: each is performed before any save of its pallet for another holder (R366). -/
def State.waitPins (s : State) (kn : Nat) : List PalletHolder :=
  (s.slots ++ s.saved ++ s.held).flatMap fun kv =>
    match kv.2.req with
    | some q =>
      if q.kind.isPallet && decide (q.stage = .queued) then
        (q.handles.filter fun h => decide (h / 256 = kn)).map fun h => PalletHolder.lease (h % 4)
      else []
    | none => []
/-- The pallet that must leave a kiln for another holder's: none while one is free; no answer when every pallet is pinned. -/
def State.victim (s : State) (kn : Nat) (pins : List PalletHolder) : Option (Option Pallet) :=
  let ps := (s.kiln kn).pallets
  if ps.length < 4 then some none else (leastUsed ps (pins ++ s.replayPins kn ++ s.waitPins kn)).map some
/-- The lines of save regions that bringing in a holder's pallet for a victim reads and writes. -/
def State.palletMoves (s : State) (kn vd : Nat) (h : PalletHolder) (v : Option Pallet) : List Nat :=
  let a := s.imageAt kn vd h
  (if s.isSaved kn h then palletLines a (dirtyRows (s.peek (.hbm (a + tailOffset)) 64)) else [])
    ++ match v with
      | some p => palletLines (s.imageAt kn p.vd p.holder) p.data.dirty
      | none => []
/-- Save a kiln's pallet, and free it there. -/
def State.evict (s : State) (kn : Nat) (p : Pallet) : State :=
  (s.savePallet kn p).modKiln kn fun k => { k with pallets := k.pallets.filter fun x => decide (x.holder ≠ p.holder) }
/-- The number by which memory keeps the order of arrival of the lines that bring in the pallet of a holder for a lane entry (R21). -/
def Entry.palletToken (e : Entry) (h : PalletHolder) : Nat :=
  unitToken entryPass (8 * e.id + match h with
    | .lease n => n % 4
    | .temp _ | .parked _ => 4)
/-- Bring a holder's pallet into a kiln, saving another one if none is free (R204, R205); with it the number of saves and reloads that this took. It stays outside when every pallet is pinned, and while a line that must be moved cannot be served (R21, R66). -/
def State.holdPallet (s : State) (token kn vd : Nat) (h : PalletHolder) (pins : List PalletHolder) : State × Nat :=
  if s.hasPallet kn h then (s.usePallet kn h, 0)
  else
    match s.victim kn pins with
    | none => (s, 0)
    | some v =>
      let lines := s.palletMoves kn vd h v
      if !(s.linesReady token lines) then (s.linesWait token lines, 0)
      else
        let saved := s.isSaved kn h
        let s := s.unstall token
        let s := match v with
          | some p => s.evict kn p
          | none => s
        let (d, s) := if saved then s.loadPallet vd (s.imageAt kn vd h) else (PalletData.zero, s)
        let s := s.modKiln kn fun k => { k with pallets := k.pallets ++ [⟨vd, h, d, 0⟩] }
        ((s.setSaved kn h false).usePallet kn h, b2n saved + b2n v.isSome)
/-- The contents of a holder's pallet in a kiln. -/
def State.palletOf (s : State) (kn : Nat) (h : PalletHolder) : PalletData :=
  match (s.kiln kn).pallets.find? fun p => p.holder.same h with
  | some p => p.data
  | none => PalletData.zero
/-- Change the contents of a holder's pallet in a kiln. -/
def State.modPallet (s : State) (kn : Nat) (h : PalletHolder) (f : PalletData → PalletData) : State :=
  s.modKiln kn fun k => { k with
    pallets := k.pallets.map fun p => if p.holder.same h then { p with data := f p.data } else p }
/-- Pallets that the hods of an entry use: its leases and its temporary pallet. -/
def Entry.holders (e : Entry) : List PalletHolder :=
  let temp := if e.hods.any fun h => usesPallet h && decide (hodPsel h = 0) then [PalletHolder.temp e.id] else []
  temp ++ (leasesOf e.hods).eraseDups.map fun l => PalletHolder.lease (l % 4)
/-- Pallets that the entry running on a kiln uses. -/
def State.runningHolders (s : State) (kn : Nat) : List PalletHolder :=
  match (s.kiln kn).running with
  | some id => ((s.entry? id).map Entry.holders).getD []
  | none => []
/-- States of a physical pallet (Table 8.6). -/
inductive PalletState
  | free | leased | temp | parked
  deriving DecidableEq, Repr
/-- Does a landing or a train that a fault holds park the pallet of a holder (R212, R213)? -/
def State.parks (s : State) (kn : Nat) (h : PalletHolder) : Bool :=
  s.entries.any fun e => decide (e.kiln = some kn) &&
    match e.stage, e.lands.head? with
    | .parkedLanding _, some l | .replaying _, some l => h.same (e.holderOf (e.hods.getD l.hod 0))
    | _, _ => false
/-- The state of pallet `i` of a kiln (Table 8.6); a leased one is PARKED while a landing from it is held. -/
def State.palletState (s : State) (kn i : Nat) : PalletState :=
  match (s.kiln kn).pallets[i]? with
  | none => .free
  | some p =>
    match p.holder with
    | .parked _ => .parked
    | .lease _ => if s.parks kn p.holder then .parked else .leased
    | .temp _ => .temp
/-- Does a hod name a lease and write its pallet? -/
def writesLease (h : Line) (n : Nat) : Bool :=
  (decide (hodOp h = 3) || decide (hodOp h = 4)) && decide (hodPsel h = 1 ∧ hodLease h % 4 = n)
/-- The hods of an entry that have started and not ended, in whatever stage their work is (R206, R207). -/
def Entry.openHods (e : Entry) : List Nat :=
  (e.runs.filter fun r => !r.silent).map (·.hod) ++ e.lands.map (·.hod) ++ (match e.resume with
    | some (h, _, _) => [h]
    | none => [])
/-- Is a hod writing the pallet of a lease, from its start to its end (R206)? -/
def State.hodWriting (s : State) (kn n : Nat) : Bool :=
  s.entries.any fun e => decide (e.boundKiln = some kn) && e.openHods.any fun i => writesLease (e.hods.getD i 0) n
/-- Bring the pallet of a device's lease into its kiln for a pallet instruction. -/
def State.useLease (s : State) (vd handle : Nat) (more : List Nat) : State :=
  let kn := handle / 256
  let pins := (handle :: more).filter fun x => decide (x / 256 = kn)
  (s.holdPallet (unitToken leasePass handle) kn vd (.lease (handle % 4)) (pins.map (fun x => PalletHolder.lease (x % 4)) ++ s.runningHolders kn)).1

/-! ### Pallet instructions (R332 to R338) -/

/-- The checks of R332 on a handle. -/
def State.withLease (s : State) (handle : Word) (go : Lease → Out) : Out :=
  match s.lease? s.me.vd (s.brick / 512) handle.toNat with
  | none => s.trap .illegalOperand handle
  | some l => go l
/-- Bring the pallets that a request of a device names into their kilns: the machine after it, and whether they all are there (R205, R332). -/
def State.bringIn (s : State) (vd : Nat) (q : Request) : State × Bool :=
  let s := q.handles.foldl (fun (s : State) h => s.useLease vd h q.handles) s
  (s, q.handles.all fun h => s.hasPallet (h / 256) (.lease (h % 4)))
/-- Can a pallet instruction of a device be performed: no hod writes a pallet that it names, and each is in its kiln or can be reloaded now (R206, R332)? -/
def State.palletReady (s : State) (vd : Nat) (q : Request) : Bool :=
  (q.handles.all fun h => !(s.hodWriting (h / 256) (h % 4))) && (s.bringIn vd q).2
/-- What of an attempt that memory makes wait stands: the wakes that it has begun and the places of its accesses in the order of arrival (R21). -/
def State.waitingAs (s t : State) : State := { s with pch := t.pch, stallq := t.stallq }
/-- The machine once a pallet instruction waits at its kiln: its reload waits for memory that cannot serve it (R21). -/
def State.palletWaits (s : State) (vd : Nat) (q : Request) : State :=
  if q.handles.all fun h => !(s.hodWriting (h / 256) (h % 4)) then s.waitingAs (s.bringIn vd q).1 else s
/-- The lowest free lease number of a kiln. -/
def Kiln.freeLease (k : Kiln) : Nat := ((List.range 4).find? fun n => !(KMap.has k.leases n)).getD 0
/-- PLSE (R333). -/
def execPlse (d a : GReg) (s : State) : Out :=
  let k := s.me
  let v := k.getG a
  if !((s.kilnsOn k.vd (s.brick / 512)).contains v.toNat) then s.trap .illegalOperand v
  else
    let kiln := s.kiln v.toNat
    if 3 ≤ kiln.leases.length then s.retire fun k => k.setG d (wrap (2 ^ 64 - 1))
    else
      let n := kiln.freeLease
      let s := s.modKiln v.toNat fun x => { x with leases := KMap.set x.leases n ⟨k.vd, none, [], false⟩ }
      s.retire fun k => k.setG d (wrap (v.toNat * 256 + n))
/-- Is a region configuration word sound (R334)? -/
def pcfgSound (v : Word) : Bool :=
  decide (bits v 63 33 = 0)
    && (if bit v 32 then
        !(bit v 7) && !(bit v 15) && !(bit v 23) && !(bit v 31) && decide (bits v 7 0 + bits v 23 16 ≤ 127)
          && decide (bits v 15 8 + bits v 31 24 ≤ 127)
      else decide (bits v 31 0 = 0))
/-- The checks of a slice (R335): the region, the index word, and the index in its region. -/
def State.slice (s : State) (l : Lease) (v : Word) (r : BitVec 2) (byRow : Bool) (go : PalletRegion → Nat → Nat → Out) : Out :=
  match KMap.find? l.regions r.toNat with
  | none => s.trap .palletRegion v
  | some g =>
    if v.toNat &&& (field 63 0 - (field 14 8 + field 6 0)) ≠ 0 then s.trap .illegalOperand v
    else
      let i := bits v 6 0
      let j := bits v 14 8
      if (if byRow then g.rows else g.cols) ≤ i ∨ (if byRow then g.cols else g.rows) ≤ j then s.trap .palletRegion v
      else go g i j
/-- Place in the pallet of element `e` of a slice, when it lies in the region (R335). -/
def sliceCell (g : PalletRegion) (byRow : Bool) (i j e : Nat) : Option (Nat × Nat) :=
  if (if byRow then g.cols else g.rows) ≤ j + e then none
  else if byRow then some (g.row0 + i, g.col0 + j + e)
  else some (g.row0 + j + e, g.col0 + i)
/-- Write a slice of sixteen elements (R335). -/
def writeSlice (g : PalletRegion) (byRow : Bool) (i j : Nat) (v : Line) (d : PalletData) : PalletData :=
  (List.range 16).foldl (fun d e =>
    match sliceCell g byRow i j e with
    | some (m, n) => d.setCell m n (lane v 32 e)
    | none => d) d
/-- Read a slice of sixteen elements; +0.0 beyond the region (R335). -/
def readSlice (g : PalletRegion) (byRow : Bool) (i j : Nat) (d : PalletData) : Line :=
  allLanes 32 fun e =>
    match sliceCell g byRow i j e with
    | some (m, n) => d.cell m n
    | none => 0
/-- Copy a region of one pallet into a region of another; every element is read first (R336). -/
def copyRegion (g t : PalletRegion) (src dst : PalletData) : PalletData :=
  (List.range g.rows).foldl (fun d i =>
    (List.range g.cols).foldl (fun d j => d.setCell (t.row0 + i) (t.col0 + j) (src.cell (g.row0 + i) (g.col0 + j))) d) dst
/-- Set or remove a region of a lease from its configuration word (R334). -/
def Lease.configure (l : Lease) (r : Nat) (v : Word) : Lease :=
  { l with regions := if bit v 32
      then KMap.set l.regions r ⟨bits v 7 0, bits v 15 8, bits v 23 16 + 1, bits v 31 24 + 1⟩
      else KMap.erase l.regions r }
/-- A pallet instruction of a device is performed at its kiln (R334 to R336): the machine after it, and the line that PRD reads. -/
def State.palletPerform (s : State) (vd : Nat) (q : Request) : State × Line :=
  let h := q.ea.toNat
  let kn := h / 256
  let n := h % 4
  match q.kind with
  | .pcfg r =>
    ((s.useLease vd h []).modKiln kn fun x => { x with leases := x.leases.modify n fun l => l.configure r q.data }, 0)
  | .pwr g byRow i j v => ((s.useLease vd h []).modPallet kn (.lease n) (writeSlice g byRow i j v), 0)
  | .prd g byRow i j =>
    let s := s.useLease vd h []
    (s, readSlice g byRow i j (s.palletOf kn (.lease n)))
  | .pcpy t g x =>
    let s := (s.useLease vd h [t]).useLease vd t [h]
    (s.modPallet (t / 256) (.lease (t % 4)) (copyRegion g x (s.palletOf kn (.lease n))), 0)
  | _ => (s, 0)
/-- The current slot makes a pallet instruction: performed at once when its pallets are quiet and at hand, else its request stays outstanding at the kiln (R332). -/
def State.palletDo (s : State) (q : Request) : Out :=
  if s.palletReady s.me.vd q then
    let (s, v) := s.palletPerform s.me.vd q
    if s.me.replyPushes q then (s.push v).retire id else s.retire fun k => k.reply q.kind q.reg v
  else ((s.palletWaits s.me.vd q).modSlot s.cur fun k => { k with req := some { q with stage := .queued } }).park .reply
/-- The request of a pallet instruction on a handle. -/
def palletReq (kind : ReqKind) (handle : Word) (reg : Nat) (data : Word) : Request :=
  mkReq kind handle (.host 0) 0 reg data 0
/-- PCFG (R334). -/
def execPcfg (a b : GReg) (r : BitVec 2) (s : State) : Out :=
  let k := s.me
  let h := k.getG a
  let v := k.getG b
  s.withLease h fun _ =>
    if !(pcfgSound v) then s.trap .illegalOperand v else s.palletDo (palletReq (.pcfg r.toNat) h 0 v)
/-- PWR (R335). -/
def State.pwr (s : State) (a b : GReg) (r : BitVec 2) (w : WReg) (byRow : Bool) : Out :=
  let k := s.me
  let h := k.getG a
  s.wLegal [w] none <| s.withLease h fun l =>
    s.slice l (k.getG b) r byRow fun g i j =>
      s.notAtEnd [w] none <| s.popping (k.popsOf [w]) fun popped s' =>
        s'.palletDo (palletReq (.pwr g byRow i j (srcValue k popped w)) h 0 0)
/-- PWR.R (R335). -/
def execPwrR (a b : GReg) (r : BitVec 2) (w : WReg) (s : State) : Out := s.pwr a b r w true
/-- PWR.C (R335). -/
def execPwrC (a b : GReg) (r : BitVec 2) (w : WReg) (s : State) : Out := s.pwr a b r w false
/-- PRD (R335). -/
def State.prd (s : State) (a b : GReg) (r : BitVec 2) (w : WReg) (byRow : Bool) : Out :=
  let k := s.me
  let h := k.getG a
  s.wLegal [] (some w) <| s.withLease h fun l =>
    s.slice l (k.getG b) r byRow fun g i j =>
      s.notAtEnd [] (some w) <| s.pushGuard (some w) <| s.palletDo (palletReq (.prd g byRow i j) h w.val 0)
/-- PRD.R (R335). -/
def execPrdR (a b : GReg) (r : BitVec 2) (w : WReg) (s : State) : Out := s.prd a b r w true
/-- PRD.C (R335). -/
def execPrdC (a b : GReg) (r : BitVec 2) (w : WReg) (s : State) : Out := s.prd a b r w false
/-- PCPY (R336): `a` holds the source handle, `b` the destination handle. -/
def execPcpy (a b : GReg) (sr er : BitVec 2) (s : State) : Out :=
  let k := s.me
  let h := k.getG a
  let t := k.getG b
  s.withLease h fun l => s.withLease t fun m =>
    match KMap.find? l.regions sr.toNat, KMap.find? m.regions er.toNat with
    | some g, some x =>
      if g.rows ≠ x.rows ∨ g.cols ≠ x.cols then s.trap .palletRegion t
      else s.palletDo (palletReq (.pcpy t.toNat g x) h 0 0)
    | _, _ => s.trap .palletRegion t
/-- Does an entry that has not landed name a lease (R337)? -/
def State.leaseNamed (s : State) (handle : Nat) : Bool :=
  s.entries.any fun e => !e.landed && (leasesOf e.hods).contains handle
/-- Must a PFREE of a lease wait: an entry that has not landed names it (R337), or a pallet instruction that was made before waits at its kiln (DEDUCED: log entry 108)? -/
def State.leaseInUse (s : State) (handle : Nat) : Bool :=
  s.leaseNamed handle || (s.waitPins (handle / 256)).contains (.lease (handle % 4))
/-- Free a lease: its pallet, image and regions go (R337). -/
def State.freeLease (s : State) (handle : Nat) : State :=
  s.modKiln (handle / 256) fun k => { k with
    leases := KMap.erase k.leases (handle % 4)
    pallets := k.pallets.filter fun p => decide (p.holder ≠ .lease (handle % 4)) }
/-- PFREE (R337). -/
def execPfree (a : GReg) (s : State) : Out :=
  let k := s.me
  let h := k.getG a
  s.withLease h fun _ =>
    if s.leaseInUse h.toNat then
      let s := s.modKiln (h.toNat / 256) fun x => { x with
        leases := x.leases.modify (h.toNat % 4) fun l => { l with freer := some k.ctx } }
      (s.modSlot s.cur fun k =>
        { k with req := some { palletReq .pfree h 0 0 with stage := .queued } }).park .reply
    else (s.freeLease h.toNat).retire id
/-- Free the leases of a kiln whose PFREE waited for entries that have now landed; their slots are answered. -/
def State.freeLeases (s : State) (kn : Nat) : State :=
  (s.kiln kn).leases.foldl (fun s kv =>
    let h := kn * 256 + kv.1
    match kv.2.freer with
    | some c => if s.leaseInUse h then s else (s.freeLease h).modCtx c fun k => k.setStage (.done 0)
    | none => s) s
/-- Perform a context's pallet request that waits at its kiln, if it can be performed now; the reply goes to its slot or its save area (R332, Table 4.12). -/
def State.palletServe (s : State) (ctx : Nat) : State :=
  match s.ctxOf ctx with
  | some k =>
    match k.req with
    | some q =>
      if !(q.kind.isPallet && decide (q.stage = .queued)) then s
      else if s.palletReady k.vd q then
        let (s, v) := s.palletPerform k.vd q
        s.modCtx ctx fun k => k.setStage (.done v)
      else s.palletWaits k.vd q
    | none => s
  | none => s
/-- What kilns do for slots once hods have ended: pallet instructions that waited, then the leases to be freed (R206, R337). -/
def State.palletsGo (s : State) : State :=
  let waits := (s.slots ++ s.saved ++ s.held).filterMap fun (kv : Nat × Slot) =>
    if (kv.2.req.map fun q => q.kind.isPallet).getD false then some kv.2.ctx else none
  let s := waits.foldl State.palletServe s
  (s.kilns.map (·.1)).foldl State.freeLeases s

end Sys2Proof.Machine
end

