-- ==== Sys2Proof/Machine/Kiln.lean ====
section
/-!
DEFINITION. Kilns at work (chapters 4 and 8): accesses of kilns and engines (R207), aging and grants (R103, R104, R204), hods (R192 to R196, R200, R201, R208, R209), landings and their faults (R212, R213), and completion messages (R108, R211).
-/
namespace Sys2Proof.Machine

/-! ### Accesses of units (R128, R207, R340) -/

/-- How an access of a kiln or an engine ends. -/
inductive Moved (α : Type)
  | ok (v : α)
  | demand (ipa : Nat)
  | fault (c : Cause)
  | stall

/-- Find the place of an access of a unit, at memory that can serve it, after the walk of its address: the machine after it, and the place and window. Memory that cannot serve makes it wait in the order of arrival; a sub-bank that closes still serves what it had accepted (R21, R135). -/
def State.unitReach (s : State) (u : Agent) (ea : Word) (k : Access) : State × Moved (Place × Nat) :=
  match s.walk u ea with
  | (s, some _) => (s, .stall)
  | (s, none) =>
    match s.resolve u.brick u.vd u.space u.level ea k with
    | .fault c => (s.unstall u.token, .fault c)
    | .demand ipa => (s.unstall u.token, .demand ipa)
    | .fatal => (s.unstall u.token, .fault .hypervisor)
    | .ok p win =>
      let s := s.translated u.brick u.vd u.space u.level ea k
      let was := s.stallq.any fun e => decide (e.token = u.token)
      if s.linkDown p then (s.unstall u.token, .fault .linkLost)
      else if s.blocked u.token p && (was || !(s.closing p)) then (s.stallAt u.token p, .stall)
      else (s, .ok (p, win))
/-- Do an access of a unit that has reached its place: what the media answer, then `f`, as one that its sub-bank had accepted if it stalled there (R135). -/
def State.unitDo (s : State) (u : Agent) (p : Place) (win size : Nat) (wr whole : Bool)
    (f : State → Except Cause (State × Line)) : State × Moved Line :=
  let was := s.stallq.any fun e => decide (e.token = u.token)
  let s := (s.look u.vd win p size wr whole).unstall u.token
  let late := was && s.closing p
  match f (if late then s.allocated p true else s) with
  | .ok (s, v) => (if late then s.allocated p false else s, .ok v)
  | .error c => (s, .fault c)
/-- A read of a unit at its home. -/
def State.unitRead (s : State) (u : Agent) (ea : Word) (size : Nat) : State × Moved Line :=
  match s.unitReach u ea .read with
  | (s, .ok (p, win)) => s.unitDo u p win size false false fun s => (s.readAt u.vd win p size).map fun v => (s.touch p, v)
  | (s, .fault c) => (s, .fault c)
  | (s, .demand ipa) => (s, .demand ipa)
  | (s, .stall) => (s, .stall)
/-- A write of a unit at its home. -/
def State.unitWrite (s : State) (u : Agent) (ea : Word) (bs : List Byte) : State × Moved Line :=
  match s.unitReach u ea .write with
  | (s, .ok (p, win)) => s.unitDo u p win bs.length true (decide (bs.length = 64)) fun s =>
      (s.writeAt u.vd win p bs.length (bytesLine bs)).map fun s => (s, 0)
  | (s, .fault c) => (s, .fault c)
  | (s, .demand ipa) => (s, .demand ipa)
  | (s, .stall) => (s, .stall)
/-- STATUS of a fault (Table 15.3); no status names a lost link, and which one is written is left open. -/
def faultStatus (c : Cause) (n : Nat) : Nat :=
  match c with
  | .poison => 0x21 | .integrity => 0x22 | .freshness => 0x23 | .windowRevoked => 0x24 | .ringLock => 0x25
  | .guestPage | .guestPerm | .guestFormat => 0x26
  | .bank => 0x27 | .sleep => 0x28
  | .address | .alignment => 0x29
  | .linkLost => 0x20 + n % 10
  | _ => 0x20

/-! ### Aging and grants (R103, R104, R204, R212, R213) -/

/-- Are all earlier entries of an entry's lane granted (R103)? -/
def State.laneReady (s : State) (e : Entry) : Bool :=
  ((s.laneOf e.master e.lane).takeWhile fun x => decide (x.id ≠ e.id)).all Entry.isGranted
/-- Is an entry eligible (R103)? Work of it that still runs or lands must have ended. -/
def State.eligible (s : State) (e : Entry) : Bool :=
  decide (e.stage = .waiting) && decide (e.runs = [] ∧ e.lands = []) && s.laneReady e
/-- Start the eligible time of entries that have become eligible (R104). -/
def State.noteEligible (s : State) : State :=
  let f := fun (e : Entry) =>
    if e.since = none ∧ s.eligible e then { e with since := some (s.residentTime e.vd) } else e
  { s with entries := s.entries.map f }
/-- Is the device resident? -/
def State.residentVd (s : State) (vd : Nat) : Bool := ((s.vd? vd).map (·.resident)).getD false
/-- YAGE of a device. -/
def State.yageOf (s : State) (vd : Nat) : Nat := ((s.vd? vd).map (·.yage)).getD 0
/-- Is an entry due to age (R104)? -/
def State.agesNow (s : State) (die : Nat) (e : Entry) : Bool :=
  match e.since with
  | some t => decide (e.brick / 512 = die) && decide (e.aged = none) && s.residentVd e.vd && s.eligible e
      && decide (t + s.yageOf e.vd ≤ s.residentTime e.vd)
  | none => false
/-- The resident time of its device at which an entry aged, also when ENTRY_AGE has not recorded it yet (R104). -/
def State.agedAt (s : State) (e : Entry) : Option Nat :=
  match e.aged, e.since with
  | some t, _ => some t
  | none, some t => if t + s.yageOf e.vd ≤ s.residentTime e.vd then some (t + s.yageOf e.vd) else none
  | none, none => none
/-- ENTRY_AGE: entries of a die that have been eligible for YAGE resident cycles become aged, each at the time at which it had been so (R104). -/
def execEntryAge (die : Nat) (s : State) : Out :=
  .next { s with entries := s.entries.map fun e => if s.agesNow die e then { e with aged := s.agedAt e } else e }

/-- Stamps of a master and of its lane; 0 stands for never granted (R103). -/
def State.stamps (s : State) (e : Entry) : Nat × Nat :=
  match KMap.find? s.grants e.master with
  | some g => (g.last, KMap.getD g.lanes e.lane 0)
  | none => (0, 0)
/-- The order of R103 as a list of numbers, the first in it least. -/
def State.grantKey (s : State) (e : Entry) : List Nat :=
  let (m, l) := s.stamps e
  match s.agedAt e with
  | some t => [0, t, m, e.master, l, e.lane]
  | none => [1, e.prio, m, e.master, l, e.lane]
/-- Lexicographic order. -/
def lexLess : List Nat → List Nat → Bool
  | a :: x, b :: y => decide (a < b) || (decide (a = b) && lexLess x y)
  | _, _ => false
/-- Do hods of an entry that have not completed use a lease, writing its pallet or, with `any`, in any way? -/
def Entry.usesLease (e : Entry) (l : Nat) (any : Bool) : Bool :=
  e.hods.zipIdx.any fun x => !(KMap.has e.statuses x.2) && usesPallet x.1 && decide (hodPsel x.1 = 1 ∧ hodLease x.1 = l)
    && (any || writesLease x.1 (l % 4))
/-- Has another entry, granted before and not yet landed, still to use a leased pallet that an entry names, one of the two writing it? The entry waits until it has landed, so that no value is overwritten before it lands and none is added out of order (DEDUCED from R228: log entry 93). -/
def State.leaseTaken (s : State) (e : Entry) : Bool :=
  s.entries.any fun x => decide (x.id ≠ e.id) && x.kiln.isSome && !x.landed &&
    (leasesOf e.hods).any fun l => x.usesLease l (e.usesLease l false)
/-- The entry that a free kiln is granted to (R103). -/
def State.chosen (s : State) (vd kn : Nat) : Option Entry :=
  let fits := fun (e : Entry) =>
    decide (e.vd = vd ∧ e.brick / 512 = kn / 32) && s.eligible e && decide (e.boundKiln = none ∨ e.boundKiln = some kn)
      && !(s.leaseTaken e)
  (s.entries.filter fits).foldl (fun best e =>
    match best with
    | some b => if lexLess (s.grantKey e) (s.grantKey b) then some e else some b
    | none => some e) none
/-- Island of a kiln (R12): 16 islands a die, eight of bricks before eight of kilns. -/
def kilnIsland (kn : Nat) : Nat := 16 * (kn / 32) + 8 + kn % 32 / 4
/-- May the yard grant to a kiln now: it runs no entry and its island is not about to change its point (R15, R105)? -/
def State.kilnFree (s : State) (kn : Nat) : Bool :=
  let i := s.island (kilnIsland kn)
  decide ((s.kiln kn).running = none)
    && decide (i.state = i.wanted ∧ (i.state = .k2 ∨ i.state = .k15 ∨ i.state = .k10))
/-- The resident device that a kiln belongs to. -/
def State.kilnOwner (s : State) (kn : Nat) : Option Nat :=
  (List.find? (fun (kv : Nat × VDev) => kv.2.resident && kv.2.kilns.contains kn) s.vds).map (·.1)
/-- The temporary pallets of an entry in kilns other than one, with their kilns. -/
def State.tempsElsewhere (s : State) (id kn : Nat) : List (Nat × Pallet) :=
  (s.kilns.filter fun kv => decide (kv.1 ≠ kn)).flatMap fun kv =>
    (kv.2.pallets.filter fun p => p.holder.same (.temp id)).map fun p => (kv.1, p)
/-- Take an entry's temporary pallet out of any other kiln: it is saved there (R213). The answer tells whether the memory of its image serves (R21). -/
def State.gatherTemp (s : State) (id kn : Nat) : State × Bool :=
  let ts := s.tempsElsewhere id kn
  let lines := ts.flatMap fun x => palletLines (s.imageAt x.1 x.2.vd x.2.holder) x.2.data.dirty
  let token := unitToken gatherPass id
  if s.linesReady token lines then (ts.foldl (fun s x => s.evict x.1 x.2) (s.unstall token), true)
  else (s.linesWait token lines, false)
/-- Bring the pallets of an entry into its kiln (R204); with it the saves and reloads. -/
def State.takePallets (s : State) (kn : Nat) (e : Entry) : State × Nat :=
  let hs := e.holders
  hs.foldl (fun (a : State × Nat) h =>
    let (s, n) := a.1.holdPallet (e.palletToken h) kn e.vd h hs
    (s, a.2 + n)) (s, 0)
/-- Hods of an entry that a continuation runs again: the WLOADs and SWAPs that had started (R212, R213). -/
def Entry.again (e : Entry) : List Nat :=
  (List.range e.hod).filter fun i => decide (hodOp (e.hods.getD i 0) ≤ 2)
/-- The hod from which an entry continues. -/
def Entry.nextHod (e : Entry) : Nat :=
  match e.resume with
  | some (h, _, _) => h
  | none => e.hod
/-- A kiln is made ready for a partition: for one that it did not last serve, its planes are set to zero with tag invalid and its staging buffer is overwritten (R193). -/
def State.passKiln (s : State) (kn vd : Nat) : State :=
  if (s.kiln kn).lastVd = some vd then s
  else s.modKiln kn fun k => { k with front := Plane.zero, shadow := Plane.zero, staging := [], lastVd := some vd }
/-- Make a kiln ready for an entry, its pallets and its partition (R193, R204, R213): the machine after it, and the saves and reloads that its pallets took, or none when a pallet of it cannot be brought in now. -/
def State.bringPallets (s : State) (kn vd : Nat) (e : Entry) : State × Option Nat :=
  match (s.passKiln kn vd).gatherTemp e.id kn with
  | (s, false) => (s, none)
  | (s, true) =>
    let (s, n) := s.takePallets kn e
    (s, if e.holders.all (s.hasPallet kn) then some n else none)
/-- Note a grant to a master and its lane (R103). -/
def State.stampGrant (s : State) (e : Entry) : State :=
  let (t, s) := s.fresh
  let old := KMap.getD s.grants e.master ⟨0, []⟩
  { s with grants := KMap.set s.grants e.master ⟨t, KMap.set old.lanes e.lane t⟩ }
/-- Grant a kiln to an entry, whose pallets `s` has taken in with a number of saves and reloads (R103, R204, R212). Each may delay the start by 1,024 cycles and a wake stall of 400 (R21); the delay is left open. -/
def State.grantTo (s : State) (kn moves : Nat) (e : Entry) : State :=
  let (n, s) := (s.stampGrant e).choose
  let s := s.modKiln kn fun k => { k with
    running := some e.id
    pallets := k.pallets.map fun p => if p.holder = .parked e.id then { p with holder := .temp e.id } else p }
  (s.modEntry e.id fun e => { e with
    stage := .granted
    kiln := some kn
    grantAt := s.cycle + n % (1424 * moves + 1)
    base := hodOffset (e.hods.getD e.nextHod 0)
    redo := e.again }).noteEligible
/-- GRANT (R103): the grant waits while the only pallet that could be taken is one whose landing is replayed, or memory of a pallet's image cannot serve, where its lines then wait (R204, R21). -/
def execGrant (die k : Nat) (s : State) : Out :=
  let kn := 32 * die + k % 32
  match s.kilnOwner kn with
  | none => .next s
  | some vd =>
    if !(s.kilnFree kn) then .next s
    else
      match s.chosen vd kn with
      | some e =>
        match s.bringPallets kn vd e with
        | (s', some moves) => .next (s'.grantTo kn moves e)
        | (s', none) => .next (s.waitingAs s')
      | none => .next s

/-! ### Operand pulls (R194, R196, R207, R208) -/

/-- Distinct lines that hold `n` bytes from an address up. -/
def linesFrom (a n : Nat) : List Nat := (List.range (ceilDiv (a % 64 + n) 64)).map fun i => (a / 64 * 64 + 64 * i) % 2 ^ 64
/-- Address of activation row `m` of repetition `j` (R201). -/
def rowAddr (h : Line) (j m : Nat) : Nat :=
  ((wordOf h 1).toNat + j * lbits h 5 63 32 + m * lbits h 4 63 32) % 2 ^ 64
/-- Address of the activation scales of a row (R196). -/
def scaleAddr (h : Line) (j m : Nat) : Nat := ((wordOf h 2).toNat + 16 * (j * hodM h + m)) % 2 ^ 64
/-- The lines that a hod's repetition pulls, with the operand numbers of Table 15.3, in order. -/
def pullLines (h : Line) (rep : Nat) : List (Nat × Nat) :=
  let tag := fun (o : Nat) (as : List Nat) => as.map fun a => (a, o)
  match hodOp h with
  | 1 =>
    let table := if readsTable h then tag 1 (linesFrom (wordOf h 2).toNat 4096) else []
    table ++ ((List.range (hodK h)).map fun k =>
      tag 0 (linesFrom (rowAddr h 0 k) (ceilDiv (hodN h * kilnBits (hodW h)) 8))).flatten
  | 3 =>
    ((List.range (hodM h)).map fun m =>
      tag 0 (linesFrom (rowAddr h rep m) (ceilDiv (hodK h * kilnBits (hodA h)) 8))
        ++ (if hodSca h then tag 1 (linesFrom (scaleAddr h rep m) 16) else [])).flatten
  | _ => []
/-- Lines pulled, by address. -/
abbrev Pulled := List (Nat × Line)
/-- How a pull ends: every line is there, memory makes the next wait, or the next meets a demand fault or a fault at an operand. -/
inductive PullEnd
  | ok
  | stall
  | demand (ea ipa : Nat)
  | fault (operand ea : Nat) (c : Cause)
/-- Pull lines in order into those that are there; a line pulled once is not pulled again (R208). -/
def State.pullAll (s : State) (u : Agent) : List (Nat × Nat) → Pulled → State × Pulled × PullEnd
  | [], d => (s, d, .ok)
  | (a, o) :: rest, d =>
    if (List.find? (fun x => decide (x.1 = a)) d).isSome then s.pullAll u rest d
    else
      match s.unitRead u (wrap a) 64 with
      | (s, .ok v) => s.pullAll u rest ((a, v) :: d)
      | (s, .demand ipa) => (s, d, .demand a ipa)
      | (s, .fault c) => (s, d, .fault o a c)
      | (s, .stall) => (s, d, .stall)
/-- Bits [n-1:0] at a byte address and a bit offset within it. -/
def pulledBits (d : Pulled) (a off n : Nat) : Nat :=
  let a := (a + off / 8) % 2 ^ 64
  match List.find? (fun x => decide (x.1 = a / 64 * 64)) d with
  | some (_, l) => l.toNat / 2 ^ (8 * (a % 64) + off % 8) % 2 ^ n
  | none => 0
/-- Element `i` of a row in a format. -/
def pulledElt (d : Pulled) (row fmt i : Nat) : Nat := pulledBits d row (kilnBits fmt * i) (kilnBits fmt)

/-! ### WLOAD, MMA, ZERO and LAND (R192 to R195, R201, R207) -/

/-- Word `i` of the scale table: block b and column n at b × 128 + n (R194). -/
def tableEntry (h : Line) (d : Pulled) (b n : Nat) : Nat :=
  pulledBits d (((wordOf h 2).toNat + 8 * (128 * b + n)) % 2 ^ 64) 0 64
/-- A 4-bit weight expanded to BF16 (R195). -/
def expand4 (fmt q entry : Nat) : Nat :=
  let v := fun (x : Nat) => intValue (decide (fmt = 5)) 4 x
  bf16.rne ((numOfInt (v q - v (nbits entry 51 48))).mul (bf16.value (nbits entry 47 32)))
/-- The plane that a WLOAD fills, or none for a malformed scale entry (R194, R195). -/
def wload (h : Line) (vd : Nat) (d : Pulled) : Option Plane :=
  let kk := hodK h
  let nn := hodN h
  let blocks := ceilDiv kk 32
  let used := (List.range blocks).map fun b => (List.range nn).map fun n => (b, n)
  if readsTable h && used.flatten.any fun x => decide (nbits (tableEntry h d x.1 x.2) 63 52 ≠ 0) then none
  else
    let elt := fun (k n : Nat) =>
      let q := pulledElt d (rowAddr h 0 k) (hodW h) n
      if kiln4 (hodW h) then expand4 (hodW h) q (tableEntry h d (k / 32) n) else q
    let w := ((List.range kk).map fun k => (List.range nn).map fun n => (k * 128 + n, elt k n)).flatten
    let sc := if hodScw h then used.flatten.map fun x => (x.1 * 128 + x.2, tableEntry h d x.1 x.2 % 2 ^ 32) else []
    some ⟨true, kk, nn, hodW h, hodTag h, vd, w.filter fun x => decide (x.2 ≠ 0), sc.filter fun x => decide (x.2 ≠ 0x3F800000)⟩
/-- FP32 1.0. -/
def fpOne : Nat := 0x3F800000
/-- The value of a weight in a plane: expanded weights are held as BF16 (R195). -/
def Plane.weight (p : Plane) (k n : Nat) : Num :=
  kilnValue (if kiln4 p.fmt then 1 else p.fmt) (KMap.getD p.w (k * 128 + n) 0)
/-- Does the front plane match an MMA (R193)? -/
def Plane.matches (p : Plane) (h : Line) (vd : Nat) : Bool :=
  p.valid && decide (p.vd = vd ∧ p.tag = hodTag h ∧ p.fmt = hodW h ∧ p.k = hodK h ∧ p.n = hodN h)
/-- Round an exact value to FP32 and take its value again. -/
def toF32 (x : Num) : Num := fp32.value (fp32.rne x)
/-- The exact sum of the products of one block (R201, R227). Its sign when it is exactly zero is +, also where every product is -0.0: the sum starts from +0.0 (DESIGN CHOICE: log entry 116). -/
def blockSum (a w : Nat → Num) (lo : Nat) : Nat → Num
  | 0 => .fin false 0 0
  | n + 1 => (blockSum a w lo n).add ((a (lo + n)).mul (w (lo + n)))
/-- The accumulation over the blocks of K elements (R201). -/
def accumulate (a w : Nat → Num) (scale : Nat → Num) (kk : Nat) (acc : Num) : Nat → Num
  | 0 => acc
  | b + 1 =>
    let acc := accumulate a w scale kk acc b
    let s := blockSum a w (32 * b) (min 32 (kk - 32 * b))
    toF32 (acc.add (toF32 (s.mul (scale b))))
/-- One element of an MMA (R201). -/
def mmaCell (h : Line) (rep : Nat) (d : Pulled) (p : Plane) (old : Nat) (m n : Nat) : Nat :=
  let a := fun (k : Nat) => kilnValue (hodA h) (pulledElt d (rowAddr h rep m) (hodA h) k)
  let as := fun (b : Nat) => fp32.value (if hodSca h then pulledBits d (scaleAddr h rep m + 4 * b) 0 32 else fpOne)
  let ws := fun (b : Nat) => fp32.value (if hodScw h then KMap.getD p.scale (b * 128 + n) fpOne else fpOne)
  let acc := fp32.value (if hodAcc h then old else 0)
  fp32.rne (accumulate a (fun k => p.weight k n) (fun b => toF32 ((as b).mul (ws b))) (hodK h) acc (ceilDiv (hodK h) 32))
/-- The region of a hod: a function of old element, row and column gives each new element (R201). -/
def overRegion (h : Line) (f : Nat → Nat → Nat → Nat) (d : PalletData) : PalletData :=
  (List.range (hodM h)).foldl (fun x m =>
    (List.range (hodN h)).foldl (fun x n =>
      x.setCell (hodRow0 h + m) (hodCol0 h + n) (f (d.cell (hodRow0 h + m) (hodCol0 h + n)) m n)) x) d
/-- The bytes of a landed row (R207). -/
def landRow (h : Line) (d : PalletData) (m : Nat) : List Byte :=
  ((List.range (hodN h)).map fun n =>
    let v := d.cell (hodRow0 h + m) (hodCol0 h + n)
    if hodD h = 1 then leBytes 2 (bf16.rne (fp32.value v)) else leBytes 4 v).flatten
/-- Cut bytes into lines of 64, from an address up. -/
def cutLines (ea : Nat) : Nat → List Byte → List LandLine
  | 0, _ => []
  | n + 1, bs => ⟨wrap ea, bs.take 64⟩ :: cutLines (ea + 64) n (bs.drop 64)
/-- The lines of the landing of a repetition, in order (R207). -/
def landLines (h : Line) (rep : Nat) (d : PalletData) : List LandLine :=
  ((List.range (hodM h)).map fun m =>
    let ea := (wordOf h 3).toNat + rep * lbits h 5 31 0 + m * lbits h 4 31 0
    cutLines ea (rowLines h) (landRow h d m)).flatten

/-! ### Starting work (R208, R209) -/

/-- Do two hods use a common resource: the array, the shadow plane, a pallet, or the whole kiln (R209)? -/
def clash (a b : Line) : Bool :=
  let pallet := fun (h : Line) => if hodPsel h = 1 then some (hodLease h) else none
  decide (hodOp a = 2 ∨ hodOp b = 2) || (decide (hodOp a = 1 ∧ hodOp b = 1))
    || decide (hodOp a = 3 ∧ hodOp b = 3) || (usesPallet a && usesPallet b && decide (pallet a = pallet b))
/-- Work that an entry can start next: hod, repetition, the hod's start if it has begun, and whether it is run again. -/
def Entry.nextWork (e : Entry) : Option (Nat × Nat × Option Nat × Bool) :=
  match e.redo with
  | i :: _ => some (i, 0, none, true)
  | [] =>
    match e.resume with
    | some (h, r, t) => some (h, r, some t, false)
    | none => if e.hod < e.hods.length then some (e.hod, 0, none, false) else none
/-- A later hod of the train that may start while a repetition of an earlier one waits: it shares no resource with it (R209). -/
def Entry.overlapWork (e : Entry) : Option Nat :=
  match e.redo, e.resume with
  | [], some (h, _, _) =>
    if e.hod < e.hods.length ∧ !(clash (e.hods.getD e.hod 0) (e.hods.getD h 0)) then some e.hod else none
  | _, _ => none
/-- The entry after it has started that work. -/
def Entry.started (e : Entry) : Entry :=
  match e.redo with
  | _ :: r => { e with redo := r }
  | [] => if e.resume.isSome then { e with resume := none } else { e with hod := e.hod + 1 }
/-- Cycles of the arithmetic clock for cycles of a kiln's clock (Table 1.2, R106). -/
def State.kilnCycles (s : State) (kn n : Nat) : Nat :=
  match (s.island (kilnIsland kn)).state with
  | .k15 => ceilDiv (4 * n) 3
  | .k10 => 2 * n
  | _ => n
/-- Cycles of one start of work: a hod, or one repetition of an MMA (R200). -/
def startWork (h : Line) (rep : Nat) : Nat :=
  if hodOp h = 3 then (if rep = 0 then 64 else 0) + repWork h else hodWork h
/-- A pallet of the entry that a kiln runs is used by it. -/
def State.holdFor (s : State) (kn : Nat) (e : Entry) (h : PalletHolder) : State :=
  (s.holdPallet (e.palletToken h) kn e.vd h e.holders).1
/-- The effect of a hod's work on planes and pallet, made as it starts, and its status. -/
def State.doWork (s : State) (kn : Nat) (e : Entry) (h : Line) (rep : Nat) (d : Pulled) : State × Nat :=
  let holder := e.holderOf h
  match hodOp h with
  | 1 =>
    match wload h e.vd d with
    | some p => (s.modKiln kn fun k => { k with shadow := p }, 0)
    | none => (s.modKiln kn fun k => { k with shadow := Plane.zero }, 0x11)
  | 2 => (s.modKiln kn fun k => { k with front := k.shadow, shadow := k.front }, 0)
  | 3 =>
    let p := (s.kiln kn).front
    if p.matches h e.vd then
      let s := s.holdFor kn e holder
      (s.modPallet kn holder (overRegion h fun old m n => mmaCell h rep d p old m n), 0)
    else (s, 0x10)
  | 4 =>
    let s := s.holdFor kn e holder
    (s.modPallet kn holder (overRegion h fun _ _ _ => 0), 0)
  | _ => (s.holdFor kn e holder, 0)
/-- The view of an entry's accesses (R207). -/
def Entry.view (e : Entry) : Agent := ⟨e.id, e.brick, e.vd, e.space, e.level⟩
/-- Record the status of a hod, once. -/
def Entry.record (e : Entry) (hod st value : Nat) : Entry :=
  if KMap.has e.statuses hod then e else { e with statuses := KMap.set e.statuses hod (st, value) }
/-- An entry that has landed, with no work left, frees its temporary pallet (R108, R202). -/
def State.settleEntry (s : State) (id : Nat) : State :=
  match s.entry? id with
  | none => s
  | some e =>
    if e.landed ∧ e.runs = [] ∧ e.resume = none then
      { s with kilns := s.kilns.map fun kv => (kv.1, { kv.2 with
        pallets := kv.2.pallets.filter fun p => !(p.holder.same (.temp id)) }) }
    else s
/-- Is the work of an entry on its kiln over: its last hod has ended, or waits to land behind an earlier entry of the lane, or a fault holds it (R105, R108, R212, R213)? -/
def State.kilnDone (s : State) (e : Entry) : Bool :=
  decide (e.runs = [])
    && (decide (e.stage ≠ .granted) || (e.nextWork.isNone && (decide (e.lands = []) || !(s.mayLand e))))
/-- Free the kiln of an entry whose work there is over; its operands leave the staging buffer. -/
def State.leaveKiln (s : State) (id : Nat) : State :=
  match s.entry? id with
  | none => s
  | some e =>
    match e.kiln with
    | some kn =>
      if s.kilnDone e then s.modKiln kn fun k => { k with
        running := if k.running = some id then none else k.running
        staging := k.staging.filter fun x => decide (x.entry ≠ id) }
      else s
    | none => s
/-- A pull ends a hod with an error: each later hod of the train is aborted, and the entry has landed once what its earlier hods still land has (R213, R108). -/
def State.pullFails (s : State) (id hod st value : Nat) : State :=
  let abort := fun (e : Entry) =>
    (List.range e.hods.length).foldl (fun (e : Entry) i => if hod < i then e.record i 0x12 0 else e) (e.record hod st value)
  let s := s.modEntry id fun e =>
    { abort e with hod := e.hods.length, resume := none, redo := [], stage := match e.stage with
      | .parkedLanding _ | .replaying _ => e.stage
      | .waiting | .granted | .parkedPull _ => .granted }
  ((s.leaveKiln id).settleEntry id).noteEligible
/-- The temporary pallet of an entry is parked (R212, R213). -/
def State.parkTemp (s : State) (id : Nat) : State :=
  { s with kilns := s.kilns.map fun kv => (kv.1, { kv.2 with
    pallets := kv.2.pallets.map fun p => if p.holder = .temp id then { p with holder := .parked id } else p }) }
/-- Can the next work of an entry start on its kiln, operands aside (R107, R209)? A landing holds its pallet and its array until every line is acknowledged. -/
def State.mayStart (s : State) (kn : Nat) (e : Entry) (i : Nat) (rep : Nat) (silent : Bool) : Bool :=
  let h := e.hods.getD i 0
  let due := if silent ∨ rep ≠ 0 then e.grantAt else e.grantAt + s.kilnCycles kn (hodOffset h - e.base)
  decide (due ≤ s.cycle)
    && (e.runs.all fun r => !(clash h (e.hods.getD r.hod 0)) && (silent || !r.silent))
    && e.lands.all fun l => !(clash h (e.hods.getD l.hod 0))
/-- The operand lines of a hod's repetition in a kiln's staging buffer. -/
def Kiln.staged (k : Kiln) (id i rep : Nat) : Pulled :=
  match k.staging.find? fun x => decide (x.entry = id ∧ x.hod = i ∧ x.rep = rep) with
  | some x => x.lines
  | none => []
/-- Keep operand lines in a kiln's staging buffer. -/
def Kiln.stage (k : Kiln) (id i rep : Nat) (d : Pulled) : Kiln :=
  { k with staging := (k.staging.filter fun x => !(decide (x.entry = id ∧ x.hod = i ∧ x.rep = rep))) ++ [⟨id, i, rep, d⟩] }
/-- The operands of a hod's repetition leave the staging buffer. -/
def Kiln.unstage (k : Kiln) (id i rep : Nat) : Kiln :=
  { k with staging := k.staging.filter fun x => !(decide (x.entry = id ∧ x.hod = i ∧ x.rep = rep)) }
/-- Start work of an entry with its operands (R208); `go` notes in the entry that it has started. -/
def State.startOn (s : State) (kn : Nat) (e : Entry) (i rep : Nat) (begun : Option Nat) (silent : Bool) (go : Entry → Entry)
    (d : Pulled) : State :=
  let h := e.hods.getD i 0
  let (s, st) := s.doWork kn e h rep d
  let stop := if st = 0 then s.cycle + s.kilnCycles kn (startWork h rep) else s.cycle
  let run : Run := ⟨i, rep, begun.getD s.cycle, stop, silent, st⟩
  s.modEntry e.id fun e => { go e with runs := e.runs ++ [run] }
/-- A pull that meets a demand fault ends its hod before any of its work: the kiln is released, and the temporary pallet parked (R213). -/
def State.pullHeld (s : State) (e : Entry) (a ipa : Nat) : State :=
  let d := s.nextId
  let s := s.postDemand e.vd ipa (wrap a) (.pull e.id)
  let hold := fun (e : Entry) => { e with stage := EntryStage.parkedPull d }
  (((s.modEntry e.id hold).parkTemp e.id).leaveKiln e.id).noteEligible
/-- Pull the operands of a later hod into the staging buffer and start it, while a repetition of an earlier one waits (R208, R209). A fault of a pull acts only once the earlier hods have ended. -/
def State.overlapStart (s : State) (kn id : Nat) : State :=
  match s.entry? id with
  | none => s
  | some e =>
    match e.overlapWork with
    | none => s
    | some i =>
      let (s, d, r) := s.pullAll e.view (pullLines (e.hods.getD i 0) 0) ((s.kiln kn).staged id i 0)
      let s := s.modKiln kn fun k => k.stage id i 0 d
      match r with
      | .ok =>
        if s.mayStart kn e i 0 false then s.startOn kn e i 0 none false (fun e => { e with hod := e.hod + 1 }) d else s
      | .stall | .demand _ _ | .fault _ _ _ => s
/-- HOD_START: the operands of the next work of the entry that a kiln runs are pulled into its staging buffer, while earlier hods may still run, and the work begins when it may (R208). A pull that faults ends or holds the hod once the earlier ones have ended; a landing that waits behind an earlier entry of the lane holds it up no longer (R213, R108). -/
def execHodStart (id : Nat) (s : State) : Out :=
  match s.entry? id with
  | none => .next s
  | some e =>
    match e.kiln, e.nextWork with
    | some kn, some (i, rep, begun, silent) =>
      let k := s.kiln kn
      if e.stage ≠ .granted ∨ k.running ≠ some e.id ∨ !k.enabled then .next s
      else
        let (s, d, r) := s.pullAll e.view (pullLines (e.hods.getD i 0) rep) (k.staged id i rep)
        let s := s.modKiln kn fun k => k.stage id i rep d
        let idle := decide (e.runs = []) && (decide (e.lands = []) || !(s.mayLand e))
        match r with
        | .ok =>
          .next (if s.mayStart kn e i rep silent then s.startOn kn e i rep begun silent Entry.started d else s.overlapStart kn id)
        | .stall => .next (s.overlapStart kn id)
        | .demand a ipa => .next (if idle then s.pullHeld e a ipa else s)
        | .fault o a c =>
          if idle then
            let (n, s) := s.choose
            .next (s.pullFails id (if silent then e.nextHod else i) (faultStatus c n) (o * 2 ^ 48 + a % 2 ^ 48))
          else .next s
    | _, _ => .next s

/-! ### Ending work and landing (R200, R207, R211, R212) -/

/-- VALUE of a hod that is done (R211). -/
def doneValue (cycles kn : Nat) : Nat := cycles % 2 ^ 32 + kn % 128 * 2 ^ 32
/-- A landing ends with an error: no further line of the hod is written, and it counts as landed; what is left of the hod still runs (R212). -/
def Entry.landError (e : Entry) (l : Landing) (st : Nat) (a : Nat) : Entry :=
  { e.record l.hod st (2 * 2 ^ 48 + a % 2 ^ 48) with lands := e.lands.filter fun x => decide (x.hod ≠ l.hod) }
/-- A landing is complete: every line has been acknowledged (R207). -/
def Entry.landDone (e : Entry) (l : Landing) (cycle : Nat) : Entry :=
  let e' := if l.last then e.record l.hod 0 (doneValue (cycle - l.start) (e.kiln.getD 0)) else e
  { e' with lands := e.lands.drop 1 }
/-- Write the lines of a landing in order from line `i` on, until none is left or one faults or stalls: the machine, the line reached, and how it ended there. -/
def State.landRun (s : State) (u : Agent) : Nat → List LandLine → State × Nat × Option (Word × Moved Line)
  | i, [] => (s, i, none)
  | i, x :: more =>
    match s.unitWrite u x.ea x.bytes with
    | (s, .ok _) => s.landRun u (i + 1) more
    | (s, r) => (s, i, some (x.ea, r))
/-- The holder under which a landing reloads its pallet: one that is replayed is PARKED until it ends (Table 8.6). -/
def Entry.reloadsAs (e : Entry) (h : PalletHolder) : PalletHolder :=
  match e.stage, h with
  | .replaying _, .temp i => .parked i
  | _, h => h
/-- The first landing of an entry goes on from its pallet, which is reloaded first if it was saved meanwhile (R204, R207, R212). The answer says whether the entry may go on to its next landing. -/
def State.landFirst (s : State) (e : Entry) (kn : Nat) (l : Landing) : State × Bool :=
  let h := e.hods.getD l.hod 0
  let holder := e.holderOf h
  let pins := holder :: s.runningHolders kn ++ (s.landers kn).map Entry.landHolder
  let s := if s.hasPallet kn holder then s else (s.holdPallet (e.palletToken holder) kn e.vd (e.reloadsAs holder) pins).1
  if !(s.hasPallet kn holder) then (s, false)
  else
    match s.landRun e.view l.next ((landLines h l.rep (s.palletOf kn holder)).drop l.next) with
    | (s, _, none) => ((s.usePallet kn holder).modEntry e.id fun e => e.landDone l s.cycle, true)
    | (s, i, some (ea, r)) =>
      let s := if i = l.next then s else s.usePallet kn holder
      let s := s.modEntry e.id fun e => { e with lands := { l with next := i } :: e.lands.drop 1 }
      match r with
      | .ok _ | .stall => (s, false)
      | .fault c =>
        let (n, s) := s.choose
        (s.modEntry e.id fun e => e.landError l (faultStatus c n) ea.toNat, true)
      | .demand ipa =>
        let d := s.nextId
        let s := s.postDemand e.vd ipa ea (.landing e.id)
        ((s.modEntry e.id fun e => { e with stage := .parkedLanding d }).parkTemp e.id, false)
/-- Land what an entry has to land, in order; `fuel` bounds its landings. -/
def State.landOn (s : State) (id : Nat) : Nat → State
  | 0 => s
  | fuel + 1 =>
    match s.entry? id with
    | none => s
    | some e =>
      match e.kiln, e.lands with
      | some kn, l :: _ =>
        let (s, more) := s.landFirst e kn l
        if more then s.landOn id fuel else s
      | _, _ => s
/-- An entry whose replay has ended, and whose messages up to a fatal one have been sent as far as an earlier hod has no work left, goes back to the head of its lane with the work that is left; with none left it has landed (R212). A pull that a demand fault still holds holds it on. -/
def State.replayOver (s : State) (id : Nat) : State :=
  s.modEntry id fun e =>
    match e.stage with
    | .replaying n =>
      if e.lands ≠ [] ∨ e.runs ≠ [] ∨ (e.sent < n ∧ KMap.has e.statuses e.sent) then e
      else
        match s.demands.find? fun d => decide (d.who = .pull id) with
        | some d => { e with stage := .parkedPull d.id }
        | none => if e.nextWork.isSome then { e with stage := .waiting } else { e with stage := .granted }
    | .waiting | .granted | .parkedPull _ | .parkedLanding _ => e
/-- May an entry write its landings now: no demand fault holds one? -/
def Entry.landing (e : Entry) : Bool :=
  match e.stage with
  | .waiting | .granted | .parkedPull _ | .replaying _ => true
  | .parkedLanding _ => false
/-- Land what an entry may land now, and free what it then no longer needs. -/
def State.land (s : State) (id : Nat) : State :=
  match s.entry? id with
  | none => s
  | some e =>
    let s := if s.mayLand e && e.landing then s.landOn id (e.lands.length + 1) else s
    (((s.replayOver id).leaveKiln id).settleEntry id).noteEligible
/-- What the end of a run adds to its entry: a status, or a landing; an MMA with repetitions left goes on (R200, R207), also after an error of its landing (R212). An MMA or a ZERO has written its pallet until now (R204). -/
def State.endRun (s : State) (kn : Nat) (e : Entry) (r : Run) : State :=
  let h := e.hods.getD r.hod 0
  let lands := decide (hodOp h = 5) || (decide (hodOp h = 3) && hodLandf h)
  let more := decide (hodOp h = 3 ∧ r.rep + 1 < hodReps h)
  let f := fun (e : Entry) =>
    let e := { e with runs := e.runs.filter fun x => decide (x ≠ r) }
    let goOn := if more then some (r.hod, r.rep + 1, r.start) else e.resume
    if r.silent then e
    else if KMap.has e.statuses r.hod then { e with resume := goOn }
    else if r.status ≠ 0 then e.record r.hod r.status 0
    else if lands then { e with lands := e.lands ++ [⟨r.hod, r.rep, r.start, !more, 0⟩], resume := goOn }
    else e.record r.hod 0 (doneValue (r.stop - r.start) kn)
  let s := if usesPallet h && decide (hodOp h ≠ 5 ∧ r.status = 0) then s.usePallet kn (e.holderOf h) else s
  (s.modEntry e.id f).modKiln kn fun k => k.unstage e.id r.hod r.rep
/-- HOD_END: a hod, or a repetition of it, has finished its scheduled work and begins landing (R200). -/
def execHodEnd (id : Nat) (s : State) : Out :=
  match s.entry? id with
  | none => .next s
  | some e =>
    match e.kiln, e.runs.find? fun r => decide (r.stop ≤ s.cycle) with
    | some kn, some r => .next ((s.endRun kn e r).land id)
    | _, _ => .next s

/-- Has every earlier entry of a lane sent its messages (R108)? -/
def State.maySend (s : State) (e : Entry) : Bool :=
  ((s.laneOf e.master e.lane).takeWhile fun x => decide (x.id ≠ e.id)).all fun x => decide (x.hods.length ≤ x.sent)
/-- The next hod of an entry, in train order, sends its completion message (R108, R211). -/
def State.sendNext (s : State) (id : Nat) : State :=
  match s.entry? id with
  | none => s
  | some e =>
    match KMap.find? e.statuses e.sent with
    | some (st, v) =>
      if s.maySend e then
        let m : InboxEntry := ⟨inboxWord (e.ticket + e.sent) e.lane st 1, wrap v⟩
        let s := s.modVd e.vd fun v => { v with hiresDone := v.hiresDone + 1 }
        (s.modEntry id fun e => { e with sent := e.sent + 1 }).post e.ctx (some e.lane) m
      else s
    | none => s
/-- HOD_COMPLETE: the next hod of an entry sends its completion message (R108, R211); lines that stalled are landed first, and a fatal message lets the work that is left go on (R212). -/
def execHodComplete (id : Nat) (s : State) : Out := .next (((s.land id).sendNext id).land id)

/-! ### Demand faults of kilns (R212, R213) -/

/-- A pull or landing that a demand fault held goes on after RETRY: a landing is replayed from the line that faulted, and work that is left waits for a grant at the head of its lane (R212, R213). A pull of an entry whose landing is held or replayed waits for that. -/
def State.entryRetry (s : State) (id : Nat) (pull : Bool) : State :=
  match s.entry? id with
  | none => s
  | some e =>
    match e.stage with
    | .parkedPull _ => if pull then (s.modEntry id fun e => { e with stage := .waiting }).noteEligible else s
    | .parkedLanding _ => if pull then s else (s.modEntry id fun e => { e with stage := .replaying 0 }).land id
    | .waiting | .granted | .replaying _ => s
/-- FATAL for a held pull: its hod ends with an error that names the operand (R213). -/
def State.pullFatal (s : State) (e : Entry) (va : Word) : State :=
  match e.nextWork with
  | some (i, rep, _, silent) =>
    let o := match (pullLines (e.hods.getD i 0) rep).find? fun x => decide (x.1 = va.toNat) with
      | some x => x.2
      | none => 0
    s.pullFails e.id (if silent then e.nextHod else i) 0x20 (o * 2 ^ 48 + va.toNat % 2 ^ 48)
  | none => s
/-- FATAL for a held pull or landing (R212, R213): a landing's hod completes with an error, and the work that is left waits until its message has been sent. -/
def State.entryFatal (s : State) (id : Nat) (va : Word) (pull : Bool) : State :=
  match s.entry? id with
  | none => s
  | some e =>
    match e.stage with
    | .parkedPull _ => if pull then s.pullFatal e va else s
    | .parkedLanding _ =>
      if pull then s.pullFatal e va
      else
        match e.lands with
        | l :: _ => (s.modEntry id fun e => { e.landError l 0x20 va.toNat with stage := .replaying (l.hod + 1) }).land id
        | [] => s
    | .replaying _ => if pull then s.pullFatal e va else s
    | .waiting | .granted => s

end Sys2Proof.Machine
end

