-- ==== Sys2Proof/Machine/Engines.lean ====
section
/-!
DEFINITION. Copy and collective engines (R339 to R346), tier prefetches at work (R289, R291), and the arrival of completions in inboxes (R166, R355).
-/
namespace Sys2Proof.Machine

/-! ### Descriptors (Table 15.7) -/

/-- ROWLEN. -/
def dRowlen (d : Line) : Nat := lbits d 0 63 32
/-- ROWS. -/
def dRows (d : Line) : Nat := lbits d 0 31 0
/-- SIZE. -/
def dSize (d : Line) : Nat := lbits d 4 47 32
/-- RANK. -/
def dRank (d : Line) : Nat := lbits d 4 31 16
/-- FMT. -/
def dFmt (d : Line) : Nat := lbits d 4 15 8
/-- OPC. -/
def dOpc (d : Line) : Nat := lbits d 4 7 0
/-- PATIENCE in µs; 0 acts as 1,000. -/
def dPatience (d : Line) : Nat := if lbits d 5 63 32 = 0 then 1000 else lbits d 5 63 32
/-- BB. -/
def dBound (d : Line) : Bool := decide (lbits d 6 15 15 = 1)
/-- BAR. -/
def dBar (d : Line) : Nat := lbits d 6 6 0
/-- The group of a COLL: HDIE, HPORT and GID. -/
def dGroup (d : Line) : Nat := lbits d 3 53 0
/-- The element format of a reduction. -/
def dElt (d : Line) : Option Elt := Elt.ofCode (BitVec.ofNat 5 (dFmt d))
/-- Is FMT a format that a reduction takes (Table 15.7)? -/
def reduceFmt (d : Line) : Bool :=
  decide (dFmt d < 32) && match dElt d with
    | some .i32 | some .n32 | some .i64 | some .n64 | some .bf16 | some .f32 => true
    | _ => false
/-- The bits of each word that a command uses; every other bit must be zero. -/
def descMask (kind : CmdKind) : List Nat :=
  let all := field 63 0
  let tail := [0, field 15 15 + field 6 0, 0]
  match kind with
  | .cpy => [all, all, 0, 0, 0] ++ tail
  | .gath => [all, field 63 32, all, 0, 0] ++ tail
  | .scat => [all, field 31 0, all, 0, 0] ++ tail
  | .coll => [all, 0, 0, field 53 0, field 47 0, field 63 32] ++ tail.drop 1
  | .pref => []
/-- Misfit of R340, with the reserved and unused bits. -/
def misfit (kind : CmdKind) (d : Line) : Bool :=
  !(maskOk d (descMask kind)) || decide (dRowlen d = 0) || decide (dRowlen d % 64 ≠ 0) || decide (dRows d = 0)
    || decide (2 ^ 24 < dRows d) || decide (lbits d 1 37 32 ≠ 0) || decide (lbits d 1 5 0 ≠ 0) || decide (lbits d 2 1 0 ≠ 0)
    || decide (2 ^ 40 < dRowlen d * dRows d)
    || (decide (kind = .coll) && (decide (dRows d ≠ 1) || decide (dSize d < 2) || decide (4096 < dSize d)
        || decide (dSize d ≤ dRank d) || decide (4 < dOpc d)
        || (if dOpc d ≤ 2 then !(reduceFmt d) else decide (dFmt d ≠ 0))))

/-! ### CPY, GATH, SCAT and COLL (R339, R340) -/

/-- Is the command for a collective whose group is homed at a peer? -/
def awayColl (kind : CmdKind) (d : Line) : Bool := decide (kind = .coll) && decide (lbits d 3 51 48 ≠ 0)
/-- The engine that serves a command: of the issuing die for a copy, of the group's home die for a collective (R339). A group homed at a peer is served there, by an engine known here by the group alone (DESIGN CHOICE: log entry 31). -/
def State.engineFor (s : State) (k : Slot) (kind : CmdKind) (d : Line) : Option Nat :=
  match s.vd? k.vd with
  | none => none
  | some v =>
    let mine := match kind with
      | .coll => v.colls.filter fun e => decide (e / 4 = lbits d 3 53 52)
      | _ => v.copies.filter fun e => decide (e / 8 = s.brick / 512)
    let pick := match kind with
      | .coll => lbits d 3 47 0
      | _ => s.cur
    if awayColl kind d then some (dGroup d) else mine[pick % mine.length]?
/-- KIND of a completion (Table 6.7). -/
def CmdKind.code : CmdKind → Nat
  | .cpy | .gath | .scat => 2
  | .coll => 3
  | .pref => 0
/-- A command whose checks have passed and whose slot has drained takes its ticket and goes to its engine (R340). -/
def State.command (s : State) (kind : CmdKind) (t a b : GReg) (d : Line) : Out :=
  let k := s.me
  let bar := if dBound d then some (dBar d) else none
  let s := match bar with
    | some n => s.bind k.vd s.brick n
    | none => s
  let take := fun (k : Slot) =>
    { (k.setG t (k.tkt.setWidth 64)).dropAhead with tkt := k.tkt + 1, engines := k.engines + 1 }
  let (id, s) := s.fresh
  let c : Cmd := ⟨id, kind, k.vd, k.ctx, s.brick, s.cur % 8, k.region, k.level, k.space, k.tkt.toNat, 0, d, k.getG a, k.getG b,
    bar, .queued, 0, 0, 0, none, [], none⟩
  match s.engineFor k kind d with
  | some e => { s with cmds := s.cmds ++ [{ c with engine := e }] }.retire take
  | none =>
    let s := match bar with
      | some n => s.arriveAt k.vd s.brick n true true
      | none => s
    let e : InboxEntry := ⟨inboxWord k.tkt.toNat 0 1 kind.code, 0⟩
    if k.mailRoom 1 then s.retire fun k => (take k).addInbox e else (s.post k.ctx none e).retire take
/-- A command whose checks have passed waits until the slot's writes have been acknowledged, and keeps the descriptor that it has read (R340). -/
def State.commandDrained (s : State) (kind : CmdKind) (t a b : GReg) (d : Line) : Out :=
  if s.me.sb ≠ [] ∨ s.me.ackcnt ≠ 0 then
    (s.modSlot s.cur fun k => { k with descr := some d }).waitFor .drainedAck
  else s.command kind t a b d
/-- The checks of R340 on a descriptor that has been read. -/
def State.checkedCommand (s : State) (kind : CmdKind) (t a b c : GReg) (d : Line) : Out :=
  let k := s.me
  if misfit kind d then s.trap .illegalOperand (k.getG c)
  else if bits (k.getG a) 5 0 ≠ 0 then s.trap .alignment (k.getG a)
  else if bits (k.getG b) 5 0 ≠ 0 then s.trap .alignment (k.getG b)
  else if dBound d && (!(s.holdsBarrier k.vd (dBar d)) || decide ((s.barrier s.brick (dBar d)).target = 0)) then
    s.trap .illegalOperand (k.getG c)
  else if 256 ≤ k.engines then s.trap .illegalOperand (wrap k.engines)
  else s.commandDrained kind t a b d
/-- An engine command reads its descriptor as a line load at issue, once: one that memory cannot serve holds the load as a request (R21, Table 4.12), whose reply lets the command go on (R340). -/
def State.engineCommand (s : State) (kind : CmdKind) (t a b c : GReg) : Out :=
  let k := s.me
  let ea := k.getG c
  match k.descr with
  | some d => s.checkedCommand kind t a b c d
  | none =>
    s.reach ea 64 .read fun s p win =>
      match s.forward s.me s.brick p ea 64 with
      | .bytes d => s.checkedCommand kind t a b c d
      | .wait => s.waitFor (.loadClear p ea.toNat 64)
      | .clear =>
        if s.blocked k.ctx p then (s.stallAt k.ctx p).send (mkReq .descr ea p win 0 0 0)
        else
          (s.unstall k.ctx).looking k.vd win p 64 false false fun s =>
            match s.readAt k.vd win p 64 with
            | .ok d => (s.touch p).checkedCommand kind t a b c d
            | .error e => s.trap e ea
/-- CPY (R339). -/
def execCpy (t a b c : GReg) (s : State) : Out := s.engineCommand .cpy t a b c
/-- GATH (R339). -/
def execGath (t a b c : GReg) (s : State) : Out := s.engineCommand .gath t a b c
/-- SCAT (R339). -/
def execScat (t a b c : GReg) (s : State) : Out := s.engineCommand .scat t a b c
/-- COLL (R339). -/
def execColl (t a b c : GReg) (s : State) : Out := s.engineCommand .coll t a b c

/-! ### Moving lines (R341, R343, R344) -/

/-- Change a command. -/
def State.modCmd (s : State) (id : Nat) (f : Cmd → Cmd) : State :=
  { s with cmds := s.cmds.map fun c => if c.id = id then f c else c }
/-- A command. -/
def State.cmd? (s : State) (id : Nat) : Option Cmd := s.cmds.find? fun c => decide (c.id = id)
/-- The view of a command's accesses (R340). -/
def Cmd.view (c : Cmd) : Agent := ⟨c.id, c.brick, c.vd, c.space, c.level⟩
/-- Lines that a command still has to move in its phase. -/
def Cmd.total (c : Cmd) : Nat :=
  match c.kind, c.phase with
  | .pref, _ => bits (wordOf c.desc 0) 31 20 + 1
  | .coll, .writing => c.data.length
  | .coll, _ => dRowlen c.desc / 64
  | _, _ => dRowlen c.desc / 64 * dRows c.desc
/-- A moved line, or how its move ends. -/
inductive LineEnd
  | moved (s : State) (c : Cmd)
  | ended (s : State) (c : Cmd) (ea : Word) (m : Moved Line)
/-- Read, then go on. -/
def State.lineRead (s : State) (c : Cmd) (ea : Word) (size : Nat) (go : State → Line → LineEnd) : LineEnd :=
  match s.unitRead c.view ea size with
  | (s, .ok v) => go s v
  | (s, r) => .ended s c ea r
/-- Read a line, unless it has been read and its write was held, then go on: the command resumes at that write (R343). -/
def State.lineGot (s : State) (c : Cmd) (ea : Word) (go : State → Line → LineEnd) : LineEnd :=
  match c.got with
  | some v => go s v
  | none => s.lineRead c ea 64 go
/-- Write a whole line, then count it; a line that cannot be written now stays with the command. -/
def State.lineWrite (s : State) (c : Cmd) (ea : Word) (v : Line) : LineEnd :=
  match s.unitWrite c.view ea (lineBytes v) with
  | (s, .ok _) => .moved s { c with line := c.line + 1, bytes := c.bytes + 64, got := none }
  | (s, r) => .ended s { c with got := some v } ea r
/-- Row index of a GATH or SCAT, which is read once for each row and kept with the command until the row has been moved (R341). -/
def State.rowIndex (s : State) (c : Cmd) (r : Nat) (go : State → Cmd → Nat → LineEnd) : LineEnd :=
  match c.data with
  | x :: _ => go s c x.toNat
  | [] => s.lineRead c (wordOf c.desc 2 + wrap (4 * r)) 4 fun s v => go s { c with data := [v] } v.toNat
/-- A row of `per` lines that has been moved needs its index no more. -/
def LineEnd.rowDone (per : Nat) : LineEnd → LineEnd
  | .moved s c => .moved s (if c.line % per = 0 then { c with data := [] } else c)
  | .ended s c ea m => .ended s c ea m
/-- One line of CPY, GATH or SCAT, with the row numbers that scale the strides (R341). -/
def State.copyLine (s : State) (c : Cmd) (srcRow dstRow l : Nat) : LineEnd :=
  let ss := sext (BitVec.ofNat 32 (lbits c.desc 1 63 32))
  let ds := sext (BitVec.ofNat 32 (lbits c.desc 1 31 0))
  s.lineGot c (c.src + wrap srcRow * ss + wrap (64 * l)) fun s v =>
    s.lineWrite c (c.dst + wrap dstRow * ds + wrap (64 * l)) v
/-- One line of a prefetch: its source must be HBM, its destination lies in the own bank (R289, R291). -/
def State.prefLine (s : State) (c : Cmd) : LineEnd :=
  let ea := c.src + wrap (64 * c.line)
  match c.got, s.resolve c.brick c.vd c.space c.level ea .read with
  | none, .ok (.sram _ _) _ | none, .ok (.host _) _ | none, .ok (.peer _ _) _ => .ended s c ea (.fault .illegalOperand)
  | _, _ =>
    s.lineGot c ea fun s v => s.lineWrite c (c.dst + wrap (64 * c.line)) v
/-- The next line of a command. -/
def State.oneLine (s : State) (c : Cmd) : LineEnd :=
  let per := dRowlen c.desc / 64
  let r := c.line / per
  let l := c.line % per
  match c.kind, c.phase with
  | .cpy, _ => s.copyLine c r r l
  | .gath, _ => (s.rowIndex c r fun s c x => s.copyLine c x r l).rowDone per
  | .scat, _ => (s.rowIndex c r fun s c y => s.copyLine c r y l).rowDone per
  | .coll, .writing => s.lineWrite c (c.dst + wrap (64 * c.line)) (c.data.getD c.line 0)
  | .coll, _ => s.lineRead c (c.src + wrap (64 * c.line)) 64 fun s v => .moved s { c with line := c.line + 1, data := c.data ++ [v] }
  | .pref, _ => s.prefLine c
/-- A command after all its lines: a contribution is staged, anything else has ended. -/
def Cmd.finished (c : Cmd) : Cmd :=
  match c.kind, c.phase with
  | .coll, .moving => { c with phase := .staged }
  | _, _ => { c with phase := .ended }
/-- A command that a fault ends (R343, R346): a contribution that could not be read completes with VALUE 0. -/
def Cmd.fails (c : Cmd) (st : Nat) : Cmd := { c with phase := .ended, status := st }
/-- Move the lines of a command until all are moved, or one faults, is held or stalls (R341, R343). -/
def State.moveLines (s : State) (c : Cmd) : Nat → State
  | 0 => s.modCmd c.id fun _ => c
  | fuel + 1 =>
    if c.total ≤ c.line then s.modCmd c.id fun _ => c.finished
    else
      match s.oneLine c with
      | .moved s c => s.moveLines c fuel
      | .ended s c _ .stall => s.modCmd c.id fun _ => c
      | .ended s c ea (.demand ipa) =>
        let d := s.nextId
        (s.postDemand c.vd ipa ea (.engine c.id)).modCmd c.id fun _ => { c with demand := some d }
      | .ended s c _ (.fault e) =>
        let (n, s) := s.choose
        s.modCmd c.id fun _ => c.fails (faultStatus e n)
      | .ended s c _ (.ok _) => s.modCmd c.id fun _ => c
/-- Can a command move lines now? -/
def Cmd.canMove (c : Cmd) : Bool :=
  c.demand.isNone && (decide (c.phase = .queued) || decide (c.phase = .moving) || decide (c.phase = .writing))
/-- Have all earlier commands of the same slot to the same engine started (R339)? -/
def State.inOrder (s : State) (c : Cmd) (past : Cmd → Bool) : Bool :=
  (s.cmds.takeWhile fun x => decide (x.id ≠ c.id)).all fun x =>
    !(decide (x.ctx = c.ctx ∧ x.kind.code = c.kind.code ∧ x.engine = c.engine)) || past x
/-- Go on with the lines of a command. -/
def State.runCmd (s : State) (c : Cmd) : State :=
  let c := if c.phase = .queued then { c with phase := .moving } else c
  s.moveLines c (c.total - c.line + 1)
/-- ENGINE_COMMAND_START: an engine starts its next command, or goes on with one, and moves its lines (R341). A member of a group homed at a peer reads its source here (R344). -/
def execEngineCommandStart (id : Nat) (s : State) : Out :=
  match s.cmd? id with
  | some c =>
    if c.canMove && decide (c.kind ≠ .pref) && s.inOrder c fun x => decide (x.phase ≠ .queued) then
      .next (s.runCmd c)
    else .next s
  | none => .next s
/-- Lane of the messages of a command: those of one engine to one slot arrive in order (R339). -/
def Cmd.lane (c : Cmd) : Nat := 16 + 64 * c.kind.code + c.engine
/-- The bytes written that a completion reports (Table 15.3). -/
def Cmd.value (c : Cmd) : Nat :=
  match c.kind, c.status with
  | .coll, 6 => 0
  | _, _ => c.bytes
/-- ENGINE_COMPLETE: a command that has ended sends its completion, and then its barrier's arrival (R342, R169). -/
def execEngineComplete (id : Nat) (s : State) : Out :=
  match s.cmd? id with
  | some c =>
    if decide (c.phase = .ended) && decide (c.kind ≠ .pref) && s.inOrder c fun _ => false then
      let s := { s with cmds := s.cmds.filter fun x => decide (x.id ≠ id) }
      let s := s.modVd c.vd fun v => { v with enginesDone := v.enginesDone + 1 }
      let s := s.post c.ctx (some c.lane) ⟨inboxWord c.ticket 0 c.status c.kind.code, wrap c.value⟩
      match c.barrier with
      | some n =>
        let (i, s) := s.fresh
        .next { s with barrierMsgs := s.barrierMsgs ++ [⟨i, c.vd, c.brick, n, none, decide (c.status ≠ 0), true⟩] }
      | none => .next s
    else .next s
  | none => .next s
/-- PREF_COMPLETE: a prefetch copies its lines, and when it has finished makes its barrier arrival (R289, R291). -/
def execPrefComplete (id : Nat) (s : State) : Out :=
  match s.cmd? id with
  | some c =>
    if c.kind = .pref then
      let s := if c.canMove then s.runCmd c else s
      match s.cmd? id with
      | some c =>
        if c.phase = .ended then
          let s := { s with cmds := s.cmds.filter fun x => decide (x.id ≠ id) }
          let s := s.modCtx c.ctx fun k => { k with prefs := k.prefs - 1 }
          .next (s.arriveAt c.vd c.brick (c.barrier.getD 0) (decide (c.status ≠ 0)) true)
        else .next s
      | none => .next s
    else .next s
  | none => .next s

/-! ### Collectives (R344 to R346) -/

/-- Does a COLL agree with an open instance (R346)? -/
def CollInst.agrees (g : CollInst) (d : Line) : Bool :=
  decide (g.rowlen = dRowlen d ∧ g.opc = dOpc d ∧ g.fmt = dFmt d ∧ g.size = dSize d ∧ g.patience = dPatience d)
    && g.members.all fun m => decide (m.rank ≠ dRank d)
/-- The stall notice of a member, and the notice of its fault domain (R346, R114). -/
def State.stallNotice (s : State) (g : CollInst) (cmd : Nat) : State :=
  match s.cmd? cmd with
  | some c =>
    let v := wrap (g.members.length + g.size * 2 ^ 16)
    (s.post c.ctx (some c.lane) ⟨inboxWord c.ticket 0 0 4, v⟩).notify c.vd c.region Cause.collectiveStall.code
      (wrap (lbits c.desc 3 47 0)) whereEngine
  | none => s
/-- Give every arrived member that has had none its stall notice. -/
def State.stallAll (s : State) (g : CollInst) : State :=
  let s := (g.members.filter fun m => !m.noticed).foldl (fun s m => s.stallNotice g m.cmd) s
  let g' := { g with stalled := true, members := g.members.map fun m => { m with noticed := true } }
  { s with colls := s.colls.map fun x => if x.id = g.id then g' else x }
/-- Contributions of an instance in ascending rank order. -/
def State.contributions (s : State) (g : CollInst) : List (List Line) :=
  (List.range g.size).filterMap fun r =>
    (g.members.find? fun m => decide (m.rank = r)).bind fun m => (s.cmd? m.cmd).map (·.data)
/-- Fold contributions line by line in rank order (R345). -/
def foldLines (f : Line → Line → Line) : List (List Line) → List Line
  | [] => []
  | x :: rest => rest.foldl (fun acc y => List.zipWith f acc y) x
/-- The result of an instance (R345). -/
def collResult (opc fmt : Nat) (xs : List (List Line)) : List Line :=
  let f := (Elt.ofCode (BitVec.ofNat 5 fmt)).getD .i32
  let by2 := fun (o : Bin) => foldLines (map2 (eltBits f) (o.lanes f)) xs
  match opc with
  | 0 => by2 .add
  | 1 => by2 .min
  | 2 => by2 .max
  | 3 => xs.headD []
  | _ => xs.flatten
/-- The last rank has arrived: the results are written under each member's translation (R345). -/
def State.completeInst (s : State) (g : CollInst) : State :=
  let out := collResult g.opc g.fmt (s.contributions g)
  let s := { s with colls := s.colls.filter fun x => decide (x.id ≠ g.id) }
  g.members.foldl (fun s m =>
    let s := s.modCmd m.cmd fun c => { c with phase := .writing, line := 0, bytes := 0, data := out }
    match s.cmd? m.cmd with
    | some c => s.runCmd c
    | none => s) s
/-- A COLL joins an instance. -/
def State.joinInst (s : State) (g : CollInst) (c : Cmd) : State :=
  let g := { g with members := g.members ++ [CollMember.mk c.id (dRank c.desc) false] }
  let put := fun (x : CollInst) => if x.id = g.id then g else x
  let s := { s with colls := s.colls.map put }.modCmd c.id fun c =>
    { c with phase := .joined g.id }
  let s := if g.stalled then s.stallAll g else s
  if g.members.length = g.size then s.completeInst g else s
/-- Is the contribution of a command on its way, not yet at its instance? -/
def Cmd.coming (c : Cmd) : Bool := decide (c.phase = .queued ∨ c.phase = .moving ∨ c.phase = .staged)
/-- COLL_ARRIVE: a contribution joins or opens an instance of its group, or is refused, after those of earlier commands of its slot to the same engine (R339, R344, R346). What a peer does with a contribution to its own group is out of scope (log entry 31). -/
def execCollArrive (id : Nat) (s : State) : Out :=
  match s.cmd? id with
  | some c =>
    if decide (c.phase ≠ .staged) || awayColl c.kind c.desc || !(s.inOrder c fun x => !x.coming) then .next s
    else
      match s.colls.find? fun g => decide (g.vd = c.vd ∧ g.group = dGroup c.desc) with
      | some g => if g.agrees c.desc then .next (s.joinInst g c) else .next (s.modCmd id fun c => c.fails 6)
      | none =>
        let d := c.desc
        let (i, s) := s.fresh
        let g : CollInst := ⟨i, c.vd, dGroup d, dRowlen d, dOpc d, dFmt d, dSize d, dPatience d, s.devTime, false, []⟩
        .next ({ s with colls := s.colls ++ [g] }.joinInst g c)
  | none => .next s
/-- COLL_PATIENCE_EXPIRY: an instance still incomplete after PATIENCE µs sends stall notices (R346). -/
def execCollPatienceExpiry (id : Nat) (s : State) : Out :=
  match s.colls.find? fun g => decide (g.id = id) with
  | some g => if !g.stalled && decide (g.opened + 1000 * g.patience ≤ s.devTime) then .next (s.stallAll g) else .next s
  | none => .next s

/-! ### Inboxes -/

/-- Is the message the next of its lane to its inbox (R108, R339)? -/
def State.laneFirst (s : State) (m : InboxMsg) : Bool :=
  (s.inboxMsgs.takeWhile fun x => decide (x.id ≠ m.id)).all fun x => decide (x.ctx ≠ m.ctx ∨ x.lane ≠ m.lane ∨ m.lane = none)
/-- A lane entry leaves its lane when its completion messages have entered the inbox (R102), once no work of it is left (R212). -/
def State.leaveLanes (s : State) : State :=
  let coming := fun (e : Entry) => s.inboxMsgs.any fun m =>
    decide (m.ctx = e.ctx ∧ m.lane = some e.lane) && decide ((bits m.entry.word0 63 32 + 2 ^ 32 - e.ticket) % 2 ^ 32 < e.hods.length)
  { s with entries := s.entries.filter fun e => decide (e.sent < e.hods.length) || coming e
      || decide (e.runs ≠ [] ∨ e.resume ≠ none) }
/-- INBOX_ENTRY_ARRIVE: a completion or notice enters the inbox of its context, wherever that stands, and ends its HALT (R111, R166, R355); that of a context that has ended is discarded (R377). -/
def execInboxEntryArrive (id : Nat) (s : State) : Out :=
  match s.inboxMsgs.find? fun m => decide (m.id = id) with
  | some m =>
    if s.laneFirst m then
      match s.addMail m.ctx m.entry with
      | (s, true) => .next s
      | (s, false) =>
        let s := { s with inboxMsgs := s.inboxMsgs.filter fun x => decide (x.id ≠ id) }.leaveLanes
        match s.keyOf m.ctx with
        | some key =>
          let k := s.slotAt key
          if k.mode = .parked (.cond .haltEnd) then .next (s.completeAt key k.advance) else .next s
        | none => .next s
    else .next s
  | none => .next s

end Sys2Proof.Machine
end

