-- ==== Sys2Proof/Machine/Demand.lean ====
section
/-!
DEFINITION. Nerem's answers to demand faults (R132, R133), and the placing of fault handlers (R115).
-/
namespace Sys2Proof.Machine

/-- Is an address an 8-byte place in the firmware reserve of a stack (Table 5.3)? -/
def inReserve (pa : Nat) : Bool :=
  decide (pa / 2 ^ 36 < 12 ∧ partitionEnd ≤ pa % 2 ^ 36 ∧ pa % 2 ^ 36 < stackEnd ∧ pa % 8 = 0)
/-- Nerem writes hypervisor-stage table entries in the firmware reserve (R126). -/
def State.tableWrites (s : State) (ws : List TableWrite) : State :=
  ws.foldl (fun s w =>
    if inReserve w.pa then { s with mem := Mem.writeBytes s.mem w.pa (leBytes 8 w.entry.toNat) } else s) s
/-- The end of a device's own HBM in its IPA space: its quota less its save region, from IPA 0x1_0000_0000 up (R126). -/
def VDev.ipaTop (v : VDev) : Nat := 2 ^ 32 + (v.hbmq - v.saveUnits) * 2 ^ 21
/-- Does a hypervisor-stage leaf lie where the device's IPA layout has it: its own HBM below the end of that range, host, peer and window pages above it (R126)? -/
def leafPlaced (top e ipa sh : Nat) : Bool :=
  if nbits e 56 55 = 0 ∧ nbits e 63 57 = 0 then decide (2 ^ 32 ≤ ipa ∧ ipa + 2 ^ sh ≤ top) else decide (top ≤ ipa)
/-- Do the leaves of a hypervisor-stage table lie where the layout has them? -/
def State.leavesPlaced (s : State) (top : Nat) : Nat → Nat → List Nat → Bool
  | _, _, [] => true
  | table, base, sh :: rest => (s.tableEntries table).all fun i =>
    let e := s.rawWord (table + 8 * i)
    let ipa := base + i * 2 ^ sh
    !(e.testBit 0) || badHyp e sh
      || if e.testBit 1 then leafPlaced top e ipa sh else s.leavesPlaced top (nbits e 51 12 * 4096) ipa rest
/-- Do the hypervisor-stage tables of every device keep its IPA layout? -/
def State.layoutSound (s : State) : Bool :=
  s.vds.all fun kv => s.leavesPlaced kv.2.ipaTop kv.2.hypRoot 0 [39, 30, 21, 12]
/-- Nerem's table writes, which keep the IPA layouts that it has laid out; writes that would break one it does not make (R126). -/
def State.writeTables (s : State) (ws : List TableWrite) : State :=
  let t := s.tableWrites ws
  if t.layoutSound then t else s
/-- May a demand fault be answered now: in an update gap it stays parked (R57), but that of a device in destruction, a request in progress that the gap's step 2 lets complete (R56; DEDUCED: log entry 95)? -/
def State.answers? (s : State) (d : Demand) : Bool :=
  s.neremRuns || (s.coresRun && ((s.vd? d.vd).map fun v => v.destroy.isSome).getD false)
/-- A demand fault that Nerem can answer now. -/
def State.demand? (s : State) (id : Nat) : Option Demand := s.demands.find? fun d => decide (d.id = id) && s.answers? d
/-- A demand fault has been answered for good, and is counted as served. -/
def State.dropDemand (s : State) (d : Demand) : State :=
  { s with demands := s.demands.filter fun x => decide (x.id ≠ d.id) }.modVd d.vd fun v =>
    { v with demandsServed := v.demandsServed + 1 }
/-- A slot that was parked on a demand fault executes its access afresh. -/
def Slot.retryDemand (k : Slot) (id : Nat) : Slot :=
  if k.mode = .parked (.demand id) then { k with mode := .ready } else k
/-- Translate a held request again (R132). -/
def State.retryFor (s : State) (d : Demand) : State :=
  match d.who with
  | .slot c => s.modCtx c fun k => k.retryDemand d.id
  | .store c e => s.modCtx c fun k => k.modSb e fun x => { x with demand := none }
  | .update m =>
    match s.msgs.find? fun x => decide (x.id = m) with
    | some x => (s.modMsg m fun x => { x with demand := none }).updateGo (x.slotKey / 8) { x with demand := none }
    | none => s
  | .engine c => s.modCmd c fun x => { x with demand := none }
  | .pull e => s.entryRetry e true
  | .landing e => s.entryRetry e false
/-- DEMAND_FAULT_RETRY: Nerem has written its tables, and the held request is translated again (R132). -/
def execDemandFaultRetry (id : Nat) (ws : List TableWrite) (s : State) : Out :=
  match s.demand? id with
  | some d => .next (((s.dropDemand d).writeTables ws).retryFor d)
  | none => .next s

/-- An entry as an image holds it: one that has not departed is translated again when it re-enters the buffer (R133, R175). -/
def SbEntry.saved (e : SbEntry) : SbEntry := if e.departed then e else { e with place := none, win := 0 }
/-- A context as it stands in its save area while it waits for a page: its access executes afresh, and what has not departed is translated again (R132, R133). -/
def Slot.paged (k : Slot) : Slot := { k.dropAhead with mode := .ready, req := none, resv := none, sb := k.sb.map SbEntry.saved }
/-- A context whose image has been written leaves its slot, to wait for a page, and the slot is filled (R132, R133). -/
def State.moveOut (s : State) (key : Nat) (k : Slot) : State :=
  let s := s.release k
  let k := (s.slotAt key).paged
  ({ s with held := KMap.set s.held (keepKey k.ctx key k.vd) k }.setSlot key Slot.empty).fill key
/-- Save a context out of its slot, to wait there for a page, as soon as the memory of its image serves (R132, R133, R21); a fault there delivers it (Table 3.4). -/
def State.hold (s : State) (key : Nat) (k : Slot) : State :=
  match s.contextPassage imagePass k.vd key 0 4096 (some (s.fullImage k.paged (key / 8))) with
  | (s, .still) => s
  | (s, .fault c) => s.loseContext k.ctx c
  | (s, .done) => s.moveOut key (s.slotAt key)
/-- Does a slot wait for a store-buffer entry, or for its buffer to empty (R133)? -/
def SlotMode.onBuffer : SlotMode → Bool
  | .parked (.cond (.storeEntry _)) | .parked (.cond .drained) | .parked (.cond .drainedAck) | .parked (.cond .drainedAckRing) => true
  | _ => false
/-- Does a context answered LONG leave its slot in a mode: parked on the fault, or, with a held store, parked for its buffer (R132, R133)? -/
def Demand.leaves (d : Demand) (m : SlotMode) : Bool :=
  d.long && match d.who with
    | .slot _ => decide (m = .parked (.demand d.id))
    | .store _ _ => m.onBuffer
    | .update _ | .engine _ | .pull _ | .landing _ => false
/-- The slot of a demand fault that has been answered LONG leaves when it may. -/
def State.longHold (s : State) (d : Demand) : State :=
  match d.who with
  | .slot c | .store c _ =>
    match s.keyOf c with
    | some key => if d.leaves (s.slotAt key).mode then s.hold key (s.slotAt key) else s
    | none => s
  | .update _ | .engine _ | .pull _ | .landing _ => s
/-- All slots that leave so. -/
def State.longHolds (s : State) : State := s.demands.foldl State.longHold s
/-- DEMAND_FAULT_LONG: a parked slot is saved and freed; any other request is held until the page is present (R132). -/
def execDemandFaultLong (id : Nat) (s : State) : Out :=
  match s.demand? id with
  | none => .next s
  | some d =>
    .next ({ s with demands := s.demands.map fun (x : Demand) => if x.id = id then { x with long := true } else x }.longHold
      { d with long := true })

/-- Read the image of a held context and put it into the arrival queue of its brick (R132); one that a debugger has halted stays where it is (R59), and one whose image faults is delivered (Table 3.4). The answer tells whether it waits for memory. -/
def State.reinject (s : State) (c : Nat) : State × Bool :=
  match List.find? (fun (kv : Nat × Slot) => decide (kv.2.ctx = c ∧ kv.2.mode ≠ .halted)) s.held with
  | some (at0, k) =>
    let key := at0 % 2 ^ 18 / 16
    match s.contextPassage imagePass k.vd key 0 4096 none with
    | (s, .still) => (s, true)
    | (s, .fault e) => (s.loseKept (at0, k) e, false)
    | (s, .done) =>
      { s with held := KMap.erase s.held at0 }.arrive (key / 8) k.vd (.context k (s.patienceFrom k.vd))
  | none => (s, false)
/-- Inject a context again, or note that its image still waits for memory (R132, R21). -/
def State.bringBack (s : State) (c : Nat) : State :=
  match s.reinject c with
  | (s, true) => { s with returning := NSet.insert s.returning c }
  | (s, false) => { s with returning := NSet.erase s.returning c }
/-- Contexts whose page is present are injected again as memory serves their images. -/
def State.bringAllBack (s : State) : State := s.returning.foldl State.bringBack s
/-- PAGE_PRESENT: after LONG the page is present, and the context or the held request is injected again (R132, R133), once the memory that a context passes through serves (R21). -/
def execPagePresent (id : Nat) (ws : List TableWrite) (s : State) : Out :=
  match s.demand? id with
  | none => .next s
  | some d =>
    if !d.long then .next s
    else
      let t := ((s.dropDemand d).writeTables ws).retryFor d
      match d.who with
      | .slot c | .store c _ => .next (t.bringBack c)
      | .update _ | .engine _ | .pull _ | .landing _ => .next t

/-- Deliver a context wherever it stands (R377). -/
def State.deliverCtx (s : State) (c code : Nat) (xval : Word) : State :=
  match s.keyOf c with
  | some key => s.deliver key code xval
  | none =>
    match List.find? (fun (kv : Nat × Slot) => decide (kv.2.ctx = c ∧ c ≠ 0)) (s.saved ++ s.held) with
    | some (key, k) =>
      let s := s.leave k
      let s := { s with
        saved := KMap.erase s.saved key
        held := KMap.erase s.held key
        orphans := keepLeft s.orphans key k }
      let s := s.modRegion k.vd k.region fun r => { r with live := r.live - 1 }
      s.notify k.vd k.region (code + deliveredBit) xval (wrap (key % 2 ^ 18 / 16))
    | none => s
/-- The entries of a store buffer that share the service of one at a quoin: those to its page that are in translation with it, of which there are four at a time (R152, R133). -/
def Slot.sharers (k : Slot) (id : Nat) : List SbEntry :=
  match k.sb.find? fun (e : SbEntry) => decide (e.id = id) with
  | none => []
  | some e => ((k.sb.filter fun x => x.place.isNone).take 4).filter fun (x : SbEntry) => decide (id ≤ x.id) && e.samePage x
/-- DEMAND_FAULT_FATAL: the context is delivered; a write's error is deferred; kilns and engines end with an error (R132, Table 5.9, R212, R213, R343). -/
def execDemandFaultFatal (id : Nat) (s : State) : Out :=
  match s.demand? id with
  | none => .next s
  | some d =>
    let s := s.dropDemand d
    match d.who with
    | .slot c => .next (s.deliverCtx c Cause.hypervisor.code d.va)
    | .store c e =>
      match s.ctxOf c with
      | some k =>
        let key := s.whereKey c
        let gone := k.sharers e
        let s := s.modCtx c fun k => { k with sb := k.sb.filter fun x => !(gone.contains x) }
        .next (gone.foldl (fun (s : State) (x : SbEntry) => s.deferred k.vd k.region key .hypervisor x.ea) s).dropOrphans
      | none => .next s
    | .update m =>
      match s.msgs.find? fun x => decide (x.id = m) with
      | some x => .next (s.msgError { x with demand := none } .hypervisor)
      | none => .next s
    | .engine c => .next (s.modCmd c fun x => { x.fails 0x20 with demand := none })
    | .pull e => .next (s.entryFatal e d.va true)
    | .landing e => .next (s.entryFatal e d.va false)

/-! ### Fault handlers (R115) -/

/-- Place a handler thread of a domain's region for a written notice, or end the domain. -/
def State.placeHandler (s : State) (vd d whre va : Nat) : State :=
  match s.region? vd d with
  | none => s
  | some r =>
    if r.slots ≤ r.live then s.fatalDomain vd d
    else
      let brick := if 2 ^ 14 ≤ whre then bits r.home 10 0 else whre / 8
      let s := s.modRegion vd d fun r => { r with live := r.live + 1 }
      let (st, _, s) := s.place vd (2 * 2 ^ 12 + brick) ⟨d, [wrap va], r.handler⟩
      if st = 2 then (s.modRegion vd d fun r => { r with live := r.live - 1 }).fatalDomain vd d else s
/-- FAULT_HANDLER_PLACE: Nerem places the handler for the oldest written notice of a device (R115). One still owed to a device in destruction is not placed: no context of it may begin any more (R41; DESIGN CHOICE: log entry 110). -/
def execFaultHandlerPlace (vd : Nat) (s : State) : Out :=
  match s.handlerPlaces.find? fun h => decide (h.1 = vd) && s.neremRuns with
  | some h =>
    let s := { s with handlerPlaces := s.handlerPlaces.erase h }
    .next (if ((s.vd? h.1).map fun v => v.destroy.isSome).getD false then s else s.placeHandler h.1 h.2.1 h.2.2.1 h.2.2.2)
  | none => .next s

end Sys2Proof.Machine
end

