-- ==== Sys2Proof/Machine/Boot.lean ====
section
/-!
DEFINITION. Resets and their wipe (R22, R23, R67), the boot ROM and the monitor (R27 to R30), the life cycle (R25), the watchdog and Nerem's health reports.
-/
namespace Sys2Proof.Machine

/-! ### Images and slots of the flash -/

/-- ERRCODE values (Table 1.7). -/
def errMonitor : Nat := 1
/-- ERRCODE of an invalid image in slot A or B. -/
def errImage (b : Bool) : Nat := if b then 3 else 2
/-- ERRCODE of a rollback index below the fused minimum. -/
def errRollback : Nat := 4
/-- The 60 s within which Nerem must report, in nanoseconds (Table 1.4). -/
def healthPeriod : Nat := 60000000000
/-- The keys under one of which an image must be signed in a life-cycle state (Table 1.5). -/
def keysFor (lcs : Nat) : List SigningKey :=
  match lcs with
  | 1 | 4 => [.test]
  | 2 => [.development, .production]
  | 3 => [.production]
  | _ => []
/-- Is an image signed by a key that the life-cycle state accepts (R24, R27)? -/
def Boot.signed (b : Boot) (i : Image) : Bool := (keysFor b.lcs).any fun k => Config.signedBy k i
/-- Is an image valid for a fused minimum (R27)? -/
def Boot.accepts (b : Boot) (min : Nat) (i : Image) : Bool := b.signed i && decide (min ≤ i.rollback)
/-- The image in a slot; `second` names slot B. -/
def Boot.slot (b : Boot) (second : Bool) : Option Image := if second then b.slotB else b.slotA
/-- The failure flag of a slot. -/
def Boot.failed (b : Boot) (second : Bool) : Bool := if second then b.failB else b.failA
/-- Set the failure flag of a slot. -/
def Boot.fail (b : Boot) (second : Bool) : Boot := if second then { b with failB := true } else { b with failA := true }
/-- ERRCODE for an image that was refused. -/
def Boot.refusal (b : Boot) (second : Bool) (i : Image) : Nat :=
  if b.signed i then errRollback else errImage second
/-- Try a slot: the image it holds when that is valid and its flag is clear, and the ERRCODE that is then shown. -/
def Boot.trySlot (b : Boot) (second : Bool) : Option Image × Nat :=
  if b.failed second then (none, b.errcode)
  else
    match b.slot second with
    | none => (none, errImage second)
    | some i => if b.accepts b.minNerem i then (some i, b.errcode) else (none, b.refusal second i)
/-- A slot's image runs. -/
def Boot.runs (b : Boot) (second : Bool) (i : Image) : Boot :=
  { b with img := if second then 2 else 1, stage := 3, neremMeasured := some i, healthBy := healthPeriod }
/-- The monitor chooses a Nerem image (R28). -/
def Boot.monitorChooses (b : Boot) : Boot :=
  match b.trySlot b.activeB with
  | (some i, _) => b.runs b.activeB i
  | (none, e) =>
    let b := { b with errcode := e }
    match b.trySlot (!b.activeB) with
    | (some i, _) => b.runs (!b.activeB) i
    | (none, e) => { b with errcode := e, stage := 0xF0 }
/-- The boot ROM verifies the monitor, which chooses Nerem (R27, R28); in SCRAP the ROM halts (Table 1.5). With an invalid monitor the model's choice is that the ROM stays in stage 0x01: the spec gives ERRCODE 0x01 and no more. That ERRCODE is 0x01 too for a monitor whose rollback index alone is too low, and not 0x04, is its choice likewise (DESIGN CHOICE: log entry 65). -/
def Boot.rom (b : Boot) : Boot :=
  let b := { b with stage := 1 }
  if b.lcs = 15 then b
  else if b.accepts b.minMonitor b.monitor then
    Boot.monitorChooses { b with stage := 2, monitorMeasured := some b.monitor }
  else { b with errcode := errMonitor }

/-- BSTAT (Table 1.7). READY is 1 in stage 0x05; reserved bits read as zero. -/
def Boot.bstat (b : Boot) : Word :=
  wrap (b.errcode % 256 * 2 ^ 32 + b.lcs % 16 * 2 ^ 24 + b.img % 4 * 2 ^ 16 + b.stage % 256 * 2 ^ 8 + b2n (decide (b.stage = 5)))
/-- The areas of the module flash (Table 1.6): boot header, monitor image, Nerem images A and B, health log, and device configuration. -/
inductive FlashArea
  | header | monitor | imageA | imageB | healthLog | config
  deriving DecidableEq, Repr
/-- Offset and size of an area (Table 1.6). -/
def FlashArea.range : FlashArea → Nat × Nat
  | .header => (0, 2 ^ 20)
  | .monitor => (0x100000, 15 * 2 ^ 20)
  | .imageA => (0x1000000, 224 * 2 ^ 20)
  | .imageB => (0xF000000, 224 * 2 ^ 20)
  | .healthLog => (0x1D000000, 16 * 2 ^ 20)
  | .config => (0x1E000000, 32 * 2 ^ 20)
/-- Bytes of the recovery buffer (R30). -/
def recoveryBytes : Nat := 256 * 2 ^ 20
/-- The number by which `defects` names a wipe that fails (ERRCODE 0x05). -/
def wipeDefect : Nat := 64

/-! ### The wipe -/

/-- A sub-bank after a reset: spare lines stay used, and a withdrawn sub-bank, or one that has no spare left, is not in the bank power map (R33). -/
def SubBank.reset (x : SubBank) : SubBank :=
  { alloc := false, power := if x.power = .unavailable ∨ 8 ≤ x.spares then .unavailable else .off, lastUse := 0, spares := x.spares, noticed := false }
/-- What a reset leaves of a stack's retired channel: boot may find it healthy (R124), which is left open. -/
def keepRetired (ctr : Nat) : KMap W62 → KMap W62
  | [] => []
  | (st, w) :: r => if Config.freeNat ctr % 2 = 0 then keepRetired (ctr + 1) r else (st, ⟨w.channel, stackEnd⟩) :: keepRetired (ctr + 1) r
/-- Every island is asked for when the device boots (R18). -/
def allWanted : KMap Island :=
  (List.range 64).map fun i => (i, ⟨.off, if i % 16 < 8 then .run else .k2, false, 0, 0⟩)
/-- The machine after the wipe of a reset (R23, R67): fuses, flash, host and peer memory, repairs and the outside world's moves stay. TAMPER stays too, since no reset is the event that sets it (Table 3.10). -/
def State.wiped (s : State) : State :=
  { State.reset with
    agenda := s.agenda
    nextId := s.nextId
    freeCtr := s.freeCtr + s.w62.length
    mem := s.mem.filter fun c => decide (2 ^ 64 ≤ c.1)
    fe := s.fe.filter fun k => decide (2 ^ 64 ≤ k)
    subbanks := (s.subbanks.map fun kv => (kv.1, kv.2.reset)).filter fun kv =>
      decide (kv.2.spares ≠ 0 ∨ kv.2.power = .unavailable)
    w62 := keepRetired s.freeCtr s.w62
    failedStacks := s.failedStacks
    spareRowsUsed := s.spareRowsUsed
    healthLog := s.healthLog
    tamper := s.tamper
    islands := allWanted
    boot := s.boot.atReset }
/-- A device reset: the wipe, a fresh firmware-reserve key, and the boot ROM (R22, R23, R67, R35). -/
def State.deviceReset (s : State) : State :=
  let s := s.wiped
  let (key, s) := s.fresh
  let s := { s with keys := [(0, key)], boot := s.boot.rom }
  s.failedStacks.foldl (fun s st => s.log .stackFailed st) s

/-- COLD_RESET (R22). -/
def execColdReset (s : State) : Out := .next s.deviceReset
/-- DRST_GO: a host reset, in any boot stage (R31). -/
def execDrstGo (s : State) : Out := .next s.deviceReset
/-- PF_FUNCTION_LEVEL_RESET: a host reset (Table 1.4). -/
def execPfFunctionLevelReset (s : State) : Out := .next s.deviceReset
/-- THERMAL_TRIP: a reset at 115 °C (R17). -/
def execThermalTrip (s : State) : Out := .next s.deviceReset
/-- The watchdog fails the active slot if it was on trial (R28). -/
def Boot.missed (b : Boot) : Boot := if b.trial then { b.fail b.activeB with trial := false } else b
/-- WATCHDOG_RESET: Nerem has missed its health report (R28). The spec names no clock for the 60 s; the model measures them in device time, which a PTP step moves. -/
def execWatchdogReset (s : State) : Out :=
  if 3 ≤ s.boot.stage ∧ s.boot.stage ≤ 5 ∧ s.boot.healthBy ≤ s.devTime then
    .next { s with boot := s.boot.missed }.deviceReset
  else .next s
/-- May the life-cycle state change so (R25)? -/
def lifeForward (old new : Nat) : Bool :=
  decide ((old = 1 ∧ new = 2) ∨ (old = 2 ∧ new = 3) ∨ (old ≤ 3 ∧ new = 4) ∨ (old ≠ 15 ∧ new = 15))
/-- May the change be made: forward, and to RMA only with an unlock token that Ouvain has signed and the owner's authorisation (R25)? -/
def lifeAllowed (old new token : Nat) (owner : Bool) : Bool :=
  lifeForward old new && (decide (new ≠ 4) || (Config.unlockOk token && owner))
/-- LIFE_CYCLE_CHANGE: keys are refused, fuses blown, every NVMe namespace crypto-erased, and the device reset (R25). -/
def execLifeCycleChange (c : LifeChange) (s : State) : Out :=
  if lifeAllowed s.boot.lcs c.lcs c.token c.owner then
    .next { s with
      boot := { s.boot with keysRefused := true, lcs := c.lcs, nvme := s.boot.nvme.map fun (kv : Nat × List Host.Cell) => (kv.1, []) } }.deviceReset
  else .next s
/-- Install an image in slot A (R30). -/
def Boot.install (b : Boot) (i : Image) : Boot :=
  { b with slotA := some i, failA := false, failB := false, activeB := false, trial := true }
/-- RCMD_GO: the host writes a value to RCMD. In recovery, with GO = 1, a valid image in the recovery buffer becomes slot A and the device is reset; an invalid one, or a buffer without one, sets ERRCODE (R30). Which ERRCODE an invalid image sets the spec leaves open: the model shows those of slot A, 0x02, or 0x04 for the rollback index alone. -/
def execRcmdGo (v : Word) (s : State) : Out :=
  let b := s.boot
  if b.stage ≠ 0xF0 ∨ bit v 0 = false then .next s
  else
    match b.recovery with
    | some i =>
      if b.accepts b.minNerem i then .next { s with boot := b.install i }.deviceReset
      else .next { s with boot := { b with errcode := b.refusal false i } }
    | none => .next { s with boot := { b with errcode := errImage false } }
/-- HEALTH_REPORT: Nerem serves from its first report on, and a trial slot has passed (R28, Table 1.7). -/
def execHealthReport (s : State) : Out :=
  let b := s.boot
  let gap := match s.update with
    | some u => u.handed
    | none => false
  if (b.stage = 4 ∨ b.stage = 5) ∧ !gap then
    .next { s with boot := { b with
      stage := 5
      healthBy := s.devTime + healthPeriod
      trial := b.trial && decide ((b.img = 2) ≠ (b.activeB = true)) } }
  else .next s
/-- May Chaestend generate keys (R25, Table 1.5)? -/
def Boot.keysAllowed (b : Boot) : Bool := !b.keysRefused && decide (1 ≤ b.lcs ∧ b.lcs ≤ 3)

end Sys2Proof.Machine
end

