-- ==== Sys2Proof/Machine/Power.lean ====
section
/-!
DEFINITION. Islands and the power limit: staggered start (R18, R19), HOLD and OFF (R14), operating points (R15), the module power limit (R16) and the thermal hold (R17).
-/
namespace Sys2Proof.Machine

/-- Change an island. -/
def State.modIsland (s : State) (i : Nat) (f : Island → Island) : State :=
  { s with islands := KMap.set s.islands i (f (s.island i)) }
/-- Is it a kiln island (R12)? -/
def isKilnIsland (i : Nat) : Bool := decide (8 ≤ i % 16)
/-- The 64 bricks of a brick island. -/
def islandBricks (i : Nat) : List Nat := (List.range 64).map fun j => 512 * (i / 16) + 64 * (i % 16) + j
/-- The four kilns of a kiln island. -/
def islandKilns (i : Nat) : List Nat := (List.range 4).map fun j => 32 * (i / 16) + 4 * (i % 8) + j
/-- Does a slot of the island hold a context? -/
def State.slotsIn (s : State) (i : Nat) (p : Slot → Bool) : Bool :=
  s.slots.any fun kv => decide (brickIsland (kv.1 / 8) = i) && p kv.2
/-- Is something resident in an island: a slot or an allocated sub-bank (R14), or kilns of a device? -/
def State.islandUsed (s : State) (i : Nat) : Bool :=
  if isKilnIsland i then s.vds.any fun kv => kv.2.kilns.any fun k => decide (kilnIsland k = i)
  else s.slotsIn i (fun k => decide (k.mode ≠ .free))
    || (islandBricks i).any fun b => (List.range 16).any fun sb =>
      let x := s.subBank b sb
      x.alloc || decide (x.power ≠ .off ∧ x.power ≠ .unavailable)
/-- Does an island that is off ask for power? -/
def State.pending (s : State) (i : Nat) : Bool :=
  decide ((s.island i).state = .off) && (decide ((s.island i).wanted ≠ .off) || s.islandUsed i)
/-- ISLAND_START: one island at a time, at least 5 µs apart, the lowest number first (R18). -/
def execIslandStart (isl : Nat) (s : State) : Out :=
  let apart := match s.lastStart with
    | some c => decide (c + 10000 ≤ s.cycle)
    | none => true
  if decide (3 ≤ s.boot.stage ∧ s.boot.stage ≤ 5) && apart && s.pending isl && (List.range isl).all fun j => !(s.pending j) then
    .next { s.modIsland isl fun x => { x with state := .starting s.cycle, clock := s.cycle } with lastStart := some s.cycle }
  else .next s
/-- Enable a kiln whose time has come (R19): kiln j of four at 32 j cycles after the island is ready, and after those before it. -/
def State.enableKiln (s : State) (k : Nat) : State :=
  let x := s.island (kilnIsland k)
  let up := match x.state with
    | .k2 | .k15 | .k10 => true
    | .off | .starting _ | .run | .hold => false
  let before := (islandKilns (kilnIsland k)).filter fun j => decide (j < k)
  if up && decide (x.readyAt + 32 * (k % 4) ≤ s.cycle) && before.all fun j => (s.kiln j).enabled then s.modKiln k fun q => { q with enabled := true } else s
/-- Are all 64 islands up (R29, stage 0x04)? -/
def State.allUp (s : State) : Bool :=
  (List.range 64).all fun i => match (s.island i).state with
    | .off | .starting _ => false
    | .run | .hold | .k2 | .k15 | .k10 => true
/-- Stage 0x04 once all islands are up and wiped (Table 1.7); a wipe that fails shows ERRCODE 0x05 instead. -/
def State.allReady (s : State) : State :=
  if s.boot.stage = 3 ∧ s.allUp then
    if s.boot.defects.contains wipeDefect then { s with boot := { s.boot with errcode := 5 } }
    else { s with boot := { s.boot with stage := 4 } }
  else s
/-- ISLAND_READY: 20 µs after its start (R18), unless it is broken, which shows ERRCODE 0x06 (Table 1.7); a kiln island enables its first kiln at once (R19), at K10 under a thermal hold. -/
def execIslandReady (isl : Nat) (s : State) : Out :=
  match (s.island isl).state with
  | .starting c =>
    if s.cycle < c + 40000 then .next s
    else if s.boot.defects.contains isl then .next { s with boot := { s.boot with errcode := 6 } }
    else
      let st := if isKilnIsland isl then (if (s.island isl).held then .k10 else .k2) else IslandState.run
      let s := s.modIsland isl fun x => { x with state := st, wanted := st, readyAt := s.cycle }
      let s := if isKilnIsland isl then s.enableKiln ((islandKilns isl).headD 0) else s
      .next s.allReady
  | .off | .run | .hold | .k2 | .k15 | .k10 => .next s
/-- KILN_ENABLE (R19). -/
def execKilnEnable (k : Nat) (s : State) : Out := .next (s.enableKiln k)
/-- ISLAND_ENTER_HOLD: no slot of its 64 bricks is ready (R14). -/
def execIslandEnterHold (isl : Nat) (s : State) : Out :=
  if (s.island isl).state = .run ∧ !(s.slotsIn isl fun k => decide (k.mode = .ready)) then
    .next (s.modIsland isl fun x => { x with state := .hold, wanted := .hold, clock := s.cycle - x.clock })
  else .next s
/-- ISLAND_LEAVE_HOLD: a slot has become ready, or a write-back of the ring has woken the island (R14, R185). -/
def execIslandLeaveHold (isl : Nat) (s : State) : Out :=
  if (s.island isl).state = .hold ∧ ((s.island isl).wanted = .run ∨ s.slotsIn isl fun k => decide (k.mode = .ready)) then
    .next (s.modIsland isl fun x => { x with state := .run, wanted := .run, clock := s.cycle - x.clock })
  else .next s
/-- An island loses its state: the barriers of its bricks, or its kilns (Table 1.2). -/
def State.darken (s : State) (i : Nat) : State :=
  { s with
    barriers := s.barriers.filter fun kv => decide (brickIsland (kv.1 / 128) ≠ i)
    kilns := s.kilns.filter fun kv => decide (kilnIsland kv.1 ≠ i) }
/-- ISLAND_ENTER_OFF: no resident slot and no allocated sub-bank (R14); a kiln island when no device holds its kilns. -/
def execIslandEnterOff (isl : Nat) (s : State) : Out :=
  let x := s.island isl
  let on := match x.state with
    | .off | .starting _ => false
    | .run | .hold | .k2 | .k15 | .k10 => true
  if on && !(s.islandUsed isl) && decide (5 ≤ s.boot.stage) then
    .next ((s.darken isl).modIsland isl fun x => { x with state := .off, wanted := .off })
  else .next s

/-! ### Points of kiln islands -/

/-- One point lower (Table 1.2). -/
def IslandState.lower : IslandState → IslandState
  | .k2 => .k15
  | .k15 => .k10
  | s => s
/-- One point higher. -/
def IslandState.raise : IslandState → IslandState
  | .k10 => .k15
  | .k15 => .k2
  | s => s
/-- The numbers of the kiln islands. -/
def kilnIslands : List Nat := (List.range 64).filter isKilnIsland
/-- The lowest priority class in service among the partitions of a kiln island: the largest class number, 4 when it serves none (R16). -/
def State.islandClass (s : State) (i : Nat) : Nat :=
  let here := s.vds.filter fun kv => kv.2.resident && kv.2.kilns.any fun k => decide (kilnIsland k = i)
  let classes := (here.map fun kv => match kv.2.tree with
    | some t => (t.regions.filter fun r => decide (0 < r.live)).map (·.prio)
    | none => []).flatten
  if classes = [] then 4 else classes.foldl max 0
/-- The kiln island to lower next. -/
def State.toLower (s : State) : Option Nat :=
  (kilnIslands.filter fun i => decide ((s.island i).wanted = .k2 ∨ (s.island i).wanted = .k15)).foldl (fun best i =>
    match best with
    | some b => if s.islandClass b < s.islandClass i then some i else some b
    | none => some i) none
/-- The kiln island to raise next. -/
def State.toRaise (s : State) : Option Nat :=
  kilnIslands.find? fun i =>
    !((s.island i).held) && decide ((s.island i).wanted = .k10 ∨ (s.island i).wanted = .k15)
/-- POWER_SAMPLE: every 10 µs; the average over the last 1 ms lowers or raises one kiln island by one point (R16). -/
def execPowerSample (mw : Nat) (s : State) : Out :=
  let due := match s.lastSample with
    | some c => decide (c + 20000 ≤ s.cycle)
    | none => true
  if !due then .next s
  else
    let all := s.powerSamples ++ [mw]
    let xs := all.drop (all.length - 100)
    let sum := xs.foldl (· + ·) 0
    let s := { s with powerSamples := xs, lastSample := some s.cycle }
    if 2000000 * xs.length < sum then
      match s.toLower with
      | some i => .next (s.modIsland i fun x => { x with wanted := x.wanted.lower })
      | none => .next s
    else if sum < 1900000 * xs.length then
      match s.toRaise with
      | some i => .next (s.modIsland i fun x => { x with wanted := x.wanted.raise })
      | none => .next s
    else .next s
/-- THERMAL_HOLD: every kiln island of a die is held at K10 (R17). -/
def execThermalHold (die : Nat) (s : State) : Out :=
  .next ((List.range 8).foldl (fun s j => s.modIsland (16 * die + 8 + j) fun x =>
    { x with
      held := true
      wanted := match x.wanted with
        | .k2 | .k15 => .k10
        | w => w }) s)
/-- KILN_POINT_SWITCH: none of the island's kilns runs a hire, so it takes the point asked for (R15). -/
def execKilnPointSwitch (k : Nat) (s : State) : Out :=
  let i := kilnIsland k
  let x := s.island i
  let point := fun (st : IslandState) => decide (st = .k2 ∨ st = .k15 ∨ st = .k10)
  if point x.state && point x.wanted && (islandKilns i).all fun q => decide ((s.kiln q).running = none) then
    .next (s.modIsland i fun x => { x with state := x.wanted })
  else .next s

end Sys2Proof.Machine
end

