-- ==== Sys2Proof/Machine/Upkeep.lean ====
section
/-!
DEFINITION. Upkeep of memory: hash masks (R123), invalidations (R130, R131), the patrol scrubber and repairs (R32 to R34, R66, R124), and the sleep of sub-banks and pseudo-channels (R134 to R137).
-/
namespace Sys2Proof.Machine

/-! ### Placement -/

/-- Is a unit of a quarter of a stack owned (R123)? -/
def State.quarterOwned (s : State) (stack q : Nat) : Bool :=
  s.owner.any fun kv => decide (kv.1 / 2 ^ 15 = stack ∧ kv.1 % 2 ^ 15 / 2 ^ 13 = q)
/-- The 12 bits of a quarter's pair of masks in a HASHMASK value (Table 5.4). -/
def maskPair (v : Word) (q : Nat) : Nat := bits v (12 * q + 11) (12 * q)
/-- HASHMASK_WRITE: each quarter's pair is judged on its own (R123). -/
def execHashmaskWrite (stack : Nat) (v : Word) (s : State) : Out :=
  if s.neremRuns then
    let old := s.hashMask stack
    let pair := fun (q : Nat) => (if s.quarterOwned stack q then maskPair old q else maskPair v q) * 2 ^ (12 * q)
    .next { s with hashmask := KMap.set s.hashmask stack (wrap (pair 0 + pair 1 + pair 2 + pair 3)) }
  else .next s
/-- CHANNEL_REBUILD_COMPLETE: every granule has its 62-way place (R124). -/
def execChannelRebuildComplete (stack : Nat) (s : State) : Out :=
  .next { s with w62 := KMap.modify s.w62 stack fun w => { w with moved := stackEnd } }
/-- The controllers move granules in ascending order while `n` cycles pass: at least 64 GB/s, which is 128 bytes in four cycles (R124). -/
def State.moveGranules (s : State) (n : Nat) : State :=
  { s with w62 := s.w62.map fun kv => (kv.1, { kv.2 with moved := min stackEnd (kv.2.moved + 128 * (1 + n / 4)) }) }

/-! ### Invalidations -/

/-- A value of SINV with its reserved bits cleared (Table 5.6). -/
def sinvFields (v : Word) : Word := v &&& ~~~ wrap (field 51 48 + field 11 2)
/-- HYP_INVALIDATE: Nerem changes hypervisor-stage tables and invalidates what they gave, naming it by the fields of SINV (R130). A controller port cannot trap its writer: what stands in a reserved field is discarded, and the other fields take effect (R7). -/
def execHypInvalidate (vd : Nat) (v : HypInval) (s : State) : Out :=
  if s.neremRuns then
    let (i, s) := (s.writeTables v.writes).fresh
    .next { s with invals := s.invals ++ [Inval.mk i none vd (sinvFields v.value)] }
  else .next s
/-- Does a page of 2 ^ `size` bytes of a space meet the range that an invalidation names (Table 5.6)? -/
def Inval.meets (i : Inval) (space : BitVec 12) (va size : Nat) : Bool :=
  let sh := max size (match bits i.value 1 0 with
    | 0 => 12
    | 1 => 21
    | _ => 30)
  decide (space.toNat = bits i.value 63 52)
    && (decide (bits i.value 1 0 = 3) || decide (va / 2 ^ sh = bits i.value 47 12 * 4096 / 2 ^ sh))
/-- Does an address of a space lie in the range? -/
def Inval.covers (i : Inval) (space : BitVec 12) (ea : Word) : Bool := i.meets space ea.toNat 0
/-- Has a context a memory request that its home has not performed, a queue-fed pop that waits at its home (R160), or a translated store that has not departed, in the range? -/
def Slot.requesting (k : Slot) (i : Inval) : Bool :=
  let asks := match k.req with
    | some q =>
      match q.stage with
      | .sent | .queued => inVspace q.ea.toNat && i.covers k.space q.ea
      | .done _ | .failed _ _ _ => false
    | none => false
  let pops := match k.mode with
    | .parked (.wordFull _) => k.ports.toList.any fun p => p.bound && p.queueFed && inVspace p.addr.toNat && i.covers k.space p.addr
    | .parked _ | .free | .ready | .switching _ | .halted => false
  decide (k.vd = i.vd)
    && (asks || pops || k.sb.any fun e => e.place.isSome && !e.departed && inVspace e.ea.toNat && i.covers e.space e.ea)
/-- Has every request that an old entry may have translated been performed, and every write acknowledged (R131)? -/
def State.oldDone (s : State) (i : Inval) : Bool :=
  (s.slots ++ s.saved ++ s.held ++ s.orphans ++ s.arriving).all (fun kv => !(kv.2.requesting i))
    && s.msgs.all fun m => !(decide (m.vd = i.vd) && m.demand.isNone && inVspace m.ea.toNat && i.covers m.space m.ea)
/-- Every quoin discards the cached translations that the named range may have produced (R131). -/
def State.discard (s : State) (i : Inval) : State :=
  { s with tlb := s.tlb.map fun kv => (kv.1, kv.2.filter fun e => !(decide (e.vd = i.vd) && i.meets e.space e.va e.sh)) }
/-- Every brick's instruction cache is emptied (R230). -/
def State.emptyAllICaches (s : State) : State := { s with icaches := [], codeLog := [] }
/-- The CWR of SINV that waited for an invalidation completes, in its slot or in its save area (R131, Table 4.12). -/
def State.invalidated (s : State) (id c : Nat) : State :=
  match s.keyOf c with
  | some key =>
    let k := s.slotAt key
    if k.mode = .parked (.invalidation id) then s.completeAt key k.advance else s
  | none =>
    s.modCtx c fun k =>
      if k.mode = .parked (.invalidation id) then { k.advance with mode := .ready } else k
/-- INVALIDATE_COMPLETE (R131). -/
def execInvalidateComplete (id : Nat) (s : State) : Out :=
  match s.invals.find? fun i => decide (i.id = id) with
  | none => .next s
  | some i =>
    if s.oldDone i then
      let s := { (s.discard i).emptyAllICaches with invals := s.invals.filter fun x => decide (x.id ≠ id) }
      .next (match i.ctx with
        | some c => s.invalidated id c
        | none => s)
    else .next s

/-! ### Scrubbing and repairs -/

/-- PATROL_SCRUB: the scrubber reads a granule and corrects it; an error counts as one found by an access (R32, R140). -/
def execPatrolScrub (g : Nat) (r : EccResult) (s : State) : Out :=
  match r with
  | .clean => .next s
  | .corrected => .next (s.corrected (placeOf (g / 64 * 64)))
  | .uncorrectable => .next (s.uncorrectable (placeOf (g / 64 * 64)))
  | .lost => .next (s.lost (placeOf (g / 64 * 64)))
/-- Nerem migrates the contents of a sub-bank before it is withdrawn (R33); the spec does not say where to, and the model keeps them by the sub-bank's number. -/
def State.migrateSub (s : State) (b sb : Nat) : State :=
  let lo := bankAddr b (sb * 2 ^ 16)
  { s with migrated := KMap.set s.migrated (subKey b sb) (s.mem.filter fun c => decide (lo ≤ c.1 ∧ c.1 < lo + 2 ^ 16)) }
/-- The waiters of a sub-bank's words are served again: their accesses now fault. -/
def State.wakeWaiters (s : State) (b sb : Nat) : State :=
  let keys := (s.feq.map (·.1)).filter fun key => decide (key / 2 ^ 16 = bankAddr b (sb * 2 ^ 16) / 2 ^ 16)
  keys.foldl State.feWake s
/-- SUBBANK_WITHDRAW: a sub-bank that has no spare line left leaves the bank power map, once its partition has had its notice and Nerem has migrated the contents (R33). -/
def execSubbankWithdraw (b sb : Nat) (s : State) : Out :=
  let x := s.subBank b sb
  if x.noticed && decide (x.power ≠ .unavailable) && s.neremRuns then
    let s := ((s.migrateSub b sb).blankSub b sb).modSub b sb fun x => { x with power := .unavailable }
    .next ((s.log .bankWithdrawn (subKey b sb)).wakeWaiters b sb)
  else .next s
/-- SPARE_LINE_REMAP_DONE: the stalled accesses to the granule go on (R33). -/
def execSpareLineRemapDone (b sb g : Nat) (s : State) : Out :=
  let key := bankAddr b (sb * 2 ^ 16 + g % 2 ^ 16 / 64 * 64)
  if s.remapping.contains key then
    .next { s with remapping := NSet.erase s.remapping key, sparedLines := s.sparedLines + 1 }
  else .next s
/-- SPARE_ROW_REPAIR_DONE: the stalled accesses to the row go on (R34). -/
def execSpareRowRepairDone (g : Nat) (s : State) : Out :=
  if s.rowRepair.any (sameRow (g / 64)) then
    .next { s with rowRepair := s.rowRepair.filter fun h => !(sameRow (g / 64) h), sparedLines := s.sparedLines + 1 }
  else .next s
/-- MAJOR_ROLLOVER_DONE: every granule of the block that is not cleared has been encrypted again under the new counters, and the accesses that stalled go on (R66). -/
def execMajorRolloverDone (blk : Nat) (s : State) : Out := .next { s with rolling := NSet.erase s.rolling blk }

/-! ### Sleep -/

/-- Effective phase of a device (R138). -/
def VDev.phase (v : VDev) : Nat := effectivePhase v v.bwphase
/-- SUBBANK_RETENTION: an allocated sub-bank sleeps after 64 µs without an access, but for the exceptions of R136. -/
def execSubbankRetention (b sb : Nat) (s : State) : Out :=
  let x := s.subBank b sb
  match (s.subHolder sb).bind s.vd? with
  | none => .next s
  | some v =>
    let idle := max x.lastUse v.created + 128000
    if x.alloc && decide (x.power = .on ∧ idle ≤ s.cycle ∧ v.phase ≠ 3) && !(s.queueIn b sb) && !(s.acceptedIn b sb) then
      .next (s.modSub b sb fun x => { x with power := .retention })
    else .next s
/-- SUBBANK_WAKE_DONE: the accesses that stalled are served in order (R21). -/
def execSubbankWakeDone (b sb : Nat) (s : State) : Out :=
  if (s.subBank b sb).power = .waking then
    .next (s.modSub b sb fun x => { x with power := .on, lastUse := s.cycle })
  else .next s
/-- SUBBANK_POWER_UP_DONE: an allocated sub-bank has power, its island being up (R135). -/
def execSubbankPowerUpDone (b sb : Nat) (s : State) : Out :=
  if (s.subBank b sb).power = .poweringUp ∧ s.brickUp b then
    .next (s.modSub b sb fun x => { x with power := .on, lastUse := s.cycle })
  else .next s
/-- The phase that the idle timers of a stack follow (R137). -/
def State.stackPhase (s : State) (stack : Nat) : Nat :=
  s.vds.foldl (fun m kv =>
    if kv.2.resident ∧ (s.stacksOf kv.1).contains stack then max m kv.2.phase else m) 0
/-- Idle cycles before power-down and before self-refresh, by phase (R137). -/
def pchTimers (phase : Nat) : Option Nat × Option Nat :=
  match phase with
  | 0 => (some 400, some 20000)
  | 1 => (some 400, some 2000000)
  | 2 => (some 4000, none)
  | _ => (none, none)
/-- Has a pseudo-channel been idle for a timer? -/
def State.pchIdle (s : State) (p : Nat) : Option Nat → Bool
  | some t => decide (KMap.getD s.pchUse p 0 + t ≤ s.cycle) && s.stallq.all fun e => decide (e.unit ≠ 2 ^ 20 + p)
  | none => false
/-- State of a pseudo-channel. -/
def State.pchState (s : State) (p : Nat) : PchState := KMap.getD s.pch p .active
/-- PCH_POWER_DOWN (R137). -/
def execPchPowerDown (p : Nat) (s : State) : Out :=
  if s.pchState p = .active ∧ s.pchIdle p (pchTimers (s.stackPhase (p / 64))).1 then
    .next { s with pch := KMap.set s.pch p .powerDown }
  else .next s
/-- PCH_SELF_REFRESH (R137). -/
def execPchSelfRefresh (p : Nat) (s : State) : Out :=
  if (s.pchState p = .active ∨ s.pchState p = .powerDown) ∧ s.pchIdle p (pchTimers (s.stackPhase (p / 64))).2 then
    .next { s with pch := KMap.set s.pch p .selfRefresh }
  else .next s
/-- PCH_WAKE_DONE: the accesses that stalled are served in order (R21). -/
def execPchWakeDone (p : Nat) (s : State) : Out :=
  if s.pchState p = .waking then
    .next { s with pch := KMap.erase s.pch p, pchUse := KMap.set s.pchUse p s.cycle }
  else .next s

end Sys2Proof.Machine
end

