-- ==== Sys2Proof/Machine/Keys.lean ====
section
/-!
DEFINITION. Chaestend's key calls (R74, R77, R82, R85) and its measurements (R86).
-/
namespace Sys2Proof.Machine

/-- Nerem reads the status of a key call in the monitor mailbox (R85). -/
def State.answer (s : State) (call st : Nat) : State := { s with mailbox := some (call, st) }
/-- A key call of Nerem. -/
def State.keyCall (s : State) (call : Nat) (go : Nat × State) : Out :=
  if s.neremRuns then .next (go.2.answer call go.1) else .next s
/-- Begin to erase a key: its entry is zero (R74 step 1). -/
def State.eraseKey (s : State) (kid : Nat) (who : EraseFor) : State :=
  { s with keys := KMap.erase s.keys kid, erasing := s.erasing ++ [⟨kid, who⟩] }
/-- Every unit of an erased key becomes CLEARED (R74 step 2). -/
def State.clearUnits (s : State) (kid : Nat) : State :=
  { s with
    owner := s.owner.filter fun kv => decide (kv.2 ≠ kid)
    erasing := s.erasing.filter fun e => decide (e.kid ≠ kid) }
/-- Put a fresh key under a KID (R66); in life-cycle state TEST it is a test key (Table 1.5). -/
def State.newKey (s : State) (kid : Nat) : State :=
  let (n, s) := s.fresh
  { s with keys := KMap.set s.keys kid (if s.boot.lcs = 1 then Config.testKey n else n) }
/-- Does a window list a virtual device (R82)? -/
def Window.lists (w : Window) (vd : Nat) : Bool :=
  decide (w.state ≠ .closed) && ((memberRight w.members vd).isSome || (memberRight w.next vd).isSome)

/-- VDKEY (Table 3.9). -/
def execVdkey (vd : Nat) (s : State) : Out :=
  s.keyCall 0x10 <|
    if !s.boot.keysAllowed then (2, s)
    else if (s.vd? vd).isNone ∨ KMap.has s.keys (vd + 1) then (1, s)
    else if s.beingErased (vd + 1) then (3, s)
    else (0, s.newKey (vd + 1))
/-- VDERASE answers busy while a window lists the device, or its key is already being erased; it answers done when the erasure has ended (R74, Table 3.9). -/
def execVderase (vd : Nat) (s : State) : Out :=
  if !s.neremRuns then .next s
  else if (s.vd? vd).isNone then .next (s.answer 0x11 1)
  else if (s.windows.any fun kv => kv.2.lists vd) || s.beingErased (vd + 1) then .next (s.answer 0x11 3)
  else .next (s.eraseKey (vd + 1) .key)

/-! ### Windows -/

/-- Is a member list sound: two to eight different devices that exist (Table 3.5)? -/
def State.membersSound (s : State) (ms : List WinMember) : Bool :=
  decide (2 ≤ ms.length ∧ ms.length ≤ 8 ∧ (ms.map (·.vd)).Nodup) && ms.all fun m => (s.vd? m.vd).isSome
/-- 2 MiB units of the open windows that a device created, which count against its quota (R76). -/
def State.windowUnits (s : State) (vd : Nat) : Nat :=
  s.windows.foldl (fun n kv => if kv.2.creator = vd ∧ kv.2.state ≠ .closed then n + kv.2.units.length else n) 0
/-- Does a unit belong to the save region of a device (R39, R175)? -/
def State.inSave (s : State) (u : Nat) : Bool :=
  s.vds.any fun kv => decide (kv.2.save / 2 ^ 21 ≤ u ∧ u < kv.2.save / 2 ^ 21 + kv.2.saveUnits)
/-- Can the units become a window: units of partition memory that nobody else owns, in no save region (R39, R68, R76)? -/
def State.unitsSound (s : State) (units : List Nat) (creator : Nat) : Bool :=
  decide (1 ≤ units.length ∧ units.length ≤ 32768 ∧ units.Nodup)
    && units.all fun u => inPartition (u * 2 ^ 21) && !(s.inSave u) && match KMap.find? s.owner u with
      | some k => decide (k = creator + 1)
      | none => true
/-- Does no open window hold one of the units? -/
def State.unitsFree (s : State) (units : List Nat) : Bool :=
  s.windows.all fun kv => decide (kv.2.state = .closed) || NSet.disjoint kv.2.units units
/-- Is the window number free? -/
def State.windowFree (s : State) (w : Nat) : Bool :=
  match KMap.find? s.windows w with
  | some x => decide (x.state = .closed)
  | none => true
/-- Units that a device owns outside its save region and a list of units. -/
def State.ownUnits (s : State) (vd : Nat) (v : VDev) (units : List Nat) : Nat :=
  (s.owner.filter fun kv => decide (kv.2 = vd + 1 ∧ ¬ (v.save / 2 ^ 21 ≤ kv.1 ∧ kv.1 < v.save / 2 ^ 21 + v.saveUnits))
    && !(units.contains kv.1)).length
/-- Does the quota of the creating device allow the units of a new window, beside its save region, its other units and its windows (R39, R76, R175)? -/
def State.quotaAllows (s : State) (creator : Nat) (units : List Nat) : Bool :=
  match s.vd? creator with
  | some v => decide (v.saveUnits + s.ownUnits creator v units + s.windowUnits creator + units.length ≤ v.hbmq)
  | none => false
/-- WINOPEN: a fresh key, cleared units, a member list and GEN 0 (R77). That one for a window that is not CLOSED answers 1 is the model's choice (log entry 74). -/
def execWinopen (w : Nat) (units : List Nat) (ms : List WinMember) (creator : Nat) (s : State) : Out :=
  s.keyCall 0x20 <|
    if !s.boot.keysAllowed then (2, s)
    else if !(decide (w < 64) && s.windowFree w && s.membersSound ms && s.unitsSound units creator
        && s.unitsFree units && s.quotaAllows creator units) then (1, s)
    else
      let s := s.newKey (32 + w)
      (0, { s with
        owner := s.owner.filter fun kv => !(units.contains kv.1)
        windows := KMap.set s.windows w ⟨units, ms, 0, .opened, [], false, creator, none, []⟩ })
/-- WINMEMBERS fences members that are removed or lowered: a re-key begins (R82 step 1). It answers done when the re-key has closed. -/
def execWinmembers (w : Nat) (ms : List WinMember) (s : State) : Out :=
  if !s.neremRuns then .next s
  else
    match KMap.find? s.windows w with
    | none => .next (s.answer 0x21 1)
    | some x =>
      match x.state with
      | .closed => .next (s.answer 0x21 1)
      | .rekey => .next (s.answer 0x21 3)
      | .opened =>
        if !s.boot.keysAllowed then .next (s.answer 0x21 2)
        else if !(s.membersSound ms) then .next (s.answer 0x21 1)
        else if s.beingErased (32 + w) then .next (s.answer 0x21 3)
        else .next { s with windows := KMap.set s.windows w { x with state := .rekey, next := ms, drained := false } }
/-- REKEY_DRAINED: accepted requests have completed; a new key stands beside the old one (R82 steps 2 and 3). -/
def execRekeyDrained (w : Nat) (s : State) : Out :=
  match KMap.find? s.windows w with
  | none => .next s
  | some x =>
    if x.state = .rekey ∧ !x.drained then
      let s' := s.newKey (32 + w)
      let y := { x with drained := true, old := KMap.find? s.keys (32 + w), passed := [] }
      .next { s' with windows := KMap.set s'.windows w y }
    else .next s
/-- Is a granule, by its number, one of a window that is not cleared and that its controller's pointer has not passed? -/
def State.rekeyAhead (s : State) (x : Window) (passed : KMap Nat) (g : Nat) : Bool :=
  x.units.contains (unitOf (64 * g)) && KMap.has s.owner (unitOf (64 * g)) && decide (KMap.getD passed (s.controller (64 * g)) 0 ≤ 64 * g)
/-- Each controller encrypts up to `n` of its granules of a window again, in ascending address order; cleared granules are skipped (R82 step 4). -/
def State.rekeyPass (s : State) (x : Window) (n : Nat) : Window :=
  let go := fun (a : KMap Nat × KMap Nat) (g : Nat) =>
    let p := s.controller (64 * g)
    if s.rekeyAhead x a.1 g && decide (KMap.getD a.2 p 0 < n) then
      (KMap.set a.1 p (64 * g + 64), KMap.set a.2 p (KMap.getD a.2 p 0 + 1))
    else a
  { x with passed := (List.foldl go (x.passed, []) s.written).1 }
/-- The re-keys go on while `n` cycles pass: at least 4 GB/s for each controller, a granule in 32 cycles (R82 step 4). -/
def State.rekeyOn (s : State) (n : Nat) : State :=
  { s with windows := List.map (fun (kv : Nat × Window) =>
    if kv.2.state = .rekey ∧ kv.2.drained then (kv.1, s.rekeyPass kv.2 (1 + n / 32)) else kv) s.windows }
/-- REKEY_CLOSE: when every granule is under the new key, the new list takes effect, the old key is zeroed, GEN rises by 2 ^ 32, and WINMEMBERS is answered (R82 step 5, R85). -/
def execRekeyClose (w : Nat) (s : State) : Out :=
  match KMap.find? s.windows w with
  | none => .next s
  | some x =>
    if x.state = .rekey ∧ x.drained ∧ !(s.written.any fun g => s.rekeyAhead x x.passed g) then
      let y := { x with
        state := WinState.opened, members := x.next, next := [], drained := false, old := none, passed := []
        gen := x.gen + wrap (2 ^ 32) }
      .next ({ s with windows := KMap.set s.windows w y }.answer 0x21 0)
    else .next s
/-- Is a window in a re-key? -/
def State.inRekey (s : State) (w : Nat) : Bool :=
  match KMap.find? s.windows w with
  | some x => decide (x.state = .rekey)
  | none => false
/-- WINCLOSE begins to erase the window's key; it answers busy while the window is in a re-key or its key is already being erased, and done when the window is CLOSED (R74, R82, Table 3.9). -/
def execWinclose (w : Nat) (s : State) : Out :=
  if !s.neremRuns then .next s
  else if s.windowFree w then .next (s.answer 0x22 1)
  else if s.inRekey w || s.beingErased (32 + w) then .next (s.answer 0x22 3)
  else .next (s.eraseKey (32 + w) (.window w))
/-- A context as its image reads once the key is erased: zeros (R74 step 2). One that is cancelled stands for an answer still to come, and is never seen again. -/
def Slot.zeroed (k : Slot) : Slot :=
  if k.cancelled then k
  else { Slot.empty with mode := if k.mode = .halted then .halted else .ready, ctx := k.ctx, vd := k.vd }
/-- A spilled context as its entry reads once the key is erased. -/
def Arrival.zeroed : Arrival → Arrival
  | .migrant m t => .migrant ⟨m.ctx, m.vd, Vector.replicate 16 0, 0, 0, 0, m.halt⟩ t
  | .context k t => .context k.zeroed t
/-- What a device's save region holds reads as zeros once its key is erased: images of contexts, overflow areas, spill areas and barrier images (R74, R175). -/
def State.zeroSaved (s : State) (vd : Nat) : State :=
  let mine := fun (k : Slot) => decide (k.vd = vd)
  let s := ((s.saved ++ s.held).filter fun kv => mine kv.2 && !kv.2.cancelled).foldl (fun s kv => s.withdraw kv.2.ctx) s
  let image := fun (kv : Nat × Slot) => if mine kv.2 then (kv.1, kv.2.zeroed) else kv
  { s with
    saved := s.saved.map image
    held := s.held.map image
    slots := s.slots.map fun kv => if mine kv.2 then (kv.1, { kv.2 with overflow := kv.2.overflow.map fun _ => ⟨0, 0⟩ }) else kv
    spills := s.spills.map fun kv => if kv.1 % 16 = vd then (kv.1, kv.2.map Arrival.zeroed) else kv
    barrierImages := s.barrierImages.filter fun kv => decide (kv.1 % 16 ≠ vd)
    barrierPasses := s.barrierPasses.filter fun x => decide (x.vd ≠ vd ∨ ¬ x.wr) }
/-- What follows the erasure of a key for VDERASE or a window (R74 step 3). -/
def State.erasedFor (s : State) : EraseFor → State
  | .key => s.answer 0x11 0
  | .window w => { s with windows := KMap.modify s.windows w fun x => { x with state := .closed } }.answer 0x22 0
  | .device _ => s

/-! ### Measurements (R86, Table 3.10) -/

/-- Measurement of an accepted image: digest, version and rollback index. -/
def imageBlock (i : Option Image) : List Nat :=
  match i with
  | some i => [(Config.sha512 i.content).toNat, i.version, i.rollback]
  | none => []
/-- Blocks 1 to 5. -/
def State.commonBlocks (s : State) : List (List Nat) :=
  [[1, (Config.sha512 0).toNat], 2 :: imageBlock s.boot.monitorMeasured, 3 :: imageBlock s.boot.neremMeasured,
    [4, s.boot.lcs, s.boot.minMonitor, s.boot.minNerem],
    [5, b2n s.tamper] ++ s.failedStacks ++ (s.w62.map fun kv => 32 * kv.1 + kv.2.channel)]
/-- The resource set of a device, as numbers (Table 2.1). -/
def VDev.resources (v : VDev) : List Nat :=
  [v.slotNums.length] ++ v.slotNums ++ [v.subbanks.length] ++ v.subbanks ++ [v.kilns.length] ++ v.kilns
    ++ [v.copies.length] ++ v.copies ++ [v.colls.length] ++ v.colls ++ v.ringQ ++ [v.hbmq, b2n v.dbg, v.func]
/-- Block 6 + VDID: the device, its resources and the windows it belongs to. -/
def State.vdBlock (s : State) (vd : Nat) : List Nat :=
  match s.vd? vd with
  | none => []
  | some v =>
    let wins := (s.windows.map fun kv =>
      if kv.2.state = .closed then []
      else
        match memberRight kv.2.members vd with
        | some rw => [kv.1, b2n rw, bits kv.2.gen 63 32]
        | none => []).flatten
    [6 + vd, vd, b2n v.dbg, (Config.resourceDigest v.resources).toNat] ++ wins
/-- A report: its body, the signature of the device's attestation key, and the key's certificate chain (R86). -/
def signed (body : List Nat) : List Nat :=
  body ++ (Config.attestSign body).toNat :: Config.certificates.map (·.toNat)
/-- ATTEST builds the report of a device for a requester's nonce (R86, Table 3.9). -/
def execAttest (vd nonce : Nat) (s : State) : Out :=
  s.keyCall 0x30 <|
    if (s.vd? vd).isNone then (1, s)
    else (0, { s with reports := s.reports ++ [(vd, signed (nonce :: (s.commonBlocks.flatten ++ s.vdBlock vd)))] })
/-- SPDM_GET_MEASUREMENTS: the PF returns every block, a VF blocks 1 to 5 and its bound device's (R86). -/
def execSpdmGetMeasurements (f : Nat) (s : State) : Out :=
  let mine := (s.vds.filter fun kv => decide (f = 0 ∨ kv.2.func = f)).map (·.1)
  .next { s with reports := s.reports ++ [(f, signed (s.commonBlocks.flatten ++ (mine.map s.vdBlock).flatten))] }

end Sys2Proof.Machine
end

