-- ==== Sys2Proof/Machine/Net.lean ====
section
/-!
DEFINITION. Network ingest (R49 to R55), the PTP clock (R38) and the Birtil ports (R37).
-/
namespace Sys2Proof.Machine

/-! ### Fields of a frame (R49) -/

/-- A big-endian number of `n` bytes at an offset of a frame. -/
def beAt (f : List Byte) (off n : Nat) : Nat := ((f.drop off).take n).foldl (fun a b => 256 * a + b.toNat) 0
/-- A little-endian number of `n` bytes at an offset. -/
def leAt (f : List Byte) (off n : Nat) : Nat := leNat ((f.drop off).take n)
/-- Does the frame carry an IEEE 802.1Q tag? -/
def tagged (f : List Byte) : Bool := decide (beAt f 12 2 = 0x8100)
/-- Offset of what follows the EtherType. -/
def l3 (f : List Byte) : Nat := if tagged f then 18 else 14
/-- EtherType after any one VLAN tag. -/
def etherType (f : List Byte) : Nat := beAt f (l3 f - 2) 2
/-- IP version that the frame carries, 0 when none. -/
def ipVersion (f : List Byte) : Nat :=
  if etherType f = 0x0800 ∧ beAt f (l3 f) 1 / 16 = 4 then 4
  else if etherType f = 0x86DD ∧ beAt f (l3 f) 1 / 16 = 6 then 6
  else 0
/-- Where the layer-4 header stands, its protocol, and whether the packet is a later fragment. -/
structure L4 where
  proto : Nat
  off : Nat
  later : Bool
  deriving DecidableEq, Repr
/-- Walk the extension headers of IPv6. -/
def walkIp6 (f : List Byte) (next off : Nat) (later : Bool) : Nat → L4
  | 0 => ⟨next, off, later⟩
  | n + 1 =>
    if next = 44 then walkIp6 f (beAt f off 1) (off + 8) (later || decide (beAt f (off + 2) 2 / 8 ≠ 0)) n
    else if next = 51 then walkIp6 f (beAt f off 1) (off + 4 * (beAt f (off + 1) 1 + 2)) later n
    else if next = 0 ∨ next = 43 ∨ next = 60 ∨ next = 135 ∨ next = 139 ∨ next = 140 then
      walkIp6 f (beAt f off 1) (off + 8 * (beAt f (off + 1) 1 + 1)) later n
    else ⟨next, off, later⟩
/-- Layer 4 of an IP frame. -/
def l4 (f : List Byte) : Option L4 :=
  let o := l3 f
  match ipVersion f with
  | 4 => some ⟨beAt f (o + 9) 1, o + 4 * (beAt f o 1 % 16), decide (beAt f (o + 6) 2 % 2 ^ 13 ≠ 0)⟩
  | 6 => some (walkIp6 f (beAt f (o + 6) 1) (o + 40) false f.length)
  | _ => none
/-- Source or destination port of a TCP, UDP or SCTP header, absent in a later fragment. -/
def portAt (f : List Byte) (which : Nat) : Option Nat :=
  match l4 f with
  | some h =>
    if (h.proto = 6 ∨ h.proto = 17 ∨ h.proto = 132) ∧ !h.later ∧ h.off + 4 ≤ f.length then some (beAt f (h.off + 2 * which) 2)
    else none
  | none => none
/-- Do the first bits of an address of the frame equal those of a rule's? `which` is 0 for the source, 1 for the destination. -/
def addressFits (f rec : List Byte) (version which len : Nat) : Bool :=
  let n := if version = 4 then 4 else 16
  let at0 := if version = 4 then l3 f + 12 + 4 * which else l3 f + 8 + 16 * which
  decide (ipVersion f = version)
    && decide (beAt f at0 n / 2 ^ (8 * n - len) = beAt rec (24 + 16 * which) n / 2 ^ (8 * n - len))
/-- Is a port of the frame in a rule's range? -/
def portFits (f rec : List Byte) (which : Nat) : Bool :=
  match portAt f which with
  | some p => decide (leAt rec (56 + 4 * which) 2 ≤ p ∧ p ≤ leAt rec (58 + 4 * which) 2)
  | none => false
/-- Does a rule record (Table 2.15, from entry offset 16) match a frame that arrives on a port (R49)? -/
def ruleMatches (rec : List Byte) (port : Nat) (f : List Byte) : Bool :=
  let en := leAt rec 0 2
  let ver := leAt rec 18 1
  let foff := leAt rec 64 1
  let mask := leAt rec 72 4
  let test := fun (i : Nat) (b : Bool) => !(en.testBit i) || b
  (leAt rec 2 1).testBit port
    && test 0 (decide (beAt f 0 6 = beAt rec 8 6))
    && test 1 (tagged f && decide (beAt f 14 2 % 2 ^ 12 = leAt rec 14 2 % 2 ^ 12))
    && test 2 (decide (etherType f = leAt rec 16 2))
    && test 3 (decide (ipVersion f = ver))
    && test 4 (addressFits f rec ver 0 (leAt rec 20 1))
    && test 5 (addressFits f rec ver 1 (leAt rec 21 1))
    && test 6 (match l4 f with
      | some h => decide (h.proto = leAt rec 19 1)
      | none => false)
    && test 7 (portFits f rec 0)
    && test 8 (portFits f rec 1)
    && test 9 (decide (foff + 4 ≤ f.length) && decide (leAt f foff 4 &&& mask = leAt rec 68 4 &&& mask))

/-! ### Steering (R50 to R54) -/

/-- Counters of an Ethernet port. -/
def State.ethPort (s : State) (port : Nat) : EthPort := KMap.getD s.eth port ⟨0, 0, 0, 0, 0, 0, 0, 0⟩
/-- Change the counters of a port. -/
def State.modEth (s : State) (port : Nat) (f : EthPort → EthPort) : State :=
  { s with eth := KMap.set s.eth port (f (s.ethPort port)) }
/-- The place of a byte of an entry of a steering queue. -/
def SteerQueue.place (q : SteerQueue) (entry off : Nat) : Place := .sram q.brick (q.offset + entry * 2 ^ q.log2s + off)
/-- Words 1 to 7 of an entry's header (Table 2.9). -/
def entryHeader (seq stamp : Nat) : List Byte := leBytes 8 stamp ++ leBytes 8 seq ++ List.replicate 40 0
/-- Word 0 of an entry's header. -/
def entryWord0 (seq len : Nat) (cut : Bool) (port rule : Nat) : Nat :=
  seq % 2 ^ 32 * 2 ^ 32 + len % 2 ^ 16 * 2 ^ 16 + b2n cut * 2 ^ 15 + port * 2 ^ 12 + rule
/-- Frame bytes as an entry keeps them: cut, and filled with zeros to the end of the line (R52). -/
def entryData (room : Nat) (f : List Byte) : List Byte :=
  let d := f.take room
  d ++ List.replicate (ceilDiv d.length 64 * 64 - d.length) 0
/-- Half nanoseconds that a frame and its FCS take on the wire, at 800 Gb/s (Table 1.9). -/
def wireTime (f : List Byte) : Nat := ceilDiv (f.length + 4) 50
/-- Device time at the start-of-frame delimiter of a frame whose last byte arrives now. -/
def State.frameStamp (s : State) (f : List Byte) : Nat := (s.devHalfNs - wireTime f) / 2
/-- Replace a steering queue. -/
def State.setSteer (s : State) (qn : Nat) (q : SteerQueue) : State := { s with queues := KMap.set s.queues qn q }
/-- Is a line of the entry that a frame would fill locked on the ring (R179)? -/
def State.entryLocked (s : State) (q : SteerQueue) (len : Nat) : Bool :=
  (List.range (1 + ceilDiv (min len (2 ^ q.log2s - 64)) 64)).any fun i => s.lineLocked ((q.place q.widx (64 * i)).key / 64 * 64)
/-- A frame that a queue has accepted is written into its entry (R53, R54): word 0 last, as a store that sets it full. The header is written in two parts, so that a poisoned granule there stays poisoned (DESIGN CHOICE: log entry 113). -/
def State.writeFrame (s : State) (q : SteerQueue) (x : SteeredFrame) : State :=
  let p := q.place q.widx 0
  let room := 2 ^ q.log2s - 64
  let cut := decide (room < x.bytes.length)
  let s := (s.poke 0 (q.place q.widx 64) (entryData room x.bytes)).poke 0 (q.place q.widx 8) (entryHeader x.seq x.stamp)
  let s := (s.poke 0 p (leBytes 8 (entryWord0 x.seq x.bytes.length cut x.port x.rule))).touch p
  ((s.setFe p true).feWake (p.key / 8 * 8)).setSteer x.queue { q with
    widx := (q.widx + 1) % 2 ^ q.log2e
    truncated := q.truncated + b2n cut }
/-- A frame that a queue has accepted reaches the entry at its write index: the machine after it, and whether it waits for memory that cannot serve it (R21). It is dropped where word 0 is full, or a line of the entry locked, and where its queue is gone. -/
def State.putFrame (s : State) (x : SteeredFrame) : State × Bool :=
  match KMap.find? s.queues x.queue with
  | none => (s, false)
  | some q =>
    let lines := (List.range (1 + ceilDiv (min x.bytes.length (2 ^ q.log2s - 64)) 64)).map fun i => q.place q.widx (64 * i)
    match (q.place q.widx 0 :: lines).find? fun p => s.blocked x.id p with
    | some p => (s.stallAt x.id p, true)
    | none =>
      let s := s.unstall x.id
      if s.feBit (q.place q.widx 0) || s.entryLocked q x.bytes.length then (s.setSteer x.queue { q with fullDrops := q.fullDrops + 1 }, false)
      else (s.writeFrame q x, false)
/-- A queue accepts a frame, which takes the queue's SEQ (R53), and writes it unless memory makes it, or an earlier one, wait. -/
def State.queueFrame (s : State) (qn : Nat) (q : SteerQueue) (port rule : Nat) (f : List Byte) : State :=
  let x : SteeredFrame := ⟨s.nextId, qn, port, rule, q.seq, s.frameStamp f, f⟩
  let s := s.setSteer qn { q with seq := (q.seq + 1) % 2 ^ 64, accepted := q.accepted + 1 }
  let keep := fun (s : State) => { s with frames := s.frames ++ [x], nextId := s.nextId + 1 }
  if s.frames.any fun y => decide (y.queue = qn) then keep s
  else
    match s.putFrame x with
    | (s, true) => keep s
    | (s, false) => s
/-- The frames that wait are written, those of one queue in order; `late` holds the queues with a frame that waits on. -/
def State.sendFrames (s : State) (late : List Nat) : List SteeredFrame → State
  | [] => s
  | x :: rest =>
    if late.contains x.queue then s.sendFrames late rest
    else
      match s.putFrame x with
      | (s, true) => s.sendFrames (x.queue :: late) rest
      | (s, false) => { s with frames := s.frames.filter fun y => decide (y.id ≠ x.id) }.sendFrames late rest
/-- The frames that wait are written as far as memory serves them. -/
def State.writeFrames (s : State) : State := s.sendFrames [] s.frames
/-- The frame goes to Nerem's management path. -/
def State.toManagement (s : State) (port : Nat) (matched : Bool) : State :=
  s.modEth port fun e =>
    { e with
      management := e.management + 1
      unmatched := e.unmatched + b2n (!matched) }
/-- A frame directed to a disabled queue is dropped and counted against its rule (R51). -/
def State.disabledDrop (s : State) (rule qn : Nat) : State :=
  { s with
    rules := KMap.modify s.rules rule fun r => { r with drops := r.drops + 1 }
    queues := KMap.modify s.queues qn fun q => { q with disabledDrops := q.disabledDrops + 1 } }
/-- What the first matching rule does with a frame (R50). -/
def State.steer (s : State) (port rule : Nat) (r : SteerRule) (f : List Byte) : State :=
  match leAt r.record 3 1 with
  | 0 =>
    let qn := leAt r.record 4 2
    match KMap.find? s.queues qn with
    | some q => if q.en then s.queueFrame qn q port rule f else s.disabledDrop rule qn
    | none => s.disabledDrop rule qn
  | 1 => s
  | _ => s.toManagement port true
/-- The largest frame, without its FCS: the MTU of Table 1.9. -/
def frameMax : Nat := 9216
/-- Can a frame end on a port now: its first byte came after the end of the port's last frame (R55)? -/
def State.wireFree (s : State) (port : Nat) (f : List Byte) : Bool :=
  let e := (s.ethPort port).lastEnd
  decide (e = 0 ∨ e + wireTime f ≤ s.devHalfNs)
/-- FRAME_ACCEPT: a frame with a valid FCS is steered (R50, R53); an oversize one is dropped at the port. -/
def execFrameAccept (port : Nat) (bytes : List Byte) (s : State) : Out :=
  if frameMax < bytes.length then .next (s.modEth port fun e => { e with oversize := e.oversize + 1 })
  else if !(s.wireFree port bytes) then .next s
  else
  let s := s.modEth port fun e => { e with received := e.received + 1, lastEnd := max 1 s.devHalfNs }
  if Config.neremTakes port bytes then .next (s.toManagement port true)
  else
    match List.find? (fun (kv : Nat × SteerRule) => ruleMatches kv.2.record port bytes) s.rules with
    | some (n, r) => .next (s.steer port n r bytes)
    | none => .next (s.toManagement port false)
/-- FRAME_DROP_AT_PORT: counted at the port and never steered. -/
def execFrameDropAtPort (port : Nat) (why : PortDrop) (s : State) : Out :=
  .next (s.modEth port fun e => match why with
    | .fcs => { e with fcs := e.fcs + 1 }
    | .runt => { e with runts := e.runts + 1 }
    | .oversize => { e with oversize := e.oversize + 1 })

/-! ### Device time (R38) -/

/-- A correction in nanoseconds: forward by more than 1 ms at once, anything else by slewing. -/
def State.discipline (s : State) (corr : Int) : State :=
  if 1000000 < corr then { s with devHalfNs := s.devHalfNs + 2 * corr.toNat, slew := 0 }
  else { s with slew := 2 * corr }
/-- PTP_EVENT_MESSAGE: the PTP unit takes it before steering. -/
def execPtpEventMessage (port : Nat) (corr : Int) (s : State) : Out :=
  .next ((s.modEth port fun e => { e with ptp := e.ptp + 1 }).discipline corr)
/-- Pulses that the PPS output has given: one at each full second of device time (Table 1.9). -/
def State.ppsPulses (s : State) : Nat := s.devTime / 1000000000
/-- PPS_INPUT. -/
def execPpsInput (corr : Int) (s : State) : Out := .next (s.discipline corr)

/-! ### Birtil (R37) -/

/-- Does the CRC of a flit hold (Table 1.10)? -/
def crcOk (f : List Byte) : Bool :=
  decide (leAt f 6 2 = (Config.crc16 (f.take 6 ++ [0, 0] ++ f.drop 8)).toNat)
/-- A flit as a port sends it (Table 1.10): SEQ and payload, ACK naming the last flit received, on virtual channel 0. -/
def BirtilPort.flit (b : BirtilPort) (seq : Nat) (payload : List Byte) : List Byte :=
  let head := fun (crc : Nat) => leBytes 2 1 ++ [0] ++ leBytes 1 ((b.rxSeq + 65535) % 256) ++ leBytes 2 seq ++ leBytes 2 crc
  head (Config.crc16 (head 0 ++ payload)).toNat ++ payload
/-- The flits up to the one whose number a port's ACK field names are acknowledged and leave the replay buffer. -/
def BirtilPort.acknowledge (b : BirtilPort) (ack : Nat) : BirtilPort :=
  if b.replay.any fun x => decide (x.1 % 256 = ack) then
    { b with replay := (b.replay.dropWhile fun x => decide (x.1 % 256 ≠ ack)).tail }
  else b
/-- A port after a flit that arrived whole and in sequence. One of another type, or with a nonzero bit marked zero in VC, is dropped and counts a protocol error. -/
def BirtilPort.take (b : BirtilPort) (f : List Byte) : BirtilPort :=
  let vc := leAt f 2 1
  let b := { b with rxSeq := (b.rxSeq + 1) % 2 ^ 16, replays := 0 }.acknowledge (leAt f 3 1)
  if 4 ≤ vc then { b with protocolErrors := b.protocolErrors + 1 }
  else
  match leAt f 0 2 with
  | 1 => { b with delivered := KMap.set b.delivered vc (KMap.getD b.delivered vc [] ++ [f.drop 8]) }
  | 2 | 3 => b
  | _ => { b with protocolErrors := b.protocolErrors + 1 }
/-- A port after a flit whose CRC failed: it is replayed, and after eight failed replays in a row, which follow the first failure, the port retrains with 8 lanes. -/
def BirtilPort.fail (b : BirtilPort) : BirtilPort :=
  if 9 ≤ b.replays + 1 then { b with replays := 0, link := .retraining 8 } else { b with replays := b.replays + 1 }
/-- Does a port carry flits? -/
def BirtilPort.up (b : BirtilPort) : Bool :=
  match b.link with
  | .lanes8 | .lanes4 => true
  | .retraining _ | .down => false
/-- FLIT_RECEIVE: a flit of 64 bytes is checked and delivered in the order sent. -/
def execFlitReceive (port : Nat) (bytes : List Byte) (s : State) : Out :=
  let b := s.birtilPort port
  if !b.up || decide (bytes.length ≠ 64) then .next s
  else if !(crcOk bytes) then .next (s.setBirtil port b.fail)
  else if leAt bytes 4 2 = b.rxSeq then .next (s.setBirtil port (b.take bytes))
  else .next s
/-- Is a place behind a port? -/
def Place.onPort (p : Place) (port : Nat) : Bool :=
  match p with
  | .peer q _ => decide (q = port)
  | .sram _ _ | .hbm _ | .host _ => false
/-- A port goes down: each remote write not yet acknowledged on it gets an error acknowledgement. -/
def State.portDown (s : State) (port : Nat) : State :=
  let s := (s.setBirtil port { s.birtilPort port with link := .down, replay := [] }).log .portDown port
  (s.msgs.filter fun m => m.place.onPort port && m.demand.isNone).foldl (fun s m => s.msgError m .linkLost) s
/-- RETRAIN_COMPLETE: first with 8 lanes, then with 4, then the port goes down. -/
def execRetrainComplete (port : Nat) (ok : Bool) (s : State) : Out :=
  let b := s.birtilPort port
  match b.link with
  | .retraining n =>
    if ok then .next (s.setBirtil port { b with link := if n = 8 then .lanes8 else .lanes4 })
    else if n = 8 then .next (s.setBirtil port { b with link := .retraining 4 })
    else .next (s.portDown port)
  | .lanes8 | .lanes4 | .down => .next s

end Sys2Proof.Machine
end

