-- ==== Sys2Proof/Machine/Switch.lean ====
section
/-!
DEFINITION. Gang switch and handover (R110 to R113, R375, R170, R189): records, stop turns, saves and restores.
-/
namespace Sys2Proof.Machine

/-- A context as it stands in its save area after its stop turn or a halt (Table 4.12): a wait is withdrawn; a sent request, an access that memory has stalled and a CWR under way stay outstanding. An instruction that executes afresh reads its descriptor again. -/
def Slot.withdrawn (k : Slot) : Slot :=
  let again := { k with mode := .ready, req := none, descr := none }
  match k.mode with
  | .parked (.cond (.awake _ _)) => k
  | .parked (.cond _) | .parked (.wordFull _) | .parked (.barrier _ _) => again
  | .parked .reply => if k.awaitsReply then k else again
  | .parked .ring =>
    let isWait := fun (e : RingEntry) => match e.op with
      | .wait _ _ => true
      | _ => false
    if k.ringq.any isWait then { again with ringq := k.ringq.filter fun e => !(isWait e) } else k
  | .parked (.demand _) | .parked (.invalidation _) | .parked (.spread _ _ _ _) | .free | .ready | .switching _ | .halted => k

/-! ### Records -/

/-- Slot numbers of a device. -/
def State.slotNums (s : State) : Option Nat → NSet
  | some vd => ((s.vd? vd).map (·.slotNums)).getD []
  | none => []
/-- Can a switch be made: the outgoing device is resident, and the incoming one exists, is switched out and finds its slot numbers free (R40)? -/
def State.maySwitch (s : State) (out inc : Option Nat) : Bool :=
  let outOk := match out with
    | some v => s.isResident v
    | none => true
  let incOk := match inc with
    | some v => (s.vd? v).isSome && !(s.isResident v)
        && s.vds.all fun kv => !kv.2.resident || decide (out = some kv.1) || NSet.disjoint kv.2.slotNums (s.slotNums inc)
    | none => true
  outOk && incOk && (out.isSome || inc.isSome)
/-- May Nerem arm the switch: it can be made, and no record that still stands concerns the slot numbers of its slice group (R40, R110)? -/
def State.mayArm (s : State) (out inc : Option Nat) : Bool :=
  let nums := s.slotNums out ++ s.slotNums inc
  s.maySwitch out inc && s.switches.all fun w => w.taken || NSet.disjoint (s.slotNums w.out ++ s.slotNums w.inc) nums
/-- Arm a record; one that was taken to the same incoming device has served. -/
def State.armSwitch (s : State) (w : SwitchRec) : State :=
  { s with switches := (s.switches.filter fun x => !(x.taken && decide (x.inc = w.inc))) ++ [w] }
/-- May Nerem arm switches now: it serves and no update runs, or it is the image that an update has started and that arms them before its report (R56)? -/
def State.armsNow (s : State) : Bool :=
  match s.update with
  | some u => u.handed
  | none => s.neremRuns
/-- GANG_SWITCH_ARM (R110). -/
def execGangSwitchArm (out inc : Option Nat) (t : Nat) (s : State) : Out :=
  if s.armsNow && s.mayArm out inc then
    let (i, s) := s.fresh
    .next (s.armSwitch ⟨i, out, inc, t, false⟩)
  else .next s

/-! ### The switch -/

/-- A barrier as its image holds it: the fields of Table 6.8, and whether the phase under way has had an error arrival. -/
def Barrier.word (x : Barrier) : Nat :=
  x.target % 2 ^ 16 + x.count % 2 ^ 16 * 2 ^ 16 + b2n x.phase * 2 ^ 32 + b2n x.err * 2 ^ 33 + b2n x.errNow * 2 ^ 34 + x.bound % 2 ^ 16 * 2 ^ 48
/-- The image of the sixteen barriers of a slot, by its key (R170). -/
def State.barrierImage (s : State) (vd key : Nat) : List Byte :=
  ((List.range 16).map fun i => leBytes 8 (((KMap.find? s.barrierImages (16 * (16 * key + i) + vd)).map Barrier.word).getD 0)).flatten
/-- The barriers of a slot whose image has faulted are set to TARGET 0, as where there is no image (DEDUCED: log entry 105). -/
def State.dropImage (s : State) (x : BarrierPass) : State :=
  if x.wr then { s with barrierImages := s.barrierImages.filter fun kv => decide (¬ (kv.1 / 256 = x.key ∧ kv.1 % 16 = x.vd)) }
  else { s with barriers := s.barriers.filter fun kv => decide (kv.1 / 16 ≠ x.key) }
/-- The number by which memory keeps the order of arrival of a barrier image (R21). -/
def BarrierPass.token (x : BarrierPass) : Nat := unitToken barrierPass (2 * (16 * x.key + x.vd) + b2n x.wr)
/-- A barrier image is written or read, once its memory serves (R21, R66). -/
def State.passBarriers (s : State) (x : BarrierPass) : State :=
  match s.vd? x.vd with
  | none => { s with barrierPasses := s.barrierPasses.erase x }
  | some v =>
    match s.passage x.token x.vd (v.barrierArea (x.key / 8) (x.key % 8)) 128 (if x.wr then some (s.barrierImage x.vd x.key) else none) with
    | (s, .still) => s
    | (s, .fault _) => { s.dropImage x with barrierPasses := s.barrierPasses.erase x }
    | (s, .done) => { s with barrierPasses := s.barrierPasses.erase x }
/-- The barrier images under way are written and read in order. -/
def State.passAllBarriers (s : State) : State := s.barrierPasses.foldl State.passBarriers s
/-- The slots, by their keys, of some barriers. -/
def barrierKeys (bs : List Nat) : List Nat := bs.foldl (fun m n => NSet.insert m (n / 16)) []
/-- The barriers of the outgoing slot numbers go into the outgoing image, and those of the incoming come out of theirs (R170). The lines of the images are written and read as memory serves them, and no slot of the incoming partition issues on a brick before its images there have been read. -/
def State.swapBarriers (s : State) (out inc : Option Nat) : State :=
  let o := s.slotNums out
  let leaving := fun (kv : Nat × Barrier) => o.contains (kv.1 % 128 / 16)
  let queue := fun (s : State) (vd : Nat) (wr : Bool) (keys : List Nat) =>
    { s with barrierPasses := (s.barrierPasses.filter fun x => x.wr || decide (x.vd ≠ vd)) ++ keys.map fun k => ⟨vd, k, wr⟩ }
  let s := match out with
    | some vd =>
      let gone := s.barriers.filter leaving
      queue { s with
        barrierImages := gone.foldl (fun m kv => KMap.set m (16 * kv.1 + vd) kv.2) s.barrierImages
        barriers := s.barriers.filter fun kv => !(leaving kv) } vd true (barrierKeys (gone.map (·.1)))
    | none => s
  match inc with
  | some vd =>
    let back := s.barrierImages.filter fun kv => decide (kv.1 % 16 = vd)
    queue { s with
      barriers := back.foldl (fun m kv => KMap.set m (kv.1 / 16) kv.2) s.barriers
      barrierImages := s.barrierImages.filter fun kv => decide (kv.1 % 16 ≠ vd) } vd false (barrierKeys (back.map fun kv => kv.1 / 16))
  | none => s
/-- Has a context no access of its own in the order of arrival that its save leaves there (R21, Table 4.12)? -/
def Slot.offMemory (k : Slot) : Bool :=
  decide (k.ringq = []) && match k.mode with
  | .parked (.cond (.awake _ _)) | .parked .reply => false
  | .parked _ | .free | .ready | .switching _ | .halted => true
/-- A slot of the outgoing partition stops: it is SWITCHING, a reservation is handed on and waits are withdrawn (R110, R284). -/
def State.stopSlot (s : State) (key : Nat) : State :=
  let k := s.slotAt key
  if k.mode = .free then s
  else
    let s := (s.handOn k).withdraw k.ctx
    let s := if k.offMemory then s.unstall k.ctx else s
    let k := (s.slotAt key).withdrawn.dropAhead
    { s with
      saved := KMap.set s.saved (keepKey k.ctx key k.vd) k
      slots := KMap.set s.slots key { Slot.empty with mode := .switching (some k.ctx) } }
/-- Slots in which something of a partition waits: saved contexts, arrivals, spilled contexts and queued spawns. -/
def State.waitingSlots (s : State) (vd : Nat) : List Nat :=
  let nums := s.slotNums (some vd)
  let ofQueue := fun (q : Nat) => if q % 16 = vd then nums.map fun n => 8 * (q / 16) + n else []
  ((s.saved.filter fun kv => decide (kv.1 % 16 = vd)).map fun kv => kv.1 % 2 ^ 18 / 16)
    ++ (s.arrivals.map fun kv => ofQueue kv.1).flatten ++ (s.spills.map fun kv => ofQueue kv.1).flatten
    ++ (s.spawnq.map fun kv => ofQueue kv.1).flatten
/-- Make a partition switched out, or resident, from now on (R375). -/
def State.setResident (s : State) (vd : Nat) (here : Bool) : State :=
  s.modVd vd fun v =>
    if here then { v with resident := true, residentSince := s.cycle }
    else { v with resident := false, residentCycles := v.residentCycles + (s.cycle - v.residentSince) }
/-- A switch takes effect on every brick (R110, R375). -/
def State.gangSwitch (s : State) (w : SwitchRec) : State :=
  let s := { s with switches := s.switches.map fun (x : SwitchRec) => if x.id = w.id then { x with taken := true } else x }
  let s := s.swapBarriers w.out w.inc
  let s := match w.out with
    | some vd =>
      let keys := (s.slots.filter fun kv => decide (kv.2.vd = vd ∧ kv.2.ctx ≠ 0)).map (·.1)
      keys.foldl State.stopSlot (s.setResident vd false)
    | none => s
  match w.inc with
  | some vd =>
    let s := (s.setResident vd true).restartPatience vd
    (s.waitingSlots vd).foldl State.fill s
  | none => s
/-- GANG_SWITCH: no slot of the outgoing partition has a turn at or after the stamp, so all stop together (R110). A record that can no longer be made is dropped (R40). -/
def execGangSwitch (id : Nat) (s : State) : Out :=
  match s.switches.find? fun w => decide (w.id = id) with
  | some w =>
    if w.taken || decide (s.devTime < w.stamp) then .next s
    else if s.maySwitch w.out w.inc then .next (s.gangSwitch w)
    else .next { s with switches := s.switches.filter fun x => decide (x.id ≠ id) }
  | none => .next s

/-! ### Handover -/

/-- Have the store-buffer entries of a context departed, or are they written into its image behind a held one (R110, R133)? -/
def Slot.saveOver (k : Slot) : Bool :=
  match k.sb.find? fun e => !e.departed with
  | some e => e.demand.isSome
  | none => true
/-- Is the slot parked on a CWR of XVEC, BWPHASE or SINV? -/
def SlotMode.onCwr : SlotMode → Bool
  | .parked (.spread _ _ _ _) | .parked (.invalidation _) => true
  | _ => false
/-- Restore the incoming context of a slot, whose image has been read: a reply that has landed in the save area completes its instruction, a CWR counts as complete (Table 4.12), and entries that have not departed are translated again (R133). -/
def State.restoreSlot (s : State) (key at0 : Nat) (k : Slot) : State :=
  let k := { k with sb := k.sb.map SbEntry.saved }
  let s := { s with saved := KMap.erase s.saved at0 }.setSlot key k
  if k.mode.onCwr then s.completeAt key k.advance else s.repliedAt key
/-- A switching slot whose outgoing context's save has ended goes on: the image of the incoming one is read and it is restored, or the slot is free. A restore waits for memory that cannot serve (R21); a fault delivers the context (Table 3.4). -/
def State.handover (s : State) (key : Nat) : State :=
  let free := fun (s : State) => (s.setSlot key Slot.empty).fill key
  match (s.residentOf (key % 8)).bind (s.savedFor key) with
  | some (at0, k) =>
    match s.contextPassage imagePass k.vd key 0 4096 none with
    | (s, .still) => s
    | (s, .fault c) => free (s.loseKept (at0, k) c)
    | (s, .done) => s.restoreSlot key at0 k
  | none => free s
/-- The save of the outgoing context of a slot ends when its image is written; then the slot is handed onward. A fault on the way delivers the context (R110, Table 3.4). -/
def State.endSave (s : State) (key : Nat) (k : Slot) : State :=
  let onward := fun (s : State) => (s.setSlot key { Slot.empty with mode := .switching none }).handover key
  match s.contextPassage imagePass k.vd key 0 4096 (some (s.fullImage k (key / 8))) with
  | (s, .still) => s
  | (s, .fault c) => onward (s.loseContext k.ctx c)
  | (s, .done) => onward s
/-- A line of the image of a context. -/
def imageLine (img : List Byte) (i : Nat) : List Byte := (img.drop (64 * i)).take 64
/-- The numbers, from `i` up, of those of `n` lines that differ from what stands in the lines at an address. -/
def State.linesUnlike (s : State) (a i : Nat) : Nat → List Byte → List Nat
  | 0, _ => []
  | n + 1, img =>
    let rest := s.linesUnlike (a + 64) (i + 1) n (img.drop 64)
    if s.peek (.hbm a) 64 = img.take 64 then rest else i :: rest
/-- Lines of a kept context's image that differ from what its save area holds, because something has landed there, or because it has been halted outside a slot (Table 4.12, R59, R165, R175). A save under way is still to write the image. -/
def State.staleLines (s : State) (kv : Nat × Slot) : List Nat :=
  let key := kv.1 % 2 ^ 18 / 16
  match s.vd? kv.2.vd with
  | none => []
  | some v =>
    if (s.slotAt key).mode = .switching (some kv.2.ctx) then []
    else
      let a := v.imageAt key
      { s with mem := s.mem.filter fun c => decide (a ≤ c.1 ∧ c.1 < a + 4096) }.linesUnlike a 0 64 (s.fullImage kv.2 (key / 8))
/-- A line of a kept context's image is written, as memory serves it; a fault there delivers the context (Table 3.4). -/
def State.landLine (s : State) (ctx key i : Nat) : State :=
  match s.ctxOf ctx with
  | none => s
  | some k =>
    match s.vd? k.vd with
    | none => s
    | some v =>
      let bs := imageLine (s.fullImage k (key / 8)) i
      match s.passage (unitToken landPass (64 * (16 * key + k.vd) + i)) k.vd (v.imageAt key + 64 * i) 64 (some bs) with
      | (s, .still) | (s, .done) => s
      | (s, .fault c) => s.loseContext ctx c
/-- The image of a kept context follows what lands in it. -/
def State.landSaved (s : State) (kv : Nat × Slot) : State :=
  (s.staleLines kv).foldl (fun (s : State) i => s.landLine kv.2.ctx (kv.1 % 2 ^ 18 / 16) i) s
/-- The images of all kept contexts follow what lands in them. -/
def State.landAllSaved (s : State) : State := (s.saved ++ s.held).foldl State.landSaved s
/-- SLOT_HANDOVER (R110, R375). -/
def execSlotHandover (b n : Nat) (s : State) : Out :=
  let key := 8 * b + n
  match (s.slotAt key).mode with
  | .switching none => .next (s.handover key)
  | .switching (some c) =>
    match s.ctxOf c with
    | some k => if k.saveOver then .next (s.endSave key k) else .next s
    | none => .next (s.handover key)
  | .free | .ready | .parked _ | .halted => .next s

end Sys2Proof.Machine
end

