-- ==== Sys2Proof/Machine/Requests.lean ====
section
/-!
DEFINITION. The host's queues (R42 to R48) and its requests: devices (R39, R41), copies (R48), trees (R89, R90, R376), counters, steering (R49 to R51) and hitless update (R56, R57).
-/
namespace Sys2Proof.Machine

/-! ### Queue areas (R43 to R46) -/

/-- The queues of a function. -/
def State.hostFun (s : State) (f : Nat) : HostFun := KMap.getD s.funs f HostFun.atReset
/-- Replace the queues of a function. -/
def State.setFun (s : State) (f : Nat) (x : HostFun) : State := { s with funs := KMap.set s.funs f x }
/-- Change the queues of a function. -/
def State.modFun (s : State) (f : Nat) (g : HostFun → HostFun) : State := s.setFun f (g (s.hostFun f))
/-- Number of entries of a queue. -/
def HostFun.n (x : HostFun) : Nat := 2 ^ x.log2n
/-- A word of host memory. -/
def State.hostWord (s : State) (a : Nat) : Nat := leNat (Mem.readBytes s.mem (2 ^ 64 + a) 8)
/-- The device writes host memory. -/
def State.hostWrite (s : State) (a : Nat) (bs : List Byte) : State := { s with mem := Mem.writeBytes s.mem (2 ^ 64 + a) bs }
/-- Write responses while there is room: payload first, header last (R45). -/
def State.flush (s : State) (f : Nat) : Nat → State
  | 0 => s
  | fuel + 1 =>
    let x := s.hostFun f
    match x.waiting with
    | [] => s
    | e :: rest =>
      if x.rspCount ≤ x.n + s.hostWord (x.qbase + 256 * x.n + 8) then
        let a := x.qbase + 128 * x.n + 128 * ((x.rspCount - 1) % x.n)
        let head := leNat (e.take 8) % 2 ^ 32 + x.rspCount % 2 ^ 32 * 2 ^ 32
        let s := (s.hostWrite (a + 8) (e.drop 8)).hostWrite a (leBytes 8 head)
        (s.setFun f { x with waiting := rest, rspCount := x.rspCount + 1 }).flush f fuel
      else s
/-- Write what can be written of a function's responses; while ERR is nonzero it is not served (R43). -/
def State.flushAll (s : State) (f : Nat) : State :=
  let x := s.hostFun f
  if x.en ∧ x.err = 0 then s.flush f x.waiting.length else s
/-- A response entry without its SEQ (Table 2.5, R47, R48). -/
def responseEntry (seq status value : Nat) (counters : List Nat) : List Byte :=
  let len := if counters = [] then 12 else 80
  leBytes 8 (status * 2 ^ 16 + len) ++ leBytes 4 seq ++ leBytes 8 value ++ leBytes 4 0
    ++ (if counters = [] then List.replicate 104 0 else (counters.map (leBytes 8)).flatten ++ List.replicate 40 0)
/-- Nerem answers a request; a response of a disabled function is dropped (R43). -/
def State.respond (s : State) (f seq status value : Nat) (counters : List Nat) : State :=
  if (s.hostFun f).en then
    (s.modFun f fun x => { x with waiting := x.waiting ++ [responseEntry seq status value counters] }).flushAll f
  else s

/-- EN goes from 0 to 1 (R43). LIVE keeps 1 while ERR is nonzero and in an update gap, by the model's choice (log entry 99). -/
def State.enable (s : State) (f : Nat) : State :=
  s.modFun f fun x =>
    { x with
      en := true
      err := 0
      reqCount := 1
      rspCount := 1
      live := s.coresRun
      pending := []
      cancels := []
      waiting := [] }
/-- What still owes an answer to a function owes it no more. -/
def dropOwed (f : Nat) (o : Option (Nat × Nat)) : Option (Nat × Nat) := o.filter fun x => decide (x.1 ≠ f)
/-- EN goes from 1 to 0: responses not yet written are dropped (R43). The rule does not say what becomes of requests already taken and not yet answered; the model drops them, so that a LOAD half done stops. -/
def State.disable (s : State) (f : Nat) : State :=
  let s := s.modFun f fun x => { x with en := false, pending := [], cancels := [], waiting := [] }
  { s with
    update := s.update.map fun u => { u with owed := dropOwed f u.owed }
    vds := s.vds.map fun kv => (kv.1, { kv.2 with
      tree := kv.2.tree.map fun t => { t with owed := dropOwed f t.owed }
      destroy := kv.2.destroy.map (dropOwed f) }) }
/-- QCTL_ENABLE (R43). -/
def execQctlEnable (f : Nat) (s : State) : Out := if (s.hostFun f).en then .next s else .next (s.enable f)
/-- QCTL_DISABLE (R43). -/
def execQctlDisable (f : Nat) (s : State) : Out := if (s.hostFun f).en then .next (s.disable f) else .next s
/-- QUEUE_LIVE_CLEAR: no write of the device to the area is outstanding (R43). -/
def execQueueLiveClear (f : Nat) (s : State) : Out :=
  if (s.hostFun f).en then .next s else .next (s.modFun f fun x => { x with live := false })
/-- HOST_REGISTER_WRITE: QBASE and LOG2N change only while EN is 0; EN changes as written (R43). The rule gives no order when one write has LOG2N out of range and sets EN from 0 to 1; the model sets ERR to 0x05 first, and the enable then clears it. -/
def execHostRegisterWrite (f : Nat) (r : HostReg) (v : Word) (s : State) : Out :=
  let x := s.hostFun f
  match r with
  | .qbase => if x.en then .next s else .next (s.setFun f { x with qbase := bits v 63 12 * 4096 })
  | .qctl =>
    let n := bits v 19 16
    let y :=
      if n < 4 ∨ 12 < n then { x with err := 5 }
      else if x.en then x
      else { x with log2n := n }
    let s := s.setFun f y
    if bit v 0 = x.en then .next s else if x.en then .next (s.disable f) else .next (s.enable f)
/-- QCTL as the host reads it (Table 2.3); reserved bits read as zero. -/
def HostFun.qctl (x : HostFun) : Word := wrap (x.err * 2 ^ 32 + x.log2n * 2 ^ 16 + b2n x.live * 2 + b2n x.en)
/-- What the host reads at an offset of a function's BAR0 (R29, R30, R31, R42): BSTAT, RCMD and DRST stand in the PF alone, and write-only and reserved fields read as zero. None where the spec puts nothing. -/
def State.hostRead (s : State) (f off : Nat) : Option Word :=
  match off with
  | 0x0000 => if f = 0 then some s.boot.bstat else none
  | 0x0008 => if f = 0 then some 0 else none
  | 0x0010 => if f = 0 then some 0 else none
  | 0x0100 => some (wrap (s.hostFun f).qbase)
  | 0x0108 => some (s.hostFun f).qctl
  | _ => none
/-- VF_FUNCTION_LEVEL_RESET: only that function's queues are reset (Table 1.4, R43). -/
def execVfFunctionLevelReset (f : Nat) (s : State) : Out :=
  if f = 0 then .next s
  else .next ((s.disable f).modFun f fun x => { HostFun.atReset with live := x.live })

/-- Does a queue area end within the host's address space? -/
def HostFun.areaFits (x : HostFun) : Bool := decide (x.qbase + 256 * x.n + 64 ≤ 2 ^ 64)
/-- Does the host's answer to a read report an error? -/
def readError : Media → Bool
  | .uncorrectable | .lost => true
  | .sound | .corrected | .stale | .staleNode _ | .badTag => false
/-- QUEUE_POLL: Nerem reads the expected header and takes a request that is present (R45, R46); an area that runs past the end of the address space sets ERR 0x01, and a read that the host answers with an error ERR 0x04 (Table 2.3). -/
def execQueuePoll (f : Nat) (s : State) : Out :=
  let x := s.hostFun f
  if !(s.neremRuns && s.update.isNone && x.en && decide (x.err = 0)) then .next s
  else if !x.areaFits then .next (s.setFun f { x with err := 1 })
  else if readError (s.answers.headD .sound) then .next ({ s with answers := s.answers.tail }.setFun f { x with err := 4 })
  else
    let s := { s with answers := s.answers.tail }
    let s := (s.modFun f fun x => { x with live := true }).flushAll f
    let x := s.hostFun f
    let a := x.qbase + 128 * ((x.reqCount - 1) % x.n)
    let h := s.hostWord a
    let seq := nbits h 63 32
    let old := if x.reqCount ≤ x.n then 0 else (x.reqCount - x.n) % 2 ^ 32
    if seq = x.reqCount % 2 ^ 32 then
      if 120 < nbits h 7 0 then .next (s.setFun f { x with err := 3 })
      else
        let r : HostReq := ⟨seq, nbits h 31 16, nbits h 15 0, Mem.readBytes s.mem (2 ^ 64 + a + 8) 120, 0⟩
        let s := s.hostWrite (x.qbase + 256 * x.n) (leBytes 8 x.reqCount)
        .next (s.setFun f { x with pending := x.pending ++ [r], reqCount := x.reqCount + 1 })
    else if seq = old then .next s
    else .next (s.setFun f { x with err := 2 })

/-! ### Answering a request -/

/-- Does Nerem serve a function's requests that it has taken: its system cores run, the queues are enabled, and ERR is zero (R43)? -/
def State.serves (s : State) (f : Nat) : Bool := s.coresRun && (s.hostFun f).en && decide ((s.hostFun f).err = 0)
/-- A taken request of a function with an opcode, when Nerem can act on it. -/
def State.request? (s : State) (f id op : Nat) : Option HostReq :=
  (s.hostFun f).pending.find? fun r => decide (r.seq = id ∧ r.op = op) && s.serves f
/-- A request is answered, or will be answered later: it is no longer pending. -/
def State.taken (s : State) (f id : Nat) : State :=
  s.modFun f fun x => { x with pending := x.pending.filter fun r => decide (r.seq ≠ id) }
/-- Answer a request now. -/
def State.reply (s : State) (f id status value : Nat) : State := (s.taken f id).respond f id status value []
/-- A field of a request's payload, by its entry offset (R48). -/
def HostReq.at (r : HostReq) (off n : Nat) : Nat := leAt r.payload (off - 8) n
/-- Run a request: from a VF one marked PF is not permitted (R47), and a malformed one is refused (R48). -/
def State.serve (s : State) (f id op : Nat) (pfOnly : Bool) (sound : HostReq → Bool) (go : HostReq → State) : Out :=
  match s.request? f id op with
  | none => .next s
  | some r =>
    if pfOnly ∧ f ≠ 0 then .next (s.reply f id 2 0)
    else if !(sound r) then .next (s.reply f id 6 0)
    else .next (go r)
/-- May a function name a virtual device, and does it exist (R47)? -/
def State.named (s : State) (f vd : Nat) : Bool :=
  match s.vd? vd with
  | some v => decide (f = 0 ∨ v.func = f)
  | none => false

/-- NOP (Table 2.6). -/
def execNop (f id : Nat) (s : State) : Out := s.serve f id 1 false (fun r => decide (r.len = 0)) fun _ => s.reply f id 0 0
/-- The opcodes of Table 2.6. -/
def knownOps : List Nat := [1, 2, 3, 0x10, 0x11, 0x20, 0x21, 0x30, 0x40, 0x50]
/-- UNKNOWN_REQUEST (R47). -/
def execUnknownRequest (f id : Nat) (s : State) : Out :=
  match (s.hostFun f).pending.find? fun r => decide (r.seq = id ∧ r.op ∉ knownOps) && s.serves f with
  | some _ => .next (s.reply f id 1 0)
  | none => .next s

/-! ### VDCREATE (R39, R40, Table 2.13) -/

/-- Is a VDCREATE payload sound (Table 2.13)? -/
def createSound (r : HostReq) : Bool :=
  let yage := r.at 52 4
  decide (r.len = 48 ∧ r.at 8 1 < 16 ∧ r.at 9 1 ≤ 8 ∧ r.at 10 1 < 2 ∧ r.at 11 1 ≠ 0 ∧ r.at 12 2 ≠ 0 ∧ r.at 15 1 = 0
    ∧ r.at 38 2 = 0) && ((List.range 4).all fun d => decide (r.at (40 + 2 * d) 2 ≤ 512))
    && (decide (yage = 0) || decide (1024 ≤ yage ∧ yage ≤ 1048576))
/-- The device that a payload describes, with its table root and its save region. -/
def createVd (s : State) (r : HostReq) (root save : Nat) : VDev :=
  let slots := bitsOf (r.at 11 1) 8
  let here := s.vds.all fun kv => !kv.2.resident || NSet.disjoint kv.2.slotNums slots
  { func := r.at 9 1, dbg := decide (r.at 10 1 = 1), slotNums := slots, subbanks := bitsOf (r.at 12 2) 16,
    kilns := bitsOf (r.at 16 16) 128, copies := bitsOf (r.at 32 4) 32, colls := bitsOf (r.at 36 2) 16,
    ringQ := (List.range 4).map fun d => r.at (40 + 2 * d) 2, hbmq := r.at 48 4,
    hbmwt := if r.at 14 1 = 0 then 16 else r.at 14 1, yage := if r.at 52 4 = 0 then 65536 else r.at 52 4,
    save := save, hypRoot := root, resident := here, residentSince := s.cycle, residentCycles := 0, xvec := 0, bwphase := 0,
    tree := none, launched := none, attached := false, destroy := none, created := s.cycle, fatalNotices := 0, droppedNotices := 0,
    deferredErrors := 0, demandsServed := 0, hiresDone := 0, enginesDone := 0 }
/-- The largest sum of quotas on a die over devices with disjoint slot numbers that avoid a set (R39). -/
def quotaMax (die : Nat) (taken : NSet) : List VDev → Nat
  | [] => 0
  | v :: rest =>
    let without := quotaMax die taken rest
    if NSet.disjoint v.slotNums taken then
      max without (v.ringQ.getD die 0 + quotaMax die (taken ++ v.slotNums) rest)
    else without
/-- Would a device keep the column of Table 2.1 and the quota rule (R39)? -/
def State.fits (s : State) (v : VDev) : Bool :=
  let others := s.vds.map (·.2)
  let together := others.filter fun o => NSet.disjoint o.slotNums v.slotNums
  (others.all fun o => NSet.disjoint o.subbanks v.subbanks)
    && (together.all fun o => NSet.disjoint o.kilns v.kilns && NSet.disjoint o.copies v.copies && NSet.disjoint o.colls v.colls)
    && decide (others.foldl (fun n o => n + o.hbmq) v.hbmq ≤ 330752)
    && ((List.range 4).all fun d => decide (v.ringQ.getD d 0 + quotaMax d v.slotNums others ≤ 512))
    && (decide (v.func = 0) || others.all fun o => decide (o.func ≠ v.func))
/-- Sub-banks that a device is given are allocated on every brick (R135); their contents are zero, and they power up with their brick island (R20). -/
def State.giveSubs (s : State) (subs : NSet) : State :=
  { s with subbanks := s.subbanks.map fun kv =>
      if subs.contains (kv.1 % 16) ∧ kv.2.power ≠ .unavailable then
        (kv.1, { kv.2 with alloc := true, power := if s.brickUp (kv.1 / 16) then .on else .poweringUp })
      else kv }
/-- Can a device's save region stand where Nerem reserves it (R175): whole units of the partition memory of one stack, within the device's quota, that no KID, window or other device has? -/
def State.saveFits (s : State) (v : VDev) : Bool :=
  let lo := v.save / 2 ^ 21
  let hi := lo + v.saveUnits
  decide (v.save % 2 ^ 21 = 0 ∧ v.saveUnits ≤ v.hbmq ∧ v.save / 2 ^ 36 = (hi * 2 ^ 21 - 1) / 2 ^ 36)
    && inPartition v.save && inPartition (hi * 2 ^ 21 - 1)
    && (s.owner.all fun kv => decide (kv.1 < lo ∨ hi ≤ kv.1))
    && (s.vds.all fun kv => decide (hi ≤ kv.2.save / 2 ^ 21 ∨ kv.2.save / 2 ^ 21 + kv.2.saveUnits ≤ lo))
    && s.windows.all fun kv => decide (kv.2.state = .closed) || kv.2.units.all fun u => decide (u < lo ∨ hi ≤ u)
/-- Can the device of a VDCREATE be made? Beside what R39 and Table 2.1 ask, the model answers 0x03 when the life-cycle state refuses a key (Table 1.5), when the table root of the event is no aligned place of the firmware reserve (R126), and when the save region of the event does not fit (R175): the spec names no status for these. -/
def State.creates (s : State) (vd : Nat) (v : VDev) : Bool :=
  (s.vd? vd).isNone && s.fits v && s.boot.keysAllowed && inReserve v.hypRoot && decide (v.hypRoot % 4096 = 0) && s.saveFits v
/-- VDCREATE: Nerem lays out the device's tables with a root in the firmware reserve and reserves its save region, and Chaestend programs its key (R39, R40, R126, R175). -/
def execVdcreate (f id : Nat) (place : DevicePlace) (ws : List TableWrite) (s : State) : Out :=
  s.serve f id 2 true createSound fun r =>
    let v := createVd s r place.root place.save
    let vd := r.at 8 1
    if s.creates vd v then
      let s := (s.giveSubs v.subbanks).newKey (vd + 1)
      ({ s with vds := KMap.set s.vds vd v }.writeTables ws).reply f id 0 0
    else s.reply f id 3 0

/-! ### LOAD and FETCH (R48, Table 2.12) -/

/-- Are the fields of a copy sound? -/
def copySound (r : HostReq) : Bool :=
  let len := r.at 32 8
  decide (r.len = 32 ∧ r.at 24 1 < 16 ∧ r.at 25 1 < 2 ∧ r.at 26 2 < 4096 ∧ r.at 28 4 = 0 ∧ len % 64 = 0 ∧ 64 ≤ len
    ∧ len ≤ 2 ^ 40 ∧ r.at 8 8 % 64 = 0 ∧ r.at 16 8 % 64 = 0) && (decide (r.at 25 1 = 0) || decide (r.at 26 2 = 0))
/-- Translate the device-side address of a copy: by the hypervisor stage alone, or as a handler-level access. -/
def State.copyReach (s : State) (r : HostReq) (a : Nat) (k : Access) : TResult :=
  let vd := r.at 24 1
  if r.at 25 1 = 1 then s.stage2 vd k a
  else if inVspace a then s.translate vd (BitVec.ofNat 12 (r.at 26 2)) .handler a k
  else .fault .address
/-- The table words that translating the device-side address of a copy reads (R21). -/
def State.copyReads (s : State) (r : HostReq) (a : Nat) : List TableRead :=
  let vd := r.at 24 1
  if r.at 25 1 = 1 then s.ipaReads vd a
  else if inVspace a then s.walkReads vd (BitVec.ofNat 12 (r.at 26 2)) a
  else []
/-- How a line of a copy ends. -/
inductive CopyEnd
  | moved (s : State)
  | held (s : State)
  | failed (s : State)
/-- The number by which a request of a function stands in the order of stalled accesses. -/
def copyToken (f id : Nat) : Nat := 2 ^ 48 + f * 2 ^ 32 + id
/-- Read or write the device-side line of a copy at its place. -/
def State.copyBytes (s : State) (vd win : Nat) (p : Place) (host : Nat) (load : Bool) : CopyEnd :=
  let s := s.look vd win p 64 load load
  if load then
    match s.writeAt vd win p 64 (bytesLine (Mem.readBytes s.mem (2 ^ 64 + host) 64)) with
    | .ok s => .moved s
    | .error _ => .failed s
  else
    match s.readAt vd win p 64 with
    | .ok v => .moved ((s.touch p).hostWrite host (lineBytes v))
    | .error _ => .failed s
/-- Copy one line from host memory, or to it, in the order of arrival at memory that stands still (R21); at a page that Nerem declines to back the copy fails. -/
def State.copyOne (s : State) (f : Nat) (r : HostReq) (declined load : Bool) (i : Nat) : CopyEnd :=
  let dev := (if load then r.at 16 8 else r.at 8 8) + i
  let host := (if load then r.at 8 8 else r.at 16 8) + i
  let token := copyToken f r.seq
  match s.readTables token (r.at 24 1) (s.copyReads r dev) with
  | (s, some _) => .held s
  | (s, none) =>
    match s.copyReach r dev (if load then .write else .read) with
    | .fault _ | .fatal => .failed s
    | .demand _ => if declined then .failed s else .held s
    | .ok p win =>
      let was := s.stallq.any fun e => decide (e.token = token)
      if s.linkDown p then .failed s
      else if s.blocked token p && (was || !(s.closing p)) then .held (s.stallAt token p)
      else if was && s.closing p then
        match ((s.unstall token).allocated p true).copyBytes (r.at 24 1) win p host load with
        | .moved s => .moved (s.allocated p false)
        | .held s => .held (s.allocated p false)
        | .failed s => .failed (s.allocated p false)
      else (s.unstall token).copyBytes (r.at 24 1) win p host load
/-- Copy lines until all are copied, one fails, or one waits for a page or a wake; the request then stays pending with its count. -/
def State.copyLines (s : State) (f id : Nat) (r : HostReq) (declined load : Bool) (i : Nat) : Nat → State
  | 0 => s.reply f id 0 0
  | n + 1 =>
    match s.copyOne f r declined load i with
    | .moved s => s.copyLines f id r declined load (i + 64) n
    | .failed s => s.reply f id 4 i
    | .held s => s.modFun f fun x =>
      { x with pending := x.pending.map fun (q : HostReq) => if q.seq = id then { q with done := i } else q }
/-- Run a LOAD or FETCH. -/
def State.copyRequest (s : State) (f id op : Nat) (ws : Backing) (load : Bool) : Out :=
  s.serve f id op false copySound fun r =>
    if !(s.named f (r.at 24 1)) then s.reply f id 2 0
    else (s.writeTables ws.writes).copyLines f id r ws.declined load r.done ((r.at 32 8 - r.done) / 64)
/-- LOAD: host memory into the device; pages that Nerem backs on the way are its table writes (R48). -/
def execLoad (f id : Nat) (ws : Backing) (s : State) : Out := s.copyRequest f id 0x10 ws true
/-- FETCH: device memory into host memory (R48). -/
def execFetch (f id : Nat) (ws : Backing) (s : State) : Out := s.copyRequest f id 0x11 ws false

end Sys2Proof.Machine
end

