-- ==== Sys2Proof/Machine/Trees.lean ====
section
/-!
DEFINITION. Region trees (R87 to R91): LAUNCH and its response, CANCEL.
-/
namespace Sys2Proof.Machine

/-! ### Reading a tree -/

/-- An RCB as 32 words (Table 4.1). -/
abbrev Rcb := List Word
/-- Field of a word of an RCB. -/
def Rcb.w (r : Rcb) (off : Nat) : Word := List.getD r (off / 8) 0
/-- How a step of the walk ends: a value, a page that must be backed, or a fault at the RCB. -/
inductive Walked (α : Type)
  | ok (v : α)
  | demand (ipa : Nat)
  | bad
/-- Read the four lines of an RCB as the partition at handler level (R89). -/
def State.readRcb (s : State) (vd : Nat) (space : BitVec 12) (a : Nat) : Nat → Walked (List Byte)
  | 0 => .ok []
  | n + 1 =>
    if !(inVspace a) then .bad
    else
      match s.translate vd space .handler a .read with
      | .demand ipa => .demand ipa
      | .fault _ | .fatal => .bad
      | .ok p win =>
        match s.readAt vd win p 64 with
        | .error _ => .bad
        | .ok v =>
          match s.readRcb vd space (a + 64) n with
          | .ok bs => .ok (lineBytes v ++ bs)
          | .demand ipa => .demand ipa
          | .bad => .bad
/-- The words that bytes hold. -/
def wordsOf (bs : List Byte) (n : Nat) : List Word := (List.range n).map fun i => wrap (leNat ((bs.drop (8 * i)).take 8))
/-- Is CTL bit `i` of an RCB set (Table 4.2)? -/
def Rcb.ctl (r : Rcb) (i : Nat) : Bool := bit (r.w 0) i
/-- SLOTS, HIRESHARE, BWSHARE and RINGQ of an RCB. -/
def Rcb.slots (r : Rcb) : Nat := bits (r.w 80) 31 0
/-- HIRESHARE. -/
def Rcb.hireShare (r : Rcb) : Nat := bits (r.w 80) 47 32
/-- BWSHARE. -/
def Rcb.bwShare (r : Rcb) : Nat := bits (r.w 80) 63 48
/-- RINGQ. -/
def Rcb.ringQ (r : Rcb) : Nat := bits (r.w 88) 31 0
/-- SPACE. -/
def Rcb.space (r : Rcb) : BitVec 12 := BitVec.ofNat 12 (bits (r.w 88) 43 32)
/-- Are the fields of an RCB in their ranges and its zeros zero (R87, R89)? A field whose override bit is 0 is not read (R88). -/
def Rcb.sound (r : Rcb) (domain : Bool) : Bool :=
  let notice := r.w 96
  let handler := r.w 104
  decide (bits (r.w 0) 63 56 = 1 ∧ bits (r.w 0) 55 14 = 0 ∧ bits (r.w 0) 7 2 = 0)
    && decide (bits (r.w 88) 63 44 = 0) && (r.drop 14).all (fun w => decide (w = 0))
    && decide (bits (r.w 32) 1 0 = 0)
    && !(badTarget (r.w 72)) && decide (bits (r.w 72) 41 31 = 0)
    && (!(r.ctl 8) || decide (1 ≤ r.slots ∧ r.slots ≤ 16384))
    && (!(r.ctl 9) || decide (1 ≤ r.hireShare ∧ r.hireShare ≤ 8192))
    && (!(r.ctl 10) || decide (1 ≤ r.bwShare ∧ r.bwShare ≤ 256))
    && (!(r.ctl 11) || decide (r.ringQ ≤ 512))
    && (!domain || (decide (bits notice 10 0 = 0) && (decide (handler = 0) || decide (notice ≠ 0))))
/-- Does an address translate at task level for an access (R89)? -/
def State.reachable (s : State) (vd : Nat) (space : BitVec 12) (a : Word) (k : Access) : Walked Unit :=
  if !(inVspace a.toNat) then .bad
  else
    match s.translate vd space .task a.toNat k with
    | .ok _ _ => .ok ()
    | .demand ipa => .demand ipa
    | .fault _ | .fatal => .bad
/-- Check that all of some addresses are reachable. -/
def State.reachAll (s : State) (vd : Nat) (space : BitVec 12) : List (Word × Access) → Walked Unit
  | [] => .ok ()
  | (a, k) :: rest =>
    match s.reachable vd space a k with
    | .ok _ => s.reachAll vd space rest
    | r => r
/-- The addresses of an RCB that must translate: ENTRY, and in a fault domain HANDLER and NOTICE when they are not zero. -/
def Rcb.targets (r : Rcb) (domain : Bool) : List (Word × Access) :=
  [(r.w 32, .exec)] ++ (if domain ∧ r.w 104 ≠ 0 then [(r.w 104, .exec)] else [])
    ++ (if domain ∧ r.w 96 ≠ 0 then [(r.w 96, .rw)] else [])
/-- A region's entry of the region table, with its effective values (Table 4.3). -/
def Rcb.region (r : Rcb) (a : Word) (idx : Nat) (parent : Option Nat) (depth : Nat) (v : VDev) (up : Option Region) : Region :=
  let domain := decide (parent = none) || r.ctl 13
  let pSlots := (up.map (·.slots)).getD (2048 * v.slotNums.length)
  let pHire := (up.map (·.hireShare)).getD (1024 * v.slotNums.length)
  let pBw := (up.map (·.bwNum)).getD 1
  let pRing := (up.map (·.ringQ)).getD v.ringQ
  let pPrio := (up.map (·.prio)).getD 0
  { rcb := a, parent := parent, depth := depth, entry := r.w 32, args := [r.w 40, r.w 48, r.w 56, r.w 64], home := r.w 72,
    space := r.space
    slots := if r.ctl 8 then min r.slots pSlots else pSlots
    hireShare := if r.ctl 9 then min r.hireShare pHire else pHire
    bwNum := pBw * if r.ctl 10 then r.bwShare else 256
    ringQ := if r.ctl 11 then pRing.map (min r.ringQ) else pRing
    prio := if r.ctl 12 then max (bits (r.w 0) 1 0) pPrio else pPrio
    domain := if domain then idx else (up.map (·.domain)).getD 0
    notice := if domain then r.w 96 else 0
    handler := if domain then r.w 104 else 0
    live := 0, noticeSeq := 0, noticeIdx := 0 }
/-- A place of the tree still to be visited: the RCB's address, its parent's index and address, and its depth, 1 at the root. -/
structure Visit where
  at_ : Word
  parent : Option Nat
  parentAt : Word
  depth : Nat
/-- How the walk of a tree ends. -/
inductive TreeEnd
  | ok (rs : List Region)
  | demand (ipa : Nat) (at_ : Word)
  | bad (at_ : Word)
/-- Check one RCB (R89). -/
def State.visit (s : State) (vd : Nat) (space : BitVec 12) (x : Visit) (seen : List Word) : Walked Rcb :=
  if bits x.at_ 7 0 ≠ 0 ∨ seen.contains x.at_ ∨ 1024 ≤ seen.length ∨ 8 < x.depth then .bad
  else
    match s.readRcb vd space x.at_.toNat 4 with
    | .demand ipa => .demand ipa
    | .bad => .bad
    | .ok bs =>
      let r : Rcb := wordsOf bs 32
      let domain := decide (x.parent = none) || r.ctl 13
      if !(r.sound domain) || decide (r.w 8 ≠ x.parentAt) || (decide (x.parent = none) && decide (r.w 24 ≠ 0)) then .bad
      else
        match s.reachAll vd r.space (r.targets domain) with
        | .ok _ => .ok r
        | .demand ipa => .demand ipa
        | .bad => .bad
/-- The places that stand after an RCB: its child, its next sibling, and then the rest. -/
def Rcb.next (r : Rcb) (x : Visit) (idx : Nat) (rest : List Visit) : List Visit :=
  let child := if r.w 16 = 0 then [] else [Visit.mk (r.w 16) (some idx) x.at_ (x.depth + 1)]
  let next := if r.w 24 = 0 then [] else [Visit.mk (r.w 24) x.parent x.parentAt x.depth]
  child ++ next ++ rest
/-- Walk a tree depth first through CHILD and SIBLING (R89). -/
def State.walkTree (s : State) (vd : Nat) (v : VDev) (space : BitVec 12) : List Visit → List Region → Nat → TreeEnd
  | [], rs, _ => .ok rs
  | x :: _, _, 0 => .bad x.at_
  | x :: rest, rs, fuel + 1 =>
    match s.visit vd space x (rs.map (·.rcb)) with
    | .demand ipa => .demand ipa x.at_
    | .bad => .bad x.at_
    | .ok r =>
      let up := x.parent.bind fun i => rs[i]?
      let g := r.region x.at_ rs.length x.parent x.depth v up
      s.walkTree vd v space (r.next x rs.length rest) (rs ++ [g]) fuel
/-- The words that reading an RCB at an address reads: for each of its lines the walk, and then the line (R21, R69). -/
def State.rcbReads (s : State) (vd : Nat) (space : BitVec 12) (a : Nat) : List TableRead :=
  (List.range 4).flatMap fun i =>
    let va := a + 64 * i
    if !(inVspace va) then []
    else s.walkReads vd space va ++ match s.translate vd space .handler va .read with
      | .ok p win => [⟨p, win, true⟩]
      | .fault _ | .demand _ | .fatal => []
/-- The words that the walk of a tree reads, in order: the lines of each RCB, and the walks of the addresses that it checks. -/
def State.treeReads (s : State) (vd : Nat) (space : BitVec 12) : List Visit → List Word → Nat → List TableRead
  | [], _, _ | _ :: _, _, 0 => []
  | x :: rest, seen, fuel + 1 =>
    s.rcbReads vd space x.at_.toNat ++ match s.visit vd space x seen with
      | .demand _ | .bad => []
      | .ok r =>
        let targets := r.targets (decide (x.parent = none) || r.ctl 13)
        targets.flatMap (fun t => s.walkReads vd r.space t.1.toNat)
          ++ s.treeReads vd space (r.next x seen.length rest) (seen ++ [x.at_]) fuel

/-! ### LAUNCH (R89, R90) -/

/-- Is the payload of a LAUNCH or CANCEL sound (Table 2.12)? -/
def launchSound (r : HostReq) : Bool :=
  decide (r.len = 16 ∧ r.at 8 1 < 16 ∧ r.at 9 1 = 0 ∧ r.at 10 2 < 4096 ∧ r.at 12 4 = 0)
/-- Start a tree: the region table is written and the root's first thread is placed by its HOME word, or the LAUNCH is refused. -/
def State.startTree (s : State) (f id vd : Nat) (space : BitVec 12) (rs : List Region) : State :=
  match rs with
  | [] => s.reply f id 3 0
  | r :: _ =>
    let t : Tree := ⟨some (f, id), space, false, false, rs⟩
    let s' := (s.modVd vd fun v => { v with tree := some t }).modRegion vd 0 fun r => { r with live := 1 }
    let (st, _, s') := s'.place vd r.home.toNat ⟨0, r.args, r.entry⟩
    if st = 2 then s.reply f id 3 r.rcb.toNat else s'.taken f id
/-- Is a response to a request of a function not yet written (R89)? -/
def State.unwritten (s : State) : Option (Nat × Nat) → Bool
  | some (f, id) => (s.hostFun f).waiting.any fun e => decide (leNat ((e.drop 8).take 4) = id)
  | none => false
/-- LAUNCH: a tree is read once and checked whole, as soon as the memory that holds it serves (R21); pages that Nerem backs are its table writes, and until they are there the request stays pending. One that Nerem declines to back makes its RCB fault (R89, R90, R132). That a LAUNCH for a device in destruction is answered 3 is the model's choice (log entry 103). -/
def execLaunch (f id : Nat) (ws : Backing) (s : State) : Out :=
  s.serve f id 0x20 false launchSound fun r =>
    let vd := r.at 8 1
    let root := wrap (r.at 16 8)
    let space := BitVec.ofNat 12 (r.at 10 2)
    match s.vd? vd with
    | none => s.reply f id 2 0
    | some v =>
      if !(s.named f vd) then s.reply f id 2 0
      else if v.tree.isSome ∨ v.destroy.isSome ∨ s.unwritten v.launched then s.reply f id 3 root.toNat
      else
        let s := s.writeTables ws.writes
        match s.readTables (copyToken f id) vd (s.treeReads vd space [⟨root, none, 0, 1⟩] [] 1100) with
        | (s, some _) => s
        | (s, none) =>
          match s.walkTree vd v space [⟨root, none, 0, 1⟩] [] 1100 with
          | .ok rs => s.startTree f id vd space rs
          | .demand _ a => if ws.declined then s.reply f id 3 a.toNat else s
          | .bad a => s.reply f id 3 a.toNat
/-- Are the live counts of all regions zero? -/
def Tree.quiet (t : Tree) : Bool := t.regions.all fun r => decide (r.live = 0)
/-- Status of a LAUNCH response (R90). -/
def Tree.status (t : Tree) : Nat := if t.fatal then 4 else if t.cancelled then 5 else 0
/-- Answer the CANCELs of a device whose threads have all been freed (R376). -/
def State.answerCancels (s : State) (vd : Nat) : State :=
  let owed := (s.funs.map fun kv => (kv.2.cancels.filter fun c => decide (c.2.1 = vd)).map fun c => (kv.1, c.1)).flatten
  let s := { s with funs := s.funs.map fun kv =>
    (kv.1, { kv.2 with cancels := kv.2.cancels.filter fun c => decide (c.2.1 ≠ vd) }) }
  owed.foldl (fun s c => s.respond c.1 c.2 0 0 []) s
/-- The tree of a device has ended: its LAUNCH is answered and its region table released (R90). -/
def State.endTree (s : State) (vd : Nat) (t : Tree) : State :=
  let s := (s.modVd vd fun v => { v with tree := none, launched := t.owed }).answerCancels vd
  match t.owed with
  | some (f, id) => s.respond f id t.status 0 []
  | none => s
/-- LAUNCH_RESPONSE, once no thread lives and no notice of the device is still to be written or handled (R90). -/
def execLaunchResponse (vd : Nat) (s : State) : Out :=
  match (s.vd? vd).bind (·.tree) with
  | some t =>
    if t.quiet && s.neremRuns && s.handlerPlaces.all (fun h => decide (h.1 ≠ vd)) && s.notices.all (fun n => decide (n.vd ≠ vd)) then
      .next (s.endTree vd t)
    else .next s
  | none => .next s

/-! ### CANCEL (R376) -/

/-- Region indices of a tree that lie at or below a region. -/
def Tree.subtree (t : Tree) (top : Nat) : List Nat := (List.range t.regions.length).filter fun r => t.below top r 8
/-- Live threads of some regions of a tree. -/
def Tree.liveIn (t : Tree) (rs : List Nat) : Nat := rs.foldl (fun n i => n + ((t.regions[i]?).map (·.live)).getD 0) 0
/-- Will a thread of some regions of a device end when its reply lands (R377)? -/
def State.endsIn (s : State) (vd : Nat) (rs : List Nat) : Bool :=
  (s.slots ++ s.saved ++ s.held).any fun kv => kv.2.cancelled && decide (kv.2.vd = vd) && rs.contains kv.2.region
/-- End every thread of a region and of those below it; the tree is cancelled if a thread of it has so ended, or will (R90, R376). -/
def State.cancelRegion (s : State) (vd top : Nat) (t : Tree) : State :=
  let rs := t.subtree top
  let s' := s.endRegions vd rs
  let left := (((s'.vd? vd).bind (·.tree)).map fun t => t.liveIn rs).getD 0
  if left < t.liveIn rs || s'.endsIn vd rs then
    s'.modVd vd fun v => { v with tree := v.tree.map fun t => { t with cancelled := true } }
  else s'
/-- CANCEL (R376). -/
def execCancel (f id : Nat) (s : State) : Out :=
  s.serve f id 0x21 false launchSound fun r =>
    let vd := r.at 8 1
    if !(s.named f vd) then s.reply f id 2 0
    else
      match (s.vd? vd).bind (·.tree) with
      | none => s.reply f id 3 0
      | some t =>
        let hit := (List.range t.regions.length).find? fun i =>
          match t.regions[i]? with
          | some x => decide (x.rcb.toNat = r.at 16 8 ∧ t.space.toNat = r.at 10 2)
          | none => false
        match hit with
        | none => s.reply f id 3 0
        | some top =>
          ((s.taken f id).modFun f fun x => { x with cancels := x.cancels ++ [(id, vd, top)] }).cancelRegion vd top t
/-- CANCEL_DONE: each ended thread has been freed; threads that have come since are ended in the same way (R376). -/
def execCancelDone (f id : Nat) (s : State) : Out :=
  match (s.hostFun f).cancels.find? fun c => decide (c.1 = id) && s.coresRun with
  | none => .next s
  | some (_, vd, top) =>
    let done := (s.modFun f fun x => { x with cancels := x.cancels.filter fun c => decide (c.1 ≠ id) }).respond f id 0 0 []
    match (s.vd? vd).bind (·.tree) with
    | none => .next done
    | some t => if t.liveIn (t.subtree top) = 0 then .next done else .next (s.cancelRegion vd top t)

end Sys2Proof.Machine
end

