-- ==== Sys2Proof/Machine/Services.lean ====
section
/-!
DEFINITION. Further host requests: VDDESTROY (R41), INFO (R48, Table 2.14), STEERSET (R49 to R51) and UPDATE (R56, R57).
-/
namespace Sys2Proof.Machine

/-! ### VDDESTROY (R41) -/

/-- Does any context of a device exist: resident, saved, halted, waiting, on its way, or queued to start? That a thread which is only queued to start counts as one is the model's choice (log entry 96). -/
def State.hasContexts (s : State) (vd : Nat) : Bool :=
  (s.slots ++ s.saved ++ s.held).any (fun kv => decide (kv.2.vd = vd ∧ kv.2.mode ≠ .free ∧ kv.2.ctx ≠ 0))
    || (s.arrivals ++ s.spills).any (fun kv => decide (kv.1 % 16 = vd)) || s.spawnq.any (fun kv => decide (kv.1 % 16 = vd))
    || s.migMsgs.any (fun m => decide (m.m.vd = vd)) || s.spawnMsgs.any (fun m => decide (m.vd = vd))
/-- A collective that has not completed: a command whose results are not yet being written. -/
def Cmd.unfinished (c : Cmd) : Bool :=
  decide (c.kind = .coll) && match c.phase with
    | .queued | .moving | .staged | .joined _ => true
    | .writing | .ended => false
/-- Steps 1 and 2 of destruction: queues disabled, work that has not started discarded. A hire that a page fault sent back to its lane waits for a grant like any other, and is discarded with what it had still to land (R212; DESIGN CHOICE: log entry 110). -/
def State.beginDestroy (s : State) (vd : Nat) : State :=
  let drop := fun (c : Cmd) => decide (c.vd = vd) && (decide (c.phase = .queued) || c.unfinished)
  { s with
    queues := s.queues.map fun kv => if kv.2.vd = vd then (kv.1, { kv.2 with en := false }) else kv
    entries := s.entries.filter fun e => !(decide (e.vd = vd ∧ e.stage = .waiting))
    cmds := s.cmds.filter fun c => !(drop c)
    colls := s.colls.filter fun g => decide (g.vd ≠ vd)
    inboxMsgs := s.inboxMsgs.filter fun m => (s.ctxOf m.ctx).isSome }
/-- VDDESTROY: refused while a context of the device exists; else the drain begins (R41). What a second one finds while the first drains the rule does not say; the model answers it 0x03. -/
def execVddestroy (f id : Nat) (s : State) : Out :=
  s.serve f id 3 true (fun r => decide (r.len = 1 ∧ r.at 8 1 < 16)) fun r =>
    let vd := r.at 8 1
    match s.vd? vd with
    | none => s.reply f id 2 0
    | some v =>
      if s.hasContexts vd ∨ v.destroy.isSome then s.reply f id 3 0
      else ((s.beginDestroy vd).taken f id).modVd vd fun v => { v with destroy := some (some (f, id)) }
/-- Has the drain of a device ended: no hire, command, store or update of it is left, and no context? -/
def State.drainedOf (s : State) (vd : Nat) : Bool :=
  s.entries.all (fun e => decide (e.vd ≠ vd)) && s.cmds.all (fun c => decide (c.vd ≠ vd))
    && s.msgs.all (fun m => decide (m.vd ≠ vd)) && s.orphans.all (fun kv => decide (kv.2.vd ≠ vd))
    && s.barrierMsgs.all (fun m => decide (m.vd ≠ vd)) && !(s.hasContexts vd)
/-- Is a window open that lists a device, or that it created? -/
def Window.holds (x : Window) (vd : Nat) : Bool := decide (x.state ≠ .closed) && (x.lists vd || decide (x.creator = vd))
/-- Begin to take a device out of a window: one that it created, or that would keep fewer than two members, is closed, and another is re-keyed without it (step 3). A window in a re-key is waited for. -/
def State.leaveWindow (s : State) (vd w : Nat) (x : Window) : State :=
  if !(x.holds vd) || decide (x.state = .rekey) || s.beingErased (32 + w) then s
  else
    let ms := x.members.filter fun m => decide (m.vd ≠ vd)
    if x.creator = vd ∨ ms.length < 2 then s.eraseKey (32 + w) (.window w)
    else { s with windows := KMap.set s.windows w { x with state := .rekey, next := ms, drained := false } }
/-- A kiln without a device: leases and pallets freed, planes zeroed if it served the device last (step 4). -/
def Kiln.without (k : Kiln) (vd : Nat) : Kiln :=
  { k with
    leases := k.leases.filter fun l => decide (l.2.vd ≠ vd)
    pallets := k.pallets.filter fun p => decide (p.vd ≠ vd)
    front := if k.lastVd = some vd then Plane.zero else k.front
    shadow := if k.lastVd = some vd then Plane.zero else k.shadow
    staging := if k.lastVd = some vd then [] else k.staging
    lastVd := if k.lastVd = some vd then none else k.lastVd }
/-- Barriers, saved barrier images, locks and ring slots of a device go (step 5). -/
def State.dropBarriers (s : State) (vd : Nat) : State :=
  let mine := fun (n : Nat) => decide (s.residentOf (n / 16) = some vd)
  { s with
    barriers := s.barriers.filter fun kv => !(mine (kv.1 % 128))
    barrierImages := s.barrierImages.filter fun kv => decide (kv.1 % 16 ≠ vd)
    barrierPasses := s.barrierPasses.filter fun x => decide (x.vd ≠ vd)
    locks := s.locks.filter fun kv => decide (kv.2.vd ≠ vd)
    rings := s.rings.filter fun kv => decide (kv.2.vd ≠ vd)
    writebacks := s.writebacks.filter fun w => decide (w.slot.vd ≠ vd) }
/-- Sub-banks are overwritten with zeros and return to the free pool (step 7). -/
def State.freeSubs (s : State) (subs : NSet) : State :=
  let inSub := fun (a : Nat) => decide (bankAddr 0 0 ≤ a ∧ a < 2 ^ 64) && subs.contains (a % 2 ^ 20 / 2 ^ 16)
  { s with
    mem := s.mem.filter fun c => !(inSub c.1)
    fe := s.fe.filter fun k => !(inSub k)
    poison := s.poison.filter fun k => !(inSub k)
    subbanks := (s.subbanks.map fun kv => if subs.contains (kv.1 % 16) then (kv.1, kv.2.reset) else kv).filter fun kv =>
      !(subs.contains (kv.1 % 16)) || decide (kv.2.spares ≠ 0 ∨ kv.2.power = .unavailable) }
/-- The device is gone. -/
def State.forget (s : State) (vd : Nat) : State :=
  { s with
    vds := KMap.erase s.vds vd
    demands := s.demands.filter fun d => decide (d.vd ≠ vd)
    invals := s.invals.filter fun i => decide (i.vd ≠ vd)
    handlerPlaces := s.handlerPlaces.filter fun h => decide (h.1 ≠ vd)
    notices := s.notices.filter fun n => decide (n.vd ≠ vd)
    spillPos := s.spillPos.filter fun kv => decide (kv.1 % 16 ≠ vd)
    switches := s.switches.filter fun w => decide (w.out ≠ some vd ∧ w.inc ≠ some vd)
    debugOps := s.debugOps.filter fun x => decide (x.2.1 ≠ vd)
    tlb := s.tlb.map fun kv => (kv.1, kv.2.filter fun e => decide (e.vd ≠ vd))
    grants := s.grants.filter fun kv => decide (kv.1 % 16 ≠ vd)
    inboxMsgs := s.inboxMsgs.filter fun m => (s.ctxOf m.ctx).isSome }
/-- Steps 4 and 5 of destruction, and the beginning of step 6: the key is being erased. A LAUNCH still to be answered is answered first. -/
def State.dropDevice (s : State) (vd : Nat) (v : VDev) : State :=
  let s := match v.tree with
    | some t => s.endTree vd t
    | none => s
  let s := { s with kilns := s.kilns.map fun (kv : Nat × Kiln) => (kv.1, kv.2.without vd) }
  (s.dropBarriers vd).eraseKey (vd + 1) (.device vd)
/-- VDDESTROY_DRAINED (R41): once the drain has ended the device leaves its windows, and once it has left them its key is erased. -/
def execVddestroyDrained (vd : Nat) (s : State) : Out :=
  match s.vd? vd with
  | none => .next s
  | some v =>
    if v.destroy.isSome && s.drainedOf vd && s.coresRun then
      if s.windows.any fun kv => kv.2.holds vd then .next (s.windows.foldl (fun s kv => s.leaveWindow vd kv.1 kv.2) s)
      else if s.beingErased (vd + 1) then .next s
      else .next (s.dropDevice vd v)
    else .next s
/-- Step 7 of destruction, and the answer. -/
def State.finishDestroy (s : State) (vd : Nat) : State :=
  match s.vd? vd with
  | none => s
  | some v =>
    let s := (s.freeSubs v.subbanks).forget vd
    match v.destroy with
    | some (some (f, id)) => s.respond f id 0 0 []
    | some none | none => s
/-- The erasures of keys under way end: the units become CLEARED, and what waited for them goes on (R74 steps 2 and 3). -/
def State.eraseAll (s : State) : State :=
  s.erasing.foldl (fun s e =>
    let s := s.clearUnits e.kid
    match e.who with
    | .device vd => s.finishDestroy vd
    | .key => (s.zeroSaved (e.kid - 1)).erasedFor e.who
    | .window _ => s.erasedFor e.who) s

/-! ### INFO (Table 2.14) -/

/-- The eight counters of a set. -/
def State.counters (s : State) (set vd q : Nat) : List Nat :=
  match set with
  | 0 =>
    match s.vd? vd with
    | some v =>
      let live := match v.tree with
        | some t => t.regions.foldl (fun n r => n + r.live) 0
        | none => 0
      [live, v.fatalNotices, v.droppedNotices, v.deferredErrors, v.demandsServed, v.hiresDone, v.enginesDone,
        s.residentTime vd / 2000]
    | none => []
  | 1 =>
    match KMap.find? s.queues q with
    | some x => [x.accepted, x.fullDrops, x.seq, x.widx, x.truncated, x.disabledDrops, 0, 0]
    | none => []
  | 2 =>
    let e := s.ethPort q
    [e.received, e.fcs, e.runts, e.oversize, e.management, e.unmatched, e.ptp, 0]
  | _ =>
    let down := s.birtil.foldl (fun n kv => if kv.2.link = .down then n + 1 else n) 0
    [s.corrSram, s.corrHbm, s.sparedLines, s.w62.length, s.failedStacks.length, b2n s.tamper, down, s.healthLog.length]
/-- Is an INFO payload sound? -/
def infoSound (r : HostReq) : Bool :=
  let q := r.at 10 2
  decide (r.len = 8 ∧ r.at 8 1 < 16 ∧ r.at 9 1 < 4 ∧ r.at 12 4 = 0)
    && match r.at 9 1 with
      | 1 => decide (q < 4096)
      | 2 => decide (q < 2)
      | _ => decide (q = 0)
/-- May the function have the counters it asks for (R47, R48)? -/
def State.infoAllowed (s : State) (f : Nat) (r : HostReq) : Bool :=
  let vd := r.at 8 1
  match r.at 9 1 with
  | 0 => s.named f vd
  | 1 => s.named f vd && match KMap.find? s.queues (r.at 10 2) with
    | some x => decide (x.vd = vd)
    | none => false
  | _ => decide (f = 0)
/-- INFO (R48). -/
def execInfo (f id : Nat) (s : State) : Out :=
  s.serve f id 0x30 false infoSound fun r =>
    if s.infoAllowed f r then (s.taken f id).respond f id 0 0 (s.counters (r.at 9 1) (r.at 8 1) (r.at 10 2))
    else s.reply f id 2 0

/-! ### STEERSET (Tables 2.15 and 2.16) -/

/-- Version and address lengths of a rule (R49). -/
def lengthsSound (r : HostReq) : Bool :=
  let en := r.at 16 2
  let ver := r.at 34 1
  let width := if ver = 4 then 32 else 128
  let used := en.testBit 4 || en.testBit 5
  let fits := fun (len off : Nat) => decide (r.at len 1 ≤ width) && (decide (ver = 6) || decide (r.at (off + 4) 12 = 0))
  (!used || en.testBit 3) && decide (ver = 4 ∨ ver = 6) && fits 36 40 && fits 37 56
/-- Is a rule record sound (Table 2.15, R49)? -/
def ruleSound (r : HostReq) : Bool :=
  let act := r.at 19 1
  decide (r.len = 104 ∧ r.at 9 1 = 0 ∧ r.at 12 4 = 0 ∧ r.at 16 2 < 2 ^ 10 ∧ r.at 18 1 < 4 ∧ act ≤ 2 ∧ r.at 10 2 ≤ 1023
    ∧ r.at 20 2 < 4096 ∧ r.at 22 2 = 0 ∧ r.at 30 2 < 4096 ∧ r.at 38 2 = 0 ∧ r.at 80 1 ≤ 252 ∧ r.at 81 3 = 0 ∧ r.at 92 20 = 0)
    && (decide (act = 0) || decide (r.at 20 2 = 0)) && lengthsSound r
/-- A STEERSET request of a kind: 0 for rules, 1 for queues. A kind that Table 2.12 does not name is malformed. -/
def State.steerset (s : State) (f id kind : Nat) (sound : HostReq → Bool) (go : HostReq → State) : Out :=
  match s.request? f id 0x40 with
  | none => .next s
  | some r =>
    if r.at 8 1 = kind ∨ (kind = 0 ∧ 1 < r.at 8 1) then s.serve f id 0x40 true (fun r => decide (r.at 8 1 = kind) && sound r) go
    else .next s
/-- STEERSET of a rule; rules 0 to 15 are Nerem's (R50). -/
def execSteersetRule (f id : Nat) (s : State) : Out :=
  s.steerset f id 0 ruleSound fun r =>
    if r.at 10 2 < 16 then s.reply f id 2 0
    else { s with rules := KMap.set s.rules (r.at 10 2) ⟨(r.payload.drop 8).take 96, 0⟩ }.reply f id 0 0
/-- Is a queue record sound (Table 2.16)? -/
def queueSound (r : HostReq) : Bool :=
  decide (r.len = 24 ∧ r.at 9 1 = 0 ∧ r.at 12 4 = 0 ∧ r.at 10 2 < 4096 ∧ r.at 16 1 < 16 ∧ r.at 17 1 < 2 ∧ 1 ≤ r.at 18 1
    ∧ r.at 18 1 ≤ 12 ∧ 8 ≤ r.at 19 1 ∧ r.at 19 1 ≤ 14 ∧ r.at 20 2 < 2048 ∧ r.at 22 2 = 0 ∧ r.at 24 8 % 64 = 0)
/-- Do the entries of a queue lie in sub-banks that its device holds on the home brick, allocated and not withdrawn (R51)? -/
def State.queueFits (s : State) (vd brick off size : Nat) : Bool :=
  decide (off + size ≤ 2 ^ 20) && (List.range 16).all fun sb =>
    let apart := decide (off + size ≤ sb * 2 ^ 16 ∨ (sb + 1) * 2 ^ 16 ≤ off)
    apart || (s.holdsSub vd sb && decide ((s.subBank brick sb).power ≠ .unavailable))
/-- A sub-bank of a queue that is enabled is held awake: one that sleeps wakes, and one that is not allocated is allocated first (R51). -/
def State.holdAwake (s : State) (vd b sb : Nat) : State :=
  let s := if (s.subBank b sb).alloc then s else s.setAlloc vd b (1 <<< sb) sb
  s.modSub b sb fun x => if x.power = BankPower.retention then { x with power := .waking } else x
/-- Enabling a queue sets its SEQ and write index to 0 and empties word 0 of every entry; its sub-banks are held awake (R51). That the word's 64 bits are set to zero with it is the model's choice (log entry 97). A locked line keeps its word and its full/empty bit (R179). A frame that was accepted before and still waits for memory is dropped (DESIGN CHOICE: log entry 109). -/
def State.openQueue (s : State) (qn : Nat) (q : SteerQueue) : State :=
  let last := (q.offset + 2 ^ (q.log2e + q.log2s) - 1) / 2 ^ 16
  let banks := (List.range 16).filter fun sb => decide (q.offset / 2 ^ 16 ≤ sb ∧ sb ≤ last)
  let s := { banks.foldl (fun s sb => s.holdAwake q.vd q.brick sb) s with frames := s.frames.filter fun x => decide (x.queue ≠ qn) }
  (List.range (2 ^ q.log2e)).foldl (fun s i =>
    let p := q.place i 0
    if s.lineLocked (p.key / 64 * 64) then s else (s.poke 0 p (leBytes 8 0)).setFe p false) s
/-- STEERSET of a queue descriptor (R49, R51). Writing the descriptor of a disabled queue, also with EN 0, begins a new queue: the rule names only SEQ and write index, at the enable, and the model sets the counters of INFO set 1 to 0 with them. That a queue of a device in destruction can be enabled, and outlives it, is the model's choice (log entry 98). -/
def execSteersetQueue (f id : Nat) (s : State) : Out :=
  s.steerset f id 1 queueSound fun r =>
    let qn := r.at 10 2
    let en := decide (r.at 17 1 = 1)
    let vd := r.at 16 1
    let new : SteerQueue := ⟨vd, en, r.at 18 1, r.at 19 1, r.at 20 2, r.at 24 8, 0, 0, 0, 0, 0, 0⟩
    if !(s.queueFits vd new.brick new.offset (2 ^ (new.log2e + new.log2s))) then s.reply f id 3 0
    else
      let open_ := fun (_ : Unit) => (if en then (s.openQueue qn new) else s).setSteer qn new
      match KMap.find? s.queues qn with
      | none => (open_ ()).reply f id 0 0
      | some old =>
        if old.en then
          let same := decide (old.vd = vd ∧ old.log2e = new.log2e ∧ old.log2s = new.log2s ∧ old.brick = new.brick
            ∧ old.offset = new.offset)
          if same then (s.setSteer qn { old with en := en }).reply f id 0 0 else s.reply f id 3 0
        else (open_ ()).reply f id 0 0

/-! ### Hitless update (R56, R57) -/

/-- The image in the inactive slot, when the monitor accepts it. -/
def Boot.inactive (b : Boot) : Option Image := (b.slot (!b.activeB)).filter fun i => b.accepts b.minNerem i
/-- UPDATE: the monitor verifies the inactive image and records what it accepted (R27); Nerem stops polling and cancels its armed gang switches (R56). What a second one finds while an update is under way the rule does not say; the model answers it 0x03. -/
def execUpdate (f id : Nat) (s : State) : Out :=
  s.serve f id 0x50 true (fun r => decide (r.len = 0)) fun _ =>
    if s.update.isSome then s.reply f id 3 0
    else
      match s.boot.inactive with
      | none => s.reply f id 4 0
      | some i =>
        { s.taken f id with
          update := some ⟨some (f, id), !s.boot.activeB, false, s.devTime, false, s.switches.filter fun w => !w.taken, some i,
            s.boot.neremMeasured⟩
          switches := s.switches.filter (·.taken) }
/-- Has every request of the system cores that was in progress completed: requests taken from queues that are served, CANCELs, and devices being destroyed (R56)? -/
def State.coresIdle (s : State) : Bool :=
  (s.funs.all fun kv => (decide (kv.2.pending = []) || decide (kv.2.err ≠ 0)) && decide (kv.2.cancels = [])) && s.vds.all fun kv => kv.2.destroy.isNone
/-- UPDATE_HANDOFF: every request in progress has completed; the monitor starts the new image with the handoff block (R56), and what it recorded of that image is now the running one's (R27; DEDUCED for the moment: log entry 95). -/
def execUpdateHandoff (s : State) : Out :=
  match s.update with
  | some u =>
    if !u.handed && s.coresIdle then
      .next { s with
        update := some { u with handed := true, startedAt := s.devTime }
        boot := { s.boot with neremMeasured := u.accepted } }
    else .next s
  | none => .next s
/-- Answer the UPDATE request. -/
def State.answerUpdate (s : State) (u : Update) (status : Nat) : State :=
  match u.owed with
  | some (f, id) => s.respond f id status 0 []
  | none => s
/-- The image that has started arms the gang switches of the handoff block again, where it has not armed others (R56). -/
def State.rearm (s : State) (u : Update) : State :=
  u.cancelled.foldl (fun s w => if s.mayArm w.out w.inc then s.armSwitch w else s) s
/-- UPDATE_HEALTH_REPORT: the new image, which must report within 200 ms of its start, serves and its slot becomes active; after a fallback the old image serves again, and what the request is then answered is left open (R56, R57). -/
def execUpdateHealthReport (s : State) : Out :=
  match s.update with
  | some u =>
    if !u.handed || (!u.fellBack && decide (u.startedAt + 200000000 < s.devTime)) then .next s
    else
      let s := { s.rearm u with update := none, boot := { s.boot with healthBy := s.devTime + healthPeriod } }
      if u.fellBack then
        let (n, s) := s.choose
        .next (s.answerUpdate u (n % 7))
      else
        let s := { s with boot := { s.boot with activeB := u.toB, trial := false, img := if u.toB then 2 else 1 } }
        .next (s.answerUpdate u 0)
  | none => .next s
/-- UPDATE_FALLBACK: no health report within 200 ms; the old image is started again, its record stands, and the new slot is marked failed (R57). -/
def execUpdateFallback (s : State) : Out :=
  match s.update with
  | some u =>
    if u.handed && !u.fellBack && decide (u.startedAt + 200000000 ≤ s.devTime) then
      .next { s with update := some { u with fellBack := true }, boot := { s.boot.fail u.toB with neremMeasured := u.before } }
    else .next s
  | none => .next s

end Sys2Proof.Machine
end

