-- ==== Sys2Proof/Machine/Debug.lean ====
section
/-!
DEFINITION. The debug server (R58, R59): attaching, halting, reading, writing, stepping and resuming contexts of a virtual device.
-/
namespace Sys2Proof.Machine

/-- Is a debug server attached to the device, and can Nerem relay its operations? -/
def State.debugs (s : State) (vd : Nat) : Bool := ((s.vd? vd).map (·.attached)).getD false && s.neremRuns
/-- May a requester debug in a life-cycle state (Table 1.5)? -/
def debugAllowed (lcs : Nat) (who : Requester) : Bool :=
  match lcs with
  | 1 | 4 => true
  | 2 => who.authenticated
  | 3 => who.authenticated && who.owner
  | _ => false
/-- DEBUG_ATTACH: only to a device created with DBG = 1, for a requester whom the life-cycle state allows (R58, R24). -/
def execDebugAttach (who : Requester) (s : State) : Out :=
  match s.vd? who.vd with
  | some v =>
    if v.dbg && s.neremRuns && debugAllowed s.boot.lcs who then .next (s.modVd who.vd fun v => { v with attached := true }) else .next s
  | none => .next s
/-- DEBUG_DETACH (R354). -/
def execDebugDetach (vd : Nat) (s : State) : Out :=
  if !s.neremRuns then .next s else .next (s.modVd vd fun v => { v with attached := false })

/-- A reply of the debug server. -/
def State.debugReply (s : State) (vd : Nat) (ws : List Word) : State := { s with debugReplies := s.debugReplies ++ [(vd, ws)] }
/-- Code of a state in the answer to LIST. -/
def SlotMode.code : SlotMode → Nat
  | .free => 0 | .ready => 1 | .parked _ => 2 | .switching _ => 3 | .halted => 4
/-- A context's line of LIST: its number, the slot it occupies or left, whether it stands in a slot, and its state. -/
def listLine (key : Nat) (inSlot : Bool) (k : Slot) : List Word :=
  [wrap k.ctx, wrap key, wrap (b2n inSlot), wrap k.mode.code]
/-- A waiting arrival's line of LIST. -/
def arrivalLine (q : Nat) (a : Arrival) : List Word := listLine (8 * (q / 16)) false a.slot
/-- DEBUG_LIST: every context of the device with its place and state (Table 2.11). -/
def execDebugList (vd : Nat) (s : State) : Out :=
  if !(s.debugs vd) then .next s
  else
    let mine := fun (kv : Nat × Slot) => decide (kv.2.vd = vd ∧ kv.2.mode ≠ .free ∧ kv.2.ctx ≠ 0)
    let there := (s.slots.filter mine).map fun kv => listLine kv.1 true kv.2
    let away := ((s.saved ++ s.held).filter mine).map fun kv => listLine (kv.1 % 2 ^ 18 / 16) false kv.2
    let waiting := ((s.arrivals ++ s.spills).filter fun kv => decide (kv.1 % 16 = vd)).map fun kv =>
      (kv.2.map (arrivalLine kv.1)).flatten
    let moving := (s.migMsgs.filter fun m => decide (m.m.vd = vd)).map fun m => listLine (8 * m.brick) false (landed m.m)
    .next (s.debugReply vd (there ++ away ++ waiting ++ moving).flatten)

/-! ### Halting (R59) -/

/-- A context as it stands halted in its save area. -/
def Slot.halt (k : Slot) : Slot := { k.dropAhead with mode := .halted, haltAsked := false, debugStep := false }
/-- Does a HALT operation name a context? -/
def names (vd : Nat) (c : Option Nat) (k : Slot) : Bool :=
  decide (k.vd = vd ∧ k.ctx ≠ 0) && match c with
    | some x => decide (k.ctx = x)
    | none => true
/-- Can a context outside a slot be halted where it stands: it waits for nothing that it has sent, and its store buffer is empty (R156)? -/
def Slot.haltsHere (k : Slot) : Bool := decide (k.mode = .ready ∧ k.sb = [])
/-- Halt contexts that wait in arrival queues or spill areas, or are on their way; one with buffered stores halts when it has a slot again. -/
def State.haltArrivals (s : State) (vd : Nat) (c : Option Nat) : State :=
  let ask := fun (k : Slot) => if names vd c k then { k with haltAsked := true } else k
  let hit := fun (a : Arrival) => names vd c a.slot && a.slot.haltsHere
  let found := ((s.arrivals ++ s.spills).map fun kv => (kv.2.filter hit).map fun a => (8 * (kv.1 / 16), a.slot)).flatten
  let going := (s.migMsgs.filter fun m => names vd c (landed m.m)).map fun m => (8 * m.brick, landed m.m)
  let keep := fun (m : KMap (List Arrival)) =>
    (m.map fun kv => (kv.1, kv.2.filter fun a => !(hit a))).filter fun kv => decide (kv.2 ≠ [])
  { s with
    arrivals := onArrivals (keep s.arrivals) ask
    spills := onArrivals (keep s.spills) ask
    migMsgs := s.migMsgs.filter fun m => !(names vd c (landed m.m))
    held := (found ++ going).foldl (fun (m : KMap Slot) x => KMap.set m (keepKey x.2.ctx x.1 vd) x.2.halt) s.held }
/-- DEBUG_HALT asks for the halt of one context or of all; one that stands outside a slot is halted where it stands (R59). -/
def execDebugHalt (vd : Nat) (c : Option Nat) (s : State) : Out :=
  if !(s.debugs vd) then .next s
  else
    let ask := fun (kv : Nat × Slot) =>
      if names vd c kv.2 ∧ kv.2.mode ≠ .halted then (kv.1, { kv.2 with haltAsked := true }) else kv
    let now := fun (kv : Nat × Slot) => names vd c kv.2 && kv.2.haltsHere
    let s := { s with
      slots := s.slots.map ask
      saved := (s.saved.filter fun kv => !(now kv)).map ask
      held := ((s.saved ++ s.held).filter now).foldl (fun (m : KMap Slot) (kv : Nat × Slot) => KMap.set m kv.1 kv.2.halt)
        (s.held.map ask) }
    .next (s.haltArrivals vd c)
/-- A context whose image has been written leaves its slot, halted, and the slot is filled; a reservation is handed on and waits are withdrawn (R59, R284). -/
def State.haltOut (s : State) (key : Nat) : State :=
  let k := s.slotAt key
  let s := s.release k
  let k := (s.slotAt key).withdrawn.halt
  ({ s with held := KMap.set s.held (keepKey k.ctx key k.vd) k }.setSlot key Slot.empty).fill key
/-- Save a context out of its slot, halted, as soon as the memory of its image serves (R59, R21); a fault there delivers it (Table 3.4). -/
def State.haltSlot (s : State) (key : Nat) : State :=
  let k := s.slotAt key
  match s.contextPassage imagePass k.vd key 0 4096 (some (s.fullImage k.withdrawn.halt (key / 8))) with
  | (s, .still) => s
  | (s, .fault c) => s.loseContext k.ctx c
  | (s, .done) => s.haltOut key
/-- DEBUG_HALT_TAKES_EFFECT: at an instruction boundary, or at once out of a wait that is withdrawn, when the store buffer is empty (R156); a slot parked on a reply halts after it (R59). -/
def execDebugHaltTakesEffect (b n : Nat) (s : State) : Out :=
  let key := 8 * b + n
  let k := s.slotAt key
  if k.haltAsked ∧ k.ctx ≠ 0 ∧ k.withdrawn.mode = .ready ∧ k.sb = [] then .next (s.haltSlot key) else .next s

/-! ### Reading and writing (Table 2.11) -/

/-- A halted context of a device, with its key in the save area. READ and WRITE reach no other image (DESIGN CHOICE: log entry 100). -/
def State.haltedCtx (s : State) (vd c : Nat) : Option (Nat × Slot) :=
  List.find? (fun kv => decide (kv.2.ctx = c ∧ kv.2.vd = vd ∧ kv.2.mode = .halted ∧ c ≠ 0)) s.held
/-- Replace 8 bytes of an image. -/
def patch (img : List Byte) (off : Nat) (v : Word) : List Byte := img.take off ++ leBytes 8 v.toNat ++ img.drop (off + 8)
/-- An inbox entry of an image. -/
def imgInbox (img : List Byte) (i : Nat) : InboxEntry := ⟨imgWord img (0x800 + 16 * i), imgWord img (0x808 + 16 * i)⟩
/-- A store-buffer entry with the address, size and data of an image. -/
def SbEntry.ofImage (e : SbEntry) (img : List Byte) (i : Nat) : SbEntry :=
  let o := 0x900 + 128 * i
  { e with ea := imgWord img o, size := (imgWord img (o + 8)).toNat, data := bytesLine ((img.drop (o + 16)).take 64) }
/-- A halted context after its image has been written. A frame that ran when the context was halted, at handler level too, goes on from the image's PC. -/
def Slot.withImage (k : Slot) (img : List Byte) : Slot :=
  let r := k.fromImage img
  { r with
    mode := k.mode
    frame := { r.frame with
      running := r.frame.running || (k.frame.running && r.frame.active)
      base := if k.frame.running then r.pc - 4 * wrap r.frame.pos else r.frame.base }
    ackcnt := k.ackcnt
    descr := none
    inbox := (List.range k.inbox.length).map (imgInbox img)
    sb := k.sb.mapIdx fun i e => e.ofImage img i }
/-- A word of the image of a halted context is read, or written with `v`, by `go`, as soon as its memory serves; a fault there is `bad`. The answer tells whether it waits. -/
def State.imageDo (s : State) (id vd c off : Nat) (v : Option Word) (bad : State → State) (go : State → Nat → Slot → State) :
    State × Bool :=
  match s.haltedCtx vd c, s.vd? vd with
  | some (at0, _), some d =>
    if off % 8 = 0 ∧ off < 4096 then
      match s.passage (unitToken debugPass id) vd (d.imageAt (at0 % 2 ^ 18 / 16) + off) 8 (v.map fun v => leBytes 8 v.toNat) with
      | (s, .still) => (s, true)
      | (s, .fault _) => (bad s, false)
      | (s, .done) =>
        match s.haltedCtx vd c with
        | some (at0, k) => (go s at0 k, false)
        | none => (bad s, false)
    else (bad s, false)
  | _, _ => (bad s, false)
/-- Device memory is read or written by `go` at handler level in the device's own view, as soon as its tables and the memory serve, in the order of arrival (R21); where the address does not translate, `bad`. The answer tells whether it waits. -/
def State.memoryDo (s : State) (id vd space va : Nat) (wr : Bool) (bad : State → State) (go : State → Place → Nat → State) :
    State × Bool :=
  let sp := BitVec.ofNat 12 space
  let token := unitToken debugPass id
  match s.readTables token vd (if inVspace va then s.walkReads vd sp va else []) with
  | (s, some _) => (s, true)
  | (s, none) =>
    match s.resolve 0 vd sp .handler (wrap va) .read with
    | .ok p win =>
      if s.blocked token p then (s.stallAt token p, true)
      else (go ((s.look vd win p 8 wr false).unstall token) p win, false)
    | .fault _ | .demand _ | .fatal => (bad (s.unstall token), false)
/-- DEBUG_READ: a word of a halted context's image, or of device memory in the device's own view; a read that faults returns nothing. That the image of a context that a gang switch has saved, and that is not halted, cannot be read is the model's choice (log entry 100). -/
def State.debugRead (s : State) (id vd : Nat) (t : DebugTarget) : State × Bool :=
  let none := fun (s : State) => s.debugReply vd []
  match t with
  | .image c off => s.imageDo id vd c off Option.none none fun s at0 k =>
    s.debugReply vd [imgWord (s.fullImage k (at0 % 2 ^ 18 / 128)) off]
  | .memory space va => s.memoryDo id vd space va false none fun s p win =>
    match s.readAt vd win p 8 with
    | .ok v => (s.touch p).debugReply vd [lowWord v]
    | .error _ => none s
/-- DEBUG_WRITE: a write of memory empties every instruction cache (R230). -/
def State.debugWrite (s : State) (id vd : Nat) (t : DebugTarget) (v : Word) : State × Bool :=
  match t with
  | .image c off => s.imageDo id vd c off (some v) (fun s => s) fun s at0 k =>
    { s with held := KMap.set s.held at0 (k.withImage (patch (s.fullImage k (at0 % 2 ^ 18 / 128)) off v)) }
  | .memory space va => s.memoryDo id vd space va true (fun s => s) fun s p win =>
    match s.writeAt vd win p 8 (lineOf v) with
    | .ok s => s.emptyAllICaches
    | .error _ => s

/-! ### Going on -/

/-- Return a halted context to the lowest free slot of its device on its brick, while the device is resident, as soon as the memory of its image serves (R59, R21); a fault there delivers it (Table 3.4). The answer tells whether it waits. -/
def State.resumeCtx (s : State) (vd c : Nat) (step : Bool) : State × Bool :=
  match s.haltedCtx vd c with
  | some (at0, k) =>
    let b := at0 % 2 ^ 18 / 128
    match s.freeSlot vd b with
    | some n =>
      match s.contextPassage imagePass vd (at0 % 2 ^ 18 / 16) 0 4096 none with
      | (s, .still) => (s, true)
      | (s, .fault e) => (s.loseKept (at0, k) e, false)
      | (s, .done) =>
        ({ s with held := KMap.erase s.held at0 }.setSlot (8 * b + n) { k with mode := .ready, debugStep := step }, false)
    | none => (s, false)
  | none => (s, false)
/-- Carry out a debug operation, which has a number for the order of arrival at memory: the machine after it, and whether it waits there. -/
def State.debugRun (s : State) (id vd : Nat) : DebugOp → State × Bool
  | .read t => s.debugRead id vd t
  | .write t v => s.debugWrite id vd t v
  | .resume c step => s.resumeCtx vd c step
/-- A debug server asks for an operation. Those of one device are carried out in order; one that memory makes wait is made again. -/
def State.debugAsk (s : State) (vd : Nat) (o : DebugOp) : State :=
  let keep := fun (s' : State) => { s' with debugOps := s'.debugOps ++ [(s.nextId, vd, o)], nextId := s'.nextId + 1 }
  if !(s.debugs vd) then s
  else if s.debugOps.any fun x => decide (x.2.1 = vd) then keep s
  else
    match s.debugRun s.nextId vd o with
    | (s', true) => keep s'
    | (s', false) => s'
/-- The debug operations that wait are carried out, those of one device in order; `late` holds the devices with one that waits on. Those of a device from which the server has gone are dropped. -/
def State.debugSend (s : State) (late : List Nat) : List (Nat × Nat × DebugOp) → State
  | [] => s
  | x :: rest =>
    let drop := fun (s : State) => { s with debugOps := s.debugOps.filter fun y => decide (y.1 ≠ x.1) }
    if late.contains x.2.1 then s.debugSend late rest
    else if !(((s.vd? x.2.1).map (·.attached)).getD false) then (drop s).debugSend late rest
    else
      match s.debugRun x.1 x.2.1 x.2.2 with
      | (s, true) => s.debugSend (x.2.1 :: late) rest
      | (s, false) => (drop s).debugSend late rest
/-- The debug operations that wait go on as far as memory serves them, while Nerem relays them (R57, R58). -/
def State.debugOn (s : State) : State := if s.neremRuns then s.debugSend [] s.debugOps else s
/-- DEBUG_READ (Table 2.11). -/
def execDebugRead (vd : Nat) (t : DebugTarget) (s : State) : Out := .next (s.debugAsk vd (.read t))
/-- DEBUG_WRITE (Table 2.11). -/
def execDebugWrite (vd : Nat) (t : DebugTarget) (v : Word) (s : State) : Out := .next (s.debugAsk vd (.write t v))
/-- DEBUG_STEP: one instruction, then halted again (Table 2.11). -/
def execDebugStep (vd c : Nat) (s : State) : Out := .next (s.debugAsk vd (.resume c true))
/-- DEBUG_RESUME (Table 2.11). -/
def execDebugResume (vd c : Nat) (s : State) : Out := .next (s.debugAsk vd (.resume c false))

end Sys2Proof.Machine
end

