-- ==== Sys2Proof/Machine/Scalar.lean ====
section
/-!
DEFINITION. Scalar instructions (chapter 12): arithmetic, logic, shifts, counts, moves, bit fields, select and compare.
-/
namespace Sys2Proof.Machine

/-- Write the value of two sources into the destination and go on. -/
def State.alu2 (s : State) (d a b : GReg) (f : Word → Word → Word) : Out :=
  s.retire fun k => k.setG d (f (k.getG a) (k.getG b))
/-- Write the value of one source into the destination and go on. -/
def State.alu1 (s : State) (d a : GReg) (f : Word → Word) : Out :=
  s.retire fun k => k.setG d (f (k.getG a))

/-- ADD (R259). -/
def execAdd (d a b : GReg) (s : State) : Out := s.alu2 d a b fun x y => x + y
/-- SUB (R259). -/
def execSub (d a b : GReg) (s : State) : Out := s.alu2 d a b fun x y => x - y
/-- AND (R259). -/
def execAnd (d a b : GReg) (s : State) : Out := s.alu2 d a b fun x y => x &&& y
/-- OR (R259). -/
def execOr (d a b : GReg) (s : State) : Out := s.alu2 d a b fun x y => x ||| y
/-- XOR (R259). -/
def execXor (d a b : GReg) (s : State) : Out := s.alu2 d a b fun x y => x ^^^ y
/-- ANDN (R259). -/
def execAndn (d a b : GReg) (s : State) : Out := s.alu2 d a b fun x y => x &&& ~~~ y
/-- SHL (R259). -/
def execShl (d a b : GReg) (s : State) : Out := s.alu2 d a b fun x y => x <<< shiftCount y
/-- SHR (R259). -/
def execShr (d a b : GReg) (s : State) : Out := s.alu2 d a b fun x y => x >>> shiftCount y
/-- SRA (R259). -/
def execSra (d a b : GReg) (s : State) : Out := s.alu2 d a b fun x y => x.sshiftRight (shiftCount y)
/-- ROL (R259). -/
def execRol (d a b : GReg) (s : State) : Out := s.alu2 d a b fun x y => rolValue x y
/-- MUL (R259). -/
def execMul (d a b : GReg) (s : State) : Out := s.alu2 d a b fun x y => x * y
/-- MULHI64 (R259). -/
def execMulhI64 (d a b : GReg) (s : State) : Out := s.alu2 d a b fun x y => mulhSigned x y
/-- MULHN64 (R259). -/
def execMulhN64 (d a b : GReg) (s : State) : Out := s.alu2 d a b fun x y => mulhNat x y
/-- DIVI64 (R260). -/
def execDivI64 (d a b : GReg) (s : State) : Out := s.alu2 d a b fun x y => divSigned x y
/-- DIVN64 (R260). -/
def execDivN64 (d a b : GReg) (s : State) : Out := s.alu2 d a b fun x y => divNat x y
/-- REMI64 (R260). -/
def execRemI64 (d a b : GReg) (s : State) : Out := s.alu2 d a b fun x y => remSigned x y
/-- REMN64 (R260). -/
def execRemN64 (d a b : GReg) (s : State) : Out := s.alu2 d a b fun x y => remNat x y
/-- MINI64 (R261). -/
def execMinI64 (d a b : GReg) (s : State) : Out := s.alu2 d a b fun x y => minBy ltSigned x y
/-- MINN64 (R261). -/
def execMinN64 (d a b : GReg) (s : State) : Out := s.alu2 d a b fun x y => minBy ltNat x y
/-- MAXI64 (R261). -/
def execMaxI64 (d a b : GReg) (s : State) : Out := s.alu2 d a b fun x y => maxBy ltSigned x y
/-- MAXN64 (R261). -/
def execMaxN64 (d a b : GReg) (s : State) : Out := s.alu2 d a b fun x y => maxBy ltNat x y
/-- CEQ (R266). -/
def execCeq (d a b : GReg) (s : State) : Out := s.alu2 d a b fun x y => flagWord (decide (x = y))
/-- CNE (R266). -/
def execCne (d a b : GReg) (s : State) : Out := s.alu2 d a b fun x y => flagWord (decide (x ≠ y))
/-- CLTI64 (R266). -/
def execCltI64 (d a b : GReg) (s : State) : Out := s.alu2 d a b fun x y => flagWord (ltSigned x y)
/-- CLTN64 (R266). -/
def execCltN64 (d a b : GReg) (s : State) : Out := s.alu2 d a b fun x y => flagWord (ltNat x y)
/-- CLEI64 (R266). -/
def execCleI64 (d a b : GReg) (s : State) : Out := s.alu2 d a b fun x y => flagWord (leSigned x y)
/-- CLEN64 (R266). -/
def execCleN64 (d a b : GReg) (s : State) : Out := s.alu2 d a b fun x y => flagWord (leNatW x y)
/-- CLZ (R261). -/
def execClz (d a : GReg) (s : State) : Out := s.alu1 d a fun x => wrap (clzFrom x.toNat 64)
/-- CTZ (R261). -/
def execCtz (d a : GReg) (s : State) : Out := s.alu1 d a fun x => wrap (ctzFrom x.toNat 0 64)
/-- POPC (R261). -/
def execPopc (d a : GReg) (s : State) : Out := s.alu1 d a fun x => wrap (popFrom x.toNat 64)
/-- MOV (R262). -/
def execMov (d a : GReg) (s : State) : Out := s.alu1 d a fun x => x
/-- SEL (R265). -/
def execSel (d a b c : GReg) (s : State) : Out :=
  s.retire fun k => k.setG d (if isSet (k.getG c) then k.getG a else k.getG b)
/-- ADD with an immediate (R259). -/
def execAddImm (d a : GReg) (i : BitVec 17) (s : State) : Out := s.alu1 d a fun x => x + sext i
/-- AND with an immediate (R259). -/
def execAndImm (d a : GReg) (i : BitVec 17) (s : State) : Out := s.alu1 d a fun x => x &&& sext i
/-- OR with an immediate (R259). -/
def execOrImm (d a : GReg) (i : BitVec 17) (s : State) : Out := s.alu1 d a fun x => x ||| sext i
/-- XOR with an immediate (R259). -/
def execXorImm (d a : GReg) (i : BitVec 17) (s : State) : Out := s.alu1 d a fun x => x ^^^ sext i
/-- SHL by an immediate (R259). -/
def execShlImm (d a : GReg) (n : BitVec 6) (s : State) : Out := s.alu1 d a fun x => x <<< n.toNat
/-- SHR by an immediate (R259). -/
def execShrImm (d a : GReg) (n : BitVec 6) (s : State) : Out := s.alu1 d a fun x => x >>> n.toNat
/-- SRA by an immediate (R259). -/
def execSraImm (d a : GReg) (n : BitVec 6) (s : State) : Out := s.alu1 d a fun x => x.sshiftRight n.toNat
/-- LUI replaces chunk k of its destination (R263). -/
def execLui (d : GReg) (k : BitVec 2) (c : BitVec 16) (s : State) : Out :=
  s.alu1 d d fun x => insertBits x (c.setWidth 64) (16 * k.toNat) 16
/-- MOV of an immediate (R262). -/
def execMovImm (d : GReg) (i : BitVec 17) (s : State) : Out := s.alu1 d d fun _ => sext i
/-- EXT.n64 (R264); `w` is the width less 1. -/
def execExtN64 (d a : GReg) (w p : BitVec 6) (s : State) : Out :=
  s.alu1 d a fun x => extractNat x p.toNat (w.toNat + 1)
/-- EXT.i64 (R264). -/
def execExtI64 (d a : GReg) (w p : BitVec 6) (s : State) : Out :=
  s.alu1 d a fun x => extractSigned x p.toNat (w.toNat + 1)
/-- INS reads and writes its destination (R264). -/
def execIns (d a : GReg) (w p : BitVec 6) (s : State) : Out :=
  s.alu2 d d a fun x y => insertBits x y p.toNat (w.toNat + 1)

end Sys2Proof.Machine
end

