-- ==== Sys2Proof/Machine/Dispatch.lean ====
section
/-!
DEFINITION. The meaning of every instruction and event: one arm per constructor, each one direct call.
-/
namespace Sys2Proof.Machine

def exec (i : Instr) (s : State) : Host.Outcome State Fault Refusal :=
  match i with
  | .add d a b => Sys2Proof.Machine.execAdd d a b s
  | .sub d a b => Sys2Proof.Machine.execSub d a b s
  | .and d a b => Sys2Proof.Machine.execAnd d a b s
  | .or d a b => Sys2Proof.Machine.execOr d a b s
  | .xor d a b => Sys2Proof.Machine.execXor d a b s
  | .andn d a b => Sys2Proof.Machine.execAndn d a b s
  | .shl d a b => Sys2Proof.Machine.execShl d a b s
  | .shr d a b => Sys2Proof.Machine.execShr d a b s
  | .sra d a b => Sys2Proof.Machine.execSra d a b s
  | .rol d a b => Sys2Proof.Machine.execRol d a b s
  | .mul d a b => Sys2Proof.Machine.execMul d a b s
  | .mulhI64 d a b => Sys2Proof.Machine.execMulhI64 d a b s
  | .mulhN64 d a b => Sys2Proof.Machine.execMulhN64 d a b s
  | .divI64 d a b => Sys2Proof.Machine.execDivI64 d a b s
  | .divN64 d a b => Sys2Proof.Machine.execDivN64 d a b s
  | .remI64 d a b => Sys2Proof.Machine.execRemI64 d a b s
  | .remN64 d a b => Sys2Proof.Machine.execRemN64 d a b s
  | .minI64 d a b => Sys2Proof.Machine.execMinI64 d a b s
  | .minN64 d a b => Sys2Proof.Machine.execMinN64 d a b s
  | .maxI64 d a b => Sys2Proof.Machine.execMaxI64 d a b s
  | .maxN64 d a b => Sys2Proof.Machine.execMaxN64 d a b s
  | .clz d a => Sys2Proof.Machine.execClz d a s
  | .ctz d a => Sys2Proof.Machine.execCtz d a s
  | .popc d a => Sys2Proof.Machine.execPopc d a s
  | .sel d a b c => Sys2Proof.Machine.execSel d a b c s
  | .mov d a => Sys2Proof.Machine.execMov d a s
  | .ceq d a b => Sys2Proof.Machine.execCeq d a b s
  | .cne d a b => Sys2Proof.Machine.execCne d a b s
  | .cltI64 d a b => Sys2Proof.Machine.execCltI64 d a b s
  | .cltN64 d a b => Sys2Proof.Machine.execCltN64 d a b s
  | .cleI64 d a b => Sys2Proof.Machine.execCleI64 d a b s
  | .cleN64 d a b => Sys2Proof.Machine.execCleN64 d a b s
  | .addImm d a n => Sys2Proof.Machine.execAddImm d a n s
  | .andImm d a n => Sys2Proof.Machine.execAndImm d a n s
  | .orImm d a n => Sys2Proof.Machine.execOrImm d a n s
  | .xorImm d a n => Sys2Proof.Machine.execXorImm d a n s
  | .shlImm d a n => Sys2Proof.Machine.execShlImm d a n s
  | .shrImm d a n => Sys2Proof.Machine.execShrImm d a n s
  | .sraImm d a n => Sys2Proof.Machine.execSraImm d a n s
  | .lui d k c => Sys2Proof.Machine.execLui d k c s
  | .movImm d n => Sys2Proof.Machine.execMovImm d n s
  | .extN64 d a w p => Sys2Proof.Machine.execExtN64 d a w p s
  | .extI64 d a w p => Sys2Proof.Machine.execExtI64 d a w p s
  | .ins d a w p => Sys2Proof.Machine.execIns d a w p s
  | .rpt l st n => Sys2Proof.Machine.execRpt l st n s
  | .beq a b o => Sys2Proof.Machine.execBeq a b o s
  | .bne a b o => Sys2Proof.Machine.execBne a b o s
  | .bltI64 a b o => Sys2Proof.Machine.execBltI64 a b o s
  | .bgeI64 a b o => Sys2Proof.Machine.execBgeI64 a b o s
  | .bltN64 a b o => Sys2Proof.Machine.execBltN64 a b o s
  | .bgeN64 a b o => Sys2Proof.Machine.execBgeN64 a b o s
  | .jal d o => Sys2Proof.Machine.execJal d o s
  | .jalr d a n => Sys2Proof.Machine.execJalr d a n s
  | .ld m r b n => Sys2Proof.Machine.execLd m r b n s
  | .st m r b n => Sys2Proof.Machine.execSt m r b n s
  | .stImm m v b n => Sys2Proof.Machine.execStImm m v b n s
  | .ldr r b n => Sys2Proof.Machine.execLdr r b n s
  | .ldff r b n => Sys2Proof.Machine.execLdff r b n s
  | .ldfe r b n => Sys2Proof.Machine.execLdfe r b n s
  | .stef r b n => Sys2Proof.Machine.execStef r b n s
  | .stefImm v b n => Sys2Proof.Machine.execStefImm v b n s
  | .stff r b n => Sys2Proof.Machine.execStff r b n s
  | .stffImm v b n => Sys2Proof.Machine.execStffImm v b n s
  | .lrw r b n => Sys2Proof.Machine.execLrw r b n s
  | .scw r b n => Sys2Proof.Machine.execScw r b n s
  | .migr b n => Sys2Proof.Machine.execMigr b n s
  | .prefHbm r b n => Sys2Proof.Machine.execPrefHbm r b n s
  | .prefWake r b n => Sys2Proof.Machine.execPrefWake r b n s
  | .wrel r b n => Sys2Proof.Machine.execWrel r b n s
  | .wacq r b n => Sys2Proof.Machine.execWacq r b n s
  | .rbrd r b n => Sys2Proof.Machine.execRbrd r b n s
  | .ralt r b n => Sys2Proof.Machine.execRalt r b n s
  | .rcap m r b n => Sys2Proof.Machine.execRcap m r b n s
  | .rput m r b n => Sys2Proof.Machine.execRput m r b n s
  | .rputImm v b n => Sys2Proof.Machine.execRputImm v b n s
  | .radd r b n => Sys2Proof.Machine.execRadd r b n s
  | .rwait c r b n => Sys2Proof.Machine.execRwait c r b n s
  | .iter b n => Sys2Proof.Machine.execIter b n s
  | .iterRing b n => Sys2Proof.Machine.execIterRing b n s
  | .nest r b n => Sys2Proof.Machine.execNest r b n s
  | .nestRing r b n => Sys2Proof.Machine.execNestRing r b n s
  | .amo o sz d a b c => Sys2Proof.Machine.execAmo o sz d a b c s
  | .rupd o sz a b => Sys2Proof.Machine.execRupd o sz a b s
  | .fenceDie => Sys2Proof.Machine.execFenceDie s
  | .fencePkg => Sys2Proof.Machine.execFencePkg s
  | .fenceSys => Sys2Proof.Machine.execFenceSys s
  | .rsync => Sys2Proof.Machine.execRsync s
  | .mqdq d => Sys2Proof.Machine.execMqdq d s
  | .quit => Sys2Proof.Machine.execQuit s
  | .spawn d a b => Sys2Proof.Machine.execSpawn d a b s
  | .binit a n => Sys2Proof.Machine.execBinit a n s
  | .barr a n => Sys2Proof.Machine.execBarr a n s
  | .bwait d n => Sys2Proof.Machine.execBwait d n s
  | .wadd f d a b => Sys2Proof.Machine.execWadd f d a b s
  | .wsub f d a b => Sys2Proof.Machine.execWsub f d a b s
  | .wmul f d a b => Sys2Proof.Machine.execWmul f d a b s
  | .wmin f d a b => Sys2Proof.Machine.execWmin f d a b s
  | .wmax f d a b => Sys2Proof.Machine.execWmax f d a b s
  | .wand f d a b => Sys2Proof.Machine.execWand f d a b s
  | .wor f d a b => Sys2Proof.Machine.execWor f d a b s
  | .wxor f d a b => Sys2Proof.Machine.execWxor f d a b s
  | .wshl f d a b => Sys2Proof.Machine.execWshl f d a b s
  | .wshr f d a b => Sys2Proof.Machine.execWshr f d a b s
  | .wsra f d a b => Sys2Proof.Machine.execWsra f d a b s
  | .waddSat f d a b => Sys2Proof.Machine.execWaddSat f d a b s
  | .wsubSat f d a b => Sys2Proof.Machine.execWsubSat f d a b s
  | .wabs f d a => Sys2Proof.Machine.execWabs f d a s
  | .wfma f d a b c => Sys2Proof.Machine.execWfma f d a b c s
  | .wfms f d a b c => Sys2Proof.Machine.execWfms f d a b c s
  | .wfnma f d a b c => Sys2Proof.Machine.execWfnma f d a b c s
  | .wfnms f d a b c => Sys2Proof.Machine.execWfnms f d a b c s
  | .wceq f d a b => Sys2Proof.Machine.execWceq f d a b s
  | .wcne f d a b => Sys2Proof.Machine.execWcne f d a b s
  | .wclt f d a b => Sys2Proof.Machine.execWclt f d a b s
  | .wcle f d a b => Sys2Proof.Machine.execWcle f d a b s
  | .wsel f d a b c => Sys2Proof.Machine.execWsel f d a b c s
  | .wperm f d a b => Sys2Proof.Machine.execWperm f d a b s
  | .wbcst f d g => Sys2Proof.Machine.execWbcst f d g s
  | .wmov f d a => Sys2Proof.Machine.execWmov f d a s
  | .wsig f d a => Sys2Proof.Machine.execWsig f d a s
  | .wexp f d a => Sys2Proof.Machine.execWexp f d a s
  | .wrcp f d a => Sys2Proof.Machine.execWrcp f d a s
  | .wrsq f d a => Sys2Proof.Machine.execWrsq f d a s
  | .wtanh f d a => Sys2Proof.Machine.execWtanh f d a s
  | .wlog f d a => Sys2Proof.Machine.execWlog f d a s
  | .wdot f sat p d a b c => Sys2Proof.Machine.execWdot f sat p d a b c s
  | .wredSum f g a => Sys2Proof.Machine.execWredSum f g a s
  | .wredMin f g a => Sys2Proof.Machine.execWredMin f g a s
  | .wredMax f g a => Sys2Proof.Machine.execWredMax f g a s
  | .wcvt toPivot pv f sat r d a => Sys2Proof.Machine.execWcvt toPivot pv f sat r d a s
  | .wcvtScaled toPivot pv f sat r d a g => Sys2Proof.Machine.execWcvtScaled toPivot pv f sat r d a g s
  | .zld z g n => Sys2Proof.Machine.execZld z g n s
  | .zst z g n => Sys2Proof.Machine.execZst z g n s
  | .zset z g k => Sys2Proof.Machine.execZset z g k s
  | .zget z g k => Sys2Proof.Machine.execZget z g k s
  | .sbind z p => Sys2Proof.Machine.execSbind z p s
  | .hire t z l => Sys2Proof.Machine.execHire t z l s
  | .hiret t z n l => Sys2Proof.Machine.execHiret t z n l s
  | .plse d a => Sys2Proof.Machine.execPlse d a s
  | .pcfg a b r => Sys2Proof.Machine.execPcfg a b r s
  | .pwrR a b r w => Sys2Proof.Machine.execPwrR a b r w s
  | .pwrC a b r w => Sys2Proof.Machine.execPwrC a b r w s
  | .prdR a b r w => Sys2Proof.Machine.execPrdR a b r w s
  | .prdC a b r w => Sys2Proof.Machine.execPrdC a b r w s
  | .pcpy a b sr er => Sys2Proof.Machine.execPcpy a b sr er s
  | .pfree a => Sys2Proof.Machine.execPfree a s
  | .cpy t a b c => Sys2Proof.Machine.execCpy t a b c s
  | .gath t a b c => Sys2Proof.Machine.execGath t a b c s
  | .scat t a b c => Sys2Proof.Machine.execScat t a b c s
  | .coll t a b c => Sys2Proof.Machine.execColl t a b c s
  | .crd d c => Sys2Proof.Machine.execCrd d c s
  | .cwr g c => Sys2Proof.Machine.execCwr g c s
  | .cwrXvec g => Sys2Proof.Machine.execCwrXvec g s
  | .cwrXframe g => Sys2Proof.Machine.execCwrXframe g s
  | .cwrSpaceid g => Sys2Proof.Machine.execCwrSpaceid g s
  | .cwrBwphase g => Sys2Proof.Machine.execCwrBwphase g s
  | .cwrBankmap g => Sys2Proof.Machine.execCwrBankmap g s
  | .cwrSinv g => Sys2Proof.Machine.execCwrSinv g s
  | .trap n => Sys2Proof.Machine.execTrap n s
  | .xret => Sys2Proof.Machine.execXret s
  | .halt => Sys2Proof.Machine.execHalt s
  | .bkpt c => Sys2Proof.Machine.execBkpt c s
  | .save a => Sys2Proof.Machine.execSave a s
  | .restore a => Sys2Proof.Machine.execRestore a s
  | .hloc d x => Sys2Proof.Machine.execHloc d x s
  | .islandStart isl => Sys2Proof.Machine.execIslandStart isl s
  | .islandReady isl => Sys2Proof.Machine.execIslandReady isl s
  | .kilnEnable k => Sys2Proof.Machine.execKilnEnable k s
  | .islandLeaveHold isl => Sys2Proof.Machine.execIslandLeaveHold isl s
  | .kilnPointSwitch k => Sys2Proof.Machine.execKilnPointSwitch k s
  | .healthReport => Sys2Proof.Machine.execHealthReport s
  | .queueLiveClear f => Sys2Proof.Machine.execQueueLiveClear f s
  | .queuePoll f => Sys2Proof.Machine.execQueuePoll f s
  | .nop f id => Sys2Proof.Machine.execNop f id s
  | .vddestroy f id => Sys2Proof.Machine.execVddestroy f id s
  | .vddestroyDrained vd => Sys2Proof.Machine.execVddestroyDrained vd s
  | .load f id ws => Sys2Proof.Machine.execLoad f id ws s
  | .fetch f id ws => Sys2Proof.Machine.execFetch f id ws s
  | .launch f id ws => Sys2Proof.Machine.execLaunch f id ws s
  | .launchResponse vd => Sys2Proof.Machine.execLaunchResponse vd s
  | .cancel f id => Sys2Proof.Machine.execCancel f id s
  | .cancelDone f id => Sys2Proof.Machine.execCancelDone f id s
  | .info f id => Sys2Proof.Machine.execInfo f id s
  | .steersetRule f id => Sys2Proof.Machine.execSteersetRule f id s
  | .steersetQueue f id => Sys2Proof.Machine.execSteersetQueue f id s
  | .updateHandoff => Sys2Proof.Machine.execUpdateHandoff s
  | .updateHealthReport => Sys2Proof.Machine.execUpdateHealthReport s
  | .updateFallback => Sys2Proof.Machine.execUpdateFallback s
  | .unknownRequest f id => Sys2Proof.Machine.execUnknownRequest f id s
  | .rekeyDrained w => Sys2Proof.Machine.execRekeyDrained w s
  | .rekeyClose w => Sys2Proof.Machine.execRekeyClose w s
  | .debugHaltTakesEffect b n => Sys2Proof.Machine.execDebugHaltTakesEffect b n s
  | .subbankWakeDone b sb => Sys2Proof.Machine.execSubbankWakeDone b sb s
  | .subbankPowerUpDone b sb => Sys2Proof.Machine.execSubbankPowerUpDone b sb s
  | .pchWakeDone p => Sys2Proof.Machine.execPchWakeDone p s
  | .storeDepart ctx => Sys2Proof.Machine.execStoreDepart ctx s
  | .storeAtHome id r => Sys2Proof.Machine.execStoreAtHome id r s
  | .loadAtHome ctx r => Sys2Proof.Machine.execLoadAtHome ctx r s
  | .atomicAtHome id r => Sys2Proof.Machine.execAtomicAtHome id r s
  | .fullEmptyAtHome ctx r => Sys2Proof.Machine.execFullEmptyAtHome ctx r s
  | .reservationAtHome ctx r => Sys2Proof.Machine.execReservationAtHome ctx r s
  | .ackArrive id => Sys2Proof.Machine.execAckArrive id s
  | .replyArrive ctx => Sys2Proof.Machine.execReplyArrive ctx s
  | .faultHandlerPlace vd => Sys2Proof.Machine.execFaultHandlerPlace vd s
  | .invalidateComplete id => Sys2Proof.Machine.execInvalidateComplete id s
  | .reservationTimeout g => Sys2Proof.Machine.execReservationTimeout g s
  | .haltWake b n => Sys2Proof.Machine.execHaltWake b n s
  | .spawnPlace id => Sys2Proof.Machine.execSpawnPlace id s
  | .migrationArrive id r => Sys2Proof.Machine.execMigrationArrive id r s
  | .arrivalSpill b vd => Sys2Proof.Machine.execArrivalSpill b vd s
  | .gangSwitch id => Sys2Proof.Machine.execGangSwitch id s
  | .slotHandover b n => Sys2Proof.Machine.execSlotHandover b n s
  | .entryAge die => Sys2Proof.Machine.execEntryAge die s
  | .grant die k => Sys2Proof.Machine.execGrant die k s
  | .hodStart id => Sys2Proof.Machine.execHodStart id s
  | .hodEnd id => Sys2Proof.Machine.execHodEnd id s
  | .hodComplete id => Sys2Proof.Machine.execHodComplete id s
  | .inboxEntryArrive id => Sys2Proof.Machine.execInboxEntryArrive id s
  | .engineCommandStart id => Sys2Proof.Machine.execEngineCommandStart id s
  | .engineComplete id => Sys2Proof.Machine.execEngineComplete id s
  | .collArrive id => Sys2Proof.Machine.execCollArrive id s
  | .collPatienceExpiry id => Sys2Proof.Machine.execCollPatienceExpiry id s
  | .prefComplete id => Sys2Proof.Machine.execPrefComplete id s
  | .barrierArrival id => Sys2Proof.Machine.execBarrierArrival id s
  | .ringMiss ctx => Sys2Proof.Machine.execRingMiss ctx s
  | .illegalInstruction w => Sys2Proof.Machine.execIllegalInstruction w s
  | .fetchFault => Sys2Proof.Machine.execFetchFault s
  | .spareLineRemapDone b sb g => Sys2Proof.Machine.execSpareLineRemapDone b sb g s
  | .spareRowRepairDone g => Sys2Proof.Machine.execSpareRowRepairDone g s
  | .majorRolloverDone blk => Sys2Proof.Machine.execMajorRolloverDone blk s
  | .coldReset => Sys2Proof.Machine.execColdReset s
  | .drstGo => Sys2Proof.Machine.execDrstGo s
  | .pfFunctionLevelReset => Sys2Proof.Machine.execPfFunctionLevelReset s
  | .vfFunctionLevelReset f => Sys2Proof.Machine.execVfFunctionLevelReset f s
  | .thermalTrip => Sys2Proof.Machine.execThermalTrip s
  | .thermalHold die => Sys2Proof.Machine.execThermalHold die s
  | .watchdogReset => Sys2Proof.Machine.execWatchdogReset s
  | .lifeCycleChange lcs => Sys2Proof.Machine.execLifeCycleChange lcs s
  | .rcmdGo v => Sys2Proof.Machine.execRcmdGo v s
  | .islandEnterHold isl => Sys2Proof.Machine.execIslandEnterHold isl s
  | .islandEnterOff isl => Sys2Proof.Machine.execIslandEnterOff isl s
  | .powerSample mw => Sys2Proof.Machine.execPowerSample mw s
  | .qctlEnable f => Sys2Proof.Machine.execQctlEnable f s
  | .qctlDisable f => Sys2Proof.Machine.execQctlDisable f s
  | .hostRegisterWrite f r v => Sys2Proof.Machine.execHostRegisterWrite f r v s
  | .vdcreate f id place ws => Sys2Proof.Machine.execVdcreate f id place ws s
  | .update f id => Sys2Proof.Machine.execUpdate f id s
  | .vdkey vd => Sys2Proof.Machine.execVdkey vd s
  | .vderase vd => Sys2Proof.Machine.execVderase vd s
  | .winopen w units ms creator => Sys2Proof.Machine.execWinopen w units ms creator s
  | .winmembers w ms => Sys2Proof.Machine.execWinmembers w ms s
  | .winclose w => Sys2Proof.Machine.execWinclose w s
  | .attest vd nonce => Sys2Proof.Machine.execAttest vd nonce s
  | .spdmGetMeasurements f => Sys2Proof.Machine.execSpdmGetMeasurements f s
  | .debugList vd => Sys2Proof.Machine.execDebugList vd s
  | .debugHalt vd c => Sys2Proof.Machine.execDebugHalt vd c s
  | .debugRead vd t => Sys2Proof.Machine.execDebugRead vd t s
  | .debugWrite vd t v => Sys2Proof.Machine.execDebugWrite vd t v s
  | .debugStep vd c => Sys2Proof.Machine.execDebugStep vd c s
  | .debugResume vd c => Sys2Proof.Machine.execDebugResume vd c s
  | .hashmaskWrite stack v => Sys2Proof.Machine.execHashmaskWrite stack v s
  | .hypInvalidate vd v => Sys2Proof.Machine.execHypInvalidate vd v s
  | .frameAccept port bytes => Sys2Proof.Machine.execFrameAccept port bytes s
  | .frameDropAtPort port why => Sys2Proof.Machine.execFrameDropAtPort port why s
  | .ptpEventMessage port corr => Sys2Proof.Machine.execPtpEventMessage port corr s
  | .ppsInput corr => Sys2Proof.Machine.execPpsInput corr s
  | .flitReceive port bytes => Sys2Proof.Machine.execFlitReceive port bytes s
  | .retrainComplete port ok => Sys2Proof.Machine.execRetrainComplete port ok s
  | .patrolScrub g r => Sys2Proof.Machine.execPatrolScrub g r s
  | .subbankWithdraw b sb => Sys2Proof.Machine.execSubbankWithdraw b sb s
  | .channelRebuildComplete stack => Sys2Proof.Machine.execChannelRebuildComplete stack s
  | .subbankRetention b sb => Sys2Proof.Machine.execSubbankRetention b sb s
  | .pchPowerDown p => Sys2Proof.Machine.execPchPowerDown p s
  | .pchSelfRefresh p => Sys2Proof.Machine.execPchSelfRefresh p s
  | .demandFaultRetry id ws => Sys2Proof.Machine.execDemandFaultRetry id ws s
  | .demandFaultLong id => Sys2Proof.Machine.execDemandFaultLong id s
  | .demandFaultFatal id => Sys2Proof.Machine.execDemandFaultFatal id s
  | .pagePresent id ws => Sys2Proof.Machine.execPagePresent id ws s
  | .gangSwitchArm out inc t => Sys2Proof.Machine.execGangSwitchArm out inc t s
  | .ringStow ring idx => Sys2Proof.Machine.execRingStow ring idx s
  | .ringReboard b line => Sys2Proof.Machine.execRingReboard b line s
  | .ringBoardApply b n => Sys2Proof.Machine.execRingBoardApply b n s
  | .ringCaptureApply b n => Sys2Proof.Machine.execRingCaptureApply b n s
  | .ringPutApply b n => Sys2Proof.Machine.execRingPutApply b n s
  | .ringAddApply b n => Sys2Proof.Machine.execRingAddApply b n s
  | .ringWaitApply b n => Sys2Proof.Machine.execRingWaitApply b n s
  | .ringClaimApply b n => Sys2Proof.Machine.execRingClaimApply b n s
  | .ringAlightMatch b n => Sys2Proof.Machine.execRingAlightMatch b n s
  | .ringAlightWriteback ring idx => Sys2Proof.Machine.execRingAlightWriteback ring idx s
  | .ringSlotError ring idx e => Sys2Proof.Machine.execRingSlotError ring idx e s
  | .debugAttach who => Sys2Proof.Machine.execDebugAttach who s
  | .debugDetach vd => Sys2Proof.Machine.execDebugDetach vd s
  | .ringLockClear b line => Sys2Proof.Machine.execRingLockClear b line s

end Sys2Proof.Machine
end

