-- ==== Sys2Proof/Machine/Turn.lean ====
section
/-!
DEFINITION. One step: the passing of time, a slot's turn (R97, R149, R229), an event, and the waking of slots whose wait has ended.
-/
namespace Sys2Proof.Machine

/-! ### Time -/

/-- Half nanoseconds that slewing may add or take in the next `n` cycles: at most 500 ppm (R38). -/
def State.slewRoom (s : State) (n : Nat) : Nat := min ((s.cycle + n) / 2000 - s.cycle / 2000) s.slew.natAbs
/-- `n` cycles pass; a correction is slewed in at a rate that is left open up to 500 ppm (R38). -/
def State.pass (s : State) (n : Nat) : State :=
  let s := { s with hadTurn := [], stations := [] }
  if s.slew = 0 then { s with cycle := s.cycle + n, devHalfNs := s.devHalfNs + n }
  else
    let (c, s) := s.choose
    let d := c % (s.slewRoom n + 1)
    if 0 < s.slew then { s with cycle := s.cycle + n, devHalfNs := s.devHalfNs + n + d, slew := s.slew - d }
    else { s with cycle := s.cycle + n, devHalfNs := s.devHalfNs + n - d, slew := s.slew + d }
/-- What goes on by itself while `n` cycles pass: granules move (R124), re-keys encrypt them again (R82), and erased keys lose their owner entries (R74). -/
def State.background (s : State) (n : Nat) : State := ((s.moveGranules n).rekeyOn n).eraseAll
/-- `n` cycles pass. Each ends with the ring's work while it has any, after the turns of that cycle (R180, R181). -/
def State.elapse (s : State) : Nat → State
  | 0 => s
  | n + 1 => if s.ringBusy then ((s.ringNow.pass 1).background 1).elapse n else (s.pass (n + 1)).background (n + 1)
/-- Cycles until the next turn of a slot of a brick: slot n issues in the cycles that leave n modulo 8, once in each (R97). -/
def State.untilTurn (s : State) (b n : Nat) : Nat :=
  let d := (n + 8 - s.beat b) % 8
  if d = 0 ∧ s.hadTurn.contains (8 * b + n) then 8 else d
/-- The machine in the cycle of the next turn of a slot, which the slot takes. -/
def State.reachTurn (s : State) (b n : Nat) : State :=
  let s := s.elapse (s.untilTurn b n)
  { s with hadTurn := NSet.insert s.hadTurn (8 * b + n) }

/-! ### A turn -/

/-- May a device's slots issue: no stop turn of a gang switch is due (R110), none of its lines on the die is still stowed (R190), and no barrier image of it is still to be read on the brick (R170)? -/
def State.deviceGoes (s : State) (key vd : Nat) : Bool :=
  let die := key / 8 / 512
  let stowed := (s.locks.any fun kv =>
      decide (kv.2.state ≠ .aboard ∧ kv.2.vd = vd ∧ (kv.1 - bankAddr 0 0) / 2 ^ 32 = die))
    || s.writebacks.any fun w => w.stow && decide (w.die = die ∧ w.slot.vd = vd)
  let stops := s.switches.any fun w => decide (w.out = some vd ∧ ¬ w.taken ∧ w.stamp ≤ s.devTime)
  let unread := s.barrierPasses.any fun x => decide (x.vd = vd ∧ ¬ x.wr ∧ x.key / 8 = key / 8)
  !stowed && !stops && !unread
/-- Does a slot issue at its turn: it is READY, and neither halted, cancelled nor kept by its island or its device? -/
def State.canIssue (s : State) (key : Nat) : Bool :=
  let k := s.slotAt key
  decide (k.mode = .ready) && !k.haltAsked && !k.cancelled && decide ((s.island (brickIsland (key / 8))).state = .run)
    && s.deviceGoes key k.vd
/-- The next instruction of the current slot: a body word of a running frame, staggered (R163), or the word at PC (R229). A body word that Table 12.11 keeps out of a capture, which only an image that RESTORE or a debug server has written can hold, is executed like any other word: a branch moves PC, and the frame goes on at its next position (DESIGN CHOICE: log entry 117). -/
def State.nextInstr (s : State) : Instr × State :=
  let k := s.me
  if k.frame.running then
    let w := k.frame.body.getD k.frame.pos 0
    match decode w with
    | .ok i => (stagger (k.frame.iter * k.frame.stag) i, s)
    | .error _ => (.illegalInstruction w, s)
  else
    match s.fetch s.cur k.pc with
    | .word w s =>
      match decode w with
      | .ok i => (i, s)
      | .error _ => (.illegalInstruction w, s)
    | .fault _ | .demand _ | .fatal => (.fetchFault, s)
/-- The current slot issues. A fetch first reaches its home: it waits there for memory that cannot serve it (R21), and what the media answer can end the slot's thread (R70). -/
def State.issue (s : State) : Out :=
  let (s', still) := if s.me.frame.running then (s, none) else s.fetchReady s.cur s.me.pc
  if s'.me.ctx ≠ s.me.ctx then .next s'
  else
    match still with
    | some p => s'.awaitMemory p s.me.pc
    | none =>
      let (i, s') := s'.nextInstr
      exec i s'
/-- A context has had its turn: it stands in the order of arrival no longer, unless its slot awaits memory or a reply (R21). -/
def State.passed (s : State) (key ctx : Nat) : State :=
  match (s.slotAt key).mode with
  | .parked (.cond (.awake _ _)) | .parked .reply => if (s.slotAt key).ctx = ctx then s else s.unstall ctx
  | .parked _ | .free | .ready | .switching _ | .halted => s.unstall ctx
/-- What a turn does after its instruction. -/
def turned (key ctx : Nat) : Out → Out
  | .next s => .next (s.passed key ctx)
  | .fault f => .fault f
  | .refused r => .refused r
/-- The next turn of a slot. -/
def State.turn (s : State) (b n : Nat) : Out :=
  let key := 8 * b + n % 8
  let s := s.reachTurn b (n % 8)
  if s.canIssue key then turned key (s.slotAt key).ctx { s with cur := key }.issue else .next s

/-! ### Waits that end (R97, R98) -/

/-- Has the condition ended on which a slot waits? A load that meets entries of its buffer waits until each of them is acknowledged (R155). HALT_WAKE and an inbox entry end HALT. -/
def State.condOver (s : State) (key : Nat) (k : Slot) : Cond → Bool
  | .drained => decide (k.sb = [])
  | .drainedAck => decide (k.sb = [] ∧ k.ackcnt = 0)
  | .drainedAckRing => k.quiet
  | .storeEntry held => decide (k.sb.length < held)
  | .ackRoom => decide (k.ackcnt < 65535)
  | .ringEmpty => decide (k.ringq = [])
  | .ringPlace => decide (k.ringq.length < 4)
  | .loadClear p ea size | .wordClear p ea size => s.wordOpen k (key / 8) p (wrap ea) size
  | .inbox => decide (k.inbox ≠ [])
  | .haltEnd => false
  | .prefetchPlace => decide (k.prefs < 16)
  | .awake p _ => !(s.blocked k.ctx p)
  | .yard brick lane n _ => s.yardFree key k brick lane n
/-- A slot after the check of its wait. -/
def State.checked (s : State) (key : Nat) (k : Slot) : Slot :=
  match k.mode with
  | .parked (.cond c) => if s.condOver key k c then { k with mode := .ready } else k
  | .parked _ | .free | .ready | .switching _ | .halted => k
/-- Ready every slot whose condition holds. -/
def State.readyAll (s : State) : State := { s with slots := s.slots.map fun kv => (kv.1, s.checked kv.1 kv.2) }
/-- Does a slot of a context still ask ahead for the line whose load a number names (R159)? -/
def State.asksAhead (s : State) (token : Nat) : Bool :=
  let n := token / 2 ^ 64 - 1
  s.slots.any fun kv => decide (kv.2.ctx = n / 4) && match kv.2.ports.toList[n % 4]? with
    | some p => p.asked.contains (token % 2 ^ 64)
    | none => false
/-- Does a lane entry pull or land now? -/
def State.atMemory (s : State) (x : Entry) : Bool :=
  match x.kiln with
  | some kn => decide (x.stage = .granted ∧ (s.kiln kn).running = some x.id) || (decide (x.lands ≠ []) && x.landing && s.mayLand x)
  | none => false
/-- Does the image of a slot, by its key, still wait to be read or written: for a switch, a halt, a wait for a page or its end, or a debug server? -/
def State.imageWaits (s : State) (key vd : Nat) : Bool :=
  let k := s.slotAt key
  let kept := fun (c : Nat) => s.held.any fun kv => decide (kv.2.ctx = c ∧ kv.1 % 2 ^ 18 = 16 * key + vd)
  let leaves := fun (d : Demand) => match d.who with
    | .slot c | .store c _ => decide (s.keyOf c = some key) && d.leaves k.mode
    | .update _ | .engine _ | .pull _ | .landing _ => false
  let onCtx := fun (x : Nat × Nat × DebugOp) => match x.2.2 with
    | .resume c _ => decide (x.2.1 = vd) && kept c
    | .read _ | .write _ _ => false
  let switching := match k.mode with
    | .switching _ => true
    | .free | .ready | .parked _ | .halted => false
  switching || (k.haltAsked && decide (k.vd = vd)) || s.demands.any leaves || s.returning.any kept || s.debugOps.any onCtx
/-- Does a context still wait to enter the spill area of a queue? -/
def State.spillWaits (s : State) (q : Nat) : Bool :=
  (s.migMsgs.any fun m => decide (queueKey m.brick m.m.vd = q))
    || (match KMap.getD s.arrivals q [] with
      | a :: _ => s.isResident (q % 16) && decide (a.since + 2048 ≤ s.cycle)
      | [] => false)
    || s.returning.any fun c => s.held.any fun kv => decide (kv.2.ctx = c ∧ queueKey (kv.1 % 2 ^ 18 / 128) kv.2.vd = q)
/-- A kiln to which a lane entry brings pallets now: that on which it runs or lands, or the one it would be granted. -/
def State.bringsTo (s : State) (x : Entry) (kn : Nat) : Bool :=
  if x.stage = .waiting then decide (s.kilnOwner kn = some x.vd) && s.kilnFree kn && decide ((s.chosen x.vd kn).map (·.id) = some x.id)
  else decide (x.kiln = some kn) && s.atMemory x
/-- The kilns of a lane entry's device. -/
def State.kilnsFor (s : State) (x : Entry) : List Nat := ((s.vd? x.vd).map (·.kilns)).getD []
/-- Does a lane entry, by its number, still bring in its pallet number `h` (its four leases, and its temporary one)? -/
def State.palletComes (s : State) (id h : Nat) : Bool :=
  match s.entry? id with
  | some x =>
    let p := if h < 4 then PalletHolder.lease h else .temp id
    (s.kilnsFor x).any fun kn => s.bringsTo x kn && !(s.hasPallet kn p)
  | none => false
/-- Does a lane entry still gather its temporary pallet from another kiln? -/
def State.gathers (s : State) (id : Nat) : Bool :=
  match s.entry? id with
  | some x => (s.kilnsFor x).any fun kn => s.bringsTo x kn && decide (s.tempsElsewhere id kn ≠ [])
  | none => false
/-- Does an access that belongs to no context, message or command still wait, by its kind and its number within it? -/
def State.unitWaits (s : State) (kind n : Nat) : Bool :=
  if kind = backPass then s.writebacks.any fun w => decide (w.token = unitToken backPass n)
  else if kind = imagePass then s.imageWaits (n / 16) (n % 16)
  else if kind = debugPass then s.debugOps.any fun x => decide (x.1 = n)
  else if kind = spillOut then s.spillWaits n
  else if kind = spillIn then
    s.isResident (n % 16) && decide (KMap.getD s.spills n [] ≠ [] ∧ (KMap.getD s.arrivals n []).length < 8)
  else if kind = mailOut then s.inboxMsgs.any fun m => decide (s.homeKey m.ctx = some (n / 16))
  else if kind = mailIn then
    let k := s.slotAt (n / 16)
    decide (k.vd = n % 16 ∧ k.overflow ≠ [] ∧ k.inbox.length < 16)
  else if kind = leasePass then !(s.hasPallet (n / 256) (.lease (n % 4))) && (s.waitPins (n / 256)).contains (.lease (n % 4))
  else if kind = entryPass then s.palletComes (n / 8) (n % 8)
  else if kind = gatherPass then s.gathers n
  else if kind = barrierPass then s.barrierPasses.any fun x => decide (x.token = unitToken barrierPass n)
  else if kind = boardPass then
    match KMap.find? s.locks (lineKey (n / 2 ^ 14) (n % 2 ^ 14)) with
    | some l => decide (l.state ≠ .aboard) && s.isResident l.vd
    | none => false
  else decide (kind = landPass) && (s.saved ++ s.held).any fun kv =>
    decide (kv.1 % 2 ^ 18 = n / 64) && (s.staleLines kv).contains (n % 64)
/-- Is the access there that stands in the order of arrival: of a context, its walk for a buffered store or its load ahead, a write under way, a lane entry, a command, a notice, a steered frame, a request of the host, or one that belongs to none of them? One that is held back for a page does not stand there. -/
def State.stillStalled (s : State) (e : Stalled) : Bool :=
  (s.ctxOf e.token).isSome || (s.msgs.any fun m => decide (m.id = e.token ∧ ¬ m.performed))
    || (s.entries.any fun x => decide (x.id = e.token) && s.atMemory x) || (s.cmds.any fun c => decide (c.id = e.token))
    || (s.notices.any fun n => decide (n.id = e.token)) || (s.frames.any fun x => decide (x.id = e.token))
    || s.unitWaits (e.token / 2 ^ 56) (e.token % 2 ^ 56)
    || ((s.slots ++ s.saved ++ s.held ++ s.orphans).any fun kv =>
      kv.2.sb.any fun x => decide (x.id = e.token ∧ x.place = none) && !(kv.2.heldBack x) && !(s.storesStay kv.2.ctx))
    || (decide (2 ^ 64 ≤ e.token) && s.asksAhead e.token)
    || s.funs.any fun kv => decide (kv.2.err = 0) && kv.2.pending.any fun q => decide (copyToken kv.1 q.seq = e.token)
/-- A slot parked on CWR XVEC or BWPHASE goes on once every brick holds the value, and the memory that a phase keeps awake serves: the CWR is complete (R348, R138). -/
def State.spreadOver (s : State) (key : Nat) : State :=
  match (s.slotAt key).mode with
  | .parked (.spread stop _ sts phase) =>
    if stop ≤ s.cycle ∧ s.phaseServes sts phase then s.completeAt key (s.slotAt key).advance else s
  | .parked _ | .free | .ready | .switching _ | .halted => s
/-- A port in memory mode whose next line lies at a place reads it ahead. -/
def State.readFor (s : State) (ctx brick : Nat) (p : Place) (n : Fin 3) : State :=
  match s.ctxOf ctx with
  | none => s
  | some k =>
    let x := k.ports[n]
    match s.resolve brick k.vd k.space k.level x.addr .read with
    | .ok q _ =>
      if x.bound && !x.queueFed && decide (q = p) then
        let (s, r) := s.readAhead k brick x 0 1
        s.modCtx ctx fun k => k.setPort n { x with ahead := r.held }
      else s
    | .fault _ | .demand _ | .fatal => s
/-- A saved context whose access memory had stalled is served, into its save area: a pop's line is held for its port, and any other instruction executes when the context runs again (Table 4.12). -/
def State.savedAwake (s : State) (kv : Nat × Slot) : State :=
  match kv.2.mode with
  | .parked (.cond (.awake p _)) =>
    if s.blocked kv.2.ctx p then s
    else
      let brick := kv.1 % 2 ^ 18 / 128
      let c := kv.2.ctx
      (((s.unstall c).readFor c brick p 0).readFor c brick p 1).modCtx c fun k => { k with mode := .ready }
  | .parked _ | .free | .ready | .switching _ | .halted => s
/-- What memory does for those that waited for it, when it can serve: slots leave to wait for a page and contexts come back from it, notices and frames are written, images and barrier images follow, debug operations, remote updates and loads ahead go on, waiters of full/empty words are served, and inboxes and arrival queues are filled from the save region. -/
def State.memoryGoes (s : State) : State :=
  let s := s.longHolds
  let s := { s with stallq := s.stallq.filter s.stillStalled }
  let s := s.writeNotices.writeFrames.bringAllBack.passAllBarriers.landAllSaved.debugOn.updatesOn
  let s := (s.slots.map (·.1)).foldl State.landAheads s
  let s := (s.feq.foldl (fun s kv => s.feWake kv.1) s).closeSubs
  let s := (s.slots.filter fun kv => decide (kv.2.overflow ≠ [])).foldl (fun s kv => s.refillInbox kv.1 16) s
  s.refillAll
/-- What ends a step: memory serves those that waited for it, kilns and the yard too, and waits that have ended are over. -/
def State.settle (s : State) : State :=
  let s := s.memoryGoes
  let s := (s.slots.map (·.1)).foldl State.spreadOver s
  (s.saved.foldl State.savedAwake s).palletsGo.markTotals.readyAll

/-! ### Moves -/

/-- Is it an event of the device, rather than the instruction of a slot's turn? -/
def isEvent (i : Instr) : Bool :=
  (encode i).isNone && wellFormed i && match i with
    | .illegalInstruction _ | .fetchFault => false
    | _ => true
/-- Make a move. An instruction is no event: only a slot's turn executes it. -/
def State.move (s : State) : Move → Out
  | .turn b n => s.turn b n
  | .elapse n => .next (s.elapse n)
  | .event i => if isEvent i then exec i s else .next s
  | .outside a bytes => .next { s with mem := Mem.writeBytes s.mem (2 ^ 64 + a) bytes }
  | .recovery i => .next (if s.boot.stage = 0xF0 then { s with boot := { s.boot with recovery := i } } else s)
  | .storage ns a bytes =>
    .next { s with boot := { s.boot with
      nvme := KMap.set s.boot.nvme ns (Mem.writeBytes (KMap.getD s.boot.nvme ns []) a bytes) } }
  | .broken parts => .next { s with boot := { s.boot with defects := parts } }
  | .media answers => .next { s with answers := answers }
/-- Settle after a move. -/
def settled : Out → Out
  | .next s => .next s.settle
  | .fault f => .fault f
  | .refused r => .refused r

end Sys2Proof.Machine
end

