-- ==== Sys2Proof/Machine/Auto.lean ====
section
/-!
DEFINITION. What the machine does when the outside world has laid down no move: the first pending step of its own that changes it, else memory that has stood idle goes to sleep, else a slot that can issue in this cycle has its turn, else a cycle passes. The order among pending steps is the model's choice.
-/
namespace Sys2Proof.Machine

/-- The step that a context's request, or its reply, is waiting for. -/
def requestSteps (k : Slot) : List Instr :=
  match k.req with
  | none => []
  | some q =>
    match q.stage with
    | .done _ | .failed _ _ _ => [.replyArrive k.ctx]
    | .queued => []
    | .sent =>
      if q.kind.isRead then [.loadAtHome k.ctx .sound]
      else if q.kind.isAtomic then [.atomicAtHome k.ctx .sound]
      else if q.kind.isFullEmpty then [.fullEmptyAtHome k.ctx .sound]
      else if q.kind.isResv then [.reservationAtHome k.ctx .sound]
      else []
/-- The steps that a context has under way: its request, its stores, a ring miss. -/
def contextSteps (k : Slot) : List Instr :=
  requestSteps k ++ (if k.sb.any fun e => !e.departed then [.storeDepart k.ctx] else [])
    ++ (if k.ringq = [] then [] else [.ringMiss k.ctx])
/-- The steps that wait for a slot. -/
def slotSteps (key : Nat) (k : Slot) : List Instr :=
  let b := key / 8
  let n := key % 8
  let ofMode := match k.mode with
    | .switching _ => [Instr.slotHandover b n]
    | .parked (.cond .haltEnd) => [Instr.haltWake b n]
    | .free | .ready | .parked _ | .halted => []
  ofMode ++ (if k.haltAsked then [.debugHaltTakesEffect b n] else [])
/-- The steps of messages on their way. -/
def State.messageSteps (s : State) : List Instr :=
  (s.msgs.map fun m =>
      if m.performed then Instr.ackArrive m.id
      else match m.kind with
        | .store => Instr.storeAtHome m.id .sound
        | .rupd _ _ => Instr.atomicAtHome m.id .sound)
    ++ (s.spawnMsgs.map fun m => Instr.spawnPlace m.id) ++ (s.barrierMsgs.map fun m => Instr.barrierArrival m.id)
    ++ (s.migMsgs.map fun m => Instr.migrationArrive m.id .sound) ++ (s.inboxMsgs.map fun m => Instr.inboxEntryArrive m.id)
    ++ (s.invals.map fun i => Instr.invalidateComplete i.id) ++ (s.handlerPlaces.map fun h => Instr.faultHandlerPlace h.1)
    ++ (s.resvq.map fun kv => Instr.reservationTimeout kv.1)
    ++ (s.arrivals.map fun kv => Instr.arrivalSpill (kv.1 / 16) (kv.1 % 16))
/-- The steps of kilns and engines. -/
def State.unitSteps (s : State) : List Instr :=
  (s.entries.map fun e =>
      let die := e.brick / 512
      match e.stage with
      | .waiting => (if e.lands = [] then [] else [Instr.hodComplete e.id]) ++ Instr.entryAge die :: (s.kilnsOn e.vd die).map fun k => Instr.grant die (k % 32)
      | .granted | .parkedPull _ | .parkedLanding _ | .replaying _ => [Instr.hodEnd e.id, Instr.hodStart e.id, Instr.hodComplete e.id]).flatten
    ++ (s.cmds.map fun c => match c.kind with
      | .pref => [Instr.prefComplete c.id]
      | .cpy | .gath | .scat => [Instr.engineCommandStart c.id, Instr.engineComplete c.id]
      | .coll => [Instr.engineCommandStart c.id, Instr.collArrive c.id, Instr.engineComplete c.id]).flatten
    ++ (s.colls.map fun g => Instr.collPatienceExpiry g.id)
/-- The steps of memory that wakes or is being repaired. -/
def State.memorySteps (s : State) : List Instr :=
  (s.subbanks.map fun kv => match kv.2.power with
      | .waking => [Instr.subbankWakeDone (kv.1 / 16) (kv.1 % 16)]
      | .poweringUp => [Instr.subbankPowerUpDone (kv.1 / 16) (kv.1 % 16)]
      | .on | .retention | .off | .unavailable => []).flatten
    ++ (s.pch.filterMap fun kv => if kv.2 = .waking then some (Instr.pchWakeDone kv.1) else none)
    ++ (s.remapping.map fun g => match placeOf g with
      | .sram b off => Instr.spareLineRemapDone b (off / 2 ^ 16) g
      | .hbm _ | .host _ | .peer _ _ => Instr.spareRowRepairDone g)
    ++ (s.rowRepair.map fun g => Instr.spareRowRepairDone (64 * g)) ++ (s.rolling.map Instr.majorRolloverDone)
/-- The steps of the islands. -/
def State.islandSteps (s : State) : List Instr :=
  (List.range 64).flatMap fun i => match (s.island i).state with
    | .off => if s.pending i then [Instr.islandStart i] else []
    | .starting _ => [Instr.islandReady i]
    | .hold => [Instr.islandLeaveHold i]
    | .run => []
    | .k2 | .k15 | .k10 => ((islandKilns i).filter fun k => !(s.kiln k).enabled).map Instr.kilnEnable ++ [Instr.kilnPointSwitch (4 * (i % 8) + 32 * (i / 16))]
/-- The step that answers a request of a function. -/
def answerStep (f : Nat) (r : HostReq) : Instr :=
  match r.op with
  | 1 => .nop f r.seq
  | 3 => .vddestroy f r.seq
  | 0x10 => .load f r.seq ⟨[], false⟩
  | 0x11 => .fetch f r.seq ⟨[], false⟩
  | 0x20 => .launch f r.seq ⟨[], false⟩
  | 0x21 => .cancel f r.seq
  | 0x30 => .info f r.seq
  | 0x40 => if r.at 8 1 = 1 then .steersetQueue f r.seq else .steersetRule f r.seq
  | _ => .unknownRequest f r.seq
/-- The steps of Nerem: its health report, the host's requests, trees and devices that end, switches and updates. -/
def State.neremSteps (s : State) : List Instr :=
  (if s.boot.stage = 4 ∨ (s.boot.stage = 5 ∧ s.boot.healthBy ≤ s.devTime + healthPeriod / 2) then [.healthReport] else [])
    ++ (s.switches.map fun w => Instr.gangSwitch w.id)
    ++ (s.funs.map fun kv => (if kv.2.en then [Instr.queuePoll kv.1] else []) ++ kv.2.pending.map (answerStep kv.1)
      ++ kv.2.cancels.map fun c => Instr.cancelDone kv.1 c.1).flatten
    ++ (s.vds.map fun kv => (if kv.2.tree.isSome then [Instr.launchResponse kv.1] else [])
      ++ if kv.2.destroy.isSome then [Instr.vddestroyDrained kv.1] else []).flatten
    ++ (s.windows.filter fun kv => decide (kv.2.state = .rekey)).flatMap (fun kv => [Instr.rekeyDrained kv.1, Instr.rekeyClose kv.1])
    ++ (if s.update.isSome then [.updateHandoff, .updateHealthReport, .updateFallback] else [])
/-- Every step of the machine's own that may be pending. -/
def State.pendingSteps (s : State) : List Instr :=
  let all := (s.slots ++ s.saved ++ s.held ++ s.orphans ++ s.arriving).map (·.2)
  (s.slots.flatMap fun kv => slotSteps kv.1 kv.2) ++ all.flatMap contextSteps ++ s.messageSteps ++ s.unitSteps
    ++ s.memorySteps ++ s.neremSteps ++ s.islandSteps
/-- The first of some steps that changes the machine. -/
def State.firstStep (s : State) : List Instr → Option Out
  | [] => none
  | i :: rest =>
    match exec i s with
    | .next s' => if s' = s then s.firstStep rest else some (.next s')
    | o => some o
/-- What comes of SUBBANK_WITHDRAW for sub-banks of which Nerem has given notice (R33), and of SUBBANK_RETENTION, PCH_POWER_DOWN and PCH_SELF_REFRESH for memory that has stood idle: allocated sub-banks of the bricks in use, and pseudo-channels that have been accessed (R136, R137). -/
def State.sleeps (s : State) : List Out :=
  (s.subbanks.filterMap fun kv => if kv.2.noticed then some (execSubbankWithdraw (kv.1 / 16) (kv.1 % 16) s) else none)
    ++ ((s.slots.map fun kv => kv.1 / 8).eraseDups.flatMap fun b =>
      ((List.range 16).filter fun sb =>
        let x := s.subBank b sb
        x.alloc && decide (x.power = .on ∧ x.lastUse + 128000 ≤ s.cycle)).map fun sb => execSubbankRetention b sb s)
    ++ (s.pchUse.flatMap fun kv => match s.pchState kv.1 with
      | .active => if kv.2 + 400 ≤ s.cycle then [execPchPowerDown kv.1 s, execPchSelfRefresh kv.1 s] else []
      | .powerDown => if kv.2 + 20000 ≤ s.cycle then [execPchSelfRefresh kv.1 s] else []
      | .selfRefresh | .waking => [])
/-- The first of some outcomes that changes the machine. -/
def State.firstChange (s : State) (l : List Out) : Option Out :=
  l.find? fun o => match o with
    | .next s' => !(decide (s' = s))
    | .fault _ | .refused _ => true
/-- The slot that can issue and whose turn comes first. -/
def State.nextSlot (s : State) : Option Nat :=
  (s.slots.filter fun kv => s.canIssue kv.1).foldl (fun best kv =>
    match best with
    | some b => if s.untilTurn (kv.1 / 8) (kv.1 % 8) < s.untilTurn (b / 8) (b % 8) then some kv.1 else some b
    | none => some kv.1) none
/-- The machine moves itself; right after reset the boot ROM runs. -/
def State.autoMove (s : State) : Out :=
  if s.boot.stage = 0 then execColdReset s
  else
  match s.firstStep s.pendingSteps with
  | some o => o
  | none =>
  match s.firstChange s.sleeps with
  | some o => o
  | none =>
    match s.nextSlot with
    | some key => if s.untilTurn (key / 8) (key % 8) = 0 then s.turn (key / 8) (key % 8) else .next (s.elapse 1)
    | none => .next (s.elapse 1)
/-- One step: the next move that has been laid down, or the machine's own, and what ends a step. -/
def State.oneStep (s : State) : Out :=
  match s.agenda with
  | m :: rest => settled ({ s with agenda := rest }.move m)
  | [] => settled s.autoMove

end Sys2Proof.Machine
end

