-- ==== Sys2Proof/Machine/Program.lean ====
section
/-!
DEFINITION. How a program comes to stand where a slot fetches: a word laid at the PC of the current slot, in a virtual device that stands for what VDCREATE, LOAD and LAUNCH make when there is none.
-/
namespace Sys2Proof.Machine

/-- Lay an instruction's word at a place of memory, with no older value left in an instruction cache. -/
def State.layWord (s : State) (kid : Nat) (p : Place) (w : Nat) : State :=
  (s.poke kid p (leBytes 4 w)).emptyAllICaches
/-- Where the current slot fetches, when it can issue and its PC translates. -/
def State.fetchPlace (s : State) : Option (Nat × Place) :=
  let k := s.me
  if !(s.canIssue s.cur) || k.frame.running || decide (k.pc.toNat % 4 ≠ 0) || !(inVspace k.pc.toNat) then none
  else
    match s.translateAt (s.cur / 8 / 512) k.vd k.space k.level k.pc.toNat .exec with
    | .ok p win => if (s.homeFault k.vd win p 4 false false).isNone then some (kidOf k.vd win, p) else none
    | .fault _ | .demand _ | .fatal => none

/-- Root of the demonstration device's hypervisor tables, in the firmware reserve of stack 0. -/
def demoRoot : Nat := partitionEnd
/-- Its V-space: one 1 GiB page, mapped to HBM from 0 upward (R126). -/
def demoBase : Nat := 2 ^ 32
/-- Where its code stands. -/
def demoPc : Nat := demoBase + 2 ^ 20
/-- Its one region. -/
def demoRegion : Region :=
  { rcb := wrap (demoBase + 0x4000), parent := none, depth := 1, entry := wrap demoPc, args := [0, 0, 0, 0], home := 0, space := 0,
    slots := 16384, hireShare := 8192, bwNum := 256, ringQ := [512, 512, 512, 512], prio := 0, domain := 0, notice := 0,
    handler := 0, live := 1, noticeSeq := 0, noticeIdx := 0 }
/-- Virtual device 0 with everything a device can own. -/
def demoVd : VDev :=
  { func := 0, dbg := true, slotNums := List.range 8, subbanks := List.range 16, kilns := List.range 128,
    copies := List.range 32, colls := List.range 16, ringQ := [512, 512, 512, 512], hbmq := 330752, hbmwt := 16,
    yage := 65536, save := 0x1000000000, hypRoot := demoRoot, resident := true, residentSince := 0, residentCycles := 0, xvec := 0, bwphase := 0,
    tree := some ⟨none, 0, false, false, [demoRegion]⟩, launched := none, attached := false, destroy := none, created := 0, fatalNotices := 0,
    droppedNotices := 0, deferredErrors := 0, demandsServed := 0, hiresDone := 0, enginesDone := 0 }
/-- Its tables: two levels of the hypervisor stage, the guest root word of space 0, and two levels of the guest stage. -/
def demoTables : List (Nat × Nat) :=
  [(demoRoot, demoRoot + 0x1000 + 1), (demoRoot + 0x1000 + 8 * 4, 0x1F), (0, demoBase + 0x1000 + 1),
    (0x1000, demoBase + 0x2000 + 1), (0x2000 + 8 * 4, demoBase + 0x5F)]
/-- A machine that serves, with the device, its tables, and its first thread in slot 0 of brick 0. -/
def State.withDemo (s : State) : State :=
  let s := { s with
    boot := { s.boot with stage := 5, healthBy := s.devTime + healthPeriod }
    update := none
    vds := [(0, demoVd)]
    keys := KMap.set (KMap.set s.keys 0 0) 1 1
    owner := KMap.set s.owner 0 1
    written := [0, 0x1000 / 64, 0x2000 / 64]
    mem := demoTables.foldl (fun m (e : Nat × Nat) => Mem.writeBytes m e.1 (leBytes 8 e.2)) s.mem
    islands := KMap.set s.islands 0 ⟨.run, .run, false, 0, 0⟩
    switches := []
    locks := []
    cur := 0 }
  let (c, s) := s.fresh
  s.setSlot 0 (newThread c 0 0 0 (wrap demoPc) [])
/-- The machine with a word where its next step fetches it: at the current slot's PC, or in the demonstration device. -/
def State.placeWord (s : State) (w : Nat) : State :=
  let s := if s.fetchPlace.isSome then s else s.withDemo
  match s.fetchPlace with
  | some (kid, p) =>
    let s := s.layWord kid p w
    { s with
      answers := []
      agenda := .turn (s.cur / 8) (s.cur % 8) :: s.agenda }
  | none => s

end Sys2Proof.Machine
end

