-- ==== Sys2Proof/Safety.lean ====
section
/-!
DEFINITION. What counts as a safe run: every step answers a next state, and no slot sleeps past the end of its wait.
-/
namespace Sys2Proof.Machine

/-- The outcome is a next state. -/
def Answers (o : Out) : Prop := ∃ t, o = .next t
/-- The outcome is a next state of which something holds. -/
def AnswersWith (o : Out) (P : State → Prop) : Prop := ∃ t, o = .next t ∧ P t

/-- The machine after the current slot has completed its instruction, with `k` its slot before it moves on. -/
def State.after (s : State) (k : Slot) : State := s.completeAt s.cur k.advance
/-- The machine after the current slot has completed an instruction that names where it goes on. -/
def State.afterAt (s : State) (k : Slot) (pc : Word) : State := s.completeAt s.cur { k with pc := pc }
/-- No stream port of the slot is bound. -/
abbrev Slot.unbound (k : Slot) : Prop := k.ports[0].bound = false ∧ k.ports[1].bound = false ∧ k.ports[2].bound = false
/-- Every w register named is valid. -/
abbrev Slot.valid (k : Slot) (rs : List WReg) : Prop := ∀ r ∈ rs, k.wValid r = true
/-- Bytes of a bank, within one granule, can be read and written now for an access of a device, by its number in the order of arrival: held, allocated, awake, not locked, not poisoned, with no earlier arrival in the way. -/
abbrev State.bankReady (s : State) (token vd b off size : Nat) : Prop :=
  off < 2 ^ 20 ∧ s.sramFault vd b off = none ∧ s.blocked token (.sram b off) = false ∧
    off % 64 + size ≤ 64 ∧ s.poison.contains (Place.sram b off).granule = false
/-- Bytes of the current slot's own bank can be read and written now. -/
abbrev State.ownReady (s : State) (off size : Nat) : Prop := s.bankReady s.me.ctx s.me.vd s.brick off size
/-- No slot sleeps on a condition that has come to hold (R97, R98). -/
def State.Prompt (s : State) : Prop :=
  ∀ kv ∈ s.slots, ∀ c, kv.2.mode = .parked (.cond c) → s.condOver kv.1 kv.2 c = false
/-- The state is in its one form: memory lists each byte once, in order, and none that reads as an unlisted one; sets and the maps of slots and devices list their keys once, in order. -/
abbrev State.Formed (s : State) : Prop :=
  Memory.wf s.mem = true ∧ s.fe.Pairwise (· < ·) ∧ s.remapping.Pairwise (· < ·) ∧ s.rowRepair.Pairwise (· < ·) ∧
    s.rolling.Pairwise (· < ·) ∧ (s.slots.map (·.1)).Pairwise (· < ·) ∧ (s.vds.map (·.1)).Pairwise (· < ·)

end Sys2Proof.Machine
end

