-- ==== Sys2Proof/Certificates/Slice0/Obligations.lean ====
section
/-!
DEFINITION. The statements for the provers. Each docstring names the rules of the spec that its statement formalises, and the log entries where it rests on the model's own choice.
-/
open Sys2Proof Sys2Proof.Machine

/-- Decoding the word of any instruction the spec admits gives that instruction, with every operand (R231 to R245). -/
def Obligations.DecodeInvertsEncode : Prop :=
  ∀ (i : Instr) (w : IWord), wellFormed i = true → encode i = some w → decode w = .ok i

/-- A word that decodes is the word of its instruction, which is well formed: no two words mean one instruction, and no unassigned bit is ignored (R246). -/
def Obligations.EncodeInvertsDecode : Prop :=
  ∀ (w : IWord) (i : Instr), decode w = .ok i → encode i = some w ∧ wellFormed i = true

/-- Words written out from the encodings of chapter 10. -/
def Obligations.SampleWordsDecode : Prop :=
  decode 0b0000001_0001_0010_0011_0000_000000000#32 = .ok (.add 1 2 3) ∧
  decode 0b0000001_0100_0101_0110_0111_001000000#32 = .ok (.sel 4 5 6 7) ∧
  decode 0b0100000_0011_0010_011_11111111111000#32 = .ok (.ld .w 3 2 0x3FF8#14) ∧
  decode 0b1000000_001_010_011_000_0000_01101_0000#32 = .ok (.wadd .f32 1 2 3) ∧
  decode 0b0011000_0001_0010_11111111111111111#32 = .ok (.beq 1 2 0x1FFFF#17) ∧
  decode 0b1011000_1111_0001_000000_00000000001#32 = .ok (.zld 15 1 1#11) ∧
  decode 0b0111100_0000_0000_0000_0000_000110000#32 = .ok .quit

/-- No word of an unassigned major decodes (R235), and the slot that would execute it takes the illegal-instruction trap with XVAL the word (R246). A turn whose word does not decode takes the illegal-instruction trap, with XVAL the word (R246). -/
def Obligations.UnassignedWordsTrap : Prop :=
  (∀ (w : IWord) (s : State),
      fMajor w = 0x00#7 ∨ (0x02#7 ≤ fMajor w ∧ fMajor w ≤ 0x07#7) ∨ (0x14#7 ≤ fMajor w ∧ fMajor w ≤ 0x16#7) ∨ fMajor w = 0x39#7 ∨
        fMajor w = 0x47#7 ∨ (0x5D#7 ≤ fMajor w ∧ fMajor w ≤ 0x5F#7) ∨ (0x64#7 ≤ fMajor w ∧ fMajor w ≤ 0x6F#7) ∨ 0x71#7 ≤ fMajor w →
      (∃ e, decode w = .error e) ∧
        exec (.illegalInstruction w) s = .next (s.trapAt s.cur .illegal (w.setWidth 64))) ∧
  (∀ (s s1 s2 t : State) (b n : Nat) (rest : List Move) (w : IWord) (e : DecodeError),
      s.agenda = .turn b n :: rest →
      s1 = { ({ s with agenda := rest }.reachTurn b (n % 8)) with cur := 8 * b + n % 8 } →
      s1.canIssue s1.cur = true → s1.me.frame.running = false →
      s1.fetchReady s1.cur s1.me.pc = (s2, none) → s2.me = s1.me →
      s2.fetch s2.cur s2.me.pc = .word w t → decode w = .error e →
      step s = .next ((t.trapAt t.cur .illegal (w.setWidth 64)).passed s1.cur s1.me.ctx).settle)

/-- A turn of a slot that may issue fetches at its PC, and the step is what exec does with the instruction decoded, then the end of the turn and of the step (R97, R229). A slot in a running frame executes the word of the capture buffer at POS, staggered, and fetches nothing (R162, R163). A slot that may not issue loses its turn: time passes and nothing else happens before the end of the step (R97). That a turn is one step, taken in the order of the agenda, is the model’s (log entries 1 and 16). -/
def Obligations.StepsRunWords : Prop :=
  (∀ (s s1 s2 t : State) (b n : Nat) (rest : List Move) (w : IWord) (i : Instr),
      s.agenda = .turn b n :: rest →
      s1 = { ({ s with agenda := rest }.reachTurn b (n % 8)) with cur := 8 * b + n % 8 } →
      s1.canIssue s1.cur = true → s1.me.frame.running = false →
      s1.fetchReady s1.cur s1.me.pc = (s2, none) → s2.me = s1.me →
      s2.fetch s2.cur s2.me.pc = .word w t → decode w = .ok i →
      step s = settled (turned s1.cur s1.me.ctx (exec i t))) ∧
  (∀ (s s1 : State) (b n : Nat) (rest : List Move) (w : IWord) (i : Instr),
      s.agenda = .turn b n :: rest →
      s1 = { ({ s with agenda := rest }.reachTurn b (n % 8)) with cur := 8 * b + n % 8 } →
      s1.canIssue s1.cur = true →
      s1.me.frame.running = true → s1.me.frame.body[s1.me.frame.pos]? = some w → decode w = .ok i →
      step s = settled (turned s1.cur s1.me.ctx (exec (stagger (s1.me.frame.iter * s1.me.frame.stag) i) s1))) ∧
  (∀ (s s1 : State) (b n : Nat) (rest : List Move),
      s.agenda = .turn b n :: rest → s1 = { s with agenda := rest }.reachTurn b (n % 8) →
      s1.canIssue (8 * b + n % 8) = false → step s = .next s1.settle)

/-- After every step, from any state in which no slot oversleeps, no slot does (R97, R98). That waits end at the end of the step that ends them is the model’s (log entry 62). -/
def Obligations.EveryStepIsPrompt : Prop := ∀ s t : State, s.Prompt → step s = .next t → t.Prompt

/-- Every step keeps the form of the state: memory and the sets and maps over it hold each key once, in order. The form is the model’s own; the statements that read memory back take it as a premise. -/
def Obligations.EveryStepKeepsTheForm : Prop := ∀ s t : State, s.Formed → step s = .next t → t.Formed

/-- No slot oversleeps at reset. The state after reset is in its one form. The state after reset: all memory of the device reads zero, time stands at zero, nothing runs, the boot hardware waits in the ROM, islands are dark, queues are disabled with their counts at 1, and hash masks are all ones (R22, R23, R43, R123, Table 1.7). That bytes of host memory read zero is the model’s (log entry 10). -/
def Obligations.ResetLeaves : Prop :=
  (State.reset.Prompt) ∧
  (State.reset.Formed) ∧
  (
    let s := State.reset
    (∀ a, Mem.read s.mem a = Mem.blank) ∧ s.cycle = 0 ∧ s.devTime = 0 ∧ s.slots = [] ∧ s.vds = [] ∧ s.owner = [] ∧ s.keys = [] ∧
    s.windows = [] ∧ s.fe = [] ∧ s.poison = [] ∧ s.boot.stage = 0 ∧ s.boot.errcode = 0 ∧ s.boot.img = 0 ∧
    (∀ x, s.hashMask x = 0xFFFFFFFFFFFF#64) ∧ (∀ i, (s.island i).state = .off) ∧ (∀ p, s.pchState p = .active) ∧
    (∀ f, (s.hostFun f).en = false ∧ (s.hostFun f).err = 0 ∧ (s.hostFun f).reqCount = 1 ∧ (s.hostFun f).rspCount = 1) ∧
    (∀ key, s.slotAt key = Slot.empty) ∧ Memory.wf s.mem = true)

/-- No instruction and no event stops the machine: each exception is taken, each open value is free. That an event not due changes nothing is the model’s (log entry 2). -/
def Obligations.EveryMeaningAnswers : Prop := ∀ (i : Instr) (s : State), Answers (exec i s)

/-- Arithmetic, logic, minimum and maximum, moves: the destination takes the value and the instruction completes (R259, R261, R262). Shifts by a register use its low six bits; a rotate keeps every bit (R259). The high halves of products: with the low half they make the exact product (R259). CLZ, CTZ and POPC count what they name (R261). EXT, INS and LUI move the field bit by bit (R263, R264). -/
def Obligations.ScalarResults : Prop :=
  (∀ (s : State) (d a b : GReg) (n : BitVec 17),
      let x := s.me.getG a
      let y := s.me.getG b
      let to' := fun v => Host.Outcome.next (s.after (s.me.setG d v))
      exec (.add d a b) s = to' (x + y) ∧ exec (.sub d a b) s = to' (x - y) ∧ exec (.mul d a b) s = to' (x * y) ∧
      exec (.and d a b) s = to' (x &&& y) ∧ exec (.or d a b) s = to' (x ||| y) ∧ exec (.xor d a b) s = to' (x ^^^ y) ∧
      exec (.andn d a b) s = to' (x &&& ~~~y) ∧ exec (.mov d a) s = to' x ∧ exec (.movImm d n) s = to' (n.signExtend 64) ∧
      exec (.addImm d a n) s = to' (x + n.signExtend 64) ∧ exec (.andImm d a n) s = to' (x &&& n.signExtend 64) ∧
      exec (.orImm d a n) s = to' (x ||| n.signExtend 64) ∧ exec (.xorImm d a n) s = to' (x ^^^ n.signExtend 64) ∧
      exec (.minI64 d a b) s = to' (if y.toInt < x.toInt then y else x) ∧
      exec (.maxI64 d a b) s = to' (if x.toInt < y.toInt then y else x) ∧
      exec (.minN64 d a b) s = to' (if y.toNat < x.toNat then y else x) ∧
      exec (.maxN64 d a b) s = to' (if x.toNat < y.toNat then y else x)) ∧
  (∀ (s : State) (d a b : GReg) (n : BitVec 6),
      let x := s.me.getG a
      let c := (s.me.getG b).toNat % 64
      let to' := fun v => Host.Outcome.next (s.after (s.me.setG d v))
      exec (.shl d a b) s = to' (x <<< c) ∧ exec (.shr d a b) s = to' (x >>> c) ∧ exec (.sra d a b) s = to' (x.sshiftRight c) ∧
      exec (.rol d a b) s = to' (x.rotateLeft c) ∧ exec (.shlImm d a n) s = to' (x <<< n.toNat) ∧
      exec (.shrImm d a n) s = to' (x >>> n.toNat) ∧ exec (.sraImm d a n) s = to' (x.sshiftRight n.toNat)) ∧
  (∀ (s : State) (d a b : GReg),
      let x := s.me.getG a
      let y := s.me.getG b
      (∃ v : Word, exec (.mulhI64 d a b) s = .next (s.after (s.me.setG d v)) ∧
        v.toInt * 2 ^ 64 + (x * y).toNat = x.toInt * y.toInt) ∧
      (∃ v : Word, exec (.mulhN64 d a b) s = .next (s.after (s.me.setG d v)) ∧
        v.toNat * 2 ^ 64 + (x * y).toNat = x.toNat * y.toNat)) ∧
  (∀ (s : State) (d a : GReg),
      let x := s.me.getG a
      (∃ n : Nat, n ≤ 64 ∧ exec (.clz d a) s = .next (s.after (s.me.setG d (BitVec.ofNat 64 n))) ∧
        (∀ j, 64 - n ≤ j → x.getLsbD j = false) ∧ (n < 64 → x.getLsbD (63 - n) = true)) ∧
      (∃ n : Nat, n ≤ 64 ∧ exec (.ctz d a) s = .next (s.after (s.me.setG d (BitVec.ofNat 64 n))) ∧
        (∀ j, j < n → x.getLsbD j = false) ∧ (n < 64 → x.getLsbD n = true)) ∧
      exec (.popc d a) s = .next (s.after (s.me.setG d (BitVec.ofNat 64 ((List.range 64).countP fun j => x.getLsbD j))))) ∧
  (∀ (s : State) (d a : GReg) (w p : BitVec 6) (c : BitVec 2) (h : BitVec 16),
      p.toNat + w.toNat + 1 ≤ 64 →
      let x := s.me.getG a
      let y := s.me.getG d
      let n := w.toNat + 1
      (∃ v : Word, exec (.extN64 d a w p) s = .next (s.after (s.me.setG d v)) ∧
        ∀ j, j < 64 → v.getLsbD j = (decide (j < n) && x.getLsbD (p.toNat + j))) ∧
      (∃ v : Word, exec (.extI64 d a w p) s = .next (s.after (s.me.setG d v)) ∧
        ∀ j, j < 64 → v.getLsbD j = x.getLsbD (p.toNat + min j w.toNat)) ∧
      (∃ v : Word, exec (.ins d a w p) s = .next (s.after (s.me.setG d v)) ∧
        ∀ j, j < 64 → v.getLsbD j =
          if p.toNat ≤ j ∧ j < p.toNat + n then x.getLsbD (j - p.toNat) else y.getLsbD j) ∧
      (∃ v : Word, exec (.lui d c h) s = .next (s.after (s.me.setG d v)) ∧
        ∀ j, j < 64 → v.getLsbD j = if j / 16 = c.toNat then h.getLsbD (j % 16) else y.getLsbD j))

/-- Compares write 1 when their relation holds and 0 when it does not; SEL tests its third source for nonzero and is the only instruction of major 0x01 whose sc field is in use (R265, R266). -/
def Obligations.ComparesAndSelect : Prop :=
  ∀ (s : State) (d a b c : GReg),
    let x := s.me.getG a
    let y := s.me.getG b
    let to' := fun (v : Word) => Host.Outcome.next (s.after (s.me.setG d v))
    let word := fun (sc fn : Nat) =>
      some (BitVec.ofNat 32 (0x01 * 2 ^ 25 + d.val * 2 ^ 21 + a.val * 2 ^ 17 + b.val * 2 ^ 13 + sc * 2 ^ 9 + fn))
    exec (.ceq d a b) s = to' (if x = y then 1 else 0) ∧ exec (.cne d a b) s = to' (if x = y then 0 else 1) ∧
    exec (.cltI64 d a b) s = to' (if x.toInt < y.toInt then 1 else 0) ∧
    exec (.cltN64 d a b) s = to' (if x.toNat < y.toNat then 1 else 0) ∧
    exec (.cleI64 d a b) s = to' (if x.toInt ≤ y.toInt then 1 else 0) ∧
    exec (.cleN64 d a b) s = to' (if x.toNat ≤ y.toNat then 1 else 0) ∧
    exec (.sel d a b c) s = to' (if s.me.getG c ≠ 0 then x else y) ∧
    encode (.ceq d a b) = word 0 0x050 ∧ encode (.cne d a b) = word 0 0x051 ∧ encode (.cltI64 d a b) = word 0 0x052 ∧
    encode (.cltN64 d a b) = word 0 0x053 ∧ encode (.cleI64 d a b) = word 0 0x054 ∧ encode (.cleN64 d a b) = word 0 0x055 ∧
    encode (.sel d a b c) = word c.val 0x040 ∧
    ∀ (w : IWord) (i : Instr), decode w = .ok i → fMajor w = 0x01#7 → fC w ≠ 0 → ∃ e f g h, i = .sel e f g h

/-- Natural division: quotient and remainder of Euclid, and for divisor 0 all ones and the dividend (R260). Signed division truncates toward zero and the remainder has the dividend's sign; divisor 0 gives -1 and the dividend; the one overflow wraps (R260). -/
def Obligations.DivisionAndRemainder : Prop :=
  (∀ (s : State) (d a b : GReg),
      let x := s.me.getG a
      let y := s.me.getG b
      ∃ q r : Word, exec (.divN64 d a b) s = .next (s.after (s.me.setG d q)) ∧
        exec (.remN64 d a b) s = .next (s.after (s.me.setG d r)) ∧
        (y ≠ 0 → q.toNat * y.toNat + r.toNat = x.toNat ∧ r.toNat < y.toNat) ∧
        (y = 0 → q = BitVec.allOnes 64 ∧ r = x) ∧ x = y * q + r ∧
        encode (.divN64 d a b) = some (packA 0x01 d a b 0 0x014) ∧ encode (.remN64 d a b) = some (packA 0x01 d a b 0 0x016)) ∧
  (∀ (s : State) (d a b : GReg),
      let x := s.me.getG a
      let y := s.me.getG b
      ∃ q r : Word, exec (.divI64 d a b) s = .next (s.after (s.me.setG d q)) ∧
        exec (.remI64 d a b) s = .next (s.after (s.me.setG d r)) ∧
        (y ≠ 0 → ¬(x = BitVec.intMin 64 ∧ y = BitVec.allOnes 64) →
          q.toInt * y.toInt + r.toInt = x.toInt ∧ r.toInt.natAbs < y.toInt.natAbs ∧ (r.toInt = 0 ∨ (r.toInt < 0 ↔ x.toInt < 0))) ∧
        (x = BitVec.intMin 64 → y = BitVec.allOnes 64 → q = x ∧ r = 0) ∧
        (y = 0 → q = BitVec.allOnes 64 ∧ r = x) ∧ x = y * q + r ∧
        encode (.divI64 d a b) = some (packA 0x01 d a b 0 0x013) ∧ encode (.remI64 d a b) = some (packA 0x01 d a b 0 0x015))

/-- What completing an instruction leaves alone: memory, every other slot, every virtual device, and of its own slot all but what the instruction names (R229). Writing a g, w or z register changes that register alone, and marks a w or z register valid; no register is hard-wired (R150, R257). -/
def Obligations.Frames : Prop :=
  (∀ (s t : State) (k : Slot),
      s.me.stepDue = false → t = s.after k →
      (∀ a, Mem.read t.mem a = Mem.read s.mem a) ∧ t.fe = s.fe ∧ t.vds = s.vds ∧ t.msgs = s.msgs ∧ t.barriers = s.barriers ∧
      (∀ key, key ≠ s.cur → t.slotAt key = s.slotAt key) ∧
      t.me.g = k.g ∧ t.me.w = k.w ∧ t.me.z = k.z ∧ t.me.wv = k.wv ∧ t.me.zv = k.zv ∧ t.me.level = k.level ∧ t.me.plevel = k.plevel ∧
      t.me.space = k.space ∧ t.me.xpc = k.xpc ∧ t.me.xcause = k.xcause ∧ t.me.xval = k.xval ∧ t.me.ports = k.ports ∧
      t.me.sb = k.sb ∧ t.me.ackcnt = k.ackcnt ∧ t.me.wakeat = k.wakeat ∧ t.me.tkt = k.tkt ∧ t.me.mqval = k.mqval ∧
      t.me.inbox = k.inbox ∧ t.me.resv = k.resv ∧ t.me.ringq = k.ringq) ∧
  (∀ (k : Slot) (d r : GReg) (a b : WReg) (y z : ZReg) (v : Word) (l : Line),
      (k.setG d v).getG d = v ∧ (r ≠ d → (k.setG d v).getG r = k.getG r) ∧ k.setG d v = { k with g := (k.setG d v).g } ∧
      (k.setW a l).w[a] = l ∧ (k.setW a l).wValid a = true ∧
      (b ≠ a → (k.setW a l).w[b] = k.w[b] ∧ (k.setW a l).wValid b = k.wValid b) ∧
      k.setW a l = { k with w := (k.setW a l).w, wv := (k.setW a l).wv } ∧
      (k.setZ y l).z[y] = l ∧ (k.setZ y l).zValid y = true ∧
      (z ≠ y → (k.setZ y l).z[z] = k.z[z] ∧ (k.setZ y l).zValid z = k.zValid z) ∧
      k.setZ y l = { k with z := (k.setZ y l).z, zv := (k.setZ y l).zv })

/-- Branches, JAL and JALR: the PC that follows, the link, and that JALR reads its target before the link is written (R267, R268, R269). -/
def Obligations.BranchesAndJumps : Prop :=
  ∀ (s : State) (d a b : GReg) (o : BitVec 17) (j : BitVec 21),
    let k := s.me
    let x := k.getG a
    let y := k.getG b
    let go := fun (c : Bool) => Host.Outcome.next (s.afterAt k (if c then k.pc + 4 * o.signExtend 64 else k.pc + 4))
    exec (.beq a b o) s = go (decide (x = y)) ∧ exec (.bne a b o) s = go (decide (x ≠ y)) ∧
    exec (.bltI64 a b o) s = go (decide (x.toInt < y.toInt)) ∧ exec (.bgeI64 a b o) s = go (decide (y.toInt ≤ x.toInt)) ∧
    exec (.bltN64 a b o) s = go (decide (x.toNat < y.toNat)) ∧ exec (.bgeN64 a b o) s = go (decide (y.toNat ≤ x.toNat)) ∧
    exec (.jal d j) s = .next (s.afterAt (k.setG d (k.pc + 4)) (k.pc + 4 * j.signExtend 64)) ∧
    exec (.jalr d a o) s = .next (s.afterAt (k.setG d (k.pc + 4)) (x + o.signExtend 64)) ∧
    encode (.beq a b o) = some (packI 0x18 a b o.toNat) ∧ encode (.bne a b o) = some (packI 0x19 a b o.toNat) ∧
    encode (.bltI64 a b o) = some (packI 0x1A a b o.toNat) ∧ encode (.bgeI64 a b o) = some (packI 0x1B a b o.toNat) ∧
    encode (.bltN64 a b o) = some (packI 0x1C a b o.toNat) ∧ encode (.bgeN64 a b o) = some (packI 0x1D a b o.toNat) ∧
    encode (.jal d j) = some (packJ 0x1E d.val j.toNat) ∧ encode (.jalr d a o) = some (packI 0x1F d a o.toNat)

/-- Taking a trap with XVEC set: XPC, XCAUSE and XVAL are written, PLEVEL takes LEVEL, LEVEL becomes handler and PC becomes XVEC; every g, w and z register, memory and every other slot keep their values (R174, R351). With XVEC zero a trap ends the thread and delivers its context: its fault domain is notified with DELIVERED set (R351, R377). With SSTEP set, an instruction that completes at task level is followed by a single-step trap before the next: XPC holds the next PC, XVAL the address of the instruction (R149). -/
def Obligations.TakingTraps : Prop :=
  (∀ (s t : State) (c : Cause) (x : Word) (v : VDev),
      s.vd? s.me.vd = some v → v.xvec ≠ 0 → t = s.trapAt s.cur c x →
      t.me.xpc = s.me.pc ∧ t.me.xcause = BitVec.ofNat 16 c.code ∧ t.me.xval = x ∧ t.me.plevel = s.me.level ∧
      t.me.level = .handler ∧ t.me.pc = v.xvec ∧ t.me.mode = .ready ∧ t.me.g = s.me.g ∧ t.me.w = s.me.w ∧ t.me.z = s.me.z ∧
      t.me.wv = s.me.wv ∧ t.me.zv = s.me.zv ∧ t.me.space = s.me.space ∧ t.me.ports = s.me.ports ∧ t.me.sb = s.me.sb ∧
      t.me.frame.active = s.me.frame.active ∧ t.me.frame.running = false ∧
      (∀ a, Mem.read t.mem a = Mem.read s.mem a) ∧ (∀ key, key ≠ s.cur → t.slotAt key = s.slotAt key) ∧ t.vds = s.vds) ∧
  (∀ (s : State) (c : Cause) (x : Word) (v : VDev),
      s.vd? s.me.vd = some v → v.xvec = 0 →
      s.trapAt s.cur c x = (s.endThread s.cur).notify s.me.vd s.me.region (c.code + 2 ^ 14) x (wrap s.cur)) ∧
  (∀ (s t : State) (k : Slot) (v : VDev),
      s.me.sstep = true → s.me.level = .task → k.vd = s.me.vd → s.vd? s.me.vd = some v → v.xvec ≠ 0 → t = s.after k →
      t.me.xpc = k.advance.pc ∧ t.me.xval = s.me.pc ∧ t.me.xcause = 0x000A#16 ∧ t.me.pc = v.xvec ∧ t.me.level = .handler ∧
      t.me.plevel = k.level ∧ t.me.g = k.g ∧ t.mem = s.mem)

/-- RPT outside a frame, over a body whose words may all stand in one, captures them and starts the frame at the first; the capture buffer's words beyond the body keep what they held (R271, R272). Within a frame the PC and POS move on together; after the last word the next repetition starts at the first; after the last repetition the frame is over and the PC stands behind the body (R162, R272). XRET at handler level restores LEVEL from PLEVEL, clears PLEVEL and goes to XPC, or back into a frame that is still active (R353). -/
def Obligations.RepeatFramesAndReturns : Prop :=
  (∀ (s t : State) (l : BitVec 4) (st : BitVec 3) (n : BitVec 12) (ws : List IWord),
      s.me.frame.active = false → s.captureBody (s.me.pc + 4) (l.toNat + 1) = .ok (ws, t) → t.me = s.me →
      exec (.rpt l st n) s = .next (t.afterAt
        { s.me with frame := ⟨true, true, s.me.pc + 4, 0, 0, l.toNat, n.toNat, st.toNat, ws ++ s.me.frame.body.drop ws.length⟩ }
        (s.me.pc + 4))) ∧
  (∀ k : Slot, k.frame.running = true →
      (k.frame.pos < k.frame.lenm1 → k.advance.pc = k.pc + 4 ∧ k.advance.frame = { k.frame with pos := k.frame.pos + 1 }) ∧
      (¬k.frame.pos < k.frame.lenm1 → k.frame.iter < k.frame.cntm1 →
        k.advance.pc = k.frame.base ∧ k.advance.frame = { k.frame with pos := 0, iter := k.frame.iter + 1 }) ∧
      (¬k.frame.pos < k.frame.lenm1 → ¬k.frame.iter < k.frame.cntm1 →
        k.advance.pc = k.pc + 4 ∧ k.advance.frame.active = false ∧ k.advance.frame.running = false)) ∧
  (∀ s : State, s.me.level = .handler →
      exec .xret s = .next (s.setSlot s.cur { s.me.leave with mode := .ready, req := none, descr := none, haltAsked := s.me.haltAsked || s.me.debugStep }) ∧
      s.me.leave.level = s.me.plevel ∧ s.me.leave.plevel = .task ∧
      (s.me.frame.active = false → s.me.leave.pc = s.me.xpc ∧ s.me.leave.frame = s.me.frame) ∧
      (s.me.frame.active = true → s.me.leave.frame.running = true ∧ s.me.leave.pc = s.me.frame.base + 4 * wrap s.me.frame.pos))

/-- Two-source integer lanes: each lane of the destination is made from the same lane of the sources, at every integer format (R306, R309). -/
def Obligations.WideIntegerLanes : Prop :=
  ∀ (s : State) (f : Elt) (d a b : WReg), f.isInt = true → s.me.unbound → s.me.valid [a, b] →
    let e := eltBits f
    let is := fun (i : Instr) (op : Nat → Nat → Nat) => ∃ v : Line, exec i s = .next (s.after (s.me.setW d v)) ∧
      ∀ j, j < 512 / e → lane v e j = op (lane s.me.w[a] e j) (lane s.me.w[b] e j)
    let n := fun x => intValue (eltSigned f) e x
    let lo := if eltSigned f then -(2 ^ (e - 1) : Int) else 0
    let hi := if eltSigned f then (2 ^ (e - 1) : Int) - 1 else (2 ^ e : Int) - 1
    let sat := fun (x : Int) => (max lo (min hi x) % (2 ^ e : Int)).toNat
    is (.wadd f d a b) (fun x y => (x + y) % 2 ^ e) ∧ is (.wsub f d a b) (fun x y => (x + 2 ^ e - y) % 2 ^ e) ∧
    is (.wmul f d a b) (fun x y => x * y % 2 ^ e) ∧ is (.wand f d a b) (· &&& ·) ∧ is (.wor f d a b) (· ||| ·) ∧
    is (.wxor f d a b) (· ^^^ ·) ∧ is (.wshl f d a b) (fun x y => x * 2 ^ (y % e) % 2 ^ e) ∧
    is (.wshr f d a b) (fun x y => x / 2 ^ (y % e)) ∧
    is (.wsra f d a b) (fun x y => (n x / (2 ^ (y % e) : Int) % (2 ^ e : Int)).toNat) ∧
    is (.wmin f d a b) (fun x y => if n y < n x then y else x) ∧ is (.wmax f d a b) (fun x y => if n x < n y then y else x) ∧
    is (.waddSat f d a b) (fun x y => sat (n x + n y)) ∧ is (.wsubSat f d a b) (fun x y => sat (n x - n y)) ∧
    is (.wabs f d a) (fun x _ => ((n x).natAbs : Int) % (2 ^ e : Int) |>.toNat)

/-- Floating lanes: the exact result rounded once to nearest even, the lesser and the greater, the magnitude, and the four fused forms (R309, R310). Special functions complete, each lane made from the same lane of the source; and values that chapter 14 fixes: exp 0, log 1, tanh 0, the sigmoid of 0, and reciprocals (R313). WCVT converts the elements that fit both lines, in order, and leaves zero above them; with block scales, each element has the scale of its block, and a word whose other format is a pivot as well is the word with the two exchanged (R242, R316 to R318). -/
def Obligations.WideFloatLanes : Prop :=
  (∀ (s : State) (f : Elt) (x : FloatFmt) (d a b c : WReg), eltFloat f = some x → s.me.unbound → s.me.valid [a, b, c] →
      let e := eltBits f
      let is := fun (i : Instr) (op : Nat → Nat → Nat → Nat) => exec i s = .next (s.after (s.me.setW d
        (allLanes e fun j => op (lane s.me.w[a] e j) (lane s.me.w[b] e j) (lane s.me.w[c] e j))))
      let v := x.value
      is (.wadd f d a b) (fun p q _ => x.rne ((v p).add (v q))) ∧ is (.wsub f d a b) (fun p q _ => x.rne ((v p).add (v q).negate)) ∧
      is (.wmul f d a b) (fun p q _ => x.rne ((v p).mul (v q))) ∧ is (.wmin f d a b) (fun p q _ => minFloat x p q) ∧
      is (.wmax f d a b) (fun p q _ => maxFloat x p q) ∧
      is (.wabs f d a) (fun p _ _ => if v p = .nan then x.nan else p % 2 ^ (e - 1)) ∧
      is (.wfma f d a b c) (fun p q r => x.rne (((v p).mul (v q)).add (v r))) ∧
      is (.wfms f d a b c) (fun p q r => x.rne (((v p).mul (v q)).add (v r).negate)) ∧
      is (.wfnma f d a b c) (fun p q r => x.rne (((v p).mul (v q)).negate.add (v r))) ∧
      is (.wfnms f d a b c) (fun p q r => x.rne (((v p).mul (v q)).negate.add (v r).negate))) ∧
  ((∀ (s : State) (f : Elt) (x : FloatFmt) (d a : WReg), eltFloat f = some x → s.me.unbound → s.me.valid [a] →
      let is := fun (i : Instr) (o : Special) => exec i s = .next (s.after (s.me.setW d (map1 (eltBits f) (o.apply x) s.me.w[a])))
      is (.wsig f d a) .sig ∧ is (.wexp f d a) .exp ∧ is (.wrcp f d a) .rcp ∧ is (.wrsq f d a) .rsq ∧ is (.wtanh f d a) .tanh ∧
      is (.wlog f d a) .log) ∧
    Special.exp.apply fp32 0 = 0x3F800000 ∧ Special.log.apply fp32 0x3F800000 = 0 ∧ Special.tanh.apply fp32 0 = 0 ∧
    Special.sig.apply fp32 0 = 0x3F000000 ∧ Special.rcp.apply fp32 0x40000000 = 0x3F000000 ∧
    Special.rsq.apply fp32 0x40800000 = 0x3F000000 ∧ Special.rcp.apply fp32 0 = 0x7F800000) ∧
  (∀ (s : State) (up sat : Bool) (pv : Pivot) (f : Fmt) (r : Rnd) (d a : WReg) (g : GReg), s.me.unbound → s.me.valid [a] →
      let src := if up then fmtKind f else pivotKind pv
      let dst := if up then pivotKind pv else fmtKind f
      let n := 512 / max src.bits dst.bits
      (∃ v : Line, exec (.wcvt up pv f sat r d a) s = .next (s.after (s.me.setW d v)) ∧
        (∀ j, j < n → lane v dst.bits j = cvtElt src dst sat r none (lane s.me.w[a] src.bits j) % 2 ^ dst.bits) ∧
        ∀ i, n * dst.bits ≤ i → v.getLsbD i = false) ∧
      (∃ v : Line, exec (.wcvtScaled up pv f sat r d a g) s = .next (s.after (s.me.setW d v)) ∧
        (∀ j, j < n → lane v dst.bits j = cvtElt src dst sat r (some (scaleOf (scalePivot up pv f) (s.me.getG g) j n))
          (lane s.me.w[a] src.bits j) % 2 ^ dst.bits) ∧
        ∀ i, n * dst.bits ≤ i → v.getLsbD i = false) ∧
      ∀ q f', fmtPivot f = some q → fmtPivot f' = some pv →
        exec (.wcvtScaled true pv f sat r d a g) s = exec (.wcvtScaled false q f' sat r d a g) s)

/-- Lane compares give all ones or zero; WSEL tests each lane of its third source for a nonzero bit pattern; WPERM, WBCST and WMOV move lanes (R311, R312). An unbound w register that is not valid stops a wide instruction as its source: the stale trap, XVAL 0x100 plus its number (R150, R307). -/
def Obligations.WideComparesAndMoves : Prop :=
  (∀ (s : State) (f : Elt) (d a b c : WReg) (g : GReg), s.me.unbound → s.me.valid [a, b, c] →
      let e := eltBits f
      let x := fun j => lane s.me.w[a] e j
      let y := fun j => lane s.me.w[b] e j
      let z := fun j => lane s.me.w[c] e j
      let is := fun (i : Instr) (r : Nat → Nat) => ∃ v : Line, exec i s = .next (s.after (s.me.setW d v)) ∧
        ∀ j, j < 512 / e → lane v e j = r j
      let ones := 2 ^ e - 1
      is (.wclt f d a b) (fun j => if laneLt f (x j) (y j) then ones else 0) ∧
      is (.wceq f d a b) (fun j => if laneEq f (x j) (y j) then ones else 0) ∧
      is (.wcne f d a b) (fun j => if laneEq f (x j) (y j) then 0 else ones) ∧
      is (.wcle f d a b) (fun j => if laneLt f (x j) (y j) ∨ laneEq f (x j) (y j) then ones else 0) ∧
      is (.wsel f d a b c) (fun j => if z j ≠ 0 then x j else y j) ∧
      is (.wperm f d a b) (fun j => x (y j % (512 / e))) ∧ is (.wmov f d a) x ∧
      is (.wbcst f d g) (fun _ => (s.me.getG g).toNat % 2 ^ e)) ∧
  (∀ (s : State) (f : Elt) (d a : WReg), s.me.unbound → s.me.wValid a = false →
      exec (.wmov f d a) s = .next (s.trapAt s.cur .stale (wrap (0x100 + a.val))) ∧
      exec (.wabs f d a) s = .next (s.trapAt s.cur .stale (wrap (0x100 + a.val))) ∧
      exec (.wredSum f (Fin.ofNat 16 d.val) a) s = .next (s.trapAt s.cur .stale (wrap (0x100 + a.val))))

/-- Reductions of integer lanes: the exact sum modulo 2 ^ 64, the least and the greatest lane, extended by the format's sign; and of any format, completion with the value (R315). WDOT: each lane takes its accumulator plus the exact sum of its products, wrapped or clamped once (R314, R226). -/
def Obligations.WideReductionsAndDots : Prop :=
  (∀ (s : State) (f : Elt) (g : GReg) (a : WReg), s.me.unbound → s.me.valid [a] →
      let e := eltBits f
      let l := fun j => intValue (eltSigned f) e (lane s.me.w[a] e j)
      exec (.wredSum f g a) s = .next (s.after (s.me.setG g (redSum f s.me.w[a]))) ∧
      exec (.wredMin f g a) s = .next (s.after (s.me.setG g (redBy .min f s.me.w[a]))) ∧
      exec (.wredMax f g a) s = .next (s.after (s.me.setG g (redBy .max f s.me.w[a]))) ∧
      (f.isInt = true →
        redSum f s.me.w[a] = BitVec.ofInt 64 (((List.range (512 / e)).map l).sum) ∧
        (∃ j, j < 512 / e ∧ redBy .min f s.me.w[a] = BitVec.ofInt 64 (l j) ∧ ∀ m, m < 512 / e → l j ≤ l m) ∧
        (∃ j, j < 512 / e ∧ redBy .max f s.me.w[a] = BitVec.ofInt 64 (l j) ∧ ∀ m, m < 512 / e → l m ≤ l j))) ∧
  (∀ (s : State) (f : DotLane) (sat : Bool) (p : Pairing) (d a b c : WReg), s.me.unbound → s.me.valid [a, b, c] →
      let w := (dotLane f).2
      let e := (pairingOf p).2.2
      ∃ v : Line, exec (.wdot f sat p d a b c) s = .next (s.after (s.me.setW d v)) ∧
        ∀ j, j < 512 / w → lane v w j = intNarrow sat (dotLane f).1 w
          (intValue (dotLane f).1 w (lane s.me.w[c] w j) + ((List.range (w / e)).map fun i =>
            intValue (pairingOf p).1 e (lane s.me.w[a] e (w / e * j + i)) *
              intValue (pairingOf p).2.1 e (lane s.me.w[b] e (w / e * j + i))).sum))

/-- A number that FP32, FP16, BF16 or a binary8 format represents converts to its own code, whatever the rounding mode: rounding is exact on representable values (R218, R219, R220). -/
def Obligations.RepresentableValuesAreExact : Prop :=
  ∀ (x : FloatFmt) (r : Rnd) (sat : Bool) (c : Nat), (x = fp32 ∨ x = fp16 ∨ x = bf16 ∨ ∃ b : Bin8, x = bin8 b) → c < 2 ^ x.width →
    (∃ n m e, x.value c = .fin n m e) → x.convert r sat (x.value c) = c

/-- A pop of port 0 by w5, or of port 1 by w6, of a line in the own bank that nothing holds back: the source is the first VL bytes of the line, ADDR moves by STRIDE and REM falls by VL (R157, R158). A pop of a queue-fed port takes the line when the line’s word 0 is full and leaves the word empty, its bytes as they were; while the word is empty the slot parks with nothing popped, in the order of the word’s waiters (R160, R161). A push on port 2 by w7 puts its VL bytes into the store buffer, at ADDR, which moves by STRIDE, while REM falls by VL; w7 and memory keep their values (R157, R158). ZSET and ZGET replace and read word w of a valid z register (R325); SBIND with bit 0 clear unbinds its port and makes its w register invalid (R320). That a pop of the own bank completes in its own step is the model’s (log entry 15). -/
def Obligations.StreamsAndZWords : Prop :=
  (∀ (s : State) (f : Elt) (d : WReg) (p : Fin 3), d.val < 5 → p ≠ 2 →
      let x := s.me.ports[p]
      x.bound = true → x.queueFed = false → x.rem ≠ 0 → x.ahead = [] → x.addr.toNat % 64 = 0 → s.ownReady x.addr.toNat 64 →
      s.answers = [] → s.forward s.me s.brick (.sram s.brick x.addr.toNat) x.addr 64 = .clear →
      ∃ (t : State) (k : Slot) (v : Line), exec (.wmov f d (portReg p)) s = .next (t.after (k.setW d v)) ∧ t.cur = s.cur ∧
        t.mem = s.mem ∧ k.g = s.me.g ∧ k.z = s.me.z ∧ k.ports[p].addr = x.addr + x.stride.signExtend 64 ∧
        k.ports[p].rem.toNat = x.rem.toNat - min 64 x.rem.toNat ∧
        v = bytesLine ((Mem.readBytes s.mem (bankAddr s.brick x.addr.toNat) 64).take (min 64 x.rem.toNat))) ∧
  (∀ (s : State) (f : Elt) (d : WReg) (p : Fin 3), d.val < 5 → p ≠ 2 →
      let x := s.me.ports[p]
      let pl := Place.sram s.brick x.addr.toNat
      x.bound = true → x.queueFed = true → x.rem ≠ 0 → x.addr.toNat % 64 = 0 → s.ownReady x.addr.toNat 64 → s.answers = [] →
      s.forward s.me s.brick pl x.addr 64 = .clear →
      (s.feBit pl = true → s.fe.Pairwise (· < ·) → (∀ kv ∈ s.feq, kv.1 = pl.key → ∀ c ∈ kv.2, c = s.me.ctx) →
        ∃ (t : State) (k : Slot) (v : Line), exec (.wmov f d (portReg p)) s = .next (t.after (k.setW d v)) ∧ t.cur = s.cur ∧
          t.mem = s.mem ∧ t.feBit pl = false ∧ k.ports[p].addr = x.addr + x.stride.signExtend 64 ∧
          k.ports[p].rem.toNat = x.rem.toNat - min 64 x.rem.toNat ∧
          v = bytesLine ((Mem.readBytes s.mem (bankAddr s.brick x.addr.toNat) 64).take (min 64 x.rem.toNat))) ∧
      (s.feBit pl = false →
        ∃ t : State, exec (.wmov f d (portReg p)) s = .next t ∧ t.mem = s.mem ∧ t.fe = s.fe ∧
          s.me.ctx ∈ KMap.getD t.feq pl.key [] ∧ t.me = { s.me with mode := .parked (.wordFull pl.key) })) ∧
  (∀ (s : State) (f : Elt) (a : WReg), a.val < 5 → s.me.wValid a = true →
      let x := s.me.ports[(2 : Fin 3)]
      x.bound = true → x.rem ≠ 0 → pushFault s.brick x = none → s.entryFree s.cur = true →
      ∃ (t : State) (k : Slot) (e : SbEntry), exec (.wmov f 7 a) s = .next (t.after k) ∧ t.cur = s.cur ∧ t.mem = s.mem ∧
        k.sb = s.me.sb ++ [e] ∧ e.ea = x.addr ∧ e.size = min 64 x.rem.toNat ∧ e.data = s.me.w[a] ∧ k.w = s.me.w ∧ k.g = s.me.g ∧
        k.ports[(2 : Fin 3)].addr = x.addr + x.stride.signExtend 64 ∧
        k.ports[(2 : Fin 3)].rem.toNat = x.rem.toNat - min 64 x.rem.toNat) ∧
  (∀ (s : State) (z : ZReg) (g : GReg) (w : BitVec 3) (p : Fin 3), s.me.zValid z = true →
      (∃ v : Line, exec (.zset z g w) s = .next (s.after (s.me.setZ z v)) ∧
        ∀ j, j < 8 → wordOf v j = if j = w.toNat then s.me.getG g else wordOf s.me.z[z] j) ∧
      exec (.zget z g w) s = .next (s.after (s.me.setG g (BitVec.ofNat 64 (s.me.z[z].toNat / 2 ^ (64 * w.toNat))))) ∧
      (descSound s.me.z[z] p = true → lbits s.me.z[z] 3 0 0 = 0 →
        ∃ k : Slot, exec (.sbind z p) s = .next (s.after k) ∧ k.ports[p].bound = false ∧ k.ports[p].rem = 0 ∧
          k.wv.getLsbD (5 + p.val) = false ∧ k.g = s.me.g ∧ k.w = s.me.w ∧ k.z = s.me.z) ∧
      (descSound s.me.z[z] p = true → lbits s.me.z[z] 3 0 0 = 1 → s.answers = [] →
        ∃ (t : State) (k : Slot), exec (.sbind z p) s = .next (t.after k) ∧ t.mem = s.mem ∧ t.slots = s.slots ∧ k.ports[p].bound = true ∧ k.ports[p].addr = wordOf s.me.z[z] 0 ∧
          k.ports[p].rem.toNat = lbits s.me.z[z] 2 39 0 ∧ k.g = s.me.g ∧ k.w = s.me.w ∧ k.z = s.me.z))

/-- A load of any form from the own bank that nothing holds back reads its bytes, lowest address first, and completes: small forms extend by their sign, a line fills a w register, ZLD a z register, LDR as LD.w; and one that an own buffered store covers takes the bytes of that store (R2, R155, R277, R279, R324). Sign extension of the small load forms (R277). A misaligned address traps with the alignment cause and XVAL the address, and one in no range with the address cause (R117, R118, R275). That an access of the own bank completes in its own step is the model’s (log entry 15). -/
def Obligations.LoadsOfTheOwnBank : Prop :=
  (∀ (s : State) (b r : GReg) (i : BitVec 14) (z : ZReg) (j : BitVec 11), s.answers = [] →
      let home := fun (a : Word) => Place.sram s.brick a.toNat
      let bytes := fun (a : Word) n => Mem.readBytes s.mem (bankAddr s.brick a.toNat) n
      let seen := fun (a : Word) => (s.touch (home a)).unstall s.me.ctx
      let fine := fun (a : Word) n => a.toNat % n = 0 ∧ s.ownReady a.toNat n ∧ s.forward s.me s.brick (home a) a n = .clear
      let ea := s.me.getG b + i.signExtend 64
      let el := s.me.getG b + 64 * j.signExtend 64
      (∀ m : LdMode, m ≠ .l → fine ea m.size → exec (.ld m r b i) s = .next ((seen ea).after
        ((seen ea).me.setG r (m.extend (BitVec.ofNat 64 (leNat (bytes ea m.size))))))) ∧
      (fine ea 8 → exec (.ldr r b i) s = .next ((seen ea).after
        ((seen ea).me.setG r (BitVec.ofNat 64 (leNat (bytes ea 8)))).dropAhead)) ∧
      (s.me.unbound → fine ea 64 → exec (.ld .l r b i) s = .next ((seen ea).after
        ((seen ea).me.setW (Fin.ofNat 8 r.val) (bytesLine (bytes ea 64))))) ∧
      (fine el 64 → exec (.zld z b j) s = .next ((seen el).after ((seen el).me.setZ z (bytesLine (bytes el 64))))) ∧
      (∀ (m : LdMode) (v : Line), m ≠ .l → ea.toNat % m.size = 0 → ea.toNat < 2 ^ 20 →
        s.forward s.me s.brick (home ea) ea m.size = .bytes v →
        exec (.ld m r b i) s = .next (s.after (s.me.setG r (m.extend (lowWord v)))))) ∧
  (∀ v : Word, LdMode.extend .bs v = (v.setWidth 8).signExtend 64 ∧ LdMode.extend .qs v = (v.setWidth 16).signExtend 64 ∧
      LdMode.extend .hs v = (v.setWidth 32).signExtend 64 ∧ LdMode.extend .b v = v ∧ LdMode.extend .w v = v) ∧
  (∀ (s : State) (b r : GReg) (i : BitVec 14) (m : LdMode) (n : StMode),
      (m = .l → s.me.unbound) → (n = .l → s.me.unbound ∧ s.me.wValid (Fin.ofNat 8 r.val) = true) →
      let ea := s.me.getG b + i.signExtend 64
      let reachable := (bankOf s.brick ea.toNat).isSome ∨ inVspace ea.toNat = true
      (reachable → ea.toNat % m.size ≠ 0 → exec (.ld m r b i) s = .next (s.trapAt s.cur .alignment ea)) ∧
      (reachable → ea.toNat % n.size ≠ 0 → exec (.st n r b i) s = .next (s.trapAt s.cur .alignment ea)) ∧
      (¬reachable → exec (.ld m r b i) s = .next (s.trapAt s.cur .address ea) ∧
        exec (.st n r b i) s = .next (s.trapAt s.cur .address ea)))

/-- A load of a place elsewhere, once its walk has been read, is sent and parks its slot, with memory and every other slot as the walk leaves them, which with sound media is as before; while a table of the walk cannot be read the slot waits for it (R21, R98). LOAD_AT_HOME serves a sent read at a home that can serve, be it a load, LDR, ZLD, the descriptor of an engine command or an acquire: the reply holds the bytes there, or the GEN of the window, no byte of memory changes, and the read leaves the order of arrival; where the home finds a fault the reply is that fault, with the address for XVAL (R21, R69, R81, R143, R340). REPLY_ARRIVE completes a parked load with the value of its reply in the register that it names: a load of each width, LDR, ZLD, a full/empty access, LRW, SCW, an atomic, a release or an acquire, which also drop what ports hold ahead; a descriptor goes to its engine command, which executes on (R98, R145, R276, R340). -/
def Obligations.RemoteLoads : Prop :=
  (∀ (s u : State) (b r : GReg) (i : BitVec 14) (z : ZReg) (j : BitVec 11) (p : Place) (win : Nat),
      let ea := s.me.getG b + i.signExtend 64
      let el := s.me.getG b + 64 * j.signExtend 64
      let walks := fun (a : Word) (n : Nat) (w : Option Place) => addrFault s.brick a n = none ∧ s.walk s.agent a = (u, w) ∧ u.me = s.me
      let v := fun (a : Word) => u.translated u.brick s.me.vd s.me.space s.me.level a .read
      let away := fun (a : Word) (n : Nat) => walks a n none ∧ u.resolve u.brick s.me.vd s.me.space s.me.level a .read = .ok p win ∧
        (v a).atHand p = false ∧ (v a).forward s.me u.brick p a n = .clear
      let parks := fun (i : Instr) (kind : ReqKind) (reg : Nat) => ∃ t : State, exec i s = .next t ∧ t.me.mode = .parked .reply ∧
        t.me.g = s.me.g ∧ t.me.pc = s.me.pc ∧ (t.me.req.map fun q => (q.kind, q.place, q.stage, q.reg)) = some (kind, p, .sent, reg) ∧
        t.mem = u.mem ∧ (∀ key, key ≠ u.cur → t.slotAt key = u.slotAt key) ∧ (s.answers = [] → u.mem = s.mem ∧ u.slots = s.slots)
      (∀ m : LdMode, (m = .l → s.me.unbound) → away ea m.size → parks (.ld m r b i) (.ld m) r.val) ∧
      (away ea 8 → parks (.ldr r b i) .ldr r.val) ∧ (away el 64 → parks (.zld z b j) .zld z.val) ∧
      ∀ (m : LdMode) (q : Place), m ≠ .l → walks ea m.size (some q) → exec (.ld m r b i) s =
        .next ((u.stallAt s.me.ctx q).modSlot u.cur fun k => { k with mode := .parked (.cond (.awake q ea)) })) ∧
  (∀ (s : State) (ctx n : Nat) (k : Slot) (q : Request),
      s.ctxOf ctx = some k → k.ctx = ctx → k.req = some q → q.stage = .sent → s.linkDown q.place = false → s.blocked ctx q.place = false →
      let answers := fun (u : State) (st : ReqStage) =>
        exec (.loadAtHome ctx .sound) s = .next ((u.modCtx ctx fun k => k.setStage st).unstall ctx)
      let reads := (∃ m : LdMode, q.kind = .ld m ∧ n = m.size) ∨ ((q.kind = .zld ∨ q.kind = .descr) ∧ n = 64) ∨ (q.kind = .ldr ∧ n = 8)
      (reads → s.homeFault k.vd q.win q.place n false false = none →
        answers (s.touch q.place) (.done (bytesLine (s.peek q.place n)))) ∧
      (∀ c, reads → s.closing q.place = false → s.homeFault k.vd q.win q.place n false false = some c → answers s (.failed c.code q.ea false)) ∧
      (q.kind = .wacq → s.closing q.place = false → s.genFault k.vd q.win q.place.key false = none →
        answers s (.done (lineOf (s.genOf q.win))))) ∧
  (∀ (s : State) (ctx key : Nat) (q : Request) (v : Line),
      s.keyOf ctx = some key → (s.slotAt key).mode = .parked .reply → (s.slotAt key).req = some q → q.stage = .done v →
      (s.slotAt key).cancelled = false →
      let k := s.slotAt key
      let gives := fun (k' : Slot) => exec (.replyArrive ctx) s = .next (s.completeAt key k'.advance)
      let toG := (k.setG (Fin.ofNat 16 q.reg) (lowWord v)).dropAhead
      (∀ m : LdMode, q.kind = .ld m → m ≠ .l → gives (k.setG (Fin.ofNat 16 q.reg) (m.extend (lowWord v)))) ∧
      (q.kind = .ld .l → k.replyPushes q = false → gives (k.setW (toW (Fin.ofNat 16 q.reg)) v)) ∧
      (q.kind = .zld → gives (k.setZ (Fin.ofNat 16 q.reg) v)) ∧
      (q.kind ∈ [ReqKind.ldr, .ldff, .ldfe, .lrw, .scw, .wrel, .wacq] → gives toG) ∧ (∀ o z, q.kind = .amo o z → gives toG) ∧
      (q.kind = .stef ∨ q.kind = .stff → gives k.dropAhead) ∧
      (q.kind = .descr → exec (.replyArrive ctx) s = .next (s.setSlot key { k with mode := .ready, req := none, descr := some v })))

/-- Stores of every form enter the store buffer at once and complete; memory does not change (R151, R278, R298, R324). With no entry free a store of a g register or of an immediate waits (R151). STORE_DEPART translates the oldest entry, once its walk has been read, and sends it when it may go: it becomes a message to the home of its place and stays in the buffer as departed, and one beyond the die raises ACKCNT; an entry that meets a demand fault is held by it (R145, R152, R153, R133). STORE_AT_HOME writes the store's bytes, lowest address first, at its place in SRAM, and no other byte (R2, R154). ACK_ARRIVE takes the performed message away, frees its store-buffer entry and lowers ACKCNT unless it was a store of the die (R145, R151). -/
def Obligations.StoresReachMemory : Prop :=
  (∀ (s : State) (b r : GReg) (i : BitVec 14) (v : BitVec 4) (z : ZReg) (j : BitVec 11),
      let ea := s.me.getG b + i.signExtend 64
      let el := s.me.getG b + 64 * j.signExtend 64
      let stored := fun (i : Instr) (a : Word) (n : Nat) (d : Line) =>
        exec i s = .next ((s.buffer a n d).after (s.buffer a n d).me) ∧ (s.buffer a n d).mem = s.mem ∧
          (s.buffer a n d).me.g = s.me.g ∧ (s.buffer a n d).me.w = s.me.w ∧ (s.buffer a n d).me.z = s.me.z ∧
          (s.buffer a n d).me.sb = s.me.sb ++ [⟨s.nextId, a, n, d, s.me.level, s.me.space, none, 0, none, false, none⟩]
      (s.entryFree s.cur = true →
        (∀ m : StMode, m ≠ .l → addrFault s.brick ea m.size = none →
          stored (.st m r b i) ea m.size (firstBytes ((s.me.getG r).setWidth 512) m.size)) ∧
        (s.me.unbound → s.me.wValid (Fin.ofNat 8 r.val) = true → addrFault s.brick ea 64 = none →
          stored (.st .l r b i) ea 64 s.me.w[(Fin.ofNat 8 r.val : WReg)]) ∧
        (∀ m : StiMode, addrFault s.brick ea m.size = none →
          stored (.stImm m v b i) ea m.size (firstBytes (v.setWidth 512) m.size)) ∧
        (s.me.zValid z = true → addrFault s.brick el 64 = none → stored (.zst z b j) el 64 (firstBytes s.me.z[z] 64)) ∧
        (nestOk (s.me.getG r) (s.me.getG (Fin.ofNat 16 (r.val + 1))) (s.me.getG (Fin.ofNat 16 (r.val + 2))) = true →
          addrFault s.brick ea 64 = none → stored (.nest r b i) ea 64
            (firstBytes (nestLine (s.me.getG r) (s.me.getG (Fin.ofNat 16 (r.val + 1))) (s.me.getG (Fin.ofNat 16 (r.val + 2)))) 64))) ∧
      (s.entryFree s.cur = false →
        (∀ m : StMode, m ≠ .l → addrFault s.brick ea m.size = none →
          exec (.st m r b i) s = .next (s.setSlot s.cur { s.me with mode := .parked (.cond (.storeEntry s.me.sb.length)) })) ∧
        (∀ m : StiMode, addrFault s.brick ea m.size = none →
          exec (.stImm m v b i) s = .next (s.setSlot s.cur { s.me with mode := .parked (.cond (.storeEntry s.me.sb.length)) })))) ∧
  (∀ (s u : State) (ctx key : Nat) (k : Slot) (e : SbEntry) (w : Option Place),
      s.ctxOf ctx = some k → k.ctx = ctx → ctx ≠ 0 → s.homeKey ctx = some key →
      s.storesStay ctx = false → k.sb = [e] → e.place = none → e.departed = false → e.demand = none →
      s.walk ⟨e.id, key / 8, k.vd, e.space, e.level⟩ e.ea = (u, w) → u.ctxOf ctx = some k →
      (∀ q, w = some q → exec (.storeDepart ctx) s = .next u) ∧
      (∀ p win, w = none → u.resolve (key / 8) k.vd e.space e.level e.ea .write = .ok p win →
        (scopeFrom (key / 8) p = .die ∨ k.ackcnt < 65535) →
        ∃ (t : State) (k' : Slot), exec (.storeDepart ctx) s = .next t ∧ t.mem = u.mem ∧
          t.msgs = u.msgs ++ [⟨e.id, ctx, key, k.vd, k.region, .store, e.ea, e.size, e.data, p, win, u.homeBrick p,
            scopeFrom (key / 8) p, e.level, e.space, none, false⟩] ∧
          t.ctxOf ctx = some k' ∧ k'.ackcnt = (if scopeFrom (key / 8) p = .die then k.ackcnt else k.ackcnt + 1) ∧
          k'.sb = [{ e with place := some p, win := win, home := u.homeBrick p, departed := true }] ∧ k'.g = k.g) ∧
      (∀ ipa, w = none → u.resolve (key / 8) k.vd e.space e.level e.ea .write = .demand ipa →
        ∃ (t : State) (k' : Slot), exec (.storeDepart ctx) s = .next t ∧ t.mem = u.mem ∧ t.msgs = u.msgs ∧
          t.demands = u.demands ++ [⟨u.nextId, k.vd, ipa, e.ea, .store ctx e.id, false⟩] ∧
          t.ctxOf ctx = some k' ∧ k'.sb = [{ e with demand := some u.nextId }])) ∧
  (∀ (s : State) (id b off : Nat) (m : Msg), Memory.wf s.mem = true →
      (s.msgs.find? fun m => decide (m.id = id ∧ m.kind = .store)) = some m → s.msgFree m = true → m.place = .sram b off →
      s.blocked id m.place = false → s.homeFault m.vd m.win m.place m.size true (decide (m.size = 64)) = none →
      ∃ t : State, exec (.storeAtHome id .sound) s = .next t ∧
        Mem.readBytes t.mem (bankAddr b off) m.size = leBytes m.size m.data.toNat ∧
        (∀ a, a < bankAddr b off ∨ bankAddr b off + m.size ≤ a → Mem.read t.mem a = Mem.read s.mem a) ∧
        t.slots = s.slots ∧ t.fe = s.fe ∧ (∀ x ∈ t.msgs, x.id = id → x.performed = true)) ∧
  (∀ (s : State) (id key : Nat) (m : Msg) (k : Slot),
      (s.msgs.find? fun m => decide (m.id = id ∧ m.performed = true)) = some m → m.ctx ≠ 0 → (key, k) ∈ s.slots → k.ctx = m.ctx →
      ∃ (t : State) (k' : Slot), exec (.ackArrive id) s = .next t ∧ (key, k') ∈ t.slots ∧ k'.sb = k.sb.filter (fun e => decide (e.id ≠ m.id)) ∧
        k'.ackcnt = (if m.kind = .store ∧ m.scope = .die then k.ackcnt else k.ackcnt - 1) ∧ k'.g = k.g ∧ t.mem = s.mem ∧
        ∀ x ∈ t.msgs, x.id ≠ id)

/-- Full/empty accesses of the own bank: LDFF and LDFE wait for full and read, LDFE empties; STEF waits for empty and STFF does not; both write and fill (R142, R280, R281, Table 13.4). FULL_EMPTY_AT_HOME of a word with no other waiter: LDFF and LDFE of a full word answer it, and LDFE empties it; STEF of an empty word and STFF write and fill it; otherwise the request queues at the word (R142, R281). That an access of the own bank completes in its own step is the model’s (log entry 15). -/
def Obligations.FullEmptyWords : Prop :=
  (∀ (s : State) (b r : GReg) (i : BitVec 14) (v : BitVec 4),
      let ea := s.me.getG b + i.signExtend 64
      let p := Place.sram s.brick ea.toNat
      let old := Mem.readBytes s.mem (bankAddr s.brick ea.toNat) 8
      ea.toNat % 8 = 0 → s.ownReady ea.toNat 8 → s.answers = [] → s.me.sb = [] → s.forward s.me s.brick p ea 8 = .clear →
      KMap.find? s.feq (p.key / 8 * 8) = none → Memory.wf s.mem = true → s.fe.Nodup →
      let loads := fun (i : Instr) (full : Bool) => s.feBit p = true → ∃ t : State, exec i s = .next (t.after
          (t.me.setG r (BitVec.ofNat 64 (leNat old))).dropAhead) ∧ t.cur = s.cur ∧ t.me = s.me ∧ t.mem = s.mem ∧ t.feBit p = full
      let stores := fun (i : Instr) (d : Word) => ∃ t : State, exec i s = .next (t.after t.me.dropAhead) ∧ t.cur = s.cur ∧
          t.me = s.me ∧ t.feBit p = true ∧ Mem.readBytes t.mem (bankAddr s.brick ea.toNat) 8 = leBytes 8 d.toNat ∧
          ∀ a, a < bankAddr s.brick ea.toNat ∨ bankAddr s.brick ea.toNat + 8 ≤ a → Mem.read t.mem a = Mem.read s.mem a
      loads (.ldff r b i) true ∧ loads (.ldfe r b i) false ∧
      (s.feBit p = false → stores (.stef r b i) (s.me.getG r) ∧ stores (.stefImm v b i) (v.setWidth 64)) ∧
      stores (.stff r b i) (s.me.getG r) ∧ stores (.stffImm v b i) (v.setWidth 64)) ∧
  (∀ (s : State) (ctx b off : Nat) (k : Slot) (q : Request),
      s.ctxOf ctx = some k → k.ctx = ctx → k.cancelled = false → k.req = some q → q.kind ∈ [ReqKind.ldff, .ldfe, .stef, .stff] → q.stage = .sent →
      q.place = .sram b off → off % 8 = 0 → s.blocked ctx q.place = false → KMap.find? s.feq (q.place.key / 8 * 8) = none →
      (∀ wr, s.homeFault k.vd q.win q.place 8 wr false = none) → Memory.wf s.mem = true → s.fe.Nodup →
      let full := s.feBit q.place
      let reads := q.kind = .ldff ∨ q.kind = .ldfe
      ∃ t : State, exec (.fullEmptyAtHome ctx .sound) s = .next t ∧
        let stage := (t.ctxOf ctx).bind fun k => k.req.map (·.stage)
        (reads → full = true → stage = some (.done (bytesLine (s.peek q.place 8))) ∧ t.mem = s.mem ∧
          t.feBit q.place = decide (q.kind = .ldff)) ∧
        (q.kind = .stff ∨ q.kind = .stef ∧ full = false → stage = some (.done 0) ∧ t.feBit q.place = true ∧
          Mem.readBytes t.mem (bankAddr b off) 8 = leBytes 8 q.data.toNat ∧
          ∀ a, a < bankAddr b off ∨ bankAddr b off + 8 ≤ a → Mem.read t.mem a = Mem.read s.mem a) ∧
        (reads ∧ full = false ∨ q.kind = .stef ∧ full = true → stage = some .queued ∧ t.mem = s.mem ∧ t.fe = s.fe ∧
          KMap.find? t.feq (q.place.key / 8 * 8) = some [ctx]))

/-- A reservation in the own bank: LRW of a word that nobody holds reads it and reserves it; SCW with that reservation writes and gives 0, with none it writes nothing and gives 1, with one of another address it writes nothing and gives 2 (R282, R283). RESERVATION_AT_HOME: an LRW of a word that nobody holds reads it and reserves it for its context, one of a held word queues behind it; an SCW without a reservation answers 1, with one of another address 2, and with its own and no fault writes and answers 0, giving the reservation up. RESERVATION_TIMEOUT takes a reservation away after 32,768 cycles and gives it to the first waiter, whose LRW it answers (R282 to R284). That an access of the own bank completes in its own step is the model’s (log entry 15). -/
def Obligations.Reservations : Prop :=
  (∀ (s : State) (b r : GReg) (i : BitVec 14),
      let ea := s.me.getG b + i.signExtend 64
      let p := Place.sram s.brick ea.toNat
      ea.toNat % 8 = 0 → s.ownReady ea.toNat 8 → s.answers = [] → s.me.sb = [] → s.forward s.me s.brick p ea 8 = .clear →
      Memory.wf s.mem = true →
      (s.me.resv = none → KMap.find? s.resvq p.key = none →
        ∃ (t : State) (k : Slot), exec (.lrw r b i) s = .next (t.after k) ∧ t.mem = s.mem ∧ k.resv = some ⟨p.key, ea⟩ ∧
          k.getG r = BitVec.ofNat 64 (leNat (Mem.readBytes s.mem p.key 8))) ∧
      (s.me.resv = none → exec (.scw r b i) s = .next ((s.unstall s.me.ctx).after (s.me.setG r 1).dropAhead)) ∧
      (∀ w, s.me.resv = some w → w.ea ≠ ea →
        exec (.scw r b i) s = .next ((s.unstall s.me.ctx).after (s.me.setG r 2).dropAhead)) ∧
      (s.me.resv = some ⟨p.key, ea⟩ → s.me.ctx ≠ 0 → (∃ n, KMap.find? s.resvq p.key = some ⟨s.me.ctx, n, []⟩) →
        ∃ (t : State) (k : Slot), exec (.scw r b i) s = .next (t.after k) ∧ k.getG r = 0 ∧ k.resv = none ∧
          Mem.readBytes t.mem p.key 8 = leBytes 8 (s.me.getG r).toNat ∧
          ∀ a, a < p.key ∨ p.key + 8 ≤ a → Mem.read t.mem a = Mem.read s.mem a)) ∧
  ((∀ (s : State) (ctx : Nat) (k : Slot) (q : Request), s.ctxOf ctx = some k → k.ctx = ctx → ctx ≠ 0 → k.req = some q → q.stage = .sent →
      s.linkDown q.place = false → s.blocked ctx q.place = false → s.closing q.place = false →
      let stage := fun (t : State) => (t.ctxOf ctx).bind fun k => k.req.map (·.stage)
      let answers := fun (v : Line) => exec (.reservationAtHome ctx .sound) s =
        .next ((s.modCtx ctx fun k => k.setStage (.done v)).unstall ctx)
      (q.kind = .lrw → KMap.find? s.resvq q.place.key = none → s.homeFault k.vd q.win q.place 8 false false = none →
        ∃ t : State, exec (.reservationAtHome ctx .sound) s = .next t ∧ t.mem = s.mem ∧
          KMap.find? t.resvq q.place.key = some ⟨ctx, s.cycle, []⟩ ∧ (t.ctxOf ctx).bind (·.resv) = some ⟨q.place.key, q.ea⟩ ∧
          stage t = some (.done (bytesLine (s.peek q.place 8)))) ∧
      (∀ w, q.kind = .lrw → k.cancelled = false → KMap.find? s.resvq q.place.key = some w → ∃ t : State, exec (.reservationAtHome ctx .sound) s = .next t ∧
        KMap.find? t.resvq q.place.key = some { w with waiters := w.waiters ++ [ctx] } ∧ t.mem = s.mem) ∧
      (q.kind = .scw → k.resv = none → answers 1) ∧ (∀ r, q.kind = .scw → k.resv = some r → r.ea ≠ q.ea → answers 2) ∧
      (∀ b off n, q.kind = .scw → q.place = .sram b off → k.resv = some ⟨q.place.key, q.ea⟩ →
        KMap.find? s.resvq q.place.key = some ⟨ctx, n, []⟩ → s.homeFault k.vd 0 q.place 8 true false = none → q.win = 0 → Memory.wf s.mem = true →
        ∃ t : State, exec (.reservationAtHome ctx .sound) s = .next t ∧ stage t = some (.done 0) ∧ (t.ctxOf ctx).bind (·.resv) = none ∧
          Mem.readBytes t.mem q.place.key 8 = leBytes 8 q.data.toNat ∧
          ∀ a, a < q.place.key ∨ q.place.key + 8 ≤ a → Mem.read t.mem a = Mem.read s.mem a)) ∧
    (∀ (s : State) (g : Nat) (w : ResvQueue), KMap.find? s.resvq g = some w → w.since + 32768 ≤ s.cycle → s.closing (placeOf g) = false →
      (w.waiters = [] → exec (.reservationTimeout g) s =
        .next { s.modCtx w.holder (fun k => { k with resv := none }) with resvq := KMap.erase s.resvq g }) ∧
      ∀ c rest k q, w.waiters = c :: rest → w.holder ≠ c → s.ctxOf c = some k → k.req = some q →
        s.homeFault k.vd q.win q.place 8 false false = none → ∃ t : State, exec (.reservationTimeout g) s = .next t ∧ t.mem = s.mem ∧
          KMap.find? t.resvq g = some ⟨c, s.cycle, rest⟩ ∧ (t.ctxOf c).bind (·.resv) = some ⟨g, q.ea⟩ ∧
          ((t.ctxOf c).bind fun k => k.req.map (·.stage)) = some (.done (bytesLine (s.peek q.place 8)))))

/-- AMO in the own bank: the old value is returned and the new one of Table 13.7 written, at either size; a compare that fails writes nothing (R285, R287). RUPD of an address that translates, outside host memory, leaves at once when the walk it needs can be read: ACKCNT rises by one and no register changes; elsewhere than in the own bank no byte of memory changes yet, and in the own bank with nothing before it the update is performed (R286). ATOMIC_AT_HOME performs a remote update on SRAM once: the bytes take the new value of Table 13.7 and no other byte changes (R286, R287). That an access of the own bank completes in its own step is the model’s (log entry 15). -/
def Obligations.Atomics : Prop :=
  (∀ (s : State) (o : AmoOp) (z : AmoSize) (d a b c : GReg),
      let ea := s.me.getG b
      let p := Place.sram s.brick ea.toNat
      let old := leNat (Mem.readBytes s.mem p.key z.size)
      let x := (s.me.getG a).toNat % 2 ^ z.bits
      ea.toNat % z.size = 0 → s.ownReady ea.toNat z.size → s.answers = [] → s.me.sb = [] →
      s.forward s.me s.brick p ea z.size = .clear →
      Memory.wf s.mem = true →
      ∃ t : State, exec (.amo o z d a b c) s = .next (t.after (t.me.setG d (BitVec.ofNat 64 old)).dropAhead) ∧ t.me = s.me ∧ t.cur = s.cur ∧
        (∀ q, q < p.key ∨ p.key + z.size ≤ q → Mem.read t.mem q = Mem.read s.mem q) ∧
        leNat (Mem.readBytes t.mem p.key z.size) =
          match o with
          | .swap => x
          | .cas => if old = (s.me.getG c).toNat % 2 ^ z.bits then x else old
          | .rmw .add => (old + x) % 2 ^ z.bits
          | .rmw .and => old &&& x
          | .rmw .or => old ||| x
          | .rmw .xor => old ^^^ x
          | .rmw .minN => min old x
          | .rmw .maxN => max old x
          | .rmw .minI => if signedOf z.bits x < signedOf z.bits old then x else old
          | .rmw .maxI => if signedOf z.bits old < signedOf z.bits x then x else old) ∧
  (∀ (s : State) (o : RmwOp) (z : AmoSize) (a b : GReg),
      let ea := s.me.getG b
      let m : Msg := ⟨s.nextId, s.me.ctx, s.cur, s.me.vd, s.me.region, .rupd o z, ea, z.size, lineOf (s.me.getG a), .host 0, 0, none, .sys,
        s.me.level, s.me.space, none, false⟩
      let s1 := { s.fresh.2 with msgs := s.msgs ++ [m] }
      addrFault s.brick ea z.size = none → s.me.ackcnt < 65535 → (∀ x ∈ s.msgs, x.id < s.nextId) →
      (∀ (u : State) (p : Place) (win : Nat), s1.walk ⟨s.nextId, s.brick, s.me.vd, s.me.space, s.me.level⟩ ea = (u, none) →
        u.me = s.me → u.msgs = s.msgs ++ [m] → u.resolve s.brick s.me.vd s.me.space s.me.level ea .rw = .ok p win →
        p.isHost = false → u.ownBank p = false →
        ∃ t : State, exec (.rupd o z a b) s = .next (t.after { t.me with ackcnt := t.me.ackcnt + 1 }) ∧ t.me = s.me ∧ t.mem = u.mem ∧
          ∃ m ∈ t.msgs, m.id = s.nextId ∧ m.place = p ∧ m.kind = .rupd o z ∧ m.performed = false) ∧
      (∀ off, let p := Place.sram s.brick off
        bankOf s.brick ea.toNat = some (s.brick, off) → off + z.size ≤ 2 ^ 20 → Memory.wf s.mem = true → s.answers = [] →
        s.blocked s.nextId p = false → s.homeFault s.me.vd 0 p z.size true false = none → (∀ m ∈ s.msgs, m.ctx ≠ s.me.ctx) →
        (∀ k, s.ctxOf s.me.ctx = some k → k.sb = []) →
        ∃ t : State, exec (.rupd o z a b) s = .next (t.after { t.me with ackcnt := t.me.ackcnt + 1 }) ∧ t.me = s.me ∧
          Mem.readBytes t.mem p.key z.size = leBytes z.size
            (o.apply z.bits (leNat (Mem.readBytes s.mem p.key z.size)) ((s.me.getG a).toNat % 2 ^ z.bits)) ∧
          (∀ q, q < p.key ∨ p.key + z.size ≤ q → Mem.read t.mem q = Mem.read s.mem q) ∧
          ∃ m ∈ t.msgs, m.id = s.nextId ∧ m.kind = .rupd o z ∧ m.performed = true)) ∧
  (∀ (s : State) (id b off : Nat) (o : RmwOp) (z : AmoSize) (m : Msg), Memory.wf s.mem = true →
      s.sentReq id ReqKind.isAtomic = none → (s.msgs.find? fun m => decide (m.id = id ∧ m.kind ≠ .store)) = some m →
      m.kind = .rupd o z → s.msgFree m = true → m.place = .sram b off → s.blocked id m.place = false →
      s.homeFault m.vd m.win m.place z.size true false = none →
      ∃ t : State, exec (.atomicAtHome id .sound) s = .next t ∧
        Mem.readBytes t.mem (bankAddr b off) z.size = leBytes z.size
          (o.apply z.bits (leNat (Mem.readBytes s.mem (bankAddr b off) z.size)) (m.data.toNat % 2 ^ z.bits)) ∧
        (∀ a, a < bankAddr b off ∨ bankAddr b off + z.size ≤ a → Mem.read t.mem a = Mem.read s.mem a))

/-- ITER in the own bank claims the next chunk of a sound descriptor: g12 to g15 take first, count, quotient and remainder, and NEXT and the claim count move on (R100, R299). That an access of the own bank completes in its own step is the model’s (log entry 15). -/
def Obligations.IterClaims : Prop :=
  ∀ (s : State) (b : GReg) (i : BitVec 14),
    let ea := s.me.getG b + i.signExtend 64
    let p := Place.sram s.brick ea.toNat
    let d := bytesLine (Mem.readBytes s.mem p.key 64)
    let next := (wordOf d 0).toNat
    let rem := (wordOf d 1).toNat - next
    let chunk := min rem (max (max (wordOf d 4).toNat 1) (ceilDiv rem (lbits d 3 15 0)))
    ea.toNat % 64 = 0 → s.ownReady ea.toNat 64 → s.answers = [] → s.me.sb = [] → s.forward s.me s.brick p ea 64 = .clear →
    Memory.wf s.mem = true →
    nestSound d = true → next < (wordOf d 1).toNat →
    ∃ (t : State) (k : Slot), exec (.iter b i) s = .next (t.after k) ∧ k.getG 12 = wordOf d 0 ∧ k.getG 13 = BitVec.ofNat 64 chunk ∧
      k.getG 14 = BitVec.ofNat 64 (next / (wordOf d 2).toNat) ∧ k.getG 15 = BitVec.ofNat 64 (next % (wordOf d 2).toNat) ∧
      (∀ r : GReg, r.val < 12 → k.getG r = s.me.getG r) ∧
      wordOf (bytesLine (Mem.readBytes t.mem p.key 64)) 0 = wordOf d 0 + BitVec.ofNat 64 chunk ∧
      wordOf (bytesLine (Mem.readBytes t.mem p.key 64)) 5 = wordOf d 5 + 1 ∧
      (∀ a, a < p.key ∨ p.key + 64 ≤ a → Mem.read t.mem a = Mem.read s.mem a)

/-- Fences complete when what they wait for has drained, and drop what ports hold ahead; FENCE.sys also empties the instruction cache of its brick; until then they wait (R145, R156, R230, R288). PREF.hbm starts a prefetch of its lines, bound to its barrier, and goes on; PREF.wake starts wakes and goes on, when the tables of its blocks can be read; neither changes memory (R289, R290). WREL raises the generation of its window and returns it, WACQ returns it: both need the first byte of the window, and the member's right (R78, R80, R81, R293). HLOC gives the home of an address without reading it (R358, Table 16.6): of the own bank, the brick and the sub-bank. That WREL, WACQ and HLOC finish in the step that executes them, where memory can serve, is the model’s choice (log entry 16). -/
def Obligations.FencesPrefetchesWindows : Prop :=
  (∀ s : State,
      (s.me.sb = [] → exec .fenceDie s = .next (s.after s.me.dropAhead)) ∧
      (s.me.sb = [] → s.me.ackcnt = 0 → exec .fencePkg s = .next (s.after s.me.dropAhead) ∧
        exec .fenceSys s = .next ((s.emptyICache s.brick).after s.me.dropAhead)) ∧
      (s.me.sb ≠ [] → exec .fenceDie s = .next (s.setSlot s.cur { s.me with mode := .parked (.cond .drained) }) ∧
        exec .fencePkg s = .next (s.setSlot s.cur { s.me with mode := .parked (.cond .drainedAck) })) ∧
      (s.me.sb ≠ [] ∨ s.me.ackcnt ≠ 0 →
        exec .fencePkg s = .next (s.setSlot s.cur { s.me with mode := .parked (.cond .drainedAck) }) ∧
        exec .fenceSys s = .next (s.setSlot s.cur { s.me with mode := .parked (.cond .drainedAck) }))) ∧
  (∀ (s : State) (r b : GReg) (i : BitVec 14),
      let ea := s.me.getG b + i.signExtend 64
      let v := s.me.getG r
      (prefSound v = true → s.holdsBarrier s.me.vd (bits v 38 32) = true → (s.barrier s.brick (bits v 38 32)).target ≠ 0 →
        addrFault s.brick ea 64 = none → s.prefDestFault s.me.vd s.brick v = none → s.me.sb = [] → s.me.ackcnt = 0 → s.me.prefs < 16 →
        ∃ t : State, exec (.prefHbm r b i) s = .next (t.after { t.me.dropAhead with prefs := t.me.prefs + 1 }) ∧ t.me = s.me ∧ t.mem = s.mem ∧
          ∃ c ∈ t.cmds, c.kind = .pref ∧ c.id = s.nextId ∧ c.src = ea ∧ c.barrier = some (bits v 38 32)) ∧
      (0 < v.toNat → v.toNat ≤ 2 ^ 24 → s.answers = [] → s.stallq = [] →
        (∀ a, ea.toNat / 128 ≤ a → a ≤ (ea.toNat + v.toNat - 1) / 128 → s.noWalk s.agent (wrap (a * 128)).toNat = true ∨
          ∀ x ∈ s.walkReads s.me.vd s.me.space (wrap (a * 128)).toNat, s.stalled x.place = false) →
        ∃ t : State, exec (.prefWake r b i) s = .next (t.after t.me) ∧ t.me = s.me ∧ t.mem = s.mem)) ∧
  (∀ (s u : State) (r b : GReg) (i : BitVec 14) (win pa : Nat) (w : Window),
      let ea := s.me.getG b + i.signExtend 64
      addrFault s.brick ea 8 = none → s.walk s.agent ea = (u, none) → u.me = s.me → u.answers = [] →
      0 < win → KMap.find? u.windows (win - 1) = some w → pa = u.winBase win → u.blocked s.me.ctx (.hbm pa) = false →
      (s.me.sb = [] → s.me.ackcnt = 0 → u.resolve u.brick s.me.vd s.me.space s.me.level ea .write = .ok (.hbm pa) win →
        u.genFault s.me.vd win pa true = none →
        ∃ t : State, exec (.wrel r b i) s = .next (t.after (t.me.dropAhead.setG r (w.gen + 1))) ∧ t.me = s.me ∧ t.mem = u.mem ∧
          (KMap.find? t.windows (win - 1)).map (·.gen) = some (w.gen + 1)) ∧
      (u.resolve u.brick s.me.vd s.me.space s.me.level ea .read = .ok (.hbm pa) win → u.genFault s.me.vd win pa false = none →
        exec (.wacq r b i) s = .next (((u.translated u.brick s.me.vd s.me.space s.me.level ea .read).unstall s.me.ctx).after
          (s.me.dropAhead.setG r w.gen)))) ∧
  (∀ (s u : State) (d r : GReg) (p : Place) (win : Nat),
      s.walk s.agent (s.me.getG r) = (u, none) → u.me = s.me →
      u.resolve u.brick s.me.vd s.me.space s.me.level (s.me.getG r) .read = .ok p win →
      exec (.hloc d r) s = .next ((u.translated u.brick s.me.vd s.me.space s.me.level (s.me.getG r) .read).after
        (s.me.setG d (u.hlocWord p))) ∧
      (∀ b off, p = .sram b off → u.hlocWord p = BitVec.ofNat 64 (b * 2 ^ 16 + off / 2 ^ 16)))

/-- QUIT with nothing outstanding ends the thread: its slot is free, with the registers that it had, and its region has one live thread less; while a hire, an engine command or a prefetch is outstanding it traps with XVAL 0; else it waits until its stores are acknowledged and its ring queue is empty. RSYNC completes when the ring queue is empty, and else waits (R297, R305). MIGR to a place whose home is another brick of the package sends the thread there with its g registers and PC + 4, there to be halted if a debugger single-steps it, and frees the slot; to the own brick it only goes on (R58, R171, R292). MIGRATION_ARRIVE of a resident partition with a free slot on the brick and nobody waiting there: the thread goes on in the lowest free slot with the g registers, PC, address space and region it brought, READY; with every slot occupied and fewer than eight waiting it joins the arrival queue, and with its partition not resident and fewer than 112 spilled the spill area, once the memory of its entry there has served it, for which it waits; the 144 bytes of its message then stand in that entry, and no byte outside the granules of the entry changes (R21, R172, R173). ARRIVAL_SPILL moves the oldest arrival of a resident partition that has waited 2,048 cycles to the spill area, once the memory of its entry there serves, for which it waits, so that its 144 bytes stand in that entry and no byte outside the granules of the entry changes, and does nothing before that or while the partition is switched out (R116, R173, R375). Where an entry lies in the save region is the model’s choice (log entry 28), and so is that a whole context which is spilled shows its registers and PC alone in its entry (log entry 112). -/
def Obligations.ThreadsEndAndMove : Prop :=
  (∀ s : State,
      (s.me.busy = false → s.me.sb = [] → s.me.ackcnt = 0 → s.me.ringq = [] → exec .quit s = .next (s.endThread s.cur) ∧
        (s.me.mode ≠ .free → s.me.resv = none → s.residentOf (s.cur % 8) = none →
          (s.endThread s.cur).slotAt s.cur = s.me.freed ∧ s.me.freed.mode = .free ∧ s.me.freed.g = s.me.g ∧ s.me.freed.w = s.me.w ∧ (s.endThread s.cur).mem = s.mem ∧
          ((s.endThread s.cur).region? s.me.vd s.me.region).map (·.live) =
            (s.region? s.me.vd s.me.region).map (·.live - 1))) ∧
      (s.me.busy = true → exec .quit s = .next (s.trapAt s.cur .illegalOperand 0)) ∧
      (s.me.busy = false → s.me.sb ≠ [] ∨ s.me.ackcnt ≠ 0 →
        exec .quit s = .next (s.setSlot s.cur { s.me with mode := .parked (.cond .drainedAck) })) ∧
      (s.me.busy = false → s.me.sb = [] → s.me.ackcnt = 0 → s.me.ringq ≠ [] →
        exec .quit s = .next (s.setSlot s.cur { s.me with mode := .parked (.cond .ringEmpty) })) ∧
      (s.me.ringq = [] → exec .rsync s = .next (s.after s.me.dropAhead)) ∧
      (s.me.ringq ≠ [] → exec .rsync s = .next (s.setSlot s.cur { s.me with mode := .parked (.cond .ringEmpty) }))) ∧
  (∀ (s u : State) (b : GReg) (i : BitVec 14) (p : Place) (win d : Nat),
      let ea := s.me.getG b + i.signExtend 64
      s.me.level = .task → s.me.sb = [] → s.me.ackcnt = 0 → s.me.busy = false → s.me.hasMail = false → s.me.unbound → s.me.ringq = [] →
      s.me.resv = none → addrFault s.brick ea 1 = none → s.walk s.agent ea = (u, none) → u.me = s.me →
      u.resolve u.brick s.me.vd s.me.space s.me.level ea .read = .ok p win → u.homeBrick p = some d →
      let v := u.translated u.brick s.me.vd s.me.space s.me.level ea .read
      (d = u.brick → exec (.migr b i) s = .next (v.after s.me.dropAhead)) ∧
      (d ≠ u.brick → ∀ t : State,
        t = { v with
          nextId := u.nextId + 1
          migMsgs := u.migMsgs ++ [⟨u.nextId, d, ⟨s.me.ctx, s.me.vd, s.me.g, s.me.pc + 4, s.me.space, s.me.region, s.me.debugStep⟩⟩] } →
        exec (.migr b i) s = .next ((t.setSlot u.cur Slot.empty).fill u.cur))) ∧
  (∀ (s : State) (id : Nat) (m : MigMsg), (s.migMsgs.find? fun m => decide (m.id = id)) = some m →
      let q := queueKey m.brick m.m.vd
      let taken := { s with answers := .sound :: s.answers, migMsgs := s.migMsgs.filter fun x => decide (x.id ≠ id) }
      ∃ t : State, exec (.migrationArrive id .sound) s = .next t ∧
        (∀ n, s.isResident m.m.vd = true → KMap.getD s.spills q [] = [] → KMap.getD s.arrivals q [] = [] → s.freeSlot m.m.vd m.brick = some n →
          (t.slotAt (8 * m.brick + n)).g = m.m.g ∧ (t.slotAt (8 * m.brick + n)).pc = m.m.pc ∧ (t.slotAt (8 * m.brick + n)).space = m.m.space ∧
          (t.slotAt (8 * m.brick + n)).region = m.m.region ∧ (t.slotAt (8 * m.brick + n)).mode = .ready ∧
          (t.slotAt (8 * m.brick + n)).ctx = m.m.ctx ∧ t.mem = s.mem ∧ t.migMsgs = taken.migMsgs) ∧
        (s.isResident m.m.vd = true → KMap.getD s.spills q [] = [] → s.freeSlot m.m.vd m.brick = none →
          (KMap.getD s.arrivals q []).length < 8 →
          KMap.getD t.arrivals q [] = KMap.getD s.arrivals q [] ++ [.migrant m.m (s.patienceFrom m.m.vd)] ∧ t.slots = s.slots ∧
          t.mem = s.mem ∧ t.migMsgs = taken.migMsgs) ∧
        (∀ (u : State) (p : Passage) (v : VDev), s.isResident m.m.vd = false → s.vd? m.m.vd = some v → (KMap.getD s.spills q []).length < 112 →
          let i := s.spillHead q + (KMap.getD s.spills q []).length
          let e := v.spillEntry m.brick i
          taken.spillPassage spillOut m.m.vd m.brick i (some m.m.message) = (u, p) →
          (p = .done → KMap.getD t.spills q [] = KMap.getD u.spills q [] ++ [.migrant m.m (s.patienceFrom m.m.vd)] ∧
            t.slots = u.slots ∧ t.mem = u.mem ∧ t.migMsgs = u.migMsgs ∧
            (s.answers = [] → u.spills = s.spills ∧ u.slots = s.slots ∧ u.migMsgs = taken.migMsgs ∧
              (Memory.wf s.mem = true → Mem.readBytes u.mem e 144 = m.m.message ∧
                ∀ x, x < e / 64 * 64 ∨ (e + 143) / 64 * 64 + 64 ≤ x → Mem.readBytes u.mem x 1 = Mem.readBytes s.mem x 1))) ∧
          (p = .still → t = { u with answers := s.answers, migMsgs := s.migMsgs }))) ∧
  (∀ (s : State) (b vd : Nat) (a : Arrival) (rest : List Arrival),
      KMap.getD s.arrivals (queueKey b vd) [] = a :: rest →
      (∀ (u : State) (p : Passage) (v : VDev), s.isResident vd = true → s.vd? vd = some v → a.since + 2048 ≤ s.cycle →
        let q := queueKey b vd
        let out := { s with arrivals := setQueue s.arrivals q rest }
        let i := s.spillHead q + (KMap.getD s.spills q []).length
        let e := v.spillEntry b i
        (KMap.getD s.spills q []).length < 112 →
        out.spillPassage spillOut vd b i (some a.message) = (u, p) →
        (p = .done → ∃ t : State, exec (.arrivalSpill b vd) s = .next t ∧ t.arrivals = u.arrivals ∧
          KMap.getD t.spills q [] = KMap.getD u.spills q [] ++ [a] ∧ t.slots = u.slots ∧ t.mem = u.mem ∧
          (s.answers = [] → u.arrivals = out.arrivals ∧ u.spills = s.spills ∧ u.slots = s.slots ∧
            (Memory.wf s.mem = true → Mem.readBytes u.mem e 144 = a.message ∧
              ∀ x, x < e / 64 * 64 ∨ (e + 143) / 64 * 64 + 64 ≤ x → Mem.readBytes u.mem x 1 = Mem.readBytes s.mem x 1))) ∧
        (p = .still → exec (.arrivalSpill b vd) s = .next { u with arrivals := s.arrivals })) ∧
      (s.isResident vd = false ∨ s.cycle < a.since + 2048 → exec (.arrivalSpill b vd) s = .next s))

/-- MQDQ with an entry in the inbox completes: word 0 in the register, VALUE in MQVAL, the count of what its kind has outstanding down by one, nothing held ahead in a port, every other register as before; with no entry it traps with XVAL 0 when neither a hire nor an engine command is outstanding, and else waits (R166, R303, R329). An entry that arrives joins the inbox behind those that stand there, or the overflow area when sixteen stand there or the overflow area holds one; as entries of the inbox free, those of the overflow area move into it, oldest first, when their memory serves (R166). HOD_COMPLETE sends the next completion message of an entry in train order, of kind 1 with its ticket, lane, status and VALUE. INBOX_ENTRY_ARRIVE, of a message that is the first of its lane, puts the entry into the inbox of its context, which has room, in its slot or in its save area; one without room lets it join the overflow area once that has been reached; and completes its HALT (R108, R111, R165, R166, R211, R355). -/
def Obligations.Inboxes : Prop :=
  (∀ (s : State) (d : GReg) (e : InboxEntry) (rest : List InboxEntry),
      (s.me.inbox = e :: rest → ∃ k : Slot, exec (.mqdq d) s = .next (s.after k) ∧ k.getG d = e.word0 ∧ k.mqval = e.value ∧
        k.inbox = rest ∧ k.overflow = s.me.overflow ∧
        k.hires = (if bits e.word0 7 0 = 1 then s.me.hires - 1 else s.me.hires) ∧
        k.engines = (if bits e.word0 7 0 = 2 ∨ bits e.word0 7 0 = 3 then s.me.engines - 1 else s.me.engines) ∧
        (∀ p ∈ k.ports.toList, p.ahead = []) ∧ (∀ r, r ≠ d → k.getG r = s.me.getG r) ∧ k.w = s.me.w ∧ k.wv = s.me.wv ∧
        k.z = s.me.z ∧ k.zv = s.me.zv ∧ k.sb = s.me.sb ∧ k.ackcnt = s.me.ackcnt ∧ k.prefs = s.me.prefs) ∧
      (s.me.inbox = [] → s.me.hires = 0 → s.me.engines = 0 → exec (.mqdq d) s = .next (s.trapAt s.cur .illegalOperand 0)) ∧
      (s.me.inbox = [] → 0 < s.me.hires ∨ 0 < s.me.engines →
        exec (.mqdq d) s = .next (s.setSlot s.cur { s.me with mode := .parked (.cond .inbox) }))) ∧
  ((∀ (k : Slot) (e : InboxEntry),
      (k.overflow = [] → k.inbox.length < 16 → k.addInbox e = { k with inbox := k.inbox ++ [e] }) ∧
      (k.overflow ≠ [] ∨ 16 ≤ k.inbox.length → k.addInbox e = { k with overflow := k.overflow ++ [e] })) ∧
    (∀ (s u : State) (key : Nat) (e : InboxEntry) (rest : List InboxEntry) (p : Passage),
      let k := s.slotAt key
      k.overflow = e :: rest → k.inbox.length < 16 → s.contextPassage mailIn k.vd key (overflowAt k.overflowPos) 16 none = (u, p) →
      u.slotAt key = k →
      (p = .done → ((s.refillInbox key 1).slotAt key).inbox = k.inbox ++ [e] ∧ ((s.refillInbox key 1).slotAt key).overflow = rest) ∧
      (p = .still → s.refillInbox key 1 = u))) ∧
  ((∀ (s u : State) (id st v : Nat) (e : Entry), u = s.land id → u.entry? id = some e → KMap.find? e.statuses e.sent = some (st, v) →
      u.maySend e = true → ∃ (t : State) (m : InboxMsg), exec (.hodComplete id) s = .next (t.land id) ∧ t.inboxMsgs = u.inboxMsgs ++ [m] ∧
        m.ctx = e.ctx ∧ m.lane = some e.lane ∧ m.entry = ⟨inboxWord (e.ticket + e.sent) e.lane st 1, wrap v⟩ ∧ t.mem = u.mem ∧
        t.slots = u.slots ∧ (t.entry? id).map (·.sent) = some (e.sent + 1)) ∧
    (∀ (s : State) (id : Nat) (m : InboxMsg), (s.inboxMsgs.find? fun m => decide (m.id = id)) = some m → s.laneFirst m = true → m.ctx ≠ 0 →
      (∀ k, s.ctxOf m.ctx = some k → k.overflow = [] ∧ k.inbox.length < 16) →
      ((s.keyOf m.ctx).map (fun key => (s.slotAt key).mode) ≠ some (.parked (.cond .haltEnd)) →
        ∃ t : State, exec (.inboxEntryArrive id) s = .next t ∧ t.mem = s.mem ∧ (∀ x ∈ t.inboxMsgs, x.id ≠ id) ∧
          (∀ kv ∈ s.slots, kv.2.ctx = m.ctx → (kv.1, kv.2.addInbox m.entry) ∈ t.slots) ∧
          ∀ kv ∈ s.saved, kv.2.ctx = m.ctx → (kv.1, kv.2.addInbox m.entry) ∈ t.saved) ∧
      (∀ key, s.keyOf m.ctx = some key → (s.slotAt key).ctx = m.ctx → (s.slotAt key).mode = .parked (.cond .haltEnd) →
        (s.slotAt key).sstep = false → ∃ t : State, exec (.inboxEntryArrive id) s = .next t ∧ (t.slotAt key).mode = .ready ∧
          (t.slotAt key).pc = (s.slotAt key).advance.pc ∧ (t.slotAt key).inbox = ((s.slotAt key).addInbox m.entry).inbox)))

/-- SPAWN into its own region with room counts a live thread and sends the spawn with the region, the target and four argument registers; a full region answers 3 at once (R93, R94, R304). SPAWN_PLACE with a free slot on a brick that the target names: a thread begins in the lowest free slot of the first such brick with its four arguments in g0 to g3, zero in g4 to g15, no valid w or z register, at its region’s entry, in task level, and the slot that spawned it is answered with status 0 and the brick (R92, R94, R95). -/
def Obligations.ThreadsBegin : Prop :=
  (∀ (s : State) (d a b : GReg) (r : Region),
      badTarget (s.me.getG a) = false → s.me.sb = [] → s.me.ackcnt = 0 → bit (s.me.getG a) 31 = false →
      s.region? s.me.vd s.me.region = some r →
      (r.live < r.slots → ∃ t : State, exec (.spawn d a b) s = .next t ∧ t.me.mode = .parked .reply ∧ t.me.g = s.me.g ∧ t.mem = s.mem ∧
        t.spawnMsgs = s.spawnMsgs ++ [⟨s.nextId, s.me.ctx, s.me.vd, s.me.region, s.me.getG a,
          [s.me.getG b, s.me.getG (Fin.ofNat 16 (b.val + 1)), s.me.getG (Fin.ofNat 16 (b.val + 2)),
            s.me.getG (Fin.ofNat 16 (b.val + 3))]⟩] ∧
        (t.region? s.me.vd s.me.region).map (·.live) = some (r.live + 1)) ∧
      (r.slots ≤ r.live → exec (.spawn d a b) s = .next (s.after (s.me.dropAhead.setG d 3)))) ∧
  (∀ (s : State) (id : Nat) (m : SpawnMsg) (r : Region) (x n : Nat),
      (s.spawnMsgs.find? fun m => decide (m.id = id)) = some m → s.region? m.vd m.region = some r →
      ((spawnBricks (nbits m.target.toNat 13 12) (nbits m.target.toNat 10 0)).find? fun x =>
        (s.freeSlot m.vd x).isSome &&
          decide (KMap.getD s.spawnq (queueKey x m.vd) [] = [])) = some x →
      s.freeSlot m.vd x = some n → m.ctx ≠ s.nextId →
      ∃ t : State, exec (.spawnPlace id) s = .next t ∧ (t.slotAt (8 * x + n)).mode = .ready ∧ (t.slotAt (8 * x + n)).pc = r.entry ∧
        (t.slotAt (8 * x + n)).level = .task ∧ (t.slotAt (8 * x + n)).vd = m.vd ∧ (t.slotAt (8 * x + n)).region = m.region ∧
        (t.slotAt (8 * x + n)).g = #v[m.args.getD 0 0, m.args.getD 1 0, m.args.getD 2 0, m.args.getD 3 0, 0, 0, 0, 0, 0, 0, 0, 0, 0, 0, 0, 0] ∧
        (t.slotAt (8 * x + n)).wv = 0 ∧ (t.slotAt (8 * x + n)).zv = 0 ∧ (t.slotAt (8 * x + n)).space = r.space ∧
        (∀ kv ∈ s.slots, kv.1 ≠ 8 * x + n → kv.2.ctx = m.ctx → m.ctx ≠ 0 →
          (kv.1, kv.2.setStage (.done (lineOf (BitVec.ofNat 64 (x * 2 ^ 16))))) ∈ t.slots) ∧ t.mem = s.mem)

/-- BINIT of a held barrier that nothing uses, with a count of 1 to 65,535, sets it up and completes; BARR sends one arrival and parks until it is accepted, once its stores have left and, to another die, are acknowledged; BWAIT passes when the phase differs from bit 0 of its register and returns phase and error, else it parks. Each traps, with XVAL the operand or the barrier’s number, on a barrier that is not held or not fit for it and on an operand out of range (R169, R300 to R302). An arrival counts and adds its error to the phase’s; the one that reaches the target flips the phase, clears the count and makes the phase’s errors the barrier’s (R168). BARRIER_ARRIVAL takes its message away. At an initialised barrier of a resident partition it counts, and the slot that sent it gets its reply; the arrival that reaches the target flips the phase, and a slot that waited there goes on with phase and error in its register. At one that is not initialised the sender gets an illegal-operand failure with XVAL the barrier’s number (R168, R169). -/
def Obligations.Barriers : Prop :=
  (∀ (s : State) (a d : GReg) (n : BitVec 7),
      let x := s.barrier s.brick n.toNat
      let v := s.me.getG a
      let traps := fun (i : Instr) (w : Word) => exec i s = .next (s.trapAt s.cur .illegalOperand w)
      let idle := x.bound = 0 ∧ s.barrierWaiters s.brick n.toNat = []
      (v.toNat = 0 ∨ 65535 < v.toNat → traps (.binit a n) v) ∧ (2047 < v.toNat → traps (.barr a n) v) ∧
      (s.holdsBarrier s.me.vd n.toNat = false → (0 < v.toNat → v.toNat ≤ 65535 → traps (.binit a n) (n.setWidth 64)) ∧
        (v.toNat ≤ 2047 → traps (.barr a n) (n.setWidth 64)) ∧ traps (.bwait d n) (n.setWidth 64)) ∧
      (s.holdsBarrier s.me.vd n.toNat = true →
        (0 < v.toNat → v.toNat ≤ 65535 → (idle → exec (.binit a n) s =
            .next ((s.modBarrier s.brick n.toNat fun _ => ⟨v.toNat, 0, false, false, false, 0⟩).after s.me)) ∧
          (¬idle → traps (.binit a n) (n.setWidth 64))) ∧
        (v.toNat ≤ 2047 → s.me.sb = [] → v.toNat / 512 = s.brick / 512 ∨ s.me.ackcnt = 0 →
          ∃ t : State, exec (.barr a n) s = .next t ∧ t.me.mode = .parked .reply ∧ t.me.g = s.me.g ∧ t.mem = s.mem ∧
            t.barrierMsgs = s.barrierMsgs ++ [⟨s.nextId, s.me.vd, v.toNat, n.toNat, some s.me.ctx, false, false⟩]) ∧
        (x.target = 0 → traps (.bwait d n) (n.setWidth 64)) ∧
        (x.target ≠ 0 → b2n x.phase ≠ bits (s.me.getG d) 0 0 → exec (.bwait d n) s =
          .next (s.after (s.me.setG d (BitVec.ofNat 64 (2 * b2n x.err + b2n x.phase))).dropAhead)) ∧
        (x.target ≠ 0 → b2n x.phase = bits (s.me.getG d) 0 0 → exec (.bwait d n) s =
          .next (s.setSlot s.cur { s.me with mode := .parked (.barrier n.toNat d.val) })))) ∧
  (∀ (x : Barrier) (err bound : Bool),
      (x.count + 1 ≠ x.target → ∃ y, x.arrive err bound = (y, false) ∧ y.count = x.count + 1 ∧ y.phase = x.phase ∧ y.target = x.target ∧
        y.err = x.err ∧ y.errNow = (x.errNow || err)) ∧
      (x.count + 1 = x.target → ∃ y, x.arrive err bound = (y, true) ∧ y.count = 0 ∧ y.phase = !x.phase ∧ y.err = (x.errNow || err) ∧
        y.errNow = false ∧ y.target = x.target)) ∧
  (∀ (s : State) (id : Nat) (m : BarrierMsg), (s.barrierMsgs.find? fun m => decide (m.id = id)) = some m →
      let x := s.barrierOf m.vd m.brick m.n
      let told := fun (t : State) (st : ReqStage) => ∀ kv ∈ s.slots, m.ctx = some kv.2.ctx → kv.2.ctx ≠ 0 → (kv.1, kv.2.setStage st) ∈ t.slots
      ∃ t : State, exec (.barrierArrival id) s = .next t ∧ t.mem = s.mem ∧ (∀ y ∈ t.barrierMsgs, y.id ≠ id) ∧
        (x.target = 0 → told t (.failed Cause.illegalOperand.code (BitVec.ofNat 64 m.n) false) ∧ t.barriers = s.barriers) ∧
        (x.target ≠ 0 → s.barriersIn m.vd m.n = true → x.count + 1 ≠ x.target →
          (t.barrier m.brick m.n).count = x.count + 1 ∧ (t.barrier m.brick m.n).phase = x.phase ∧ told t (.done 0)) ∧
        (x.target ≠ 0 → s.barriersIn m.vd m.n = true → x.count + 1 = x.target →
          (t.barrier m.brick m.n).count = 0 ∧ (t.barrier m.brick m.n).phase = !x.phase ∧
          ∀ key r, s.barrierWaiters m.brick m.n = [(key, r)] → (s.slotAt key).stepDue = false → m.ctx ≠ some (s.slotAt key).ctx →
            (t.slotAt key).mode = .ready ∧ (t.slotAt key).getG (Fin.ofNat 16 r) =
              BitVec.ofNat 64 (2 * b2n (x.errNow || m.err) + b2n (!x.phase))))

/-- Ring instructions that wait for their entry join the slot's ring queue and park (R180, R188, R294 to R299). Puts join the ring queue and the slot goes on (R180, R294). -/
def Obligations.RingInstructions : Prop :=
  (∀ (s : State) (r b : GReg) (i : BitVec 14) (c : RwCond) (x off : Nat),
      let ea := s.me.getG b + i.signExtend 64
      let parks := fun (i : Instr) (op : RingOp) (reg : Nat) => ∃ t : State, exec i s = .next t ∧ t.me.mode = .parked .ring ∧
        t.me.ringq = s.me.ringq ++ [⟨op, ea, x, off / 64, off / 8 % 8, reg, s.cycle, false⟩] ∧ t.me.g = s.me.g ∧ t.mem = s.mem ∧
        t.rings = s.rings ∧ ∀ key, key ≠ s.cur → t.slotAt key = s.slotAt key
      (s.ringPlace ea 8 false = .ok (x, off) → s.me.ringq.length < 4 →
        parks (.rcap .word r b i) (.capture .word) r.val ∧ parks (.rwait c r b i) (.wait c (s.me.getG r)) r.val) ∧
      (s.ringPlace ea 64 false = .ok (x, off) → s.me.ringq.length < 4 → s.me.unbound →
        parks (.rcap .line r b i) (.capture .line) r.val) ∧
      (s.ringPlace ea 8 false = .ok (x, off) → s.me.sb = [] → s.me.ringq = [] → parks (.radd r b i) (.add (s.me.getG r)) r.val) ∧
      (s.ringPlace ea 64 false = .ok (x, off) → s.me.sb = [] → s.me.ringq = [] →
        parks (.ralt r b i) (.alight false) r.val ∧ parks (.iterRing b i) .claim 0) ∧
      (s.ringPlace ea 64 true = .ok (x, off) → s.holdsSub s.me.vd (off / 2 ^ 16) = true →
        (s.subBank x (off / 2 ^ 16)).power ≠ .unavailable → (s.subBank x (off / 2 ^ 16)).alloc = true → s.me.sb = [] →
        s.me.ringq.length < 4 → parks (.rbrd r b i) (.board none) r.val ∧
          (let n0 := s.me.getG r; let n1 := s.me.getG (Fin.ofNat 16 (r.val + 1)); let w := s.me.getG (Fin.ofNat 16 (r.val + 2))
            nestOk n0 n1 w = true → parks (.nestRing r b i) (.board (some (nestLine n0 n1 w))) r.val))) ∧
  (∀ (s : State) (r b : GReg) (i : BitVec 14) (v : BitVec 4) (x off : Nat),
      let ea := s.me.getG b + i.signExtend 64
      let puts := fun (i : Instr) (op : RingOp) => exec i s = .next (s.after
        { s.me.dropAhead with ringq := s.me.ringq ++ [⟨op, ea, x, off / 64, off / 8 % 8, 0, s.cycle, false⟩] })
      s.me.sb = [] → s.me.ringq = [] →
      (s.ringPlace ea 8 false = .ok (x, off) → puts (.rput .word r b i) (.put .word ((s.me.getG r).setWidth 512)) ∧
        puts (.rputImm v b i) (.put .word (BitVec.setWidth 512 (v.setWidth 64)))) ∧
      (s.ringPlace ea 64 false = .ok (x, off) → s.me.unbound → s.me.wValid (Fin.ofNat 8 r.val) = true →
        puts (.rput .line r b i) (.put .line s.me.w[(Fin.ofNat 8 r.val : WReg)])))

/-- The entry at the head of a queue is applied to the ring slot of its line when that stands at its station and the slots below it there have no more to apply in that cycle: capture reads the word, put writes it, add replaces it by the sum, wait gives it when its condition holds, claim takes a chunk, alight marks the slot; the station is then past the slots below. A poisoned ring slot traps a capture and drops a put, and an entry that has been eligible for 512 cycles without its ring slot misses it (R181, R182, R185, R186, R191, R296). A boarding entry at the head of its queue, when its slot’s turn has come at the station: on a locked line it answers 2, with the quota full 1; onto a free ring slot at its station, when its home line can be read, it loads the home line and its poison into the slot, locks the line ABOARD for the partition and region, and answers 0 (R179, R183, R184). -/
def Obligations.RingEntriesApply : Prop :=
  (∀ (s : State) (b n : Nat) (k : Slot) (e : RingEntry) (rest : List RingEntry) (x : RingSlot),
      (s.ringHolders.find? fun kv => decide (kv.1 = 8 * b + n)) = some (8 * b + n, k) → k.ringq = e :: rest →
      s.stationFor (8 * b + n) = true → KMap.find? s.rings (s.standing ((8 * b + n) / 8)) = some x → x.isFor k.vd e = true →
      let idx := s.standing ((8 * b + n) / 8)
      let w := wordOf x.payload e.word
      let goes := fun (i : Instr) (t : State) => exec i s = .next (t.stationAt b (8 * b + n))
      (e.overdue s.cycle = true → e.op = .capture .word → goes (.ringCaptureApply b n) (s.ringMissed k e)) ∧
      (e.overdue s.cycle = false → x.poison = true →
        (∀ f, e.op = .capture f → goes (.ringCaptureApply b n) (s.ringPoisoned k e)) ∧
        (∀ f v, e.op = .put f v → goes (.ringPutApply b n) ((s.ringDone k).deferred k.vd k.region (s.whereKey k.ctx) .poison e.ea))) ∧
      (e.overdue s.cycle = false → x.poison = false →
      (e.op = .capture .word → goes (.ringCaptureApply b n) (s.ringGive k (.done (lineOf w)))) ∧
      (e.op = .capture .line → goes (.ringCaptureApply b n) (s.ringGive k (.done x.payload))) ∧
      (∀ v, e.op = .put .word v → goes (.ringPutApply b n)
        ((s.setPayload idx (setWord x.payload e.word (lowWord v))).ringDone k)) ∧
      (∀ v, e.op = .put .line v → goes (.ringPutApply b n) ((s.setPayload idx v).ringDone k)) ∧
      (∀ v, e.op = .add v → goes (.ringAddApply b n)
        ((s.setPayload idx (setWord x.payload e.word (w + v))).ringGive k (.done (lineOf w)))) ∧
      (∀ c v, e.op = .wait c v → c.holds w v = true → goes (.ringWaitApply b n) (s.ringGive k (.done (lineOf w)))) ∧
      (e.op = .claim → nestSound x.payload = true → goes (.ringClaimApply b n)
        ((s.setPayload idx (claimed x.payload)).ringGive k (.done (claimResult x.payload)))) ∧
      (∀ set, e.op = .alight set → e.matched = false → ∃ t : State, exec (.ringAlightMatch b n) s = .next t ∧
        t.rings = KMap.modify s.rings idx (fun r => { r with altpend := true }) ∧ t.mem = s.mem))) ∧
  (∀ (s : State) (b n : Nat) (k : Slot) (e : RingEntry) (rest : List RingEntry),
      (s.ringHolders.find? fun kv => decide (kv.1 = 8 * b + n)) = some (8 * b + n, k) → k.ringq = e :: rest → e.op = .board none →
      n < 8 → s.stationFor (8 * b + n) = true →
      let home := Place.sram e.brick (64 * e.line)
      (s.lineLocked (lineKey e.brick e.line) = true →
        exec (.ringBoardApply b n) s = .next (((s.unstall k.ctx).ringGive k (.done 2)).stationAt b (8 * b + n))) ∧
      (s.lineLocked (lineKey e.brick e.line) = false → s.ringFull (b / 512) k.vd k.region = true →
        exec (.ringBoardApply b n) s = .next (((s.unstall k.ctx).ringGive k (.done 1)).stationAt b (8 * b + n))) ∧
      (s.lineLocked (lineKey e.brick e.line) = false → s.ringFull (b / 512) k.vd k.region = false →
        KMap.has s.rings (s.standing b) = false → s.blocked k.ctx home = false → s.answers = [] → s.ctxOf k.ctx = some k →
        ∃ u : State, exec (.ringBoardApply b n) s = .next ((u.ringGive k (.done 0)).stationAt b (8 * b + n)) ∧ u.mem = s.mem ∧
          u.locks = KMap.set s.locks (lineKey e.brick e.line) ⟨.aboard, k.vd, k.region⟩ ∧
          (KMap.find? u.rings (s.standing b)).map (fun r => (r.payload, r.poison, r.altpend, r.vd, r.line)) =
            some (bytesLine (Mem.readBytes s.mem (lineKey e.brick e.line) 64), s.poison.contains home.granule, false, k.vd, e.line)))

/-- A slot with ALTPEND at its home station leaves the ring, after everything that the station applies in that cycle. When the home sub-bank can serve, its payload is written to the home line, a poisoned slot poisons that line, the line is unlocked, and an alight that waits is answered 0 if it had set ALTPEND and else 1; when the sub-bank cannot, or accesses that came before wait there, the payload waits in the order of arrival (R21, R181, R185, R364). Stowing takes a ring slot of a switched-out partition off the ring at its home, after everything that the station applies in that cycle, writes its payload back and keeps the lock as STOWED with the slot’s ALTPEND and POISON; once the partition is resident again, boarding loads the home line into the free ring slot there with both, and the lock is ABOARD (R189, R190). A head entry that has matched nothing for 512 cycles, boarding and puts apart, gives its slot the ring-miss trap with XVAL its address; a corrected error of a ring slot is counted, and an uncorrectable one in a payload sets POISON; Nerem clears a lock that neither a ring slot nor a write-back carries (R191). -/
def Obligations.RingLinesGoHome : Prop :=
  (∀ (s0 s : State) (ring idx : Nat) (r0 r : RingSlot),
      KMap.find? s0.rings (ringKey ring idx) = some r0 → r0.altpend = true → s0.isHome (ringKey ring idx) r0 = true →
      s0.canStow (ringKey ring idx) r0 = false → s0.turnOver (homeOf (ringKey ring idx) r0) = true →
      s = s0.applyStation (homeOf (ringKey ring idx) r0) → KMap.find? s.rings (ringKey ring idx) = some r → Memory.wf s.mem = true →
      let home := homeOf (ringKey ring idx) r
      let place := Place.sram home (64 * r.line)
      let w : RingBack := ⟨ringKey ring idx / 512, r, false⟩
      (s.blocked w.token place = false → ∃ u : State, Mem.readBytes u.mem (lineKey home r.line) 64 = lineBytes r.payload ∧
        u.rings = KMap.erase s.rings (ringKey ring idx) ∧ u.locks = KMap.erase s.locks (lineKey home r.line) ∧ u.slots = s.slots ∧
        (r.poison = true → u.poison.contains place.granule = true) ∧
        (s.alighters home r.line = [] → exec (.ringAlightWriteback ring idx) s0 = .next u) ∧
        (∀ k set, s.alighters home r.line = [(k, set)] →
          exec (.ringAlightWriteback ring idx) s0 = .next (u.ringGive k (.done (if set then 0 else 1))))) ∧
      (s.blocked w.token place = true → ∃ t : State, exec (.ringAlightWriteback ring idx) s0 = .next t ∧
        t.writebacks = s.writebacks ++ [w] ∧
        t.rings = KMap.erase s.rings (ringKey ring idx) ∧ t.locks = s.locks ∧ t.mem = s.mem) ∧
      let b := homeOf (ringKey ring idx) r0
      ((∀ kv ∈ s0.ringHolders, kv.1 / 8 ≠ b) → s = s0.stationAt b (8 * b + 8))) ∧
  ((∀ (s0 s : State) (ring idx : Nat) (r0 r : RingSlot), KMap.find? s0.rings (ringKey ring idx) = some r0 →
      s0.canStow (ringKey ring idx) r0 = true → s0.turnOver (homeOf (ringKey ring idx) r0) = true →
      s = s0.applyStation (homeOf (ringKey ring idx) r0) → KMap.find? s.rings (ringKey ring idx) = some r → Memory.wf s.mem = true →
      let w : RingBack := ⟨ringKey ring idx / 512, r, true⟩
      s.blocked w.token (.sram (homeOf (ringKey ring idx) r) (64 * r.line)) = false →
      ∃ t : State, exec (.ringStow ring idx) s0 = .next t ∧ t.rings = KMap.erase s.rings (ringKey ring idx) ∧
        Mem.readBytes t.mem (lineKey (homeOf (ringKey ring idx) r) r.line) 64 = lineBytes r.payload ∧
        t.locks = KMap.modify s.locks (lineKey (homeOf (ringKey ring idx) r) r.line) fun l =>
          { l with state := .stowed r.altpend r.poison }) ∧
    (∀ (s : State) (b line : Nat) (l : LineLock) (alt poison : Bool), KMap.find? s.locks (lineKey b line) = some l →
      l.state = .stowed alt poison → s.isResident l.vd = true → KMap.has s.rings (s.standing b) = false →
      s.blocked (reboardToken b line) (.sram b (64 * line)) = false →
      ∃ t : State, exec (.ringReboard b line) s = .next t ∧ t.locks = KMap.set s.locks (lineKey b line) ⟨.aboard, l.vd, l.region⟩ ∧
        (KMap.find? t.rings (s.standing b)).map (fun r => (r.altpend, r.poison, r.vd, r.line, r.payload)) =
          some (alt, poison || s.poison.contains (Place.sram b (64 * line)).granule, l.vd, line,
            bytesLine (Mem.readBytes s.mem (lineKey b line) 64)) ∧ t.mem = s.mem)) ∧
  ((∀ (s : State) (ctx : Nat) (k : Slot) (e : RingEntry) (rest : List RingEntry), s.ctxOf ctx = some k →
      k.ringq = e :: rest → e.matched = false → e.since + 512 ≤ s.cycle → (∀ n, e.op ≠ .board n) → (∀ f v, e.op ≠ .put f v) →
      exec (.ringMiss ctx) s = .next (s.ringGive k (.failed Cause.ringMiss.code e.ea false))) ∧
    (∀ (s : State) (ring idx : Nat) (r : RingSlot), KMap.find? s.rings (ringKey ring idx) = some r →
      (∃ t : State, exec (.ringSlotError ring idx .payload) s = .next t ∧
        (KMap.find? t.rings (ringKey ring idx)).map (·.poison) = some true ∧ t.mem = s.mem ∧ t.slots = s.slots) ∧
      ∃ t : State, exec (.ringSlotError ring idx .corrected) s = .next t ∧ t.corrSram = s.corrSram + 1 ∧ t.rings = s.rings ∧
        t.mem = s.mem ∧ t.slots = s.slots) ∧
    (∀ (s : State) (b line : Nat) (l : LineLock), KMap.find? s.locks (lineKey b line) = some l → l.state = .aboard →
      (s.rings.any fun kv => decide (homeOf kv.1 kv.2 = b ∧ kv.2.line = line)) = false →
      (s.writebacks.any fun w => decide (w.brick = b ∧ w.slot.line = line)) = false →
      s.neremRuns = true → exec (.ringLockClear b line) s = .next { s with locks := KMap.erase s.locks (lineKey b line) }))

/-- At handler level CRD of any control register, and at task level of any but XPC, XCAUSE, XVAL, SINV and a nonzero XVEC, writes its value to the g register and completes; the values are those of Table 16.2, with the fields of XSTAT and XFRAME in their places (R348, Tables 6.2, 6.6 and 16.2). CWR at handler level writes what Table 16.2 lets it write: XSTAT its SSTEP and PLEVEL, XFRAME only a cleared ACTIVE, SPACEID once the store buffer is empty, SINV by parking on its invalidation; XVEC and BWPHASE take their value, and the writer parks until every brick holds it, at most 1 µs, and until the memory serves that a raised phase wakes, and then completes; a value with a reserved bit set traps with XVAL the value, and the registers that are only read take the privilege trap (R138, R347 to R349). At task level the handler's instructions take the privilege trap with XVAL the word, and change nothing else; WAKEAT can be written, and XVEC while it is zero, as at handler level (R348, R349, R353, R356, R357). That the value of CWR XVEC and CWR BWPHASE stands on the whole device at once, and for how long the writer then parks, is the model’s choice (log entry 32); XVAL of a reserved bit is deduced (log entry 33). -/
def Obligations.ControlRegisters : Prop :=
  (∀ (s : State) (d : GReg) (c : CReg) (x : VDev), s.vd? s.me.vd = some x →
      (s.me.level = .handler ∨ c ∉ [CReg.xpc, .xcause, .xval, .sinv, .xvec] ∨ (c = .xvec ∧ x.xvec = 0) →
        exec (.crd d c) s = .next (s.after (s.me.setG d (s.crValue c)))) ∧
      s.crValue .ackcnt = BitVec.ofNat 64 s.me.ackcnt ∧ s.crValue .slotid = BitVec.ofNat 64 (s.cur % 8) ∧
      s.crValue .brickid = BitVec.ofNat 64 (s.cur / 8) ∧ s.crValue .partid = BitVec.ofNat 64 s.me.vd ∧
      s.crValue .regionid = BitVec.ofNat 64 s.me.region ∧ s.crValue .devtime = BitVec.ofNat 64 (s.devHalfNs / 2) ∧
      s.crValue .xpc = s.me.xpc ∧ s.crValue .xcause = s.me.xcause.setWidth 64 ∧ s.crValue .xval = s.me.xval ∧
      s.crValue .xvec = x.xvec ∧ s.crValue .mqval = s.me.mqval ∧ s.crValue .wakeat = s.me.wakeat ∧
      s.crValue .tkt = s.me.tkt.setWidth 64 ∧ s.crValue .spaceid = s.me.space.setWidth 64 ∧ s.crValue .sinv = 0 ∧
      s.crValue .bwphase = x.bwphase.setWidth 64 ∧ s.crValue .srem0 = s.me.ports[0].rem.setWidth 64 ∧
      s.crValue .srem1 = s.me.ports[1].rem.setWidth 64 ∧ s.crValue .srem2 = s.me.ports[2].rem.setWidth 64 ∧
      (let v := s.crValue .xstat;
        bits v 63 32 = 0 ∧ bits v 31 16 = s.me.zv.toNat ∧ bits v 15 8 = s.me.wv.toNat ∧ bits v 7 4 = 0 ∧ bit v 3 = s.me.sstep ∧
          bit v 2 = s.me.frame.active ∧ bit v 1 = decide (s.me.plevel = .handler) ∧ bit v 0 = decide (s.me.level = .handler)) ∧
      (let v := s.crValue .xframe;
        let f := s.me.frame;
        f.iter < 4096 → f.pos < 16 → f.lenm1 < 16 → f.cntm1 < 4096 → f.stag < 8 →
          bit v 63 = f.active ∧ bits v 62 48 = 0 ∧ bits v 47 36 = f.iter ∧ bits v 35 32 = f.pos ∧ bits v 31 28 = f.lenm1 ∧
            bits v 27 16 = f.cntm1 ∧ bits v 15 3 = 0 ∧ bits v 2 0 = f.stag)) ∧
  (∀ (s : State) (g : GReg) (d : VDev), s.me.level = .handler → s.vd? s.me.vd = some d →
      let v := s.me.getG g
      let k := s.me
      let wrong := fun (i : Instr) => exec i s = .next (s.trapAt s.cur .illegalOperand v)
      let phase := effectivePhase d (v.setWidth 8)
      let phased := s.modVd k.vd fun d => { d with bwphase := v.setWidth 8 }
      exec (.cwr g .xpc) s = .next (s.after { k with xpc := v }) ∧ exec (.cwr g .xval) s = .next (s.after { k with xval := v }) ∧
      exec (.cwr g .wakeat) s = .next (s.after { k with wakeat := v }) ∧
      (bits v 63 16 = 0 → exec (.cwr g .xcause) s = .next (s.after { k with xcause := v.setWidth 16 })) ∧
      (bits v 63 16 ≠ 0 → wrong (.cwr g .xcause)) ∧
      (bits v 63 32 = 0 → bits v 7 4 = 0 → exec (.cwr g .xstat) s =
        .next (s.after { k with sstep := bit v 3, plevel := if bit v 1 then .handler else .task })) ∧
      (bits v 63 32 ≠ 0 ∨ bits v 7 4 ≠ 0 → wrong (.cwr g .xstat)) ∧
      (bits v 1 0 = 0 → ∃ (t : State) (stop : Nat), exec (.cwrXvec g) s = .next t ∧ s.cycle ≤ stop ∧ stop ≤ s.cycle + 2000 ∧
        t.vds = (s.modVd k.vd fun d => { d with xvec := v }).vds ∧ t.me = { k with mode := .parked (.spread stop v [] 0) } ∧
        t.mem = s.mem) ∧
      (bits v 1 0 ≠ 0 → wrong (.cwrXvec g)) ∧
      (bits v 62 48 = 0 → bits v 15 3 = 0 → bit v 63 = false →
        exec (.cwrXframe g) s = .next (s.after { k with frame := { k.frame with active := false, running := false } })) ∧
      (bits v 62 48 ≠ 0 ∨ bits v 15 3 ≠ 0 ∨ bit v 63 = true → wrong (.cwrXframe g)) ∧
      (bits v 63 12 = 0 → k.sb = [] → exec (.cwrSpaceid g) s = .next (s.after { k with space := v.setWidth 12 })) ∧
      (bits v 63 12 = 0 → k.sb ≠ [] → exec (.cwrSpaceid g) s = .next (s.setSlot s.cur { k with mode := .parked (.cond .drained) })) ∧
      (bits v 63 12 ≠ 0 → wrong (.cwrSpaceid g)) ∧
      (bits v 63 8 = 0 → ∃ (t : State) (stop : Nat), exec (.cwrBwphase g) s = .next t ∧ s.cycle ≤ stop ∧ stop ≤ s.cycle + 2000 ∧
        t.vds = phased.vds ∧ t.mem = s.mem ∧
        (effectivePhase d d.bwphase < phase → t.me = { k with mode := .parked (.spread stop v (s.stacksOf k.vd) phase) } ∧
          ∀ kv ∈ t.pch, (s.stacksOf k.vd).contains (kv.1 / 64) = true → kv.2 = .selfRefresh → phase < 2) ∧
        (phase ≤ effectivePhase d d.bwphase → t.me = { k with mode := .parked (.spread stop v [] 0) } ∧ t.pch = s.pch)) ∧
      (∀ (t : State) (key stop ph : Nat) (x : Word) (sts : List Nat), (t.slotAt key).mode = .parked (.spread stop x sts ph) →
        (stop ≤ t.cycle → t.phaseServes sts ph = true → t.spreadOver key = t.completeAt key (t.slotAt key).advance) ∧
        (t.cycle < stop ∨ t.phaseServes sts ph = false → t.spreadOver key = t)) ∧
      (bits v 63 8 ≠ 0 → wrong (.cwrBwphase g)) ∧
      (bits v 51 48 = 0 → bits v 11 2 = 0 → ∃ t : State, exec (.cwrSinv g) s = .next t ∧
        t.me.mode = .parked (.invalidation s.nextId) ∧ t.invals = s.invals ++ [⟨s.nextId, some k.ctx, k.vd, v⟩]) ∧
      (bits v 51 48 ≠ 0 ∨ bits v 11 2 ≠ 0 → wrong (.cwrSinv g)) ∧
      ∀ c ∈ [CReg.partid, .slotid, .brickid, .regionid, .ackcnt, .tkt, .mqval, .srem0, .srem1, .srem2, .devtime],
        exec (.cwr g c) s = .next (s.trapAt s.cur .privilege (instrWord (.cwr g c)))) ∧
  (∀ (s : State) (g : GReg) (c : CReg), s.me.level = .task →
      let priv := fun (i : Instr) => exec i s = .next (s.trapAt s.cur .privilege (((encode i).getD 0).setWidth 64))
      priv .xret ∧ priv (.save g) ∧ priv (.restore g) ∧ priv (.cwrXframe g) ∧ priv (.cwrSpaceid g) ∧ priv (.cwrBwphase g) ∧
      priv (.cwrBankmap g) ∧ priv (.cwrSinv g) ∧ (s.xvec ≠ 0 → priv (.cwrXvec g)) ∧
      (c = .xpc ∨ c = .xcause ∨ c = .xval → priv (.crd g c) ∧ priv (.cwr g c)) ∧ priv (.cwr g .xstat) ∧
      let v := s.me.getG g
      exec (.cwr g .wakeat) s = .next (s.after { s.me with wakeat := v }) ∧
      (s.xvec = 0 → bits v 1 0 ≠ 0 → exec (.cwrXvec g) s = .next (s.trapAt s.cur .illegalOperand v)) ∧
      (s.xvec = 0 → bits v 1 0 = 0 → ∃ (t : State) (stop : Nat), exec (.cwrXvec g) s = .next t ∧ s.cycle ≤ stop ∧ stop ≤ s.cycle + 2000 ∧
        t.vds = (s.modVd s.me.vd fun d => { d with xvec := v }).vds ∧ t.me = { s.me with mode := .parked (.spread stop v [] 0) } ∧
        t.mem = s.mem))

/-- What CWR BANKMAP does to a held sub-bank that exists. Cleared with no accepted access left, it is OFF, zero and not allocated; cleared with one, it is not allocated and its power and contents stay; set, it powers up allocated and zero, or, when it is still closing, is allocated as it stands (the last is the model’s choice: log entry 82); a bit that stays changes nothing (R135, Table 5.7). CWR BANKMAP completes unless it sets a bit of a sub-bank that is not held or clears an allocated one that holds an enabled queue, a line aboard or stowed, or the destination of a prefetch; then it traps with XVAL the value and changes nothing (R135). -/
def Obligations.BankmapAllocation : Prop :=
  (∀ (s : State) (vd b sb : Nat) (v : Word) (x : SubBank), s.holdsSub vd sb = true → s.subBank b sb = x →
      x.power ≠ .unavailable → sb < 16 →
      let u := s.setAlloc vd b v sb
      let zero := ∀ o, o < 2 ^ 16 → Mem.read u.mem (bankAddr b (sb * 2 ^ 16) + o) = Mem.blank
      (x.alloc = true → bit v sb = false → s.acceptedIn b sb = false →
        (u.subBank b sb).alloc = false ∧ (u.subBank b sb).power = .off ∧ zero) ∧
      (x.alloc = true → bit v sb = false → s.acceptedIn b sb = true → u.subBank b sb = { x with alloc := false } ∧ u.mem = s.mem) ∧
      (x.alloc = false → bit v sb = true → s.closing (.sram b (sb * 2 ^ 16)) = false →
        (u.subBank b sb).alloc = true ∧ (u.subBank b sb).power = .poweringUp ∧ zero) ∧
      (x.alloc = false → bit v sb = true → s.closing (.sram b (sb * 2 ^ 16)) = true →
        u.subBank b sb = { x with alloc := true } ∧ u.mem = s.mem) ∧
      (x.alloc = bit v sb → u = s)) ∧
  (∀ (s : State) (g : GReg), s.me.level = .handler →
      let v := s.me.getG g
      let bad := fun (sb : Nat) => if bit v sb then s.holdsSub s.me.vd sb = false
        else s.holdsSub s.me.vd sb = true ∧ (s.subBank s.brick sb).alloc = true ∧
          (s.queueIn s.brick sb = true ∨ s.lockedIn s.brick sb = true ∨ s.prefIn s.me.vd s.brick sb = true)
      ((∀ sb, sb < 16 → ¬bad sb) →
        exec (.cwrBankmap g) s = .next (((List.range 16).foldl (fun u sb => u.setAlloc s.me.vd s.brick v sb) s).after s.me)) ∧
      ((∃ sb, sb < 16 ∧ bad sb) → exec (.cwrBankmap g) s = .next (s.trapAt s.cur .illegalOperand v)))

/-- TRAP takes the system-call trap with XVAL its number at either level; BKPT takes the breakpoint trap with its code, or, with a debug server attached, asks for the halt of its context with cause 8 and the code; HALT completes when its wake time has come or an inbox entry is there, and else sleeps (R352, R354, R355). HALT_WAKE ends a sleep whose time has come (R355). FETCH_FAULT: a fetch that fails traps, waits for its page, or delivers the context, as the failure is (R229, R132). -/
def Obligations.SystemInstructions : Prop :=
  (∀ (s : State) (n : BitVec 12) (d : VDev), s.vd? s.me.vd = some d →
      exec (.trap n) s = .next (s.trapAt s.cur .systemCall (n.setWidth 64)) ∧
      (d.attached = false → exec (.bkpt n) s = .next (s.trapAt s.cur .breakpoint (n.setWidth 64))) ∧
      (d.attached = true → exec (.bkpt n) s =
        .next (s.setSlot s.cur { s.me with xcause := 8, xval := n.setWidth 64, haltAsked := true })) ∧
      (s.me.wakeat.toNat ≤ s.devHalfNs / 2 ∨ s.me.inbox ≠ [] ∨ s.me.overflow ≠ [] → exec .halt s = .next (s.after s.me)) ∧
      (s.devHalfNs / 2 < s.me.wakeat.toNat → s.me.inbox = [] → s.me.overflow = [] →
        exec .halt s = .next (s.setSlot s.cur { s.me with mode := .parked (.cond .haltEnd) }))) ∧
  (∀ (s : State) (b n : Nat), (s.slotAt (8 * b + n)).mode = .parked (.cond .haltEnd) →
      (s.slotAt (8 * b + n)).wakeat.toNat ≤ s.devHalfNs / 2 →
      exec (.haltWake b n) s = .next (s.completeAt (8 * b + n) (s.slotAt (8 * b + n)).advance)) ∧
  (∀ s : State,
      (∀ c, s.fetch s.cur s.me.pc = .fault c → exec .fetchFault s = .next (s.trapAt s.cur c s.me.pc)) ∧
      (s.fetch s.cur s.me.pc = .fatal → exec .fetchFault s = .next (s.deliver s.cur Cause.hypervisor.code s.me.pc)) ∧
      (∀ ipa, s.fetch s.cur s.me.pc = .demand ipa → ∃ t : State, exec .fetchFault s = .next t ∧ t.me.mode = .parked (.demand s.nextId) ∧
        t.demands = s.demands ++ [⟨s.nextId, s.me.vd, ipa, s.me.pc, .slot s.me.ctx, false⟩] ∧ t.me.pc = s.me.pc) ∧
      (s.me.pc.toNat % 4 ≠ 0 → s.fetch s.cur s.me.pc = .fault .fetch))

/-- SAVE at handler level, with nothing outstanding, no mail and no reservation, into 4 KiB of the own bank that can be written: memory takes the image of the slot, with the PC two words on, no other byte changes, and the slot completes (R356, Table 6.11). RESTORE at handler level, with nothing outstanding, no mail and no reservation, from 4 KiB of the own bank that can be read: a sound image whose region has room replaces the slot’s registers and the slot goes on at the image’s PC, its thread counting in the image’s region; an image that is not sound traps with XVAL the address (R357). That SAVE and RESTORE move all their lines in the step that executes them is the model’s choice (log entry 16). -/
def Obligations.SaveAndRestore : Prop :=
  (∀ (s : State) (a : GReg), s.me.level = .handler → s.me.busy = false → s.me.hasMail = false → s.me.quiet = true → s.me.resv = none →
      Memory.wf s.mem = true → s.answers = [] →
      let ea := (s.me.getG a).toNat
      let img := { s.me.dropAhead with pc := s.me.pc + 8 }.saveImage
      ea % 4096 = 0 → (∀ j, j < 64 → s.ownReady (ea + 64 * j) 64) →
      img.length = 4096 ∧ ∃ t : State, exec (.save a) s = .next (t.after t.me) ∧ t.cur = s.cur ∧ t.me = s.me.dropAhead ∧
        Mem.readBytes t.mem (bankAddr s.brick ea) 4096 = img ∧
        ∀ x, x < bankAddr s.brick ea ∨ bankAddr s.brick ea + 4096 ≤ x → Mem.read t.mem x = Mem.read s.mem x) ∧
  (∀ (s : State) (a : GReg) (d : VDev) (tr : Tree), s.me.level = .handler → s.me.busy = false → s.me.hasMail = false →
      s.me.quiet = true → s.me.resv = none → s.vd? s.me.vd = some d → d.tree = some tr → s.answers = [] →
      let ea := (s.me.getG a).toNat
      let img := Mem.readBytes s.mem (bankAddr s.brick ea) 4096
      let dest := (imgWord img 0xB8).toNat
      ea % 4096 = 0 → (∀ j, j < 64 → s.ownReady (ea + 64 * j) 64) →
      (imageSound img tr.regions.length = true → s.regionRoom s.me.vd s.me.region dest = true →
        ∃ t : State, exec (.restore a) s = .next (t.afterAt (s.me.fromImage img) (imgWord img 0x80)) ∧ t.cur = s.cur ∧ t.me = s.me ∧
          t.mem = s.mem ∧ (dest ≠ s.me.region →
            (t.region? s.me.vd dest).map (·.live) = (s.region? s.me.vd dest).map (·.live + 1) ∧
            (t.region? s.me.vd s.me.region).map (·.live) = (s.region? s.me.vd s.me.region).map (·.live - 1))) ∧
      (imageSound img tr.regions.length = false →
        ∃ t : State, exec (.restore a) s = .next (t.trapAt t.cur .illegalOperand (s.me.getG a)) ∧ t.cur = s.cur ∧ t.me = s.me ∧ t.mem = s.mem) ∧
      (∀ n : GReg, (s.me.fromImage img).getG n = imgWord img (8 * n.val)) ∧ (s.me.fromImage img).xpc = imgWord img 0x90)

/-- HIRE and HIRET with valid z registers, at most 512 hods outstanding, the store buffer empty and its stores acknowledged, when the yard accepts the hods and has room and the lane of the slot’s master holds fewer than eight entries: the entry joins with the hods and the first ticket, the register takes that ticket, tickets and outstanding hods are counted, and nothing else of the slot changes but what its ports hold ahead (R327, R329, R330). A hire that the yard rejects still takes its tickets and completes, with one inbox entry for each hod, of kind 1 with its ticket, the lane, the status and a VALUE of 0, and waits for the yard no longer; an invalid z register is stale with XVAL its number (R150, R328). -/
def Obligations.Hires : Prop :=
  (∀ (s : State) (t : GReg) (z : ZReg) (l n : BitVec 3),
      let hire := fun (i : Instr) (m : Nat) (hods : List Line) => s.me.hires + m ≤ 512 → s.me.sb = [] → s.me.ackcnt = 0 →
        s.yardCheck s.me.vd (s.brick / 512) hods = 0 → s.mustWait s.me (s.brick / 512) m = none →
        (s.laneOf (masterOf s.cur s.me.vd) l.toNat).length < 8 →
        ∃ u : State, exec i s = .next (u.after { (s.me.setG t (s.me.tkt.setWidth 64)).dropAhead with
            tkt := s.me.tkt + BitVec.ofNat 32 m, hires := s.me.hires + m }) ∧ u.cur = s.cur ∧ u.slots = s.slots ∧ u.mem = s.mem ∧
          ∃ e, u.entries = s.entries ++ [e] ∧ e.hods = hods ∧ e.ticket = s.me.tkt.toNat ∧ e.lane = l.toNat ∧ e.ctx = s.me.ctx ∧
            e.master = masterOf s.cur s.me.vd ∧ e.vd = s.me.vd ∧ e.region = s.me.region ∧ e.stage = .waiting
      (s.me.zValid z = true → hire (.hire t z l) 1 [s.me.z[z]]) ∧
      (z.val + n.toNat ≤ 15 → (∀ i, i ≤ n.toNat → s.me.zValid (Fin.ofNat 16 (z.val + i)) = true) →
        hire (.hiret t z n l) (n.toNat + 1) ((List.range (n.toNat + 1)).map fun i => s.me.z[(Fin.ofNat 16 (z.val + i) : ZReg)]))) ∧
  (∀ (s : State) (t : GReg) (z : ZReg) (l n : BitVec 3),
      let rejected := fun (i : Instr) (m : Nat) (hods : List Line) => s.me.hires + m ≤ 512 → s.me.sb = [] → s.me.ackcnt = 0 →
        s.me.inbox.length + m ≤ 16 → s.me.overflow = [] →
        ∀ st, st ≠ 0 → s.yardCheck s.me.vd (s.brick / 512) hods = st →
        ∃ k : Slot, exec i s = .next ({ s with yardWaits := s.yardWaits.filter fun w => decide (w.1 ≠ s.me.ctx) }.after k) ∧ k.tkt = s.me.tkt + BitVec.ofNat 32 m ∧ k.getG t = s.me.tkt.setWidth 64 ∧
          k.hires = s.me.hires + m ∧
          k.inbox = s.me.inbox ++ (List.range m).map fun i => ⟨inboxWord (s.me.tkt.toNat + i) l.toNat st 1, 0⟩
      (s.me.zValid z = false → exec (.hire t z l) s = .next (s.trapAt s.cur .stale (wrap (0x200 + z.val)))) ∧
      (s.me.zValid z = true → rejected (.hire t z l) 1 [s.me.z[z]]) ∧
      (z.val + n.toNat ≤ 15 → (∀ i, i ≤ n.toNat → s.me.zValid (Fin.ofNat 16 (z.val + i)) = true) →
        rejected (.hiret t z n l) (n.toNat + 1) ((List.range (n.toNat + 1)).map fun i => s.me.z[(Fin.ofNat 16 (z.val + i) : ZReg)])))

/-- PLSE of a kiln of the partition on its die leases the lowest free number, with no region, and returns the handle, or all ones when three are leased; PCFG with a sound word sets or removes a region of a lease, at once when no hod writes its pallet and the pallet is in its kiln or can be brought in, and else waits there; PFREE of a lease that no entry names, and on which no pallet instruction waits (the model’s choice: log entry 108), frees it, and else waits; a handle that names no lease of the partition traps with XVAL the handle (R206, R332 to R334, R337). PCPY between two regions of one shape, of leases whose pallets no hod writes and are in their kilns, copies every element, all of them read before any is written, and completes; regions of unlike shape trap with XVAL the destination’s handle (R336). -/
def Obligations.PalletLeasesAndCopies : Prop :=
  (∀ (s : State) (d a b : GReg) (r : BitVec 2),
      let kn := (s.me.getG a).toNat
      let h := (s.me.getG a).toNat
      let kiln := s.kiln kn
      let ready := s.palletReady s.me.vd (palletReq (.pcfg r.toNat) (s.me.getG a) 0 (s.me.getG b))
      ((s.kilnsOn s.me.vd (s.brick / 512)).contains kn = true →
        (kiln.leases.length < 3 → (∀ n, n < kiln.freeLease → KMap.has kiln.leases n = true) ∧ KMap.has kiln.leases kiln.freeLease = false ∧
          ∃ u : State, exec (.plse d a) s = .next (u.after (s.me.setG d (wrap (kn * 256 + kiln.freeLease)))) ∧ u.slots = s.slots ∧
            u.cur = s.cur ∧ u.mem = s.mem ∧ KMap.find? (u.kiln kn).leases kiln.freeLease = some ⟨s.me.vd, none, [], false⟩) ∧
        (3 ≤ kiln.leases.length → exec (.plse d a) s = .next (s.after (s.me.setG d (BitVec.allOnes 64))))) ∧
      (∀ le, s.lease? s.me.vd (s.brick / 512) h = some le →
        (s.hodWriting (h / 256) (h % 4) = true → ready = false) ∧
        (s.hodWriting (h / 256) (h % 4) = false → s.hasPallet (h / 256) (.lease (h % 4)) = true → ready = true) ∧
        (pcfgSound (s.me.getG b) = true → ready = true → s.answers = [] →
          ∃ u : State, exec (.pcfg a b r) s = .next (u.after s.me) ∧ u.slots = s.slots ∧ u.cur = s.cur ∧
            (KMap.find? (u.kiln (h / 256)).leases (h % 4)).map (·.regions) = some (le.configure r.toNat (s.me.getG b)).regions) ∧
        (pcfgSound (s.me.getG b) = true → ready = false →
          ∃ t : State, exec (.pcfg a b r) s = .next t ∧ t.me.mode = .parked .reply ∧ t.kilns = s.kilns ∧
            (t.me.req.map fun q => (q.kind, q.stage)) = some (.pcfg r.toNat, .queued)) ∧
        (pcfgSound (s.me.getG b) = false → exec (.pcfg a b r) s = .next (s.trapAt s.cur .illegalOperand (s.me.getG b))) ∧
        (s.leaseInUse h = false → exec (.pfree a) s = .next ((s.freeLease h).after s.me)) ∧
        (s.leaseInUse h = true → ∃ t : State, exec (.pfree a) s = .next t ∧ t.me.mode = .parked .reply ∧
          (KMap.find? (t.kiln (h / 256)).leases (h % 4)).map (·.freer) = some (some s.me.ctx))) ∧
      (s.lease? s.me.vd (s.brick / 512) h = none →
        exec (.pcfg a b r) s = .next (s.trapAt s.cur .illegalOperand (s.me.getG a)) ∧
        exec (.pfree a) s = .next (s.trapAt s.cur .illegalOperand (s.me.getG a)))) ∧
  (∀ (s : State) (a b : GReg) (p q : BitVec 2) (l m : Lease) (g x : PalletRegion),
      let h := (s.me.getG a).toNat
      let t := (s.me.getG b).toNat
      s.lease? s.me.vd (s.brick / 512) h = some l → s.lease? s.me.vd (s.brick / 512) t = some m →
      KMap.find? l.regions p.toNat = some g → KMap.find? m.regions q.toNat = some x →
      let u := (s.useLease s.me.vd h [t]).useLease s.me.vd t [h]
      let src := u.palletOf (h / 256) (.lease (h % 4))
      let b' := (s.useLease s.me.vd h [h, t]).useLease s.me.vd t [h, t]
      (s.hodWriting (h / 256) (h % 4) = false → s.hodWriting (t / 256) (t % 4) = false → s.answers = [] →
        b'.hasPallet (h / 256) (.lease (h % 4)) = true → b'.hasPallet (t / 256) (.lease (t % 4)) = true →
        g.rows = x.rows → g.cols = x.cols →
        exec (.pcpy a b p q) s = .next ((u.modPallet (t / 256) (.lease (t % 4)) (copyRegion g x src)).after s.me) ∧
        ∀ dst : PalletData, (dst.cells.map (·.1)).Pairwise (· < ·) → x.col0 + x.cols ≤ 128 → ∀ i j, i < g.rows → j < g.cols →
          (copyRegion g x src dst).cell (x.row0 + i) (x.col0 + j) = src.cell (g.row0 + i) (g.col0 + j)) ∧
      (g.rows ≠ x.rows ∨ g.cols ≠ x.cols → exec (.pcpy a b p q) s = .next (s.trapAt s.cur .palletRegion (s.me.getG b))))

/-- Slices of a region of a lease whose pallet no hod writes, once the pallet is in its kiln: PRD returns the pallet’s sixteen elements from the index on, a row slice along a row and a column slice along a column, zero beyond the region; PWR writes those that lie in the region from its register; both complete (R335). -/
def Obligations.PalletSlices : Prop :=
  ∀ (s : State) (a b : GReg) (r : BitVec 2) (w : WReg) (le : Lease) (g : PalletRegion), s.me.unbound → s.me.wValid w = true →
    let h := (s.me.getG a).toNat
    let i := bits (s.me.getG b) 6 0
    let j := bits (s.me.getG b) 14 8
    s.lease? s.me.vd (s.brick / 512) h = some le → KMap.find? le.regions r.toNat = some g → s.hodWriting (h / 256) (h % 4) = false →
    (s.useLease s.me.vd h [h]).hasPallet (h / 256) (.lease (h % 4)) = true → s.answers = [] →
    (s.me.getG b).toNat &&& (Machine.field 63 0 - (Machine.field 14 8 + Machine.field 6 0)) = 0 →
    let u := s.useLease s.me.vd h []
    let d := u.palletOf (h / 256) (.lease (h % 4))
    let l := s.me.w[w]
    let wrote := fun (byRow : Bool) (i : Instr) => exec i s =
      .next ((u.modPallet (h / 256) (.lease (h % 4)) (writeSlice g byRow (bits (s.me.getG b) 6 0) j l)).after s.me)
    (i < g.rows → j < g.cols →
      (∃ v : Line, exec (.prdR a b r w) s = .next (u.after (s.me.setW w v)) ∧
        ∀ e, e < 16 → lane v 32 e = if j + e < g.cols then d.cell (g.row0 + i) (g.col0 + j + e) % 2 ^ 32 else 0) ∧
      wrote true (.pwrR a b r w) ∧ ((d.cells.map (·.1)).Pairwise (· < ·) → ∀ e, e < 16 → j + e < g.cols →
        (writeSlice g true i j l d).cell (g.row0 + i) (g.col0 + j + e) = lane l 32 e)) ∧
    (i < g.cols → j < g.rows →
      (∃ v : Line, exec (.prdC a b r w) s = .next (u.after (s.me.setW w v)) ∧
        ∀ e, e < 16 → lane v 32 e = if j + e < g.rows then d.cell (g.row0 + j + e) (g.col0 + i) % 2 ^ 32 else 0) ∧
      wrote false (.pwrC a b r w) ∧ ((d.cells.map (·.1)).Pairwise (· < ·) → ∀ e, e < 16 → j + e < g.rows →
        (writeSlice g false i j l d).cell (g.row0 + j + e) (g.col0 + i) = lane l 32 e))

/-- ENTRY_AGE ages the entries of a die that have been eligible for YAGE resident cycles, each as of the time at which it had been so. GRANT gives a free kiln to an eligible entry that no other precedes in the order of R103, but for those that wait for another entry’s values in a lease of theirs to land, once its pallets are in the kiln, and stamps its master and lane (R103, R104, R204). That an entry waits for the values of another in a lease that it names is deduced (log entry 93). -/
def Obligations.AgingAndGrants : Prop :=
  (∀ (s : State) (die u : Nat) (e : Entry), e ∈ s.entries → e.brick / 512 = die → e.since = some u → e.aged = none →
    e.stage = .waiting → e.runs = [] → e.lands = [] → s.laneReady e = true → s.residentVd e.vd = true →
    u + s.yageOf e.vd ≤ s.residentTime e.vd →
    ∃ t : State, exec (.entryAge die) s = .next t ∧ { e with aged := some (u + s.yageOf e.vd) } ∈ t.entries ∧ t.slots = s.slots ∧ t.mem = s.mem) ∧
  (∀ (s r : State) (die k vd moves : Nat) (e : Entry),
    let kn := 32 * die + k % 32
    s.kilnOwner kn = some vd → s.kilnFree kn = true → s.chosen vd kn = some e → s.answers = [] →
    s.bringPallets kn vd e = (r, some moves) →
    e.holders.all (r.hasPallet kn) = true ∧
    (∀ x ∈ s.entries, x.vd = vd → x.brick / 512 = die → s.eligible x = true → x.boundKiln = none ∨ x.boundKiln = some kn →
      s.leaseTaken x = false → lexLess (s.grantKey x) (s.grantKey e) = false) ∧
    ∃ t : State, exec (.grant die k) s = .next t ∧ (t.kiln kn).running = some e.id ∧ (t.kiln kn).lastVd = some vd ∧
      t.slots = r.slots ∧ t.mem = r.mem ∧ t.stamps e = (r.nextId, r.nextId) ∧
      ∀ x ∈ t.entries, x.id = e.id → x.stage = .granted ∧ x.kiln = some kn)

/-- HOD_START begins the next hod of the entry that an enabled kiln runs, once its lines are pulled and it may start: WLOAD fills the shadow plane, or sets it invalid with status 0x11 on a malformed scale entry; SWAP exchanges the planes; ZERO clears its region of the pallet; an MMA gives each element of its region the value of R201, or status 0x10 against a front plane that does not match; the run is recorded with its start and status (R193, R194, R201, R208). HOD_END of a hod without a landing records it done with its cycles and kiln; that of a LAND of one row of FP32, from a pallet in the kiln to a line of the issuing brick’s bank that can be written, first of its lane, writes the row’s sixteen elements there and no other byte, and records the hod done (R200, R207, R211). That a hod’s work is done at its start and seen at its end is the model’s (log entry 22). -/
def Obligations.HodsRun : Prop :=
  (∀ (s u : State) (id kn i : Nat) (e : Entry) (d : Pulled), s.entry? id = some e → e.kiln = some kn → e.stage = .granted →
      (s.kiln kn).running = some id → (s.kiln kn).enabled = true → e.nextWork = some (i, 0, none, false) →
      let h := e.hods.getD i 0
      let p := e.holderOf h
      s.pullAll e.view (pullLines h 0) ((s.kiln kn).staged id i 0) = (u, d, .ok) →
      (u.modKiln kn fun k => k.stage id i 0 d).mayStart kn e i 0 false = true →
      let held := u.hasPallet kn p = true ∧ ((u.palletOf kn p).cells.map (·.1)).Pairwise (· < ·)
      let fits := (u.kiln kn).front.matches h e.vd
      ∃ t : State, exec (.hodStart id) s = .next t ∧ t.slots = u.slots ∧ (hodOp h ≤ 2 ∨ held → t.mem = u.mem) ∧
        (∀ x ∈ t.entries, x.id = id → ∃ r ∈ x.runs, r.hod = i ∧ r.rep = 0 ∧ r.start = u.cycle ∧ r.silent = false ∧
          r.status = (if hodOp h = 3 ∧ fits = false then 0x10 else if hodOp h = 1 ∧ wload h e.vd d = none then 0x11 else 0)) ∧
        (hodOp h = 1 → (t.kiln kn).shadow = (wload h e.vd d).getD Plane.zero) ∧
        (hodOp h = 2 → (t.kiln kn).front = (u.kiln kn).shadow ∧ (t.kiln kn).shadow = (u.kiln kn).front) ∧
        (hodOp h = 4 → held → hodCol0 h + hodN h ≤ 128 → ∀ m n, m < hodM h → n < hodN h →
          (t.palletOf kn p).cell (hodRow0 h + m) (hodCol0 h + n) = 0) ∧
        (hodOp h = 3 → held → fits = true → hodCol0 h + hodN h ≤ 128 → ∀ m n, m < hodM h → n < hodN h →
          (t.palletOf kn p).cell (hodRow0 h + m) (hodCol0 h + n) =
            mmaCell h 0 d (u.kiln kn).front ((u.palletOf kn p).cell (hodRow0 h + m) (hodCol0 h + n)) m n)) ∧
  (∀ (s : State) (id kn : Nat) (e : Entry) (r : Run), s.entry? id = some e → e.kiln = some kn →
      (e.runs.find? fun r => decide (r.stop ≤ s.cycle)) = some r → r.silent = false → r.status = 0 → KMap.has e.statuses r.hod = false →
      e.lands = [] → Memory.wf s.mem = true →
      let h := e.hods.getD r.hod 0
      let line := bankAddr e.brick (wordOf h 3).toNat
      (hodOp h ≠ 5 → (hodOp h ≠ 3 ∨ hodLandf h = false) → ∃ t : State, exec (.hodEnd id) s = .next t ∧ t.mem = s.mem ∧
        (t.entry? id).map (fun x => KMap.find? x.statuses r.hod) = some (some (0, doneValue (r.stop - r.start) kn))) ∧
      (hodOp h = 5 → hodM h = 1 → hodN h = 16 → hodD h ≠ 1 → e.stage = .granted → r.rep = 0 → s.answers = [] →
        (∀ x ∈ s.entries, x.master = e.master → x.lane = e.lane → x.id = id) → s.hasPallet kn (e.holderOf h) = true →
        s.bankReady id e.vd e.brick (wordOf h 3).toNat 64 →
        ∃ t : State, exec (.hodEnd id) s = .next t ∧
          Mem.readBytes t.mem line 64 =
            ((List.range 16).map fun n => leBytes 4 ((s.palletOf kn (e.holderOf h)).cell (hodRow0 h) (hodCol0 h + n))).flatten ∧
          (∀ a, a < line ∨ line + 64 ≤ a → Mem.read t.mem a = Mem.read s.mem a) ∧
          (t.entry? id).map (fun x => KMap.find? x.statuses r.hod) = some (some (0, doneValue (s.cycle - r.start) kn))))

/-- CPY, GATH, SCAT and COLL read their descriptor as a line load, here of the own bank: a misfit traps with XVAL its address; a sound one with aligned operands, a usable barrier if it names one, fewer than 256 commands outstanding, the store buffer empty and its stores acknowledged takes its ticket and enters the queue of its engine, counted in the slot; with no engine it completes at once with status 1 (R339, R340). An engine that starts a CPY of one row between apart places of the issuing brick’s bank that can be read and written copies its bytes and no others, and the command has ended without an error, having counted them (R341). That a copy with nothing in its way moves in the step that starts it is the model’s (log entry 16). -/
def Obligations.EngineCommands : Prop :=
  (∀ (s : State) (t a b c : GReg) (i : Instr) (kind : CmdKind),
      (i, kind) ∈ [(Instr.cpy t a b c, CmdKind.cpy), (.gath t a b c, .gath), (.scat t a b c, .scat), (.coll t a b c, .coll)] →
      let ea := s.me.getG c
      let home := Place.sram s.brick ea.toNat
      let d := bytesLine (Mem.readBytes s.mem (bankAddr s.brick ea.toNat) 64)
      ea.toNat % 64 = 0 → s.ownReady ea.toNat 64 → s.answers = [] → s.me.descr = none → s.forward s.me s.brick home ea 64 = .clear →
      (misfit kind d = true → exec i s = .next (((s.unstall s.me.ctx).touch home).trapAt s.cur .illegalOperand ea)) ∧
      (misfit kind d = false → (s.me.getG a).toNat % 64 = 0 → (s.me.getG b).toNat % 64 = 0 →
        dBound d = false ∨ s.holdsBarrier s.me.vd (dBar d) = true ∧ (s.barrier s.brick (dBar d)).target ≠ 0 →
        s.me.engines < 256 → s.me.sb = [] → s.me.ackcnt = 0 →
        (∀ e, s.engineFor s.me kind d = some e → ∃ (u : State) (x : Cmd), exec i s = .next (u.after
            { (s.me.setG t (s.me.tkt.setWidth 64)).dropAhead with tkt := s.me.tkt + 1, engines := s.me.engines + 1 }) ∧
          u.cur = s.cur ∧ u.slots = s.slots ∧ u.mem = s.mem ∧ u.cmds = s.cmds ++ [x] ∧ x.kind = kind ∧ x.engine = e ∧
          x.ticket = s.me.tkt.toNat ∧ x.desc = d ∧ x.dst = s.me.getG a ∧ x.src = s.me.getG b ∧ x.ctx = s.me.ctx ∧ x.vd = s.me.vd ∧
          x.phase = .queued ∧ x.barrier = (if dBound d then some (dBar d) else none)) ∧
        (s.engineFor s.me kind d = none → dBound d = false → s.me.inbox.length < 16 → s.me.overflow = [] →
          ∃ (u : State) (k : Slot), exec i s = .next (u.after k) ∧ u.cmds = s.cmds ∧ u.mem = s.mem ∧ k.tkt = s.me.tkt + 1 ∧
            k.getG t = s.me.tkt.setWidth 64 ∧ k.inbox = s.me.inbox ++ [⟨inboxWord s.me.tkt.toNat 0 1 kind.code, 0⟩]))) ∧
  (∀ (s : State) (id n : Nat) (c : Cmd), Memory.wf s.mem = true → s.cmd? id = some c → c.kind = .cpy → c.phase = .queued →
      c.demand = none → c.got = none → c.line = 0 → c.bytes = 0 → s.inOrder c (fun x => decide (x.phase ≠ .queued)) = true →
      s.answers = [] → (∀ e ∈ s.stallq, e.token ≠ id) →
      dRows c.desc = 1 → dRowlen c.desc = 64 * n → 0 < n → c.src.toNat % 64 = 0 → c.dst.toNat % 64 = 0 →
      (c.src.toNat + 64 * n ≤ c.dst.toNat ∨ c.dst.toNat + 64 * n ≤ c.src.toNat) →
      (∀ j, j < n → s.bankReady id c.vd c.brick (c.src.toNat + 64 * j) 64 ∧ s.bankReady id c.vd c.brick (c.dst.toNat + 64 * j) 64) →
      let src := bankAddr c.brick c.src.toNat
      let dst := bankAddr c.brick c.dst.toNat
      ∃ t : State, exec (.engineCommandStart id) s = .next t ∧
        Mem.readBytes t.mem dst (64 * n) = Mem.readBytes s.mem src (64 * n) ∧
        (∀ a, a < dst ∨ dst + 64 * n ≤ a → Mem.read t.mem a = Mem.read s.mem a) ∧ t.slots = s.slots ∧
        ∀ x ∈ t.cmds, x.id = id → x.phase = .ended ∧ x.status = c.status ∧ x.bytes = 64 * n)

/-- ENGINE_COMPLETE of an ended command, in its turn: the command is gone, its completion message is on its way with ticket, status and VALUE, and its barrier's arrival after it (R342, R169). PREF_COMPLETE of an ended prefetch lowers the count of its slot and arrives at its barrier (R289, R291). Collectives: a contribution opens an instance that takes its parameters, or joins the open one if it agrees with it, else completes with status 6; an instance still open after PATIENCE stalls, and a contribution that joins a stalled one has its notice at once (R344, R346). The results of collectives: over an integer format a sum adds the contributions lane by lane, modulo the width, and a minimum or maximum takes in each lane the least or greatest; a broadcast gives the contribution of rank 0 and a gather all of them in rank order (R345). That PATIENCE is measured in device time is the model’s choice (log entry 88). -/
def Obligations.EnginesComplete : Prop :=
  ((∀ (s : State) (id : Nat) (c : Cmd), s.cmd? id = some c → c.phase = .ended → c.kind ≠ .pref → s.inOrder c (fun _ => false) = true →
      ∃ (t : State) (m : InboxMsg), exec (.engineComplete id) s = .next t ∧ t.cmds = s.cmds.filter (fun x => decide (x.id ≠ id)) ∧
        t.slots = s.slots ∧ t.mem = s.mem ∧ t.inboxMsgs = s.inboxMsgs ++ [m] ∧ m.ctx = c.ctx ∧
        m.entry = ⟨inboxWord c.ticket 0 c.status c.kind.code, wrap c.value⟩ ∧
        (c.barrier = none → t.barrierMsgs = s.barrierMsgs) ∧
        ∀ n, c.barrier = some n → ∃ i, t.barrierMsgs = s.barrierMsgs ++ [⟨i, c.vd, c.brick, n, none, decide (c.status ≠ 0), true⟩]) ∧
    (∀ (s : State) (id : Nat) (c : Cmd), s.cmd? id = some c → c.phase = .ended → c.kind = .pref →
      exec (.prefComplete id) s = .next ((({ s with cmds := s.cmds.filter fun x => decide (x.id ≠ id) }).modCtx c.ctx fun k =>
        { k with prefs := k.prefs - 1 }).arriveAt c.vd c.brick (c.barrier.getD 0) (decide (c.status ≠ 0)) true))) ∧
  (∀ (s : State) (id : Nat) (c : Cmd), s.cmd? id = some c → c.phase = .staged → awayColl c.kind c.desc = false →
      s.inOrder c (fun x => !x.coming) = true →
      let d := c.desc
      let found := s.colls.find? fun g => decide (g.vd = c.vd ∧ g.group = dGroup d)
      (found = none → 1 < dSize d → (∀ g ∈ s.colls, g.id ≠ s.nextId) → ∃ t : State, exec (.collArrive id) s = .next t ∧
        t.colls = s.colls ++ [⟨s.nextId, c.vd, dGroup d, dRowlen d, dOpc d, dFmt d, dSize d, dPatience d, s.devTime, false,
          [⟨c.id, dRank d, false⟩]⟩] ∧ (∀ x ∈ t.cmds, x.id = id → x.phase = .joined s.nextId) ∧ t.mem = s.mem ∧ t.slots = s.slots) ∧
      (∀ g, found = some g → g.agrees d = true → g.members.length + 1 < g.size → g.stalled = false →
        ∃ t : State, exec (.collArrive id) s = .next t ∧ t.mem = s.mem ∧ t.slots = s.slots ∧
          { g with members := g.members ++ [⟨c.id, dRank d, false⟩] } ∈ t.colls ∧ ∀ x ∈ t.cmds, x.id = id → x.phase = .joined g.id) ∧
      (∀ g, found = some g → g.agrees d = true → g.members.length + 1 < g.size → g.stalled = true →
        ∃ t : State, exec (.collArrive id) s = .next t ∧ t.mem = s.mem ∧ t.slots = s.slots ∧
          { g with members := g.members.map (fun m => { m with noticed := true }) ++ [⟨c.id, dRank d, true⟩] } ∈ t.colls ∧
          ∃ m ∈ t.inboxMsgs, m.ctx = c.ctx ∧ m.entry = ⟨inboxWord c.ticket 0 0 4, wrap (g.members.length + 1 + g.size * 2 ^ 16)⟩) ∧
      (∀ g, found = some g → g.agrees d = false → exec (.collArrive id) s = .next (s.modCmd id fun c => c.fails 6)) ∧
      (∀ (n : Nat) (g : CollInst), (s.colls.find? fun g => decide (g.id = n)) = some g → g.stalled = false →
        g.opened + 1000 * g.patience ≤ s.devTime → exec (.collPatienceExpiry n) s = .next (s.stallAll g))) ∧
  (∀ (f : Elt) (fmt n : Nat) (xs : List (List Line)), Elt.ofCode (BitVec.ofNat 5 fmt) = some f → f.isInt = true → xs ≠ [] →
      (∀ x ∈ xs, x.length = n) →
      let at' := fun (x : List Line) (j l : Nat) => lane (x.getD j 0) (eltBits f) l
      let val := fun (x : List Line) (j l : Nat) => intValue (eltSigned f) (eltBits f) (at' x j l)
      (∀ j l, j < n → l < 512 / eltBits f →
        at' (collResult 0 fmt xs) j l = ((xs.map fun x => at' x j l).sum) % 2 ^ eltBits f ∧
        (∃ x ∈ xs, at' (collResult 1 fmt xs) j l = at' x j l ∧ ∀ y ∈ xs, val x j l ≤ val y j l) ∧
        (∃ x ∈ xs, at' (collResult 2 fmt xs) j l = at' x j l ∧ ∀ y ∈ xs, val y j l ≤ val x j l)) ∧
      collResult 3 fmt xs = xs.headD [] ∧ collResult 4 fmt xs = xs.flatten)

/-- Nerem’s answers to a demand fault. RETRY writes its table entries and has the held request translated again: a parked slot executes its access afresh with its registers and PC, a held store, or an engine’s command, goes on. LONG saves a parked slot’s context out of its slot, once the memory of its image serves. FATAL delivers the context with the hypervisor cause, and ends an engine’s command with status 0x20 (R132, R343). PAGE_PRESENT after LONG puts the held context back, once its image has been read, into a free slot of its brick, READY with its registers; FAULT_HANDLER_PLACE starts the handler of a domain on the brick of the fault with the address of the notice in g0; one owed to a device in destruction is dropped (R115, R132). That a handler owed to a device in destruction is dropped is the model’s choice (log entry 110). -/
def Obligations.DemandFaults : Prop :=
  (∀ (s : State) (id : Nat) (d : Demand) (ws : List TableWrite), s.demand? id = some d →
      let u := (s.dropDemand d).writeTables ws
      (∀ c key, d.who = .slot c → s.keyOf c = some key → (s.slotAt key).ctx = c → (s.slotAt key).mode = .parked (.demand id) →
        (∃ t : State, exec (.demandFaultRetry id ws) s = .next t ∧ (t.slotAt key).mode = .ready ∧ (t.slotAt key).pc = (s.slotAt key).pc ∧
          (t.slotAt key).g = (s.slotAt key).g ∧ t.mem = (s.writeTables ws).mem ∧ ∀ x ∈ t.demands, x.id ≠ id) ∧
        (∀ (r : State) (p : Passage),
          let l := { s with demands := s.demands.map fun (x : Demand) => if x.id = id then { x with long := true } else x }
          l.contextPassage imagePass (s.slotAt key).vd key 0 4096 (some (l.fullImage (s.slotAt key).paged (key / 8))) = (r, p) → r.slotAt key = s.slotAt key →
          (p = .still → exec (.demandFaultLong id) s = .next r) ∧
          (p = .done → (s.slotAt key).resv = none → ∃ t : State, exec (.demandFaultLong id) s = .next t ∧ t.mem = r.mem ∧
          (r.residentOf (key % 8) = none → t.slotAt key = Slot.empty) ∧
          ((KMap.find? t.held (keepKey c key (s.slotAt key).vd)).map fun k => (k.ctx, k.g, k.pc, k.w, k.z)) =
            some (c, (s.slotAt key).g, (s.slotAt key).pc, (s.slotAt key).w, (s.slotAt key).z))) ∧
        exec (.demandFaultFatal id) s = .next ((s.dropDemand d).deliver key Cause.hypervisor.code d.va)) ∧
      (∀ c e, d.who = .store c e → exec (.demandFaultRetry id ws) s =
        .next (u.modCtx c fun k => k.modSb e fun x => { x with demand := none })) ∧
      (∀ c, d.who = .engine c → exec (.demandFaultRetry id ws) s = .next (u.modCmd c fun x => { x with demand := none }) ∧
        exec (.demandFaultFatal id) s = .next ((s.dropDemand d).modCmd c fun x => { x.fails 0x20 with demand := none }))) ∧
  ((∀ (s u : State) (id c key n : Nat) (d : Demand) (k : Slot) (ws : List TableWrite), s.demand? id = some d → d.who = .slot c → d.long = true →
      let r := ((s.dropDemand d).writeTables ws).retryFor d
      (List.find? (fun (kv : Nat × Slot) => decide (kv.2.ctx = c ∧ kv.2.mode ≠ .halted)) r.held) = some (key, k) →
      r.contextPassage imagePass k.vd (key % 2 ^ 18 / 16) 0 4096 none = (u, .done) → u.isResident k.vd = true → KMap.getD u.spills (queueKey (key % 2 ^ 18 / 128) k.vd) [] = [] →
      KMap.getD u.arrivals (queueKey (key % 2 ^ 18 / 128) k.vd) [] = [] → u.freeSlot k.vd (key % 2 ^ 18 / 128) = some n →
      ∃ t : State, exec (.pagePresent id ws) s = .next t ∧ t.slotAt (8 * (key % 2 ^ 18 / 128) + n) = k ∧ t.mem = u.mem ∧ KMap.find? t.held key = none) ∧
    (∀ (s : State) (vd dom whre va n : Nat) (r : Region),
      (s.handlerPlaces.find? fun h => decide (h.1 = vd) && s.neremRuns) = some (vd, dom, whre, va) → s.region? vd dom = some r →
      (((s.vd? vd).bind (·.destroy)).isSome = true →
        exec (.faultHandlerPlace vd) s = .next { s with handlerPlaces := s.handlerPlaces.erase (vd, dom, whre, va) }) ∧
      (((s.vd? vd).bind (·.destroy)) = none →
      r.live < r.slots → whre < 2 ^ 14 → s.freeSlot vd (whre / 8) = some n → KMap.getD s.spawnq (queueKey (whre / 8) vd) [] = [] →
      ∃ t : State, exec (.faultHandlerPlace vd) s = .next t ∧ (t.slotAt (8 * (whre / 8) + n)).mode = .ready ∧
        (t.slotAt (8 * (whre / 8) + n)).pc = r.handler ∧ (t.slotAt (8 * (whre / 8) + n)).getG 0 = wrap va ∧
        (t.slotAt (8 * (whre / 8) + n)).region = dom ∧ t.mem = s.mem)))

/-- A table entry that Nerem writes in the firmware reserve, keeping the IPA layouts of the devices, is there, lowest byte first, and nothing else changes; an entry that would break a layout, or one outside the reserve, is not written (R126). HYP_INVALIDATE while Nerem serves: Nerem makes its table writes, and an invalidation sets out for the device with the value’s fields, its reserved bits discarded. An invalidation that no older access can still use completes: the translations it names leave the quoins’ caches, every instruction cache is empty, and the slot whose CWR waited goes on (R7, R130, R131, R230). That an entry outside the reserve, or one that would break a layout, is not written is the model’s choice (log entry 47); which range an invalidation of Nerem’s has is deduced (log entry 79). -/
def Obligations.TablesAndInvalidations : Prop :=
  (∀ (s : State) (w : TableWrite), Memory.wf s.mem = true →
      let t := s.writeTables [w]
      (inReserve w.pa = true → (s.tableWrites [w]).layoutSound = true → Mem.readBytes t.mem w.pa 8 = leBytes 8 w.entry.toNat ∧
        ∀ a, a < w.pa ∨ w.pa + 8 ≤ a → Mem.read t.mem a = Mem.read s.mem a) ∧
      (inReserve w.pa = false ∨ (s.tableWrites [w]).layoutSound = false → t = s)) ∧
  ((∀ (s : State) (vd : Nat) (v : Word) (ws : List TableWrite), s.neremRuns = true →
      ∃ (t : State) (x : Word), exec (.hypInvalidate vd ⟨v, ws⟩) s = .next t ∧
        t.invals = s.invals ++ [⟨s.nextId, none, vd, x⟩] ∧ t.mem = (s.writeTables ws).mem ∧ t.slots = s.slots ∧
        bits x 63 52 = bits v 63 52 ∧ bits x 51 48 = 0 ∧ bits x 47 12 = bits v 47 12 ∧ bits x 11 2 = 0 ∧ bits x 1 0 = bits v 1 0) ∧
    (∀ (s : State) (id : Nat) (i : Inval), (s.invals.find? fun i => decide (i.id = id)) = some i → s.oldDone i = true →
      let u := { s.discard i with icaches := [], codeLog := [], invals := s.invals.filter fun x => decide (x.id ≠ id) }
      (∀ q e, e ∈ KMap.getD u.tlb q [] → e ∈ KMap.getD s.tlb q [] ∧ ¬(e.vd = i.vd ∧ i.meets e.space e.va e.sh = true)) ∧
      (i.ctx = none → exec (.invalidateComplete id) s = .next u) ∧
      (∀ c key, i.ctx = some c → s.keyOf c = some key → (s.slotAt key).mode = .parked (.invalidation id) →
        exec (.invalidateComplete id) s = .next (u.completeAt key (s.slotAt key).advance))))

/-- A cold reset, DRST_GO, a function-level reset of the PF and a thermal trip reset the device, and a reset wipes it: each byte of SRAM and HBM reads zero, KID 0 has a fresh key and no other KID has one, no slot, device, key owner, window, lock, message, hire, command, cached translation or stalled access is left, and queues stand as at reset; fuses, module flash, NVMe namespaces, failed stacks, the tamper flag and the host’s memory keep what they held (R22, R23, R67, R35). The boot ROM and the monitor: a refused monitor sets ERRCODE 1 (that boot stays at stage 1 is the model’s choice: log entry 65); a valid image in the active slot runs, else a valid one in the other; with none the part is in recovery, stage 0xF0; a scrapped part halts in the ROM (R27, R28, R30, Tables 1.5 and 1.7). The watchdog resets a device whose health report is late and fails its slot if it was on trial. A life-cycle change that is forward, and to RMA only with an unlock token of Ouvain’s and the owner’s authorisation, blows the fuse, erases the NVMe namespaces and resets; any other changes nothing. A write to RCMD outside recovery, or with GO = 0, does nothing; in recovery with GO = 1 a valid image in the recovery buffer becomes slot A and the device is reset; an invalid one, or none, sets ERRCODE (which one an invalid image sets is the model’s choice: log entry 65). A health report makes Nerem serve for another minute (R25, R28, R30). That ERRCODE shows the last refusal, which the clause for two empty slots states, is deduced (log entry 12), and that a monitor refused for its rollback index alone shows 1 is the model’s choice (log entry 65). The clock of the watchdog and of the health report is the model’s choice (log entry 63); that the other slot is passed over when its failure flag is set is deduced (log entry 12), and so is what a reset keeps and zeroes beside the lists of R23 and R67 (log entry 11). -/
def Obligations.ResetsAndBoot : Prop :=
  (∀ s : State,
      let t := s.deviceReset
      (∀ i : Instr, i ∈ [Instr.coldReset, .drstGo, .pfFunctionLevelReset, .thermalTrip] → exec i s = .next t) ∧
      (∀ a, a < 2 ^ 64 → Mem.read t.mem a = Mem.blank) ∧
      (∀ a, 2 ^ 64 ≤ a → Mem.read t.mem a = Mem.read s.mem a) ∧
      (t.slots = [] ∧ t.saved = [] ∧ t.held = [] ∧ t.orphans = [] ∧ t.barriers = [] ∧ t.arrivals = [] ∧ t.spills = [] ∧ t.spawnq = [] ∧
        t.owner = [] ∧ t.keys = [(0, s.nextId)] ∧ t.windows = [] ∧ t.poison = [] ∧ t.fenced = [] ∧ t.vds = [] ∧ t.kilns = [] ∧ t.entries = [] ∧
        t.cmds = [] ∧ t.colls = [] ∧ t.rings = [] ∧ t.writebacks = [] ∧ t.locks = [] ∧ t.msgs = [] ∧ t.inboxMsgs = [] ∧ t.invals = [] ∧
        t.demands = [] ∧ t.tlb = [] ∧ t.stallq = [] ∧ t.erasing = [] ∧ t.funs = [] ∧ t.rules = [] ∧ t.queues = [] ∧ t.hashmask = [] ∧
        t.notices = [] ∧ t.spillPos = [] ∧ t.tamper = s.tamper ∧ t.update = none ∧ t.cycle = 0 ∧ t.boot.lcs = s.boot.lcs ∧ t.boot.minMonitor = s.boot.minMonitor ∧ t.boot.minNerem = s.boot.minNerem ∧
        t.boot.slotA = s.boot.slotA ∧ t.boot.slotB = s.boot.slotB ∧ t.boot.monitor = s.boot.monitor ∧ t.boot.nvme = s.boot.nvme ∧
        t.failedStacks = s.failedStacks)) ∧
  (∀ b : Boot, let r := b.rom
      let good := fun (second : Bool) => match b.slot second with
        | some i => b.accepts b.minNerem i && !(b.failed second)
        | none => false
      let monitor := b.accepts b.minMonitor b.monitor
      let choice := if good b.activeB then some b.activeB else if good (!b.activeB) then some (!b.activeB) else none
      (b.lcs = 15 → r.stage = 1 ∧ r.monitorMeasured = b.monitorMeasured) ∧
      (b.lcs ≠ 15 → if monitor then r.monitorMeasured = some b.monitor ∧
          (match choice with
            | some second => r.stage = 3 ∧ r.img = (if second then 2 else 1) ∧ r.neremMeasured = b.slot second
            | none => r.stage = 0xF0 ∧ r.neremMeasured = b.neremMeasured) ∧
          (b.slotA = none → b.slotB = none → b.failA = false → b.failB = false → r.errcode = if b.activeB then 2 else 3)
        else r.stage = 1 ∧ r.errcode = 1)) ∧
  (∀ s : State,
      (3 ≤ s.boot.stage → s.boot.stage ≤ 5 → s.boot.healthBy ≤ s.devTime → ∃ t : State, exec .watchdogReset s = .next t ∧
        t = State.deviceReset { s with boot := s.boot.missed } ∧ (s.boot.trial = true → s.boot.missed.failed s.boot.activeB = true) ∧
        (s.boot.trial = false → s.boot.missed = s.boot)) ∧
      (∀ n token owner, (lifeForward s.boot.lcs n = true → (n = 4 → Config.unlockOk token = true ∧ owner = true) →
          ∃ t : State, exec (.lifeCycleChange ⟨n, token, owner⟩) s = .next t ∧ t.boot.lcs = n ∧
            (∀ kv ∈ t.boot.nvme, kv.2 = []) ∧ t.slots = [] ∧ t.vds = []) ∧
        (lifeForward s.boot.lcs n = false → exec (.lifeCycleChange ⟨n, token, owner⟩) s = .next s) ∧
        (n = 4 → Config.unlockOk token = false ∨ owner = false → exec (.lifeCycleChange ⟨n, token, owner⟩) s = .next s)) ∧
      (∀ v, s.boot.stage ≠ 0xF0 ∨ bit v 0 = false → exec (.rcmdGo v) s = .next s) ∧
      (∀ v, s.boot.stage = 0xF0 → bit v 0 = true → ∃ t : State, exec (.rcmdGo v) s = .next t ∧
        match s.boot.recovery with
        | some img => if s.boot.accepts s.boot.minNerem img then t.boot.slotA = some img ∧ t.boot.failA = false ∧ t.boot.failB = false ∧
            t.boot.activeB = false ∧ t.slots = []
          else t.boot.slotA = s.boot.slotA ∧ t.boot.stage = 0xF0 ∧ (t.boot.errcode = 2 ∨ t.boot.errcode = 4)
        | none => t.boot.slotA = s.boot.slotA ∧ t.boot.stage = 0xF0 ∧ t.boot.errcode = 2) ∧
      (s.boot.stage = 4 ∨ s.boot.stage = 5 → s.update = none → ∃ t : State, exec .healthReport s = .next t ∧ t.boot.stage = 5 ∧
        t.boot.healthBy = s.devTime + 60000000000 ∧ t.mem = s.mem ∧ t.slots = s.slots))

/-- Islands start one at a time, at least 10,000 cycles apart, the lowest number that asks first, and are ready 40,000 cycles later: bricks in RUN, kilns at K2 or under a thermal hold at K10; a broken one shows ERRCODE 6 instead. A kiln island enables its first kiln as it is ready and kiln j of its four 32 j cycles after, in ascending order: a kiln waits until those before it are enabled (R18, R19, Table 1.7). A brick island without a ready slot may enter HOLD, its clock stopped, and leaves it when one is ready or a write-back of the ring has asked for RUN; an island that nothing uses may go OFF and loses its barriers or its kilns; a kiln island takes the point it wants when none of its kilns runs (R14, R15, R185). POWER_SAMPLE, when 10 µs have passed, keeps the last 100 samples; above the module limit on average it lowers one kiln island by a point, of the lowest class in service, and below 95 % raises one; THERMAL_HOLD holds every kiln island of a die at K10 (R16, R17). The average over fewer than 100 samples, and what the lowest class in service is, are deduced (log entry 14). -/
def Obligations.IslandsAndPower : Prop :=
  (∀ (s : State) (isl : Nat),
      (3 ≤ s.boot.stage → s.boot.stage ≤ 5 → (s.lastStart = none ∨ ∃ c, s.lastStart = some c ∧ c + 10000 ≤ s.cycle) →
        s.pending isl = true → (∀ j, j < isl → s.pending j = false) → ∃ t : State, exec (.islandStart isl) s = .next t ∧
          (t.island isl).state = .starting s.cycle ∧ (t.island isl).clock = s.cycle ∧ t.lastStart = some s.cycle ∧ t.slots = s.slots ∧ t.mem = s.mem ∧
          ∀ j, j ≠ isl → t.island j = s.island j) ∧
      (∀ c, (s.island isl).state = .starting c → c + 40000 ≤ s.cycle → s.boot.defects.contains isl = false →
        ∃ t : State, exec (.islandReady isl) s = .next t ∧
          (t.island isl).state = (if isKilnIsland isl then (if (s.island isl).held then .k10 else .k2) else .run) ∧
          (t.island isl).readyAt = s.cycle ∧ (∀ j, j ≠ isl → t.island j = s.island j) ∧ t.slots = s.slots ∧ t.mem = s.mem ∧
          (isKilnIsland isl = true → (t.kiln ((islandKilns isl).headD 0)).enabled = true)) ∧
      (∀ c, (s.island isl).state = .starting c → c + 40000 ≤ s.cycle → s.boot.defects.contains isl = true →
        exec (.islandReady isl) s = .next { s with boot := { s.boot with errcode := 6 } }) ∧
      (∀ c, (s.island isl).state = .starting c → s.cycle < c + 40000 → exec (.islandReady isl) s = .next s) ∧
      (∀ k, (s.island (kilnIsland k)).state ∈ [IslandState.k2, .k15, .k10] → (s.island (kilnIsland k)).readyAt + 32 * (k % 4) ≤ s.cycle →
        (∀ j ∈ islandKilns (kilnIsland k), j < k → (s.kiln j).enabled = true) →
        ∃ t : State, exec (.kilnEnable k) s = .next t ∧ (t.kiln k).enabled = true ∧ (∀ j, j ≠ k → t.kiln j = s.kiln j) ∧ t.mem = s.mem) ∧
      (∀ k, (s.cycle < (s.island (kilnIsland k)).readyAt + 32 * (k % 4) ∨
        ∃ j ∈ islandKilns (kilnIsland k), j < k ∧ (s.kiln j).enabled = false) → exec (.kilnEnable k) s = .next s)) ∧
  (∀ (s : State) (isl : Nat),
      let only := fun (t : State) (st : IslandState) => (t.island isl).state = st ∧ (∀ j, j ≠ isl → t.island j = s.island j) ∧
        t.slots = s.slots ∧ t.mem = s.mem
      let ready := s.slotsIn isl fun k => decide (k.mode = .ready)
      ((s.island isl).state = .run → ready = false → ∃ t : State, exec (.islandEnterHold isl) s = .next t ∧ only t .hold ∧
        (t.island isl).clock = s.cycle - (s.island isl).clock) ∧
      ((s.island isl).state = .hold → ready = true ∨ (s.island isl).wanted = .run → ∃ t : State, exec (.islandLeaveHold isl) s = .next t ∧ only t .run ∧
        (t.island isl).clock = s.cycle - (s.island isl).clock) ∧
      ((s.island isl).state ∈ [IslandState.run, .hold, .k2, .k15, .k10] → s.islandUsed isl = false → 5 ≤ s.boot.stage →
        ∃ t : State, exec (.islandEnterOff isl) s = .next t ∧ only t .off ∧
          (∀ kv ∈ t.barriers, brickIsland (kv.1 / 128) ≠ isl) ∧ ∀ kv ∈ t.kilns, kilnIsland kv.1 ≠ isl) ∧
      (∀ k, kilnIsland k = isl → (s.island isl).state ∈ [IslandState.k2, .k15, .k10] → (s.island isl).wanted ∈ [IslandState.k2, .k15, .k10] →
        (∀ q ∈ islandKilns isl, (s.kiln q).running = none) → ∃ t : State, exec (.kilnPointSwitch k) s = .next t ∧
          only t (s.island isl).wanted)) ∧
  ((∀ (s : State) (mw : Nat), (s.lastSample = none ∨ ∃ c, s.lastSample = some c ∧ c + 20000 ≤ s.cycle) →
      let xs := (s.powerSamples ++ [mw]).drop (s.powerSamples.length + 1 - 100)
      ∃ t : State, exec (.powerSample mw) s = .next t ∧ t.powerSamples = xs ∧ t.lastSample = some s.cycle ∧ t.mem = s.mem ∧ t.slots = s.slots ∧
        (2000000 * xs.length < xs.sum → ∀ i, s.toLower = some i → (t.island i).wanted = (s.island i).wanted.lower ∧
          (∀ j, j ≠ i → t.island j = s.island j) ∧
          ∀ j ∈ kilnIslands, (s.island j).wanted = .k2 ∨ (s.island j).wanted = .k15 → s.islandClass j ≤ s.islandClass i) ∧
        (xs.sum < 1900000 * xs.length → ∀ i, s.toRaise = some i → (t.island i).wanted = (s.island i).wanted.raise ∧
          (s.island i).held = false ∧ ∀ j, j ≠ i → t.island j = s.island j) ∧
        (1900000 * xs.length ≤ xs.sum → xs.sum ≤ 2000000 * xs.length → t.islands = s.islands)) ∧
    (∀ (s : State) (die : Nat), ∃ t : State, exec (.thermalHold die) s = .next t ∧ t.mem = s.mem ∧ t.slots = s.slots ∧
      (∀ j, j < 8 → (t.island (16 * die + 8 + j)).held = true ∧ (t.island (16 * die + 8 + j)).wanted ∉ [IslandState.k2, .k15]) ∧
      ∀ i, (i < 16 * die + 8 ∨ 16 * die + 16 ≤ i) → t.island i = s.island i))

/-- A sub-bank that has not been used for 128,000 cycles, holds no enabled steering queue and has no accepted access left goes to RETENTION, outside phase 3, and keeps its bytes; wakes and power-ups end in ON; pseudo-channels power down and refresh themselves by their timers and become ACTIVE when they have woken (R21, R134 to R137). Repairs: the scrubber counts a corrected error, and poisons a granule of SRAM that it cannot correct and any granule whose error parity does not repair; a sub-bank without spare lines leaves the power map once its partition has had its notice, and what it held has been migrated (where to is the model’s choice: log entry 80); remaps, row repairs, rollovers and rebuilds end and free what waited, a row repair every granule of the row (R32 to R34, R66, R124, R140). HASHMASK_WRITE takes effect quarter by quarter: a quarter of the stack in which a unit is owned keeps its pair of masks, any other takes the value's (R123). -/
def Obligations.MemoryUpkeep : Prop :=
  (∀ (s : State) (b sb p : Nat),
      (∀ v, (s.subHolder sb).bind s.vd? = some v → (s.subBank b sb).alloc = true → (s.subBank b sb).power = .on →
        max (s.subBank b sb).lastUse v.created + 128000 ≤ s.cycle → v.phase ≠ 3 → s.queueIn b sb = false → s.acceptedIn b sb = false →
        ∃ t : State, exec (.subbankRetention b sb) s = .next t ∧ (t.subBank b sb).power = .retention ∧ t.mem = s.mem ∧ t.slots = s.slots) ∧
      ((s.subBank b sb).power = .waking → ∃ t : State, exec (.subbankWakeDone b sb) s = .next t ∧ (t.subBank b sb).power = .on ∧ t.mem = s.mem) ∧
      ((s.subBank b sb).power = .poweringUp → (s.island (brickIsland b)).state = .run ∨ (s.island (brickIsland b)).state = .hold →
        ∃ t : State, exec (.subbankPowerUpDone b sb) s = .next t ∧ (t.subBank b sb).power = .on ∧ t.mem = s.mem) ∧
      (∀ n, s.pchState p = .active → (pchTimers (s.stackPhase (p / 64))).1 = some n → KMap.getD s.pchUse p 0 + n ≤ s.cycle →
        (∀ e ∈ s.stallq, e.unit ≠ 2 ^ 20 + p) → exec (.pchPowerDown p) s = .next { s with pch := KMap.set s.pch p .powerDown }) ∧
      (∀ n, s.pchState p = .active ∨ s.pchState p = .powerDown → (pchTimers (s.stackPhase (p / 64))).2 = some n →
        KMap.getD s.pchUse p 0 + n ≤ s.cycle → (∀ e ∈ s.stallq, e.unit ≠ 2 ^ 20 + p) → exec (.pchSelfRefresh p) s = .next { s with pch := KMap.set s.pch p .selfRefresh }) ∧
      (s.pchState p = .waking → exec (.pchWakeDone p) s =
        .next { s with pch := KMap.erase s.pch p, pchUse := KMap.set s.pchUse p s.cycle })) ∧
  (∀ s : State,
      (∀ b o, o < 2 ^ 20 → b < 2048 → (s.subBank b (o / 2 ^ 16)).spares < 8 → let g := bankAddr b o
        exec (.patrolScrub g .clean) s = .next s ∧
        (∃ t : State, exec (.patrolScrub g .corrected) s = .next t ∧ t.corrSram = s.corrSram + 1 ∧ t.mem = s.mem) ∧
        ∃ t : State, exec (.patrolScrub g .uncorrectable) s = .next t ∧ t.poison.contains (g / 64 * 64) = true ∧ t.mem = s.mem) ∧
      (∀ g, exec (.patrolScrub g .lost) s = .next { s with poison := NSet.insert s.poison (placeOf (g / 64 * 64)).granule }) ∧
      (∀ b sb, s.neremRuns = true → (s.subBank b sb).noticed = true → (s.subBank b sb).power ≠ .unavailable →
        let lo := bankAddr b (sb * 2 ^ 16)
        ∃ t : State, exec (.subbankWithdraw b sb) s = .next t ∧ (t.subBank b sb).power = .unavailable ∧
          KMap.find? t.migrated (subKey b sb) = some (s.mem.filter fun c => decide (lo ≤ c.1 ∧ c.1 < lo + 2 ^ 16)) ∧
          ∀ vd o, o / 2 ^ 16 = sb → t.sramFault vd b o = some .bank) ∧
      (∀ b sb, (s.subBank b sb).noticed = false → exec (.subbankWithdraw b sb) s = .next s) ∧
      (∀ b sb g, s.remapping.contains (bankAddr b (sb * 2 ^ 16 + g % 2 ^ 16 / 64 * 64)) = true → s.remapping.Nodup →
        ∃ t : State, exec (.spareLineRemapDone b sb g) s = .next t ∧ t.sparedLines = s.sparedLines + 1 ∧ t.mem = s.mem ∧
          t.remapping.contains (bankAddr b (sb * 2 ^ 16 + g % 2 ^ 16 / 64 * 64)) = false) ∧
      (∀ g, s.rowRepair.any (sameRow (g / 64)) = true → ∃ t : State, exec (.spareRowRepairDone g) s = .next t ∧
        t.rowRepair.any (sameRow (g / 64)) = false ∧ t.sparedLines = s.sparedLines + 1 ∧ t.mem = s.mem) ∧
      (∀ k, s.rolling.Nodup → ∃ t : State, exec (.majorRolloverDone k) s = .next t ∧ t.rolling.contains k = false ∧ t.mem = s.mem) ∧
      (∀ st w, KMap.find? s.w62 st = some w → ∃ t : State, exec (.channelRebuildComplete st) s = .next t ∧
        KMap.find? t.w62 st = some { w with moved := stackEnd } ∧ t.mem = s.mem)) ∧
  (∀ (s : State) (stack q : Nat) (v : Word), s.neremRuns = true → q < 4 → ∃ t : State, exec (.hashmaskWrite stack v) s = .next t ∧
      maskPair (t.hashMask stack) q = (if s.quarterOwned stack q then maskPair (s.hashMask stack) q else maskPair v q) ∧
      (∀ x, x ≠ stack → t.hashMask x = s.hashMask x) ∧ t.mem = s.mem)

/-- VDKEY gives a device without a key a fresh one, in life-cycle state TEST a test key, and is denied where no key may be made. VDERASE zeroes the key entry, is busy while a window lists the device or its key is being erased, and is answered when the erasure ends, with every unit that the key owned CLEARED (R74, R75, Tables 1.5 and 3.9). Windows: WINOPEN gives fresh units a key, a member list and GEN 0; WINMEMBERS begins a re-key, whose drain brings a new key beside the old one, and whose close, once no granule is left under the old key, makes the new list count, adds 2 ^ 32 to GEN and answers WINMEMBERS; WINCLOSE begins to erase the key and is answered when the window is CLOSED and its units are; each is busy during a re-key or an erasure (R74, R77, R82, R85, Table 3.9). ATTEST gives the signed report of a device over the requester’s nonce; SPDM gives the PF every measurement block and a VF only its own device’s beside the common ones, signed. A signed report is its body with the signature of the attestation key over it and the key’s certificates (R86, Tables 3.9 and 3.10). That VDERASE, WINMEMBERS and WINCLOSE of a KID whose key is being erased answer busy is the model’s choice (log entry 74). -/
def Obligations.KeysWindowsMeasurements : Prop :=
  (∀ (s : State) (vd : Nat) (v : VDev),
      (s.neremRuns = true → s.vd? vd = some v →
        (s.boot.keysAllowed = true → KMap.has s.keys (vd + 1) = false → s.beingErased (vd + 1) = false →
          ∃ t : State, exec (.vdkey vd) s = .next t ∧
            KMap.find? t.keys (vd + 1) = some (if s.boot.lcs = 1 then Config.testKey s.nextId else s.nextId) ∧ t.mailbox = some (0x10, 0) ∧
            t.mem = s.mem) ∧
        (s.boot.keysAllowed = false → exec (.vdkey vd) s = .next { s with mailbox := some (0x10, 2) }) ∧
        ((s.windows.any fun kv => kv.2.lists vd) = false → s.beingErased (vd + 1) = false → exec (.vderase vd) s =
          .next { s with keys := KMap.erase s.keys (vd + 1), erasing := s.erasing ++ [⟨vd + 1, .key⟩] }) ∧
        ((s.windows.any fun kv => kv.2.lists vd) = true ∨ s.beingErased (vd + 1) = true →
          exec (.vderase vd) s = .next { s with mailbox := some (0x11, 3) })) ∧
      (s.erasing = [⟨vd + 1, .key⟩] → let t := s.eraseAll
        t.mailbox = some (0x11, 0) ∧ t.erasing = [] ∧ (∀ kv ∈ t.owner, kv.2 ≠ vd + 1) ∧ t.keys = s.keys ∧ t.mem = s.mem)) ∧
  (∀ (s : State) (w : Nat),
      (s.neremRuns = true →
        (∀ units ms creator, s.boot.keysAllowed = true → w < 64 → s.windowFree w = true → s.membersSound ms = true →
          s.unitsSound units creator = true → s.unitsFree units = true → s.quotaAllows creator units = true →
          ∃ t : State, exec (.winopen w units ms creator) s = .next t ∧ t.mailbox = some (0x20, 0) ∧
            KMap.find? t.windows w = some ⟨units, ms, 0, .opened, [], false, creator, none, []⟩ ∧
            KMap.find? t.keys (32 + w) = some (if s.boot.lcs = 1 then Config.testKey s.nextId else s.nextId) ∧ ∀ kv ∈ t.owner, kv.1 ∉ units) ∧
        (∀ x, KMap.find? s.windows w = some x →
          (∀ ms, x.state = .opened → s.boot.keysAllowed = true → s.membersSound ms = true → s.beingErased (32 + w) = false →
            exec (.winmembers w ms) s =
              .next { s with windows := KMap.set s.windows w { x with state := .rekey, next := ms, drained := false } }) ∧
          (∀ ms, x.state = .rekey → exec (.winmembers w ms) s = .next { s with mailbox := some (0x21, 3) }) ∧
          (x.state = .rekey → x.drained = false → ∃ t : State, exec (.rekeyDrained w) s = .next t ∧
            KMap.find? t.windows w = some { x with drained := true, old := KMap.find? s.keys (32 + w), passed := [] } ∧
            KMap.find? t.keys (32 + w) = some (if s.boot.lcs = 1 then Config.testKey s.nextId else s.nextId)) ∧
          (x.state = .rekey → x.drained = true → (∀ g ∈ s.written, s.rekeyAhead x x.passed g = false) →
            ∃ t : State, exec (.rekeyClose w) s = .next t ∧ t.mailbox = some (0x21, 0) ∧ KMap.find? t.windows w =
              some { x with state := .opened, members := x.next, next := [], drained := false, old := none, passed := [], gen := x.gen + 0x100000000 }) ∧
          (x.state = .rekey → (∃ g ∈ s.written, s.rekeyAhead x x.passed g = true) → exec (.rekeyClose w) s = .next s) ∧
          (x.state = .opened → s.beingErased (32 + w) = false → exec (.winclose w) s =
            .next { s with keys := KMap.erase s.keys (32 + w), erasing := s.erasing ++ [⟨32 + w, .window w⟩] }) ∧
          (x.state = .rekey ∨ (x.state = .opened ∧ s.beingErased (32 + w) = true) →
            exec (.winclose w) s = .next { s with mailbox := some (0x22, 3) }))) ∧
      (s.erasing = [⟨32 + w, .window w⟩] → let t := s.eraseAll
        t.mailbox = some (0x22, 0) ∧ t.erasing = [] ∧ (∀ kv ∈ t.owner, kv.2 ≠ 32 + w) ∧ t.mem = s.mem ∧
        ∀ x, KMap.find? s.windows w = some x → KMap.find? t.windows w = some { x with state := .closed })) ∧
  ((∀ body : List Nat, signed body = body ++ (Config.attestSign body).toNat :: Config.certificates.map (·.toNat)) ∧
    ∀ s : State,
      (∀ vd nonce v, s.neremRuns = true → s.vd? vd = some v → exec (.attest vd nonce) s =
        .next { s with reports := s.reports ++ [(vd, signed (nonce :: (s.commonBlocks.flatten ++ s.vdBlock vd)))], mailbox := some (0x30, 0) }) ∧
      (∀ vd nonce, s.neremRuns = true → s.vd? vd = none → exec (.attest vd nonce) s = .next { s with mailbox := some (0x30, 1) }) ∧
      (∀ f, ∃ (t : State) (r : List Nat), exec (.spdmGetMeasurements f) s = .next t ∧ t.reports = s.reports ++ [(f, signed r)] ∧ t.mem = s.mem ∧
        (f = 0 → r = s.commonBlocks.flatten ++ ((s.vds.map (·.1)).map s.vdBlock).flatten) ∧
        (∀ vd v, f ≠ 0 → s.vds = [(vd, v)] → r = s.commonBlocks.flatten ++ if v.func = f then s.vdBlock vd else [])))

/-- FRAME_ACCEPT of a frame of at most 9,216 bytes, whose first byte came after the port’s last frame, steers it, unless a rule of Nerem’s takes it, by the first rule that it matches: into an empty entry of an enabled queue, data, header and word 0, which is then full; an entry that is full, or with a line locked on the ring (the model’s reading of R179: log entry 51), drops it, and SEQ moves on all the same; while the memory of the entry cannot serve, the frame waits with its SEQ and STAMP (log entry 109); a frame that no rule takes goes to management. A longer frame is counted as oversize and does nothing else (R49 to R55, Table 1.9). A frame that fails at its port is counted there and nowhere else; PTP and PPS set device time forward at once by more than 1 ms, and slew any other correction (R38, R50). A Birtil port delivers a flit that arrives whole and in sequence on its virtual channel, and its ACK takes what it names from the replay buffer; one with a nonzero bit marked zero in VC counts a protocol error; a flit out of sequence does nothing. A failed flit is replayed, and after eight failed replays in a row the port retrains, with 8 lanes, then with 4, and then goes down (R37). A flit out of sequence, the cumulative ACK, and a reserved VC bit that makes a flit a protocol error, undelivered, with the sequence moving on, are the model’s (log entry 53), and so are a correction that replaces what was left of the old one (log entry 52), and STAMP, one frame of a port at a time and a length without the FCS (log entry 49). -/
def Obligations.NetworkAndLinks : Prop :=
  (∀ (s : State) (port : Nat) (f : List Byte),
      (9216 < f.length → ∃ t : State, exec (.frameAccept port f) s = .next t ∧ t.mem = s.mem ∧ t.queues = s.queues ∧ t.fe = s.fe ∧
        (t.ethPort port).oversize = (s.ethPort port).oversize + 1 ∧ (t.ethPort port).received = (s.ethPort port).received) ∧
      (f.length ≤ 9216 → s.wireFree port f = true → Memory.wf s.mem = true → s.fe.Nodup →
        let found := List.find? (fun (kv : Nat × SteerRule) => ruleMatches kv.2.record port f) s.rules
        let kept := fun (t : State) => t.mem = s.mem ∧ t.fe = s.fe ∧ t.queues = s.queues ∧ (t.ethPort port).received = (s.ethPort port).received + 1
        let steered := fun (P : State → Prop) => ∃ t : State, exec (.frameAccept port f) s = .next t ∧
          if Config.neremTakes port f then kept t ∧ (t.ethPort port).management = (s.ethPort port).management + 1 else P t
        (found = none → steered fun t => kept t ∧ (t.ethPort port).unmatched = (s.ethPort port).unmatched + 1) ∧
        (∀ n r, found = some (n, r) → leAt r.record 3 1 = 1 → steered kept) ∧
        (∀ n r, found = some (n, r) → 2 ≤ leAt r.record 3 1 → steered fun t => kept t ∧
          (t.ethPort port).management = (s.ethPort port).management + 1) ∧
        (∀ n r q, found = some (n, r) → leAt r.record 3 1 = 0 → KMap.find? s.queues (leAt r.record 4 2) = some q → q.en = true →
          let p := q.place q.widx 0
          let room := 2 ^ q.log2s - 64
          let key := bankAddr q.brick (q.offset + q.widx * 2 ^ q.log2s)
          let lines := p :: (List.range (1 + ceilDiv (min f.length room) 64)).map fun i => q.place q.widx (64 * i)
          (∀ x ∈ s.frames, x.queue ≠ leAt r.record 4 2) →
          ((∃ l ∈ lines, s.blocked s.nextId l = true) → steered fun t => t.mem = s.mem ∧ t.fe = s.fe ∧
            t.frames = s.frames ++ [⟨s.nextId, leAt r.record 4 2, port, n, q.seq, s.frameStamp f, f⟩] ∧
            KMap.find? t.queues (leAt r.record 4 2) = some { q with seq := (q.seq + 1) % 2 ^ 64, accepted := q.accepted + 1 }) ∧
          ((∀ l ∈ lines, s.blocked s.nextId l = false) →
          (s.feBit p = true ∨ s.entryLocked q f.length = true → steered fun t => t.mem = s.mem ∧ KMap.find? t.queues (leAt r.record 4 2) =
            some { q with seq := (q.seq + 1) % 2 ^ 64, accepted := q.accepted + 1, fullDrops := q.fullDrops + 1 }) ∧
          (s.feBit p = false → s.entryLocked q f.length = false → KMap.find? s.feq (p.key / 8 * 8) = none → steered fun t =>
            t.feBit p = true ∧
            Mem.readBytes t.mem key 8 = leBytes 8 (entryWord0 q.seq f.length (decide (room < f.length)) port n) ∧
            Mem.readBytes t.mem (key + 8) 56 = entryHeader q.seq (s.frameStamp f) ∧
            Mem.readBytes t.mem (key + 64) (entryData room f).length = entryData room f ∧
            (∀ a, a < key ∨ key + 64 + (entryData room f).length ≤ a → Mem.read t.mem a = Mem.read s.mem a) ∧
            KMap.find? t.queues (leAt r.record 4 2) = some { q with
              seq := (q.seq + 1) % 2 ^ 64, widx := (q.widx + 1) % 2 ^ q.log2e, accepted := q.accepted + 1,
              truncated := q.truncated + b2n (decide (room < f.length)) }))))) ∧
  (∀ (s : State) (port : Nat) (corr : Int),
      (∀ why, ∃ t : State, exec (.frameDropAtPort port why) s = .next t ∧ t.mem = s.mem ∧ t.queues = s.queues ∧ t.slots = s.slots ∧
        (t.ethPort port).fcs = (s.ethPort port).fcs + b2n (decide (why = .fcs)) ∧
        (t.ethPort port).runts = (s.ethPort port).runts + b2n (decide (why = .runt)) ∧
        (t.ethPort port).oversize = (s.ethPort port).oversize + b2n (decide (why = .oversize))) ∧
      (∀ i : Instr, i = .ptpEventMessage port corr ∨ i = .ppsInput corr → ∃ t : State, exec i s = .next t ∧ t.slots = s.slots ∧ t.mem = s.mem ∧
        (1000000 < corr → t.devHalfNs = s.devHalfNs + 2 * corr.toNat ∧ t.slew = 0) ∧
        (corr ≤ 1000000 → t.devHalfNs = s.devHalfNs ∧ t.slew = 2 * corr)) ∧
      (∃ t : State, exec (.ptpEventMessage port corr) s = .next t ∧ (t.ethPort port).ptp = (s.ethPort port).ptp + 1)) ∧
  (∀ (s : State) (port : Nat) (f : List Byte),
      let b := s.birtilPort port
      (b.up = true → f.length = 64 → ∃ t : State, exec (.flitReceive port f) s = .next t ∧ t.mem = s.mem ∧ t.slots = s.slots ∧
        if crcOk f then
          (leAt f 4 2 = b.rxSeq → (t.birtilPort port).rxSeq = (b.rxSeq + 1) % 2 ^ 16 ∧ (t.birtilPort port).link = b.link ∧
            (t.birtilPort port).replays = 0 ∧ (t.birtilPort port).replay = (b.acknowledge (leAt f 3 1)).replay ∧
            (leAt f 2 1 < 4 → leAt f 0 2 = 1 → (t.birtilPort port).delivered =
              KMap.set b.delivered (leAt f 2 1) (KMap.getD b.delivered (leAt f 2 1) [] ++ [f.drop 8])) ∧
            (4 ≤ leAt f 2 1 → (t.birtilPort port).delivered = b.delivered ∧ (t.birtilPort port).protocolErrors = b.protocolErrors + 1)) ∧
          (leAt f 4 2 ≠ b.rxSeq → t = s)
        else (t.birtilPort port).rxSeq = b.rxSeq ∧ (t.birtilPort port).delivered = b.delivered ∧
          (b.replays < 8 → (t.birtilPort port).link = b.link ∧ (t.birtilPort port).replays = b.replays + 1) ∧
          (8 ≤ b.replays → (t.birtilPort port).link = .retraining 8)) ∧
      (∀ n ok, b.link = .retraining n → (s.msgs.all fun m => !(m.place.onPort port)) = true → ∃ t : State,
        exec (.retrainComplete port ok) s = .next t ∧ t.mem = s.mem ∧ t.slots = s.slots ∧
        (t.birtilPort port).link = if ok then (if n = 8 then .lanes8 else .lanes4) else if n = 8 then .retraining 4 else .down))

/-- QCTL: enabling a function’s queues starts their counts at 1 and clears ERR; disabling drops the responses not yet written, and, by the model’s choice (log entry 67), the requests taken and not answered; QBASE and LOG2N change only while EN is 0, and a LOG2N out of range sets ERR to 5; the host reads back the fields, reserved bits zero; a reset of a virtual function resets its queues alone (R42, R43, R6). QUEUE_POLL takes the request whose header holds the expected count, with its payload, and publishes the count; an entry not yet written is left; any other count, a length beyond 120, a host read answered with an error, or an area beyond the end of the address space (the model’s reading of “unreachable”: log entry 46) is an error of the queue (R43, R45, R46, Table 2.3). A response goes into the next entry of the response ring while there is room, its header last in the count it carries; without room it waits, and to a disabled function it is dropped (R43, R45). That LIVE is set to 1 together with ERR 2 or 3 is the model’s choice (log entry 99), and so is that ERR 5 comes whatever EN is (log entry 43). -/
def Obligations.HostQueues : Prop :=
  (∀ (s : State) (f : Nat),
      let x := s.hostFun f
      let others := fun (t : State) => (∀ g, g ≠ f → (t.hostFun g).qbase = (s.hostFun g).qbase ∧ (t.hostFun g).en = (s.hostFun g).en) ∧
        t.mem = s.mem ∧ t.slots = s.slots
      (x.en = false → ∃ t : State, exec (.qctlEnable f) s = .next t ∧ others t ∧ (t.hostFun f).en = true ∧ (t.hostFun f).err = 0 ∧
        (t.hostFun f).reqCount = 1 ∧ (t.hostFun f).rspCount = 1 ∧ (t.hostFun f).pending = [] ∧ (t.hostFun f).qbase = x.qbase) ∧
      (x.en = true → ∃ t : State, exec (.qctlDisable f) s = .next t ∧ others t ∧ (t.hostFun f).en = false ∧
        (t.hostFun f).pending = [] ∧ (t.hostFun f).waiting = [] ∧ (t.hostFun f).qbase = x.qbase) ∧
      (x.en = false → ∃ t : State, exec (.queueLiveClear f) s = .next t ∧ others t ∧ t.hostFun f = { x with live := false }) ∧
      (∀ v, (x.en = true → exec (.hostRegisterWrite f .qbase v) s = .next s) ∧
        (x.en = false → ∃ t : State, exec (.hostRegisterWrite f .qbase v) s = .next t ∧ others t ∧
          t.hostFun f = { x with qbase := bits v 63 12 * 4096 }) ∧
        (x.en = false → bit v 0 = false → 4 ≤ bits v 19 16 → bits v 19 16 ≤ 12 → ∃ t : State,
          exec (.hostRegisterWrite f .qctl v) s = .next t ∧ others t ∧ t.hostFun f = { x with log2n := bits v 19 16 }) ∧
        (x.en = false → bit v 0 = true → 4 ≤ bits v 19 16 → bits v 19 16 ≤ 12 → ∃ t : State,
          exec (.hostRegisterWrite f .qctl v) s = .next t ∧ others t ∧ (t.hostFun f).en = true ∧ (t.hostFun f).log2n = bits v 19 16) ∧
        (x.en = true → bit v 0 = true → 4 ≤ bits v 19 16 → bits v 19 16 ≤ 12 → ∃ t : State,
          exec (.hostRegisterWrite f .qctl v) s = .next t ∧ others t ∧ t.hostFun f = x) ∧
        (x.en = true → bit v 0 = false → ∃ t : State,
          exec (.hostRegisterWrite f .qctl v) s = .next t ∧ others t ∧ (t.hostFun f).en = false ∧ (t.hostFun f).log2n = x.log2n) ∧
        (bits v 19 16 < 4 ∨ 12 < bits v 19 16 → bit v 0 = x.en → ∃ t : State, exec (.hostRegisterWrite f .qctl v) s = .next t ∧ others t ∧
          t.hostFun f = { x with err := 5 })) ∧
      (x.err < 256 → x.log2n < 16 → ∃ v : Word, s.hostRead f 0x0108 = some v ∧ bits v 0 0 = b2n x.en ∧ bits v 1 1 = b2n x.live ∧
        bits v 15 2 = 0 ∧ bits v 19 16 = x.log2n ∧ bits v 31 20 = 0 ∧ bits v 39 32 = x.err ∧ bits v 63 40 = 0) ∧
      (f ≠ 0 → ∃ t : State, exec (.vfFunctionLevelReset f) s = .next t ∧ others t ∧
        t.hostFun f = { HostFun.atReset with live := (t.hostFun f).live })) ∧
  (∀ (s : State) (f : Nat),
      let x := s.hostFun f
      let a := x.qbase + 128 * ((x.reqCount - 1) % x.n)
      let h := s.hostWord a
      let seq := nbits h 63 32
      let want := x.reqCount % 2 ^ 32
      let old := if x.reqCount ≤ x.n then 0 else (x.reqCount - x.n) % 2 ^ 32
      s.neremRuns = true → s.update = none → x.en = true → x.err = 0 →
      (x.areaFits = false → ∃ t : State, exec (.queuePoll f) s = .next t ∧ t.hostFun f = { x with err := 1 } ∧ t.mem = s.mem) ∧
      (x.areaFits = true → readError (s.answers.headD .sound) = true →
        ∃ t : State, exec (.queuePoll f) s = .next t ∧ t.hostFun f = { x with err := 4 } ∧ t.mem = s.mem) ∧
      (x.areaFits = true → readError (s.answers.headD .sound) = false → x.waiting = [] → Memory.wf s.mem = true →
        (seq = want → nbits h 7 0 ≤ 120 → ∃ t : State, exec (.queuePoll f) s = .next t ∧
          t.hostFun f = { x with
            live := true, reqCount := x.reqCount + 1,
            pending := x.pending ++ [⟨seq, nbits h 31 16, nbits h 15 0, Mem.readBytes s.mem (2 ^ 64 + a + 8) 120, 0⟩] } ∧
          Mem.readBytes t.mem (2 ^ 64 + x.qbase + 256 * x.n) 8 = leBytes 8 x.reqCount ∧
          ∀ y, y < 2 ^ 64 + x.qbase + 256 * x.n ∨ 2 ^ 64 + x.qbase + 256 * x.n + 8 ≤ y → Mem.read t.mem y = Mem.read s.mem y) ∧
        (seq = want → 120 < nbits h 7 0 → ∃ t : State, exec (.queuePoll f) s = .next t ∧ t.hostFun f = { x with live := true, err := 3 }) ∧
        (seq ≠ want → seq = old → ∃ t : State, exec (.queuePoll f) s = .next t ∧ t.hostFun f = { x with live := true } ∧ t.mem = s.mem) ∧
        (seq ≠ want → seq ≠ old → ∃ t : State, exec (.queuePoll f) s = .next t ∧ t.hostFun f = { x with live := true, err := 2 }))) ∧
  (∀ (s : State) (f seq st v : Nat), Memory.wf s.mem = true → (s.hostFun f).waiting = [] → (s.hostFun f).err = 0 →
      let x := s.hostFun f
      let a := 2 ^ 64 + (x.qbase + 128 * x.n + 128 * ((x.rspCount - 1) % x.n))
      let room := x.rspCount ≤ x.n + s.hostWord (x.qbase + 256 * x.n + 8)
      let t := s.respond f seq st v []
      (x.en = false → t = s) ∧
      (x.en = true → room → t.hostFun f = { x with rspCount := x.rspCount + 1 } ∧
        Mem.readBytes t.mem a 8 = leBytes 8 ((st * 2 ^ 16 + 12) % 2 ^ 32 + x.rspCount % 2 ^ 32 * 2 ^ 32) ∧
        Mem.readBytes t.mem (a + 8) 4 = leBytes 4 seq ∧ Mem.readBytes t.mem (a + 12) 8 = leBytes 8 v ∧
        ∀ y, y < a ∨ a + 128 ≤ y → Mem.read t.mem y = Mem.read s.mem y) ∧
      (x.en = true → ¬room → t.mem = s.mem ∧ t.hostFun f = { x with waiting := [responseEntry seq st v []] }))

/-- NOP answers success, an unknown opcode 1, a request that only the PF may make 2 from a VF, a malformed one 6; INFO answers the counters of the set (R47, R48). VDCREATE gives a new device its resources, its table root, its save region and a fresh key, or answers 3 where it cannot be made. VDDESTROY of a device without contexts begins to drain, and of one with contexts answers 3 (so does one while a drain goes on, by the model’s choice: log entry 103). Once its work has drained it leaves its windows, then its key is zeroed, and when the erasure ends the device is gone, its units are CLEARED and its sub-banks read zero (R39, R41, R74, R126, R175). STEERSET stores a sound rule record, but rules 0 to 15 are Nerem's; a sound queue descriptor whose entries lie in its device's sub-banks is stored, disabled or opened with SEQ, index and counts at zero; one with an enabled predecessor of another shape is refused, of the same shape enables or disables it (that the counters of INFO set 1 begin anew with SEQ is the model’s choice: log entry 97) (R49 to R51). That a thread only queued to start counts as a context is the model’s choice (log entry 96); that a VF’s request is answered 2 before its payload is looked at is deduced (log entry 44). That VDCREATE answers 3 where the table root or the save region does not do, or the key is refused, is the model’s choice (log entries 71 and 72). -/
def Obligations.HostRequests : Prop :=
  (∀ (s : State) (f id : Nat) (r : HostReq),
      (s.request? f id 1 = some r → exec (.nop f id) s = .next (s.reply f id (if r.len = 0 then 0 else 6) 0)) ∧
      (s.serves f = true → r ∈ (s.hostFun f).pending → r.seq = id → r.op ∉ knownOps → exec (.unknownRequest f id) s = .next (s.reply f id 1 0)) ∧
      (s.request? f id 0x30 = some r → infoSound r = true → s.infoAllowed f r = true → exec (.info f id) s =
        .next ((s.taken f id).respond f id 0 0 (s.counters (r.at 9 1) (r.at 8 1) (r.at 10 2)))) ∧
      (s.request? f id 0x30 = some r → infoSound r = true → s.infoAllowed f r = false → exec (.info f id) s = .next (s.reply f id 2 0)) ∧
      (f ≠ 0 → (∀ root save ws, s.request? f id 2 = some r → exec (.vdcreate f id ⟨root, save⟩ ws) s = .next (s.reply f id 2 0)) ∧
        (s.request? f id 3 = some r → exec (.vddestroy f id) s = .next (s.reply f id 2 0)) ∧
        (s.request? f id 0x50 = some r → exec (.update f id) s = .next (s.reply f id 2 0)))) ∧
  ((∀ (s : State) (id root save : Nat) (ws : List TableWrite) (r : HostReq), s.request? 0 id 2 = some r → createSound r = true →
      (s.creates (r.at 8 1) (createVd s r root save) = true → ∃ t : State, exec (.vdcreate 0 id ⟨root, save⟩ ws) s = .next t ∧
        t.vd? (r.at 8 1) = some (createVd s r root save) ∧
        KMap.find? t.keys (r.at 8 1 + 1) = some (if s.boot.lcs = 1 then Config.testKey s.nextId else s.nextId) ∧ t.slots = s.slots ∧
        ∀ x, x ≠ r.at 8 1 → t.vd? x = s.vd? x) ∧
      (s.creates (r.at 8 1) (createVd s r root save) = false → exec (.vdcreate 0 id ⟨root, save⟩ ws) s = .next (s.reply 0 id 3 0))) ∧
    (∀ (s : State) (id : Nat) (r : HostReq) (v : VDev), s.request? 0 id 3 = some r → r.len = 1 → r.at 8 1 < 16 → s.vd? (r.at 8 1) = some v →
      (s.hasContexts (r.at 8 1) = false → v.destroy = none → ∃ t : State, exec (.vddestroy 0 id) s = .next t ∧
        (t.vd? (r.at 8 1)).bind (·.destroy) = some (some (0, id)) ∧ (∀ e ∈ t.entries, e.vd = r.at 8 1 → e.stage ≠ .waiting) ∧ t.mem = s.mem) ∧
      (s.hasContexts (r.at 8 1) = true ∨ v.destroy.isSome = true → exec (.vddestroy 0 id) s = .next (s.reply 0 id 3 0))) ∧
    (∀ (s : State) (vd : Nat) (v : VDev) (owed : Option (Nat × Nat)), s.vd? vd = some v → v.destroy = some owed →
      (v.tree = none → s.drainedOf vd = true → s.coresRun = true →
        ((s.windows.any fun kv => kv.2.holds vd) = true → ∃ t : State, exec (.vddestroyDrained vd) s = .next t ∧ t.vds = s.vds ∧ t.mem = s.mem) ∧
        ((s.windows.any fun kv => kv.2.holds vd) = false → s.beingErased (vd + 1) = false → ∃ t : State,
          exec (.vddestroyDrained vd) s = .next t ∧ t.keys = KMap.erase s.keys (vd + 1) ∧
          t.erasing = s.erasing ++ [⟨vd + 1, .device vd⟩] ∧ (∀ kv ∈ t.locks, kv.2.vd ≠ vd) ∧ (∀ kv ∈ t.rings, kv.2.vd ≠ vd))) ∧
      (s.erasing = [⟨vd + 1, .device vd⟩] → (s.vds.map (·.1)).Nodup → let t := s.eraseAll
        t.vd? vd = none ∧ (∀ x, x ≠ vd → t.vd? x = s.vd? x) ∧ (∀ e ∈ t.owner, e.2 ≠ vd + 1) ∧
        ∀ b o, b < 2048 → o < 2 ^ 20 → v.subbanks.contains (o / 2 ^ 16) = true → Mem.read t.mem (bankAddr b o) = Mem.blank))) ∧
  (∀ (s : State) (id : Nat) (r : HostReq), s.request? 0 id 0x40 = some r →
      (r.at 8 1 = 0 → ruleSound r = true →
        (r.at 10 2 < 16 → exec (.steersetRule 0 id) s = .next (s.reply 0 id 2 0)) ∧
        (16 ≤ r.at 10 2 → ∃ t : State, exec (.steersetRule 0 id) s = .next t ∧
          KMap.find? t.rules (r.at 10 2) = some ⟨(r.payload.drop 8).take 96, 0⟩ ∧ t.queues = s.queues ∧ t.slots = s.slots)) ∧
      (r.at 8 1 = 1 → queueSound r = true →
        let new : SteerQueue := ⟨r.at 16 1, decide (r.at 17 1 = 1), r.at 18 1, r.at 19 1, r.at 20 2, r.at 24 8, 0, 0, 0, 0, 0, 0⟩
        let fits := s.queueFits new.vd new.brick new.offset (2 ^ (new.log2e + new.log2s))
        (fits = false → exec (.steersetQueue 0 id) s = .next (s.reply 0 id 3 0)) ∧
        (fits = true → (∀ q, KMap.find? s.queues (r.at 10 2) = some q → q.en = false) → s.fe.Nodup → ∃ t : State,
          exec (.steersetQueue 0 id) s = .next t ∧ KMap.find? t.queues (r.at 10 2) = some new ∧ t.rules = s.rules ∧
          (new.en = true → ∀ i, i < 2 ^ new.log2e → s.lineLocked ((new.place i 0).key / 64 * 64) = false → t.feBit (new.place i 0) = false)) ∧
        (∀ q, KMap.find? s.queues (r.at 10 2) = some q → fits = true → q.en = true → q.vd = new.vd → q.log2e = new.log2e → q.log2s = new.log2s →
          q.brick = new.brick → q.offset = new.offset → ∃ t : State, exec (.steersetQueue 0 id) s = .next t ∧
          KMap.find? t.queues (r.at 10 2) = some { q with en := new.en } ∧ t.rules = s.rules ∧ t.fe = s.fe) ∧
        (∀ q, KMap.find? s.queues (r.at 10 2) = some q → fits = true → q.en = true → q.offset ≠ new.offset →
          exec (.steersetQueue 0 id) s = .next (s.reply 0 id 3 0))))

/-- LOAD writes a line of host memory to the device-side address that translation gives, FETCH the other way, once the table words of its translation have been read and where that memory can serve; a fault ends the copy with status 4 and the bytes copied, and so does a page that Nerem declines to back; a page that must be backed, or memory that cannot serve, leaves the request pending (R48, R21, R132). LAUNCH of a tree that passes its checks writes the region table, with one live thread in the root, and starts the root’s first thread at its home brick, where a slot is free, with its arguments, once the memory of the tree has been read; a bad RCB is refused with its address, and so is one at a page that Nerem declines to back; at a page that must be backed, or memory that cannot serve, the request stays pending. A device with a tree, or with the response of its last LAUNCH not yet written, is refused with the root’s address, and by the model’s choice (log entry 103) one in destruction (R89, R90, R92, R132). LAUNCH_RESPONSE ends a tree without live threads, whose notices have been written and handled, and answers its LAUNCH with the status of its end; CANCEL of a named region ends its threads, and is answered when none of them is left (R90, R376). That a LAUNCH for a device in destruction is answered 3 with the root’s address is the model’s choice (log entry 103). -/
def Obligations.CopiesAndTrees : Prop :=
  (∀ (s w u : State) (f id win : Nat) (r : HostReq) (p : Place), copySound r = true → s.named f (r.at 24 1) = true → r.done = 0 → r.at 32 8 = 64 →
      w.answers = [] → (∀ e ∈ w.stallq, e.token ≠ copyToken f r.seq) →
      let waits := fun (i : Instr) => ∃ t : State, exec i s = .next t ∧ t.mem = w.mem ∧ (t.hostFun f).pending.length = (w.hostFun f).pending.length
      let walks := fun (a : Nat) => s.readTables (copyToken f r.seq) (r.at 24 1) (s.copyReads r a) = (w, none)
      (s.request? f id 0x10 = some r → walks (r.at 16 8) →
        (w.copyReach r (r.at 16 8) .write = .ok p win → w.linkDown p = false →
          (w.blocked (copyToken f r.seq) p = false →
            w.writeAt (r.at 24 1) win p 64 (bytesLine (Mem.readBytes w.mem (2 ^ 64 + r.at 8 8) 64)) = .ok u →
            exec (.load f id ⟨[], false⟩) s = .next (u.reply f id 0 0)) ∧
          (w.blocked (copyToken f r.seq) p = true → w.closing p = false → waits (.load f id ⟨[], false⟩))) ∧
        (∀ c, w.copyReach r (r.at 16 8) .write = .fault c → exec (.load f id ⟨[], false⟩) s = .next (w.reply f id 4 0)) ∧
        (∀ ipa, w.copyReach r (r.at 16 8) .write = .demand ipa → waits (.load f id ⟨[], false⟩) ∧
          exec (.load f id ⟨[], true⟩) s = .next (w.reply f id 4 0))) ∧
      (s.request? f id 0x11 = some r → walks (r.at 8 8) →
        (w.copyReach r (r.at 8 8) .read = .ok p win → w.linkDown p = false →
          (∀ v, w.blocked (copyToken f r.seq) p = false → w.readAt (r.at 24 1) win p 64 = .ok v →
            exec (.fetch f id ⟨[], false⟩) s = .next (((w.touch p).hostWrite (r.at 16 8) (lineBytes v)).reply f id 0 0)) ∧
          (w.blocked (copyToken f r.seq) p = true → w.closing p = false → waits (.fetch f id ⟨[], false⟩))) ∧
        (∀ c, w.copyReach r (r.at 8 8) .read = .fault c → exec (.fetch f id ⟨[], false⟩) s = .next (w.reply f id 4 0)) ∧
        (∀ ipa, w.copyReach r (r.at 8 8) .read = .demand ipa → waits (.fetch f id ⟨[], false⟩) ∧
          exec (.fetch f id ⟨[], true⟩) s = .next (w.reply f id 4 0)))) ∧
  (∀ (s : State) (f id : Nat) (r : HostReq) (v : VDev), s.request? f id 0x20 = some r → launchSound r = true →
      let vd := r.at 8 1
      let space := BitVec.ofNat 12 (r.at 10 2)
      let root : Word := wrap (r.at 16 8)
      s.vd? vd = some v → s.named f vd = true →
      (v.tree.isSome = true ∨ v.destroy.isSome = true ∨ s.unwritten v.launched = true →
        exec (.launch f id ⟨[], false⟩) s = .next (s.reply f id 3 root.toNat)) ∧
      (v.tree = none → v.destroy = none → s.unwritten v.launched = false → ∀ (u : State) (still : Option Place),
        s.readTables (copyToken f id) vd (s.treeReads vd space [⟨root, none, 0, 1⟩] [] 1100) = (u, still) → u.vd? vd = some v →
        (still.isSome = true → exec (.launch f id ⟨[], false⟩) s = .next u) ∧
        (∀ a, still = none → u.walkTree vd v space [⟨root, none, 0, 1⟩] [] 1100 = .bad a →
          exec (.launch f id ⟨[], false⟩) s = .next (u.reply f id 3 a.toNat)) ∧
        (∀ ipa a, still = none → u.walkTree vd v space [⟨root, none, 0, 1⟩] [] 1100 = .demand ipa a →
          exec (.launch f id ⟨[], false⟩) s = .next u ∧ exec (.launch f id ⟨[], true⟩) s = .next (u.reply f id 3 a.toNat)) ∧
        (∀ g rs n, still = none → u.walkTree vd v space [⟨root, none, 0, 1⟩] [] 1100 = .ok (g :: rs) → nbits g.home.toNat 13 12 = 0 →
          KMap.getD u.spawnq (queueKey (nbits g.home.toNat 10 0) vd) [] = [] →
          u.freeSlot vd (nbits g.home.toNat 10 0) = some n →
          let key := 8 * nbits g.home.toNat 10 0 + n
          ∃ t : State, exec (.launch f id ⟨[], false⟩) s = .next t ∧ (t.slotAt key).mode = .ready ∧ (t.slotAt key).pc = g.entry ∧
            (t.slotAt key).region = 0 ∧ (t.slotAt key).vd = vd ∧ (∀ i : Fin 4, (t.slotAt key).g[i.val] = g.args.getD i.val 0) ∧
            (t.region? vd 0).map (·.live) = some 1 ∧ t.mem = u.mem ∧ ∀ q ∈ (t.hostFun f).pending, q.seq ≠ id))) ∧
  ((∀ (s : State) (vd : Nat) (v : VDev) (t : Tree), s.vd? vd = some v → v.tree = some t → t.quiet = true → s.neremRuns = true →
      (s.handlerPlaces.all fun h => decide (h.1 ≠ vd)) = true → (s.notices.all fun n => decide (n.vd ≠ vd)) = true →
      exec (.launchResponse vd) s = .next (s.endTree vd t) ∧ ((s.endTree vd t).vd? vd).bind (·.tree) = none) ∧
    (∀ (s : State) (f id i : Nat) (r : HostReq) (t : Tree), s.request? f id 0x21 = some r → launchSound r = true → s.named f (r.at 8 1) = true →
      (s.vd? (r.at 8 1)).bind (·.tree) = some t → t.space.toNat = r.at 10 2 → i < t.regions.length →
      (t.regions[i]?).map (·.rcb.toNat) = some (r.at 16 8) → (∀ j, j < i → (t.regions[j]?).map (·.rcb.toNat) ≠ some (r.at 16 8)) →
      exec (.cancel f id) s = .next (((s.taken f id).modFun f fun x =>
        { x with cancels := x.cancels ++ [(id, r.at 8 1, i)] }).cancelRegion (r.at 8 1) i t)) ∧
    (∀ (s : State) (f id vd top : Nat) (t : Tree), ((s.hostFun f).cancels.find? fun c => decide (c.1 = id) && s.coresRun) = some (id, vd, top) →
      (s.vd? vd).bind (·.tree) = some t →
      (t.liveIn (t.subtree top) = 0 → exec (.cancelDone f id) s = .next ((s.modFun f fun x =>
        { x with cancels := x.cancels.filter fun c => decide (c.1 ≠ id) }).respond f id 0 0 [])) ∧
      (t.liveIn (t.subtree top) ≠ 0 → exec (.cancelDone f id) s = .next (s.cancelRegion vd top t))))

/-- UPDATE verifies the inactive image, stops Nerem from polling and cancels its armed gang switches; a second one while it is under way answers 3 (the model’s choice: log entry 103). The handoff follows when the system cores have nothing in progress; what the monitor accepted is then the record of the running image. The new image’s first report, within 200 ms, makes its slot active, answers the request, and the cancelled switches are armed again; without a report in 200 ms the slot is failed and the old image comes back, with its record. A demand fault of a device that is not being destroyed stays parked in the gap (R27, R56, R57). A debug server attaches to a device created for it, for a requester that the life-cycle state allows. HALT asks contexts in slots to stop, and halts at once one that stands saved, or on its way as a migrant. A slot stops once its store buffer is empty and the memory of its image serves, and its context then stands HALTED in its save area with its registers; RESUME and STEP return a halted context, its image read, to the lowest free slot of its brick (R24, R58, R59, R156). LIST names every context with its place, a migrant on its way among them; READ returns a word of a halted context’s image or of the device’s memory, where the memory serves; WRITE replaces one, and a write of memory empties every instruction cache (R58, R59, R230, Table 2.11). That the measured record moves at the hand-over and back at the fallback, and that demand faults of a device in destruction stand outside the gap, are deduced (log entry 95), and so is a debug WRITE of memory under read permission (log entry 58). Halting saved contexts and migrants where they stand, and going on in the lowest free slot of the brick left, are deduced (log entry 58); 200 ms in device time is the model’s choice (log entry 88), and so is which images READ and WRITE reach (log entry 100). -/
def Obligations.UpdatesAndDebug : Prop :=
  ((∀ (s : State) (id : Nat) (r : HostReq), s.request? 0 id 0x50 = some r → r.len = 0 →
      (s.update = none → (∀ i, s.boot.slot (!s.boot.activeB) = some i → ∃ t : State, exec (.update 0 id) s = .next t ∧
        if s.boot.accepts s.boot.minNerem i then
          t.update = some ⟨some (0, id), !s.boot.activeB, false, s.devTime, false, s.switches.filter fun w => !w.taken, some i, s.boot.neremMeasured⟩ ∧
          (∀ w ∈ t.switches, w.taken = true) ∧ t.mem = s.mem ∧ ∀ g, exec (.queuePoll g) t = .next t
        else t = s.reply 0 id 4 0) ∧
        (s.boot.slot (!s.boot.activeB) = none → exec (.update 0 id) s = .next (s.reply 0 id 4 0))) ∧
      (s.update.isSome = true → exec (.update 0 id) s = .next (s.reply 0 id 3 0))) ∧
    (∀ (s : State) (u : Update), s.update = some u →
      (u.handed = false → s.coresIdle = true → exec .updateHandoff s =
        .next { s with
          update := some { u with handed := true, startedAt := s.devTime },
          boot := { s.boot with neremMeasured := u.accepted } }) ∧
      (s.coresIdle = false → exec .updateHandoff s = .next s) ∧
      (u.handed = true → u.fellBack = false → s.devTime ≤ u.startedAt + 200000000 → ∃ t : State, exec .updateHealthReport s = .next t ∧
        t.update = none ∧ t.boot.activeB = u.toB ∧ t.boot.neremMeasured = s.boot.neremMeasured ∧
        t.boot.trial = false ∧ t.boot.img = (if u.toB then 2 else 1) ∧ t.slots = s.slots ∧ t.switches = (s.rearm u).switches) ∧
      (u.fellBack = false → u.startedAt + 200000000 < s.devTime → exec .updateHealthReport s = .next s) ∧
      (u.handed = true → u.fellBack = true → ∃ t : State, exec .updateHealthReport s = .next t ∧ t.update = none ∧
        t.boot.activeB = s.boot.activeB ∧ t.switches = (s.rearm u).switches) ∧
      (u.handed = true → u.fellBack = false → u.startedAt + 200000000 ≤ s.devTime → ∃ t : State, exec .updateFallback s = .next t ∧
        t.update = some { u with fellBack := true } ∧ t.boot.failed u.toB = true ∧ t.boot.neremMeasured = u.before ∧ t.mem = s.mem) ∧
      ∀ (id : Nat) (ws : List TableWrite), (∀ d ∈ s.demands, d.id = id → (s.vd? d.vd).bind (·.destroy) = none) →
        exec (.demandFaultRetry id ws) s = .next s)) ∧
  ((∀ (s : State) (vd : Nat) (v : VDev), s.vd? vd = some v →
      (∀ who : Requester, who.vd = vd → v.dbg = true → s.neremRuns = true → debugAllowed s.boot.lcs who = true → ∃ t : State, exec (.debugAttach who) s = .next t ∧
        t.vd? vd = some { v with attached := true } ∧ t.slots = s.slots) ∧
      (∀ who : Requester, who.vd = vd → v.dbg = false ∨ debugAllowed s.boot.lcs who = false → exec (.debugAttach who) s = .next s) ∧
      (s.neremRuns = true → ∃ t : State, exec (.debugDetach vd) s = .next t ∧ t.vd? vd = some { v with attached := false } ∧ t.slots = s.slots)) ∧
    (∀ (s : State) (vd c : Nat), s.debugs vd = true → ∃ t : State, exec (.debugHalt vd (some c)) s = .next t ∧ t.mem = s.mem ∧
      (∀ kv ∈ s.slots, kv.2.vd = vd → kv.2.ctx = c → c ≠ 0 → kv.2.mode ≠ .halted → (kv.1, { kv.2 with haltAsked := true }) ∈ t.slots) ∧
      (∀ a k, s.saved = [(a, k)] → s.held = [] → s.arrivals = [] → s.spills = [] → s.migMsgs = [] → k.vd = vd → k.ctx = c → c ≠ 0 →
        k.mode = .ready → k.sb = [] → t.saved = [] ∧ t.held = [(a, k.halt)]) ∧
      (∀ m, s.migMsgs = [m] → s.saved = [] → s.held = [] → s.arrivals = [] → s.spills = [] → m.m.vd = vd → m.m.ctx = c → c ≠ 0 →
        t.migMsgs = [] ∧ t.held = [(keepKey c (8 * m.brick) vd, (landed m.m).halt)])) ∧
    (∀ (s u : State) (b n : Nat) (p : Passage),
      let k := s.slotAt (8 * b + n)
      let image := s.fullImage k.withdrawn.halt ((8 * b + n) / 8)
      (k.sb ≠ [] → exec (.debugHaltTakesEffect b n) s = .next s) ∧
      (k.haltAsked = true → k.ctx ≠ 0 → k.mode = .ready → k.sb = [] → s.contextPassage imagePass k.vd (8 * b + n) 0 4096 (some image) = (u, p) →
        p = .still → exec (.debugHaltTakesEffect b n) s = .next u) ∧
      (k.haltAsked = true → k.ctx ≠ 0 → k.mode = .ready → k.resv = none → k.sb = [] →
        s.contextPassage imagePass k.vd (8 * b + n) 0 4096 (some image) = (u, .done) → u.slotAt (8 * b + n) = k → ∃ (t : State) (h : Slot),
        exec (.debugHaltTakesEffect b n) s = .next t ∧ KMap.find? t.held (keepKey k.ctx (8 * b + n) k.vd) = some h ∧ h.mode = .halted ∧
        h.haltAsked = false ∧ h.ctx = k.ctx ∧ h.g = k.g ∧ h.w = k.w ∧ h.z = k.z ∧ h.pc = k.pc ∧ t.mem = u.mem)) ∧
    (∀ (s u : State) (vd c at0 n : Nat) (k : Slot), s.debugs vd = true → (∀ x ∈ s.debugOps, x.2.1 ≠ vd) → s.haltedCtx vd c = some (at0, k) →
      s.freeSlot vd (at0 % 2 ^ 18 / 128) = some n → s.contextPassage imagePass vd (at0 % 2 ^ 18 / 16) 0 4096 none = (u, .done) →
      (∃ t : State, exec (.debugResume vd c) s = .next t ∧ t.slotAt (8 * (at0 % 2 ^ 18 / 128) + n) = { k with mode := .ready, debugStep := false } ∧
        t.held = KMap.erase u.held at0 ∧ t.mem = u.mem) ∧
      ∃ t : State, exec (.debugStep vd c) s = .next t ∧ t.slotAt (8 * (at0 % 2 ^ 18 / 128) + n) = { k with mode := .ready, debugStep := true } ∧
        t.held = KMap.erase u.held at0 ∧ t.mem = u.mem)) ∧
  (∀ (s : State) (vd c : Nat), s.debugs vd = true →
      (∃ (t : State) (ws : List Word), exec (.debugList vd) s = .next t ∧ t.debugReplies = s.debugReplies ++ [(vd, ws)] ∧ t.slots = s.slots ∧
        (∀ key k, s.slots = [(key, k)] → s.saved = [] → s.held = [] → s.arrivals = [] → s.spills = [] → s.migMsgs = [] → k.vd = vd →
          k.mode = .ready → k.ctx ≠ 0 → ws = [wrap k.ctx, wrap key, 1, 1]) ∧
        (∀ m, s.migMsgs = [m] → s.slots = [] → s.saved = [] → s.held = [] → s.arrivals = [] → s.spills = [] → m.m.vd = vd →
          ws = [wrap m.m.ctx, wrap (8 * m.brick), 0, 1])) ∧
      (∀ at0 k off u d, s.haltedCtx vd c = some (at0, k) → s.vd? vd = some d → (∀ x ∈ s.debugOps, x.2.1 ≠ vd) → off % 8 = 0 → off < 4096 →
        let image := fun (w : Option Word) =>
          s.passage (unitToken debugPass s.nextId) vd (d.imageAt (at0 % 2 ^ 18 / 16) + off) 8 (w.map fun w => leBytes 8 w.toNat)
        u.haltedCtx vd c = some (at0, k) →
        (image none = (u, .done) → exec (.debugRead vd (.image c off)) s =
          .next { u with debugReplies := u.debugReplies ++ [(vd, [imgWord (u.fullImage k (at0 % 2 ^ 18 / 128)) off])] }) ∧
        ∀ v, image (some v) = (u, .done) → exec (.debugWrite vd (.image c off) v) s =
          .next { u with held := KMap.set u.held at0 (k.withImage (patch (u.fullImage k (at0 % 2 ^ 18 / 128)) off v)) }) ∧
      (∀ space va p win, s.resolve 0 vd (BitVec.ofNat 12 space) .handler (wrap va) .read = .ok p win → s.answers = [] → s.stallq = [] →
        (∀ x ∈ s.debugOps, x.2.1 ≠ vd) →
        (inVspace va = true → ∀ r ∈ s.walkReads vd (BitVec.ofNat 12 space) va, s.stalled r.place = false) →
        (s.stalled p = false →
          (∀ x, s.readAt vd win p 8 = .ok x → ∃ t : State, exec (.debugRead vd (.memory space va)) s = .next t ∧ t.mem = s.mem ∧
            t.debugReplies = s.debugReplies ++ [(vd, [lowWord x])]) ∧
          ∀ v u, s.writeAt vd win p 8 (lineOf v) = .ok u → ∃ t : State, exec (.debugWrite vd (.memory space va) v) s = .next t ∧
            t.mem = u.mem ∧ t.fe = u.fe ∧ t.poison = u.poison ∧ t.slots = s.slots ∧ t.icaches = [] ∧ t.codeLog = []) ∧
        (s.stalled p = true → ∃ t : State, exec (.debugRead vd (.memory space va)) s = .next t ∧ t.mem = s.mem ∧
          t.debugReplies = s.debugReplies ∧ t.debugOps = s.debugOps ++ [(s.nextId, vd, .read (.memory space va))])))

/-- GANG_SWITCH_ARM records a switch that may be armed. At its stamp, if it can still be made, the outgoing device stops on every brick together, each of its slots SWITCHING with its context in the save area, and the incoming device is resident; one that can no longer be made is dropped (R40, R110, R375). SLOT_HANDOVER restores the incoming context of a slot, its image read, once the outgoing one’s stores have departed and its image is written, its stores that have not departed to be translated again, a CWR of BWPHASE or SINV under way complete; or it leaves the slot free when nothing waits for it (R110, R133, R375, Table 4.12). How the switch is cut into steps is the model’s (log entry 41). -/
def Obligations.GangSwitches : Prop :=
  ((∀ (s : State) (out inc : Option Nat) (n : Nat),
      (s.armsNow = true → s.mayArm out inc = true →
        ∃ t : State, exec (.gangSwitchArm out inc n) s = .next t ∧ ⟨s.nextId, out, inc, n, false⟩ ∈ t.switches ∧ t.slots = s.slots ∧ t.mem = s.mem) ∧
      (s.mayArm out inc = false → exec (.gangSwitchArm out inc n) s = .next s)) ∧
    (∀ (s : State) (id : Nat) (w : SwitchRec), (s.switches.find? fun w => decide (w.id = id)) = some w → w.taken = false → w.stamp ≤ s.devTime →
      (s.maySwitch w.out w.inc = true → s.answers = [] → (s.slots.map (·.1)).Nodup → (∀ kv ∈ s.slots, kv.1 < 2 ^ 14 ∧ kv.2.vd < 16) →
        ∃ t : State, exec (.gangSwitch id) s = .next t ∧
          (∀ vd v, w.out = some vd → s.vd? vd = some v → (t.vd? vd).map (·.resident) = some false) ∧
          (∀ vd v, w.inc = some vd → s.vd? vd = some v → (t.vd? vd).map (·.resident) = some true) ∧
          (∀ x ∈ t.switches, x.id = id → x.taken = true) ∧
          ∀ key vd, w.out = some vd → (s.slotAt key).vd = vd → (s.slotAt key).ctx ≠ 0 → (s.slotAt key).mode ≠ .free →
            (t.slotAt key).mode = .switching (some (s.slotAt key).ctx) ∧
            ((KMap.find? t.saved (keepKey (s.slotAt key).ctx key vd)).map fun k => (k.ctx, k.g, k.w, k.z)) =
              some ((s.slotAt key).ctx, (s.slotAt key).g, (s.slotAt key).w, (s.slotAt key).z)) ∧
      (s.maySwitch w.out w.inc = false → exec (.gangSwitch id) s = .next { s with switches := s.switches.filter fun x => decide (x.id ≠ id) }))) ∧
  (∀ (s s1 u : State) (b n vd : Nat),
      let key := 8 * b + n
      let saved := (s.slotAt key).mode = .switching none ∧ s1 = s ∨ ∃ c k s0, (s.slotAt key).mode = .switching (some c) ∧ s.ctxOf c = some k ∧
        k.saveOver = true ∧ s.contextPassage imagePass k.vd key 0 4096 (some (s.fullImage k (key / 8))) = (s0, .done) ∧ s1 = s0.setSlot key { Slot.empty with mode := .switching none }
      (∀ c k, (s.slotAt key).mode = .switching (some c) → s.ctxOf c = some k → k.saveOver = false → exec (.slotHandover b n) s = .next s) ∧
      (∀ c k, (s.slotAt key).mode = .switching (some c) → s.ctxOf c = some k → k.saveOver = true →
        s.contextPassage imagePass k.vd key 0 4096 (some (s.fullImage k (key / 8))) = (u, .still) → exec (.slotHandover b n) s = .next u) ∧
      (saved → s1.residentOf (key % 8) = some vd →
        (∀ at0 k, s1.savedFor key vd = some (at0, k) → s1.contextPassage imagePass k.vd key 0 4096 none = (u, .done) → let k' := { k with sb := k.sb.map SbEntry.saved }
          (k.mode = .ready → k.req = none → ∃ t : State, exec (.slotHandover b n) s = .next t ∧ t.slotAt key = k' ∧
            t.saved = KMap.erase u.saved at0 ∧ t.mem = u.mem) ∧
          (k.mode.onCwr = true → k.sstep = false → ∃ t : State, exec (.slotHandover b n) s = .next t ∧ t.slotAt key =
              { k'.advance with mode := .ready, req := none, haltAsked := k'.haltAsked || k'.debugStep } ∧
            t.saved = KMap.erase u.saved at0 ∧ t.mem = u.mem)) ∧
        (s1.savedFor key vd = none → KMap.getD s1.arrivals (queueKey b vd) [] = [] →
          KMap.getD s1.spawnq (queueKey b vd) [] = [] → n < 8 → ∃ t : State, exec (.slotHandover b n) s = .next t ∧ t.slotAt key = Slot.empty ∧
            t.mem = s1.mem)))
end

