-- ==== Sys2Proof/Laws/Memory.lean ====
section
/-!
SUPPORT. Laws of memory: a byte that was written reads back, every other byte reads as before, and every operation keeps the canonical form.
-/
namespace Sys2Proof.Machine

/-- Dropping a cell leaves every other address. -/
theorem Mem.read_drop_ne (m : List Host.Cell) {a x : Nat} (h : x ≠ a) : Mem.read (Mem.drop m a) x = Mem.read m x := by
  induction m with
  | nil => rfl
  | cons c r ih =>
    obtain ⟨k, v⟩ := c
    by_cases hk : k = a
    · subst hk; simp [Mem.drop, Mem.read, Ne.symm h]
    · simp only [Mem.drop, if_neg hk, Mem.read]
      split
      · rfl
      · exact ih
/-- Listing a byte and reading it. -/
@[simp] theorem Mem.read_put_self (m : List Host.Cell) (a : Nat) (b : Byte) : Mem.read (Mem.put m a b) a = b := by
  induction m with
  | nil => simp [Mem.put, Mem.read]
  | cons c r ih =>
    obtain ⟨k, v⟩ := c
    unfold Mem.put
    split
    · simp [Mem.read]
    · split
      · simp [Mem.read]
      · rename_i h1 h2
        simp only [Mem.read, if_neg (fun e => h2 (Eq.symm e))]
        exact ih
/-- Listing a byte leaves every other address. -/
theorem Mem.read_put_ne (m : List Host.Cell) {a x : Nat} (b : Byte) (h : x ≠ a) :
    Mem.read (Mem.put m a b) x = Mem.read m x := by
  induction m with
  | nil => simp [Mem.put, Mem.read, Ne.symm h]
  | cons c r ih =>
    obtain ⟨k, v⟩ := c
    unfold Mem.put
    split
    · simp [Mem.read, Ne.symm h]
    · split
      · rename_i h1 h2
        subst h2
        simp [Mem.read, Ne.symm h]
      · simp only [Mem.read]
        split
        · rfl
        · exact ih

/-- A tail is in form above its head, whatever came before. -/
theorem Mem.wfFrom_weaken {q : Option Nat} {m : List Host.Cell} (h : Mem.wfFrom q m = true) : Mem.wfFrom none m = true := by
  cases m with
  | nil => rfl
  | cons c r =>
    obtain ⟨k, v⟩ := c
    cases q <;> simp_all [Mem.wfFrom]
/-- The form above a bound holds above a lower bound. -/
theorem Mem.wfFrom_lower {p q : Nat} {m : List Host.Cell} (hpq : p ≤ q) (h : Mem.wfFrom (some q) m = true) :
    Mem.wfFrom (some p) m = true := by
  cases m with
  | nil => rfl
  | cons c r =>
    obtain ⟨k, v⟩ := c
    simp only [Mem.wfFrom, Bool.and_eq_true, decide_eq_true_eq] at *
    exact ⟨⟨by omega, h.1.2⟩, h.2⟩
/-- In form above a bound, no address at or below the bound is listed. -/
theorem Mem.read_below {p : Nat} : ∀ {m : List Host.Cell} {a : Nat}, Mem.wfFrom (some p) m = true → a ≤ p →
    Mem.read m a = Mem.blank := by
  intro m
  induction m generalizing p with
  | nil => intros; rfl
  | cons c r ih =>
    obtain ⟨k, v⟩ := c
    intro a h ha
    simp only [Mem.wfFrom, Bool.and_eq_true, decide_eq_true_eq] at h
    have : k ≠ a := by omega
    simp only [Mem.read, if_neg this]
    exact ih h.2 (by omega)
/-- Dropping a cell in form: its address reads blank. -/
theorem Mem.read_drop_self {q : Option Nat} : ∀ {m : List Host.Cell} (a : Nat), Mem.wfFrom q m = true →
    Mem.read (Mem.drop m a) a = Mem.blank := by
  intro m
  induction m generalizing q with
  | nil => intros; rfl
  | cons c r ih =>
    obtain ⟨k, v⟩ := c
    intro a h
    have hr : Mem.wfFrom (some k) r = true := by cases q <;> simp_all [Mem.wfFrom]
    by_cases hk : k = a
    · subst hk
      simp only [Mem.drop, if_pos]
      exact Mem.read_below hr (Nat.le_refl _)
    · simp only [Mem.drop, if_neg hk, Mem.read]
      exact ih a hr
/-- Dropping a cell keeps the form. -/
theorem Mem.wfFrom_drop {q : Option Nat} : ∀ {m : List Host.Cell} (a : Nat), Mem.wfFrom q m = true →
    Mem.wfFrom q (Mem.drop m a) = true := by
  intro m
  induction m generalizing q with
  | nil => intros; rfl
  | cons c r ih =>
    obtain ⟨k, v⟩ := c
    intro a h
    by_cases hk : k = a
    · simp only [Mem.drop, if_pos hk]
      cases q with
      | none => simp only [Mem.wfFrom, Bool.and_eq_true] at h; exact Mem.wfFrom_weaken h.2
      | some p =>
        simp only [Mem.wfFrom, Bool.and_eq_true, decide_eq_true_eq] at h
        exact Mem.wfFrom_lower (by omega) h.2
    · simp only [Mem.drop, if_neg hk]
      cases q <;> simp only [Mem.wfFrom, Bool.and_eq_true] at h ⊢ <;> exact ⟨h.1, ih a h.2⟩
/-- Listing a byte that is not blank keeps the form. -/
theorem Mem.wfFrom_put {q : Option Nat} : ∀ {m : List Host.Cell} {a : Nat} {b : Byte}, Mem.wfFrom q m = true →
    b ≠ Mem.blank → (∀ p, q = some p → p < a) → Mem.wfFrom q (Mem.put m a b) = true := by
  intro m
  induction m generalizing q with
  | nil =>
    intro a b _ hb hq
    cases q with
    | none => simp [Mem.put, Mem.wfFrom, hb]
    | some p => simp [Mem.put, Mem.wfFrom, hb, hq p rfl]
  | cons c r ih =>
    obtain ⟨k, v⟩ := c
    intro a b h hb hq
    have hv : v ≠ Mem.blank := by cases q <;> simp_all [Mem.wfFrom]
    have hr : Mem.wfFrom (some k) r = true := by cases q <;> simp_all [Mem.wfFrom]
    unfold Mem.put
    split
    · cases q <;> simp_all [Mem.wfFrom]
    · split
      · cases q <;> simp_all [Mem.wfFrom]
      · have := ih (a := a) hr hb (fun p hp => by injection hp with hp; subst hp; omega)
        cases q <;> simp_all [Mem.wfFrom]
/-- A byte that was written reads back. -/
theorem Mem.read_write_self {m : List Host.Cell} (h : Memory.wf m = true) (a : Nat) (b : Byte) :
    Mem.read (Mem.write m a b) a = b := by
  unfold Mem.write
  split
  · rename_i hb; rw [Mem.read_drop_self a h, hb]
  · exact Mem.read_put_self m a b
/-- A write leaves every other address. -/
theorem Mem.read_write_ne (m : List Host.Cell) {a x : Nat} (b : Byte) (h : x ≠ a) :
    Mem.read (Mem.write m a b) x = Mem.read m x := by
  unfold Mem.write
  split
  · exact Mem.read_drop_ne m h
  · exact Mem.read_put_ne m b h
/-- A write keeps the canonical form. -/
theorem Memory.wf_write {m : List Host.Cell} (h : Memory.wf m = true) (a : Nat) (b : Byte) :
    Memory.wf (Mem.write m a b) = true := by
  unfold Mem.write
  split
  · exact Mem.wfFrom_drop a h
  · rename_i hb; exact Mem.wfFrom_put h hb (by simp)
/-- Writing bytes keeps the canonical form. -/
theorem Memory.wf_writeBytes (bs : List Byte) : ∀ {m : List Host.Cell} (a : Nat), Memory.wf m = true →
    Memory.wf (Mem.writeBytes m a bs) = true := by
  induction bs with
  | nil => intro m a h; exact h
  | cons b r ih => intro m a h; exact ih (a + 1) (Memory.wf_write h a b)
/-- Writing bytes leaves every address outside them. -/
theorem Mem.read_writeBytes_ne (bs : List Byte) : ∀ (m : List Host.Cell) {a x : Nat}, x < a ∨ a + bs.length ≤ x →
    Mem.read (Mem.writeBytes m a bs) x = Mem.read m x := by
  induction bs with
  | nil => intros; rfl
  | cons b r ih =>
    intro m a x h
    simp only [List.length_cons] at h
    simp only [Mem.writeBytes]
    rw [ih (Mem.write m a b) (by omega), Mem.read_write_ne m b (by omega)]
/-- Bytes that were written read back. -/
theorem Mem.readBytes_writeBytes (bs : List Byte) : ∀ {m : List Host.Cell} (a : Nat), Memory.wf m = true →
    Mem.readBytes (Mem.writeBytes m a bs) a bs.length = bs := by
  induction bs with
  | nil => intros; rfl
  | cons b r ih =>
    intro m a h
    simp only [List.length_cons, Mem.readBytes, Mem.writeBytes]
    rw [ih (a + 1) (Memory.wf_write h a b), Mem.read_writeBytes_ne r _ (by omega), Mem.read_write_self h]
/-- Filtering cells keeps the form. -/
theorem Mem.wfFrom_filter (f : Host.Cell → Bool) {q : Option Nat} : ∀ {m : List Host.Cell}, Mem.wfFrom q m = true →
    Mem.wfFrom q (m.filter f) = true := by
  intro m
  induction m generalizing q with
  | nil => intros; rfl
  | cons c r ih =>
    obtain ⟨k, v⟩ := c
    intro h
    have hr : Mem.wfFrom (some k) r = true := by cases q <;> simp_all [Mem.wfFrom]
    simp only [List.filter_cons]
    split
    · cases q <;> simp only [Mem.wfFrom, Bool.and_eq_true] at h ⊢ <;> exact ⟨h.1, ih hr⟩
    · cases q with
      | none => exact Mem.wfFrom_weaken (ih hr)
      | some p =>
        simp only [Mem.wfFrom, Bool.and_eq_true, decide_eq_true_eq] at h
        exact Mem.wfFrom_lower (by omega) (ih hr)
/-- Blanking a range keeps the canonical form. -/
theorem Memory.wf_blankRange {m : List Host.Cell} (h : Memory.wf m = true) (lo hi : Nat) :
    Memory.wf (Mem.blankRange m lo hi) = true := Mem.wfFrom_filter _ h
/-- A blanked address reads blank. -/
theorem Mem.read_blankRange_in (m : List Host.Cell) {lo hi x : Nat} (h : lo ≤ x ∧ x < hi) :
    Mem.read (Mem.blankRange m lo hi) x = Mem.blank := by
  unfold Mem.blankRange
  induction m with
  | nil => rfl
  | cons c r ih =>
    obtain ⟨k, v⟩ := c
    simp only [List.filter_cons]
    split
    · rename_i hk
      have : k ≠ x := by rintro rfl; simp at hk; omega
      simp only [Mem.read, if_neg this]
      exact ih
    · exact ih
/-- Blanking leaves every address outside the range. -/
theorem Mem.read_blankRange_out (m : List Host.Cell) {lo hi x : Nat} (h : x < lo ∨ hi ≤ x) :
    Mem.read (Mem.blankRange m lo hi) x = Mem.read m x := by
  unfold Mem.blankRange
  induction m with
  | nil => rfl
  | cons c r ih =>
    obtain ⟨k, v⟩ := c
    simp only [List.filter_cons]
    split
    · simp only [Mem.read]
      split
      · rfl
      · exact ih
    · rename_i hk
      have : k ≠ x := by rintro rfl; simp at hk; omega
      simp only [Mem.read, if_neg this]
      exact ih
/-- Reset memory is in form. -/
theorem Memory.wf_reset : Memory.wf State.reset.mem = true := rfl

end Sys2Proof.Machine
end

