-- ==== Sys2Proof/Laws/Map.lean ====
section
/-!
SUPPORT. Laws of the finite maps: a key that was set reads back, and every other key reads as before.
-/
namespace Sys2Proof.Machine

variable {α : Type}

/-- Setting a key and reading it. -/
@[simp] theorem KMap.find?_set_self (m : KMap α) (x : Nat) (v : α) : KMap.find? (KMap.set m x v) x = some v := by
  induction m with
  | nil => simp [KMap.set, KMap.find?]
  | cons h t ih =>
    obtain ⟨k, u⟩ := h
    unfold KMap.set
    split
    · simp [KMap.find?]
    · split
      · simp [KMap.find?]
      · rename_i h1 h2
        simp only [KMap.find?]
        rw [if_neg (fun e => h2 e.symm), ih]
/-- Setting a key leaves every other key. -/
theorem KMap.find?_set_ne (m : KMap α) {x y : Nat} (v : α) (h : y ≠ x) :
    KMap.find? (KMap.set m x v) y = KMap.find? m y := by
  induction m with
  | nil => simp [KMap.set, KMap.find?, Ne.symm h]
  | cons hd t ih =>
    obtain ⟨k, u⟩ := hd
    unfold KMap.set
    split
    · simp [KMap.find?, Ne.symm h]
    · split
      · rename_i h1 h2
        subst h2
        simp [KMap.find?, Ne.symm h]
      · simp only [KMap.find?]
        split
        · rfl
        · exact ih
/-- Reading with a default after setting. -/
@[simp] theorem KMap.getD_set_self (m : KMap α) (x : Nat) (v d : α) : KMap.getD (KMap.set m x v) x d = v := by
  simp [KMap.getD]
/-- Reading another key with a default after setting. -/
theorem KMap.getD_set_ne (m : KMap α) {x y : Nat} (v d : α) (h : y ≠ x) :
    KMap.getD (KMap.set m x v) y d = KMap.getD m y d := by
  simp [KMap.getD, KMap.find?_set_ne m v h]
/-- Changing a key and reading any. -/
theorem KMap.find?_modify (m : KMap α) (x y : Nat) (f : α → α) :
    KMap.find? (KMap.modify m x f) y = if y = x then (KMap.find? m y).map f else KMap.find? m y := by
  unfold KMap.modify
  induction m with
  | nil => simp [KMap.find?]
  | cons hd t ih =>
    obtain ⟨k, u⟩ := hd
    simp only [List.map_cons]
    by_cases hkx : k = x
    · subst hkx
      by_cases hy : k = y
      · subst hy; simp [KMap.find?]
      · simp only [KMap.find?, if_pos, if_neg hy]
        exact ih
    · by_cases hy : k = y
      · subst hy; simp [KMap.find?, hkx]
      · simp only [KMap.find?, if_neg hkx, if_neg hy]
        exact ih
/-- A changed key reads changed. -/
theorem KMap.find?_modify_self (m : KMap α) (x : Nat) (f : α → α) :
    KMap.find? (KMap.modify m x f) x = (KMap.find? m x).map f := by simp [KMap.find?_modify]
/-- A set key is present. -/
@[simp] theorem KMap.has_set_self (m : KMap α) (x : Nat) (v : α) : KMap.has (KMap.set m x v) x = true := by
  simp [KMap.has]
/-- What a map of values keeps: each key's value mapped. -/
theorem KMap.find?_mapVals (m : KMap α) (f : Nat → α → α) (y : Nat) :
    KMap.find? (m.map fun kv => (kv.1, f kv.1 kv.2)) y = (KMap.find? m y).map (f y) := by
  induction m with
  | nil => rfl
  | cons hd t ih =>
    obtain ⟨k, u⟩ := hd
    by_cases hy : k = y
    · subst hy; simp [KMap.find?]
    · simp only [List.map_cons, KMap.find?, if_neg hy]
      exact ih

end Sys2Proof.Machine
end

