-- ==== Sys2Proof/Laws/State.lean ====
section
/-!
SUPPORT. What the shared updates of the machine leave alone, field by field, and what they write.
-/
namespace Sys2Proof.Machine

/-! ### Replacing a slot -/

@[simp] theorem State.setSlot_agenda (s : State) (key : Nat) (k : Slot) : (s.setSlot key k).agenda = s.agenda := rfl
@[simp] theorem State.setSlot_cycle (s : State) (key : Nat) (k : Slot) : (s.setSlot key k).cycle = s.cycle := rfl
@[simp] theorem State.setSlot_devHalfNs (s : State) (key : Nat) (k : Slot) : (s.setSlot key k).devHalfNs = s.devHalfNs := rfl
@[simp] theorem State.setSlot_slew (s : State) (key : Nat) (k : Slot) : (s.setSlot key k).slew = s.slew := rfl
@[simp] theorem State.setSlot_cur (s : State) (key : Nat) (k : Slot) : (s.setSlot key k).cur = s.cur := rfl
@[simp] theorem State.setSlot_hadTurn (s : State) (key : Nat) (k : Slot) : (s.setSlot key k).hadTurn = s.hadTurn := rfl
@[simp] theorem State.setSlot_stations (s : State) (key : Nat) (k : Slot) : (s.setSlot key k).stations = s.stations := rfl
@[simp] theorem State.setSlot_freeCtr (s : State) (key : Nat) (k : Slot) : (s.setSlot key k).freeCtr = s.freeCtr := rfl
@[simp] theorem State.setSlot_answers (s : State) (key : Nat) (k : Slot) : (s.setSlot key k).answers = s.answers := rfl
@[simp] theorem State.setSlot_nextId (s : State) (key : Nat) (k : Slot) : (s.setSlot key k).nextId = s.nextId := rfl
@[simp] theorem State.setSlot_saved (s : State) (key : Nat) (k : Slot) : (s.setSlot key k).saved = s.saved := rfl
@[simp] theorem State.setSlot_held (s : State) (key : Nat) (k : Slot) : (s.setSlot key k).held = s.held := rfl
@[simp] theorem State.setSlot_orphans (s : State) (key : Nat) (k : Slot) : (s.setSlot key k).orphans = s.orphans := rfl
@[simp] theorem State.setSlot_handlerPlaces (s : State) (key : Nat) (k : Slot) : (s.setSlot key k).handlerPlaces = s.handlerPlaces := rfl
@[simp] theorem State.setSlot_returning (s : State) (key : Nat) (k : Slot) : (s.setSlot key k).returning = s.returning := rfl
@[simp] theorem State.setSlot_notices (s : State) (key : Nat) (k : Slot) : (s.setSlot key k).notices = s.notices := rfl
@[simp] theorem State.setSlot_barriers (s : State) (key : Nat) (k : Slot) : (s.setSlot key k).barriers = s.barriers := rfl
@[simp] theorem State.setSlot_barrierImages (s : State) (key : Nat) (k : Slot) : (s.setSlot key k).barrierImages = s.barrierImages := rfl
@[simp] theorem State.setSlot_barrierPasses (s : State) (key : Nat) (k : Slot) : (s.setSlot key k).barrierPasses = s.barrierPasses := rfl
@[simp] theorem State.setSlot_arrivals (s : State) (key : Nat) (k : Slot) : (s.setSlot key k).arrivals = s.arrivals := rfl
@[simp] theorem State.setSlot_spills (s : State) (key : Nat) (k : Slot) : (s.setSlot key k).spills = s.spills := rfl
@[simp] theorem State.setSlot_spillPos (s : State) (key : Nat) (k : Slot) : (s.setSlot key k).spillPos = s.spillPos := rfl
@[simp] theorem State.setSlot_spawnq (s : State) (key : Nat) (k : Slot) : (s.setSlot key k).spawnq = s.spawnq := rfl
@[simp] theorem State.setSlot_subbanks (s : State) (key : Nat) (k : Slot) : (s.setSlot key k).subbanks = s.subbanks := rfl
@[simp] theorem State.setSlot_remapping (s : State) (key : Nat) (k : Slot) : (s.setSlot key k).remapping = s.remapping := rfl
@[simp] theorem State.setSlot_icaches (s : State) (key : Nat) (k : Slot) : (s.setSlot key k).icaches = s.icaches := rfl
@[simp] theorem State.setSlot_codeLog (s : State) (key : Nat) (k : Slot) : (s.setSlot key k).codeLog = s.codeLog := rfl
@[simp] theorem State.setSlot_mem (s : State) (key : Nat) (k : Slot) : (s.setSlot key k).mem = s.mem := rfl
@[simp] theorem State.setSlot_fe (s : State) (key : Nat) (k : Slot) : (s.setSlot key k).fe = s.fe := rfl
@[simp] theorem State.setSlot_poison (s : State) (key : Nat) (k : Slot) : (s.setSlot key k).poison = s.poison := rfl
@[simp] theorem State.setSlot_owner (s : State) (key : Nat) (k : Slot) : (s.setSlot key k).owner = s.owner := rfl
@[simp] theorem State.setSlot_written (s : State) (key : Nat) (k : Slot) : (s.setSlot key k).written = s.written := rfl
@[simp] theorem State.setSlot_minor (s : State) (key : Nat) (k : Slot) : (s.setSlot key k).minor = s.minor := rfl
@[simp] theorem State.setSlot_major (s : State) (key : Nat) (k : Slot) : (s.setSlot key k).major = s.major := rfl
@[simp] theorem State.setSlot_treeCtr (s : State) (key : Nat) (k : Slot) : (s.setSlot key k).treeCtr = s.treeCtr := rfl
@[simp] theorem State.setSlot_rolling (s : State) (key : Nat) (k : Slot) : (s.setSlot key k).rolling = s.rolling := rfl
@[simp] theorem State.setSlot_fenced (s : State) (key : Nat) (k : Slot) : (s.setSlot key k).fenced = s.fenced := rfl
@[simp] theorem State.setSlot_badTag (s : State) (key : Nat) (k : Slot) : (s.setSlot key k).badTag = s.badTag := rfl
@[simp] theorem State.setSlot_keys (s : State) (key : Nat) (k : Slot) : (s.setSlot key k).keys = s.keys := rfl
@[simp] theorem State.setSlot_windows (s : State) (key : Nat) (k : Slot) : (s.setSlot key k).windows = s.windows := rfl
@[simp] theorem State.setSlot_hashmask (s : State) (key : Nat) (k : Slot) : (s.setSlot key k).hashmask = s.hashmask := rfl
@[simp] theorem State.setSlot_w62 (s : State) (key : Nat) (k : Slot) : (s.setSlot key k).w62 = s.w62 := rfl
@[simp] theorem State.setSlot_failedStacks (s : State) (key : Nat) (k : Slot) : (s.setSlot key k).failedStacks = s.failedStacks := rfl
@[simp] theorem State.setSlot_pch (s : State) (key : Nat) (k : Slot) : (s.setSlot key k).pch = s.pch := rfl
@[simp] theorem State.setSlot_pchUse (s : State) (key : Nat) (k : Slot) : (s.setSlot key k).pchUse = s.pchUse := rfl
@[simp] theorem State.setSlot_tlb (s : State) (key : Nat) (k : Slot) : (s.setSlot key k).tlb = s.tlb := rfl
@[simp] theorem State.setSlot_erasing (s : State) (key : Nat) (k : Slot) : (s.setSlot key k).erasing = s.erasing := rfl
@[simp] theorem State.setSlot_stallq (s : State) (key : Nat) (k : Slot) : (s.setSlot key k).stallq = s.stallq := rfl
@[simp] theorem State.setSlot_migrated (s : State) (key : Nat) (k : Slot) : (s.setSlot key k).migrated = s.migrated := rfl
@[simp] theorem State.setSlot_feq (s : State) (key : Nat) (k : Slot) : (s.setSlot key k).feq = s.feq := rfl
@[simp] theorem State.setSlot_resvq (s : State) (key : Nat) (k : Slot) : (s.setSlot key k).resvq = s.resvq := rfl
@[simp] theorem State.setSlot_msgs (s : State) (key : Nat) (k : Slot) : (s.setSlot key k).msgs = s.msgs := rfl
@[simp] theorem State.setSlot_barrierMsgs (s : State) (key : Nat) (k : Slot) : (s.setSlot key k).barrierMsgs = s.barrierMsgs := rfl
@[simp] theorem State.setSlot_inboxMsgs (s : State) (key : Nat) (k : Slot) : (s.setSlot key k).inboxMsgs = s.inboxMsgs := rfl
@[simp] theorem State.setSlot_spawnMsgs (s : State) (key : Nat) (k : Slot) : (s.setSlot key k).spawnMsgs = s.spawnMsgs := rfl
@[simp] theorem State.setSlot_migMsgs (s : State) (key : Nat) (k : Slot) : (s.setSlot key k).migMsgs = s.migMsgs := rfl
@[simp] theorem State.setSlot_invals (s : State) (key : Nat) (k : Slot) : (s.setSlot key k).invals = s.invals := rfl
@[simp] theorem State.setSlot_demands (s : State) (key : Nat) (k : Slot) : (s.setSlot key k).demands = s.demands := rfl
@[simp] theorem State.setSlot_vds (s : State) (key : Nat) (k : Slot) : (s.setSlot key k).vds = s.vds := rfl
@[simp] theorem State.setSlot_switches (s : State) (key : Nat) (k : Slot) : (s.setSlot key k).switches = s.switches := rfl
@[simp] theorem State.setSlot_kilns (s : State) (key : Nat) (k : Slot) : (s.setSlot key k).kilns = s.kilns := rfl
@[simp] theorem State.setSlot_entries (s : State) (key : Nat) (k : Slot) : (s.setSlot key k).entries = s.entries := rfl
@[simp] theorem State.setSlot_grants (s : State) (key : Nat) (k : Slot) : (s.setSlot key k).grants = s.grants := rfl
@[simp] theorem State.setSlot_yardWaits (s : State) (key : Nat) (k : Slot) : (s.setSlot key k).yardWaits = s.yardWaits := rfl
@[simp] theorem State.setSlot_cmds (s : State) (key : Nat) (k : Slot) : (s.setSlot key k).cmds = s.cmds := rfl
@[simp] theorem State.setSlot_colls (s : State) (key : Nat) (k : Slot) : (s.setSlot key k).colls = s.colls := rfl
@[simp] theorem State.setSlot_rings (s : State) (key : Nat) (k : Slot) : (s.setSlot key k).rings = s.rings := rfl
@[simp] theorem State.setSlot_writebacks (s : State) (key : Nat) (k : Slot) : (s.setSlot key k).writebacks = s.writebacks := rfl
@[simp] theorem State.setSlot_locks (s : State) (key : Nat) (k : Slot) : (s.setSlot key k).locks = s.locks := rfl
@[simp] theorem State.setSlot_islands (s : State) (key : Nat) (k : Slot) : (s.setSlot key k).islands = s.islands := rfl
@[simp] theorem State.setSlot_lastStart (s : State) (key : Nat) (k : Slot) : (s.setSlot key k).lastStart = s.lastStart := rfl
@[simp] theorem State.setSlot_powerSamples (s : State) (key : Nat) (k : Slot) : (s.setSlot key k).powerSamples = s.powerSamples := rfl
@[simp] theorem State.setSlot_lastSample (s : State) (key : Nat) (k : Slot) : (s.setSlot key k).lastSample = s.lastSample := rfl
@[simp] theorem State.setSlot_boot (s : State) (key : Nat) (k : Slot) : (s.setSlot key k).boot = s.boot := rfl
@[simp] theorem State.setSlot_update (s : State) (key : Nat) (k : Slot) : (s.setSlot key k).update = s.update := rfl
@[simp] theorem State.setSlot_healthLog (s : State) (key : Nat) (k : Slot) : (s.setSlot key k).healthLog = s.healthLog := rfl
@[simp] theorem State.setSlot_tamper (s : State) (key : Nat) (k : Slot) : (s.setSlot key k).tamper = s.tamper := rfl
@[simp] theorem State.setSlot_eccTimes (s : State) (key : Nat) (k : Slot) : (s.setSlot key k).eccTimes = s.eccTimes := rfl
@[simp] theorem State.setSlot_spareRowsUsed (s : State) (key : Nat) (k : Slot) : (s.setSlot key k).spareRowsUsed = s.spareRowsUsed := rfl
@[simp] theorem State.setSlot_rowRepair (s : State) (key : Nat) (k : Slot) : (s.setSlot key k).rowRepair = s.rowRepair := rfl
@[simp] theorem State.setSlot_failingRows (s : State) (key : Nat) (k : Slot) : (s.setSlot key k).failingRows = s.failingRows := rfl
@[simp] theorem State.setSlot_corrSram (s : State) (key : Nat) (k : Slot) : (s.setSlot key k).corrSram = s.corrSram := rfl
@[simp] theorem State.setSlot_corrHbm (s : State) (key : Nat) (k : Slot) : (s.setSlot key k).corrHbm = s.corrHbm := rfl
@[simp] theorem State.setSlot_sparedLines (s : State) (key : Nat) (k : Slot) : (s.setSlot key k).sparedLines = s.sparedLines := rfl
@[simp] theorem State.setSlot_funs (s : State) (key : Nat) (k : Slot) : (s.setSlot key k).funs = s.funs := rfl
@[simp] theorem State.setSlot_rules (s : State) (key : Nat) (k : Slot) : (s.setSlot key k).rules = s.rules := rfl
@[simp] theorem State.setSlot_queues (s : State) (key : Nat) (k : Slot) : (s.setSlot key k).queues = s.queues := rfl
@[simp] theorem State.setSlot_eth (s : State) (key : Nat) (k : Slot) : (s.setSlot key k).eth = s.eth := rfl
@[simp] theorem State.setSlot_birtil (s : State) (key : Nat) (k : Slot) : (s.setSlot key k).birtil = s.birtil := rfl
@[simp] theorem State.setSlot_mailbox (s : State) (key : Nat) (k : Slot) : (s.setSlot key k).mailbox = s.mailbox := rfl
@[simp] theorem State.setSlot_reports (s : State) (key : Nat) (k : Slot) : (s.setSlot key k).reports = s.reports := rfl
@[simp] theorem State.setSlot_debugReplies (s : State) (key : Nat) (k : Slot) : (s.setSlot key k).debugReplies = s.debugReplies := rfl
@[simp] theorem State.setSlot_debugOps (s : State) (key : Nat) (k : Slot) : (s.setSlot key k).debugOps = s.debugOps := rfl
@[simp] theorem State.setSlot_frames (s : State) (key : Nat) (k : Slot) : (s.setSlot key k).frames = s.frames := rfl

/-! ### Changing a slot -/

@[simp] theorem State.modSlot_agenda (s : State) (key : Nat) (f : Slot → Slot) : (s.modSlot key f).agenda = s.agenda := rfl
@[simp] theorem State.modSlot_cycle (s : State) (key : Nat) (f : Slot → Slot) : (s.modSlot key f).cycle = s.cycle := rfl
@[simp] theorem State.modSlot_devHalfNs (s : State) (key : Nat) (f : Slot → Slot) : (s.modSlot key f).devHalfNs = s.devHalfNs := rfl
@[simp] theorem State.modSlot_slew (s : State) (key : Nat) (f : Slot → Slot) : (s.modSlot key f).slew = s.slew := rfl
@[simp] theorem State.modSlot_cur (s : State) (key : Nat) (f : Slot → Slot) : (s.modSlot key f).cur = s.cur := rfl
@[simp] theorem State.modSlot_hadTurn (s : State) (key : Nat) (f : Slot → Slot) : (s.modSlot key f).hadTurn = s.hadTurn := rfl
@[simp] theorem State.modSlot_stations (s : State) (key : Nat) (f : Slot → Slot) : (s.modSlot key f).stations = s.stations := rfl
@[simp] theorem State.modSlot_freeCtr (s : State) (key : Nat) (f : Slot → Slot) : (s.modSlot key f).freeCtr = s.freeCtr := rfl
@[simp] theorem State.modSlot_answers (s : State) (key : Nat) (f : Slot → Slot) : (s.modSlot key f).answers = s.answers := rfl
@[simp] theorem State.modSlot_nextId (s : State) (key : Nat) (f : Slot → Slot) : (s.modSlot key f).nextId = s.nextId := rfl
@[simp] theorem State.modSlot_saved (s : State) (key : Nat) (f : Slot → Slot) : (s.modSlot key f).saved = s.saved := rfl
@[simp] theorem State.modSlot_held (s : State) (key : Nat) (f : Slot → Slot) : (s.modSlot key f).held = s.held := rfl
@[simp] theorem State.modSlot_orphans (s : State) (key : Nat) (f : Slot → Slot) : (s.modSlot key f).orphans = s.orphans := rfl
@[simp] theorem State.modSlot_handlerPlaces (s : State) (key : Nat) (f : Slot → Slot) : (s.modSlot key f).handlerPlaces = s.handlerPlaces := rfl
@[simp] theorem State.modSlot_returning (s : State) (key : Nat) (f : Slot → Slot) : (s.modSlot key f).returning = s.returning := rfl
@[simp] theorem State.modSlot_notices (s : State) (key : Nat) (f : Slot → Slot) : (s.modSlot key f).notices = s.notices := rfl
@[simp] theorem State.modSlot_barriers (s : State) (key : Nat) (f : Slot → Slot) : (s.modSlot key f).barriers = s.barriers := rfl
@[simp] theorem State.modSlot_barrierImages (s : State) (key : Nat) (f : Slot → Slot) : (s.modSlot key f).barrierImages = s.barrierImages := rfl
@[simp] theorem State.modSlot_barrierPasses (s : State) (key : Nat) (f : Slot → Slot) : (s.modSlot key f).barrierPasses = s.barrierPasses := rfl
@[simp] theorem State.modSlot_arrivals (s : State) (key : Nat) (f : Slot → Slot) : (s.modSlot key f).arrivals = s.arrivals := rfl
@[simp] theorem State.modSlot_spills (s : State) (key : Nat) (f : Slot → Slot) : (s.modSlot key f).spills = s.spills := rfl
@[simp] theorem State.modSlot_spillPos (s : State) (key : Nat) (f : Slot → Slot) : (s.modSlot key f).spillPos = s.spillPos := rfl
@[simp] theorem State.modSlot_spawnq (s : State) (key : Nat) (f : Slot → Slot) : (s.modSlot key f).spawnq = s.spawnq := rfl
@[simp] theorem State.modSlot_subbanks (s : State) (key : Nat) (f : Slot → Slot) : (s.modSlot key f).subbanks = s.subbanks := rfl
@[simp] theorem State.modSlot_remapping (s : State) (key : Nat) (f : Slot → Slot) : (s.modSlot key f).remapping = s.remapping := rfl
@[simp] theorem State.modSlot_icaches (s : State) (key : Nat) (f : Slot → Slot) : (s.modSlot key f).icaches = s.icaches := rfl
@[simp] theorem State.modSlot_codeLog (s : State) (key : Nat) (f : Slot → Slot) : (s.modSlot key f).codeLog = s.codeLog := rfl
@[simp] theorem State.modSlot_mem (s : State) (key : Nat) (f : Slot → Slot) : (s.modSlot key f).mem = s.mem := rfl
@[simp] theorem State.modSlot_fe (s : State) (key : Nat) (f : Slot → Slot) : (s.modSlot key f).fe = s.fe := rfl
@[simp] theorem State.modSlot_poison (s : State) (key : Nat) (f : Slot → Slot) : (s.modSlot key f).poison = s.poison := rfl
@[simp] theorem State.modSlot_owner (s : State) (key : Nat) (f : Slot → Slot) : (s.modSlot key f).owner = s.owner := rfl
@[simp] theorem State.modSlot_written (s : State) (key : Nat) (f : Slot → Slot) : (s.modSlot key f).written = s.written := rfl
@[simp] theorem State.modSlot_minor (s : State) (key : Nat) (f : Slot → Slot) : (s.modSlot key f).minor = s.minor := rfl
@[simp] theorem State.modSlot_major (s : State) (key : Nat) (f : Slot → Slot) : (s.modSlot key f).major = s.major := rfl
@[simp] theorem State.modSlot_treeCtr (s : State) (key : Nat) (f : Slot → Slot) : (s.modSlot key f).treeCtr = s.treeCtr := rfl
@[simp] theorem State.modSlot_rolling (s : State) (key : Nat) (f : Slot → Slot) : (s.modSlot key f).rolling = s.rolling := rfl
@[simp] theorem State.modSlot_fenced (s : State) (key : Nat) (f : Slot → Slot) : (s.modSlot key f).fenced = s.fenced := rfl
@[simp] theorem State.modSlot_badTag (s : State) (key : Nat) (f : Slot → Slot) : (s.modSlot key f).badTag = s.badTag := rfl
@[simp] theorem State.modSlot_keys (s : State) (key : Nat) (f : Slot → Slot) : (s.modSlot key f).keys = s.keys := rfl
@[simp] theorem State.modSlot_windows (s : State) (key : Nat) (f : Slot → Slot) : (s.modSlot key f).windows = s.windows := rfl
@[simp] theorem State.modSlot_hashmask (s : State) (key : Nat) (f : Slot → Slot) : (s.modSlot key f).hashmask = s.hashmask := rfl
@[simp] theorem State.modSlot_w62 (s : State) (key : Nat) (f : Slot → Slot) : (s.modSlot key f).w62 = s.w62 := rfl
@[simp] theorem State.modSlot_failedStacks (s : State) (key : Nat) (f : Slot → Slot) : (s.modSlot key f).failedStacks = s.failedStacks := rfl
@[simp] theorem State.modSlot_pch (s : State) (key : Nat) (f : Slot → Slot) : (s.modSlot key f).pch = s.pch := rfl
@[simp] theorem State.modSlot_pchUse (s : State) (key : Nat) (f : Slot → Slot) : (s.modSlot key f).pchUse = s.pchUse := rfl
@[simp] theorem State.modSlot_tlb (s : State) (key : Nat) (f : Slot → Slot) : (s.modSlot key f).tlb = s.tlb := rfl
@[simp] theorem State.modSlot_erasing (s : State) (key : Nat) (f : Slot → Slot) : (s.modSlot key f).erasing = s.erasing := rfl
@[simp] theorem State.modSlot_stallq (s : State) (key : Nat) (f : Slot → Slot) : (s.modSlot key f).stallq = s.stallq := rfl
@[simp] theorem State.modSlot_migrated (s : State) (key : Nat) (f : Slot → Slot) : (s.modSlot key f).migrated = s.migrated := rfl
@[simp] theorem State.modSlot_feq (s : State) (key : Nat) (f : Slot → Slot) : (s.modSlot key f).feq = s.feq := rfl
@[simp] theorem State.modSlot_resvq (s : State) (key : Nat) (f : Slot → Slot) : (s.modSlot key f).resvq = s.resvq := rfl
@[simp] theorem State.modSlot_msgs (s : State) (key : Nat) (f : Slot → Slot) : (s.modSlot key f).msgs = s.msgs := rfl
@[simp] theorem State.modSlot_barrierMsgs (s : State) (key : Nat) (f : Slot → Slot) : (s.modSlot key f).barrierMsgs = s.barrierMsgs := rfl
@[simp] theorem State.modSlot_inboxMsgs (s : State) (key : Nat) (f : Slot → Slot) : (s.modSlot key f).inboxMsgs = s.inboxMsgs := rfl
@[simp] theorem State.modSlot_spawnMsgs (s : State) (key : Nat) (f : Slot → Slot) : (s.modSlot key f).spawnMsgs = s.spawnMsgs := rfl
@[simp] theorem State.modSlot_migMsgs (s : State) (key : Nat) (f : Slot → Slot) : (s.modSlot key f).migMsgs = s.migMsgs := rfl
@[simp] theorem State.modSlot_invals (s : State) (key : Nat) (f : Slot → Slot) : (s.modSlot key f).invals = s.invals := rfl
@[simp] theorem State.modSlot_demands (s : State) (key : Nat) (f : Slot → Slot) : (s.modSlot key f).demands = s.demands := rfl
@[simp] theorem State.modSlot_vds (s : State) (key : Nat) (f : Slot → Slot) : (s.modSlot key f).vds = s.vds := rfl
@[simp] theorem State.modSlot_switches (s : State) (key : Nat) (f : Slot → Slot) : (s.modSlot key f).switches = s.switches := rfl
@[simp] theorem State.modSlot_kilns (s : State) (key : Nat) (f : Slot → Slot) : (s.modSlot key f).kilns = s.kilns := rfl
@[simp] theorem State.modSlot_entries (s : State) (key : Nat) (f : Slot → Slot) : (s.modSlot key f).entries = s.entries := rfl
@[simp] theorem State.modSlot_grants (s : State) (key : Nat) (f : Slot → Slot) : (s.modSlot key f).grants = s.grants := rfl
@[simp] theorem State.modSlot_yardWaits (s : State) (key : Nat) (f : Slot → Slot) : (s.modSlot key f).yardWaits = s.yardWaits := rfl
@[simp] theorem State.modSlot_cmds (s : State) (key : Nat) (f : Slot → Slot) : (s.modSlot key f).cmds = s.cmds := rfl
@[simp] theorem State.modSlot_colls (s : State) (key : Nat) (f : Slot → Slot) : (s.modSlot key f).colls = s.colls := rfl
@[simp] theorem State.modSlot_rings (s : State) (key : Nat) (f : Slot → Slot) : (s.modSlot key f).rings = s.rings := rfl
@[simp] theorem State.modSlot_writebacks (s : State) (key : Nat) (f : Slot → Slot) : (s.modSlot key f).writebacks = s.writebacks := rfl
@[simp] theorem State.modSlot_locks (s : State) (key : Nat) (f : Slot → Slot) : (s.modSlot key f).locks = s.locks := rfl
@[simp] theorem State.modSlot_islands (s : State) (key : Nat) (f : Slot → Slot) : (s.modSlot key f).islands = s.islands := rfl
@[simp] theorem State.modSlot_lastStart (s : State) (key : Nat) (f : Slot → Slot) : (s.modSlot key f).lastStart = s.lastStart := rfl
@[simp] theorem State.modSlot_powerSamples (s : State) (key : Nat) (f : Slot → Slot) : (s.modSlot key f).powerSamples = s.powerSamples := rfl
@[simp] theorem State.modSlot_lastSample (s : State) (key : Nat) (f : Slot → Slot) : (s.modSlot key f).lastSample = s.lastSample := rfl
@[simp] theorem State.modSlot_boot (s : State) (key : Nat) (f : Slot → Slot) : (s.modSlot key f).boot = s.boot := rfl
@[simp] theorem State.modSlot_update (s : State) (key : Nat) (f : Slot → Slot) : (s.modSlot key f).update = s.update := rfl
@[simp] theorem State.modSlot_healthLog (s : State) (key : Nat) (f : Slot → Slot) : (s.modSlot key f).healthLog = s.healthLog := rfl
@[simp] theorem State.modSlot_tamper (s : State) (key : Nat) (f : Slot → Slot) : (s.modSlot key f).tamper = s.tamper := rfl
@[simp] theorem State.modSlot_eccTimes (s : State) (key : Nat) (f : Slot → Slot) : (s.modSlot key f).eccTimes = s.eccTimes := rfl
@[simp] theorem State.modSlot_spareRowsUsed (s : State) (key : Nat) (f : Slot → Slot) : (s.modSlot key f).spareRowsUsed = s.spareRowsUsed := rfl
@[simp] theorem State.modSlot_rowRepair (s : State) (key : Nat) (f : Slot → Slot) : (s.modSlot key f).rowRepair = s.rowRepair := rfl
@[simp] theorem State.modSlot_failingRows (s : State) (key : Nat) (f : Slot → Slot) : (s.modSlot key f).failingRows = s.failingRows := rfl
@[simp] theorem State.modSlot_corrSram (s : State) (key : Nat) (f : Slot → Slot) : (s.modSlot key f).corrSram = s.corrSram := rfl
@[simp] theorem State.modSlot_corrHbm (s : State) (key : Nat) (f : Slot → Slot) : (s.modSlot key f).corrHbm = s.corrHbm := rfl
@[simp] theorem State.modSlot_sparedLines (s : State) (key : Nat) (f : Slot → Slot) : (s.modSlot key f).sparedLines = s.sparedLines := rfl
@[simp] theorem State.modSlot_funs (s : State) (key : Nat) (f : Slot → Slot) : (s.modSlot key f).funs = s.funs := rfl
@[simp] theorem State.modSlot_rules (s : State) (key : Nat) (f : Slot → Slot) : (s.modSlot key f).rules = s.rules := rfl
@[simp] theorem State.modSlot_queues (s : State) (key : Nat) (f : Slot → Slot) : (s.modSlot key f).queues = s.queues := rfl
@[simp] theorem State.modSlot_eth (s : State) (key : Nat) (f : Slot → Slot) : (s.modSlot key f).eth = s.eth := rfl
@[simp] theorem State.modSlot_birtil (s : State) (key : Nat) (f : Slot → Slot) : (s.modSlot key f).birtil = s.birtil := rfl
@[simp] theorem State.modSlot_mailbox (s : State) (key : Nat) (f : Slot → Slot) : (s.modSlot key f).mailbox = s.mailbox := rfl
@[simp] theorem State.modSlot_reports (s : State) (key : Nat) (f : Slot → Slot) : (s.modSlot key f).reports = s.reports := rfl
@[simp] theorem State.modSlot_debugReplies (s : State) (key : Nat) (f : Slot → Slot) : (s.modSlot key f).debugReplies = s.debugReplies := rfl
@[simp] theorem State.modSlot_debugOps (s : State) (key : Nat) (f : Slot → Slot) : (s.modSlot key f).debugOps = s.debugOps := rfl
@[simp] theorem State.modSlot_frames (s : State) (key : Nat) (f : Slot → Slot) : (s.modSlot key f).frames = s.frames := rfl

/-! ### Changing a virtual device -/

@[simp] theorem State.modVd_agenda (s : State) (vd : Nat) (f : VDev → VDev) : (s.modVd vd f).agenda = s.agenda := rfl
@[simp] theorem State.modVd_cycle (s : State) (vd : Nat) (f : VDev → VDev) : (s.modVd vd f).cycle = s.cycle := rfl
@[simp] theorem State.modVd_devHalfNs (s : State) (vd : Nat) (f : VDev → VDev) : (s.modVd vd f).devHalfNs = s.devHalfNs := rfl
@[simp] theorem State.modVd_slew (s : State) (vd : Nat) (f : VDev → VDev) : (s.modVd vd f).slew = s.slew := rfl
@[simp] theorem State.modVd_cur (s : State) (vd : Nat) (f : VDev → VDev) : (s.modVd vd f).cur = s.cur := rfl
@[simp] theorem State.modVd_hadTurn (s : State) (vd : Nat) (f : VDev → VDev) : (s.modVd vd f).hadTurn = s.hadTurn := rfl
@[simp] theorem State.modVd_stations (s : State) (vd : Nat) (f : VDev → VDev) : (s.modVd vd f).stations = s.stations := rfl
@[simp] theorem State.modVd_freeCtr (s : State) (vd : Nat) (f : VDev → VDev) : (s.modVd vd f).freeCtr = s.freeCtr := rfl
@[simp] theorem State.modVd_answers (s : State) (vd : Nat) (f : VDev → VDev) : (s.modVd vd f).answers = s.answers := rfl
@[simp] theorem State.modVd_nextId (s : State) (vd : Nat) (f : VDev → VDev) : (s.modVd vd f).nextId = s.nextId := rfl
@[simp] theorem State.modVd_slots (s : State) (vd : Nat) (f : VDev → VDev) : (s.modVd vd f).slots = s.slots := rfl
@[simp] theorem State.modVd_saved (s : State) (vd : Nat) (f : VDev → VDev) : (s.modVd vd f).saved = s.saved := rfl
@[simp] theorem State.modVd_held (s : State) (vd : Nat) (f : VDev → VDev) : (s.modVd vd f).held = s.held := rfl
@[simp] theorem State.modVd_orphans (s : State) (vd : Nat) (f : VDev → VDev) : (s.modVd vd f).orphans = s.orphans := rfl
@[simp] theorem State.modVd_handlerPlaces (s : State) (vd : Nat) (f : VDev → VDev) : (s.modVd vd f).handlerPlaces = s.handlerPlaces := rfl
@[simp] theorem State.modVd_returning (s : State) (vd : Nat) (f : VDev → VDev) : (s.modVd vd f).returning = s.returning := rfl
@[simp] theorem State.modVd_notices (s : State) (vd : Nat) (f : VDev → VDev) : (s.modVd vd f).notices = s.notices := rfl
@[simp] theorem State.modVd_barriers (s : State) (vd : Nat) (f : VDev → VDev) : (s.modVd vd f).barriers = s.barriers := rfl
@[simp] theorem State.modVd_barrierImages (s : State) (vd : Nat) (f : VDev → VDev) : (s.modVd vd f).barrierImages = s.barrierImages := rfl
@[simp] theorem State.modVd_barrierPasses (s : State) (vd : Nat) (f : VDev → VDev) : (s.modVd vd f).barrierPasses = s.barrierPasses := rfl
@[simp] theorem State.modVd_arrivals (s : State) (vd : Nat) (f : VDev → VDev) : (s.modVd vd f).arrivals = s.arrivals := rfl
@[simp] theorem State.modVd_spills (s : State) (vd : Nat) (f : VDev → VDev) : (s.modVd vd f).spills = s.spills := rfl
@[simp] theorem State.modVd_spillPos (s : State) (vd : Nat) (f : VDev → VDev) : (s.modVd vd f).spillPos = s.spillPos := rfl
@[simp] theorem State.modVd_spawnq (s : State) (vd : Nat) (f : VDev → VDev) : (s.modVd vd f).spawnq = s.spawnq := rfl
@[simp] theorem State.modVd_subbanks (s : State) (vd : Nat) (f : VDev → VDev) : (s.modVd vd f).subbanks = s.subbanks := rfl
@[simp] theorem State.modVd_remapping (s : State) (vd : Nat) (f : VDev → VDev) : (s.modVd vd f).remapping = s.remapping := rfl
@[simp] theorem State.modVd_icaches (s : State) (vd : Nat) (f : VDev → VDev) : (s.modVd vd f).icaches = s.icaches := rfl
@[simp] theorem State.modVd_codeLog (s : State) (vd : Nat) (f : VDev → VDev) : (s.modVd vd f).codeLog = s.codeLog := rfl
@[simp] theorem State.modVd_mem (s : State) (vd : Nat) (f : VDev → VDev) : (s.modVd vd f).mem = s.mem := rfl
@[simp] theorem State.modVd_fe (s : State) (vd : Nat) (f : VDev → VDev) : (s.modVd vd f).fe = s.fe := rfl
@[simp] theorem State.modVd_poison (s : State) (vd : Nat) (f : VDev → VDev) : (s.modVd vd f).poison = s.poison := rfl
@[simp] theorem State.modVd_owner (s : State) (vd : Nat) (f : VDev → VDev) : (s.modVd vd f).owner = s.owner := rfl
@[simp] theorem State.modVd_written (s : State) (vd : Nat) (f : VDev → VDev) : (s.modVd vd f).written = s.written := rfl
@[simp] theorem State.modVd_minor (s : State) (vd : Nat) (f : VDev → VDev) : (s.modVd vd f).minor = s.minor := rfl
@[simp] theorem State.modVd_major (s : State) (vd : Nat) (f : VDev → VDev) : (s.modVd vd f).major = s.major := rfl
@[simp] theorem State.modVd_treeCtr (s : State) (vd : Nat) (f : VDev → VDev) : (s.modVd vd f).treeCtr = s.treeCtr := rfl
@[simp] theorem State.modVd_rolling (s : State) (vd : Nat) (f : VDev → VDev) : (s.modVd vd f).rolling = s.rolling := rfl
@[simp] theorem State.modVd_fenced (s : State) (vd : Nat) (f : VDev → VDev) : (s.modVd vd f).fenced = s.fenced := rfl
@[simp] theorem State.modVd_badTag (s : State) (vd : Nat) (f : VDev → VDev) : (s.modVd vd f).badTag = s.badTag := rfl
@[simp] theorem State.modVd_keys (s : State) (vd : Nat) (f : VDev → VDev) : (s.modVd vd f).keys = s.keys := rfl
@[simp] theorem State.modVd_windows (s : State) (vd : Nat) (f : VDev → VDev) : (s.modVd vd f).windows = s.windows := rfl
@[simp] theorem State.modVd_hashmask (s : State) (vd : Nat) (f : VDev → VDev) : (s.modVd vd f).hashmask = s.hashmask := rfl
@[simp] theorem State.modVd_w62 (s : State) (vd : Nat) (f : VDev → VDev) : (s.modVd vd f).w62 = s.w62 := rfl
@[simp] theorem State.modVd_failedStacks (s : State) (vd : Nat) (f : VDev → VDev) : (s.modVd vd f).failedStacks = s.failedStacks := rfl
@[simp] theorem State.modVd_pch (s : State) (vd : Nat) (f : VDev → VDev) : (s.modVd vd f).pch = s.pch := rfl
@[simp] theorem State.modVd_pchUse (s : State) (vd : Nat) (f : VDev → VDev) : (s.modVd vd f).pchUse = s.pchUse := rfl
@[simp] theorem State.modVd_tlb (s : State) (vd : Nat) (f : VDev → VDev) : (s.modVd vd f).tlb = s.tlb := rfl
@[simp] theorem State.modVd_erasing (s : State) (vd : Nat) (f : VDev → VDev) : (s.modVd vd f).erasing = s.erasing := rfl
@[simp] theorem State.modVd_stallq (s : State) (vd : Nat) (f : VDev → VDev) : (s.modVd vd f).stallq = s.stallq := rfl
@[simp] theorem State.modVd_migrated (s : State) (vd : Nat) (f : VDev → VDev) : (s.modVd vd f).migrated = s.migrated := rfl
@[simp] theorem State.modVd_feq (s : State) (vd : Nat) (f : VDev → VDev) : (s.modVd vd f).feq = s.feq := rfl
@[simp] theorem State.modVd_resvq (s : State) (vd : Nat) (f : VDev → VDev) : (s.modVd vd f).resvq = s.resvq := rfl
@[simp] theorem State.modVd_msgs (s : State) (vd : Nat) (f : VDev → VDev) : (s.modVd vd f).msgs = s.msgs := rfl
@[simp] theorem State.modVd_barrierMsgs (s : State) (vd : Nat) (f : VDev → VDev) : (s.modVd vd f).barrierMsgs = s.barrierMsgs := rfl
@[simp] theorem State.modVd_inboxMsgs (s : State) (vd : Nat) (f : VDev → VDev) : (s.modVd vd f).inboxMsgs = s.inboxMsgs := rfl
@[simp] theorem State.modVd_spawnMsgs (s : State) (vd : Nat) (f : VDev → VDev) : (s.modVd vd f).spawnMsgs = s.spawnMsgs := rfl
@[simp] theorem State.modVd_migMsgs (s : State) (vd : Nat) (f : VDev → VDev) : (s.modVd vd f).migMsgs = s.migMsgs := rfl
@[simp] theorem State.modVd_invals (s : State) (vd : Nat) (f : VDev → VDev) : (s.modVd vd f).invals = s.invals := rfl
@[simp] theorem State.modVd_demands (s : State) (vd : Nat) (f : VDev → VDev) : (s.modVd vd f).demands = s.demands := rfl
@[simp] theorem State.modVd_switches (s : State) (vd : Nat) (f : VDev → VDev) : (s.modVd vd f).switches = s.switches := rfl
@[simp] theorem State.modVd_kilns (s : State) (vd : Nat) (f : VDev → VDev) : (s.modVd vd f).kilns = s.kilns := rfl
@[simp] theorem State.modVd_entries (s : State) (vd : Nat) (f : VDev → VDev) : (s.modVd vd f).entries = s.entries := rfl
@[simp] theorem State.modVd_grants (s : State) (vd : Nat) (f : VDev → VDev) : (s.modVd vd f).grants = s.grants := rfl
@[simp] theorem State.modVd_yardWaits (s : State) (vd : Nat) (f : VDev → VDev) : (s.modVd vd f).yardWaits = s.yardWaits := rfl
@[simp] theorem State.modVd_cmds (s : State) (vd : Nat) (f : VDev → VDev) : (s.modVd vd f).cmds = s.cmds := rfl
@[simp] theorem State.modVd_colls (s : State) (vd : Nat) (f : VDev → VDev) : (s.modVd vd f).colls = s.colls := rfl
@[simp] theorem State.modVd_rings (s : State) (vd : Nat) (f : VDev → VDev) : (s.modVd vd f).rings = s.rings := rfl
@[simp] theorem State.modVd_writebacks (s : State) (vd : Nat) (f : VDev → VDev) : (s.modVd vd f).writebacks = s.writebacks := rfl
@[simp] theorem State.modVd_locks (s : State) (vd : Nat) (f : VDev → VDev) : (s.modVd vd f).locks = s.locks := rfl
@[simp] theorem State.modVd_islands (s : State) (vd : Nat) (f : VDev → VDev) : (s.modVd vd f).islands = s.islands := rfl
@[simp] theorem State.modVd_lastStart (s : State) (vd : Nat) (f : VDev → VDev) : (s.modVd vd f).lastStart = s.lastStart := rfl
@[simp] theorem State.modVd_powerSamples (s : State) (vd : Nat) (f : VDev → VDev) : (s.modVd vd f).powerSamples = s.powerSamples := rfl
@[simp] theorem State.modVd_lastSample (s : State) (vd : Nat) (f : VDev → VDev) : (s.modVd vd f).lastSample = s.lastSample := rfl
@[simp] theorem State.modVd_boot (s : State) (vd : Nat) (f : VDev → VDev) : (s.modVd vd f).boot = s.boot := rfl
@[simp] theorem State.modVd_update (s : State) (vd : Nat) (f : VDev → VDev) : (s.modVd vd f).update = s.update := rfl
@[simp] theorem State.modVd_healthLog (s : State) (vd : Nat) (f : VDev → VDev) : (s.modVd vd f).healthLog = s.healthLog := rfl
@[simp] theorem State.modVd_tamper (s : State) (vd : Nat) (f : VDev → VDev) : (s.modVd vd f).tamper = s.tamper := rfl
@[simp] theorem State.modVd_eccTimes (s : State) (vd : Nat) (f : VDev → VDev) : (s.modVd vd f).eccTimes = s.eccTimes := rfl
@[simp] theorem State.modVd_spareRowsUsed (s : State) (vd : Nat) (f : VDev → VDev) : (s.modVd vd f).spareRowsUsed = s.spareRowsUsed := rfl
@[simp] theorem State.modVd_rowRepair (s : State) (vd : Nat) (f : VDev → VDev) : (s.modVd vd f).rowRepair = s.rowRepair := rfl
@[simp] theorem State.modVd_failingRows (s : State) (vd : Nat) (f : VDev → VDev) : (s.modVd vd f).failingRows = s.failingRows := rfl
@[simp] theorem State.modVd_corrSram (s : State) (vd : Nat) (f : VDev → VDev) : (s.modVd vd f).corrSram = s.corrSram := rfl
@[simp] theorem State.modVd_corrHbm (s : State) (vd : Nat) (f : VDev → VDev) : (s.modVd vd f).corrHbm = s.corrHbm := rfl
@[simp] theorem State.modVd_sparedLines (s : State) (vd : Nat) (f : VDev → VDev) : (s.modVd vd f).sparedLines = s.sparedLines := rfl
@[simp] theorem State.modVd_funs (s : State) (vd : Nat) (f : VDev → VDev) : (s.modVd vd f).funs = s.funs := rfl
@[simp] theorem State.modVd_rules (s : State) (vd : Nat) (f : VDev → VDev) : (s.modVd vd f).rules = s.rules := rfl
@[simp] theorem State.modVd_queues (s : State) (vd : Nat) (f : VDev → VDev) : (s.modVd vd f).queues = s.queues := rfl
@[simp] theorem State.modVd_eth (s : State) (vd : Nat) (f : VDev → VDev) : (s.modVd vd f).eth = s.eth := rfl
@[simp] theorem State.modVd_birtil (s : State) (vd : Nat) (f : VDev → VDev) : (s.modVd vd f).birtil = s.birtil := rfl
@[simp] theorem State.modVd_mailbox (s : State) (vd : Nat) (f : VDev → VDev) : (s.modVd vd f).mailbox = s.mailbox := rfl
@[simp] theorem State.modVd_reports (s : State) (vd : Nat) (f : VDev → VDev) : (s.modVd vd f).reports = s.reports := rfl
@[simp] theorem State.modVd_debugReplies (s : State) (vd : Nat) (f : VDev → VDev) : (s.modVd vd f).debugReplies = s.debugReplies := rfl
@[simp] theorem State.modVd_debugOps (s : State) (vd : Nat) (f : VDev → VDev) : (s.modVd vd f).debugOps = s.debugOps := rfl
@[simp] theorem State.modVd_frames (s : State) (vd : Nat) (f : VDev → VDev) : (s.modVd vd f).frames = s.frames := rfl

/-! ### Changing a sub-bank -/

@[simp] theorem State.modSub_agenda (s : State) (b sb : Nat) (f : SubBank → SubBank) : (s.modSub b sb f).agenda = s.agenda := rfl
@[simp] theorem State.modSub_cycle (s : State) (b sb : Nat) (f : SubBank → SubBank) : (s.modSub b sb f).cycle = s.cycle := rfl
@[simp] theorem State.modSub_devHalfNs (s : State) (b sb : Nat) (f : SubBank → SubBank) : (s.modSub b sb f).devHalfNs = s.devHalfNs := rfl
@[simp] theorem State.modSub_slew (s : State) (b sb : Nat) (f : SubBank → SubBank) : (s.modSub b sb f).slew = s.slew := rfl
@[simp] theorem State.modSub_cur (s : State) (b sb : Nat) (f : SubBank → SubBank) : (s.modSub b sb f).cur = s.cur := rfl
@[simp] theorem State.modSub_hadTurn (s : State) (b sb : Nat) (f : SubBank → SubBank) : (s.modSub b sb f).hadTurn = s.hadTurn := rfl
@[simp] theorem State.modSub_stations (s : State) (b sb : Nat) (f : SubBank → SubBank) : (s.modSub b sb f).stations = s.stations := rfl
@[simp] theorem State.modSub_freeCtr (s : State) (b sb : Nat) (f : SubBank → SubBank) : (s.modSub b sb f).freeCtr = s.freeCtr := rfl
@[simp] theorem State.modSub_answers (s : State) (b sb : Nat) (f : SubBank → SubBank) : (s.modSub b sb f).answers = s.answers := rfl
@[simp] theorem State.modSub_nextId (s : State) (b sb : Nat) (f : SubBank → SubBank) : (s.modSub b sb f).nextId = s.nextId := rfl
@[simp] theorem State.modSub_slots (s : State) (b sb : Nat) (f : SubBank → SubBank) : (s.modSub b sb f).slots = s.slots := rfl
@[simp] theorem State.modSub_saved (s : State) (b sb : Nat) (f : SubBank → SubBank) : (s.modSub b sb f).saved = s.saved := rfl
@[simp] theorem State.modSub_held (s : State) (b sb : Nat) (f : SubBank → SubBank) : (s.modSub b sb f).held = s.held := rfl
@[simp] theorem State.modSub_orphans (s : State) (b sb : Nat) (f : SubBank → SubBank) : (s.modSub b sb f).orphans = s.orphans := rfl
@[simp] theorem State.modSub_handlerPlaces (s : State) (b sb : Nat) (f : SubBank → SubBank) : (s.modSub b sb f).handlerPlaces = s.handlerPlaces := rfl
@[simp] theorem State.modSub_returning (s : State) (b sb : Nat) (f : SubBank → SubBank) : (s.modSub b sb f).returning = s.returning := rfl
@[simp] theorem State.modSub_notices (s : State) (b sb : Nat) (f : SubBank → SubBank) : (s.modSub b sb f).notices = s.notices := rfl
@[simp] theorem State.modSub_barriers (s : State) (b sb : Nat) (f : SubBank → SubBank) : (s.modSub b sb f).barriers = s.barriers := rfl
@[simp] theorem State.modSub_barrierImages (s : State) (b sb : Nat) (f : SubBank → SubBank) : (s.modSub b sb f).barrierImages = s.barrierImages := rfl
@[simp] theorem State.modSub_barrierPasses (s : State) (b sb : Nat) (f : SubBank → SubBank) : (s.modSub b sb f).barrierPasses = s.barrierPasses := rfl
@[simp] theorem State.modSub_arrivals (s : State) (b sb : Nat) (f : SubBank → SubBank) : (s.modSub b sb f).arrivals = s.arrivals := rfl
@[simp] theorem State.modSub_spills (s : State) (b sb : Nat) (f : SubBank → SubBank) : (s.modSub b sb f).spills = s.spills := rfl
@[simp] theorem State.modSub_spillPos (s : State) (b sb : Nat) (f : SubBank → SubBank) : (s.modSub b sb f).spillPos = s.spillPos := rfl
@[simp] theorem State.modSub_spawnq (s : State) (b sb : Nat) (f : SubBank → SubBank) : (s.modSub b sb f).spawnq = s.spawnq := rfl
@[simp] theorem State.modSub_remapping (s : State) (b sb : Nat) (f : SubBank → SubBank) : (s.modSub b sb f).remapping = s.remapping := rfl
@[simp] theorem State.modSub_icaches (s : State) (b sb : Nat) (f : SubBank → SubBank) : (s.modSub b sb f).icaches = s.icaches := rfl
@[simp] theorem State.modSub_codeLog (s : State) (b sb : Nat) (f : SubBank → SubBank) : (s.modSub b sb f).codeLog = s.codeLog := rfl
@[simp] theorem State.modSub_mem (s : State) (b sb : Nat) (f : SubBank → SubBank) : (s.modSub b sb f).mem = s.mem := rfl
@[simp] theorem State.modSub_fe (s : State) (b sb : Nat) (f : SubBank → SubBank) : (s.modSub b sb f).fe = s.fe := rfl
@[simp] theorem State.modSub_poison (s : State) (b sb : Nat) (f : SubBank → SubBank) : (s.modSub b sb f).poison = s.poison := rfl
@[simp] theorem State.modSub_owner (s : State) (b sb : Nat) (f : SubBank → SubBank) : (s.modSub b sb f).owner = s.owner := rfl
@[simp] theorem State.modSub_written (s : State) (b sb : Nat) (f : SubBank → SubBank) : (s.modSub b sb f).written = s.written := rfl
@[simp] theorem State.modSub_minor (s : State) (b sb : Nat) (f : SubBank → SubBank) : (s.modSub b sb f).minor = s.minor := rfl
@[simp] theorem State.modSub_major (s : State) (b sb : Nat) (f : SubBank → SubBank) : (s.modSub b sb f).major = s.major := rfl
@[simp] theorem State.modSub_treeCtr (s : State) (b sb : Nat) (f : SubBank → SubBank) : (s.modSub b sb f).treeCtr = s.treeCtr := rfl
@[simp] theorem State.modSub_rolling (s : State) (b sb : Nat) (f : SubBank → SubBank) : (s.modSub b sb f).rolling = s.rolling := rfl
@[simp] theorem State.modSub_fenced (s : State) (b sb : Nat) (f : SubBank → SubBank) : (s.modSub b sb f).fenced = s.fenced := rfl
@[simp] theorem State.modSub_badTag (s : State) (b sb : Nat) (f : SubBank → SubBank) : (s.modSub b sb f).badTag = s.badTag := rfl
@[simp] theorem State.modSub_keys (s : State) (b sb : Nat) (f : SubBank → SubBank) : (s.modSub b sb f).keys = s.keys := rfl
@[simp] theorem State.modSub_windows (s : State) (b sb : Nat) (f : SubBank → SubBank) : (s.modSub b sb f).windows = s.windows := rfl
@[simp] theorem State.modSub_hashmask (s : State) (b sb : Nat) (f : SubBank → SubBank) : (s.modSub b sb f).hashmask = s.hashmask := rfl
@[simp] theorem State.modSub_w62 (s : State) (b sb : Nat) (f : SubBank → SubBank) : (s.modSub b sb f).w62 = s.w62 := rfl
@[simp] theorem State.modSub_failedStacks (s : State) (b sb : Nat) (f : SubBank → SubBank) : (s.modSub b sb f).failedStacks = s.failedStacks := rfl
@[simp] theorem State.modSub_pch (s : State) (b sb : Nat) (f : SubBank → SubBank) : (s.modSub b sb f).pch = s.pch := rfl
@[simp] theorem State.modSub_pchUse (s : State) (b sb : Nat) (f : SubBank → SubBank) : (s.modSub b sb f).pchUse = s.pchUse := rfl
@[simp] theorem State.modSub_tlb (s : State) (b sb : Nat) (f : SubBank → SubBank) : (s.modSub b sb f).tlb = s.tlb := rfl
@[simp] theorem State.modSub_erasing (s : State) (b sb : Nat) (f : SubBank → SubBank) : (s.modSub b sb f).erasing = s.erasing := rfl
@[simp] theorem State.modSub_stallq (s : State) (b sb : Nat) (f : SubBank → SubBank) : (s.modSub b sb f).stallq = s.stallq := rfl
@[simp] theorem State.modSub_migrated (s : State) (b sb : Nat) (f : SubBank → SubBank) : (s.modSub b sb f).migrated = s.migrated := rfl
@[simp] theorem State.modSub_feq (s : State) (b sb : Nat) (f : SubBank → SubBank) : (s.modSub b sb f).feq = s.feq := rfl
@[simp] theorem State.modSub_resvq (s : State) (b sb : Nat) (f : SubBank → SubBank) : (s.modSub b sb f).resvq = s.resvq := rfl
@[simp] theorem State.modSub_msgs (s : State) (b sb : Nat) (f : SubBank → SubBank) : (s.modSub b sb f).msgs = s.msgs := rfl
@[simp] theorem State.modSub_barrierMsgs (s : State) (b sb : Nat) (f : SubBank → SubBank) : (s.modSub b sb f).barrierMsgs = s.barrierMsgs := rfl
@[simp] theorem State.modSub_inboxMsgs (s : State) (b sb : Nat) (f : SubBank → SubBank) : (s.modSub b sb f).inboxMsgs = s.inboxMsgs := rfl
@[simp] theorem State.modSub_spawnMsgs (s : State) (b sb : Nat) (f : SubBank → SubBank) : (s.modSub b sb f).spawnMsgs = s.spawnMsgs := rfl
@[simp] theorem State.modSub_migMsgs (s : State) (b sb : Nat) (f : SubBank → SubBank) : (s.modSub b sb f).migMsgs = s.migMsgs := rfl
@[simp] theorem State.modSub_invals (s : State) (b sb : Nat) (f : SubBank → SubBank) : (s.modSub b sb f).invals = s.invals := rfl
@[simp] theorem State.modSub_demands (s : State) (b sb : Nat) (f : SubBank → SubBank) : (s.modSub b sb f).demands = s.demands := rfl
@[simp] theorem State.modSub_vds (s : State) (b sb : Nat) (f : SubBank → SubBank) : (s.modSub b sb f).vds = s.vds := rfl
@[simp] theorem State.modSub_switches (s : State) (b sb : Nat) (f : SubBank → SubBank) : (s.modSub b sb f).switches = s.switches := rfl
@[simp] theorem State.modSub_kilns (s : State) (b sb : Nat) (f : SubBank → SubBank) : (s.modSub b sb f).kilns = s.kilns := rfl
@[simp] theorem State.modSub_entries (s : State) (b sb : Nat) (f : SubBank → SubBank) : (s.modSub b sb f).entries = s.entries := rfl
@[simp] theorem State.modSub_grants (s : State) (b sb : Nat) (f : SubBank → SubBank) : (s.modSub b sb f).grants = s.grants := rfl
@[simp] theorem State.modSub_yardWaits (s : State) (b sb : Nat) (f : SubBank → SubBank) : (s.modSub b sb f).yardWaits = s.yardWaits := rfl
@[simp] theorem State.modSub_cmds (s : State) (b sb : Nat) (f : SubBank → SubBank) : (s.modSub b sb f).cmds = s.cmds := rfl
@[simp] theorem State.modSub_colls (s : State) (b sb : Nat) (f : SubBank → SubBank) : (s.modSub b sb f).colls = s.colls := rfl
@[simp] theorem State.modSub_rings (s : State) (b sb : Nat) (f : SubBank → SubBank) : (s.modSub b sb f).rings = s.rings := rfl
@[simp] theorem State.modSub_writebacks (s : State) (b sb : Nat) (f : SubBank → SubBank) : (s.modSub b sb f).writebacks = s.writebacks := rfl
@[simp] theorem State.modSub_locks (s : State) (b sb : Nat) (f : SubBank → SubBank) : (s.modSub b sb f).locks = s.locks := rfl
@[simp] theorem State.modSub_islands (s : State) (b sb : Nat) (f : SubBank → SubBank) : (s.modSub b sb f).islands = s.islands := rfl
@[simp] theorem State.modSub_lastStart (s : State) (b sb : Nat) (f : SubBank → SubBank) : (s.modSub b sb f).lastStart = s.lastStart := rfl
@[simp] theorem State.modSub_powerSamples (s : State) (b sb : Nat) (f : SubBank → SubBank) : (s.modSub b sb f).powerSamples = s.powerSamples := rfl
@[simp] theorem State.modSub_lastSample (s : State) (b sb : Nat) (f : SubBank → SubBank) : (s.modSub b sb f).lastSample = s.lastSample := rfl
@[simp] theorem State.modSub_boot (s : State) (b sb : Nat) (f : SubBank → SubBank) : (s.modSub b sb f).boot = s.boot := rfl
@[simp] theorem State.modSub_update (s : State) (b sb : Nat) (f : SubBank → SubBank) : (s.modSub b sb f).update = s.update := rfl
@[simp] theorem State.modSub_healthLog (s : State) (b sb : Nat) (f : SubBank → SubBank) : (s.modSub b sb f).healthLog = s.healthLog := rfl
@[simp] theorem State.modSub_tamper (s : State) (b sb : Nat) (f : SubBank → SubBank) : (s.modSub b sb f).tamper = s.tamper := rfl
@[simp] theorem State.modSub_eccTimes (s : State) (b sb : Nat) (f : SubBank → SubBank) : (s.modSub b sb f).eccTimes = s.eccTimes := rfl
@[simp] theorem State.modSub_spareRowsUsed (s : State) (b sb : Nat) (f : SubBank → SubBank) : (s.modSub b sb f).spareRowsUsed = s.spareRowsUsed := rfl
@[simp] theorem State.modSub_rowRepair (s : State) (b sb : Nat) (f : SubBank → SubBank) : (s.modSub b sb f).rowRepair = s.rowRepair := rfl
@[simp] theorem State.modSub_failingRows (s : State) (b sb : Nat) (f : SubBank → SubBank) : (s.modSub b sb f).failingRows = s.failingRows := rfl
@[simp] theorem State.modSub_corrSram (s : State) (b sb : Nat) (f : SubBank → SubBank) : (s.modSub b sb f).corrSram = s.corrSram := rfl
@[simp] theorem State.modSub_corrHbm (s : State) (b sb : Nat) (f : SubBank → SubBank) : (s.modSub b sb f).corrHbm = s.corrHbm := rfl
@[simp] theorem State.modSub_sparedLines (s : State) (b sb : Nat) (f : SubBank → SubBank) : (s.modSub b sb f).sparedLines = s.sparedLines := rfl
@[simp] theorem State.modSub_funs (s : State) (b sb : Nat) (f : SubBank → SubBank) : (s.modSub b sb f).funs = s.funs := rfl
@[simp] theorem State.modSub_rules (s : State) (b sb : Nat) (f : SubBank → SubBank) : (s.modSub b sb f).rules = s.rules := rfl
@[simp] theorem State.modSub_queues (s : State) (b sb : Nat) (f : SubBank → SubBank) : (s.modSub b sb f).queues = s.queues := rfl
@[simp] theorem State.modSub_eth (s : State) (b sb : Nat) (f : SubBank → SubBank) : (s.modSub b sb f).eth = s.eth := rfl
@[simp] theorem State.modSub_birtil (s : State) (b sb : Nat) (f : SubBank → SubBank) : (s.modSub b sb f).birtil = s.birtil := rfl
@[simp] theorem State.modSub_mailbox (s : State) (b sb : Nat) (f : SubBank → SubBank) : (s.modSub b sb f).mailbox = s.mailbox := rfl
@[simp] theorem State.modSub_reports (s : State) (b sb : Nat) (f : SubBank → SubBank) : (s.modSub b sb f).reports = s.reports := rfl
@[simp] theorem State.modSub_debugReplies (s : State) (b sb : Nat) (f : SubBank → SubBank) : (s.modSub b sb f).debugReplies = s.debugReplies := rfl
@[simp] theorem State.modSub_debugOps (s : State) (b sb : Nat) (f : SubBank → SubBank) : (s.modSub b sb f).debugOps = s.debugOps := rfl
@[simp] theorem State.modSub_frames (s : State) (b sb : Nat) (f : SubBank → SubBank) : (s.modSub b sb f).frames = s.frames := rfl

/-! ### Writing a full/empty bit -/

@[simp] theorem State.setFe_agenda (s : State) (p : Place) (b : Bool) : (s.setFe p b).agenda = s.agenda := rfl
@[simp] theorem State.setFe_cycle (s : State) (p : Place) (b : Bool) : (s.setFe p b).cycle = s.cycle := rfl
@[simp] theorem State.setFe_devHalfNs (s : State) (p : Place) (b : Bool) : (s.setFe p b).devHalfNs = s.devHalfNs := rfl
@[simp] theorem State.setFe_slew (s : State) (p : Place) (b : Bool) : (s.setFe p b).slew = s.slew := rfl
@[simp] theorem State.setFe_cur (s : State) (p : Place) (b : Bool) : (s.setFe p b).cur = s.cur := rfl
@[simp] theorem State.setFe_hadTurn (s : State) (p : Place) (b : Bool) : (s.setFe p b).hadTurn = s.hadTurn := rfl
@[simp] theorem State.setFe_stations (s : State) (p : Place) (b : Bool) : (s.setFe p b).stations = s.stations := rfl
@[simp] theorem State.setFe_freeCtr (s : State) (p : Place) (b : Bool) : (s.setFe p b).freeCtr = s.freeCtr := rfl
@[simp] theorem State.setFe_answers (s : State) (p : Place) (b : Bool) : (s.setFe p b).answers = s.answers := rfl
@[simp] theorem State.setFe_nextId (s : State) (p : Place) (b : Bool) : (s.setFe p b).nextId = s.nextId := rfl
@[simp] theorem State.setFe_slots (s : State) (p : Place) (b : Bool) : (s.setFe p b).slots = s.slots := rfl
@[simp] theorem State.setFe_saved (s : State) (p : Place) (b : Bool) : (s.setFe p b).saved = s.saved := rfl
@[simp] theorem State.setFe_held (s : State) (p : Place) (b : Bool) : (s.setFe p b).held = s.held := rfl
@[simp] theorem State.setFe_orphans (s : State) (p : Place) (b : Bool) : (s.setFe p b).orphans = s.orphans := rfl
@[simp] theorem State.setFe_handlerPlaces (s : State) (p : Place) (b : Bool) : (s.setFe p b).handlerPlaces = s.handlerPlaces := rfl
@[simp] theorem State.setFe_returning (s : State) (p : Place) (b : Bool) : (s.setFe p b).returning = s.returning := rfl
@[simp] theorem State.setFe_notices (s : State) (p : Place) (b : Bool) : (s.setFe p b).notices = s.notices := rfl
@[simp] theorem State.setFe_barriers (s : State) (p : Place) (b : Bool) : (s.setFe p b).barriers = s.barriers := rfl
@[simp] theorem State.setFe_barrierImages (s : State) (p : Place) (b : Bool) : (s.setFe p b).barrierImages = s.barrierImages := rfl
@[simp] theorem State.setFe_barrierPasses (s : State) (p : Place) (b : Bool) : (s.setFe p b).barrierPasses = s.barrierPasses := rfl
@[simp] theorem State.setFe_arrivals (s : State) (p : Place) (b : Bool) : (s.setFe p b).arrivals = s.arrivals := rfl
@[simp] theorem State.setFe_spills (s : State) (p : Place) (b : Bool) : (s.setFe p b).spills = s.spills := rfl
@[simp] theorem State.setFe_spillPos (s : State) (p : Place) (b : Bool) : (s.setFe p b).spillPos = s.spillPos := rfl
@[simp] theorem State.setFe_spawnq (s : State) (p : Place) (b : Bool) : (s.setFe p b).spawnq = s.spawnq := rfl
@[simp] theorem State.setFe_subbanks (s : State) (p : Place) (b : Bool) : (s.setFe p b).subbanks = s.subbanks := rfl
@[simp] theorem State.setFe_remapping (s : State) (p : Place) (b : Bool) : (s.setFe p b).remapping = s.remapping := rfl
@[simp] theorem State.setFe_icaches (s : State) (p : Place) (b : Bool) : (s.setFe p b).icaches = s.icaches := rfl
@[simp] theorem State.setFe_codeLog (s : State) (p : Place) (b : Bool) : (s.setFe p b).codeLog = s.codeLog := rfl
@[simp] theorem State.setFe_mem (s : State) (p : Place) (b : Bool) : (s.setFe p b).mem = s.mem := rfl
@[simp] theorem State.setFe_poison (s : State) (p : Place) (b : Bool) : (s.setFe p b).poison = s.poison := rfl
@[simp] theorem State.setFe_owner (s : State) (p : Place) (b : Bool) : (s.setFe p b).owner = s.owner := rfl
@[simp] theorem State.setFe_written (s : State) (p : Place) (b : Bool) : (s.setFe p b).written = s.written := rfl
@[simp] theorem State.setFe_minor (s : State) (p : Place) (b : Bool) : (s.setFe p b).minor = s.minor := rfl
@[simp] theorem State.setFe_major (s : State) (p : Place) (b : Bool) : (s.setFe p b).major = s.major := rfl
@[simp] theorem State.setFe_treeCtr (s : State) (p : Place) (b : Bool) : (s.setFe p b).treeCtr = s.treeCtr := rfl
@[simp] theorem State.setFe_rolling (s : State) (p : Place) (b : Bool) : (s.setFe p b).rolling = s.rolling := rfl
@[simp] theorem State.setFe_fenced (s : State) (p : Place) (b : Bool) : (s.setFe p b).fenced = s.fenced := rfl
@[simp] theorem State.setFe_badTag (s : State) (p : Place) (b : Bool) : (s.setFe p b).badTag = s.badTag := rfl
@[simp] theorem State.setFe_keys (s : State) (p : Place) (b : Bool) : (s.setFe p b).keys = s.keys := rfl
@[simp] theorem State.setFe_windows (s : State) (p : Place) (b : Bool) : (s.setFe p b).windows = s.windows := rfl
@[simp] theorem State.setFe_hashmask (s : State) (p : Place) (b : Bool) : (s.setFe p b).hashmask = s.hashmask := rfl
@[simp] theorem State.setFe_w62 (s : State) (p : Place) (b : Bool) : (s.setFe p b).w62 = s.w62 := rfl
@[simp] theorem State.setFe_failedStacks (s : State) (p : Place) (b : Bool) : (s.setFe p b).failedStacks = s.failedStacks := rfl
@[simp] theorem State.setFe_pch (s : State) (p : Place) (b : Bool) : (s.setFe p b).pch = s.pch := rfl
@[simp] theorem State.setFe_pchUse (s : State) (p : Place) (b : Bool) : (s.setFe p b).pchUse = s.pchUse := rfl
@[simp] theorem State.setFe_tlb (s : State) (p : Place) (b : Bool) : (s.setFe p b).tlb = s.tlb := rfl
@[simp] theorem State.setFe_erasing (s : State) (p : Place) (b : Bool) : (s.setFe p b).erasing = s.erasing := rfl
@[simp] theorem State.setFe_stallq (s : State) (p : Place) (b : Bool) : (s.setFe p b).stallq = s.stallq := rfl
@[simp] theorem State.setFe_migrated (s : State) (p : Place) (b : Bool) : (s.setFe p b).migrated = s.migrated := rfl
@[simp] theorem State.setFe_feq (s : State) (p : Place) (b : Bool) : (s.setFe p b).feq = s.feq := rfl
@[simp] theorem State.setFe_resvq (s : State) (p : Place) (b : Bool) : (s.setFe p b).resvq = s.resvq := rfl
@[simp] theorem State.setFe_msgs (s : State) (p : Place) (b : Bool) : (s.setFe p b).msgs = s.msgs := rfl
@[simp] theorem State.setFe_barrierMsgs (s : State) (p : Place) (b : Bool) : (s.setFe p b).barrierMsgs = s.barrierMsgs := rfl
@[simp] theorem State.setFe_inboxMsgs (s : State) (p : Place) (b : Bool) : (s.setFe p b).inboxMsgs = s.inboxMsgs := rfl
@[simp] theorem State.setFe_spawnMsgs (s : State) (p : Place) (b : Bool) : (s.setFe p b).spawnMsgs = s.spawnMsgs := rfl
@[simp] theorem State.setFe_migMsgs (s : State) (p : Place) (b : Bool) : (s.setFe p b).migMsgs = s.migMsgs := rfl
@[simp] theorem State.setFe_invals (s : State) (p : Place) (b : Bool) : (s.setFe p b).invals = s.invals := rfl
@[simp] theorem State.setFe_demands (s : State) (p : Place) (b : Bool) : (s.setFe p b).demands = s.demands := rfl
@[simp] theorem State.setFe_vds (s : State) (p : Place) (b : Bool) : (s.setFe p b).vds = s.vds := rfl
@[simp] theorem State.setFe_switches (s : State) (p : Place) (b : Bool) : (s.setFe p b).switches = s.switches := rfl
@[simp] theorem State.setFe_kilns (s : State) (p : Place) (b : Bool) : (s.setFe p b).kilns = s.kilns := rfl
@[simp] theorem State.setFe_entries (s : State) (p : Place) (b : Bool) : (s.setFe p b).entries = s.entries := rfl
@[simp] theorem State.setFe_grants (s : State) (p : Place) (b : Bool) : (s.setFe p b).grants = s.grants := rfl
@[simp] theorem State.setFe_yardWaits (s : State) (p : Place) (b : Bool) : (s.setFe p b).yardWaits = s.yardWaits := rfl
@[simp] theorem State.setFe_cmds (s : State) (p : Place) (b : Bool) : (s.setFe p b).cmds = s.cmds := rfl
@[simp] theorem State.setFe_colls (s : State) (p : Place) (b : Bool) : (s.setFe p b).colls = s.colls := rfl
@[simp] theorem State.setFe_rings (s : State) (p : Place) (b : Bool) : (s.setFe p b).rings = s.rings := rfl
@[simp] theorem State.setFe_writebacks (s : State) (p : Place) (b : Bool) : (s.setFe p b).writebacks = s.writebacks := rfl
@[simp] theorem State.setFe_locks (s : State) (p : Place) (b : Bool) : (s.setFe p b).locks = s.locks := rfl
@[simp] theorem State.setFe_islands (s : State) (p : Place) (b : Bool) : (s.setFe p b).islands = s.islands := rfl
@[simp] theorem State.setFe_lastStart (s : State) (p : Place) (b : Bool) : (s.setFe p b).lastStart = s.lastStart := rfl
@[simp] theorem State.setFe_powerSamples (s : State) (p : Place) (b : Bool) : (s.setFe p b).powerSamples = s.powerSamples := rfl
@[simp] theorem State.setFe_lastSample (s : State) (p : Place) (b : Bool) : (s.setFe p b).lastSample = s.lastSample := rfl
@[simp] theorem State.setFe_boot (s : State) (p : Place) (b : Bool) : (s.setFe p b).boot = s.boot := rfl
@[simp] theorem State.setFe_update (s : State) (p : Place) (b : Bool) : (s.setFe p b).update = s.update := rfl
@[simp] theorem State.setFe_healthLog (s : State) (p : Place) (b : Bool) : (s.setFe p b).healthLog = s.healthLog := rfl
@[simp] theorem State.setFe_tamper (s : State) (p : Place) (b : Bool) : (s.setFe p b).tamper = s.tamper := rfl
@[simp] theorem State.setFe_eccTimes (s : State) (p : Place) (b : Bool) : (s.setFe p b).eccTimes = s.eccTimes := rfl
@[simp] theorem State.setFe_spareRowsUsed (s : State) (p : Place) (b : Bool) : (s.setFe p b).spareRowsUsed = s.spareRowsUsed := rfl
@[simp] theorem State.setFe_rowRepair (s : State) (p : Place) (b : Bool) : (s.setFe p b).rowRepair = s.rowRepair := rfl
@[simp] theorem State.setFe_failingRows (s : State) (p : Place) (b : Bool) : (s.setFe p b).failingRows = s.failingRows := rfl
@[simp] theorem State.setFe_corrSram (s : State) (p : Place) (b : Bool) : (s.setFe p b).corrSram = s.corrSram := rfl
@[simp] theorem State.setFe_corrHbm (s : State) (p : Place) (b : Bool) : (s.setFe p b).corrHbm = s.corrHbm := rfl
@[simp] theorem State.setFe_sparedLines (s : State) (p : Place) (b : Bool) : (s.setFe p b).sparedLines = s.sparedLines := rfl
@[simp] theorem State.setFe_funs (s : State) (p : Place) (b : Bool) : (s.setFe p b).funs = s.funs := rfl
@[simp] theorem State.setFe_rules (s : State) (p : Place) (b : Bool) : (s.setFe p b).rules = s.rules := rfl
@[simp] theorem State.setFe_queues (s : State) (p : Place) (b : Bool) : (s.setFe p b).queues = s.queues := rfl
@[simp] theorem State.setFe_eth (s : State) (p : Place) (b : Bool) : (s.setFe p b).eth = s.eth := rfl
@[simp] theorem State.setFe_birtil (s : State) (p : Place) (b : Bool) : (s.setFe p b).birtil = s.birtil := rfl
@[simp] theorem State.setFe_mailbox (s : State) (p : Place) (b : Bool) : (s.setFe p b).mailbox = s.mailbox := rfl
@[simp] theorem State.setFe_reports (s : State) (p : Place) (b : Bool) : (s.setFe p b).reports = s.reports := rfl
@[simp] theorem State.setFe_debugReplies (s : State) (p : Place) (b : Bool) : (s.setFe p b).debugReplies = s.debugReplies := rfl
@[simp] theorem State.setFe_debugOps (s : State) (p : Place) (b : Bool) : (s.setFe p b).debugOps = s.debugOps := rfl
@[simp] theorem State.setFe_frames (s : State) (p : Place) (b : Bool) : (s.setFe p b).frames = s.frames := rfl

/-! ### Fresh numbers and free values -/

@[simp] theorem State.fresh_agenda (s : State) : s.fresh.2.agenda = s.agenda := rfl
@[simp] theorem State.fresh_cycle (s : State) : s.fresh.2.cycle = s.cycle := rfl
@[simp] theorem State.fresh_devHalfNs (s : State) : s.fresh.2.devHalfNs = s.devHalfNs := rfl
@[simp] theorem State.fresh_slew (s : State) : s.fresh.2.slew = s.slew := rfl
@[simp] theorem State.fresh_cur (s : State) : s.fresh.2.cur = s.cur := rfl
@[simp] theorem State.fresh_hadTurn (s : State) : s.fresh.2.hadTurn = s.hadTurn := rfl
@[simp] theorem State.fresh_stations (s : State) : s.fresh.2.stations = s.stations := rfl
@[simp] theorem State.fresh_freeCtr (s : State) : s.fresh.2.freeCtr = s.freeCtr := rfl
@[simp] theorem State.fresh_answers (s : State) : s.fresh.2.answers = s.answers := rfl
@[simp] theorem State.fresh_slots (s : State) : s.fresh.2.slots = s.slots := rfl
@[simp] theorem State.fresh_saved (s : State) : s.fresh.2.saved = s.saved := rfl
@[simp] theorem State.fresh_held (s : State) : s.fresh.2.held = s.held := rfl
@[simp] theorem State.fresh_orphans (s : State) : s.fresh.2.orphans = s.orphans := rfl
@[simp] theorem State.fresh_handlerPlaces (s : State) : s.fresh.2.handlerPlaces = s.handlerPlaces := rfl
@[simp] theorem State.fresh_returning (s : State) : s.fresh.2.returning = s.returning := rfl
@[simp] theorem State.fresh_notices (s : State) : s.fresh.2.notices = s.notices := rfl
@[simp] theorem State.fresh_barriers (s : State) : s.fresh.2.barriers = s.barriers := rfl
@[simp] theorem State.fresh_barrierImages (s : State) : s.fresh.2.barrierImages = s.barrierImages := rfl
@[simp] theorem State.fresh_barrierPasses (s : State) : s.fresh.2.barrierPasses = s.barrierPasses := rfl
@[simp] theorem State.fresh_arrivals (s : State) : s.fresh.2.arrivals = s.arrivals := rfl
@[simp] theorem State.fresh_spills (s : State) : s.fresh.2.spills = s.spills := rfl
@[simp] theorem State.fresh_spillPos (s : State) : s.fresh.2.spillPos = s.spillPos := rfl
@[simp] theorem State.fresh_spawnq (s : State) : s.fresh.2.spawnq = s.spawnq := rfl
@[simp] theorem State.fresh_subbanks (s : State) : s.fresh.2.subbanks = s.subbanks := rfl
@[simp] theorem State.fresh_remapping (s : State) : s.fresh.2.remapping = s.remapping := rfl
@[simp] theorem State.fresh_icaches (s : State) : s.fresh.2.icaches = s.icaches := rfl
@[simp] theorem State.fresh_codeLog (s : State) : s.fresh.2.codeLog = s.codeLog := rfl
@[simp] theorem State.fresh_mem (s : State) : s.fresh.2.mem = s.mem := rfl
@[simp] theorem State.fresh_fe (s : State) : s.fresh.2.fe = s.fe := rfl
@[simp] theorem State.fresh_poison (s : State) : s.fresh.2.poison = s.poison := rfl
@[simp] theorem State.fresh_owner (s : State) : s.fresh.2.owner = s.owner := rfl
@[simp] theorem State.fresh_written (s : State) : s.fresh.2.written = s.written := rfl
@[simp] theorem State.fresh_minor (s : State) : s.fresh.2.minor = s.minor := rfl
@[simp] theorem State.fresh_major (s : State) : s.fresh.2.major = s.major := rfl
@[simp] theorem State.fresh_treeCtr (s : State) : s.fresh.2.treeCtr = s.treeCtr := rfl
@[simp] theorem State.fresh_rolling (s : State) : s.fresh.2.rolling = s.rolling := rfl
@[simp] theorem State.fresh_fenced (s : State) : s.fresh.2.fenced = s.fenced := rfl
@[simp] theorem State.fresh_badTag (s : State) : s.fresh.2.badTag = s.badTag := rfl
@[simp] theorem State.fresh_keys (s : State) : s.fresh.2.keys = s.keys := rfl
@[simp] theorem State.fresh_windows (s : State) : s.fresh.2.windows = s.windows := rfl
@[simp] theorem State.fresh_hashmask (s : State) : s.fresh.2.hashmask = s.hashmask := rfl
@[simp] theorem State.fresh_w62 (s : State) : s.fresh.2.w62 = s.w62 := rfl
@[simp] theorem State.fresh_failedStacks (s : State) : s.fresh.2.failedStacks = s.failedStacks := rfl
@[simp] theorem State.fresh_pch (s : State) : s.fresh.2.pch = s.pch := rfl
@[simp] theorem State.fresh_pchUse (s : State) : s.fresh.2.pchUse = s.pchUse := rfl
@[simp] theorem State.fresh_tlb (s : State) : s.fresh.2.tlb = s.tlb := rfl
@[simp] theorem State.fresh_erasing (s : State) : s.fresh.2.erasing = s.erasing := rfl
@[simp] theorem State.fresh_stallq (s : State) : s.fresh.2.stallq = s.stallq := rfl
@[simp] theorem State.fresh_migrated (s : State) : s.fresh.2.migrated = s.migrated := rfl
@[simp] theorem State.fresh_feq (s : State) : s.fresh.2.feq = s.feq := rfl
@[simp] theorem State.fresh_resvq (s : State) : s.fresh.2.resvq = s.resvq := rfl
@[simp] theorem State.fresh_msgs (s : State) : s.fresh.2.msgs = s.msgs := rfl
@[simp] theorem State.fresh_barrierMsgs (s : State) : s.fresh.2.barrierMsgs = s.barrierMsgs := rfl
@[simp] theorem State.fresh_inboxMsgs (s : State) : s.fresh.2.inboxMsgs = s.inboxMsgs := rfl
@[simp] theorem State.fresh_spawnMsgs (s : State) : s.fresh.2.spawnMsgs = s.spawnMsgs := rfl
@[simp] theorem State.fresh_migMsgs (s : State) : s.fresh.2.migMsgs = s.migMsgs := rfl
@[simp] theorem State.fresh_invals (s : State) : s.fresh.2.invals = s.invals := rfl
@[simp] theorem State.fresh_demands (s : State) : s.fresh.2.demands = s.demands := rfl
@[simp] theorem State.fresh_vds (s : State) : s.fresh.2.vds = s.vds := rfl
@[simp] theorem State.fresh_switches (s : State) : s.fresh.2.switches = s.switches := rfl
@[simp] theorem State.fresh_kilns (s : State) : s.fresh.2.kilns = s.kilns := rfl
@[simp] theorem State.fresh_entries (s : State) : s.fresh.2.entries = s.entries := rfl
@[simp] theorem State.fresh_grants (s : State) : s.fresh.2.grants = s.grants := rfl
@[simp] theorem State.fresh_yardWaits (s : State) : s.fresh.2.yardWaits = s.yardWaits := rfl
@[simp] theorem State.fresh_cmds (s : State) : s.fresh.2.cmds = s.cmds := rfl
@[simp] theorem State.fresh_colls (s : State) : s.fresh.2.colls = s.colls := rfl
@[simp] theorem State.fresh_rings (s : State) : s.fresh.2.rings = s.rings := rfl
@[simp] theorem State.fresh_writebacks (s : State) : s.fresh.2.writebacks = s.writebacks := rfl
@[simp] theorem State.fresh_locks (s : State) : s.fresh.2.locks = s.locks := rfl
@[simp] theorem State.fresh_islands (s : State) : s.fresh.2.islands = s.islands := rfl
@[simp] theorem State.fresh_lastStart (s : State) : s.fresh.2.lastStart = s.lastStart := rfl
@[simp] theorem State.fresh_powerSamples (s : State) : s.fresh.2.powerSamples = s.powerSamples := rfl
@[simp] theorem State.fresh_lastSample (s : State) : s.fresh.2.lastSample = s.lastSample := rfl
@[simp] theorem State.fresh_boot (s : State) : s.fresh.2.boot = s.boot := rfl
@[simp] theorem State.fresh_update (s : State) : s.fresh.2.update = s.update := rfl
@[simp] theorem State.fresh_healthLog (s : State) : s.fresh.2.healthLog = s.healthLog := rfl
@[simp] theorem State.fresh_tamper (s : State) : s.fresh.2.tamper = s.tamper := rfl
@[simp] theorem State.fresh_eccTimes (s : State) : s.fresh.2.eccTimes = s.eccTimes := rfl
@[simp] theorem State.fresh_spareRowsUsed (s : State) : s.fresh.2.spareRowsUsed = s.spareRowsUsed := rfl
@[simp] theorem State.fresh_rowRepair (s : State) : s.fresh.2.rowRepair = s.rowRepair := rfl
@[simp] theorem State.fresh_failingRows (s : State) : s.fresh.2.failingRows = s.failingRows := rfl
@[simp] theorem State.fresh_corrSram (s : State) : s.fresh.2.corrSram = s.corrSram := rfl
@[simp] theorem State.fresh_corrHbm (s : State) : s.fresh.2.corrHbm = s.corrHbm := rfl
@[simp] theorem State.fresh_sparedLines (s : State) : s.fresh.2.sparedLines = s.sparedLines := rfl
@[simp] theorem State.fresh_funs (s : State) : s.fresh.2.funs = s.funs := rfl
@[simp] theorem State.fresh_rules (s : State) : s.fresh.2.rules = s.rules := rfl
@[simp] theorem State.fresh_queues (s : State) : s.fresh.2.queues = s.queues := rfl
@[simp] theorem State.fresh_eth (s : State) : s.fresh.2.eth = s.eth := rfl
@[simp] theorem State.fresh_birtil (s : State) : s.fresh.2.birtil = s.birtil := rfl
@[simp] theorem State.fresh_mailbox (s : State) : s.fresh.2.mailbox = s.mailbox := rfl
@[simp] theorem State.fresh_reports (s : State) : s.fresh.2.reports = s.reports := rfl
@[simp] theorem State.fresh_debugReplies (s : State) : s.fresh.2.debugReplies = s.debugReplies := rfl
@[simp] theorem State.fresh_debugOps (s : State) : s.fresh.2.debugOps = s.debugOps := rfl
@[simp] theorem State.fresh_frames (s : State) : s.fresh.2.frames = s.frames := rfl
@[simp] theorem State.fresh_nextId (s : State) : s.fresh.2.nextId = s.nextId + 1 := rfl
@[simp] theorem State.fresh_fst (s : State) : s.fresh.1 = s.nextId := rfl
@[simp] theorem State.choose_agenda (s : State) : s.choose.2.agenda = s.agenda := rfl
@[simp] theorem State.choose_cycle (s : State) : s.choose.2.cycle = s.cycle := rfl
@[simp] theorem State.choose_devHalfNs (s : State) : s.choose.2.devHalfNs = s.devHalfNs := rfl
@[simp] theorem State.choose_slew (s : State) : s.choose.2.slew = s.slew := rfl
@[simp] theorem State.choose_cur (s : State) : s.choose.2.cur = s.cur := rfl
@[simp] theorem State.choose_hadTurn (s : State) : s.choose.2.hadTurn = s.hadTurn := rfl
@[simp] theorem State.choose_stations (s : State) : s.choose.2.stations = s.stations := rfl
@[simp] theorem State.choose_answers (s : State) : s.choose.2.answers = s.answers := rfl
@[simp] theorem State.choose_nextId (s : State) : s.choose.2.nextId = s.nextId := rfl
@[simp] theorem State.choose_slots (s : State) : s.choose.2.slots = s.slots := rfl
@[simp] theorem State.choose_saved (s : State) : s.choose.2.saved = s.saved := rfl
@[simp] theorem State.choose_held (s : State) : s.choose.2.held = s.held := rfl
@[simp] theorem State.choose_orphans (s : State) : s.choose.2.orphans = s.orphans := rfl
@[simp] theorem State.choose_handlerPlaces (s : State) : s.choose.2.handlerPlaces = s.handlerPlaces := rfl
@[simp] theorem State.choose_returning (s : State) : s.choose.2.returning = s.returning := rfl
@[simp] theorem State.choose_notices (s : State) : s.choose.2.notices = s.notices := rfl
@[simp] theorem State.choose_barriers (s : State) : s.choose.2.barriers = s.barriers := rfl
@[simp] theorem State.choose_barrierImages (s : State) : s.choose.2.barrierImages = s.barrierImages := rfl
@[simp] theorem State.choose_barrierPasses (s : State) : s.choose.2.barrierPasses = s.barrierPasses := rfl
@[simp] theorem State.choose_arrivals (s : State) : s.choose.2.arrivals = s.arrivals := rfl
@[simp] theorem State.choose_spills (s : State) : s.choose.2.spills = s.spills := rfl
@[simp] theorem State.choose_spillPos (s : State) : s.choose.2.spillPos = s.spillPos := rfl
@[simp] theorem State.choose_spawnq (s : State) : s.choose.2.spawnq = s.spawnq := rfl
@[simp] theorem State.choose_subbanks (s : State) : s.choose.2.subbanks = s.subbanks := rfl
@[simp] theorem State.choose_remapping (s : State) : s.choose.2.remapping = s.remapping := rfl
@[simp] theorem State.choose_icaches (s : State) : s.choose.2.icaches = s.icaches := rfl
@[simp] theorem State.choose_codeLog (s : State) : s.choose.2.codeLog = s.codeLog := rfl
@[simp] theorem State.choose_mem (s : State) : s.choose.2.mem = s.mem := rfl
@[simp] theorem State.choose_fe (s : State) : s.choose.2.fe = s.fe := rfl
@[simp] theorem State.choose_poison (s : State) : s.choose.2.poison = s.poison := rfl
@[simp] theorem State.choose_owner (s : State) : s.choose.2.owner = s.owner := rfl
@[simp] theorem State.choose_written (s : State) : s.choose.2.written = s.written := rfl
@[simp] theorem State.choose_minor (s : State) : s.choose.2.minor = s.minor := rfl
@[simp] theorem State.choose_major (s : State) : s.choose.2.major = s.major := rfl
@[simp] theorem State.choose_treeCtr (s : State) : s.choose.2.treeCtr = s.treeCtr := rfl
@[simp] theorem State.choose_rolling (s : State) : s.choose.2.rolling = s.rolling := rfl
@[simp] theorem State.choose_fenced (s : State) : s.choose.2.fenced = s.fenced := rfl
@[simp] theorem State.choose_badTag (s : State) : s.choose.2.badTag = s.badTag := rfl
@[simp] theorem State.choose_keys (s : State) : s.choose.2.keys = s.keys := rfl
@[simp] theorem State.choose_windows (s : State) : s.choose.2.windows = s.windows := rfl
@[simp] theorem State.choose_hashmask (s : State) : s.choose.2.hashmask = s.hashmask := rfl
@[simp] theorem State.choose_w62 (s : State) : s.choose.2.w62 = s.w62 := rfl
@[simp] theorem State.choose_failedStacks (s : State) : s.choose.2.failedStacks = s.failedStacks := rfl
@[simp] theorem State.choose_pch (s : State) : s.choose.2.pch = s.pch := rfl
@[simp] theorem State.choose_pchUse (s : State) : s.choose.2.pchUse = s.pchUse := rfl
@[simp] theorem State.choose_tlb (s : State) : s.choose.2.tlb = s.tlb := rfl
@[simp] theorem State.choose_erasing (s : State) : s.choose.2.erasing = s.erasing := rfl
@[simp] theorem State.choose_stallq (s : State) : s.choose.2.stallq = s.stallq := rfl
@[simp] theorem State.choose_migrated (s : State) : s.choose.2.migrated = s.migrated := rfl
@[simp] theorem State.choose_feq (s : State) : s.choose.2.feq = s.feq := rfl
@[simp] theorem State.choose_resvq (s : State) : s.choose.2.resvq = s.resvq := rfl
@[simp] theorem State.choose_msgs (s : State) : s.choose.2.msgs = s.msgs := rfl
@[simp] theorem State.choose_barrierMsgs (s : State) : s.choose.2.barrierMsgs = s.barrierMsgs := rfl
@[simp] theorem State.choose_inboxMsgs (s : State) : s.choose.2.inboxMsgs = s.inboxMsgs := rfl
@[simp] theorem State.choose_spawnMsgs (s : State) : s.choose.2.spawnMsgs = s.spawnMsgs := rfl
@[simp] theorem State.choose_migMsgs (s : State) : s.choose.2.migMsgs = s.migMsgs := rfl
@[simp] theorem State.choose_invals (s : State) : s.choose.2.invals = s.invals := rfl
@[simp] theorem State.choose_demands (s : State) : s.choose.2.demands = s.demands := rfl
@[simp] theorem State.choose_vds (s : State) : s.choose.2.vds = s.vds := rfl
@[simp] theorem State.choose_switches (s : State) : s.choose.2.switches = s.switches := rfl
@[simp] theorem State.choose_kilns (s : State) : s.choose.2.kilns = s.kilns := rfl
@[simp] theorem State.choose_entries (s : State) : s.choose.2.entries = s.entries := rfl
@[simp] theorem State.choose_grants (s : State) : s.choose.2.grants = s.grants := rfl
@[simp] theorem State.choose_yardWaits (s : State) : s.choose.2.yardWaits = s.yardWaits := rfl
@[simp] theorem State.choose_cmds (s : State) : s.choose.2.cmds = s.cmds := rfl
@[simp] theorem State.choose_colls (s : State) : s.choose.2.colls = s.colls := rfl
@[simp] theorem State.choose_rings (s : State) : s.choose.2.rings = s.rings := rfl
@[simp] theorem State.choose_writebacks (s : State) : s.choose.2.writebacks = s.writebacks := rfl
@[simp] theorem State.choose_locks (s : State) : s.choose.2.locks = s.locks := rfl
@[simp] theorem State.choose_islands (s : State) : s.choose.2.islands = s.islands := rfl
@[simp] theorem State.choose_lastStart (s : State) : s.choose.2.lastStart = s.lastStart := rfl
@[simp] theorem State.choose_powerSamples (s : State) : s.choose.2.powerSamples = s.powerSamples := rfl
@[simp] theorem State.choose_lastSample (s : State) : s.choose.2.lastSample = s.lastSample := rfl
@[simp] theorem State.choose_boot (s : State) : s.choose.2.boot = s.boot := rfl
@[simp] theorem State.choose_update (s : State) : s.choose.2.update = s.update := rfl
@[simp] theorem State.choose_healthLog (s : State) : s.choose.2.healthLog = s.healthLog := rfl
@[simp] theorem State.choose_tamper (s : State) : s.choose.2.tamper = s.tamper := rfl
@[simp] theorem State.choose_eccTimes (s : State) : s.choose.2.eccTimes = s.eccTimes := rfl
@[simp] theorem State.choose_spareRowsUsed (s : State) : s.choose.2.spareRowsUsed = s.spareRowsUsed := rfl
@[simp] theorem State.choose_rowRepair (s : State) : s.choose.2.rowRepair = s.rowRepair := rfl
@[simp] theorem State.choose_failingRows (s : State) : s.choose.2.failingRows = s.failingRows := rfl
@[simp] theorem State.choose_corrSram (s : State) : s.choose.2.corrSram = s.corrSram := rfl
@[simp] theorem State.choose_corrHbm (s : State) : s.choose.2.corrHbm = s.corrHbm := rfl
@[simp] theorem State.choose_sparedLines (s : State) : s.choose.2.sparedLines = s.sparedLines := rfl
@[simp] theorem State.choose_funs (s : State) : s.choose.2.funs = s.funs := rfl
@[simp] theorem State.choose_rules (s : State) : s.choose.2.rules = s.rules := rfl
@[simp] theorem State.choose_queues (s : State) : s.choose.2.queues = s.queues := rfl
@[simp] theorem State.choose_eth (s : State) : s.choose.2.eth = s.eth := rfl
@[simp] theorem State.choose_birtil (s : State) : s.choose.2.birtil = s.birtil := rfl
@[simp] theorem State.choose_mailbox (s : State) : s.choose.2.mailbox = s.mailbox := rfl
@[simp] theorem State.choose_reports (s : State) : s.choose.2.reports = s.reports := rfl
@[simp] theorem State.choose_debugReplies (s : State) : s.choose.2.debugReplies = s.debugReplies := rfl
@[simp] theorem State.choose_debugOps (s : State) : s.choose.2.debugOps = s.debugOps := rfl
@[simp] theorem State.choose_frames (s : State) : s.choose.2.frames = s.frames := rfl
@[simp] theorem State.choose_freeCtr (s : State) : s.choose.2.freeCtr = s.freeCtr + 1 := rfl
@[simp] theorem State.choose_fst (s : State) : s.choose.1 = Config.freeNat s.freeCtr := rfl

/-! ### What the updates write -/

@[simp] theorem State.setSlot_slots (s : State) (key : Nat) (k : Slot) : (s.setSlot key k).slots = KMap.set s.slots key k := rfl
@[simp] theorem State.modVd_vds (s : State) (vd : Nat) (f : VDev → VDev) : (s.modVd vd f).vds = KMap.modify s.vds vd f := rfl
theorem State.modSlot_eq (s : State) (key : Nat) (f : Slot → Slot) : s.modSlot key f = s.setSlot key (f (s.slotAt key)) := rfl
theorem State.modSub_subbanks (s : State) (b sb : Nat) (f : SubBank → SubBank) :
    (s.modSub b sb f).subbanks = KMap.set s.subbanks (subKey b sb) (f (s.subBank b sb)) := rfl

end Sys2Proof.Machine
end

