-- ==== Sys2Proof/Laws/Slot.lean ====
section
/-!
SUPPORT. Laws of slots: reading a slot that was written, the fields of a slot under each register write, what moving on leaves alone, and what completing an instruction, a trap and a return do to a slot.
-/
namespace Sys2Proof.Machine

/-! ### Slots of the machine -/

@[simp] theorem State.slotAt_setSlot_self (s : State) (key : Nat) (k : Slot) : (s.setSlot key k).slotAt key = k := by
  simp [State.slotAt]
theorem State.slotAt_setSlot_ne (s : State) {key x : Nat} (k : Slot) (h : x ≠ key) :
    (s.setSlot key k).slotAt x = s.slotAt x := by
  simp [State.slotAt, KMap.getD_set_ne _ _ _ h]
@[simp] theorem State.slotAt_modSlot_self (s : State) (key : Nat) (f : Slot → Slot) :
    (s.modSlot key f).slotAt key = f (s.slotAt key) := by simp [State.modSlot]
theorem State.slotAt_modSlot_ne (s : State) {key x : Nat} (f : Slot → Slot) (h : x ≠ key) :
    (s.modSlot key f).slotAt x = s.slotAt x := State.slotAt_setSlot_ne s _ h
@[simp] theorem State.slotAt_modVd (s : State) (vd key : Nat) (f : VDev → VDev) :
    (s.modVd vd f).slotAt key = s.slotAt key := rfl
@[simp] theorem State.me_setSlot (s : State) (k : Slot) : (s.setSlot s.cur k).me = k := by simp [State.me]
@[simp] theorem State.vd?_setSlot (s : State) (key vd : Nat) (k : Slot) : (s.setSlot key k).vd? vd = s.vd? vd := rfl
theorem State.vd?_modVd (s : State) (x vd : Nat) (f : VDev → VDev) :
    (s.modVd x f).vd? vd = if vd = x then (s.vd? vd).map f else s.vd? vd := KMap.find?_modify s.vds x vd f

/-! ### Registers of a slot -/

@[simp] theorem Slot.getG_setG_self (k : Slot) (r : GReg) (v : Word) : (k.setG r v).getG r = v := by
  simp [Slot.getG, Slot.setG]
theorem Slot.getG_setG_ne (k : Slot) {r x : GReg} (v : Word) (h : x ≠ r) : (k.setG r v).getG x = k.getG x := by
  have : (r : Nat) ≠ (x : Nat) := fun e => h (Fin.ext e.symm)
  simp [Slot.getG, Slot.setG, this]
@[simp] theorem Slot.setG_pc (k : Slot) (r : GReg) (v : Word) : (k.setG r v).pc = k.pc := rfl
@[simp] theorem Slot.setG_frame (k : Slot) (r : GReg) (v : Word) : (k.setG r v).frame = k.frame := rfl
@[simp] theorem Slot.setG_level (k : Slot) (r : GReg) (v : Word) : (k.setG r v).level = k.level := rfl
@[simp] theorem Slot.setG_w (k : Slot) (r : GReg) (v : Word) : (k.setG r v).w = k.w := rfl
@[simp] theorem Slot.setG_z (k : Slot) (r : GReg) (v : Word) : (k.setG r v).z = k.z := rfl
@[simp] theorem Slot.setW_g (k : Slot) (r : WReg) (v : Line) : (k.setW r v).g = k.g := rfl
@[simp] theorem Slot.setW_z (k : Slot) (r : WReg) (v : Line) : (k.setW r v).z = k.z := rfl
@[simp] theorem Slot.setW_pc (k : Slot) (r : WReg) (v : Line) : (k.setW r v).pc = k.pc := rfl
@[simp] theorem Slot.setW_frame (k : Slot) (r : WReg) (v : Line) : (k.setW r v).frame = k.frame := rfl
@[simp] theorem Slot.setZ_g (k : Slot) (r : ZReg) (v : Line) : (k.setZ r v).g = k.g := rfl
@[simp] theorem Slot.setZ_w (k : Slot) (r : ZReg) (v : Line) : (k.setZ r v).w = k.w := rfl
@[simp] theorem Slot.setZ_pc (k : Slot) (r : ZReg) (v : Line) : (k.setZ r v).pc = k.pc := rfl
@[simp] theorem Slot.setZ_frame (k : Slot) (r : ZReg) (v : Line) : (k.setZ r v).frame = k.frame := rfl
/-- A written w register reads back. -/
@[simp] theorem Slot.setW_read_self (k : Slot) (r : WReg) (v : Line) : (k.setW r v).w[r] = v := by simp [Slot.setW]
/-- A written z register reads back. -/
@[simp] theorem Slot.setZ_read_self (k : Slot) (r : ZReg) (v : Line) : (k.setZ r v).z[r] = v := by simp [Slot.setZ]

/-! ### Moving on -/

@[simp] theorem Slot.advance_g (k : Slot) : k.advance.g = k.g := by
  unfold Slot.advance; split <;> (try split) <;> (try split) <;> rfl
@[simp] theorem Slot.advance_w (k : Slot) : k.advance.w = k.w := by
  unfold Slot.advance; split <;> (try split) <;> (try split) <;> rfl
@[simp] theorem Slot.advance_z (k : Slot) : k.advance.z = k.z := by
  unfold Slot.advance; split <;> (try split) <;> (try split) <;> rfl
@[simp] theorem Slot.advance_level (k : Slot) : k.advance.level = k.level := by
  unfold Slot.advance; split <;> (try split) <;> (try split) <;> rfl
@[simp] theorem Slot.advance_sb (k : Slot) : k.advance.sb = k.sb := by
  unfold Slot.advance; split <;> (try split) <;> (try split) <;> rfl
/-- Moving on outside a frame: to the next word. -/
theorem Slot.advance_plain {k : Slot} (h : k.frame.running = false) : k.advance = { k with pc := k.pc + 4 } := by
  simp [Slot.advance, h]
@[simp] theorem Slot.getG_advance (k : Slot) (r : GReg) : k.advance.getG r = k.getG r := by simp [Slot.getG]

/-! ### Completion, traps and returns -/

/-- Completing an instruction without a step in sight replaces the slot and nothing else. -/
theorem State.completeAt_plain {s : State} {key : Nat} (k' : Slot) (h : (s.slotAt key).stepDue = false) :
    s.completeAt key k' =
      s.setSlot key { k' with mode := .ready, req := none, descr := none, haltAsked := k'.haltAsked || k'.debugStep } := by
  unfold Slot.stepDue at h
  simp [State.completeAt, h]
/-- Completing an instruction with single step on takes the single-step trap next (R149). -/
theorem State.completeAt_step {s : State} {key : Nat} (k' : Slot) (h : (s.slotAt key).stepDue = true) :
    s.completeAt key k' =
      (s.setSlot key { k' with mode := .ready, req := none, descr := none, haltAsked := k'.haltAsked || k'.debugStep }).trapAt key
        .singleStep (s.slotAt key).pc := by
  unfold Slot.stepDue at h
  simp [State.completeAt, h]
/-- A trap with a handler set writes the slot alone. -/
theorem State.trapCodeAt_handled {s : State} {key code : Nat} {xval : Word} {v : VDev}
    (hv : s.vd? (s.slotAt key).vd = some v) (hx : v.xvec ≠ 0) :
    s.trapCodeAt key code xval = s.setSlot key ((s.slotAt key).enter code xval v.xvec) := by
  simp only [State.trapCodeAt, hv, if_neg hx]
/-- A trap with XVEC zero delivers the context. -/
theorem State.trapCodeAt_unhandled {s : State} {key code : Nat} {xval : Word} {v : VDev}
    (hv : s.vd? (s.slotAt key).vd = some v) (hx : v.xvec = 0) :
    s.trapCodeAt key code xval = s.deliver key code xval := by
  simp [State.trapCodeAt, hv, hx]
/-- Everything that completing an instruction does: the slot is replaced, or a single step is taken. -/
theorem State.retire_cases {s t : State} {f : Slot → Slot} (h : s.retire f = .next t) :
    t = s.completeAt s.cur (f s.me).advance := by
  unfold State.retire at h; injection h with h; exact h.symm

end Sys2Proof.Machine
end

