-- ==== Sys2Proof/Laws/Access.lean ====
section
/-!
SUPPORT. Laws of reaching memory: what a store at a home writes and leaves, that every write keeps the canonical form, and how an address of the own bank is reached.
-/
namespace Sys2Proof.Machine

/-! ### Bytes of a number -/

theorem leBytes_length (n v : Nat) : (leBytes n v).length = n := by
  induction n generalizing v with
  | zero => rfl
  | succ n ih => simp [leBytes, ih]
theorem leNat_leBytes (n v : Nat) : leNat (leBytes n v) = v % 256 ^ n := by
  induction n generalizing v with
  | zero => simp [leBytes, leNat, Nat.mod_one]
  | succ n ih =>
    simp only [leBytes, leNat, ih, BitVec.toNat_ofNat]
    rw [show 256 ^ (n + 1) = 256 * 256 ^ n by ring, Nat.mod_mul]
theorem leNat_lt (bs : List Byte) : leNat bs < 256 ^ bs.length := by
  induction bs with
  | nil => simp [leNat]
  | cons b r ih =>
    have := b.isLt
    simp only [leNat, List.length_cons, Nat.pow_succ]
    omega
theorem Mem.readBytes_length (m : List Host.Cell) (a n : Nat) : (Mem.readBytes m a n).length = n := by
  induction n generalizing a with
  | zero => rfl
  | succ n ih => simp [Mem.readBytes, ih]

/-! ### Updates that leave memory alone -/

@[simp] theorem State.touch_mem (s : State) (p : Place) : (s.touch p).mem = s.mem := by cases p <;> rfl
@[simp] theorem State.touch_slots (s : State) (p : Place) : (s.touch p).slots = s.slots := by cases p <;> rfl
@[simp] theorem State.touch_cur (s : State) (p : Place) : (s.touch p).cur = s.cur := by cases p <;> rfl
@[simp] theorem State.touch_vds (s : State) (p : Place) : (s.touch p).vds = s.vds := by cases p <;> rfl
@[simp] theorem State.touch_msgs (s : State) (p : Place) : (s.touch p).msgs = s.msgs := by cases p <;> rfl
@[simp] theorem State.touch_fe (s : State) (p : Place) : (s.touch p).fe = s.fe := by cases p <;> rfl
@[simp] theorem State.touch_feq (s : State) (p : Place) : (s.touch p).feq = s.feq := by cases p <;> rfl
@[simp] theorem State.touch_resvq (s : State) (p : Place) : (s.touch p).resvq = s.resvq := by cases p <;> rfl
@[simp] theorem State.touch_me (s : State) (p : Place) : (s.touch p).me = s.me := by cases p <;> rfl
@[simp] theorem State.me_setFe (s : State) (p : Place) (b : Bool) : (s.setFe p b).me = s.me := rfl

/-! ### Writing at a home -/

/-- Writing SRAM changes memory by the bytes written, and slots, devices and words' bits not at all. -/
theorem State.poke_sram (s : State) (kid b off : Nat) (bs : List Byte) :
    (s.poke kid (.sram b off) bs).mem = Mem.writeBytes s.mem (bankAddr b off) bs ∧
    (s.poke kid (.sram b off) bs).slots = s.slots ∧ (s.poke kid (.sram b off) bs).cur = s.cur ∧
    (s.poke kid (.sram b off) bs).vds = s.vds ∧ (s.poke kid (.sram b off) bs).fe = s.fe ∧
    (s.poke kid (.sram b off) bs).feq = s.feq ∧ (s.poke kid (.sram b off) bs).resvq = s.resvq ∧
    (s.poke kid (.sram b off) bs).msgs = s.msgs ∧ (s.poke kid (.sram b off) bs).subbanks = s.subbanks :=
  ⟨rfl, rfl, rfl, rfl, rfl, rfl, rfl, rfl, rfl⟩
/-- Uncovering a granule keeps memory in form. -/
theorem State.wf_uncover {s : State} (h : Memory.wf s.mem = true) (kid pa : Nat) : Memory.wf (s.uncover kid pa).mem = true := by
  unfold State.uncover
  simp only
  split <;> split
  · exact h
  · exact Memory.wf_blankRange h _ _
  · exact h
  · exact Memory.wf_blankRange h _ _
theorem State.count_mem (s : State) (pa : Nat) : (s.count pa).mem = s.mem := by
  unfold State.count
  simp only
  split <;> rfl
theorem State.logCode_mem (s : State) (p : Place) (n : Nat) : (s.logCode p n).mem = s.mem := by cases p <;> rfl
/-- Opening a granule for a write keeps memory in form. -/
theorem State.wf_openGranule {s : State} (h : Memory.wf s.mem = true) (kid g : Nat) :
    Memory.wf (s.openGranule kid g).mem = true := by
  unfold State.openGranule
  split
  · rw [State.count_mem]; exact State.wf_uncover h kid g
  · exact h
/-- Opening granules for a write keeps memory in form. -/
theorem State.wf_openGranules (kid : Nat) (gs : List Nat) : ∀ {s : State}, Memory.wf s.mem = true →
    Memory.wf (gs.foldl (fun (s : State) g => s.openGranule kid g) s).mem = true := by
  induction gs with
  | nil => intro s h; exact h
  | cons g r ih => intro s h; exact ih (State.wf_openGranule h kid g)
/-- Opening the granules of a place keeps memory in form. -/
theorem State.wf_opened {s : State} (h : Memory.wf s.mem = true) (kid : Nat) (p : Place) (n : Nat) :
    Memory.wf (s.opened kid p n).mem = true := by
  cases p with
  | hbm pa => exact State.wf_openGranules kid _ h
  | sram _ _ => exact h
  | host _ => exact h
  | peer _ _ => exact h
/-- Laying bytes down changes memory by those bytes. -/
theorem State.lay_mem (s : State) (p : Place) (bs : List Byte) : (s.lay p bs).mem = Mem.writeBytes s.mem p.key bs := rfl
/-- Writing at any home keeps memory in form. -/
theorem State.wf_poke {s : State} (h : Memory.wf s.mem = true) (kid : Nat) (p : Place) (bs : List Byte) :
    Memory.wf (s.poke kid p bs).mem = true := by
  rw [State.poke, State.lay_mem, State.logCode_mem]
  exact Memory.wf_writeBytes _ _ (State.wf_opened h kid p bs.length)

/-! ### The own bank -/

theorem bankOf_own {brick ea : Nat} (h : ea < 2 ^ 20) : bankOf brick ea = some (brick, ea) := by unfold bankOf; rw [if_pos h]
theorem State.resolve_own {s : State} {brick vd : Nat} {space : BitVec 12} {l : Level} {ea : Word} {k : Access}
    (h : ea.toNat < 2 ^ 20) : s.resolve brick vd space l ea k = .ok (.sram brick ea.toNat) 0 := by
  simp [State.resolve, bankOf_own h]
/-- An address of the own bank needs no walk. -/
theorem State.walk_own {s : State} {a : Agent} {ea : Word} (h : ea.toNat < 2 ^ 20) : s.walk a ea = (s, none) := by
  simp [State.walk, State.noWalk, bankOf_own h]
/-- An aligned address of the own bank is reached there. -/
theorem State.reach_own {s : State} {ea : Word} {n : Nat} {k : Access} {go : State → Place → Nat → Out} (h : ea.toNat < 2 ^ 20)
    (ha : ea.toNat % n = 0) : s.reach ea n k go = go s (.sram s.brick ea.toNat) 0 := by
  unfold State.reach addrFault State.resolved State.walking State.translated
  simp [bankOf_own h, ha, State.resolve_own h, State.walk_own h]
/-- Ready bytes of the own bank give no fault at their home. -/
theorem State.homeFault_own {s : State} {off n : Nat} (h : s.ownReady off n) (win : Nat) (size : Nat) (wr whole : Bool) :
    s.homeFault s.me.vd win (.sram s.brick off) size wr whole = none := by
  unfold State.homeFault
  have h5 := h.2.2.2.2
  simp only [h.2.1, h5]
  simp
theorem State.atHand_own {s : State} {off n : Nat} (h : s.ownReady off n) : s.atHand (.sram s.brick off) = true := by
  simp [State.atHand, State.ownBank, h.2.2.1]

end Sys2Proof.Machine
end

