-- ==== Sys2Proof/Laws/Turn.lean ====
section
/-!
SUPPORT. What the end of a step does: which slots it readies, and that readying them ends no other slot's wait.
-/
namespace Sys2Proof.Machine

/-- A slot after the check of its wait differs in its mode alone. -/
theorem State.checked_eq (s : State) (key : Nat) (k : Slot) :
    s.checked key k = k ∨ s.checked key k = { k with mode := .ready } := by
  unfold State.checked
  split
  · split
    · exact .inr rfl
    · exact .inl rfl
  all_goals exact .inl rfl
theorem State.checked_sb (s : State) (key : Nat) (k : Slot) : (s.checked key k).sb = k.sb := by
  rcases s.checked_eq key k with h | h <;> rw [h]
theorem State.checked_ctx (s : State) (key : Nat) (k : Slot) : (s.checked key k).ctx = k.ctx := by
  rcases s.checked_eq key k with h | h <;> rw [h]
theorem State.checked_vd (s : State) (key : Nat) (k : Slot) : (s.checked key k).vd = k.vd := by
  rcases s.checked_eq key k with h | h <;> rw [h]
theorem State.checked_region (s : State) (key : Nat) (k : Slot) : (s.checked key k).region = k.region := by
  rcases s.checked_eq key k with h | h <;> rw [h]
/-- The check of a slot: one whose condition holds becomes READY, any other stays. -/
theorem State.checked_cases (s : State) (key : Nat) (k : Slot) :
    (∃ c, k.mode = .parked (.cond c) ∧ s.condOver key k c = true ∧ s.checked key k = { k with mode := .ready }) ∨
    (s.checked key k = k ∧ ∀ c, k.mode = .parked (.cond c) → s.condOver key k c = false) := by
  unfold State.checked
  cases hm : k.mode with
  | parked w =>
    cases w with
    | cond c =>
      cases hc : s.condOver key k c with
      | true => exact .inl ⟨c, rfl, hc, by simp [hc]⟩
      | false => exact .inr ⟨by simp [hc], fun d hd => by injection hd with hd; injection hd with hd; rw [← hd, hc]⟩
    | _ => exact .inr ⟨rfl, fun d hd => by injection hd with hd; cases hd⟩
  | _ => exact .inr ⟨rfl, fun d hd => by cases hd⟩
/-- A slot that still waits was waiting, and its condition does not hold. -/
theorem State.checked_cond {s : State} {key : Nat} {k : Slot} {c : Cond}
    (h : (s.checked key k).mode = .parked (.cond c)) : s.checked key k = k ∧ s.condOver key k c = false := by
  rcases s.checked_cases key k with ⟨d, _, _, e⟩ | ⟨e, hc⟩
  · rw [e] at h; cases h
  · exact ⟨e, hc c (by rw [e] at h; exact h)⟩

/-- A slot of the machine after the check. -/
theorem State.slotAt_readyAll (s : State) (key : Nat) : s.readyAll.slotAt key = s.checked key (s.slotAt key) := by
  unfold State.readyAll State.slotAt KMap.getD
  simp only
  rw [KMap.find?_mapVals s.slots (fun key k => s.checked key k) key]
  cases KMap.find? s.slots key with
  | none => rfl
  | some k => rfl
/-- A context stands in the slot where it stood. -/
theorem State.keyOf_readyAll (s : State) (c : Nat) : s.readyAll.keyOf c = s.keyOf c := by
  unfold State.keyOf State.readyAll
  simp only
  induction s.slots with
  | nil => rfl
  | cons hd tl ih =>
    simp only [List.map_cons, List.find?_cons, State.checked_ctx]
    split
    · rfl
    · exact ih
/-- The same contexts are found, where they were. -/
theorem State.ctxOf_readyAll (s : State) (c : Nat) :
    s.readyAll.ctxOf c = s.ctxOf c ∨
      ∃ key k, s.keyOf c = some key ∧ s.ctxOf c = some k ∧ s.readyAll.ctxOf c = some (s.checked key k) := by
  unfold State.ctxOf State.keyOf
  have harr : s.readyAll.arriving = s.arriving := rfl
  have hslots : s.readyAll.slots = s.slots.map (fun kv => (kv.1, s.checked kv.1 kv.2)) := rfl
  have hsaved : s.readyAll.saved = s.saved := rfl
  have hheld : s.readyAll.held = s.held := rfl
  have horph : s.readyAll.orphans = s.orphans := rfl
  rw [harr, hslots, hsaved, hheld, horph]
  have : ∀ (l r : KMap Slot),
      (List.find? (fun kv : Nat × Slot => decide (kv.2.ctx = c ∧ c ≠ 0)) (l.map (fun kv => (kv.1, s.checked kv.1 kv.2)) ++ r)).map (·.2)
        = (List.find? (fun kv : Nat × Slot => decide (kv.2.ctx = c ∧ c ≠ 0)) (l ++ r)).map (·.2) ∨
      ∃ key k, (List.find? (fun kv : Nat × Slot => decide (kv.2.ctx = c ∧ c ≠ 0)) l).map (·.1) = some key ∧
        (List.find? (fun kv : Nat × Slot => decide (kv.2.ctx = c ∧ c ≠ 0)) (l ++ r)).map (·.2) = some k ∧
        (List.find? (fun kv : Nat × Slot => decide (kv.2.ctx = c ∧ c ≠ 0)) (l.map (fun kv => (kv.1, s.checked kv.1 kv.2)) ++ r)).map (·.2)
          = some (s.checked key k) := by
    intro l r
    induction l with
    | nil => exact .inl rfl
    | cons hd tl ih =>
      simp only [List.map_cons, List.cons_append, List.find?_cons, State.checked_ctx]
      split
      · exact .inr ⟨hd.1, hd.2, rfl, rfl, rfl⟩
      · exact ih
  simpa only [List.append_assoc] using this s.slots (s.saved ++ (s.held ++ (s.orphans ++ s.arriving)))
/-- A waiting hire holds back others after the check as before: one that may go on held them back too. -/
theorem State.holdsBack_readyAll (s : State) (w : Nat × Nat × Nat × Bool) : s.readyAll.holdsBack w = s.holdsBack w := by
  unfold State.holdsBack
  rw [State.keyOf_readyAll]
  rcases s.ctxOf_readyAll w.1 with h | ⟨key, k, hk, h, h'⟩
  · rw [h]; rfl
  · rw [h, h', hk]
    simp only
    rcases s.checked_cases key k with ⟨c, hm, hover, e⟩ | ⟨e, _⟩
    · rw [e, hm]
      cases c with
      | yard b lane n share =>
        simp only [State.condOver, State.yardFree, Bool.and_eq_true] at hover
        simp [hover.1]
      | _ => rfl
    · rw [e]; rfl
/-- The waits that began earlier are the same after the check. -/
theorem State.earlierWaits_readyAll (s : State) (k : Slot) (die : Nat) :
    s.readyAll.earlierWaits k die = s.earlierWaits k die := by
  unfold State.earlierWaits
  apply List.filter_congr
  intro w _
  rw [State.holdsBack_readyAll]
  rcases s.ctxOf_readyAll w.1 with h | ⟨key, x, _, h, h'⟩
  · rw [h]
  · rw [h, h']; simp only [State.checked_vd]
theorem State.inWay_readyAll (s : State) (region : Nat) (w : Nat × Nat × Nat × Bool) :
    s.readyAll.inWay region w = s.inWay region w := by
  unfold State.inWay
  rcases s.ctxOf_readyAll w.1 with h | ⟨key, x, _, h, h'⟩
  · rw [h]; rfl
  · rw [h, h']; simp only [State.checked_region, State.checked_vd]; rfl
theorem State.mustWait_readyAll (s : State) (k : Slot) (die n : Nat) : s.readyAll.mustWait k die n = s.mustWait k die n := by
  unfold State.mustWait
  rw [State.earlierWaits_readyAll, funext (s.inWay_readyAll k.region)]
  rfl
/-- Readying slots ends no other slot's wait. -/
theorem State.condOver_readyAll (s : State) (key : Nat) (k : Slot) (c : Cond) :
    s.readyAll.condOver key k c = s.condOver key k c := by
  cases c with
  | yard b lane n share =>
    simp only [State.condOver, State.yardFree, State.mustWait_readyAll]; rfl
  | _ => rfl

end Sys2Proof.Machine
end

