-- ==== Sys2Proof/Laws/Wide.lean ====
section
/-!
SUPPORT. Laws of wide instructions: a lane of a line made of lanes, and what an instruction does whose registers are valid and whose ports are unbound.
-/
namespace Sys2Proof.Machine

/-- Lanes summed below a bound stay below it. -/
theorem lanesSum_lt (e : Nat) (f : Nat → Nat) (n : Nat) : lanesSum e f n < 2 ^ (e * n) := by
  induction n with
  | zero => simp [lanesSum]
  | succ n ih =>
    simp only [lanesSum]
    have h1 : f n % 2 ^ e < 2 ^ e := Nat.mod_lt _ (Nat.two_pow_pos e)
    have h2 : f n % 2 ^ e * 2 ^ (e * n) ≤ (2 ^ e - 1) * 2 ^ (e * n) := Nat.mul_le_mul_right _ (by omega)
    have h3 : (2 ^ e - 1) * 2 ^ (e * n) + 2 ^ (e * n) = 2 ^ (e * (n + 1)) := by
      have : (2 ^ e - 1) * 2 ^ (e * n) + 2 ^ (e * n) = (2 ^ e - 1 + 1) * 2 ^ (e * n) := by ring
      rw [this, Nat.sub_add_cancel (Nat.one_le_two_pow), ← pow_add]
      congr 1; ring
    omega
/-- A lane of summed lanes. -/
theorem lanesSum_lane (e : Nat) (f : Nat → Nat) : ∀ n i : Nat, i < n → lanesSum e f n / 2 ^ (e * i) % 2 ^ e = f i % 2 ^ e := by
  intro n
  induction n with
  | zero => intro i h; omega
  | succ n ih =>
    intro i h
    simp only [lanesSum]
    by_cases hi : i = n
    · subst hi
      rw [Nat.add_mul_div_right _ _ (Nat.two_pow_pos _), Nat.div_eq_of_lt (lanesSum_lt e f i), Nat.zero_add, Nat.mod_mod]
    · have hlt : i < n := by omega
      have hsplit : e * n = e * i + (e + e * (n - i - 1)) := by
        obtain ⟨k, rfl⟩ := Nat.exists_eq_add_of_lt hlt
        have : i + k + 1 - i - 1 = k := by omega
        rw [this]; ring
      rw [hsplit, pow_add, ← Nat.mul_assoc, Nat.mul_right_comm, Nat.add_mul_div_right _ _ (Nat.two_pow_pos _), pow_add,
        ← Nat.mul_assoc, Nat.mul_right_comm, Nat.add_mul_mod_self_right]
      exact ih i hlt
/-- A lane of a line made of lanes that fit it. -/
theorem lane_ofLanes (e n : Nat) (f : Nat → Nat) {i : Nat} (hi : i < n) (hn : e * n ≤ 512) :
    lane (ofLanes e n f) e i = f i % 2 ^ e := by
  unfold lane ofLanes
  rw [BitVec.toNat_ofNat, Nat.mod_eq_of_lt (Nat.lt_of_lt_of_le (lanesSum_lt e f n) (Nat.pow_le_pow_right (by norm_num) hn))]
  exact lanesSum_lane e f n i hi
/-- A lane of a line whose every lane a function gives. -/
theorem lane_allLanes (e : Nat) (f : Nat → Nat) {i : Nat} (hi : i < 512 / e) : lane (allLanes e f) e i = f i % 2 ^ e :=
  lane_ofLanes e _ f hi (Nat.mul_div_le 512 e)
/-- A lane is below its bound. -/
theorem lane_lt (l : Line) (e i : Nat) : lane l e i < 2 ^ e := Nat.mod_lt _ (Nat.two_pow_pos e)

/-- An unbound slot pops nothing. -/
theorem Slot.popsOf_unbound {k : Slot} (h0 : k.ports[0].bound = false) (h1 : k.ports[1].bound = false) (srcs : List WReg) :
    k.popsOf srcs = [] := by
  simp [Slot.popsOf, h0, h1]
/-- An unbound register is no port. -/
theorem Slot.portOf_unbound {k : Slot} (h0 : k.ports[0].bound = false) (h1 : k.ports[1].bound = false)
    (h2 : k.ports[2].bound = false) (r : WReg) : k.portOf r = none := by
  simp [Slot.portOf, h0, h1, h2]
/-- With unbound ports and valid sources a wide instruction gives its destination the value and completes. -/
theorem State.wideRun_plain {s : State} {srcs : List WReg} (d : Option WReg) (f : (WReg → Line) → Line) (fin : Line → Slot → Slot)
    (h0 : s.me.ports[0].bound = false) (h1 : s.me.ports[1].bound = false) (h2 : s.me.ports[2].bound = false)
    (hv : ∀ r ∈ srcs, s.me.wValid r = true) :
    s.wideRun srcs d f fin = s.retire (fin (f fun r => s.me.w[r])) := by
  have hs : s.me.staleW srcs = none := by
    unfold Slot.staleW
    rw [List.find?_eq_none]
    intro r hr
    simp [hv r hr]
  have hl : s.me.illegalW srcs d = none := by
    unfold Slot.illegalW
    have : (srcs.find? fun (r : WReg) => decide (r = 7 ∧ s.me.ports[2].bound)) = none := by
      rw [List.find?_eq_none]; intro r _; simp [h2]
    rw [this]
    cases d with
    | none => rfl
    | some r => simp [Slot.portOf_unbound h0 h1 h2]
  have hp : s.me.pushes d = false := by simp [Slot.pushes, h2]
  have he : s.me.streamEnd srcs d = none := by simp [Slot.streamEnd, Slot.popsOf_unbound h0 h1, hp]
  unfold State.wideRun State.wChecks State.wLegal State.notAtEnd State.pushGuard
  simp only [hs, hl, he, hp, Slot.popsOf_unbound h0 h1, State.popping, State.reachPops, State.popAll]
  have : srcValue s.me [] = fun r => s.me.w[r] := rfl
  simp [this]

end Sys2Proof.Machine
end

