-- ==== Sys2Proof/Tests/Slice0.lean ====
section
/-!
SUPPORT. Tests on small states: each row of the opcode table decodes to its instruction, each check of WellFormed refuses a term, and every hypothesis of every obligation is met by a state, most of them with the value that the spec gives for the result.
-/
set_option Elab.async false
open Sys2Proof Sys2Proof.Machine

/-! ### Helpers -/

/-- The demonstration device with its first thread in slot 0 of brick 0. -/
def demo : State := State.reset.withDemo
/-- The same with its slot changed. -/
def demoSlot (f : Slot → Slot) : State := demo.modSlot 0 f
/-- A slot with values in its g registers. -/
def gs (l : List Word) (k : Slot) : Slot := { k with g := Vector.ofFn fun (i : Fin 16) => l.getD i.val 0 }
/-- A state whose agenda holds a turn, at the point where the turn begins. -/
def begun (s : State) : State := { ({ s with agenda := s.agenda.tail }.reachTurn 0 0) with cur := 0 }
/-- The outcome is a next state of which a check holds. -/
def okAnd (o : Out) (p : State → Bool) : Bool :=
  match o with
  | .next t => p t
  | .fault _ | .refused _ => false
/-- A fetch answers a word. -/
def gives (f : Fetched) (w : IWord) : Bool :=
  match f with
  | .word v _ => decide (v = w)
  | .fault _ | .demand _ | .fatal => false
/-- Where a resolved address is served. -/
def isAt (r : TResult) (p : Place) (win : Nat) : Bool :=
  match r with
  | .ok q w => decide (q = p ∧ w = win)
  | .fault _ | .demand _ | .fatal => false
/-- A line whose words are given. -/
def words (l : List Word) : Line := l.zipIdx.foldl (fun v x => setWord v x.2 x.1) 0

/-! ### Decoding: one word of every row, written from the encodings of the spec -/

theorem test_decode_scalar_1 :
    decode 0x032C6000#32 = .ok (.add 9 6 3) ∧
    decode 0x032C6001#32 = .ok (.sub 9 6 3) ∧
    decode 0x032C6002#32 = .ok (.and 9 6 3) ∧
    decode 0x032C6003#32 = .ok (.or 9 6 3) ∧
    decode 0x032C6004#32 = .ok (.xor 9 6 3) ∧
    decode 0x032C6005#32 = .ok (.andn 9 6 3) ∧
    decode 0x032C6006#32 = .ok (.shl 9 6 3) ∧
    decode 0x032C6007#32 = .ok (.shr 9 6 3) ∧
    decode 0x032C6008#32 = .ok (.sra 9 6 3) ∧
    decode 0x032C6009#32 = .ok (.rol 9 6 3) ∧
    decode 0x032C6010#32 = .ok (.mul 9 6 3) ∧
    decode 0x032C6011#32 = .ok (.mulhI64 9 6 3) ∧
    decode 0x032C6012#32 = .ok (.mulhN64 9 6 3) ∧
    decode 0x032C6013#32 = .ok (.divI64 9 6 3) ∧
    decode 0x032C6014#32 = .ok (.divN64 9 6 3) ∧
    decode 0x032C6015#32 = .ok (.remI64 9 6 3) ∧
    decode 0x032C6016#32 = .ok (.remN64 9 6 3) ∧
    decode 0x032C6020#32 = .ok (.minI64 9 6 3) ∧
    decode 0x032C6021#32 = .ok (.minN64 9 6 3) ∧
    decode 0x032C6022#32 = .ok (.maxI64 9 6 3) ∧
    decode 0x032C6023#32 = .ok (.maxN64 9 6 3) ∧
    decode 0x032C0030#32 = .ok (.clz 9 6) ∧
    decode 0x032C0031#32 = .ok (.ctz 9 6) ∧
    decode 0x032C0032#32 = .ok (.popc 9 6) := by decide +kernel
theorem test_decode_scalar_2 :
    decode 0x032C7840#32 = .ok (.sel 9 6 3 12) ∧
    decode 0x032C0041#32 = .ok (.mov 9 6) ∧
    decode 0x032C6050#32 = .ok (.ceq 9 6 3) ∧
    decode 0x032C6051#32 = .ok (.cne 9 6 3) ∧
    decode 0x032C6052#32 = .ok (.cltI64 9 6 3) ∧
    decode 0x032C6053#32 = .ok (.cltN64 9 6 3) ∧
    decode 0x032C6054#32 = .ok (.cleI64 9 6 3) ∧
    decode 0x032C6055#32 = .ok (.cleN64 9 6 3) := by decide +kernel
theorem test_decode_immediates :
    decode 0x112DA5A5#32 = .ok (.addImm 9 6 0x1A5A5) ∧
    decode 0x132DA5A5#32 = .ok (.andImm 9 6 0x1A5A5) ∧
    decode 0x152DA5A5#32 = .ok (.orImm 9 6 0x1A5A5) ∧
    decode 0x172DA5A5#32 = .ok (.xorImm 9 6 0x1A5A5) ∧
    decode 0x192C0025#32 = .ok (.shlImm 9 6 0x25) ∧
    decode 0x1B2C0025#32 = .ok (.shrImm 9 6 0x25) ∧
    decode 0x1D2C0025#32 = .ok (.sraImm 9 6 0x25) ∧
    decode 0x1F24A5C3#32 = .ok (.lui 9 0x2 0xA5C3) ∧
    decode 0x2121A5A5#32 = .ok (.movImm 9 0x1A5A5) ∧
    decode 0x232C056A#32 = .ok (.extN64 9 6 0x15 0x2A) ∧
    decode 0x252C056A#32 = .ok (.extI64 9 6 0x15 0x2A) ∧
    decode 0x272C056A#32 = .ok (.ins 9 6 0x15 0x2A) := by decide +kernel
theorem test_decode_control :
    decode 0x2F769680#32 = .ok (.rpt 0xB 0x5 0xA5A) ∧
    decode 0x312DA5A5#32 = .ok (.beq 9 6 0x1A5A5) ∧
    decode 0x332DA5A5#32 = .ok (.bne 9 6 0x1A5A5) ∧
    decode 0x352DA5A5#32 = .ok (.bltI64 9 6 0x1A5A5) ∧
    decode 0x372DA5A5#32 = .ok (.bgeI64 9 6 0x1A5A5) ∧
    decode 0x392DA5A5#32 = .ok (.bltN64 9 6 0x1A5A5) ∧
    decode 0x3B2DA5A5#32 = .ok (.bgeN64 9 6 0x1A5A5) ∧
    decode 0x3D35A5A5#32 = .ok (.jal 9 0x15A5A5) ∧
    decode 0x3F2DA5A5#32 = .ok (.jalr 9 6 0x1A5A5) := by decide +kernel
theorem test_decode_memory :
    decode 0x412DEA5A#32 = .ok (.ld .hs 9 6 0x2A5A) ∧
    decode 0x432CEA5A#32 = .ok (.st .w 9 6 0x2A5A) ∧
    decode 0x4572AA5A#32 = .ok (.stImm .h 0xB 9 0x2A5A) ∧
    decode 0x472CEA5A#32 = .ok (.ldr 9 6 0x2A5A) ∧
    decode 0x492C2A5A#32 = .ok (.ldff 9 6 0x2A5A) ∧
    decode 0x4B2C2A5A#32 = .ok (.ldfe 9 6 0x2A5A) ∧
    decode 0x4D2C2A5A#32 = .ok (.stef 9 6 0x2A5A) ∧
    decode 0x4F722A5A#32 = .ok (.stefImm 0xB 9 0x2A5A) ∧
    decode 0x512C2A5A#32 = .ok (.stff 9 6 0x2A5A) ∧
    decode 0x53722A5A#32 = .ok (.stffImm 0xB 9 0x2A5A) ∧
    decode 0x552C2A5A#32 = .ok (.lrw 9 6 0x2A5A) ∧
    decode 0x572C2A5A#32 = .ok (.scw 9 6 0x2A5A) ∧
    decode 0x58122A5A#32 = .ok (.migr 9 0x2A5A) ∧
    decode 0x5B2C2A5A#32 = .ok (.prefHbm 9 6 0x2A5A) ∧
    decode 0x5B2C6A5A#32 = .ok (.prefWake 9 6 0x2A5A) ∧
    decode 0x5D2C2A5A#32 = .ok (.wrel 9 6 0x2A5A) ∧
    decode 0x5F2C2A5A#32 = .ok (.wacq 9 6 0x2A5A) := by decide +kernel
theorem test_decode_ring :
    decode 0x612C2A5A#32 = .ok (.rbrd 9 6 0x2A5A) ∧
    decode 0x632C2A5A#32 = .ok (.ralt 9 6 0x2A5A) ∧
    decode 0x652CEA5A#32 = .ok (.rcap .word 9 6 0x2A5A) ∧
    decode 0x672CEA5A#32 = .ok (.rput .word 9 6 0x2A5A) ∧
    decode 0x6972EA5A#32 = .ok (.rputImm 0xB 9 0x2A5A) ∧
    decode 0x6B2CEA5A#32 = .ok (.radd 9 6 0x2A5A) ∧
    decode 0x6D2D2A5A#32 = .ok (.rwait .lti 9 6 0x2A5A) ∧
    decode 0x6E122A5A#32 = .ok (.iter 9 0x2A5A) ∧
    decode 0x6E126A5A#32 = .ok (.iterRing 9 0x2A5A) ∧
    decode 0x71AC2A5A#32 = .ok (.nest 13 6 0x2A5A) ∧
    decode 0x71AC6A5A#32 = .ok (.nestRing 13 6 0x2A5A) := by decide +kernel
theorem test_decode_sync :
    decode 0x752C7930#32 = .ok (.amo .cas .w 9 6 3 12) ∧
    decode 0x7612C0D0#32 = .ok (.rupd .minN .w 9 6) ∧
    decode 0x78000001#32 = .ok .fenceDie ∧
    decode 0x78000002#32 = .ok .fencePkg ∧
    decode 0x78000003#32 = .ok .fenceSys ∧
    decode 0x78000010#32 = .ok .rsync ∧
    decode 0x79200020#32 = .ok (.mqdq 9) ∧
    decode 0x78000030#32 = .ok .quit ∧
    decode 0x792D8040#32 = .ok (.spawn 9 6 12) ∧
    decode 0x7A120055#32 = .ok (.binit 9 0x55) ∧
    decode 0x7C120055#32 = .ok (.barr 9 0x55) ∧
    decode 0x7F200055#32 = .ok (.bwait 9 0x55) := by decide +kernel
theorem test_decode_wide_arithmetic :
    decode 0x815E0050#32 = .ok (.wadd .i32 5 3 6) ∧
    decode 0x815E0051#32 = .ok (.wsub .i32 5 3 6) ∧
    decode 0x815E0052#32 = .ok (.wmul .i32 5 3 6) ∧
    decode 0x815E0053#32 = .ok (.wmin .i32 5 3 6) ∧
    decode 0x815E0054#32 = .ok (.wmax .i32 5 3 6) ∧
    decode 0x815E0055#32 = .ok (.wand .i32 5 3 6) ∧
    decode 0x815E0056#32 = .ok (.wor .i32 5 3 6) ∧
    decode 0x815E0057#32 = .ok (.wxor .i32 5 3 6) ∧
    decode 0x815E0058#32 = .ok (.wshl .i32 5 3 6) ∧
    decode 0x815E0059#32 = .ok (.wshr .i32 5 3 6) ∧
    decode 0x815E005A#32 = .ok (.wsra .i32 5 3 6) ∧
    decode 0x815E005B#32 = .ok (.waddSat .i32 5 3 6) ∧
    decode 0x815E005C#32 = .ok (.wsubSat .i32 5 3 6) ∧
    decode 0x8158005D#32 = .ok (.wabs .i32 5 3) ∧
    decode 0x835E40C0#32 = .ok (.wfma .f16 5 3 6 2) ∧
    decode 0x835E40C1#32 = .ok (.wfms .f16 5 3 6 2) ∧
    decode 0x835E40C2#32 = .ok (.wfnma .f16 5 3 6 2) ∧
    decode 0x835E40C3#32 = .ok (.wfnms .f16 5 3 6 2) := by decide +kernel
theorem test_decode_wide_others :
    decode 0x855E0050#32 = .ok (.wceq .i32 5 3 6) ∧
    decode 0x855E0051#32 = .ok (.wcne .i32 5 3 6) ∧
    decode 0x855E0052#32 = .ok (.wclt .i32 5 3 6) ∧
    decode 0x855E0053#32 = .ok (.wcle .i32 5 3 6) ∧
    decode 0x855E4054#32 = .ok (.wsel .i32 5 3 6 2) ∧
    decode 0x875E0050#32 = .ok (.wperm .i32 5 3 6) ∧
    decode 0x87400C51#32 = .ok (.wbcst .i32 5 6) ∧
    decode 0x87580052#32 = .ok (.wmov .i32 5 3) ∧
    decode 0x895800C0#32 = .ok (.wsig .f16 5 3) ∧
    decode 0x895800C1#32 = .ok (.wexp .f16 5 3) ∧
    decode 0x895800C2#32 = .ok (.wrcp .f16 5 3) ∧
    decode 0x895800C3#32 = .ok (.wrsq .f16 5 3) ∧
    decode 0x895800C4#32 = .ok (.wtanh .f16 5 3) ∧
    decode 0x895800C5#32 = .ok (.wlog .f16 5 3) ∧
    decode 0x8B5E407B#32 = .ok (.wdot .i64 true .i16i16 5 3 6 2) ∧
    decode 0x8C181250#32 = .ok (.wredSum .i32 9 3) ∧
    decode 0x8C181251#32 = .ok (.wredMin .i32 9 3) ∧
    decode 0x8C181252#32 = .ok (.wredMax .i32 9 3) ∧
    decode 0x9D5800BF#32 = .ok (.wcvt true .f16 (.b8 ⟨true, true, 2⟩) true .ru 5 3) ∧
    decode 0xAD5806BF#32 = .ok (.wcvtScaled true .f16 (.b8 ⟨true, true, 2⟩) true .ru 5 3 3) := by decide +kernel
theorem test_decode_streams :
    decode 0xB12C05A5#32 = .ok (.zld 9 6 0x5A5) ∧
    decode 0xB32C05A5#32 = .ok (.zst 9 6 0x5A5) ∧
    decode 0xB52C2800#32 = .ok (.zset 9 6 0x5) ∧
    decode 0xB72C2800#32 = .ok (.zget 9 6 0x5) ∧
    decode 0xB9201000#32 = .ok (.sbind 9 2) := by decide +kernel
theorem test_decode_hires_pallets_engines :
    decode 0xC12C2800#32 = .ok (.hire 9 6 0x5) ∧
    decode 0xC32D2800#32 = .ok (.hiret 9 6 0x4 0x5) ∧
    decode 0xC52C0000#32 = .ok (.plse 9 6) ∧
    decode 0xC412C030#32 = .ok (.pcfg 9 6 0x2) ∧
    decode 0xC412C056#32 = .ok (.pwrR 9 6 0x2 6) ∧
    decode 0xC412C076#32 = .ok (.pwrC 9 6 0x2 6) ∧
    decode 0xC412C096#32 = .ok (.prdR 9 6 0x2 6) ∧
    decode 0xC412C0B6#32 = .ok (.prdC 9 6 0x2 6) ∧
    decode 0xC412C0CA#32 = .ok (.pcpy 9 6 1 2) ∧
    decode 0xC41200E0#32 = .ok (.pfree 9) ∧
    decode 0xC72C7800#32 = .ok (.cpy 9 6 3 12) ∧
    decode 0xC72C7840#32 = .ok (.gath 9 6 3 12) ∧
    decode 0xC72C7880#32 = .ok (.scat 9 6 3 12) ∧
    decode 0xC72C78C0#32 = .ok (.coll 9 6 3 12) := by decide +kernel
theorem test_decode_system :
    decode 0xE1204001#32 = .ok (.crd 9 .ackcnt) ∧
    decode 0xE1200202#32 = .ok (.cwr 9 .xpc) ∧
    decode 0xE1200802#32 = .ok (.cwrXvec 9) ∧
    decode 0xE1200A02#32 = .ok (.cwrXframe 9) ∧
    decode 0xE1202002#32 = .ok (.cwrSpaceid 9) ∧
    decode 0xE1208002#32 = .ok (.cwrBwphase 9) ∧
    decode 0xE1208202#32 = .ok (.cwrBankmap 9) ∧
    decode 0xE1208402#32 = .ok (.cwrSinv 9) ∧
    decode 0xE014B403#32 = .ok (.trap 0xA5A) ∧
    decode 0xE0000004#32 = .ok .xret ∧
    decode 0xE0000005#32 = .ok .halt ∧
    decode 0xE014B406#32 = .ok (.bkpt 0xA5A) ∧
    decode 0xE1200007#32 = .ok (.save 9) ∧
    decode 0xE1200008#32 = .ok (.restore 9) ∧
    decode 0xE1200C09#32 = .ok (.hloc 9 6) := by decide +kernel

/-! ### Ill-formed terms, one for each check -/

theorem test_ill_formed_1 :
    ([(.extN64 0 0 32 32 : Instr),
      .extI64 0 0 32 32,
      .ins 0 0 32 32,
      .ld .l 8 0 0,
      .st .l 8 0 0,
      .rcap .line 8 0 0,
      .rput .line 8 0 0,
      .nest 14 0 0,
      .nestRing 14 0 0,
      .amo .swap .h 0 0 0 1,
      .spawn 0 0 13,
      .wand .f32 0 0 0,
      .wor .f32 0 0 0,
      .wxor .f32 0 0 0,
      .wshl .f32 0 0 0,
      .wshr .f32 0 0 0,
      .wsra .f32 0 0 0,
      .waddSat .f32 0 0 0,
      .wsubSat .f32 0 0 0,
      .wfma .i32 0 0 0 0,
      .wfms .i32 0 0 0 0,
      .wfnma .i32 0 0 0 0,
      .wfnms .i32 0 0 0 0,
      .wsig .i32 0 0,
      .wexp .i32 0 0,
      .wrcp .i32 0 0,
      .wrsq .i32 0 0,
      .wtanh .i32 0 0,
      .wlog .i32 0 0,
      .hiret 0 15 1 0,
      .cwr 0 .xvec,
      .islandStart 64,
      .islandReady 64].all fun (i : Instr) => !(wellFormed i)) = true := by decide +kernel
theorem test_ill_formed_2 :
    ([.kilnEnable 128,
      .islandLeaveHold 64,
      .kilnPointSwitch 128,
      .queueLiveClear 9,
      .queuePoll 9,
      .nop 9 0,
      .vddestroy 9 0,
      .vddestroyDrained 16,
      .load 9 0 ⟨[], false⟩,
      .fetch 9 0 ⟨[], false⟩,
      .launch 9 0 ⟨[], false⟩,
      .launchResponse 16,
      .cancel 9 0,
      .cancelDone 9 0,
      .info 9 0,
      .steersetRule 9 0,
      .steersetQueue 9 0,
      .unknownRequest 9 0,
      .rekeyDrained 64,
      .rekeyClose 64,
      .debugHaltTakesEffect 2048 0,
      .debugHaltTakesEffect 0 8,
      .subbankWakeDone 2048 0,
      .subbankWakeDone 0 16,
      .subbankPowerUpDone 2048 0,
      .subbankPowerUpDone 0 16,
      .faultHandlerPlace 16,
      .haltWake 2048 0,
      .haltWake 0 8,
      .arrivalSpill 2048 0,
      .arrivalSpill 0 16,
      .slotHandover 2048 0,
      .slotHandover 0 8].all fun (i : Instr) => !(wellFormed i)) = true := by decide +kernel
theorem test_ill_formed_3 :
    ([.entryAge 4,
      .grant 4 0,
      .grant 0 128,
      .spareLineRemapDone 2048 0 0,
      .spareLineRemapDone 0 16 0,
      .vfFunctionLevelReset 9,
      .thermalHold 4,
      .islandEnterHold 64,
      .islandEnterOff 64,
      .qctlEnable 9,
      .qctlDisable 9,
      .hostRegisterWrite 9 .qbase 0,
      .vdcreate 9 0 ⟨0, 0⟩ [],
      .update 9 0,
      .vdkey 16,
      .vderase 16,
      .winopen 64 [] [] 0,
      .winmembers 64 [],
      .winclose 64,
      .attest 16 0,
      .spdmGetMeasurements 9,
      .debugList 16,
      .debugHalt 16 none,
      .debugRead 16 (.image 0 0),
      .debugWrite 16 (.image 0 0) 0,
      .debugStep 16 0,
      .debugResume 16 0,
      .hashmaskWrite 12 0,
      .hypInvalidate 16 ⟨0, []⟩,
      .frameAccept 2 [],
      .frameDropAtPort 2 .fcs,
      .ptpEventMessage 2 0,
      .flitReceive 16 []].all fun (i : Instr) => !(wellFormed i)) = true := by decide +kernel
theorem test_ill_formed_4 :
    ([.retrainComplete 16 false,
      .subbankWithdraw 2048 0,
      .subbankWithdraw 0 16,
      .channelRebuildComplete 12,
      .subbankRetention 2048 0,
      .subbankRetention 0 16,
      .ringStow 4 0,
      .ringStow 0 512,
      .ringReboard 2048 0,
      .ringReboard 0 16384,
      .ringBoardApply 2048 0,
      .ringBoardApply 0 8,
      .ringCaptureApply 2048 0,
      .ringCaptureApply 0 8,
      .ringPutApply 2048 0,
      .ringPutApply 0 8,
      .ringAddApply 2048 0,
      .ringAddApply 0 8,
      .ringWaitApply 2048 0,
      .ringWaitApply 0 8,
      .ringClaimApply 2048 0,
      .ringClaimApply 0 8,
      .ringAlightMatch 2048 0,
      .ringAlightMatch 0 8,
      .ringAlightWriteback 4 0,
      .ringAlightWriteback 0 512,
      .ringSlotError 4 0 .corrected,
      .ringSlotError 0 512 .corrected,
      .debugAttach ⟨16, false, false⟩,
      .debugDetach 16,
      .ringLockClear 2048 0,
      .ringLockClear 0 16384].all fun (i : Instr) => !(wellFormed i)) = true := by decide +kernel

/-! ### Words and steps -/

theorem witness_DecodeInvertsEncode : wellFormed (.extN64 1 2 0 63) = true ∧ encode (.extN64 1 2 0 63) = some 0x2224003F#32 := by decide
theorem witness_EncodeInvertsDecode : decode 0xE0000004#32 = .ok .xret := by decide
theorem witness_UnassignedWordsTrap_majors :
    ([0x00, 0x02, 0x07, 0x14, 0x16, 0x39, 0x47, 0x5D, 0x5F, 0x64, 0x6F, 0x71, 0x7F].all fun (m : Nat) =>
      let w := BitVec.ofNat 32 (m * 2 ^ 25)
      decide (fMajor w = 0x00#7 ∨ (0x02#7 ≤ fMajor w ∧ fMajor w ≤ 0x07#7) ∨ (0x14#7 ≤ fMajor w ∧ fMajor w ≤ 0x16#7) ∨ fMajor w = 0x39#7 ∨
        fMajor w = 0x47#7 ∨ (0x5D#7 ≤ fMajor w ∧ fMajor w ≤ 0x5F#7) ∨ (0x64#7 ≤ fMajor w ∧ fMajor w ≤ 0x6F#7) ∨ 0x71#7 ≤ fMajor w)) = true := by decide
theorem witness_UnassignedWordsTrap_step :
    let s := State.reset.withFetchWord 32 0xFE000001
    s.agenda = [.turn 0 0] ∧ (begun s).canIssue 0 = true ∧ (begun s).me.frame.running = false ∧
      ((begun s).fetchReady 0 (begun s).me.pc).2 = none ∧ ((begun s).fetchReady 0 (begun s).me.pc).1.me = (begun s).me ∧
      gives (((begun s).fetchReady 0 (begun s).me.pc).1.fetch 0 (begun s).me.pc) 0xFE000001#32 = true ∧ decode 0xFE000001#32 = .error .permanentlyIllegal := by decide +kernel
theorem witness_StepsRunWords_fetched :
    let s := State.reset.withFetchWord 32 0x02246000
    s.agenda = [.turn 0 0] ∧ (begun s).canIssue 0 = true ∧ (begun s).me.frame.running = false ∧
      ((begun s).fetchReady 0 (begun s).me.pc).2 = none ∧ ((begun s).fetchReady 0 (begun s).me.pc).1.me = (begun s).me ∧
      gives (((begun s).fetchReady 0 (begun s).me.pc).1.fetch 0 (begun s).me.pc) 0x02246000#32 = true ∧ decode 0x02246000#32 = .ok (.add 1 2 3) := by decide +kernel
theorem witness_StepsRunWords_body :
    let s := { demoSlot (fun k => { k with frame := ⟨true, true, k.pc, 0, 0, 0, 1, 1, [0x815E0050]⟩ }) with agenda := [.turn 0 0] }
    (begun s).canIssue 0 = true ∧ (begun s).me.frame.running = true ∧ (begun s).me.frame.body[(begun s).me.frame.pos]? = some 0x815E0050#32 ∧
      decode 0x815E0050#32 = .ok (.wadd .i32 5 3 6) := by decide +kernel
theorem witness_StepsRunWords_lost : (State.reachTurn demo 0 1).canIssue 1 = false := by decide +kernel
/-- A state whose slots are all ready is prompt. -/
theorem prompt_of_ready {s : State} (h : (s.slots.all fun kv => decide (kv.2.mode = .ready)) = true) : s.Prompt := by
  intro kv hkv c hc
  simp only [List.all_eq_true, decide_eq_true_eq] at h
  rw [h kv hkv] at hc
  cases hc
theorem witness_EveryStepIsPrompt : (State.reset.withFetchWord 32 0x02246000).Prompt :=
  prompt_of_ready (by decide +kernel)
theorem witness_EveryStepKeepsTheForm : (State.reset.withFetchWord 32 0x02246000).Formed := by
  decide +kernel
theorem witness_steps_answer : okAnd (step (State.reset.withFetchWord 32 0x02246000)) (fun _ => true) = true := by decide +kernel

/-! ### Scalar instructions and exceptions -/

theorem witness_ScalarResults : (0 : BitVec 6).toNat + (63 : BitVec 6).toNat + 1 ≤ 64 ∧ (63 : BitVec 6).toNat + (0 : BitVec 6).toNat + 1 ≤ 64 := by decide
theorem witness_Frames : demo.me.stepDue = false := by decide +kernel
theorem test_division :
    let s := demoSlot (gs [0, BitVec.ofInt 64 (-7), 2, 0])
    okAnd (exec (.divI64 4 1 2) s) (fun t => decide (t.me.getG 4 = 0xFFFFFFFFFFFFFFFD#64)) = true ∧
    okAnd (exec (.remI64 4 1 2) s) (fun t => decide (t.me.getG 4 = 0xFFFFFFFFFFFFFFFF#64)) = true ∧
    okAnd (exec (.divN64 4 1 2) s) (fun t => decide (t.me.getG 4 = 0x7FFFFFFFFFFFFFFC#64)) = true ∧
    okAnd (exec (.remI64 4 1 3) s) (fun t => decide (t.me.getG 4 = 0xFFFFFFFFFFFFFFF9#64)) = true := by decide +kernel
theorem witness_TakingTraps :
    let s := demo.modVd 0 fun v => { v with xvec := 0x100200000 }
    (s.vd? s.me.vd).map (·.xvec) = some 0x100200000#64 ∧ (demo.vd? demo.me.vd).map (·.xvec) = some 0#64 := by decide +kernel
theorem witness_TakingTraps_single_step :
    let s := (demo.modVd 0 fun v => { v with xvec := 0x100200000 }).modSlot 0 fun k => { k with sstep := true }
    s.me.sstep = true ∧ s.me.level = .task ∧ (s.vd? s.me.vd).map (·.xvec) = some 0x100200000#64 ∧
    okAnd (exec (.movImm 1 5) s) (fun t => decide (t.me.xcause = 0x000A#16 ∧ t.me.xpc = s.me.pc + 4 ∧ t.me.xval = s.me.pc ∧ t.me.getG 1 = 5)) = true := by
  decide +kernel
theorem witness_RepeatFramesAndReturns_rpt :
    let s := demo.layWord 1 (.hbm (2 ^ 20 + 4)) 0x815E0050
    s.me.frame.active = false ∧ (match s.captureBody (s.me.pc + 4) 1 with | .ok (ws, t) => decide (ws = [0x815E0050#32] ∧ t.me = s.me) | .error _ => false) = true := by
  decide +kernel
theorem witness_RepeatFramesAndReturns_frame :
    let k := { demo.me with frame := ⟨true, true, demo.me.pc, 0, 0, 1, 1, 0, [0x815E0050, 0x815E0050]⟩ }
    let k1 := { k with frame := { k.frame with pos := 1 } }
    let k2 := { k with frame := { k.frame with pos := 1, iter := 1 } }
    (k.frame.running = true ∧ k.frame.pos < k.frame.lenm1) ∧ (¬k1.frame.pos < k1.frame.lenm1 ∧ k1.frame.iter < k1.frame.cntm1) ∧
      (¬k2.frame.pos < k2.frame.lenm1 ∧ ¬k2.frame.iter < k2.frame.cntm1) := by decide +kernel
theorem witness_RepeatFramesAndReturns_xret :
    let s := demoSlot fun k => { k with level := .handler, xpc := 0x100100040 }
    s.me.level = .handler ∧ s.me.frame.active = false ∧ okAnd (exec .xret s) (fun t => decide (t.me.pc = 0x100100040#64 ∧ t.me.level = .task)) = true := by
  decide +kernel

/-! ### Wide instructions -/

/-- The demonstration slot with three valid w registers. -/
def demoWide (a b c : Line) : State := demoSlot fun k => ((k.setW 1 a).setW 2 b).setW 3 c
theorem witness_WideIntegerLanes :
    let s := demoWide 0x80000000FFFFFFFF 0x0000000100000001 0
    Elt.isInt .i32 = true ∧ s.me.unbound ∧ s.me.valid [1, 2] ∧
      okAnd (exec (.wadd .i32 4 1 2) s) (fun t => decide (t.me.w[(4 : WReg)] = 0x8000000100000000)) = true ∧
      okAnd (exec (.wsubSat .i32 4 1 2) s) (fun t => decide (t.me.w[(4 : WReg)] = 0x80000000FFFFFFFE)) = true := by decide +kernel
theorem witness_WideFloatLanes :
    let s := demoWide 0x3F800000 0x40000000 0x40400000
    (eltFloat .f32).isSome = true ∧ s.me.unbound ∧ s.me.valid [1, 2, 3] ∧
      okAnd (exec (.wfma .f32 4 1 2 3) s) (fun t => decide (lane t.me.w[(4 : WReg)] 32 0 = 0x40A00000)) = true ∧
      okAnd (exec (.wabs .f32 4 1) (demoWide 0xBF800000 0 0)) (fun t => decide (lane t.me.w[(4 : WReg)] 32 0 = 0x3F800000)) = true := by decide +kernel
theorem witness_WideComparesAndMoves :
    (demoWide 1 2 3).me.unbound ∧ (demoWide 1 2 3).me.valid [1, 2, 3] ∧ demo.me.unbound ∧ demo.me.wValid 1 = false := by decide +kernel
theorem witness_WideReductionsAndDots :
    let s := demoWide 0x0403020104030201 0x0101010101010101 5
    s.me.unbound ∧ s.me.valid [1, 2, 3] ∧ Elt.isInt .i8 = true ∧
      okAnd (exec (.wredSum .i8 4 1) s) (fun t => decide (t.me.getG 4 = 20)) = true ∧
      okAnd (exec (.wdot .i32 false .i8i8 4 1 2 3) s) (fun t => decide (lane t.me.w[(4 : WReg)] 32 0 = 15 ∧ lane t.me.w[(4 : WReg)] 32 1 = 10)) = true := by
  decide +kernel
theorem witness_RepresentableValuesAreExact :
    (match fp32.value 0x3F800000, (bin8 ⟨true, false, 3⟩).value 0x3C with | .fin _ _ _, .fin _ _ _ => true | _, _ => false) = true ∧
      (bin8 ⟨true, false, 3⟩).convert .rn false ((bin8 ⟨true, false, 3⟩).value 0x3C) = 0x3C ∧ fp32.convert .rz false (fp32.value 0x3F800000) = 0x3F800000 := by decide +kernel
theorem witness_StreamsAndZWords_words :
    let s := demoSlot fun k => (gs [0, 7] k).setZ 2 (words [0x2000, 64, 640, 0x0004000000000001])
    s.me.zValid 2 = true ∧ okAnd (exec (.zset 2 1 3) s) (fun t => decide (wordOf t.me.z[(2 : ZReg)] 3 = 7 ∧ wordOf t.me.z[(2 : ZReg)] 0 = 0x2000)) = true := by
  decide +kernel

/-! ### Memory -/

theorem witness_StreamsAndZWords_bind :
    let d := words [0x2000, 0x4000000000, 640, 1]
    let u := words [0x2000, 0x4000000000, 640, 0]
    descSound d 0 = true ∧ (demoSlot (·.setZ 2 d)).answers = [] ∧ lbits d 3 0 0 = 1 ∧ descSound u 2 = true ∧ lbits u 3 0 0 = 0 ∧
      okAnd (exec (.sbind 2 2) (demoSlot (·.setZ 2 d))) (fun t => decide (t.me.ports[2].bound = true ∧ t.me.ports[2].rem = 640)) = true ∧
      okAnd (exec (.sbind 2 2) (demoSlot (·.setZ 2 u))) (fun t => decide (t.me.ports[2].bound = false ∧ t.me.wValid 7 = false)) = true := by
  decide +kernel
/-- The demonstration device with bytes of a brick's bank. -/
def demoBank (b off : Nat) (bs : List Byte) (f : Slot → Slot) : State :=
  { demoSlot f with mem := Mem.writeBytes (demoSlot f).mem (bankAddr b off) bs }
theorem witness_StreamsAndZWords_pop :
    let s := demoBank 0 0x2000 [1, 2, 3, 4] fun k => { k with ports := #v[⟨true, false, 0x2000, 64, 100, [], []⟩, Port.idle, Port.idle] }
    s.me.ports[0].bound = true ∧ s.me.ports[0].queueFed = false ∧ s.me.ports[1].bound = false ∧ s.me.ports[2].bound = false ∧
      s.me.ports[0].rem ≠ 0 ∧ s.me.ports[0].ahead = [] ∧ s.me.ports[0].addr.toNat % 64 = 0 ∧ s.ownReady s.me.ports[0].addr.toNat 64 ∧ s.answers = [] ∧
      s.forward s.me s.brick (.sram s.brick s.me.ports[0].addr.toNat) s.me.ports[0].addr 64 = .clear ∧
      okAnd (exec (.wmov .i8 1 5) (s.modSlot 0 fun k => k.setPort 0 { k.ports[0] with ahead := [(canonical 0 0x2000, 0x04030201)] }))
        (fun t => decide (t.me.w[(1 : WReg)] = 0x04030201 ∧ t.me.ports[0].addr = 0x2040 ∧ t.me.ports[0].rem = 36)) = true := by
  decide +kernel
theorem witness_StreamsAndZWords_queue_fed :
    let s := demoBank 0 0x2000 [1, 2, 3, 4] fun k => { k with ports := #v[Port.idle, ⟨true, true, 0x2000, 64, 100, [], []⟩, Port.idle] }
    let p := Place.sram 0 0x2000
    let full := s.setFe p true
    s.me.ports[1].bound = true ∧ s.me.ports[1].queueFed = true ∧ s.ownReady 0x2000 64 ∧ s.answers = [] ∧
      s.forward s.me s.brick p 0x2000 64 = .clear ∧ s.feBit p = false ∧ s.feq = [] ∧ full.feBit p = true ∧ full.fe.Pairwise (· < ·) ∧
      full.ownReady 0x2000 64 ∧ full.forward full.me full.brick p 0x2000 64 = .clear ∧
      okAnd (exec (.wmov .i8 1 6) full) (fun t => decide (t.me.w[(1 : WReg)] = 0x04030201 ∧ t.feBit p = false ∧ t.me.ports[1].rem = 36)) = true ∧
      okAnd (exec (.wmov .i8 1 6) s) (fun t => decide (t.me.mode = .parked (.wordFull p.key) ∧ t.feq = [(p.key, [1])])) = true := by
  decide +kernel
theorem witness_StreamsAndZWords_push :
    let s := demoSlot fun k => { k.setW 1 7 with ports := #v[Port.idle, Port.idle, ⟨true, false, 0x2000, 64, 36, [], []⟩] }
    s.me.wValid 1 = true ∧ s.me.ports[2].bound = true ∧ s.me.ports[2].rem ≠ 0 ∧ pushFault s.brick s.me.ports[2] = none ∧ s.entryFree s.cur = true ∧
      okAnd (exec (.wmov .i8 7 1) s) (fun t => decide (t.me.sb.map (fun e => (e.ea, e.size, e.data)) = [(0x2000, 36, 7)] ∧
        t.me.ports[2].addr = 0x2040 ∧ t.me.ports[2].rem = 0)) = true := by decide +kernel
theorem witness_LoadsOfTheOwnBank :
    let s := demoBank 0 0xFFFC0 ((List.range 64).map fun i => BitVec.ofNat 8 (0xC0 + i)) (gs [0, 0xFFFF8, 0xFFFC0])
    let fine := fun (a : Word) n => a.toNat % n = 0 ∧ s.ownReady a.toNat n ∧ s.forward s.me s.brick (.sram s.brick a.toNat) a n = .clear
    s.answers = [] ∧ fine 0xFFFF8 8 ∧ fine 0xFFFF8 2 ∧ fine 0xFFFC0 64 ∧ s.me.unbound ∧
      okAnd (exec (.ld .w 4 1 0) s) (fun t => decide (t.me.getG 4 = 0xFFFEFDFCFBFAF9F8#64)) = true ∧
      okAnd (exec (.ld .qs 4 1 0) s) (fun t => decide (t.me.getG 4 = 0xFFFFFFFFFFFFF9F8#64)) = true ∧
      okAnd (exec (.ld .q 4 1 4) s) (fun t => decide (t.me.getG 4 = 0xFDFC#64)) = true ∧
      okAnd (exec (.zld 4 2 0) s) (fun t => decide (wordOf t.me.z[(4 : ZReg)] 0 = 0xC7C6C5C4C3C2C1C0#64 ∧ t.me.zValid 4 = true)) = true := by
  decide +kernel
theorem witness_LoadsOfTheOwnBank_bad :
    let s := demoSlot (gs [0, 0xFFFFF, 0x100000, 0xFFFFFFFF, 0x100000000, 0xFFFFFFFFFFFF, 0x1000000000000])
    let reachable := fun (r : GReg) => (bankOf s.brick (s.me.getG r).toNat).isSome || inVspace (s.me.getG r).toNat
    reachable 1 = true ∧ reachable 2 = false ∧ reachable 3 = false ∧ reachable 4 = true ∧ reachable 5 = true ∧ reachable 6 = false ∧
      (s.me.getG 1).toNat % 8 ≠ 0 ∧ (s.me.getG 5).toNat % 2 ≠ 0 := by decide +kernel
/-- Offset 0x40 of brick 3, as brick 0 names it. -/
def far : Word := 0xFFFE000000300040
theorem witness_RemoteLoads_parks :
    let s := demoSlot (gs [0, far])
    let z := { demoSlot (gs [0, 0x100100000]) with pch := (List.range 64).map fun p => (p, .powerDown) }
    let q := (z.walk z.agent 0x100100000).2
    (s.walk s.agent far).2 = none ∧ (s.walk s.agent far).1.me = s.me ∧ addrFault z.brick 0x100100000 8 = none ∧ q.isSome = true ∧
      (z.walk z.agent 0x100100000).1.me = z.me ∧
      okAnd (exec (.ld .w 2 1 0) z) (fun t => decide (t.me.mode = .parked (.cond (.awake (q.getD (.host 0)) 0x100100000)))) = true ∧
    addrFault s.brick far 8 = none ∧ isAt (s.resolve s.brick s.me.vd s.me.space s.me.level far .read) (.sram 3 0x40) 0 = true ∧
      (s.translated s.brick s.me.vd s.me.space s.me.level far .read).atHand (.sram 3 0x40) = false ∧
      (s.translated s.brick s.me.vd s.me.space s.me.level far .read).forward s.me s.brick (.sram 3 0x40) far 8 = .clear ∧ s.me.unbound ∧
      okAnd (exec (.ld .w 2 1 0) s) (fun t => decide (t.me.mode = .parked .reply ∧ t.me.pc = s.me.pc)) = true := by decide +kernel
/-- The demonstration slot with a request outstanding. -/
def asking (kind : ReqKind) (data : Word) (stage : ReqStage) (k : Slot) : Slot :=
  { k with mode := .parked .reply, req := some ⟨kind, far, .sram 3 0x40, 0, 4, data, 0, stage⟩ }
theorem witness_RemoteLoads_home :
    let s := demoBank 3 0x40 [0x88, 0x77] (asking (.ld .w) 0 .sent)
    s.ctxOf 1 = some s.me ∧ s.me.ctx = 1 ∧ s.linkDown (.sram 3 0x40) = false ∧ s.blocked 1 (.sram 3 0x40) = false ∧
      s.homeFault s.me.vd 0 (.sram 3 0x40) 8 false false = none ∧
      okAnd (exec (.loadAtHome 1 .sound) s) (fun t => decide (t.me.req.map (·.stage) = some (.done 0x7788))) = true := by decide +kernel
theorem witness_RemoteLoads_home_kinds :
    let s := fun (kind : ReqKind) => demoBank 3 0x40 [0x88, 0x77] (asking kind 0 .sent)
    let p := Place.sram 3 0x40
    let bad := { s .ldr with poison := [p.granule] }
    let gives := fun (s : State) (v : Line) => okAnd (exec (.loadAtHome 1 .sound) s) fun t => decide (t.me.req.map (·.stage) = some (.done v))
    (∀ kind ∈ [ReqKind.ldr, .zld, .descr], (s kind).ctxOf 1 = some (s kind).me ∧ (s kind).linkDown p = false ∧ (s kind).blocked 1 p = false ∧
        (s kind).homeFault 0 0 p 8 false false = none ∧ (s kind).homeFault 0 0 p 64 false false = none ∧ gives (s kind) 0x7788 = true) ∧
      bad.ctxOf 1 = some bad.me ∧ bad.blocked 1 p = false ∧ bad.closing p = false ∧ bad.homeFault 0 0 p 8 false false = some .poison ∧
      okAnd (exec (.loadAtHome 1 .sound) bad) (fun t => decide (t.me.req.map (·.stage) = some (.failed Cause.poison.code far false))) = true := by
  decide +kernel
theorem witness_RemoteLoads_reply :
    let s := demoSlot (asking (.ld .w) 0 (.done 0x7788))
    s.keyOf 1 = some 0 ∧ (s.slotAt 0).mode = .parked .reply ∧ (s.slotAt 0).cancelled = false ∧
      okAnd (exec (.replyArrive 1) s) (fun t => decide (t.me.getG 4 = 0x7788 ∧ t.me.mode = .ready ∧ t.me.pc = s.me.pc + 4)) = true := by decide +kernel
theorem witness_RemoteLoads_reply_kinds :
    let s := fun (kind : ReqKind) => demoSlot (asking kind 0 (.done 0x7788))
    let gives := fun (kind : ReqKind) (p : Slot → Bool) => okAnd (exec (.replyArrive 1) (s kind)) fun t => decide (t.me.mode = .ready) && p t.me
    (∀ kind ∈ [ReqKind.ld .l, .zld, .ldr, .stef, .descr, .amo .swap .w], (s kind).keyOf 1 = some 0 ∧ ((s kind).slotAt 0).mode = .parked .reply ∧
        ((s kind).slotAt 0).cancelled = false) ∧
      ((s (.ld .l)).me.req.map fun q => (s (.ld .l)).me.replyPushes q) = some false ∧
      gives (.ld .l) (fun k => decide (k.w[(4 : WReg)] = 0x7788 ∧ k.wValid 4 = true)) = true ∧ gives .zld (fun k => decide (k.z[(4 : ZReg)] = 0x7788)) = true ∧
      gives .ldr (fun k => decide (k.getG 4 = 0x7788)) = true ∧ gives (.amo .swap .w) (fun k => decide (k.getG 4 = 0x7788)) = true ∧
      gives .stef (fun k => decide (k.g = demo.me.g)) = true ∧ gives .descr (fun k => decide (k.descr = some 0x7788 ∧ k.pc = demo.me.pc)) = true := by
  decide +kernel
/-- A store-buffer entry for a word of brick 3. -/
def entry3 : SbEntry := ⟨9, far, 8, 0x1122334455667788, .task, 0, none, 0, none, false, none⟩
theorem witness_StoresReachMemory_buffered :
    let s := (demoSlot (gs [0, 0x2000, 2, 2, 1])).modSlot 0 fun k => (k.setW 1 7).setZ 1 9
    s.entryFree s.cur = true ∧ addrFault s.brick 0x2000 64 = none ∧ s.me.unbound ∧ s.me.wValid 1 = true ∧ s.me.zValid 1 = true ∧
      nestOk (s.me.getG 2) (s.me.getG 3) (s.me.getG 4) = true ∧
      addrFault s.brick 0x2000 8 = none ∧ (s.modSlot 0 fun k => { k with sb := List.replicate 16 entry3 }).entryFree 0 = false ∧
      okAnd (exec (.st .q 2 1 0) s) (fun t => decide (t.me.sb.map (fun e => (e.ea, e.size, e.data)) = [(0x2000, 2, 2)])) = true := by decide +kernel
theorem witness_StoresReachMemory_departs :
    let s := demoSlot fun k => { k with sb := [entry3] }
    let w := s.walk ⟨9, 0, s.me.vd, entry3.space, entry3.level⟩ far
    s.ctxOf 1 = some s.me ∧ s.homeKey 1 = some 0 ∧ s.storesStay 1 = false ∧ s.me.sb = [entry3] ∧ s.me.ctx = 1 ∧ w.2 = none ∧ w.1.ctxOf 1 = some s.me ∧
      isAt (s.resolve 0 s.me.vd entry3.space entry3.level far .write) (.sram 3 0x40) 0 = true ∧ scopeFrom 0 (.sram 3 0x40) = .die ∧
      scopeFrom 0 (.sram 512 0x40) ≠ .die ∧ s.me.ackcnt < 65535 ∧
      okAnd (exec (.storeDepart 1) s) (fun t => decide (t.msgs.map (·.id) = [9])) = true := by decide +kernel
/-- That store under way. -/
def msg3 (kind : MsgKind) (scope : Scope) (performed : Bool) : Msg :=
  ⟨9, 1, 0, 0, 0, kind, far, 8, 0x1122334455667788, .sram 3 0x40, 0, some 3, scope, .task, 0, none, performed⟩
theorem witness_StoresReachMemory_home :
    let m := msg3 .store .die false
    let s := { demo with msgs := [m] }
    Memory.wf s.mem = true ∧ (s.msgs.find? fun m => decide (m.id = 9 ∧ m.kind = .store)) = some m ∧ s.msgFree m = true ∧ s.blocked 9 m.place = false ∧
      s.homeFault m.vd m.win m.place m.size true (decide (m.size = 64)) = none ∧
      okAnd (exec (.storeAtHome 9 .sound) s) (fun t => decide (Mem.readBytes t.mem (bankAddr 3 0x40) 8 = leBytes 8 0x1122334455667788)) = true := by
  decide +kernel
theorem witness_StoresReachMemory_acknowledged :
    let s := { demoSlot fun k => { k with ackcnt := 1, sb := [{ entry3 with departed := true }] } with msgs := [msg3 .store .pkg true] }
    (s.msgs.find? fun m => decide (m.id = 9 ∧ m.performed = true)) = some (msg3 .store .pkg true) ∧ (0, s.me) ∈ s.slots ∧ s.me.ctx = 1 ∧
      okAnd (exec (.ackArrive 9) s) (fun t => decide (t.me.ackcnt = 0 ∧ t.me.sb = [] ∧ t.msgs = [])) = true := by decide +kernel
theorem witness_FullEmptyWords_own :
    let s := demoSlot (gs [0, 0x2000, 5])
    let p := Place.sram 0 0x2000
    s.ownReady 0x2000 8 ∧ s.answers = [] ∧ s.me.sb = [] ∧ s.forward s.me s.brick p 0x2000 8 = .clear ∧ KMap.find? s.feq (p.key / 8 * 8) = none ∧
      Memory.wf s.mem = true ∧ s.fe.Nodup ∧ s.feBit p = false ∧ (s.setFe p true).feBit p = true ∧ (s.setFe p true).fe.Nodup ∧
      okAnd (exec (.stef 2 1 0) s) (fun t => decide (t.feBit p = true ∧ Mem.readBytes t.mem p.key 8 = leBytes 8 5)) = true ∧
      okAnd (exec (.ldfe 4 1 0) (s.setFe p true)) (fun t => decide (t.feBit p = false)) = true := by decide +kernel
theorem witness_FullEmptyWords_home :
    let s := demoSlot (asking .stef 6 .sent)
    let p := Place.sram 3 0x40
    s.ctxOf 1 = some s.me ∧ s.me.cancelled = false ∧ s.blocked 1 p = false ∧ KMap.find? s.feq (p.key / 8 * 8) = none ∧
      (∀ wr, s.homeFault s.me.vd 0 p 8 wr false = none) ∧ s.feBit p = false ∧ (s.setFe p true).feBit p = true ∧
      okAnd (exec (.fullEmptyAtHome 1 .sound) s) (fun t => decide (t.feBit p = true ∧ t.me.req.map (·.stage) = some (.done 0))) = true ∧
      okAnd (exec (.fullEmptyAtHome 1 .sound) (s.setFe p true)) (fun t => decide (KMap.find? t.feq (p.key / 8 * 8) = some [1])) = true := by decide +kernel
theorem witness_Reservations_own :
    let p := Place.sram 0 0x2000
    let s := demoSlot (gs [0, 0x2000, 5])
    let h := { s.modSlot 0 fun k => { k with resv := some ⟨p.key, 0x2000⟩ } with resvq := [(p.key, ⟨1, 0, []⟩)] }
    s.ownReady 0x2000 8 ∧ s.answers = [] ∧ s.me.sb = [] ∧ s.forward s.me s.brick p 0x2000 8 = .clear ∧ Memory.wf s.mem = true ∧ s.me.resv = none ∧ KMap.find? s.resvq p.key = none ∧ h.me.resv = some ⟨p.key, 0x2000⟩ ∧ h.me.ctx ≠ 0 ∧
      KMap.find? h.resvq p.key = some ⟨h.me.ctx, 0, []⟩ ∧
      okAnd (exec (.scw 2 1 0) h) (fun t => decide (t.me.getG 2 = 0 ∧ Mem.readBytes t.mem p.key 8 = leBytes 8 5)) = true ∧
      okAnd (exec (.scw 2 1 0) s) (fun t => decide (t.me.getG 2 = 1)) = true ∧
      okAnd (exec (.scw 2 1 8) h) (fun t => decide (t.me.getG 2 = 2)) = true := by decide +kernel
theorem witness_Reservations_home :
    let p := Place.sram 3 0x40
    let s := demoSlot (asking .lrw 0 .sent)
    let q := { s with resvq := [(p.key, ⟨7, 0, []⟩)] }
    let c := demoSlot (asking .scw 0 .sent)
    s.ctxOf 1 = some s.me ∧ s.me.cancelled = false ∧ s.linkDown p = false ∧ s.blocked 1 p = false ∧ KMap.find? s.resvq p.key = none ∧
      s.homeFault s.me.vd 0 p 8 false false = none ∧ KMap.find? q.resvq p.key = some ⟨7, 0, []⟩ ∧ c.me.resv = none ∧
      ({ q with cycle := 32768 }).cycle = 32768 ∧
      okAnd (exec (.reservationAtHome 1 .sound) s) (fun t => decide (t.me.resv = some ⟨p.key, far⟩)) = true ∧
      okAnd (exec (.reservationAtHome 1 .sound) q) (fun t => decide (KMap.find? t.resvq p.key = some ⟨7, 0, [1]⟩)) = true ∧
      okAnd (exec (.reservationTimeout p.key) { q with cycle := 32768 }) (fun t => decide (t.resvq = [])) = true := by decide +kernel
theorem witness_Atomics_own :
    let s := demoBank 0 0x2000 [5] (gs [0, 0x2000, 7, 5])
    s.ownReady 0x2000 4 ∧ s.ownReady 0x2000 8 ∧ s.answers = [] ∧ s.me.sb = [] ∧ s.forward s.me s.brick (.sram 0 0x2000) 0x2000 8 = .clear ∧ Memory.wf s.mem = true ∧
      okAnd (exec (.amo .cas .w 4 2 1 3) s) (fun t => decide (t.me.getG 4 = 5 ∧ Mem.readBytes t.mem (bankAddr 0 0x2000) 8 = leBytes 8 7)) = true ∧
      okAnd (exec (.amo .cas .h 4 2 1 2) s) (fun t => decide (t.me.getG 4 = 5 ∧ Mem.readBytes t.mem (bankAddr 0 0x2000) 4 = leBytes 4 5)) = true := by
  decide +kernel
theorem witness_Atomics_leaves :
    let s := demoSlot (gs [0, far, 7])
    addrFault s.brick far 8 = none ∧ s.me.ackcnt < 65535 ∧ isAt (s.resolve s.brick s.me.vd s.me.space s.me.level far .rw) (.sram 3 0x40) 0 = true ∧
      (Place.sram 3 0x40).isHost = false ∧ s.ownBank (.sram 3 0x40) = false ∧ (∀ m ∈ s.msgs, m.id < s.nextId) ∧
      (let m : Msg := ⟨s.nextId, s.me.ctx, s.cur, s.me.vd, s.me.region, .rupd .add .w, far, 8, lineOf (s.me.getG 2), .host 0, 0, none, .sys,
          s.me.level, s.me.space, none, false⟩
        let u := { s.fresh.2 with msgs := s.msgs ++ [m] }.walk ⟨s.nextId, s.brick, s.me.vd, s.me.space, s.me.level⟩ far
        u.2 = none ∧ u.1.me = s.me ∧ u.1.msgs = s.msgs ++ [m] ∧
          isAt (u.1.resolve s.brick s.me.vd s.me.space s.me.level far .rw) (.sram 3 0x40) 0 = true ∧ u.1.ownBank (.sram 3 0x40) = false) ∧
      okAnd (exec (.rupd .add .w 2 1) s) (fun t => decide (t.me.ackcnt = 1 ∧ t.msgs.map (·.id) = [s.nextId])) = true := by decide +kernel
theorem witness_Atomics_own_update :
    let s := demoBank 0 0x2000 [5] (gs [0, 0x2000, 7])
    let p := Place.sram 0 0x2000
    addrFault s.brick 0x2000 8 = none ∧ s.me.ackcnt < 65535 ∧ isAt (s.resolve s.brick s.me.vd s.me.space s.me.level 0x2000 .rw) p 0 = true ∧
      Memory.wf s.mem = true ∧ s.answers = [] ∧ s.blocked s.nextId p = false ∧ s.homeFault s.me.vd 0 p 8 true false = none ∧
      (∀ m ∈ s.msgs, m.ctx ≠ s.me.ctx) ∧ s.ctxOf s.me.ctx = some s.me ∧ s.me.sb = [] ∧
      okAnd (exec (.rupd .add .w 2 1) s) (fun t => decide (t.me.ackcnt = 1 ∧ Mem.readBytes t.mem p.key 8 = leBytes 8 12)) = true := by decide +kernel
theorem witness_Atomics_home :
    let m := msg3 (.rupd .add .w) .pkg false
    let s := { demoBank 3 0x40 [1] id with msgs := [m] }
    Memory.wf s.mem = true ∧ s.sentReq 9 ReqKind.isAtomic = none ∧ (s.msgs.find? fun m => decide (m.id = 9 ∧ m.kind ≠ .store)) = some m ∧
      s.msgFree m = true ∧ s.blocked 9 m.place = false ∧ s.homeFault m.vd m.win m.place 8 true false = none ∧
      okAnd (exec (.atomicAtHome 9 .sound) s) (fun t => decide (Mem.readBytes t.mem (bankAddr 3 0x40) 8 = leBytes 8 0x1122334455667789)) = true := by
  decide +kernel
theorem witness_IterClaims :
    let d := words [10, 100, 7, 4, 8, 0]
    let s := demoBank 0 0x2000 (lineBytes d) (gs [0, 0x2000])
    s.ownReady 0x2000 64 ∧ s.answers = [] ∧ s.me.sb = [] ∧ s.forward s.me s.brick (.sram 0 0x2000) 0x2000 64 = .clear ∧ Memory.wf s.mem = true ∧ nestSound d = true ∧
      bytesLine (Mem.readBytes s.mem (bankAddr 0 0x2000) 64) = d ∧
      okAnd (exec (.iter 1 0) s) (fun t => decide (t.me.getG 12 = 10 ∧ t.me.getG 13 = 23 ∧ t.me.getG 14 = 1 ∧ t.me.getG 15 = 3 ∧
        Mem.readBytes t.mem (bankAddr 0 0x2000) 8 = leBytes 8 33)) = true := by decide +kernel
theorem witness_LoadsOfTheOwnBank_forward :
    let s := demoSlot fun k => { gs [0, 0x2000] k with sb := [⟨9, 0x2000, 8, 0x1122334455667788, .task, 0, none, 0, none, false, none⟩] }
    (match s.forward s.me s.brick (.sram s.brick 0x2000) 0x2000 2 with | .bytes v => decide (v = 0x7788) | _ => false) = true ∧
      okAnd (exec (.ld .q 4 1 0) s) (fun t => decide (t.me.getG 4 = 0x7788#64)) = true := by decide +kernel
/-- The demonstration device with its only page unmapped. -/
def unmapped (f : Slot → Slot) : State := (demoSlot f).tableWrites [⟨demoRoot + 0x1000 + 8 * 4, 0⟩]
theorem witness_StoresReachMemory_held :
    let e : SbEntry := ⟨9, wrap demoPc, 8, 7, .task, 0, none, 0, none, false, none⟩
    let s := unmapped fun k => { k with sb := [e] }
    let z := { s with pch := (List.range 64).map fun p => (p, .powerDown) }
    let w := fun (s : State) => s.walk ⟨9, 0, s.me.vd, e.space, e.level⟩ e.ea
    s.ctxOf 1 = some s.me ∧ s.homeKey 1 = some 0 ∧ s.storesStay 1 = false ∧ s.me.sb = [e] ∧ (w s).2 = none ∧ (w s).1.ctxOf 1 = some s.me ∧
      (w z).2.isSome = true ∧ (w z).1.ctxOf 1 = some z.me ∧
      (match s.resolve 0 s.me.vd e.space e.level e.ea .write with | .demand _ => true | _ => false) = true ∧
      okAnd (exec (.storeDepart 1) s) (fun t => decide (t.me.sb = [{ e with demand := some s.nextId }] ∧ t.demands.map (·.who) = [.store 1 9])) = true := by
  decide +kernel

/-! ### Synchronisation and threads -/

/-- The demonstration device with window 0 over the 2 MiB at 1 GiB, which the 1 GiB at V-space 5 GiB maps. -/
def demoWindow (f : Slot → Slot) : State :=
  let s := demoSlot f
  { s with
    windows := [(0, ⟨[512], [⟨0, true⟩], 7, .opened, [], false, 0, none, []⟩)]
    keys := KMap.set s.keys 32 9
    mem := [(demoRoot + 0x1028, 2 ^ 57 + 2 ^ 30 + 0x1F), (0x2028, 5 * 2 ^ 30 + 0x5F)].foldl
      (fun m (e : Nat × Nat) => Mem.writeBytes m e.1 (leBytes 8 e.2)) s.mem }
theorem witness_FencesPrefetchesWindows_fences :
    let s := demo
    let b := demoSlot fun k => { k with sb := [⟨9, 0x2000, 8, 1, .task, 0, none, 0, none, false, none⟩] }
    let a := demoSlot fun k => { k with ackcnt := 1 }
    let parks := fun (i : Instr) (s : State) => okAnd (exec i s) fun t => decide (t.me.mode = .parked (.cond .drainedAck))
    s.me.sb = [] ∧ s.me.ackcnt = 0 ∧ b.me.sb ≠ [] ∧ a.me.sb = [] ∧ a.me.ackcnt ≠ 0 ∧
      parks .fencePkg a = true ∧ parks .fenceSys a = true ∧ parks .fenceSys b = true ∧
      okAnd (exec .fenceSys s) (fun t => decide (t.me.pc = s.me.pc + 4)) = true ∧
      okAnd (exec .fencePkg b) (fun t => decide (t.me.mode = .parked (.cond .drainedAck))) = true := by decide +kernel
theorem witness_FencesPrefetchesWindows_pref :
    let s := (demoSlot (gs [0, 0x100200000, 0x0000000500102000, 0x1000000])).modBarrier 0 5 fun _ => ⟨2, 0, false, false, false, 0⟩
    let v := s.me.getG 2
    prefSound v = true ∧ bits v 38 32 = 5 ∧ s.holdsBarrier s.me.vd 5 = true ∧ (s.barrier s.brick 5).target ≠ 0 ∧
      addrFault s.brick (s.me.getG 1) 64 = none ∧ s.prefDestFault s.me.vd s.brick v = none ∧ s.me.sb = [] ∧ s.me.ackcnt = 0 ∧ s.me.prefs < 16 ∧
      0 < (s.me.getG 3).toNat ∧ (s.me.getG 3).toNat ≤ 2 ^ 24 ∧
      okAnd (exec (.prefHbm 2 1 0) s) (fun t => decide (t.me.prefs = 1 ∧ t.cmds.length = 1)) = true ∧
      (let w := demoSlot (gs [0, 0x100100000, 0x80]);
        w.answers = [] ∧ w.stallq = [] ∧ 0x100100000 / 128 = (0x100100000 + 0x80 - 1) / 128 ∧
          (w.walkReads w.me.vd w.me.space 0x100100000).all (fun x => !(w.stalled x.place)) = true ∧
          okAnd (exec (.prefWake 2 1 0) w) (fun t => decide (t.me.pc = w.me.pc + 4)) = true) := by decide +kernel
theorem witness_FencesPrefetchesWindows_windows :
    let s := demoWindow (gs [0, 0x140000000])
    let w := s.walk s.agent 0x140000000
    let u := w.1
    w.2 = none ∧ u.me = s.me ∧ u.answers = [] ∧ u.winBase 1 = 2 ^ 30 ∧ u.blocked s.me.ctx (.hbm (2 ^ 30)) = false ∧
      (KMap.find? u.windows 0).map (·.gen) = some 7 ∧
      isAt (u.resolve u.brick s.me.vd s.me.space s.me.level 0x140000000 .write) (.hbm (2 ^ 30)) 1 = true ∧
      isAt (u.resolve u.brick s.me.vd s.me.space s.me.level 0x140000000 .read) (.hbm (2 ^ 30)) 1 = true ∧
      u.genFault s.me.vd 1 (2 ^ 30) true = none ∧ u.genFault s.me.vd 1 (2 ^ 30) false = none ∧
      addrFault s.brick 0x140000000 8 = none ∧ s.winBase 1 = 2 ^ 30 ∧ s.answers = [] ∧ s.blocked s.me.ctx (.hbm (2 ^ 30)) = false ∧
      s.me.sb = [] ∧ s.me.ackcnt = 0 ∧ (KMap.find? s.windows 0).map (·.gen) = some 7 ∧
      isAt (s.resolve s.brick s.me.vd s.me.space s.me.level 0x140000000 .write) (.hbm (2 ^ 30)) 1 = true ∧
      s.genFault s.me.vd 1 (2 ^ 30) true = none ∧ s.genFault s.me.vd 1 (2 ^ 30) false = none ∧
      isAt (s.resolve s.brick s.me.vd s.me.space s.me.level 0x140000000 .read) (.hbm (2 ^ 30)) 1 = true ∧
      (let q := s.modSlot 0 fun k => { k with mode := .parked .reply, req := some ⟨.wacq, 0x140000000, .hbm (2 ^ 30), 1, 4, 0, 0, .sent⟩ };
        q.ctxOf 1 = some q.me ∧ q.linkDown (.hbm (2 ^ 30)) = false ∧ q.blocked 1 (.hbm (2 ^ 30)) = false ∧ q.closing (.hbm (2 ^ 30)) = false ∧
          q.genFault 0 1 (2 ^ 30) false = none ∧ okAnd (exec (.loadAtHome 1 .sound) q) (fun t => decide (t.me.req.map (·.stage) = some (.done 7))) = true) ∧
      okAnd (exec (.wrel 2 1 0) s) (fun t => decide (t.me.getG 2 = 8)) = true ∧
      okAnd (exec (.wacq 2 1 0) s) (fun t => decide (t.me.getG 2 = 7)) = true := by decide +kernel
theorem witness_FencesPrefetchesWindows_hloc :
    let s := demoSlot (gs [0, far + 0x20000])
    (s.walk s.agent (far + 0x20000)).2 = none ∧ (s.walk s.agent (far + 0x20000)).1.me = s.me ∧
      isAt ((s.walk s.agent (far + 0x20000)).1.resolve s.brick s.me.vd s.me.space s.me.level (far + 0x20000) .read) (.sram 3 0x20040) 0 = true ∧
      okAnd (exec (.hloc 2 1) s) (fun t => decide (t.me.getG 2 = 0x30002)) = true := by decide +kernel
theorem witness_ThreadsEndAndMove_quit :
    let b := demoSlot fun k => { k with engines := 1 }
    let r := demoSlot fun k => { k with ringq := [⟨.claim, far, 3, 1, 1, 4, 0, false⟩] }
    demo.me.busy = false ∧ demo.me.sb = [] ∧ demo.me.ackcnt = 0 ∧ demo.me.ringq = [] ∧ b.me.busy = true ∧ demo.me.mode ≠ .free ∧
      demo.me.resv = none ∧ (demo.modVd 0 fun v => { v with resident := false }).residentOf 0 = none ∧
      (demoSlot fun k => { k with ackcnt := 1 }).me.ackcnt ≠ 0 ∧ r.me.busy = false ∧ r.me.sb = [] ∧ r.me.ackcnt = 0 ∧ r.me.ringq ≠ [] ∧
      okAnd (exec .quit r) (fun t => decide (t.me.mode = .parked (.cond .ringEmpty))) = true ∧ okAnd (exec .rsync r) (fun t => decide (t.me.mode = .parked (.cond .ringEmpty))) = true ∧
      okAnd (exec .quit (demo.modVd 0 fun v => { v with resident := false })) (fun t => decide ((t.slotAt 0).mode = .free ∧ (t.region? 0 0).map (·.live) = some 0)) = true ∧
      okAnd (exec .rsync demo) (fun t => decide (t.me.pc = demo.me.pc + 4)) = true := by decide +kernel
theorem witness_ThreadsEndAndMove_migr :
    let s := demoSlot (gs [0, far, 0x2000])
    (s.walk s.agent far).2 = none ∧ (s.walk s.agent far).1.me = s.me ∧ (s.walk s.agent 0x2000).2 = none ∧ (s.walk s.agent 0x2000).1.me = s.me ∧
      s.me.sb = [] ∧ s.me.ackcnt = 0 ∧ s.me.busy = false ∧ s.me.ringq = [] ∧ s.me.resv = none ∧
      s.me.level = .task ∧ s.me.hasMail = false ∧ s.me.unbound ∧ addrFault s.brick far 1 = none ∧
      isAt (s.resolve s.brick s.me.vd s.me.space s.me.level far .read) (.sram 3 0x40) 0 = true ∧ s.homeBrick (.sram 3 0x40) = some 3 ∧
      isAt (s.resolve s.brick s.me.vd s.me.space s.me.level 0x2000 .read) (.sram 0 0x2000) 0 = true ∧ s.homeBrick (.sram 0 0x2000) = some s.brick ∧
      okAnd (exec (.migr 1 0) s) (fun t => decide (t.migMsgs.map (·.brick) = [3] ∧ (t.slotAt 0).mode = .free)) = true ∧
      okAnd (exec (.migr 2 0) s) (fun t => decide (t.me.pc = s.me.pc + 4)) = true := by decide +kernel
/-- A thread under way to brick 3. -/
def mover : MigMsg := ⟨9, 3, ⟨5, 0, Vector.replicate 16 6, 0x100100008, 0, 0, false⟩⟩
theorem witness_ThreadsEndAndMove_arrives :
    let s := { demo with migMsgs := [mover] }
    let w := { demo with arrivals := [(queueKey 3 0, [.migrant mover.m 0])], cycle := 2048 }
    let f := s.modVd 0 fun v => { v with slotNums := [] }
    let out := s.modVd 0 fun v => { v with resident := false }
    let asleep := fun (s : State) => { s with pch := (List.range 768).map fun p => (p, .powerDown) }
    let pass := fun (s : State) => (s.spillPassage spillOut 0 3 0 (some mover.m.message)).2
    let sent := fun (s : State) => { s with answers := [.sound], migMsgs := [] }
    let lone := fun (s : State) => { s with arrivals := setQueue s.arrivals (queueKey 3 0) [] }
    let at0 := demoVd.spillEntry 3 0
    let kept := fun (s : State) (i : Instr) => okAnd (exec i s) fun t => decide (Mem.readBytes t.mem at0 144 = mover.m.message ∧ Mem.readBytes t.mem (at0 + 192) 1 = Mem.readBytes s.mem (at0 + 192) 1)
    out.vd? 0 = some { demoVd with resident := false } ∧ w.vd? 0 = some demoVd ∧ out.answers = [] ∧ w.answers = [] ∧ Memory.wf out.mem = true ∧ Memory.wf w.mem = true ∧
      kept out (.migrationArrive 9 .sound) = true ∧ kept w (.arrivalSpill 3 0) = true ∧
      out.spillHead (queueKey 3 0) + (KMap.getD out.spills (queueKey 3 0) []).length = 0 ∧ pass (sent out) = .done ∧ pass (lone w) = .done ∧
      pass (sent (asleep out)) = .still ∧ pass (lone (asleep w)) = .still ∧
      okAnd (exec (.migrationArrive 9 .sound) (asleep out)) (fun t => decide (t.migMsgs = [mover] ∧ t.spills = [])) = true ∧
      okAnd (exec (.arrivalSpill 3 0) (asleep w)) (fun t => decide (t.arrivals = w.arrivals ∧ t.spills = [])) = true ∧
    f.freeSlot 0 3 = none ∧ f.isResident 0 = true ∧ out.isResident 0 = false ∧ (KMap.getD s.spills (queueKey 3 0) []).length < 112 ∧ w.isResident 0 = true ∧
      okAnd (exec (.migrationArrive 9 .sound) f) (fun t => decide ((KMap.getD t.arrivals (queueKey 3 0) []).length = 1)) = true ∧
      okAnd (exec (.migrationArrive 9 .sound) out) (fun t => decide ((KMap.getD t.spills (queueKey 3 0) []).length = 1)) = true ∧
      okAnd (exec (.arrivalSpill 3 0) { w with cycle := 2047 }) (fun t => decide (t.spills = [])) = true ∧
      (s.migMsgs.find? fun m => decide (m.id = 9)) = some mover ∧ s.isResident 0 = true ∧ KMap.getD s.spills (queueKey 3 0) [] = [] ∧
      KMap.getD s.arrivals (queueKey 3 0) [] = [] ∧ s.freeSlot 0 3 = some 0 ∧ KMap.getD w.arrivals (queueKey 3 0) [] = [.migrant mover.m 0] ∧
      (KMap.getD w.spills (queueKey 3 0) []).length < 112 ∧ (Arrival.migrant mover.m 0).since + 2048 ≤ w.cycle ∧
      okAnd (exec (.migrationArrive 9 .sound) s) (fun t => decide ((t.slotAt 24).pc = 0x100100008 ∧ (t.slotAt 24).getG 5 = 6)) = true ∧
      okAnd (exec (.arrivalSpill 3 0) w) (fun t => decide (KMap.getD t.spills (queueKey 3 0) [] = [.migrant mover.m 0])) = true := by decide +kernel
theorem witness_Inboxes :
    let s := demoSlot fun k => { k with inbox := [⟨0x500000001, 0x77⟩], overflow := [⟨2, 3⟩], hires := 1 }
    let w := demoSlot fun k => { k with hires := 1 }
    s.me.inbox ≠ [] ∧ demo.me.inbox = [] ∧ demo.me.hires = 0 ∧ demo.me.engines = 0 ∧ w.me.inbox = [] ∧ 0 < w.me.hires ∧
      okAnd (exec (.mqdq 3) s) (fun t => decide (t.me.getG 3 = 0x500000001 ∧ t.me.mqval = 0x77 ∧ t.me.inbox = [] ∧ t.me.overflow = [⟨2, 3⟩] ∧ t.me.hires = 0)) = true ∧
      okAnd (exec (.mqdq 3) w) (fun t => decide (t.me.mode = .parked (.cond .inbox))) = true ∧
      (let z := { s with pch := (List.range 768).map fun p => (p, .powerDown) };
        s.me.inbox.length < 16 ∧ (s.contextPassage mailIn 0 0 (overflowAt 0) 16 none).2 = .done ∧ (s.contextPassage mailIn 0 0 (overflowAt 0) 16 none).1.slotAt 0 = s.me ∧
          (z.contextPassage mailIn 0 0 (overflowAt 0) 16 none).2 = .still ∧ (z.contextPassage mailIn 0 0 (overflowAt 0) 16 none).1.slotAt 0 = z.me ∧
          ((s.refillInbox 0 1).slotAt 0).inbox = [⟨0x500000001, 0x77⟩, ⟨2, 3⟩] ∧ ((z.refillInbox 0 1).slotAt 0).overflow = [⟨2, 3⟩]) ∧
      ({ demo.me with inbox := List.replicate 15 ⟨1, 0⟩ }.addInbox ⟨2, 3⟩).inbox.length = 16 ∧
      ({ demo.me with inbox := List.replicate 16 ⟨1, 0⟩ }.addInbox ⟨2, 3⟩).overflow = [⟨2, 3⟩] := by decide +kernel
theorem witness_Inboxes_arrive :
    let m : InboxMsg := ⟨9, 1, none, ⟨0x500000001, 0x77⟩⟩
    let s := { demo with inboxMsgs := [m] }
    let h := s.modSlot 0 fun k => { k with mode := .parked (.cond .haltEnd) }
    (s.inboxMsgs.find? fun m => decide (m.id = 9)) = some m ∧ s.laneFirst m = true ∧ s.ctxOf 1 = some s.me ∧ s.me.overflow = [] ∧ s.me.inbox = [] ∧ h.ctxOf 1 = some h.me ∧ h.me.overflow = [] ∧ h.me.inbox = [] ∧
      (s.keyOf 1).map (fun key => (s.slotAt key).mode) = some .ready ∧
      h.keyOf 1 = some 0 ∧ (h.slotAt 0).ctx = 1 ∧ (h.slotAt 0).mode = .parked (.cond .haltEnd) ∧ (h.slotAt 0).sstep = false ∧
      okAnd (exec (.inboxEntryArrive 9) s) (fun t => decide (t.me.inbox = [m.entry] ∧ t.inboxMsgs = [])) = true ∧
      okAnd (exec (.inboxEntryArrive 9) h) (fun t => decide (t.me.mode = .ready ∧ t.me.pc = h.me.pc + 4)) = true := by decide +kernel
theorem witness_ThreadsBegin_leaves :
    let s := demoSlot (gs [0, 3, 1, 2, 3, 4])
    let f := s.modVd 0 fun v => { v with tree := some ⟨none, 0, false, false, [{ demoRegion with live := 16384 }]⟩ }
    badTarget (s.me.getG 1) = false ∧ s.me.sb = [] ∧ s.me.ackcnt = 0 ∧ bit (s.me.getG 1) 31 = false ∧ (s.region? 0 0).map (·.live) = some 1 ∧
      (f.region? 0 0).map (fun r => decide (r.slots ≤ r.live)) = some true ∧
      okAnd (exec (.spawn 6 1 2) s) (fun t => decide (t.spawnMsgs.map (·.args) = [[1, 2, 3, 4]] ∧ t.me.mode = .parked .reply)) = true ∧
      okAnd (exec (.spawn 6 1 2) f) (fun t => decide (t.me.getG 6 = 3)) = true := by decide +kernel
theorem witness_ThreadsBegin_places :
    let m : SpawnMsg := ⟨9, 1, 0, 0, 3, [1, 2, 3, 4]⟩
    let s := { demo with spawnMsgs := [m] }
    (s.spawnMsgs.find? fun m => decide (m.id = 9)) = some m ∧ s.region? 0 0 = some demoRegion ∧
      ((spawnBricks (nbits m.target.toNat 13 12) (nbits m.target.toNat 10 0)).find? fun x =>
        (s.freeSlot m.vd x).isSome && decide (KMap.getD s.spawnq (queueKey x m.vd) [] = [])) = some 3 ∧ s.freeSlot 0 3 = some 0 ∧ m.ctx ≠ s.nextId ∧
      okAnd (exec (.spawnPlace 9) s) (fun t => decide ((t.slotAt 24).pc = demoRegion.entry ∧ (t.slotAt 24).getG 3 = 4 ∧ (t.slotAt 24).mode = .ready)) = true := by
  decide +kernel
theorem witness_Barriers :
    let s := demoSlot (gs [0, 2, 3, 1])
    let i := s.modBarrier 0 5 fun _ => ⟨2, 0, true, false, false, 0⟩
    let o := (demoSlot (gs [0, 0, 65536, 600])).modVd 0 fun v => { v with slotNums := [0] }
    s.holdsBarrier 0 127 = true ∧ 0 < (s.me.getG 1).toNat ∧ (s.barrier 0 127).bound = 0 ∧ s.barrierWaiters 0 127 = [] ∧
      (s.me.getG 2).toNat / 512 = s.brick / 512 ∧ (i.barrier 0 5).target ≠ 0 ∧ b2n (i.barrier 0 5).phase ≠ bits (i.me.getG 1) 0 0 ∧
      b2n (i.barrier 0 5).phase = bits (i.me.getG 3) 0 0 ∧ s.me.sb = [] ∧ s.me.ackcnt = 0 ∧
      (o.me.getG 1).toNat = 0 ∧ 65535 < (o.me.getG 2).toNat ∧ (o.me.getG 3).toNat = 600 ∧ 600 / 512 ≠ o.brick / 512 ∧
      o.holdsBarrier 0 127 = false ∧ (s.barrier 0 5).target = 0 ∧
      okAnd (exec (.barr 3 5) o) (fun t => decide (t.barrierMsgs.map (·.brick) = [600])) = true ∧
      okAnd (exec (.binit 1 127) s) (fun t => decide ((t.barrier 0 127).target = 2)) = true ∧
      okAnd (exec (.barr 2 5) s) (fun t => decide (t.barrierMsgs.map (·.brick) = [3] ∧ t.me.mode = .parked .reply)) = true ∧
      okAnd (exec (.bwait 1 5) i) (fun t => decide (t.me.getG 1 = 1)) = true ∧
      okAnd (exec (.bwait 3 5) i) (fun t => decide (t.me.mode = .parked (.barrier 5 3))) = true := by decide +kernel
theorem witness_Barriers_arrivals :
    let x : Barrier := ⟨2, 0, false, false, false, 0⟩
    let m : BarrierMsg := ⟨9, 0, 0, 5, none, false, false⟩
    let s := { demo.modBarrier 0 5 fun _ => x with barrierMsgs := [m] }
    x.count + 1 ≠ x.target ∧ ({ x with count := 1 } : Barrier).count + 1 = x.target ∧ (s.barrierMsgs.find? fun m => decide (m.id = 9)) = some m ∧
      (s.barrierOf 0 0 5).target ≠ 0 ∧ s.barriersIn 0 5 = true ∧ (s.barrierOf 0 0 5).count + 1 ≠ (s.barrierOf 0 0 5).target ∧
      okAnd (exec (.barrierArrival 9) s) (fun t => decide ((t.barrier 0 5).count = 1)) = true := by decide +kernel
theorem witness_Barriers_flip :
    let m : BarrierMsg := ⟨9, 0, 0, 5, none, true, false⟩
    let s := { (demoSlot fun k => { k with mode := .parked (.barrier 5 3) }).modBarrier 0 5 fun _ => ⟨2, 1, false, false, false, 0⟩ with barrierMsgs := [m] }
    let n := { demo with barrierMsgs := [m] }
    (s.barrierMsgs.find? fun m => decide (m.id = 9)) = some m ∧ (s.barrierOf 0 0 5).count + 1 = (s.barrierOf 0 0 5).target ∧ s.barriersIn 0 5 = true ∧
      s.barrierWaiters 0 5 = [(0, 3)] ∧ (s.slotAt 0).stepDue = false ∧ (n.barrierOf 0 0 5).target = 0 ∧
      okAnd (exec (.barrierArrival 9) s) (fun t => decide ((t.barrier 0 5).phase = true ∧ (t.barrier 0 5).count = 0 ∧ t.me.getG 3 = 3 ∧ t.me.mode = .ready)) = true := by
  decide +kernel

/-! ### The course ring -/

theorem witness_RingInstructions :
    let s := demoSlot fun k => (gs [0, far, 0x2000, 7] k).setW 3 9
    (match s.ringPlace far 8 false with | .ok p => decide (p = (3, 0x40)) | .error _ => false) = true ∧
      (match s.ringPlace far 64 false with | .ok p => decide (p = (3, 0x40)) | .error _ => false) = true ∧
      (match s.ringPlace 0x2000 64 true with | .ok p => decide (p = (0, 0x2000)) | .error _ => false) = true ∧
      s.me.ringq.length < 4 ∧ s.me.unbound ∧ s.me.sb = [] ∧ s.holdsSub 0 0 = true ∧ (s.subBank 0 0).power ≠ .unavailable ∧
      (s.subBank 0 0).alloc = true ∧ nestOk (s.me.getG 3) (s.me.getG 3) (BitVec.ofNat 64 1) = true ∧ s.me.wValid 3 = true ∧
      okAnd (exec (.rcap .word 4 1 8) s) (fun t => decide (t.me.ringq.map (fun e => (e.brick, e.line, e.word, e.reg)) = [(3, 1, 1, 4)] ∧ t.me.mode = .parked .ring)) = true ∧
      okAnd (exec (.rput .word 3 1 0) s) (fun t => decide (t.me.mode = .ready ∧ t.me.ringq.length = 1)) = true := by decide +kernel
/-- A ring slot that carries line 1 of brick 3 for device 0, and the entry that names a word of it. -/
def rider : RingSlot := ⟨false, false, 0, 3, 1, words [10, 100, 7, 4, 8, 0]⟩
def riding (op : RingOp) : RingEntry := ⟨op, far, 3, 1, 1, 4, 0, false⟩
/-- The slot whose ring queue holds one entry, with the ring slot at its station. -/
def demoRing (op : RingOp) : State :=
  { demoSlot fun k => { k with mode := .parked .ring, ringq := [riding op] } with rings := [(0, rider)], locks := [(lineKey 3 1, ⟨.aboard, 0, 0⟩)] }
theorem witness_RingEntriesApply :
    let s := demoRing (.add 5)
    s.stationFor 0 = true ∧ (s.ringHolders.find? fun kv => decide (kv.1 = 0)) = some (0, s.me) ∧ KMap.find? s.rings (s.standing 0) = some rider ∧
      rider.isFor 0 (riding (.add 5)) = true ∧ (riding (.add 5)).overdue s.cycle = false ∧ rider.poison = false ∧ nestSound rider.payload = true ∧ RwCond.holds .ltn 100 200 = true ∧
      okAnd (exec (.ringAddApply 0 0) s) (fun t => decide ((KMap.find? t.rings 0).map (fun r => wordOf r.payload 1) = some 105)) = true ∧
      okAnd (exec (.ringCaptureApply 0 0) (demoRing (.capture .word))) (fun t => decide (t.me.ringq = [])) = true ∧
      okAnd (exec (.ringWaitApply 0 0) (demoRing (.wait .ltn 200))) (fun t => decide (t.me.ringq = [])) = true ∧
      okAnd (exec (.ringClaimApply 0 0) (demoRing .claim)) (fun t => decide (t.me.ringq = [])) = true ∧
      okAnd (exec (.ringPutApply 0 0) (demoRing (.put .word 6))) (fun t => decide ((KMap.find? t.rings 0).map (fun r => wordOf r.payload 1) = some 6)) = true ∧
      okAnd (exec (.ringPutApply 0 0) (demoRing (.put .line 6))) (fun t => decide ((KMap.find? t.rings 0).map (·.payload) = some 6)) = true ∧
      okAnd (exec (.ringAlightMatch 0 0) (demoRing (.alight false))) (fun t => decide ((KMap.find? t.rings 0).map (·.altpend) = some true)) = true := by
  decide +kernel
theorem witness_RingEntriesApply_late :
    let asked := fun (op : RingOp) => (demoRing op).modSlot 0 fun k => { k with req := some ⟨.ringWord, far, .sram 3 0x40, 0, 4, 0, 0, .sent⟩ }
    let late := { asked (.capture .word) with cycle := 1024 }
    let bad := fun (op : RingOp) => { asked op with rings := [(0, { rider with poison := true })] }
    let fails := fun (s : State) (c : Cause) => okAnd (exec (.ringCaptureApply 0 0) (s.modVd 0 fun v => { v with xvec := 0x100200000 })) fun t => decide (t.me.ringq = [] ∧ t.me.xcause.toNat = c.code)
    late.stationFor 0 = true ∧ (riding (.capture .word)).overdue late.cycle = true ∧ KMap.find? late.rings (late.standing 0) = some rider ∧
      (bad (.put .word 6)).stationFor 0 = true ∧ (bad (.capture .word)).stationFor 0 = true ∧ (riding (.put .word 6)).overdue 0 = false ∧
      fails late .ringMiss = true ∧ fails (bad (.capture .word)) .poison = true ∧
      okAnd (exec (.ringPutApply 0 0) (bad (.put .word 6))) (fun t => decide (t.me.ringq = [] ∧ (KMap.find? t.rings 0).map (·.payload) = some rider.payload)) = true := by
  decide +kernel
theorem witness_RingEntriesApply_board :
    let l := demoRing (.board none)
    let s := { l with rings := [], locks := [] }
    let f := s.modVd 0 fun v => { v with ringQ := [0, 0, 0, 0] }
    l.stationFor 0 = true ∧ s.stationFor 0 = true ∧ f.stationFor 0 = true ∧ (f.ringHolders.find? fun kv => decide (kv.1 = 0)) = some (0, f.me) ∧
      (s.ringHolders.find? fun kv => decide (kv.1 = 0)) = some (0, s.me) ∧
      (l.ringHolders.find? fun kv => decide (kv.1 = 0)) = some (0, l.me) ∧ l.lineLocked (lineKey 3 1) = true ∧ s.lineLocked (lineKey 3 1) = false ∧
      f.ringFull 0 0 0 = true ∧ s.ringFull 0 0 0 = false ∧ KMap.has s.rings (s.standing 0) = false ∧ s.blocked 1 (.sram 3 64) = false ∧ s.answers = [] ∧ s.ctxOf 1 = some s.me ∧
      okAnd (exec (.ringBoardApply 0 0) s) (fun t => decide (t.locks = [(lineKey 3 1, ⟨.aboard, 0, 0⟩)] ∧ t.rings.length = 1)) = true := by decide +kernel
theorem witness_RingLinesGoHome_alight :
    let s := { demo with rings := [(509, { rider with altpend := true })], locks := [(lineKey 3 1, ⟨.aboard, 0, 0⟩)], cycle := 6 }
    let z := s.modSub 3 0 fun x => { x with power := .retention }
    let w : RingBack := ⟨ringKey 0 509 / 512, { rider with altpend := true }, false⟩
    KMap.find? s.rings (ringKey 0 509) = some { rider with altpend := true } ∧ s.isHome (ringKey 0 509) { rider with altpend := true } = true ∧
      s.canStow (ringKey 0 509) { rider with altpend := true } = false ∧ s.turnOver 3 = true ∧ (s.applyStation 3).rings = s.rings ∧ Memory.wf (s.applyStation 3).mem = true ∧ (s.applyStation 3).alighters 3 1 = [] ∧
      (∀ kv ∈ s.ringHolders, kv.1 / 8 ≠ 3) ∧ (s.applyStation 3).blocked w.token (.sram 3 64) = false ∧ s.applyStation 3 = s.stationAt 3 32 ∧
      (z.applyStation 3).blocked w.token (.sram 3 64) = true ∧ z.canStow (ringKey 0 509) { rider with altpend := true } = false ∧ z.turnOver 3 = true ∧
      (z.applyStation 3).rings = z.rings ∧
      okAnd (exec (.ringAlightWriteback 0 509) z) (fun t => decide (t.writebacks = [w] ∧ t.rings = [])) = true ∧ homeOf (ringKey 0 509) rider = 3 ∧
      okAnd (exec (.ringAlightWriteback 0 509) s) (fun t => decide (Mem.readBytes t.mem (lineKey 3 1) 8 = leBytes 8 10 ∧ t.rings = [] ∧ t.locks = [])) = true := by
  decide +kernel
theorem witness_RingLinesGoHome_stow :
    let s := { demo.modVd 0 fun v => { v with resident := false } with rings := [(509, rider)], locks := [(lineKey 3 1, ⟨.aboard, 0, 0⟩)], cycle := 6 }
    let r := { demo with locks := [(lineKey 3 1, ⟨.stowed true false, 0, 0⟩)] }
    let w : RingBack := ⟨ringKey 0 509 / 512, rider, true⟩
    s.canStow (ringKey 0 509) rider = true ∧ s.turnOver 3 = true ∧ (s.applyStation 3).rings = s.rings ∧ Memory.wf (s.applyStation 3).mem = true ∧
      (s.applyStation 3).blocked w.token (.sram 3 64) = false ∧ r.isResident 0 = true ∧ KMap.has r.rings (r.standing 3) = false ∧
      r.blocked (reboardToken 3 1) (.sram 3 64) = false ∧
      okAnd (exec (.ringStow 0 509) s) (fun t => decide (t.rings = [] ∧ t.locks = [(lineKey 3 1, ⟨.stowed false false, 0, 0⟩)])) = true ∧
      okAnd (exec (.ringReboard 3 1) r) (fun t => decide (t.locks = [(lineKey 3 1, ⟨.aboard, 0, 0⟩)])) = true := by decide +kernel
theorem witness_RingLinesGoHome_faults :
    let s := { demoRing (.capture .word) with cycle := 512 }
    let l := { demo with locks := [(lineKey 3 1, ⟨.aboard, 0, 0⟩)] }
    s.ctxOf 1 = some s.me ∧ (riding (.capture .word)).since + 512 ≤ s.cycle ∧ KMap.find? s.rings (ringKey 0 0) = some rider ∧
      (l.rings.any fun kv => decide (homeOf kv.1 kv.2 = 3 ∧ kv.2.line = 1)) = false ∧
      okAnd (exec (.ringMiss 1) s) (fun t => decide (t.me.ringq = [])) = true ∧
      okAnd (exec (.ringSlotError 0 0 .payload) s) (fun t => decide ((KMap.find? t.rings 0).map (·.poison) = some true)) = true ∧
      okAnd (exec (.ringSlotError 0 0 .corrected) s) (fun t => decide (t.corrSram = 1 ∧ t.rings = s.rings)) = true ∧ l.writebacks = [] ∧ l.neremRuns = true ∧
      okAnd (exec (.ringLockClear 3 1) l) (fun t => decide (t.locks = [])) = true := by decide +kernel

/-! ### Control registers and system instructions -/

theorem witness_ControlRegisters :
    let s := demoSlot fun k => { gs [0, 0x100200003, 0x1008, 0x10000, 0x8000000000000000, 0x1F, 0x0000000100000003] k with level := .handler, ackcnt := 3 }
    s.me.level = .handler ∧ (s.vd? s.me.vd).isSome = true ∧ CReg.ackcnt ∉ [CReg.xpc, .xcause, .xval, .sinv, .xvec] ∧ demo.me.level = .task ∧ demo.xvec = 0 ∧
      bits (s.me.getG 2) 63 16 = 0 ∧ bits (s.me.getG 3) 63 16 ≠ 0 ∧ bits (s.me.getG 3) 63 32 = 0 ∧ bits (s.me.getG 3) 7 4 = 0 ∧
      bits (s.me.getG 2) 1 0 = 0 ∧ bits (s.me.getG 1) 1 0 ≠ 0 ∧ bits (s.me.getG 0) 62 48 = 0 ∧ bits (s.me.getG 0) 15 3 = 0 ∧ bit (s.me.getG 0) 63 = false ∧
      bits (s.me.getG 5) 63 12 = 0 ∧ s.me.sb = [] ∧ bits (s.me.getG 5) 63 8 = 0 ∧ s.pch = [] ∧ bits (s.me.getG 6) 51 48 = 0 ∧ bits (s.me.getG 6) 11 2 = 0 ∧
      (s.modVd 0 fun v => { v with xvec := 4 }).xvec ≠ 0 ∧
      okAnd (exec (.crd 7 .ackcnt) demo) (fun t => decide (t.me.getG 7 = 0)) = true ∧
      okAnd (exec (.crd 7 .ackcnt) s) (fun t => decide (t.me.getG 7 = 3)) = true ∧
      okAnd (exec (.cwr 2 .xcause) s) (fun t => decide (t.me.xcause = 0x1008)) = true ∧
      okAnd (exec (.cwrXvec 2) s) (fun t => (match t.me.mode with
        | .parked (.spread _ y sts ph) => decide (y = 0x1008 ∧ sts = [] ∧ ph = 0) | _ => false) && decide ((t.vd? 0).map (·.xvec) = some 0x1008)) = true ∧
      okAnd (exec (.cwrSpaceid 5) s) (fun t => decide (t.me.space = 0x1F)) = true := by decide +kernel
theorem witness_ControlRegisters_task :
    let s := demoSlot (gs [0, 0x100200003, 0x1008])
    s.me.level = .task ∧ s.xvec = 0 ∧ bits (s.me.getG 1) 1 0 ≠ 0 ∧ bits (s.me.getG 2) 1 0 = 0 ∧
      okAnd (exec (.cwr 2 .wakeat) s) (fun t => decide (t.me.wakeat = 0x1008 ∧ t.me.pc = s.me.pc + 4)) = true ∧
      okAnd (exec (.cwrXvec 2) s) (fun t => (match t.me.mode with | .parked (.spread _ y _ _) => decide (y = 0x1008) | _ => false) &&
        decide ((t.vd? 0).map (·.xvec) = some 0x1008)) = true := by decide +kernel
theorem witness_ControlRegisters_writes :
    let s := demoSlot fun k => { gs [0xFFFFFFFFFFFFFFFF, 0x0001000000000000, 0x800, 3] k with
      level := .handler, sb := [⟨9, 0x2000, 8, 1, .task, 0, none, 0, none, false, none⟩] }
    let p := { s with pch := [(0, .powerDown)] }
    let x := (s.vd? 0).getD demoVd
    let v := s.me.getG 0
    s.me.level = .handler ∧ bits v 63 16 ≠ 0 ∧ bits v 63 32 ≠ 0 ∧ bits v 1 0 ≠ 0 ∧ bits v 62 48 ≠ 0 ∧ bits v 63 12 ≠ 0 ∧ bits v 63 8 ≠ 0 ∧
      bits (s.me.getG 1) 51 48 ≠ 0 ∧ bits (s.me.getG 2) 11 2 ≠ 0 ∧ bits (s.me.getG 3) 51 48 = 0 ∧ bits (s.me.getG 3) 11 2 = 0 ∧ bits (s.me.getG 2) 63 12 = 0 ∧ s.me.sb ≠ [] ∧ p.vd? p.me.vd = some x ∧ bits (p.me.getG 3) 63 8 = 0 ∧
      effectivePhase x x.bwphase < effectivePhase x ((p.me.getG 3).setWidth 8) ∧
      p.phaseServes (p.stacksOf 0) (effectivePhase x ((p.me.getG 3).setWidth 8)) = false ∧
      s.phaseServes (s.stacksOf 0) (effectivePhase x ((s.me.getG 3).setWidth 8)) = true ∧
      okAnd (exec (.cwrSpaceid 2) s) (fun t => decide (t.me.mode = .parked (.cond .drained))) = true ∧
      okAnd (exec (.cwrBwphase 3) p) (fun t => (match t.me.mode with
        | .parked (.spread _ y sts ph) => decide (y = p.me.getG 3 ∧ sts = [0] ∧ ph = 3) | _ => false) && decide ((t.vd? 0).map (·.bwphase) = some 3)) = true ∧
      okAnd (exec (.cwrBwphase 3) (p.modVd 0 fun v => { v with bwphase := 3 })) (fun t => (match t.me.mode with
        | .parked (.spread _ _ sts ph) => decide (sts = [] ∧ ph = 0) | _ => false)) = true ∧
      okAnd (exec (.cwrSinv 3) s) (fun t => decide (t.me.mode = .parked (.invalidation s.nextId) ∧ t.invals.map (·.value) = [3])) = true := by decide +kernel
theorem witness_ControlRegisters_spread :
    let p := demoSlot fun k => { k with mode := .parked (.spread 5 3 [0] 3) }
    let w := { p with cycle := 5, pch := [(0, .waking)] }
    let e := { p with cycle := 5 }
    (e.slotAt 0).mode = .parked (.spread 5 3 [0] 3) ∧ p.cycle < 5 ∧ e.phaseServes [0] 3 = true ∧ w.phaseServes [0] 3 = false ∧
      (e.spreadOver 0).me.mode = .ready ∧ (e.spreadOver 0).me.pc = e.me.pc + 4 ∧ (p.spreadOver 0).me.mode = p.me.mode ∧
      (w.spreadOver 0).me.mode = p.me.mode := by decide +kernel
theorem witness_BankmapAllocation :
    let s := demoSlot fun k => { gs [0, 0xFFFF, 0x7FFF] k with level := .handler }
    let off := (s.modSub 0 15 fun x => { x with alloc := false, power := .off })
    let waits := { s with feq := [(bankAddr 0 0xF0000, [1])] }
    let shut := waits.modSub 0 15 fun x => { x with alloc := false }
    let full := { s with locks := [(bankAddr 0 0xF0000, ⟨.aboard, 0, 0⟩)] }
    Memory.wf s.mem = true ∧ s.holdsSub 0 15 = true ∧ (s.subBank 0 15).power ≠ .unavailable ∧ (s.subBank 0 15).alloc = true ∧
      bit (s.me.getG 2) 15 = false ∧ (off.subBank 0 15).alloc = false ∧ bit (s.me.getG 1) 15 = true ∧
      (∀ sb, sb < 16 → bit (s.me.getG 1) sb = true ∧ s.holdsSub s.me.vd sb = true ∨ s.holdsSub s.me.vd sb = false ∧ bit (s.me.getG 1) sb = false) ∧
      s.acceptedIn 0 15 = false ∧ off.closing (.sram 0 (15 * 2 ^ 16)) = false ∧ waits.acceptedIn 0 15 = true ∧ shut.closing (.sram 0 (15 * 2 ^ 16)) = true ∧
      (shut.subBank 0 15).alloc = false ∧ full.lockedIn 0 15 = true ∧
      okAnd (exec (.cwrBankmap 2) waits) (fun t => decide (t.subBank 0 15 = { s.subBank 0 15 with alloc := false })) = true ∧
      okAnd (exec (.cwrBankmap 1) shut) (fun t => decide (t.subBank 0 15 = s.subBank 0 15)) = true ∧
      okAnd (exec (.cwrBankmap 2) full) (fun t => decide ((t.subBank 0 15).alloc = true ∧ t.me.mode = .free)) = true ∧
      okAnd (exec (.cwrBankmap 2) s) (fun t => decide ((t.subBank 0 15).power = .off ∧ (t.subBank 0 14).alloc = true)) = true ∧
      okAnd (exec (.cwrBankmap 1) off) (fun t => decide ((t.subBank 0 15).power = .poweringUp)) = true := by decide +kernel
theorem witness_SystemInstructions :
    let s := (demo.modVd 0 fun v => { v with xvec := 0x100200000 })
    let a := demo.modVd 0 fun v => { v with attached := true }
    let h := demoSlot fun k => { k with wakeat := 10 }
    let p := h.modSlot 0 fun k => { k with mode := .parked (.cond .haltEnd) }
    (s.vd? 0).map (·.attached) = some false ∧ (a.vd? 0).map (·.attached) = some true ∧ demo.me.wakeat.toNat ≤ demo.devHalfNs / 2 ∧
      h.devHalfNs / 2 < h.me.wakeat.toNat ∧ h.me.inbox = [] ∧ h.me.overflow = [] ∧ (p.slotAt (8 * 0 + 0)).mode = .parked (.cond .haltEnd) ∧
      (({ p with devHalfNs := 20 }).slotAt 0).wakeat.toNat ≤ ({ p with devHalfNs := 20 }).devHalfNs / 2 ∧
      okAnd (exec (.trap 7) s) (fun t => decide (t.me.xcause = 9 ∧ t.me.xval = 7 ∧ t.me.pc = 0x100200000 ∧ t.me.xpc = s.me.pc)) = true ∧
      okAnd (exec (.bkpt 1) s) (fun t => decide (t.me.xcause = 8 ∧ t.me.xval = 1)) = true ∧
      okAnd (exec (.bkpt 1) a) (fun t => decide (t.me.haltAsked = true ∧ t.me.xval = 1)) = true ∧
      okAnd (exec .halt h) (fun t => decide (t.me.mode = .parked (.cond .haltEnd))) = true ∧
      okAnd (exec (.haltWake 0 0) { p with devHalfNs := 20 }) (fun t => decide (t.me.mode = .ready ∧ t.me.pc = p.me.pc + 4)) = true := by decide +kernel
/-- What a fetch comes to. -/
def fetchKind (f : Fetched) : Nat :=
  match f with
  | .word _ _ => 0
  | .fault _ => 1
  | .demand _ => 2
  | .fatal => 3
theorem witness_SystemInstructions_fetch :
    let s := demoSlot fun k => { k with pc := 0x100000002 }
    let d := demoSlot fun k => { k with pc := 0x180000000 }
    let m := fun (hyp guest : Nat) => { d with mem := Mem.writeBytes (Mem.writeBytes d.mem 0x2030 (leBytes 8 (6 * 2 ^ 30 + guest))) (demoRoot + 0x1030) (leBytes 8 hyp) }
    s.me.pc.toNat % 4 ≠ 0 ∧ fetchKind (s.fetch s.cur s.me.pc) = 1 ∧ fetchKind (d.fetch d.cur d.me.pc) = 1 ∧
      fetchKind ((m 0 0x5F).fetch 0 d.me.pc) = 2 ∧ fetchKind ((m 0x21F 0x5F).fetch 0 d.me.pc) = 3 ∧
      okAnd (exec .fetchFault (m 0 0x5F)) (fun t => decide (t.demands.map (·.ipa) = [6 * 2 ^ 30])) = true := by decide +kernel
/-- A slot of the demonstration device at handler level. -/
def handlerSlot : State := demoSlot fun k => { gs [7, 0x3000] k with level := .handler }
theorem witness_SaveAndRestore_save :
    let s := handlerSlot
    s.me.level = .handler ∧ s.me.busy = false ∧ s.me.hasMail = false ∧ s.me.quiet = true ∧ s.me.resv = none ∧ Memory.wf s.mem = true ∧
      s.answers = [] ∧ (s.me.getG 1).toNat % 4096 = 0 ∧ (∀ j, j < 64 → s.ownReady ((s.me.getG 1).toNat + 64 * j) 64) := by decide +kernel
/-- The image of a task at 0x100100008 whose g3 holds 5. -/
def taskImage : List Byte := { (gs [0, 0, 0, 5] demo.me) with pc := 0x100100008 }.saveImage
/-- The handler with a sound image, and with one whose region does not exist, at 0x3000. -/
def soundImage : State := { handlerSlot with mem := Mem.writeBytes handlerSlot.mem (bankAddr 0 0x3000) (taskImage.take 0x200) }
def badImage : State := { handlerSlot with mem := Mem.writeBytes handlerSlot.mem (bankAddr 0 0x30B8) [1] }
theorem witness_SaveAndRestore_restore :
    let s := soundImage
    (match s.loadLines (s.me.getG 1) 64 with
      | .ok (b, _) => imageSound b 1 && decide ((imgWord b 0xB8).toNat = s.me.region) | .error _ => false) = true ∧
    ((s.vd? s.me.vd).bind (·.tree)).map (·.regions.length) = some 1 ∧ s.answers = [] ∧ (imgWord (taskImage.take 0x200) 0xB8).toNat = s.me.region ∧
      s.regionRoom 0 0 0 = true := by decide +kernel
theorem witness_SaveAndRestore_restore_bad :
    imageSound (Mem.readBytes badImage.mem (bankAddr 0 0x3000) 4096) 1 = false ∧
      okAnd (exec (.restore 1) badImage) (fun t => decide (t.me.mode = .free)) = true := by decide +kernel
theorem test_restore :
    let s := soundImage
    okAnd (exec (.restore 1) s) (fun t => decide (t.me.getG 3 = 5 ∧ t.me.pc = 0x100100008 ∧ t.me.level = .task)) = true := by decide +kernel

/-! ### Hires, pallets, kilns -/

/-- A ZERO of one row and one column at row 2, column 3, and a SWAP. -/
def zeroHod : Line := words [4, 0, 0, 0, 0, 0, 0x0000000203000000, 0]
def swapHod : Line := words [2, 0, 0, 0, 0, 0, 0, 0]
theorem witness_Hires :
    let s := demoSlot fun k => { (k.setZ 14 zeroHod).setZ 15 swapHod with tkt := 41 }
    let b := demoSlot fun k => k.setZ 14 (words [7])
    s.me.zValid 14 = true ∧ s.me.zValid 13 = false ∧ s.me.hires + 1 ≤ 512 ∧ s.yardCheck 0 (s.brick / 512) [zeroHod] = 0 ∧
      s.yardCheck 0 (s.brick / 512) [zeroHod, swapHod] = 0 ∧ s.mustWait s.me (s.brick / 512) 2 = none ∧ s.mustWait s.me (s.brick / 512) 1 = none ∧
      (s.laneOf (masterOf s.cur s.me.vd) 7).length < 8 ∧ (14 : ZReg).val + (1 : BitVec 3).toNat ≤ 15 ∧ b.yardCheck 0 (b.brick / 512) [b.me.z[(14 : ZReg)]] = 2 ∧
      b.me.inbox.length < 16 ∧ b.me.overflow = [] ∧
      s.me.sb = [] ∧ s.me.ackcnt = 0 ∧ (14 : ZReg).val + (0 : BitVec 3).toNat ≤ 15 ∧
      okAnd (exec (.hire 1 13 7) (s.modVd 0 fun v => { v with xvec := 4 })) (fun t => decide (t.me.xval = 0x20D)) = true ∧
      okAnd (exec (.hiret 1 14 1 7) s) (fun t => decide (t.me.getG 1 = 41 ∧ t.me.tkt = 43 ∧ t.me.hires = 2 ∧ t.entries.map (·.hods) = [[zeroHod, swapHod]])) = true ∧
      okAnd (exec (.hire 1 14 7) b) (fun t => decide (t.me.inbox = [⟨0x70201, 0⟩])) = true := by decide +kernel
/-- An entry of the thread on kiln 4. -/
def hired (hods : List Line) (stage : EntryStage) (kiln : Option Nat) (runs : List Run) : Entry :=
  { id := 9, vd := 0, ctx := 1, master := 0, brick := 0, region := 0, prio := 0, lane := 2, level := .task, space := 0, hods := hods, ticket := 41,
    stage := stage, since := some 0, aged := none, kiln := kiln, grantAt := 0, base := 0, hod := 0, resume := none, redo := [], runs := runs,
    lands := [], statuses := [], sent := 0, place := 0, saved := false }
/-- The demonstration device with a lease of kiln 4 and two regions of it. -/
def demoLease (f : Slot → Slot) : State :=
  (demoSlot f).modKiln 4 fun k => { k with leases := [(1, ⟨0, none, [(0, ⟨2, 3, 4, 20⟩), (2, ⟨64, 3, 4, 20⟩), (3, ⟨0, 0, 1, 1⟩)], false⟩)] }
theorem witness_PalletLeasesAndCopies :
    let s := demoLease (gs [0, 4, 0x401, 0x100000000, 0x402])
    let n := { s with entries := [{ hired [words [0x100000004, 0, 0, 0, 0, 0, 0x401, 0]] .granted (some 4) [⟨0, 0, 0, 10, false, 0⟩] with hod := 1 }] }
    let p := { s with slots := s.slots ++ [(1, { demo.me with ctx := 2, mode := .parked .reply, req := some ⟨.pcfg 1, 0x401, .host 0, 0, 0, 0, 0, .queued⟩ })] }
    let f := s.modKiln 4 fun k => { k with leases := [0, 1, 2].map fun n => (n, ⟨0, none, [], false⟩) }
    (s.kilnsOn 0 (s.brick / 512)).contains 4 = true ∧ (s.kiln 4).leases.length < 3 ∧ 3 ≤ (f.kiln 4).leases.length ∧
      (s.lease? 0 (s.brick / 512) 0x401).isSome = true ∧ s.lease? 0 (s.brick / 512) 0x402 = none ∧ s.hodWriting 4 1 = false ∧
      pcfgSound (s.me.getG 3) = true ∧ s.palletReady 0 (palletReq (.pcfg 1) 0x401 0 (s.me.getG 3)) = true ∧ s.answers = [] ∧ (s.modKiln 4 fun k => { k with pallets := [⟨0, .lease 1, ⟨[], []⟩, 0⟩] }).hasPallet 4 (.lease 1) = true ∧
      ((s.useLease 0 0x401 [0x401]).useLease 0 0x401 [0x401]).hasPallet 4 (.lease 1) = true ∧ n.palletReady 0 (palletReq (.pcfg 1) 0x401 0 (s.me.getG 3)) = false ∧ s.leaseInUse 0x401 = false ∧ p.leaseInUse 0x401 = true ∧ p.leaseNamed 0x401 = false ∧ pcfgSound (s.me.getG 4) = false ∧
      n.leaseInUse 0x401 = true ∧
      okAnd (exec (.pfree 2) p) (fun t => decide (t.me.mode = .parked .reply ∧ (KMap.find? (t.kiln 4).leases 1).map (·.freer) = some (some 1))) = true ∧ n.hodWriting 4 1 = true ∧ (KMap.find? ((s.lease? 0 0 0x401).map (·.regions)).get! 2).isSome = true ∧
      okAnd (exec (.pcfg 2 3 1) s) (fun t => decide (((KMap.find? (t.kiln 4).leases 1).bind fun l => KMap.find? l.regions 1).isSome = true)) = true ∧
      okAnd (exec (.pcfg 2 3 1) n) (fun t => decide (t.me.mode = .parked .reply ∧ t.me.req.map (·.stage) = some .queued)) = true ∧
      okAnd (exec (.pfree 2) n) (fun t => decide (t.me.mode = .parked .reply ∧ (KMap.find? (t.kiln 4).leases 1).map (·.freer) = some (some 1))) = true ∧
      okAnd (exec (.plse 6 1) s) (fun t => decide (t.me.getG 6 = 0x400 ∧ (t.kiln 4).leases.length = 2)) = true ∧
      okAnd (exec (.plse 6 1) f) (fun t => decide (t.me.getG 6 = 0xFFFFFFFFFFFFFFFF)) = true ∧
      okAnd (exec (.pfree 2) s) (fun t => decide ((t.kiln 4).leases = [])) = true ∧
      okAnd (exec (.pcpy 2 2 0 2) s) (fun t => decide (t.me.pc = s.me.pc + 4)) = true ∧
      okAnd (exec (.pcpy 2 2 0 3) (s.modVd 0 fun v => { v with xvec := 4 })) (fun t => decide (t.me.xval = 0x401)) = true := by decide +kernel
theorem witness_PalletSlices :
    let s := demoLease fun k => (gs [0, 0x401, 0x0802, 0x0108] k).setW 3 (words [0x3F80000040000000])
    let g : PalletRegion := ⟨2, 3, 4, 20⟩
    ((s.lease? 0 (s.brick / 512) 0x401).bind fun l => KMap.find? l.regions 0) = some g ∧ s.hodWriting 4 1 = false ∧ (s.useLease 0 0x401 [0x401]).hasPallet 4 (.lease 1) = true ∧ s.answers = [] ∧ s.me.unbound ∧ s.me.wValid 3 = true ∧
      (s.me.getG 2).toNat &&& (Machine.field 63 0 - (Machine.field 14 8 + Machine.field 6 0)) = 0 ∧
      bits (s.me.getG 2) 6 0 < g.rows ∧ bits (s.me.getG 2) 14 8 < g.cols ∧ bits (s.me.getG 3) 6 0 < g.cols ∧ bits (s.me.getG 3) 14 8 < g.rows ∧
      okAnd (exec (.pwrR 1 2 0 3) s) (fun t => decide ((t.palletOf 4 (.lease 1)).cell 4 12 = 0x3F800000 ∧ (t.palletOf 4 (.lease 1)).cell 4 11 = 0x40000000)) = true ∧
      okAnd (exec (.pwrC 1 3 0 3) s) (fun t => decide ((t.palletOf 4 (.lease 1)).cell 4 11 = 0x3F800000)) = true := by decide +kernel
/-- The demonstration device with kiln 4 enabled and that entry. -/
def demoHired (e : Entry) (f : Kiln → Kiln) : State :=
  { demo.modKiln 4 f with entries := [e], islands := KMap.set demo.islands (kilnIsland 4) ⟨.k2, .k2, false, 0, 0⟩, cycle := 70000 }
theorem witness_AgingAndGrants :
    let e := hired [zeroHod] .waiting none []
    let s := demoHired e id
    e ∈ s.entries ∧ e.runs = [] ∧ e.lands = [] ∧ e.brick / 512 = 0 ∧ s.laneReady e = true ∧ s.residentVd 0 = true ∧ 0 + s.yageOf 0 ≤ s.residentTime 0 ∧
      s.kilnOwner 4 = some 0 ∧ s.kilnFree 4 = true ∧ s.chosen 0 4 = some e ∧ s.answers = [] ∧
      (s.bringPallets 4 0 e).2.isSome = true ∧ s.eligible e = true ∧ e.boundKiln = none ∧ s.leaseTaken e = false ∧
      okAnd (exec (.entryAge 0) s) (fun t => decide (t.entries.map (·.aged) = [some (s.yageOf 0)])) = true ∧
      okAnd (exec (.grant 0 4) s) (fun t => decide (t.entries.map (·.stage) = [.granted] ∧ (t.kiln 4).running = some 9)) = true := by decide +kernel
/-- An MMA of one row, K = 1 and N = 1 of .i8 by .i8 to FP32, with A at 0x2000, and a plane that matches it. -/
def mmaHod : Line := words [0x0C308003, 0x2000, 64, 0, 0, 0, 0, 0x500000000]
def plane5 (w : Nat) : Plane := ⟨true, 1, 1, 3, 5, 0, [(0, w)], []⟩
theorem witness_HodsRun_start :
    let zero := demoHired (hired [zeroHod] .granted (some 4) []) fun k => { k with enabled := true, running := some 9, pallets := [⟨0, .temp 9, ⟨[(2 * 128 + 3, 5)], []⟩, 0⟩] }
    let swap := demoHired (hired [swapHod] .granted (some 4) []) fun k => { k with enabled := true, running := some 9, shadow := plane5 7 }
    let b := demoHired (hired [mmaHod] .granted (some 4) []) fun k => { k with enabled := true, running := some 9, front := plane5 0xFE, pallets := [⟨0, .temp 9, ⟨[], []⟩, 0⟩] }
    let mma := { b with mem := Mem.writeBytes b.mem (bankAddr 0 0x2000) [3] }
    let e := hired [mmaHod] .granted (some 4) []
    mma.entry? 9 = some e ∧ e.nextWork = some (0, 0, none, false) ∧ mma.mayStart 4 e 0 0 false = true ∧
      (match (mma.pullAll e.view (pullLines mmaHod 0) ((mma.kiln 4).staged 9 0 0)).2.2 with | .ok => true | .demand _ _ | .fault _ _ _ | .stall => false) = true ∧
      mma.hasPallet 4 (e.holderOf mmaHod) = true ∧ (mma.kiln 4).front.matches mmaHod 0 = true ∧
      hodCol0 mmaHod + hodN mmaHod ≤ 128 ∧ ((zero.palletOf 4 (.temp 9)).cells.map (·.1)).Pairwise (· < ·) ∧
      okAnd (exec (.hodStart 9) zero) (fun t => decide ((t.palletOf 4 (.temp 9)).cell 2 3 = 0)) = true ∧
      okAnd (exec (.hodStart 9) swap) (fun t => decide ((t.kiln 4).front = plane5 7)) = true ∧
      okAnd (exec (.hodStart 9) mma) (fun t => decide ((t.palletOf 4 (.temp 9)).cell 0 0 = 0xC0C00000)) = true := by decide +kernel
/-- A LAND of row 2, columns 0 to 15, as FP32 at 0x2000. -/
def landHod : Line := words [0x8005, 0, 0, 0x2000, 64, 0, 0x00000F0200000000, 0]
theorem witness_HodsRun_end :
    let r : Run := ⟨0, 0, 69000, 70000, false, 0⟩
    let e := { hired [landHod] .granted (some 4) [r] with hod := 1 }
    let s := demoHired e fun k => { k with enabled := true, running := some 9, pallets := [⟨0, .temp 9, ⟨[(2 * 128, 0x3F800000), (2 * 128 + 15, 0x40000000)], []⟩, 0⟩] }
    let z := demoHired { e with hods := [zeroHod] } fun k => { k with enabled := true, running := some 9 }
    s.entry? 9 = some e ∧ (e.runs.find? fun r => decide (r.stop ≤ s.cycle)) = some r ∧ KMap.has e.statuses 0 = false ∧ Memory.wf s.mem = true ∧
      hodOp landHod = 5 ∧ hodM landHod = 1 ∧ hodN landHod = 16 ∧ hodD landHod ≠ 1 ∧ (∀ x ∈ s.entries, x.master = e.master → x.lane = e.lane → x.id = 9) ∧
      s.bankReady 9 0 0 0x2000 64 ∧ s.hasPallet 4 (e.holderOf landHod) = true ∧ e.lands = [] ∧ s.answers = [] ∧ hodOp zeroHod ≠ 5 ∧
      okAnd (exec (.hodEnd 9) s) (fun t => decide (Mem.readBytes t.mem (bankAddr 0 0x2000) 4 = leBytes 4 0x3F800000 ∧ Mem.readBytes t.mem (bankAddr 0 0x203C) 4 = leBytes 4 0x40000000)) = true ∧
      okAnd (exec (.hodEnd 9) z) (fun t => decide ((t.entry? 9).map (fun x => KMap.find? x.statuses 0) = some (some (0, doneValue 1000 4)))) = true := by decide +kernel
theorem witness_Inboxes_complete :
    let e := { hired [zeroHod] .granted (some 4) [] with hod := 1, statuses := [(0, (0, 77))] }
    let s := demoHired e fun k => { k with enabled := true, running := some 9 }
    ((s.land 9).entry? 9).map (fun e => KMap.find? e.statuses e.sent) = some (some (0, 77)) ∧ ((s.land 9).entry? 9).map (s.land 9).maySend = some true ∧
      okAnd (exec (.hodComplete 9) s) (fun t => decide (t.inboxMsgs.map (·.entry) = [⟨0x2900020001, 77⟩])) = true := by decide +kernel

/-! ### Engines -/

/-- A copy of one row of 128 bytes. -/
def copyDesc : Line := words [0x8000000001]
theorem witness_EngineCommands :
    let s := { demoSlot (gs [0, 0x3000, 0x2000, 0x4000]) with mem := Mem.writeBytes demo.mem (bankAddr 0 0x4000) (lineBytes copyDesc) }
    let b := { s with mem := Mem.writeBytes demo.mem (bankAddr 0 0x4000) (leBytes 8 0x4000000001) }
    let z := s.modVd 0 fun v => { v with copies := [] }
    bytesLine (Mem.readBytes s.mem (bankAddr 0 0x4000) 64) = copyDesc ∧ s.ownReady 0x4000 64 ∧ s.forward s.me s.brick (.sram 0 0x4000) 0x4000 64 = .clear ∧ s.answers = [] ∧ s.me.descr = none ∧ s.me.sb = [] ∧ s.me.ackcnt = 0 ∧
      misfit .cpy copyDesc = false ∧ misfit .cpy (words [0x4000000000]) = true ∧ dBound copyDesc = false ∧ s.me.engines < 256 ∧
      (s.engineFor s.me .cpy copyDesc).isSome = true ∧
      okAnd (exec (.cpy 6 1 2 3) s) (fun t => decide (t.cmds.map (fun c => (c.dst, c.src, c.ticket)) = [(0x3000, 0x2000, 0)] ∧ t.me.engines = 1)) = true ∧
      z.engineFor z.me .cpy copyDesc = none ∧ awayColl .cpy copyDesc = false ∧ z.me.inbox = [] ∧ z.me.overflow = [] ∧
      okAnd (exec (.cpy 6 1 2 3) z) (fun t => decide (t.cmds = [] ∧ t.me.inbox.map (·.word0) = [inboxWord 0 0 1 2])) = true ∧
      okAnd (exec (.cpy 6 1 2 3) b) (fun t => decide (t.cmds.length = 1)) = true := by decide +kernel
/-- A command of the thread. -/
def command (kind : CmdKind) (desc : Line) (phase : CmdPhase) (barrier : Option Nat) (data : List Line) : Cmd :=
  { id := 9, kind := kind, vd := 0, ctx := 1, brick := 0, slot := 0, region := 0, level := .task, space := 0, ticket := 41, engine := 0, desc := desc,
    dst := 0x3000, src := 0x2000, barrier := barrier, phase := phase, line := 0, bytes := 0, status := 0, demand := none, data := data, got := none }
theorem witness_EngineCommands_moves :
    let c := command .cpy copyDesc .queued none []
    let s := { demo with cmds := [c], mem := Mem.writeBytes demo.mem (bankAddr 0 0x2040) [1, 2, 3] }
    Memory.wf s.mem = true ∧ s.cmd? 9 = some c ∧ s.inOrder c (fun x => decide (x.phase ≠ .queued)) = true ∧ dRows copyDesc = 1 ∧ dRowlen copyDesc = 64 * 2 ∧
      (0x2000 + 64 * 2 ≤ 0x3000) ∧ s.answers = [] ∧ s.stallq = [] ∧ c.demand = none ∧ c.got = none ∧ (∀ j, j < 2 → s.bankReady 9 c.vd c.brick (c.src.toNat + 64 * j) 64 ∧ s.bankReady 9 c.vd c.brick (c.dst.toNat + 64 * j) 64) ∧
      okAnd (exec (.engineCommandStart 9) s) (fun t => decide (Mem.readBytes t.mem (bankAddr 0 0x3040) 4 = [1, 2, 3, 0] ∧ t.cmds.map (fun c => (c.phase, c.bytes)) = [(.ended, 128)])) = true := by
  decide +kernel
theorem witness_EnginesComplete :
    let c := command .cpy copyDesc .ended (some 5) []
    let p := command .pref 0 .ended (some 5) []
    let s := { demo with cmds := [c] }
    let q := { demoSlot (fun k => { k with prefs := 1 }) with cmds := [p] }
    s.cmd? 9 = some c ∧ s.inOrder c (fun _ => false) = true ∧ q.cmd? 9 = some p ∧
      okAnd (exec (.engineComplete 9) s) (fun t => decide (t.cmds = [] ∧ t.inboxMsgs.map (·.entry.word0) = [0x2900000002] ∧ t.barrierMsgs.length = 1)) = true ∧
      okAnd (exec (.prefComplete 9) q) (fun t => decide (t.cmds = [] ∧ t.me.prefs = 0)) = true := by decide +kernel
/-- A sum over .i32 in a group of three. -/
def sumDesc : Line := words [0x4000000001, 0, 0, 7, 0x300000500]
theorem witness_EnginesComplete_collectives :
    let c := command .coll sumDesc .staged none [1]
    let s := { demo with cmds := [c] }
    let g : CollInst := ⟨8, 0, 7, 64, 0, 5, 3, 1000, 0, false, [⟨7, 1, false⟩]⟩
    let o := { s with colls := [g] }
    let x := { s with colls := [{ g with rowlen := 128 }] }
    let l := { o with devHalfNs := 2000000 }
    let d := { s with colls := [{ g with stalled := true }] }
    s.cmd? 9 = some c ∧ awayColl .coll sumDesc = false ∧ s.inOrder c (fun x => !x.coming) = true ∧ (d.colls.find? fun g => decide (g.vd = 0 ∧ g.group = dGroup sumDesc)) = some { g with stalled := true } ∧ dGroup sumDesc = 7 ∧ 1 < dSize sumDesc ∧ (s.colls.find? fun g => decide (g.vd = 0 ∧ g.group = dGroup sumDesc)) = none ∧
      (o.colls.find? fun g => decide (g.vd = 0 ∧ g.group = dGroup sumDesc)) = some g ∧ g.agrees sumDesc = true ∧ g.members.length + 1 < g.size ∧
      ({ g with rowlen := 128 } : CollInst).agrees sumDesc = false ∧ g.opened + 1000 * g.patience ≤ l.devTime ∧
      okAnd (exec (.collArrive 9) s) (fun t => decide (t.colls.map (·.group) = [7])) = true ∧
      okAnd (exec (.collArrive 9) o) (fun t => decide (t.colls.map (·.members.length) = [2])) = true ∧
      okAnd (exec (.collArrive 9) d) (fun t => decide (t.inboxMsgs.map (·.entry) = [⟨inboxWord 41 0 0 4, wrap (2 + 3 * 2 ^ 16)⟩])) = true ∧
      okAnd (exec (.collArrive 9) x) (fun t => decide (t.cmds.map (·.status) = [6])) = true ∧
      okAnd (exec (.collPatienceExpiry 8) l) (fun t => decide (t.colls.map (·.stalled) = [true])) = true ∧
      lane ((collResult 0 5 [[1], [0xFFFFFFFF]]).getD 0 0) 32 0 = 0 := by decide +kernel

/-! ### Demand faults, tables, invalidations -/

/-- A demand fault of the demonstration slot, the device parked on it, and that device switched out. -/
def fault9 : Demand := ⟨9, 0, 6 * 2 ^ 30, 0x180000000, .slot 1, false⟩
def faulted : State := { demoSlot (fun k => { k with mode := .parked (.demand 9) }) with demands := [fault9] }
def faultedOut : State := faulted.modVd 0 fun v => { v with resident := false }
/-- A state in which every pseudo-channel is powered down. -/
def asleepHbm (s : State) : State := { s with pch := (List.range 768).map fun p => (p, .powerDown) }
/-- The passage of the slot's image that LONG makes. -/
def longSave (s : State) : State × Passage :=
  let l := { s with demands := s.demands.map fun (x : Demand) => if x.id = 9 then { x with long := true } else x }
  l.contextPassage imagePass 0 0 0 4096 (some (l.fullImage (s.slotAt 0).paged 0))
theorem witness_DemandFaults_long :
    let z := asleepHbm faulted
    (longSave faultedOut).2 = .done ∧ (longSave faultedOut).1.slotAt 0 = faultedOut.slotAt 0 ∧ (longSave faultedOut).1.residentOf 0 = none ∧
      faultedOut.keyOf 1 = some 0 ∧ faultedOut.demand? 9 = some fault9 ∧ (faultedOut.slotAt 0).resv = none ∧
      (faultedOut.slotAt 0).mode = .parked (.demand 9) ∧ z.demand? 9 = some fault9 ∧ (longSave z).2 = .still ∧ (longSave z).1.slotAt 0 = z.slotAt 0 ∧
      okAnd (exec (.demandFaultLong 9) z) (fun t => decide (t.me.mode = .parked (.demand 9) ∧ t.held = [])) = true := by decide +kernel
theorem test_long_out : okAnd (exec (.demandFaultLong 9) faultedOut) (fun t => decide (t.slotAt 0 = Slot.empty)) = true := by decide +kernel
theorem test_long :
    okAnd (exec (.demandFaultLong 9) faulted) (fun t => decide (t.me.mode = .free ∧ t.held.map (·.1) = [keepKey 1 0 0])) = true := by decide +kernel
theorem witness_DemandFaults :
    let d := fault9
    let s := faulted
    let st := { demoSlot (fun k => { k with sb := [⟨4, 0x180000000, 8, 1, .task, 0, none, 0, none, false, some 9⟩] }) with demands := [{ d with who := .store 1 4 }] }
    let en := { demo with demands := [{ d with who := .engine 8 }], cmds := [{ command .cpy copyDesc .queued none [] with id := 8, demand := some 9 }] }
    s.demand? 9 = some d ∧ s.keyOf 1 = some 0 ∧ (s.slotAt 0).ctx = 1 ∧ (s.slotAt 0).mode = .parked (.demand 9) ∧
      st.demand? 9 = some { d with who := .store 1 4 } ∧ en.demand? 9 = some { d with who := .engine 8 } ∧
      okAnd (exec (.demandFaultRetry 9 []) st) (fun t => decide (t.me.sb.map (·.demand) = [none])) = true ∧
      okAnd (exec (.demandFaultRetry 9 []) en) (fun t => decide (t.cmds.map (·.demand) = [none])) = true ∧
      okAnd (exec (.demandFaultFatal 9) en) (fun t => decide (t.cmds.map (·.status) = [0x20])) = true ∧
      okAnd (exec (.demandFaultRetry 9 []) s) (fun t => decide (t.me.mode = .ready ∧ t.demands = [])) = true ∧
      okAnd (exec (.demandFaultFatal 9) s) (fun t => decide (t.demands = [])) = true := by decide +kernel
theorem witness_DemandFaults_present :
    let d : Demand := { fault9 with long := true }
    let h := { demo.setSlot 0 Slot.empty with demands := [d], held := [(keepKey 1 0 0, demo.me)] }
    let b := ((h.dropDemand d).writeTables []).retryFor d
    let u := (b.contextPassage imagePass 0 0 0 4096 none).1
    (List.find? (fun (kv : Nat × Slot) => decide (kv.2.ctx = 1 ∧ kv.2.mode ≠ .halted)) b.held) = some (keepKey 1 0 0, demo.me) ∧
      (b.contextPassage imagePass 0 0 0 4096 none).2 = .done ∧ u.isResident 0 = true ∧ u.spills = [] ∧ u.arrivals = [] ∧ u.freeSlot 0 0 = some 0 ∧
      h.demand? 9 = some d ∧ h.keyOf 1 = none ∧
      okAnd (exec (.pagePresent 9 []) h) (fun t => decide (t.me.mode = .ready ∧ t.me.ctx = 1)) = true := by decide +kernel
theorem witness_DemandFaults_handler :
    let s := { demo with handlerPlaces := [(0, 0, 8 * 3, 0x100008000)] }
    let dying := s.modVd 0 fun v => { v with destroy := some none }
    (s.handlerPlaces.find? fun h => decide (h.1 = 0) && s.neremRuns) = some (0, 0, 24, 0x100008000) ∧ s.region? 0 0 = some demoRegion ∧
      demoRegion.live < demoRegion.slots ∧ s.freeSlot 0 3 = some 0 ∧ KMap.getD s.spawnq (queueKey 3 0) [] = [] ∧
      ((s.vd? 0).bind (·.destroy)).isSome = false ∧ (dying.handlerPlaces.find? fun h => decide (h.1 = 0) && dying.neremRuns) = some (0, 0, 24, 0x100008000) ∧
      ((dying.vd? 0).bind (·.destroy)).isSome = true ∧ okAnd (exec (.faultHandlerPlace 0) dying) (fun t => decide (t.handlerPlaces = [] ∧ t.slots = dying.slots)) = true ∧
      okAnd (exec (.faultHandlerPlace 0) s) (fun t => decide ((t.slotAt 24).getG 0 = 0x100008000 ∧ (t.slotAt 24).mode = .ready)) = true := by decide +kernel
theorem witness_TablesAndInvalidations :
    let i : Inval := ⟨9, some 1, 0, 3⟩
    let c : TlbEntry := ⟨0, 0, 2 ^ 32, 0x5F, 30, 0x1F, 30⟩
    let s := { demoSlot (fun k => { k with mode := .parked (.invalidation 9) }) with invals := [i], tlb := [(0, [c])] }
    let n := { demo with invals := [{ i with ctx := none }] }
    inReserve demoRoot = true ∧ inReserve 8 = false ∧ Memory.wf demo.mem = true ∧ demo.neremRuns = true ∧
      (s.invals.find? fun i => decide (i.id = 9)) = some i ∧ s.oldDone i = true ∧ (n.invals.find? fun i => decide (i.id = 9)) = some { i with ctx := none } ∧
      n.oldDone { i with ctx := none } = true ∧ s.keyOf 1 = some 0 ∧ (s.slotAt 0).mode = .parked (.invalidation 9) ∧
      (demo.tableWrites [⟨demoRoot, 0x77⟩]).layoutSound = true ∧ (demo.tableWrites [⟨demoRoot + 0x1000, 0x1F⟩]).layoutSound = false ∧
      i.meets c.space c.va c.sh = true ∧
      KMap.getD (s.discard i).tlb 0 [] = [] ∧ s.tlb ≠ [] ∧ i.vd = c.vd ∧
      okAnd (exec (.hypInvalidate 0 ⟨0x803, [⟨demoRoot, 0x77⟩]⟩) demo) (fun t => decide (Mem.readBytes t.mem demoRoot 8 = leBytes 8 0x77 ∧ t.invals.map (·.value) = [3])) = true ∧
      okAnd (exec (.invalidateComplete 9) s) (fun t => decide (t.me.mode = .ready ∧ t.invals = [])) = true := by decide +kernel

/-! ### Reset, boot, power, upkeep -/

/-- The demonstration device after a change of the boot hardware. -/
def demoBoot (f : Boot → Boot) : State := { demo with boot := f demo.boot }
theorem witness_ResetsAndBoot_rom :
    let b := { Boot.factory with slotA := none }
    let scrap := { Boot.factory with lcs := 15 }
    scrap.lcs = 15 ∧ b.lcs ≠ 15 ∧ b.slotA = none ∧ b.slotB = none ∧ b.failA = false ∧ b.failB = false ∧ scrap.rom.stage = 1 := by decide +kernel
theorem witness_ResetsAndBoot_watchdog :
    let s := demoBoot fun b => { b with stage := 3, healthBy := 0, trial := true }
    let n := demoBoot fun b => { b with stage := 5, healthBy := 0 }
    (3 ≤ s.boot.stage ∧ s.boot.stage ≤ 5 ∧ s.boot.healthBy ≤ s.devTime ∧ s.boot.trial = true) ∧
      (3 ≤ n.boot.stage ∧ n.boot.stage ≤ 5 ∧ n.boot.healthBy ≤ n.devTime ∧ n.boot.trial = false) := by decide +kernel
theorem witness_ResetsAndBoot_events :
    let rec0 := fun (i : Option Image) => demoBoot fun b => { b with stage := 0xF0, recovery := i }
    lifeForward demo.boot.lcs 4 = true ∧ lifeForward demo.boot.lcs 2 = false ∧ (rec0 none).boot.stage = 0xF0 ∧ bit (1 : Word) 0 = true ∧ bit (2 : Word) 0 = false ∧ demo.boot.stage ≠ 0xF0 ∧
      okAnd (exec (.lifeCycleChange ⟨2, 0, false⟩) (demoBoot fun b => { b with lcs := 1, nvme := [(1, [⟨5, 6⟩])] })) (fun t => decide (t.vds = [] ∧ t.slots = [])) = true ∧
      okAnd (exec (.rcmdGo 1) (rec0 none)) (fun t => decide (t.boot.errcode = 2 ∧ t.boot.stage = 0xF0)) = true ∧
      (demo.boot.stage = 4 ∨ demo.boot.stage = 5) ∧ demo.update = none ∧
      okAnd (exec .healthReport demo) (fun t => decide (t.boot.stage = 5)) = true ∧ okAnd (exec .coldReset demo) (fun t => decide (t.slots = [])) = true := by
  decide +kernel
/-- The demonstration device with an island in a state. -/
def demoIsland (i : Nat) (x : Island) (f : State → State) : State := f { demo with islands := KMap.set demo.islands i x, cycle := 50000 }
theorem witness_IslandsAndPower_start :
    let s := demoIsland 1 ⟨.off, .run, false, 0, 0⟩ id
    let later := { s with lastStart := some 40000 }
    (3 ≤ s.boot.stage ∧ s.boot.stage ≤ 5) ∧ s.lastStart = none ∧ later.lastStart = some 40000 ∧ 40000 + 10000 ≤ later.cycle ∧
      s.pending 1 = true ∧ later.pending 1 = true ∧ s.pending 0 = false ∧
      okAnd (exec (.islandStart 1) s) (fun t => decide ((t.island 1).state = .starting 50000)) = true := by decide +kernel
theorem witness_IslandsAndPower_ready :
    let s := demoIsland 8 ⟨.starting 10000, .k2, false, 0, 0⟩ id
    let some3 := fun (n : Nat) (s : State) => (List.range n).foldl (fun s k => s.modKiln k fun x => { x with enabled := true }) s
    let up := demoIsland 8 ⟨.k2, .k2, false, 49904, 0⟩ (some3 3)
    let two := demoIsland 8 ⟨.k2, .k2, false, 49904, 0⟩ (some3 2)
    let broken := demoIsland 8 ⟨.starting 10000, .k2, false, 0, 0⟩ fun s => { s with boot := { s.boot with defects := [8] } }
    (s.island 8).state = .starting 10000 ∧ 10000 + 40000 ≤ s.cycle ∧ isKilnIsland 8 = true ∧ kilnIsland 3 = 8 ∧
      (up.island (kilnIsland 3)).state ∈ [IslandState.k2, .k15, .k10] ∧ (up.island (kilnIsland 3)).readyAt + 32 * (3 % 4) ≤ up.cycle ∧
      s.boot.defects.contains 8 = false ∧ broken.boot.defects.contains 8 = true ∧ (∀ j ∈ islandKilns 8, j < 3 → (up.kiln j).enabled = true) ∧
      (two.kiln 2).enabled = false ∧ (s.island (kilnIsland 0)).readyAt + 32 * (0 % 4) ≤ s.cycle ∧
      okAnd (exec (.kilnEnable 3) two) (fun t => decide (t = two)) = true ∧
      okAnd (exec (.islandReady 8) broken) (fun t => decide (t.boot.errcode = 6)) = true ∧
      okAnd (exec (.islandReady 8) s) (fun t => decide ((t.island 8).state = .k2 ∧ (t.kiln 0).enabled = true ∧ (t.kiln 3).enabled = false)) = true ∧
      okAnd (exec (.kilnEnable 3) up) (fun t => decide ((t.kiln 3).enabled = true)) = true := by decide +kernel
theorem witness_IslandsAndPower_points :
    let s := demoIsland 0 ⟨.run, .run, false, 0, 0⟩ fun s => s.setSlot 0 Slot.empty
    let h := demoIsland 0 ⟨.hold, .run, false, 0, 0⟩ id
    let o := demoIsland 1 ⟨.run, .run, false, 0, 0⟩ fun s => { s with vds := [(0, { demoVd with subbanks := [] })], subbanks := [] }
    let k := demoIsland 8 ⟨.k2, .k10, false, 0, 0⟩ id
    let w := demoIsland 0 ⟨.hold, .run, false, 0, 0⟩ fun s => s.setSlot 0 Slot.empty
    (s.island 0).state = .run ∧ (s.slotsIn 0 fun k => decide (k.mode = .ready)) = false ∧ (h.island 0).state = .hold ∧
      (h.slotsIn 0 fun k => decide (k.mode = .ready)) = true ∧ (o.island 1).state ∈ [IslandState.run, .hold, .k2, .k15, .k10] ∧
      5 ≤ o.boot.stage ∧ o.islandUsed 1 = false ∧
      (k.island 8).state ∈ [IslandState.k2, .k15, .k10] ∧ (k.island 8).wanted ∈ [IslandState.k2, .k15, .k10] ∧ (∀ q ∈ islandKilns 8, (k.kiln q).running = none) ∧
      (w.island 0).wanted = .run ∧ (w.slotsIn 0 fun k => decide (k.mode = .ready)) = false ∧
      okAnd (exec (.islandLeaveHold 0) w) (fun t => decide ((t.island 0).state = .run)) = true ∧
      okAnd (exec (.kilnPointSwitch 2) k) (fun t => decide ((t.island 8).state = .k10)) = true := by decide +kernel
theorem witness_IslandsAndPower_samples :
    let s := demoIsland 8 ⟨.k2, .k2, false, 0, 0⟩ id
    let l := demoIsland 8 ⟨.k15, .k15, false, 0, 0⟩ fun s => { s with lastSample := some 30000 }
    s.lastSample = none ∧ l.lastSample = some 30000 ∧ 30000 + 20000 ≤ l.cycle ∧ s.toLower = some 8 ∧ l.toRaise = some 8 ∧
      okAnd (exec (.powerSample 2000001) s) (fun t => decide ((t.island 8).wanted = .k15)) = true ∧
      okAnd (exec (.powerSample 1899999) l) (fun t => decide ((t.island 8).wanted = .k2)) = true ∧
      okAnd (exec (.powerSample 2000000) s) (fun t => decide ((t.island 8).wanted = .k2)) = true ∧
      okAnd (exec (.thermalHold 0) s) (fun t => decide ((t.island 8).wanted = .k10)) = true := by decide +kernel
/-- The demonstration device with one sub-bank of brick 0 in a power state. -/
def demoSub (sb : Nat) (x : SubBank) : State := { demo with subbanks := KMap.set demo.subbanks sb x, cycle := 128000 }
theorem witness_MemoryUpkeep_sleep :
    let s := demoSub 3 ⟨true, .on, 0, 0, false⟩
    let w := demoSub 3 ⟨true, .waking, 0, 0, false⟩
    let p := demoSub 3 ⟨true, .poweringUp, 0, 0, false⟩
    let pw := { demo with pch := [(7, .waking)] }
    ((s.subHolder 3).bind s.vd? = some demoVd ∧ (s.subBank 0 3).alloc = true ∧ (s.subBank 0 3).power = .on ∧
        max (s.subBank 0 3).lastUse demoVd.created + 128000 ≤ s.cycle ∧ demoVd.phase ≠ 3 ∧ s.queueIn 0 3 = false ∧ s.acceptedIn 0 3 = false ∧ s.stallq = []) ∧
      (w.subBank 0 3).power = .waking ∧ (p.subBank 0 3).power = .poweringUp ∧ (p.island (brickIsland 0)).state = .run ∧
      s.pchState 7 = .active ∧ (pchTimers (s.stackPhase (7 / 64))).1 = some 400 ∧ (pchTimers (s.stackPhase (7 / 64))).2 = some 20000 ∧
      KMap.getD s.pchUse 7 0 + 20000 ≤ s.cycle ∧ pw.pchState 7 = .waking ∧
      okAnd (exec (.subbankRetention 0 3) s) (fun t => decide ((t.subBank 0 3).power = .retention)) = true ∧
      okAnd (exec (.pchSelfRefresh 7) s) (fun t => decide (t.pchState 7 = .selfRefresh)) = true := by decide +kernel
theorem witness_MemoryUpkeep_repairs :
    let s := demoSub 3 ⟨true, .on, 0, 8, true⟩
    let g := bankAddr 0 (3 * 2 ^ 16)
    let r := { demo with remapping := [g], rowRepair := [5], rolling := [6], w62 := [(1, ⟨9, 0⟩)] }
    (0x30000 < 2 ^ 20 ∧ 0 < 2048 ∧ (demo.subBank 0 (0x30000 / 2 ^ 16)).spares < 8) ∧ (s.subBank 0 3).noticed = true ∧ (s.subBank 0 3).power ≠ .unavailable ∧ s.neremRuns = true ∧ (demo.subBank 0 3).noticed = false ∧
      okAnd (exec (.subbankWithdraw 0 3) s) (fun t => decide ((t.subBank 0 3).power = .unavailable ∧ KMap.has t.migrated 3 = true)) = true ∧
      r.remapping.contains (bankAddr 0 (3 * 2 ^ 16 + 0 % 2 ^ 16 / 64 * 64)) = true ∧ r.remapping.Nodup ∧ r.rowRepair.any (sameRow (320 / 64)) = true ∧
      r.rolling.Nodup ∧ KMap.find? r.w62 1 = some ⟨9, 0⟩ ∧
      okAnd (exec (.patrolScrub g .uncorrectable) demo) (fun t => decide (t.poison = [g])) = true ∧
      okAnd (exec (.spareLineRemapDone 0 3 0) r) (fun t => decide (t.remapping = [] ∧ t.sparedLines = 1)) = true ∧
      okAnd (exec (.spareRowRepairDone 320) r) (fun t => decide (t.rowRepair = [] ∧ t.sparedLines = 1)) = true ∧
      okAnd (exec (.channelRebuildComplete 1) r) (fun t => decide (t.w62 = [(1, ⟨9, stackEnd⟩)])) = true := by decide +kernel
theorem witness_MemoryUpkeep_masks :
    demo.neremRuns = true ∧ demo.quarterOwned 0 0 = true ∧ demo.quarterOwned 0 3 = false ∧
      okAnd (exec (.hashmaskWrite 0 0x555555555555) demo) (fun t => decide (maskPair (t.hashMask 0) 0 = maskPair (demo.hashMask 0) 0 ∧
        maskPair (t.hashMask 0) 3 = 0x555)) = true := by decide +kernel

/-! ### Keys, windows, measurements -/

theorem witness_KeysWindowsMeasurements_keys :
    let bare := { demo with keys := [] }
    let refused := demoBoot fun b => { b with keysRefused := true }
    let gone := { demo with erasing := [⟨1, .key⟩] }
    let listed := { demo with windows := [(5, ⟨[1], [⟨0, true⟩, ⟨1, false⟩], 0, .opened, [], false, 0, none, []⟩)] }
    demo.neremRuns = true ∧ demo.vd? 0 = some demoVd ∧ bare.boot.keysAllowed = true ∧ bare.vd? 0 = some demoVd ∧ KMap.has bare.keys (0 + 1) = false ∧
      refused.boot.keysAllowed = false ∧ refused.neremRuns = true ∧ refused.vd? 0 = some demoVd ∧
      (demo.windows.any fun kv => kv.2.lists 0) = false ∧ (listed.windows.any fun kv => kv.2.lists 0) = true ∧
      okAnd (exec (.vdkey 0) bare) (fun t => decide (t.keys.length = 1)) = true ∧
      bare.beingErased 1 = false ∧ gone.erasing = [⟨0 + 1, .key⟩] ∧ gone.beingErased 1 = true ∧ gone.vd? 0 = some demoVd ∧ gone.neremRuns = true ∧
      okAnd (exec (.vderase 0) gone) (fun t => decide (t.mailbox = some (0x11, 3))) = true ∧ (gone.eraseAll).owner = [] ∧
      okAnd (exec (.vderase 0) demo) (fun t => decide (t.erasing = [⟨1, .key⟩] ∧ KMap.has t.keys 1 = false)) = true := by decide +kernel
theorem witness_KeysWindowsMeasurements_windows :
    let s := { demo with vds := [(0, demoVd), (1, { demoVd with func := 1, resident := false })] }
    let ms : List WinMember := [⟨0, true⟩, ⟨1, false⟩]
    let x : Window := ⟨[7], ms, 0, .opened, [], false, 0, none, []⟩
    let o := { s with windows := [(5, x)] }
    let k := { s with windows := [(5, { x with state := .rekey })] }
    let d := { s with windows := [(5, { x with state := .rekey, drained := true })] }
    let a := { d with written := [7 * 2 ^ 15], owner := KMap.set d.owner 7 37 }
    let e := { o with erasing := [⟨37, .window 5⟩] }
    (s.boot.keysAllowed = true ∧ (5 : Nat) < 64 ∧ s.windowFree 5 = true ∧ s.membersSound ms = true ∧ s.unitsSound [7] 0 = true ∧
        s.unitsFree [7] = true ∧ s.quotaAllows 0 [7] = true ∧ s.neremRuns = true) ∧
      KMap.find? o.windows 5 = some x ∧ o.membersSound ms = true ∧ KMap.find? k.windows 5 = some { x with state := .rekey } ∧
      KMap.find? d.windows 5 = some { x with state := .rekey, drained := true } ∧
      (∀ g ∈ d.written, d.rekeyAhead { x with state := .rekey, drained := true } [] g = false) ∧ o.beingErased 37 = false ∧ e.beingErased 37 = true ∧
      (∃ g ∈ a.written, a.rekeyAhead { x with state := .rekey, drained := true } [] g = true) ∧ KMap.find? e.windows 5 = some x ∧
      okAnd (exec (.rekeyClose 5) a) (fun t => decide (t = a)) = true ∧ (KMap.find? e.eraseAll.windows 5).map (·.state) = some .closed ∧
      okAnd (exec (.winclose 5) o) (fun t => decide (t.erasing = [⟨37, .window 5⟩])) = true ∧
      okAnd (exec (.winclose 5) e) (fun t => decide (t.mailbox = some (0x22, 3))) = true ∧
      okAnd (exec (.winopen 5 [7] ms 0) s) (fun t => decide (KMap.find? t.windows 5 = some x)) = true ∧
      okAnd (exec (.rekeyClose 5) d) (fun t => decide ((KMap.find? t.windows 5).map (·.gen) = some 0x100000000#64)) = true := by decide +kernel
theorem witness_KeysWindowsMeasurements_reports :
    demo.neremRuns = true ∧ demo.vd? 0 = some demoVd ∧ demo.vd? 1 = none ∧ demo.vds = [(0, demoVd)] := by decide +kernel

/-! ### Network and links -/

/-- A frame of 64 bytes with a destination, and the record of a rule that takes it to a queue. -/
def frame64 : List Byte := leBytes 6 0x060504030201 ++ List.replicate 58 0xAA
/-- A rule record: enable word 1 (the destination), every port, an action and a queue. -/
def recordTo (action q : Nat) : List Byte :=
  leBytes 2 1 ++ [3, BitVec.ofNat 8 action] ++ leBytes 2 q ++ leBytes 2 0 ++ leBytes 6 0x060504030201 ++ List.replicate 82 0
/-- The demonstration device with a rule and a queue of two entries of 256 bytes in brick 3. -/
def demoSteer (action : Nat) (f : State → State) : State :=
  f { demo with rules := [(20, ⟨recordTo action 9, 0⟩)], queues := [(9, ⟨0, true, 1, 8, 3, 0x1000, 0, 0, 0, 0, 0, 0⟩)] }
theorem witness_NetworkAndLinks_steering :
    let s := demoSteer 0 id
    let d := demoSteer 1 id
    let q : SteerQueue := ⟨0, true, 1, 8, 3, 0x1000, 0, 0, 0, 0, 0, 0⟩
    let full := s.setFe (q.place 0 0) true
    let found := fun (s : State) => List.find? (fun (kv : Nat × SteerRule) => ruleMatches kv.2.record 1 frame64) s.rules
    let locked := { s with locks := [(bankAddr 3 0x1040, ⟨.aboard, 0, 0⟩)] }
    let m := demoSteer 2 id
    frame64.length ≤ 9216 ∧ s.wireFree 1 frame64 = true ∧ s.entryLocked q 64 = false ∧ locked.entryLocked q 64 = true ∧ locked.feBit (q.place 0 0) = false ∧
      found locked = some (20, ⟨recordTo 0 9, 0⟩) ∧ found m = some (20, ⟨recordTo 2 9, 0⟩) ∧ 2 ≤ leAt (recordTo 2 9) 3 1 ∧
      okAnd (exec (.frameAccept 1 (List.replicate 9217 0)) s) (fun t => decide ((t.ethPort 1).oversize = 1 ∧ (t.ethPort 1).received = 0)) = true ∧
      Memory.wf s.mem = true ∧ s.fe.Nodup ∧ found demo = none ∧ found d = some (20, ⟨recordTo 1 9, 0⟩) ∧ leAt (recordTo 1 9) 3 1 = 1 ∧
      found s = some (20, ⟨recordTo 0 9, 0⟩) ∧ leAt (recordTo 0 9) 3 1 = 0 ∧ KMap.find? s.queues (leAt (recordTo 0 9) 4 2) = some q ∧ q.en = true ∧
      s.feBit (q.place q.widx 0) = false ∧ KMap.find? s.feq ((q.place q.widx 0).key / 8 * 8) = none ∧
      full.feBit (q.place q.widx 0) = true ∧ full.fe.Nodup ∧ Memory.wf full.mem = true := by decide +kernel
theorem witness_NetworkAndLinks_sleeping :
    let s := demoSteer 0 id
    let q : SteerQueue := ⟨0, true, 1, 8, 3, 0x1000, 0, 0, 0, 0, 0, 0⟩
    let asleep := s.modSub 3 0 fun x => { x with power := .retention }
    let lines := fun (s : State) => [q.place 0 0, q.place 0 0, q.place 0 64].all fun l => s.blocked s.nextId l
    s.frames = [] ∧ ([q.place 0 0, q.place 0 0, q.place 0 64].any fun l => s.blocked s.nextId l) = false ∧ lines asleep = true ∧ asleep.frames = [] ∧
      List.find? (fun (kv : Nat × SteerRule) => ruleMatches kv.2.record 1 frame64) asleep.rules = some (20, ⟨recordTo 0 9, 0⟩) ∧ KMap.find? asleep.queues 9 = some q ∧
      ((asleep.steer 1 20 ⟨recordTo 0 9, 0⟩ frame64).frames.map fun x => (x.queue, x.port, x.rule, x.seq, x.bytes)) = [(9, 1, 20, 0, frame64)] ∧
      (asleep.steer 1 20 ⟨recordTo 0 9, 0⟩ frame64).mem = asleep.mem := by decide +kernel
theorem test_steered_entry :
    let s := demoSteer 0 id
    let t := s.steer 1 20 ⟨recordTo 0 9, 0⟩ frame64
    let key := bankAddr 3 0x1000
    Mem.readBytes t.mem (key + 64) 64 = frame64 ∧ leNat (Mem.readBytes t.mem key 8) = 64 * 2 ^ 16 + 1 * 2 ^ 12 + 20 ∧
      t.feBit (.sram 3 0x1000) = true ∧ (KMap.find? t.queues 9).map (fun q => (q.widx, q.seq, q.accepted)) = some (1, 1, 1) := by decide +kernel
/-- A flit of 64 bytes of type 1 on virtual channel 2 with a sequence number. -/
def flit64 (seq : Nat) : List Byte := leBytes 2 1 ++ [2, 0] ++ leBytes 2 seq ++ List.replicate 58 0x11
theorem witness_NetworkAndLinks_flits :
    let b := demo.birtilPort 1
    let wide := leBytes 2 1 ++ [4, 0] ++ List.replicate 60 0
    let r := fun (n : Nat) => demo.setBirtil 1 { b with link := .retraining n }
    b.up = true ∧ (flit64 0).length = 64 ∧ leAt (flit64 0) 4 2 = b.rxSeq ∧ leAt (flit64 0) 0 2 = 1 ∧ b.replays < 8 ∧
      8 ≤ ((demo.setBirtil 1 { b with replays := 8 }).birtilPort 1).replays ∧ leAt (flit64 1) 4 2 ≠ b.rxSeq ∧ leAt (flit64 0) 2 1 < 4 ∧ 4 ≤ leAt wide 2 1 ∧ wide.length = 64 ∧
      ((r 8).birtilPort 1).link = .retraining 8 ∧ ((r 4).birtilPort 1).link = .retraining 4 ∧ ((r 8).msgs.all fun m => !(m.place.onPort 1)) = true ∧
      okAnd (exec (.retrainComplete 1 false) (r 8)) (fun t => decide ((t.birtilPort 1).link = .retraining 4)) = true ∧
      okAnd (exec (.retrainComplete 1 true) (r 4)) (fun t => decide ((t.birtilPort 1).link = .lanes4)) = true ∧
      okAnd (exec (.retrainComplete 1 false) (r 4)) (fun t => decide ((t.birtilPort 1).link = .down)) = true := by decide +kernel
theorem test_device_time :
    okAnd (exec (.ppsInput 1000001) demo) (fun t => decide (t.devHalfNs = 2000002 ∧ t.slew = 0)) = true ∧
    okAnd (exec (.ptpEventMessage 1 (-5)) demo) (fun t => decide (t.devHalfNs = 0 ∧ t.slew = -10 ∧ (t.ethPort 1).ptp = 1)) = true ∧
    okAnd (exec (.frameDropAtPort 1 .runt) demo) (fun t => decide ((t.ethPort 1).runts = 1 ∧ (t.ethPort 1).fcs = 0)) = true := by decide +kernel

/-! ### Host queues and requests -/

/-- The PF with its queues of 16 entries enabled at host address 0x10000, and a change of them. -/
def demoHost (f : HostFun → HostFun) : State := demo.setFun 0 (f { HostFun.atReset with qbase := 0x10000, en := true, live := true })
theorem witness_HostQueues_registers :
    let s := demoHost id
    (demo.hostFun 0).en = false ∧ (s.hostFun 0).en = true ∧ bit 0x50000#64 0 = false ∧ 4 ≤ bits 0x50000#64 19 16 ∧ bits 0x50000#64 19 16 ≤ 12 ∧
      bits 0x30000#64 19 16 < 4 ∧ bit 0x30000#64 0 = (demo.hostFun 0).en ∧ (3 : Nat) ≠ 0 ∧
      bit 0x50001#64 0 = true ∧ (s.hostFun 0).err < 256 ∧ (s.hostFun 0).log2n < 16 ∧ (s.hostRead 0 0x0108).map (fun v => bits v 0 0) = some 1 ∧
      okAnd (exec (.hostRegisterWrite 0 .qctl 0x30000) demo) (fun t => decide ((t.hostFun 0).err = 5)) = true ∧
      okAnd (exec (.hostRegisterWrite 0 .qctl 0x50001) demo) (fun t => decide ((t.hostFun 0).log2n = 5 ∧ (t.hostFun 0).en = true)) = true := by
  decide +kernel
/-- A request's header at the first entry of the PF's ring. -/
def ringHeader (h : Nat) : State := (demoHost id).hostWrite 0x10000 (leBytes 8 h)
theorem witness_HostQueues_poll :
    let s := ringHeader (2 ^ 32 + 2 ^ 16 * 1)
    let long := ringHeader (2 ^ 32 + 2 ^ 16 * 1 + 121)
    let none0 := ringHeader 0
    let wrong := ringHeader (5 * 2 ^ 32)
    let beyond := demoHost fun x => { x with qbase := 2 ^ 64 - 4096 }
    let failed := { s with answers := [.uncorrectable] }
    let x := s.hostFun 0
    let seq := fun (s : State) => nbits (s.hostWord 0x10000) 63 32
    (s.neremRuns = true ∧ s.update = none ∧ x.en = true ∧ x.err = 0 ∧ x.waiting = [] ∧ Memory.wf s.mem = true) ∧
      (x.qbase + 128 * ((x.reqCount - 1) % x.n) = 0x10000 ∧ x.reqCount % 2 ^ 32 = 1 ∧ x.reqCount ≤ x.n) ∧
      seq s = 1 ∧ nbits (s.hostWord 0x10000) 7 0 ≤ 120 ∧ seq long = 1 ∧ 120 < nbits (long.hostWord 0x10000) 7 0 ∧ Memory.wf long.mem = true ∧
      seq none0 = 0 ∧ seq wrong = 5 ∧ Memory.wf wrong.mem = true ∧ Memory.wf none0.mem = true ∧
      (beyond.hostFun 0).areaFits = false ∧ x.areaFits = true ∧ readError (s.answers.headD .sound) = false ∧ readError (failed.answers.headD .sound) = true ∧
      okAnd (exec (.queuePoll 0) beyond) (fun t => decide ((t.hostFun 0).err = 1)) = true ∧
      okAnd (exec (.queuePoll 0) failed) (fun t => decide ((t.hostFun 0).err = 4)) = true ∧
      okAnd (exec (.queuePoll 0) s) (fun t => decide ((t.hostFun 0).pending.map (fun r => (r.seq, r.op, r.len)) = [(1, 1, 0)] ∧ t.hostWord 0x11000 = 1)) = true ∧
      okAnd (exec (.queuePoll 0) wrong) (fun t => decide ((t.hostFun 0).err = 2)) = true := by decide +kernel
theorem witness_HostQueues_respond :
    let s := demoHost id
    let x := s.hostFun 0
    let tight := demoHost fun x => { x with rspCount := 17 }
    Memory.wf s.mem = true ∧ x.waiting = [] ∧ x.err = 0 ∧ (demo.hostFun 0).en = false ∧ x.en = true ∧
      x.rspCount ≤ x.n + s.hostWord (x.qbase + 256 * x.n + 8) ∧
      ¬(tight.hostFun 0).rspCount ≤ (tight.hostFun 0).n + tight.hostWord ((tight.hostFun 0).qbase + 256 * (tight.hostFun 0).n + 8) ∧
      (s.respond 0 7 2 9 []).hostWord 0x10800 = 2 ^ 32 + 2 * 2 ^ 16 + 12 := by decide +kernel
/-- A payload of 120 bytes with fields: offset in the entry, bytes and value. -/
def payload (l : List (Nat × Nat × Nat)) : List Byte :=
  l.foldl (fun p x => p.take (x.1 - 8) ++ leBytes x.2.1 x.2.2 ++ p.drop (x.1 - 8 + x.2.1)) (List.replicate 120 0)
/-- A request with SEQ 7. -/
def req7 (op len : Nat) (l : List (Nat × Nat × Nat)) : HostReq := ⟨7, op, len, payload l, 0⟩
/-- The PF, or function f with its queues enabled, with a request pending. -/
def asked (f : Nat) (r : HostReq) (s : State) : State :=
  s.setFun f { HostFun.atReset with qbase := 0x10000, en := true, live := true, pending := [r] }
theorem witness_HostRequests_simple :
    let nop := asked 0 (req7 1 0 []) demo
    let odd := asked 0 (req7 0x7F 0 []) demo
    let info := asked 0 (req7 0x30 8 [(8, 1, 0), (9, 1, 0)]) demo
    let far := asked 3 (req7 0x30 8 [(8, 1, 0), (9, 1, 0)]) demo
    nop.request? 0 7 1 = some (req7 1 0 []) ∧ odd.serves 0 = true ∧ req7 0x7F 0 [] ∈ (odd.hostFun 0).pending ∧ (req7 0x7F 0 []).seq = 7 ∧
      (req7 0x7F 0 []).op ∉ knownOps ∧ info.request? 0 7 0x30 = some (req7 0x30 8 [(8, 1, 0), (9, 1, 0)]) ∧
      infoSound (req7 0x30 8 [(8, 1, 0), (9, 1, 0)]) = true ∧ info.infoAllowed 0 (req7 0x30 8 [(8, 1, 0), (9, 1, 0)]) = true ∧
      far.request? 3 7 0x30 = some (req7 0x30 8 [(8, 1, 0), (9, 1, 0)]) ∧ far.infoAllowed 3 (req7 0x30 8 [(8, 1, 0), (9, 1, 0)]) = false ∧
      (asked 3 (req7 2 0 []) demo).request? 3 7 2 = some (req7 2 0 []) ∧ (asked 3 (req7 3 0 []) demo).request? 3 7 3 = some (req7 3 0 []) ∧
      (asked 3 (req7 0x50 0 []) demo).request? 3 7 0x50 = some (req7 0x50 0 []) ∧ (3 : Nat) ≠ 0 := by decide +kernel
/-- VDCREATE of device 2 with one slot number and one sub-bank. -/
def createReq : HostReq := req7 2 48 [(8, 1, 2), (11, 1, 1), (12, 2, 1), (48, 4, 1024)]
theorem witness_HostRequests_create :
    let s := asked 0 createReq { demo with vds := [] }
    s.request? 0 7 2 = some createReq ∧ createSound createReq = true ∧ s.vd? (createReq.at 8 1) = none ∧ s.creates 2 (createVd s createReq demoRoot 0x400000) = true ∧
      s.creates 2 (createVd s createReq 8 0x400000) = false ∧ s.boot.lcs ≠ 1 ∧
      okAnd (exec (.vdcreate 0 7 ⟨demoRoot, 0x400000⟩ []) s) (fun t => decide ((t.vd? 2).map (fun v => (v.slotNums, v.subbanks, v.hbmq, v.hbmwt, v.resident)) =
        some ([0], [0], 1024, 16, true))) = true := by decide +kernel
theorem witness_HostRequests_destroy :
    let r := req7 3 1 [(8, 1, 0)]
    let v := { demoVd with tree := none }
    let s := asked 0 r ({ demo with vds := [(0, v)] }.setSlot 0 Slot.empty)
    let e := { demo.setSlot 0 Slot.empty with vds := [(0, { v with destroy := some none, subbanks := [] })] }
    let w := { e with windows := [(5, ⟨[7], [⟨0, true⟩, ⟨1, false⟩], 0, .opened, [], false, 0, none, []⟩)] }
    let z := { e with erasing := [⟨0 + 1, .device 0⟩] }
    s.request? 0 7 3 = some r ∧ r.len = 1 ∧ r.at 8 1 < 16 ∧ s.vd? (r.at 8 1) = some v ∧ s.hasContexts (r.at 8 1) = false ∧ v.destroy = none ∧
      e.vd? 0 = some { v with destroy := some none, subbanks := [] } ∧ e.drainedOf 0 = true ∧ e.neremRuns = true ∧ (e.vds.map (·.1)).Nodup ∧
      okAnd (exec (.vddestroy 0 7) s) (fun t => decide ((t.vd? 0).bind (·.destroy) = some (some (0, 7)))) = true ∧
      (e.windows.any fun kv => kv.2.holds 0) = false ∧ e.beingErased 1 = false ∧ (w.windows.any fun kv => kv.2.holds 0) = true ∧ w.drainedOf 0 = true ∧
      (z.vds.map (·.1)).Nodup ∧ demo.hasContexts 0 = true ∧ (e.vd? 0).map (·.destroy.isSome) = some true ∧
      okAnd (exec (.vddestroyDrained 0) w) (fun t => decide (t.vds = w.vds)) = true ∧ z.eraseAll.vds = [] ∧ z.eraseAll.owner = [] ∧
      okAnd (exec (.vddestroyDrained 0) e) (fun t => decide (t.erasing = [⟨1, .device 0⟩] ∧ KMap.has t.keys 1 = false)) = true := by decide +kernel
/-- STEERSET of a rule, or of queue 9 of device 0: entries in brick 3 from an offset. -/
def ruleReq (n : Nat) : HostReq := req7 0x40 104 [(8, 1, 0), (10, 2, n), (16, 2, 1), (18, 1, 3), (34, 1, 4)]
/-- The queue's request. -/
def queueReq (off : Nat) : HostReq := req7 0x40 24 [(8, 1, 1), (10, 2, 9), (16, 1, 0), (17, 1, 1), (18, 1, 4), (19, 1, 8), (20, 2, 3), (24, 8, off)]
theorem witness_HostRequests_steering :
    let s := asked 0 (queueReq 0x1000) demo
    let far := asked 0 (queueReq (2 ^ 20)) demo
    let same := asked 0 (queueReq 0x1000) { demo with queues := [(9, ⟨0, true, 4, 8, 3, 0x1000, 7, 1, 0, 0, 0, 0⟩)] }
    let used := asked 0 (queueReq 0x2000) { demo with queues := [(9, ⟨0, true, 4, 8, 3, 0x1000, 0, 0, 0, 0, 0, 0⟩)] }
    (asked 0 (ruleReq 20) demo).request? 0 7 0x40 = some (ruleReq 20) ∧ (ruleReq 20).at 8 1 = 0 ∧ ruleSound (ruleReq 20) = true ∧ 16 ≤ (ruleReq 20).at 10 2 ∧
      ruleSound (ruleReq 15) = true ∧ (ruleReq 15).at 10 2 < 16 ∧ s.request? 0 7 0x40 = some (queueReq 0x1000) ∧ (queueReq 0x1000).at 8 1 = 1 ∧
      queueSound (queueReq 0x1000) = true ∧ s.queueFits 0 3 0x1000 (2 ^ (4 + 8)) = true ∧ s.queues = [] ∧ s.fe.Nodup ∧
      queueSound (queueReq (2 ^ 20)) = true ∧ far.queueFits 0 3 (2 ^ 20) (2 ^ (4 + 8)) = false ∧
      KMap.find? used.queues 9 = some ⟨0, true, 4, 8, 3, 0x1000, 0, 0, 0, 0, 0, 0⟩ ∧ used.queueFits 0 3 0x2000 (2 ^ (4 + 8)) = true ∧ (0x1000 : Nat) ≠ 0x2000 ∧ KMap.find? same.queues 9 = some ⟨0, true, 4, 8, 3, 0x1000, 7, 1, 0, 0, 0, 0⟩ ∧
      okAnd (exec (.steersetQueue 0 7) same) (fun t => decide (KMap.find? t.queues 9 = KMap.find? same.queues 9)) = true ∧ s.lineLocked (bankAddr 3 0x1000) = false ∧
      okAnd (exec (.steersetQueue 0 7) s) (fun t => decide ((KMap.find? t.queues 9).map (·.offset) = some 0x1000)) = true ∧
      okAnd (exec (.steersetRule 0 7) (asked 0 (ruleReq 20) demo)) (fun t => decide (KMap.has t.rules 20 = true)) = true := by decide +kernel

/-! ### Copies and trees -/

/-- A copy of 64 bytes between host address 0x9000 and an address of device 0. -/
def copyReq (op src dst : Nat) : HostReq := req7 op 32 [(8, 8, src), (16, 8, dst), (24, 1, 0), (25, 1, 0), (26, 2, 0), (32, 8, 64)]
theorem witness_CopiesAndTrees_copies :
    let l := copyReq 0x10 0x9000 0x100003000
    let f := copyReq 0x11 0x100003000 0x9000
    let bad := copyReq 0x10 0x9000 0x8000000000000000
    let s := (asked 0 l demo).hostWrite 0x9000 (List.replicate 64 0x5A)
    let b := asked 0 f demo
    let w := { s with pch := [(s.pchKey 0x3000, .waking)] }
    let rd := fun (s : State) (r : HostReq) (a : Nat) => s.readTables (copyToken 0 r.seq) (r.at 24 1) (s.copyReads r a)
    let on := fun (s : State) (r : HostReq) (a : Nat) => decide ((rd s r a).2 = none ∧ (rd s r a).1.answers = [] ∧ (rd s r a).1.stallq = [])
    copySound l = true ∧ s.named 0 (l.at 24 1) = true ∧ l.done = 0 ∧ l.at 32 8 = 64 ∧ s.request? 0 7 0x10 = some l ∧ l.seq = 7 ∧ f.seq = 7 ∧
      on s l (l.at 16 8) = true ∧ on w l (l.at 16 8) = true ∧ on b f (f.at 8 8) = true ∧ on (asked 0 bad demo) bad (bad.at 16 8) = true ∧
      (rd s l (l.at 16 8)).1.copyReach l (l.at 16 8) .write = .ok (.hbm 0x3000) 0 ∧ (rd s l (l.at 16 8)).1.linkDown (.hbm 0x3000) = false ∧ (rd s l (l.at 16 8)).1.blocked (copyToken 0 7) (.hbm 0x3000) = false ∧
      (match (rd s l (l.at 16 8)).1.writeAt 0 0 (.hbm 0x3000) 64 (bytesLine (List.replicate 64 0x5A)) with | .ok _ => true | .error _ => false) = true ∧
      (rd w l (l.at 16 8)).1.blocked (copyToken 0 7) (.hbm 0x3000) = true ∧ (rd w l (l.at 16 8)).1.closing (.hbm 0x3000) = false ∧ w.request? 0 7 0x10 = some l ∧
      okAnd (exec (.load 0 7 ⟨[], false⟩) w) (fun t => decide ((t.hostFun 0).pending.length = 1)) = true ∧
      copySound f = true ∧ b.request? 0 7 0x11 = some f ∧ (rd b f (f.at 8 8)).1.copyReach f (f.at 8 8) .read = .ok (.hbm 0x3000) 0 ∧ ((rd b f (f.at 8 8)).1.readAt 0 0 (.hbm 0x3000) 64).toBool = true ∧
      copySound bad = true ∧ (rd (asked 0 bad demo) bad (bad.at 16 8)).1.copyReach bad (bad.at 16 8) .write = .fault .address ∧
      okAnd (exec (.load 0 7 ⟨[], false⟩) s) (fun t => decide (Mem.readBytes t.mem 0x3000 64 = List.replicate 64 0x5A ∧ (t.hostFun 0).pending = [])) = true ∧
      okAnd (exec (.fetch 0 7 ⟨[], false⟩) b) (fun t => decide ((t.hostFun 0).pending = [] ∧ (t.hostFun 0).rspCount = 2)) = true := by decide +kernel
theorem witness_CopiesAndTrees_unbacked :
    let l := req7 0x10 32 [(8, 8, 0x9000), (16, 8, 0x140000000), (24, 1, 0), (25, 1, 1), (32, 8, 64)]
    let s := asked 0 l demo
    let w := s.readTables (copyToken 0 l.seq) (l.at 24 1) (s.copyReads l (l.at 16 8))
    copySound l = true ∧ s.request? 0 7 0x10 = some l ∧ w.2 = none ∧ w.1.answers = [] ∧ w.1.stallq = [] ∧ (match w.1.copyReach l (l.at 16 8) .write with | .demand ipa => decide (ipa = 0x140000000) | _ => false) = true ∧
      okAnd (exec (.load 0 7 ⟨[], true⟩) s) (fun t => decide ((t.hostFun 0).pending.length = 0)) = true ∧
      okAnd (exec (.load 0 7 ⟨[], false⟩) s) (fun t => decide ((t.hostFun 0).pending.length = 1)) = true := by decide +kernel
/-- A region control block at V-space 0x100004000: ENTRY, two arguments and HOME brick 3. -/
def demoRcb : List Byte := leBytes 8 (2 ^ 56) ++ List.replicate 24 0 ++ leBytes 8 0x100100000 ++ leBytes 8 11 ++ leBytes 8 12 ++ List.replicate 16 0 ++
  leBytes 8 3 ++ List.replicate 176 0
/-- LAUNCH or CANCEL of the tree there. -/
def treeReq (op : Nat) : HostReq := req7 op 16 [(8, 1, 0), (10, 2, 0), (16, 8, 0x100004000)]
/-- The demonstration device without a tree, its RCB in memory and a LAUNCH pending. -/
def demoLaunch (rcb : List Byte) : State :=
  asked 0 (treeReq 0x20) ((List.range 4).foldl (fun s i => s.poke 1 (.hbm (0x4000 + 64 * i)) ((rcb.drop (64 * i)).take 64))
    ({ demo with vds := [(0, { demoVd with tree := none })] }.setSlot 0 Slot.empty))
/-- How a walk ends: 0 good with a home, 1 bad at an address, 2 a page that must be backed. -/
def walkKind (w : TreeEnd) : Nat × Nat :=
  match w with
  | .ok rs => (0, (rs.map (·.home.toNat)).headD 0)
  | .bad a => (1, a.toNat)
  | .demand ipa _ => (2, ipa)
/-- The demonstration device of VDCREATE, without a tree. -/
def bareVd : VDev := { demoVd with tree := none }
/-- The reads of a tree of one control block, and where its walk then ends. -/
def treeRead (s : State) (rcb : Word) : State × Option Place := s.readTables (copyToken 0 7) 0 (s.treeReads 0 0 [⟨rcb, none, 0, 1⟩] [] 1100)
def treeWalk (s : State) (rcb : Word) : Nat × Nat := walkKind (s.walkTree 0 bareVd 0 [⟨rcb, none, 0, 1⟩] [] 1100)
/-- A refused LAUNCH's response. -/
def launchRefused (s : State) : Bool :=
  okAnd (exec (.launch 0 7 ⟨[], false⟩) s) fun t => decide (t.hostWord 0x10800 = 2 ^ 32 + 3 * 2 ^ 16 + 12)
theorem witness_CopiesAndTrees_launch :
    let s := demoLaunch demoRcb
    s.request? 0 7 0x20 = some (treeReq 0x20) ∧ launchSound (treeReq 0x20) = true ∧ s.vd? 0 = some bareVd ∧ s.named 0 0 = true ∧ bareVd.destroy = none ∧
      (treeRead s 0x100004000).2 = none ∧ (treeRead s 0x100004000).1.vd? 0 = some bareVd ∧ treeWalk (treeRead s 0x100004000).1 0x100004000 = (0, 3) ∧
      (treeRead s 0x100004000).1.freeSlot 0 3 = some 0 ∧ (treeRead s 0x100004000).1.spawnq = [] ∧ s.unwritten bareVd.launched = false := by
  decide +kernel
theorem test_launch :
    okAnd (exec (.launch 0 7 ⟨[], false⟩) (demoLaunch demoRcb)) (fun t => decide ((t.slotAt 24).mode = .ready ∧ (t.slotAt 24).pc = 0x100100000#64 ∧
      (t.slotAt 24).getG 0 = 11 ∧ (t.slotAt 24).getG 1 = 12 ∧ (t.hostFun 0).pending = [])) = true := by decide +kernel
theorem witness_CopiesAndTrees_launch_bad :
    let bad := demoLaunch (List.replicate 256 0)
    let dying := { demoLaunch demoRcb with vds := [(0, { bareVd with destroy := some none })] }
    (treeRead bad 0x100004000).2 = none ∧ (treeRead bad 0x100004000).1.vd? 0 = some bareVd ∧
      treeWalk (treeRead bad 0x100004000).1 0x100004000 = (1, 0x100004000) ∧ dying.request? 0 7 0x20 = some (treeReq 0x20) ∧
      (dying.vd? 0).map (·.destroy.isSome) = some true ∧ (asked 0 (treeReq 0x20) demo).vd? 0 = some demoVd ∧ demoVd.tree.isSome = true ∧
      launchRefused dying = true ∧ launchRefused bad = true := by decide +kernel
theorem witness_CopiesAndTrees_launch_lost :
    let lostReq := req7 0x20 16 [(8, 1, 0), (10, 2, 0), (16, 8, 0x140004000)]
    let lost := asked 0 lostReq (({ demo with vds := [(0, bareVd)] }.setSlot 0 Slot.empty).poke 1 (.hbm 0x2028) (leBytes 8 0x14000005F))
    let far := treeRead lost 0x140004000
    lost.request? 0 7 0x20 = some lostReq ∧ launchSound lostReq = true ∧ far.2 = none ∧ far.1.vd? 0 = some bareVd ∧
      treeWalk far.1 0x140004000 = (2, 0x140004000) ∧
      okAnd (exec (.launch 0 7 ⟨[], true⟩) lost) (fun t => decide (t.hostWord 0x10800 = 2 ^ 32 + 3 * 2 ^ 16 + 12)) = true := by decide +kernel
theorem witness_CopiesAndTrees_launch_waits :
    let s := demoLaunch demoRcb
    let asleep := asleepHbm s
    let late := { s with vds := [(0, { bareVd with launched := some (0, 3) })] }.modFun 0 fun x => { x with waiting := [responseEntry 3 0 0 []] }
    (treeRead asleep 0x100004000).2.isSome = true ∧ (treeRead asleep 0x100004000).1.vd? 0 = some bareVd ∧
      asleep.request? 0 7 0x20 = some (treeReq 0x20) ∧ late.unwritten (some (0, 3)) = true ∧
      okAnd (exec (.launch 0 7 ⟨[], false⟩) asleep) (fun t => decide ((t.hostFun 0).pending.length = 1 ∧ t.slots = asleep.slots)) = true ∧
      okAnd (exec (.launch 0 7 ⟨[], false⟩) late) (fun t => decide ((t.hostFun 0).pending = [] ∧ t.slots = late.slots)) = true := by decide +kernel
theorem witness_CopiesAndTrees_ends :
    let t : Tree := ⟨some (0, 7), 0, false, false, [{ demoRegion with live := 0 }]⟩
    let busy : Tree := ⟨none, 0, false, false, [demoRegion]⟩
    let s := { demo.setSlot 0 Slot.empty with vds := [(0, { demoVd with tree := some t })] }
    let c := asked 0 (treeReq 0x21) demo
    let d := (s.setFun 0 { HostFun.atReset with cancels := [(7, 0, 0)] })
    let e := (demo.setFun 0 { HostFun.atReset with cancels := [(7, 0, 0)] })
    (s.vd? 0 = some { demoVd with tree := some t } ∧ t.quiet = true ∧ s.neremRuns = true ∧ (s.handlerPlaces.all fun h => decide (h.1 ≠ 0)) = true ∧ (s.notices.all fun n => decide (n.vd ≠ 0)) = true) ∧
      (c.request? 0 7 0x21 = some (treeReq 0x21) ∧ launchSound (treeReq 0x21) = true ∧ c.named 0 0 = true ∧ (c.vd? 0).bind (·.tree) = some busy ∧
        busy.space.toNat = (treeReq 0x21).at 10 2 ∧ 0 < busy.regions.length ∧ (busy.regions[0]?).map (·.rcb.toNat) = some ((treeReq 0x21).at 16 8)) ∧
      ((d.hostFun 0).cancels.find? fun c => decide (c.1 = 7) && d.coresRun) = some (7, 0, 0) ∧ t.liveIn (t.subtree 0) = 0 ∧
      (d.vd? 0).bind (·.tree) = some t ∧ (e.vd? 0).bind (·.tree) = some busy ∧ busy.liveIn (busy.subtree 0) ≠ 0 ∧
      okAnd (exec (.launchResponse 0) s) (fun t => decide ((t.vd? 0).bind (·.tree) = none)) = true ∧
      okAnd (exec (.cancel 0 7) c) (fun t => decide ((t.hostFun 0).cancels = [(7, 0, 0)])) = true := by decide +kernel

/-! ### Updates, debug, gang switches -/

theorem witness_UpdatesAndDebug_updates :
    let r := req7 0x50 0 []
    let two := fun (s : State) => { s with boot := { s.boot with slotB := some ⟨2, 0, 64, 3⟩ } }
    let u : Update := ⟨none, true, false, 0, false, [⟨9, some 0, none, 0, false⟩], some ⟨2, 0, 64, 3⟩, none⟩
    (two (asked 0 r demo)).request? 0 7 0x50 = some r ∧ r.len = 0 ∧ (two (asked 0 r demo)).update = none ∧
      (two (asked 0 r demo)).boot.slot (!demo.boot.activeB) = some ⟨2, 0, 64, 3⟩ ∧ demo.boot.slot (!demo.boot.activeB) = none ∧ (asked 0 r demo).request? 0 7 0x50 = some r ∧
      demo.coresIdle = true ∧ { asked 0 (req7 1 0 []) demo with update := some u }.coresIdle = false ∧ { demo with update := some u }.update.isSome = true ∧
      okAnd (exec .updateHandoff { demo with update := some u }) (fun t => decide (t.update.map (·.handed) = some true)) = true ∧
      okAnd (exec .updateHealthReport { demo with update := some { u with handed := true } }) (fun t => decide (t.boot.activeB = true ∧ t.boot.img = 2 ∧ t.switches.map (·.out) = [some 0])) = true ∧
      okAnd (exec .updateHealthReport { demo with update := some { u with handed := true, fellBack := true } }) (fun t => decide (t.update = none ∧ t.boot.activeB = demo.boot.activeB)) = true ∧
      u.startedAt + 200000000 < ({ demo with devHalfNs := 400000002 } : State).devTime ∧
      okAnd (exec .updateHealthReport { demo with update := some { u with handed := true }, devHalfNs := 400000002 }) (fun t => decide (t.update.isSome = true ∧ t.boot.activeB = false)) = true ∧
      okAnd (exec .updateFallback { demo with update := some { u with handed := true }, devHalfNs := 400000000 })
        (fun t => decide (t.update.map (·.fellBack) = some true ∧ t.boot.failB = true)) = true := by decide +kernel
/-- The demonstration device with a debug server attached. -/
def debugged (f : State → State) : State := f { demo with vds := [(0, { demoVd with attached := true })] }
theorem witness_UpdatesAndDebug_debug :
    let s := debugged id
    let h := debugged fun s => s.modSlot 0 fun k => { k with haltAsked := true }
    let b := debugged fun s => s.modSlot 0 fun k => { k with haltAsked := true, sb := [⟨9, 0x2000, 8, 1, .task, 0, none, 0, none, false, none⟩] }
    let v := debugged fun s => { s.setSlot 0 Slot.empty with saved := [(keepKey 1 0 0, demo.me)] }
    let m := debugged fun s => { s.setSlot 0 Slot.empty with slots := [], migMsgs := [⟨9, 3, ⟨5, 0, Vector.replicate 16 6, 0x100100008, 0, 0, false⟩⟩] }
    let d := debugged fun s => { s.setSlot 0 Slot.empty with held := [(keepKey 1 0 0, { demo.me with mode := .halted })] }
    let asleep := { h with pch := (List.range 768).map fun p => (p, .powerDown) }
    let out := fun (s : State) => s.contextPassage imagePass 0 0 0 4096 (some (s.fullImage s.me.withdrawn.halt 0))
    let img := fun (w : Option (List Byte)) => d.passage (unitToken debugPass d.nextId) 0 (demoVd.imageAt 0 + 0x18) 8 w
    let z := { s with pch := [(s.pchKey 0x3000, .powerDown)] }
    (out h).2 = .done ∧ (out h).1.slotAt 0 = h.slotAt 0 ∧ (out asleep).2 = .still ∧ asleep.me.haltAsked = true ∧
      (d.contextPassage imagePass 0 0 0 4096 none).2 = .done ∧ (img none).2 = .done ∧ (img (some (leBytes 8 0x77))).2 = .done ∧ d.answers = [] ∧
      ((img (some (leBytes 8 0x77))).1.haltedCtx 0 1).isSome = true ∧ d.debugOps = [] ∧ s.debugOps = [] ∧ s.stallq = [] ∧ z.debugs 0 = true ∧ z.stallq = [] ∧
      z.stalled (.hbm 0x3000) = true ∧ ((z.walkReads 0 0 0x100003000).all fun r => !(z.stalled r.place)) = true ∧
      isAt (z.resolve 0 0 (BitVec.ofNat 12 0) .handler (wrap 0x100003000) .read) (.hbm 0x3000) 0 = true ∧
      okAnd (exec (.debugRead 0 (.memory 0 0x100003000)) z) (fun t => decide (t.debugReplies = [] ∧ t.debugOps = [(z.nextId, 0, .read (.memory 0 0x100003000))])) = true ∧
      okAnd (exec (.debugDetach 0) s) (fun t => decide ((t.vd? 0).map (·.attached) = some false)) = true ∧ s.answers = [] ∧ s.stalled (.hbm 0x3000) = false ∧
      ((s.walkReads 0 0 0x100003000).all fun r => !(s.stalled r.place)) = true ∧ (s.readAt 0 0 (.hbm 0x3000) 8).toBool = true ∧ (s.writeAt 0 0 (.hbm 0x3000) 8 (lineOf 0x77)).toBool = true ∧
      okAnd (exec (.debugHaltTakesEffect 0 0) asleep) (fun t => decide (t.held = [] ∧ t.me.haltAsked = true)) = true ∧
    demoVd.dbg = true ∧ demo.neremRuns = true ∧ debugAllowed demo.boot.lcs ⟨0, true, true⟩ = true ∧ debugAllowed 15 ⟨0, true, true⟩ = false ∧
      debugAllowed 2 ⟨0, false, true⟩ = false ∧ debugAllowed 3 ⟨0, true, false⟩ = false ∧ demo.vd? 0 = some demoVd ∧ s.debugs 0 = true ∧ demo.me.ctx = 1 ∧
      ((h.slotAt (8 * 0 + 0)).haltAsked = true ∧ (h.slotAt 0).ctx ≠ 0 ∧ (h.slotAt 0).mode = .ready ∧ (h.slotAt 0).resv = none ∧ (h.slotAt 0).sb = []) ∧ b.me.sb ≠ [] ∧
      okAnd (exec (.debugHaltTakesEffect 0 0) b) (fun t => decide (t.me.mode = .ready)) = true ∧
      okAnd (exec (.debugHalt 0 (some 1)) v) (fun t => decide (t.saved = [] ∧ t.held.map (fun kv => kv.2.mode) = [.halted])) = true ∧
      okAnd (exec (.debugHalt 0 (some 5)) m) (fun t => decide (t.migMsgs = [] ∧ t.held.map (fun kv => (kv.1, kv.2.mode)) = [(keepKey 5 24 0, .halted)])) = true ∧
      okAnd (exec (.debugList 0) m) (fun t => decide (t.debugReplies = [(0, [5, 24, 0, 1])])) = true ∧
      (d.debugs 0 = true ∧ d.haltedCtx 0 1 = some (keepKey 1 0 0, { demo.me with mode := .halted }) ∧ d.freeSlot 0 (keepKey 1 0 0 % 2 ^ 18 / 128) = some 0) ∧
      (s.slots = [(0, demo.me)] ∧ s.saved = [] ∧ s.held = [] ∧ s.arrivals = [] ∧ s.spills = []) ∧
      isAt (s.resolve 0 0 (BitVec.ofNat 12 0) .handler (wrap 0x100003000) .read) (.hbm 0x3000) 0 = true ∧
      okAnd (exec (.debugHaltTakesEffect 0 0) h) (fun t => decide (t.held.map (·.1) = [keepKey 1 0 0] ∧ t.me.mode = .free)) = true ∧
      okAnd (exec (.debugResume 0 1) d) (fun t => decide (t.me.mode = .ready ∧ t.held = [])) = true ∧
      okAnd (exec (.debugWrite 0 (.memory 0 0x100003000) 0x77) s) (fun t => decide (Mem.readBytes t.mem 0x3000 8 = leBytes 8 0x77)) = true ∧
      okAnd (exec (.debugWrite 0 (.image 1 0x18) 0x77) d) (fun t => decide (t.held.map (fun kv => kv.2.getG 3) = [0x77])) = true := by decide +kernel
theorem witness_GangSwitches :
    let two := { demo with vds := [(0, demoVd), (1, { demoVd with func := 1, resident := false })] }
    let w : SwitchRec := ⟨9, some 0, some 1, 0, false⟩
    let s := { two with switches := [w] }
    let gone := { s with vds := [(0, { demoVd with resident := false }), (1, { demoVd with func := 1, resident := false })] }
    two.armsNow = true ∧ two.mayArm (some 0) (some 1) = true ∧ two.mayArm (some 1) none = false ∧ s.maySwitch w.out w.inc = true ∧
      gone.maySwitch w.out w.inc = false ∧ okAnd (exec (.gangSwitch 9) gone) (fun t => decide (t.switches = [] ∧ t.vds = gone.vds)) = true ∧ (s.switches.find? fun w => decide (w.id = 9)) = some w ∧
      s.answers = [] ∧ w.taken = false ∧ w.stamp ≤ s.devTime ∧ w.out ≠ w.inc ∧ (s.slots.map (·.1)).Nodup ∧ (∀ kv ∈ s.slots, kv.1 < 2 ^ 14 ∧ kv.2.vd < 16) ∧
      s.vd? 0 = some demoVd ∧ s.me.vd = 0 ∧ s.me.ctx ≠ 0 ∧ s.me.mode ≠ .free ∧
      okAnd (exec (.gangSwitch 9) s) (fun t => decide (t.me.mode = .switching (some 1) ∧ (t.vd? 1).map (·.resident) = some true ∧
        t.saved.map (·.1) = [keepKey 1 0 0])) = true := by decide +kernel
theorem witness_SlotsHandOver :
    let s := { demoSlot (fun _ => { Slot.empty with mode := .switching none }) with saved := [(keepKey 1 0 0, demo.me)] }
    let c := { demoSlot (fun _ => { Slot.empty with mode := .switching (some 5) }) with saved := [(keepKey 1 0 0, demo.me), (keepKey 5 0 1, { demo.me with ctx := 5, vd := 1 })], vds := [(0, demoVd), (1, { demoVd with func := 1, resident := false, save := demoVd.save + 2 ^ 30 })] }
    let i := { s with saved := [(keepKey 1 0 0, { demo.me with mode := .parked (.invalidation 9) })] }
    let buffered : SbEntry := ⟨9, 0x2000, 8, 1, .task, 0, none, 0, none, false, none⟩
    let o := { c with saved := [(keepKey 5 0 1, { demo.me with ctx := 5, vd := 1, sb := [buffered] })] }
    let e := demoSlot (fun _ => { Slot.empty with mode := .switching none })
    let asleep := { c with pch := (List.range 768).map fun p => (p, .powerDown) }
    let saves := fun (s : State) => s.contextPassage imagePass 1 0 0 4096 (some (s.fullImage { demo.me with ctx := 5, vd := 1 } 0))
    let c1 := (saves c).1.setSlot 0 { Slot.empty with mode := .switching none }
    (s.contextPassage imagePass 0 0 0 4096 none).2 = .done ∧ (i.contextPassage imagePass 0 0 0 4096 none).2 = .done ∧ (saves c).2 = .done ∧
      (saves asleep).2 = .still ∧ (c1.contextPassage imagePass 0 0 0 4096 none).2 = .done ∧ c1.savedFor 0 0 = some (keepKey 1 0 0, demo.me) ∧ c1.residentOf (0 % 8) = some 0 ∧
    (s.slotAt (8 * 0 + 0)).mode = .switching none ∧ s.residentOf (0 % 8) = some 0 ∧ s.savedFor 0 0 = some (keepKey 1 0 0, demo.me) ∧ demo.me.req = none ∧
      (c.slotAt 0).mode = .switching (some 5) ∧ c.ctxOf 5 = some { demo.me with ctx := 5, vd := 1 } ∧ demo.me.saveOver = true ∧
      (i.savedFor 0 0).map (fun kv => (kv.1, kv.2.mode.onCwr, kv.2.sstep)) = some (keepKey 1 0 0, true, false) ∧
      o.ctxOf 5 = some { demo.me with ctx := 5, vd := 1, sb := [buffered] } ∧ ({ demo.me with sb := [buffered] } : Slot).saveOver = false ∧
      okAnd (exec (.slotHandover 0 0) i) (fun t => decide (t.me.mode = .ready ∧ t.me.pc = demo.me.pc + 4)) = true ∧
      okAnd (exec (.slotHandover 0 0) o) (fun t => decide (t.me.mode = .switching (some 5))) = true ∧
      e.savedFor 0 0 = none ∧ KMap.getD e.arrivals (queueKey 0 0) [] = [] ∧ KMap.getD e.spills (queueKey 0 0) [] = [] ∧
      KMap.getD e.spawnq (queueKey 0 0) [] = [] ∧
      okAnd (exec (.slotHandover 0 0) s) (fun t => decide (t.me = demo.me ∧ t.saved = [])) = true ∧
      okAnd (exec (.slotHandover 0 0) e) (fun t => decide (t.me = Slot.empty)) = true := by decide +kernel
end

section
/-!
SUPPORT. How loads and stores pass their checks, and how a read of the own bank that nothing holds back completes in its own step; LoadsOfTheOwnBank is assembled from these.
-/
namespace Sys2Proof.Machine

/-! ### The checks before an access -/

/-- An address in a range that is no multiple of the alignment (R118, R275). -/
theorem addrFault_misaligned {brick : Nat} {ea : Word} {n : Nat}
    (hr : (bankOf brick ea.toNat).isSome ∨ inVspace ea.toNat = true) (ha : ea.toNat % n ≠ 0) :
    addrFault brick ea n = some .alignment := by
  have hin : ¬ ((bankOf brick ea.toNat).isNone && !(inVspace ea.toNat)) = true := by
    rcases hr with h | h
    · simp [Option.isSome_iff_ne_none.mp h]
    · simp [h]
  rw [addrFault, if_neg hin, if_pos ha]
/-- An address in no range (R117, R275). -/
theorem addrFault_unreachable {brick : Nat} {ea : Word} (n : Nat)
    (hr : ¬ ((bankOf brick ea.toNat).isSome ∨ inVspace ea.toNat = true)) : addrFault brick ea n = some .address := by
  obtain ⟨hb, hv⟩ := not_or.mp hr
  have hout : ((bankOf brick ea.toNat).isNone && !(inVspace ea.toNat)) = true := by
    simp [Option.not_isSome_iff_eq_none.mp hb, hv]
  rw [addrFault, if_pos hout]
/-- An access to an address with a fault traps, XVAL the address. -/
theorem State.reach_fault {s : State} {ea : Word} {n : Nat} {c : Cause} {k : Access} {go : State → Place → Nat → Out}
    (h : addrFault s.brick ea n = some c) : s.reach ea n k go = .next (s.trapAt s.cur c ea) := by
  simp only [State.reach, h, State.trap]
/-- With no port bound and every source valid, the checks on w registers pass (R307). -/
theorem State.wChecks_plain {s : State} {srcs : List WReg} (d : Option WReg) (go : Out) (hu : s.me.unbound)
    (hv : s.me.valid srcs) : s.wChecks srcs d go = go := by
  obtain ⟨h0, h1, h2⟩ := hu
  have hstale : s.me.staleW srcs = none := List.find?_eq_none.mpr fun r hr => by simp [hv r hr]
  have hport : (srcs.find? fun (r : WReg) => decide (r = 7 ∧ s.me.ports[2].bound)) = none :=
    List.find?_eq_none.mpr fun r _ => by simp [h2]
  have hillegal : s.me.illegalW srcs d = none := by
    unfold Slot.illegalW
    rw [hport]
    cases d <;> simp [Slot.portOf_unbound h0 h1 h2]
  have hend : s.me.streamEnd srcs d = none := by
    simp [Slot.streamEnd, Slot.popsOf_unbound h0 h1, Slot.pushes, h2]
  simp only [State.wChecks, State.wLegal, State.notAtEnd, hstale, hillegal, hend]

/-! ### LD and ST past the checks of their w registers -/

/-- A load that pushes nothing reaches its place and is made there. -/
theorem execLd_reaches {s : State} {m : LdMode} (r b : GReg) (i : BitVec 14) (hu : m = .l → s.me.unbound) :
    execLd m r b i s = s.reach (eaM s.me b i) m.size .read fun s' p win =>
      s'.loadFrom (mkReq (.ld m) (eaM s.me b i) p win r.val 0 0) m.size := by
  by_cases hm : m = .l
  · have hpush : s.me.pushes (some (toW r)) = false := by simp [Slot.pushes, (hu hm).2.2]
    simp [execLd, hm, State.wChecks_plain _ _ (hu hm) (List.forall_mem_nil _), hpush]
  · simp only [execLd, if_neg hm]
/-- A store whose w register is valid and no port traps at issue when its address has a fault (R278). -/
theorem execSt_fault {s : State} {n : StMode} {r b : GReg} {i : BitVec 14} {c : Cause}
    (hw : n = .l → s.me.unbound ∧ s.me.wValid (toW r) = true) (h : addrFault s.brick (eaM s.me b i) n.size = some c) :
    execSt n r b i s = .next (s.trapAt s.cur c (eaM s.me b i)) := by
  by_cases hn : n = .l
  · obtain ⟨hu, hv⟩ := hw hn
    subst hn
    rw [execSt, if_pos rfl, State.wChecks_plain _ _ hu (List.forall_mem_singleton.mpr hv)]
    simp only [show addrFault s.brick (eaM s.me b i) 64 = some c from h, State.trap]
  · simp only [execSt, if_neg hn, State.storeValue, h, State.trap]

/-! ### Reading the own bank -/

/-- The machine once the current slot has read its own bank at an offset: the sub-bank was used, and the access waits no longer. -/
abbrev State.ownRead (s : State) (off : Nat) : State := (s.touch (.sram s.brick off)).unstall s.me.ctx
/-- Nothing holds back a load of `n` bytes of the own bank: it is aligned, its bytes are ready, and no own store or update comes before it. -/
abbrev State.ownClear (s : State) (ea : Word) (n : Nat) : Prop :=
  ea.toNat % n = 0 ∧ s.ownReady ea.toNat n ∧ s.forward s.me s.brick (.sram s.brick ea.toNat) ea n = .clear

/-- With no answer of the media laid down an access goes on in the machine as it is. -/
theorem State.looking_sound {s : State} {vd win : Nat} {p : Place} {size : Nat} {wr whole : Bool} {go : State → Out}
    (h : s.answers = []) : s.looking vd win p size wr whole go = go s := by
  simp [State.looking, State.look, h]
/-- A read of ready bytes of the own bank answers those bytes. -/
theorem State.readPerform_own {s : State} {off n : Nat} (h : s.ownReady off n) {q : Request} (hp : q.place = .sram s.brick off) :
    s.readPerform s.me.vd q n =
      (s.touch (.sram s.brick off), .done (bytesLine (Mem.readBytes s.mem (bankAddr s.brick off) n))) := by
  simp only [State.readPerform, State.readAt, hp, State.homeFault_own h]
  rfl
/-- A request served at once completes with the registers that the reply changes. -/
theorem State.served_done (s : State) (q : Request) (v : Line) :
    s.served { q with stage := .done v } = .next (s.after (s.me.reply q.kind q.reg v)) := rfl
/-- A read of the own bank that nothing holds back completes in its own step (log entry 15); the kind of its request is one that reads `n` bytes. -/
theorem State.reach_read_own {s : State} {kind : ReqKind} {ea : Word} {n : Nat} (reg : Nat)
    (hkind : ∀ p win, s.perform s.me (mkReq kind ea p win reg 0 0) = s.readPerform s.me.vd (mkReq kind ea p win reg 0 0) n)
    (ha : s.answers = []) (h : s.ownClear ea n) :
    (s.reach ea n .read fun s p win => s.loadFrom (mkReq kind ea p win reg 0 0) n) =
      .next ((s.ownRead ea.toNat).after ((s.ownRead ea.toNat).me.reply kind reg
        (bytesLine (Mem.readBytes s.mem (bankAddr s.brick ea.toNat) n)))) := by
  obtain ⟨haligned, hready, hclear⟩ := h
  have hplace : (mkReq kind ea (.sram s.brick ea.toNat) 0 reg 0 0).place = .sram s.brick ea.toNat := rfl
  have hea : (mkReq kind ea (.sram s.brick ea.toNat) 0 reg 0 0).ea = ea := rfl
  simp only [State.reach_own hready.1 haligned, State.loadFrom, hplace, hea, hclear, State.request, State.atHand_own hready,
    if_pos, State.looking_sound ha, hkind, State.readPerform_own hready hplace]
  exact State.served_done _ _ _
/-- A load of the own bank that an own buffered store covers completes with the bytes of that store (R155). -/
theorem State.reach_forwarded_own {s : State} {kind : ReqKind} {ea : Word} {n : Nat} {v : Line} (reg : Nat)
    (hlt : ea.toNat < 2 ^ 20) (haligned : ea.toNat % n = 0)
    (hbytes : s.forward s.me s.brick (.sram s.brick ea.toNat) ea n = .bytes v) :
    (s.reach ea n .read fun s p win => s.loadFrom (mkReq kind ea p win reg 0 0) n) =
      .next (s.after (s.me.reply kind reg v)) := by
  have hplace : (mkReq kind ea (.sram s.brick ea.toNat) 0 reg 0 0).place = .sram s.brick ea.toNat := rfl
  have hea : (mkReq kind ea (.sram s.brick ea.toNat) 0 reg 0 0).ea = ea := rfl
  simp only [State.reach_own hlt haligned, State.loadFrom, hplace, hea, hbytes]
  exact State.served_done _ _ _

/-! ### The registers that a load writes -/

/-- The low word of a line made of bytes. -/
@[simp] theorem lowWord_bytesLine (bs : List Byte) : lowWord (bytesLine bs) = BitVec.ofNat 64 (leNat bs) :=
  BitVec.eq_of_toNat_eq (by simp [lowWord, bytesLine])
/-- The reply of a load of a small form or of a word goes to a g register, extended (R277). -/
theorem Slot.reply_ld (k : Slot) {m : LdMode} (hm : m ≠ .l) (r : GReg) (v : Line) :
    k.reply (.ld m) r.val v = k.setG r (m.extend (lowWord v)) := by
  simp only [Slot.reply, Fin.ofNat_val_eq_self]
  cases m
  case l => exact absurd rfl hm
  all_goals rfl
/-- The reply of a line load goes to a w register (R277). -/
theorem Slot.reply_ld_line (k : Slot) (r : GReg) (v : Line) : k.reply (.ld .l) r.val v = k.setW (Fin.ofNat 8 r.val) v := by
  simp only [Slot.reply, Fin.ofNat_val_eq_self, Slot.load, toW]
/-- The reply of LDR goes to a g register and drops what ports hold ahead (R276, R279). -/
theorem Slot.reply_ldr (k : Slot) (r : GReg) (v : Line) : k.reply .ldr r.val v = (k.setG r (lowWord v)).dropAhead := by
  simp only [Slot.reply, Fin.ofNat_val_eq_self]
/-- The reply of ZLD goes to a z register (R324). -/
theorem Slot.reply_zld (k : Slot) (z : ZReg) (v : Line) : k.reply .zld z.val v = k.setZ z v := by
  simp only [Slot.reply, Fin.ofNat_val_eq_self]

/-! ### The instructions -/

section
variable {s : State} {b : GReg} {i : BitVec 14}

/-- LD of a small form or of a word from the own bank (R277). -/
theorem exec_ld_own {m : LdMode} (r : GReg) (hm : m ≠ .l) (ha : s.answers = []) (h : s.ownClear (eaM s.me b i) m.size) :
    exec (.ld m r b i) s = .next ((s.ownRead (eaM s.me b i).toNat).after ((s.ownRead (eaM s.me b i).toNat).me.setG r
      (m.extend (BitVec.ofNat 64 (leNat (Mem.readBytes s.mem (bankAddr s.brick (eaM s.me b i).toNat) m.size)))))) := by
  rw [← lowWord_bytesLine, ← Slot.reply_ld _ hm, ← State.reach_read_own r.val (fun _ _ => rfl) ha h]
  exact execLd_reaches r b i fun e => absurd e hm
/-- LD of a line from the own bank, with no port bound (R277). -/
theorem exec_ld_line_own (r : GReg) (hu : s.me.unbound) (ha : s.answers = []) (h : s.ownClear (eaM s.me b i) 64) :
    exec (.ld .l r b i) s = .next ((s.ownRead (eaM s.me b i).toNat).after ((s.ownRead (eaM s.me b i).toNat).me.setW
      (Fin.ofNat 8 r.val) (bytesLine (Mem.readBytes s.mem (bankAddr s.brick (eaM s.me b i).toNat) 64)))) := by
  rw [← Slot.reply_ld_line, ← State.reach_read_own r.val (fun _ _ => rfl) ha h]
  exact execLd_reaches (m := .l) r b i fun _ => hu
/-- LDR from the own bank (R279). -/
theorem exec_ldr_own (r : GReg) (ha : s.answers = []) (h : s.ownClear (eaM s.me b i) 8) :
    exec (.ldr r b i) s = .next ((s.ownRead (eaM s.me b i).toNat).after ((s.ownRead (eaM s.me b i).toNat).me.setG r
      (BitVec.ofNat 64 (leNat (Mem.readBytes s.mem (bankAddr s.brick (eaM s.me b i).toNat) 8)))).dropAhead) := by
  rw [← lowWord_bytesLine, ← Slot.reply_ldr, ← State.reach_read_own r.val (fun _ _ => rfl) ha h]
  rfl
/-- ZLD from the own bank (R324). -/
theorem exec_zld_own {j : BitVec 11} (z : ZReg) (ha : s.answers = []) (h : s.ownClear (eaZ s.me b j) 64) :
    exec (.zld z b j) s = .next ((s.ownRead (eaZ s.me b j).toNat).after ((s.ownRead (eaZ s.me b j).toNat).me.setZ z
      (bytesLine (Mem.readBytes s.mem (bankAddr s.brick (eaZ s.me b j).toNat) 64)))) := by
  rw [← Slot.reply_zld, ← State.reach_read_own z.val (fun _ _ => rfl) ha h]
  rfl
/-- LD of a small form or of a word that an own buffered store covers (R155). -/
theorem exec_ld_forwarded {m : LdMode} {v : Line} (r : GReg) (hm : m ≠ .l) (haligned : (eaM s.me b i).toNat % m.size = 0)
    (hlt : (eaM s.me b i).toNat < 2 ^ 20)
    (hbytes : s.forward s.me s.brick (.sram s.brick (eaM s.me b i).toNat) (eaM s.me b i) m.size = .bytes v) :
    exec (.ld m r b i) s = .next (s.after (s.me.setG r (m.extend (lowWord v)))) := by
  rw [← Slot.reply_ld _ hm, ← State.reach_forwarded_own r.val hlt haligned hbytes]
  exact execLd_reaches r b i fun e => absurd e hm
/-- LD of an address with a fault traps, XVAL the address (R117, R118). -/
theorem exec_ld_fault {m : LdMode} {c : Cause} (r : GReg) (hu : m = .l → s.me.unbound)
    (h : addrFault s.brick (eaM s.me b i) m.size = some c) :
    exec (.ld m r b i) s = .next (s.trapAt s.cur c (eaM s.me b i)) :=
  (execLd_reaches r b i hu).trans (State.reach_fault h)

end

/-- Settles O23: loads of the own bank complete by `State.reach_read_own` and `State.reach_forwarded_own`, and bad addresses trap by what `addrFault` answers. -/
theorem loadsOfTheOwnBank : Obligations.LoadsOfTheOwnBank := by
  unfold Obligations.LoadsOfTheOwnBank
  refine ⟨fun s b r i z j ha => ⟨?_, ?_, ?_, ?_, ?_⟩, fun _ => ⟨rfl, rfl, rfl, rfl, rfl⟩, fun s b r i m n hm hn => ⟨?_, ?_, ?_⟩⟩
  · exact fun m hm h => exec_ld_own r hm ha h
  · exact fun h => exec_ldr_own r ha h
  · exact fun hu h => exec_ld_line_own r hu ha h
  · exact fun h => exec_zld_own z ha h
  · exact fun m v hm haligned hlt hbytes => exec_ld_forwarded r hm haligned hlt hbytes
  · exact fun hr hbad => exec_ld_fault r hm (addrFault_misaligned hr hbad)
  · exact fun hr hbad => execSt_fault hn (addrFault_misaligned hr hbad)
  · exact fun hr => ⟨exec_ld_fault r hm (addrFault_unreachable m.size hr), execSt_fault hn (addrFault_unreachable n.size hr)⟩

end Sys2Proof.Machine
end

section
/-!
SUPPORT. What a reset leaves, what the boot ROM and the monitor choose, and the events of the watchdog, the life cycle and recovery; ResetLeaves and ResetsAndBoot are assembled from these.
-/
namespace Sys2Proof.Machine

/-! ### What a reset leaves -/

/-- Settles O8: at reset every map and list is empty, so every reading of the state gives the value that an absent key stands for. -/
theorem resetLeaves : Obligations.ResetLeaves := by
  unfold Obligations.ResetLeaves
  have hform : State.reset.Formed :=
    ⟨Memory.wf_reset, List.Pairwise.nil, List.Pairwise.nil, List.Pairwise.nil, List.Pairwise.nil, List.Pairwise.nil, List.Pairwise.nil⟩
  exact ⟨fun _ h => absurd h List.not_mem_nil, hform, fun _ => rfl, rfl, rfl, rfl, rfl, rfl, rfl, rfl, rfl, rfl, rfl, rfl, rfl,
    fun _ => rfl, fun _ => rfl, fun _ => rfl, fun _ => ⟨rfl, rfl, rfl, rfl⟩, fun _ => rfl, Memory.wf_reset⟩

/-! ### The wipe and the boot ROM -/

/-- Listing the failed stacks in the health log changes the log alone. -/
theorem State.log_all_eq (sts : List Nat) (s : State) :
    ∃ l, sts.foldl (fun s st => s.log .stackFailed st) s = { s with healthLog := l } := by
  induction sts generalizing s with
  | nil => exact ⟨s.healthLog, rfl⟩
  | cons st rest ih => exact ih (s.log .stackFailed st)
/-- A device reset is the wipe with a fresh firmware-reserve key and the boot ROM, and its lines in the health log. -/
theorem State.deviceReset_eq (s : State) :
    ∃ l, s.deviceReset =
      { s.wiped with nextId := s.nextId + 1, keys := [(0, s.nextId)], boot := s.boot.atReset.rom, healthLog := l } :=
  State.log_all_eq s.wiped.failedStacks _
/-- After a reset the boot hardware stands where the boot ROM leaves it. -/
@[simp] theorem State.deviceReset_boot (s : State) : s.deviceReset.boot = s.boot.atReset.rom := by
  obtain ⟨l, h⟩ := s.deviceReset_eq
  rw [h]
@[simp] theorem State.deviceReset_slots (s : State) : s.deviceReset.slots = [] := by
  obtain ⟨l, h⟩ := s.deviceReset_eq
  rw [h]; rfl
@[simp] theorem State.deviceReset_vds (s : State) : s.deviceReset.vds = [] := by
  obtain ⟨l, h⟩ := s.deviceReset_eq
  rw [h]; rfl
/-- A reset keeps the cells above SRAM and HBM and no other. -/
theorem State.deviceReset_mem (s : State) : s.deviceReset.mem = Mem.blankRange s.mem 0 (2 ^ 64) := by
  obtain ⟨l, h⟩ := s.deviceReset_eq
  rw [h]
  simp only [State.wiped, Mem.blankRange, Nat.not_lt_zero, decide_false, Bool.false_or]

/-- What the monitor, choosing an image, leaves of the fuses and the flash (R28). -/
abbrev Boot.Kept (b r : Boot) : Prop :=
  r.lcs = b.lcs ∧ r.minMonitor = b.minMonitor ∧ r.minNerem = b.minNerem ∧ r.slotA = b.slotA ∧ r.slotB = b.slotB ∧
    r.monitor = b.monitor ∧ r.nvme = b.nvme ∧ r.activeB = b.activeB ∧ r.trial = b.trial ∧ r.failA = b.failA ∧ r.failB = b.failB

/-- Is a slot's image one that the monitor runs: valid, with its failure flag clear (R28)? -/
def Boot.good (b : Boot) (second : Bool) : Bool :=
  match b.slot second with
  | some i => b.accepts b.minNerem i && !(b.failed second)
  | none => false
/-- The slot that the monitor chooses: the active one when it is good, else the other when that is (R28). -/
def Boot.choice (b : Boot) : Option Bool :=
  if b.good b.activeB then some b.activeB else if b.good (!b.activeB) then some (!b.activeB) else none

/-- Trying a slot finds its image when the slot is good, and ERRCODE stands. -/
theorem Boot.trySlot_good {b : Boot} {second : Bool} (h : b.good second = true) :
    ∃ i, b.slot second = some i ∧ b.trySlot second = (some i, b.errcode) := by
  unfold Boot.good at h
  cases hs : b.slot second with
  | none => simp [hs] at h
  | some i =>
    simp only [hs, Bool.and_eq_true, Bool.not_eq_true'] at h
    exact ⟨i, rfl, by simp [Boot.trySlot, h.2, hs, h.1]⟩
/-- Trying a slot that is not good finds nothing. -/
theorem Boot.trySlot_bad {b : Boot} {second : Bool} (h : b.good second = false) : ∃ e, b.trySlot second = (none, e) := by
  unfold Boot.good at h
  unfold Boot.trySlot
  cases hf : b.failed second with
  | true => exact ⟨_, rfl⟩
  | false =>
    cases hs : b.slot second with
    | none => exact ⟨_, rfl⟩
    | some i =>
      simp only [hs, hf, Bool.not_false, Bool.and_true] at h
      exact ⟨_, by simp only [h]; rfl⟩
/-- Trying an empty slot whose flag is clear shows that slot's ERRCODE. -/
theorem Boot.trySlot_empty {b : Boot} {second : Bool} (hf : b.failed second = false) (hs : b.slot second = none) :
    b.trySlot second = (none, errImage second) := by
  simp [Boot.trySlot, hf, hs]
/-- ERRCODE bears on no slot. -/
theorem Boot.good_errcode (b : Boot) (e : Nat) (second : Bool) : { b with errcode := e }.good second = b.good second := by
  cases second <;> rfl

/-- When the monitor has a choice, that slot's image runs. -/
theorem Boot.monitorChooses_some {b : Boot} {second : Bool} (h : b.choice = some second) :
    ∃ i e, b.slot second = some i ∧ b.monitorChooses = { b with errcode := e }.runs second i := by
  unfold Boot.choice at h
  cases hactive : b.good b.activeB with
  | true =>
    obtain ⟨i, hs, htry⟩ := Boot.trySlot_good hactive
    obtain rfl : b.activeB = second := by simpa [hactive] using h
    exact ⟨i, b.errcode, hs, by simp only [Boot.monitorChooses, htry]⟩
  | false =>
    obtain ⟨hother, rfl⟩ : b.good (!b.activeB) = true ∧ (!b.activeB) = second := by simpa [hactive] using h
    obtain ⟨e, htry⟩ := Boot.trySlot_bad hactive
    obtain ⟨i, hs, htry'⟩ := Boot.trySlot_good ((b.good_errcode e _).trans hother)
    refine ⟨i, e, hs, ?_⟩
    simp only [Boot.monitorChooses, htry, htry']
/-- When the monitor has no choice, the part is in recovery (R28, Table 1.7). -/
theorem Boot.monitorChooses_none {b : Boot} (h : b.choice = none) :
    b.monitorChooses =
      { b with errcode := ({ b with errcode := (b.trySlot b.activeB).2 }.trySlot (!b.activeB)).2, stage := 0xF0 } := by
  unfold Boot.choice at h
  obtain ⟨hactive, hother⟩ : b.good b.activeB = false ∧ b.good (!b.activeB) = false := by
    cases hactive : b.good b.activeB <;> cases hother : b.good (!b.activeB) <;> simp [hactive, hother] at h ⊢
  obtain ⟨e, htry⟩ := Boot.trySlot_bad hactive
  obtain ⟨e', htry'⟩ := Boot.trySlot_bad ((b.good_errcode e _).trans hother)
  simp only [Boot.monitorChooses, htry, htry']
/-- The monitor's choice leaves fuses, flash and what the ROM has measured. -/
theorem Boot.monitorChooses_kept (b : Boot) : b.Kept b.monitorChooses ∧ b.monitorChooses.monitorMeasured = b.monitorMeasured := by
  cases hc : b.choice with
  | some second =>
    obtain ⟨i, e, _, h⟩ := Boot.monitorChooses_some hc
    rw [h]
    exact ⟨⟨rfl, rfl, rfl, rfl, rfl, rfl, rfl, rfl, rfl, rfl, rfl⟩, rfl⟩
  | none =>
    rw [Boot.monitorChooses_none hc]
    exact ⟨⟨rfl, rfl, rfl, rfl, rfl, rfl, rfl, rfl, rfl, rfl, rfl⟩, rfl⟩
/-- The boot hardware as the ROM hands it to a monitor that it has verified. -/
def Boot.verified (b : Boot) : Boot := { b with stage := 2, monitorMeasured := some b.monitor }
/-- The ROM halts in SCRAP (Table 1.5). -/
theorem Boot.rom_scrap {b : Boot} (h : b.lcs = 15) : b.rom = { b with stage := 1 } := by simp [Boot.rom, h]
/-- The ROM hands over to a monitor that it accepts (R27). -/
theorem Boot.rom_accepted {b : Boot} (h : b.lcs ≠ 15) (hm : b.accepts b.minMonitor b.monitor = true) :
    b.rom = b.verified.monitorChooses := by
  have hm' : Boot.accepts { b with stage := 1 } b.minMonitor b.monitor = true := hm
  simp [Boot.rom, h, hm', Boot.verified]
/-- The ROM stays in its stage with a monitor that it refuses (R27; log entry 65). -/
theorem Boot.rom_refused {b : Boot} (h : b.lcs ≠ 15) (hm : b.accepts b.minMonitor b.monitor = false) :
    b.rom = { b with stage := 1, errcode := 1 } := by
  have hm' : Boot.accepts { b with stage := 1 } b.minMonitor b.monitor = false := hm
  simp [Boot.rom, h, hm', errMonitor]
/-- The boot ROM leaves fuses and flash. -/
theorem Boot.rom_kept (b : Boot) : b.Kept b.rom := by
  by_cases h : b.lcs = 15
  · rw [Boot.rom_scrap h]
    exact ⟨rfl, rfl, rfl, rfl, rfl, rfl, rfl, rfl, rfl, rfl, rfl⟩
  · cases hm : b.accepts b.minMonitor b.monitor with
    | true =>
      rw [Boot.rom_accepted h hm]
      exact b.verified.monitorChooses_kept.1
    | false =>
      rw [Boot.rom_refused h hm]
      exact ⟨rfl, rfl, rfl, rfl, rfl, rfl, rfl, rfl, rfl, rfl, rfl⟩
/-- A reset leaves fuses and flash. -/
theorem State.deviceReset_kept (s : State) : s.boot.Kept s.deviceReset.boot := by
  rw [State.deviceReset_boot]
  exact Boot.rom_kept s.boot.atReset
/-- With both slots empty and no failure flag set, ERRCODE shows the slot tried last (log entry 12). -/
theorem Boot.monitorChooses_empty {b : Boot} (hA : b.slotA = none) (hB : b.slotB = none) (fA : b.failA = false) (fB : b.failB = false) :
    b.monitorChooses.errcode = if b.activeB then 2 else 3 := by
  have hslot : ∀ second, b.slot second = none := fun second => by cases second <;> simp [Boot.slot, hA, hB]
  have hfail : ∀ second, b.failed second = false := fun second => by cases second <;> simp [Boot.failed, fA, fB]
  have hnone : b.choice = none := by simp [Boot.choice, Boot.good, hslot]
  rw [Boot.monitorChooses_none hnone]
  have hlast : ({ b with errcode := (b.trySlot b.activeB).2 }.trySlot (!b.activeB)).2 = errImage (!b.activeB) := by
    rw [Boot.trySlot_empty (b := { b with errcode := (b.trySlot b.activeB).2 }) (hfail _) (hslot _)]
  simp only [hlast, errImage]
  cases b.activeB <;> rfl


/-! ### Watchdog, life cycle, recovery and health -/

/-- A watchdog that is due resets the device (R28). -/
theorem execWatchdogReset_due {s : State} (h3 : 3 ≤ s.boot.stage) (h5 : s.boot.stage ≤ 5) (hlate : s.boot.healthBy ≤ s.devTime) :
    execWatchdogReset s = .next (State.deviceReset { s with boot := s.boot.missed }) := if_pos ⟨h3, h5, hlate⟩
/-- A missed report fails the active slot when it is on trial (R28). -/
theorem Boot.missed_failed {b : Boot} (h : b.trial = true) : b.missed.failed b.activeB = true := by
  unfold Boot.missed
  rw [if_pos h]
  cases hb : b.activeB <;> rfl
/-- A life-cycle change that may be made blows the fuse, erases the namespaces and resets (R25). -/
theorem execLifeCycleChange_allowed {s : State} {n token : Nat} {owner : Bool} (h : lifeAllowed s.boot.lcs n token owner = true) :
    execLifeCycleChange ⟨n, token, owner⟩ s = .next (State.deviceReset { s with
      boot := { s.boot with keysRefused := true, lcs := n, nvme := s.boot.nvme.map fun kv => (kv.1, []) } }) := if_pos h
theorem execLifeCycleChange_denied {s : State} {n token : Nat} {owner : Bool} (h : lifeAllowed s.boot.lcs n token owner = false) :
    execLifeCycleChange ⟨n, token, owner⟩ s = .next s := by simp [execLifeCycleChange, h]
/-- RCMD outside recovery, or without GO, does nothing (R30). -/
theorem execRcmdGo_idle {s : State} {v : Word} (h : s.boot.stage ≠ 0xF0 ∨ bit v 0 = false) : execRcmdGo v s = .next s := if_pos h
section
variable {s : State} {v : Word} (h : s.boot.stage = 0xF0) (hgo : bit v 0 = true)
include h hgo
/-- RCMD with GO in recovery installs a valid image of the recovery buffer and resets (R30). -/
theorem execRcmdGo_valid {i : Image} (hrec : s.boot.recovery = some i) (hacc : s.boot.accepts s.boot.minNerem i = true) :
    execRcmdGo v s = .next (State.deviceReset { s with boot := s.boot.install i }) := by
  simp [execRcmdGo, h, hgo, hrec, hacc]
/-- RCMD with GO in recovery refuses an image that is not valid (R30). -/
theorem execRcmdGo_invalid {i : Image} (hrec : s.boot.recovery = some i) (hacc : s.boot.accepts s.boot.minNerem i = false) :
    execRcmdGo v s = .next { s with boot := { s.boot with errcode := s.boot.refusal false i } } := by
  simp [execRcmdGo, h, hgo, hrec, hacc]
/-- RCMD with GO in recovery finds no image in an empty recovery buffer (R30). -/
theorem execRcmdGo_empty (hrec : s.boot.recovery = none) :
    execRcmdGo v s = .next { s with boot := { s.boot with errcode := 2 } } := by
  simp [execRcmdGo, h, hgo, hrec, errImage]
end
/-- A refused recovery image shows the ERRCODE of slot A or of its rollback index (log entry 65). -/
theorem Boot.refusal_slotA (b : Boot) (i : Image) : b.refusal false i = 2 ∨ b.refusal false i = 4 := by
  unfold Boot.refusal
  split
  · exact .inr rfl
  · exact .inl rfl

/-- Settles O51: a reset is the wipe and the boot ROM (`State.deviceReset_eq`), the monitor's choice is `Boot.choice`, and the other events are read off their definitions. -/
theorem resetsAndBoot : Obligations.ResetsAndBoot := by
  unfold Obligations.ResetsAndBoot
  refine ⟨fun s => ⟨?_, ?_, ?_, ?_⟩, fun b => ⟨?_, ?_⟩, fun s => ⟨?_, ?_, ?_, ?_, ?_⟩⟩
  · intro i hi
    simp only [List.mem_cons, List.not_mem_nil, or_false] at hi
    rcases hi with rfl | rfl | rfl | rfl <;> rfl
  · intro a ha
    rw [State.deviceReset_mem, Mem.read_blankRange_in _ ⟨Nat.zero_le a, ha⟩]
  · intro a ha
    rw [State.deviceReset_mem, Mem.read_blankRange_out _ (.inr ha)]
  · obtain ⟨hlcs, hmm, hmn, hA, hB, hmon, hnvme, -⟩ := s.deviceReset_kept
    obtain ⟨l, h⟩ := s.deviceReset_eq
    simp only [hlcs, hmm, hmn, hA, hB, hmon, hnvme]
    rw [h]
    simp only [State.wiped, State.reset, and_self]
  · intro h
    rw [Boot.rom_scrap h]
    exact ⟨rfl, rfl⟩
  · intro h
    cases hm : b.accepts b.minMonitor b.monitor with
    | false =>
      rw [Boot.rom_refused h hm]
      exact ⟨rfl, rfl⟩
    | true =>
      rw [Boot.rom_accepted h hm]
      refine ⟨b.verified.monitorChooses_kept.2, ?_, fun hA hB fA fB => Boot.monitorChooses_empty (b := b.verified) hA hB fA fB⟩
      have hchoice : b.verified.choice = b.choice := rfl
      change match b.choice with
        | some second => _ ∧ _ ∧ _
        | none => _ ∧ _
      cases hc : b.choice with
      | some second =>
        obtain ⟨i, e, hs, hr⟩ := Boot.monitorChooses_some (hchoice.trans hc)
        rw [hr]
        exact ⟨rfl, rfl, hs.symm⟩
      | none =>
        rw [Boot.monitorChooses_none (hchoice.trans hc)]
        exact ⟨rfl, rfl⟩
  · intro h3 h5 hlate
    exact ⟨_, execWatchdogReset_due h3 h5 hlate, rfl, Boot.missed_failed, fun h => if_neg (by simp [h])⟩
  · intro n token owner
    refine ⟨fun hf hrma => ?_, fun hf => ?_, fun hn hno => ?_⟩
    · have hallowed : lifeAllowed s.boot.lcs n token owner = true := by
        by_cases hn : n = 4
        · simp [lifeAllowed, hf, hrma hn]
        · simp [lifeAllowed, hf, hn]
      refine ⟨_, execLifeCycleChange_allowed hallowed, ?_⟩
      obtain ⟨hlcs, -, -, -, -, -, hnvme, -⟩ := State.deviceReset_kept { s with
        boot := { s.boot with keysRefused := true, lcs := n, nvme := s.boot.nvme.map fun kv => (kv.1, []) } }
      refine ⟨hlcs, fun kv hkv => ?_, State.deviceReset_slots _, State.deviceReset_vds _⟩
      rw [hnvme] at hkv
      obtain ⟨x, -, rfl⟩ := List.mem_map.mp hkv
      rfl
    · exact execLifeCycleChange_denied (by simp [lifeAllowed, hf])
    · refine execLifeCycleChange_denied ?_
      rcases hno with h | h <;> simp [lifeAllowed, hn, h]
  · exact fun v h => execRcmdGo_idle h
  · intro v h hgo
    cases hrec : s.boot.recovery with
    | none => exact ⟨_, execRcmdGo_empty h hgo hrec, rfl, h, rfl⟩
    | some img =>
      cases hacc : s.boot.accepts s.boot.minNerem img with
      | false =>
        refine ⟨_, execRcmdGo_invalid h hgo hrec hacc, ?_⟩
        simp only [hacc, Bool.false_eq_true, if_false]
        exact ⟨trivial, h, s.boot.refusal_slotA img⟩
      | true =>
        refine ⟨_, execRcmdGo_valid h hgo hrec hacc, ?_⟩
        simp only [hacc, if_true]
        obtain ⟨-, -, -, hA, -, -, -, hactive, -, fA, fB⟩ := State.deviceReset_kept { s with boot := s.boot.install img }
        exact ⟨hA, fA, fB, hactive, State.deviceReset_slots _⟩
  · intro h hu
    refine ⟨_, if_pos ⟨h, ?_⟩, rfl, rfl, rfl, rfl⟩
    simp [hu]

end Sys2Proof.Machine
end

section
/-!
SUPPORT. Islands and kilns after a change of one of them, and the islands that the power limit lowers and raises; IslandsAndPower is assembled from these.
-/
namespace Sys2Proof.Machine

/-! ### Changing an island or a kiln -/

@[simp] theorem State.island_modIsland_self (s : State) (i : Nat) (f : Island → Island) : (s.modIsland i f).island i = f (s.island i) :=
  KMap.getD_set_self _ _ _ _
theorem State.island_modIsland_ne (s : State) {i j : Nat} (f : Island → Island) (h : j ≠ i) : (s.modIsland i f).island j = s.island j :=
  KMap.getD_set_ne _ _ _ h
@[simp] theorem State.kiln_modKiln_self (s : State) (k : Nat) (f : Kiln → Kiln) : (s.modKiln k f).kiln k = f (s.kiln k) :=
  KMap.getD_set_self _ _ _ _
theorem State.kiln_modKiln_ne (s : State) {k j : Nat} (f : Kiln → Kiln) (h : j ≠ k) : (s.modKiln k f).kiln j = s.kiln j :=
  KMap.getD_set_ne _ _ _ h
/-- An event that changes one island and nothing else leaves the other islands, the slots and memory. -/
theorem State.modIsland_only (s : State) (i : Nat) (f : Island → Island) :
    (∀ j, j ≠ i → (s.modIsland i f).island j = s.island j) ∧ (s.modIsland i f).slots = s.slots ∧ (s.modIsland i f).mem = s.mem :=
  ⟨fun _ hj => s.island_modIsland_ne f hj, rfl, rfl⟩

/-! ### Starting (R18, R19) -/

/-- A kiln whose time has come is enabled (R19). -/
theorem State.enableKiln_due {s : State} {k : Nat} (hup : (s.island (kilnIsland k)).state ∈ [IslandState.k2, .k15, .k10])
    (htime : (s.island (kilnIsland k)).readyAt + 32 * (k % 4) ≤ s.cycle)
    (hbefore : ∀ j ∈ islandKilns (kilnIsland k), j < k → (s.kiln j).enabled = true) :
    s.enableKiln k = s.modKiln k fun q => { q with enabled := true } := by
  have hall : (((islandKilns (kilnIsland k)).filter fun j => decide (j < k)).all fun j => (s.kiln j).enabled) = true := by
    simp only [List.all_eq_true, List.mem_filter, decide_eq_true_eq]
    exact fun j hj => hbefore j hj.1 hj.2
  simp only [List.mem_cons, List.not_mem_nil, or_false] at hup
  rcases hup with h | h | h <;> simp only [State.enableKiln, h, hall, htime, decide_true, Bool.and_self, if_true]
/-- A kiln whose time has not come, or that waits for one before it, stays (R19). -/
theorem State.enableKiln_early {s : State} {k : Nat} (h : s.cycle < (s.island (kilnIsland k)).readyAt + 32 * (k % 4) ∨
    ∃ j ∈ islandKilns (kilnIsland k), j < k ∧ (s.kiln j).enabled = false) : s.enableKiln k = s := by
  refine if_neg ?_
  simp only [Bool.and_eq_true, decide_eq_true_eq, List.all_eq_true, List.mem_filter]
  rintro ⟨⟨-, htime⟩, hbefore⟩
  rcases h with hlate | ⟨j, hj, hlt, hoff⟩
  · omega
  · simp [hbefore j ⟨hj, hlt⟩] at hoff
/-- Enabling a kiln leaves islands, slots, memory and the boot hardware. -/
theorem State.enableKiln_frame (s : State) (k : Nat) : (s.enableKiln k).islands = s.islands ∧ (s.enableKiln k).slots = s.slots ∧
    (s.enableKiln k).mem = s.mem ∧ (s.enableKiln k).boot = s.boot := by
  have hcases : s.enableKiln k = s.modKiln k (fun q => { q with enabled := true }) ∨ s.enableKiln k = s := ite_eq_or_eq _ _ _
  rcases hcases with h | h
  all_goals rw [h]; exact ⟨rfl, rfl, rfl, rfl⟩
/-- Reaching stage 0x04 changes the boot hardware alone. -/
theorem State.allReady_eq (s : State) : ∃ b, s.allReady = { s with boot := b } := by
  unfold State.allReady
  split
  · split <;> exact ⟨_, rfl⟩
  · exact ⟨s.boot, rfl⟩
/-- The first of a kiln island's kilns belongs to it. -/
theorem kilnIsland_first {i : Nat} (h : isKilnIsland i = true) : kilnIsland ((islandKilns i).headD 0) = i := by
  have hhead : (islandKilns i).headD 0 = 32 * (i / 16) + 4 * (i % 8) + 0 := rfl
  simp only [isKilnIsland, decide_eq_true_eq] at h
  rw [hhead, kilnIsland]
  omega
/-- The first of a kiln island's kilns is enabled as soon as the island is ready: no kiln comes before it. -/
theorem State.enableKiln_first {s : State} {i : Nat} (h : isKilnIsland i = true) (hup : (s.island i).state ∈ [IslandState.k2, .k15, .k10])
    (htime : (s.island i).readyAt ≤ s.cycle) : ((s.enableKiln ((islandKilns i).headD 0)).kiln ((islandKilns i).headD 0)).enabled = true := by
  have hhead : (islandKilns i).headD 0 = 32 * (i / 16) + 4 * (i % 8) + 0 := rfl
  have hisl := kilnIsland_first h
  rw [State.enableKiln_due (hisl.symm ▸ hup)]
  · rw [State.kiln_modKiln_self]
  · rw [hisl, hhead]
    omega
  · intro j hj hlt
    rw [hisl, islandKilns] at hj
    obtain ⟨x, -, rfl⟩ := List.mem_map.mp hj
    omega
/-- The point that an island takes as it becomes ready (R18, R17). -/
def Island.firstPoint (x : Island) (isl : Nat) : IslandState := if isKilnIsland isl then (if x.held then .k10 else .k2) else .run
/-- The machine once an island is ready, before its first kiln is enabled. -/
def State.islandUp (s : State) (isl : Nat) : State :=
  s.modIsland isl fun x => { x with state := (s.island isl).firstPoint isl, wanted := (s.island isl).firstPoint isl, readyAt := s.cycle }
/-- The machine once an island is ready: its first kiln is enabled, and the last island brings stage 0x04. -/
def State.readied (s : State) (isl : Nat) : State :=
  (if isKilnIsland isl then (s.islandUp isl).enableKiln ((islandKilns isl).headD 0) else s.islandUp isl).allReady
/-- An island that becomes ready takes its first point, and no other island, no slot and no memory changes; a kiln island's first kiln is enabled (R18, R19). -/
theorem State.readied_spec (s : State) (isl : Nat) :
    ((s.readied isl).island isl).state = (if isKilnIsland isl then (if (s.island isl).held then .k10 else .k2) else .run) ∧
      ((s.readied isl).island isl).readyAt = s.cycle ∧ (∀ j, j ≠ isl → (s.readied isl).island j = s.island j) ∧
      (s.readied isl).slots = s.slots ∧ (s.readied isl).mem = s.mem ∧
      (isKilnIsland isl = true → ((s.readied isl).kiln ((islandKilns isl).headD 0)).enabled = true) := by
  have hself : (s.islandUp isl).island isl = _ := s.island_modIsland_self isl _
  have hne : ∀ j, j ≠ isl → (s.islandUp isl).island j = s.island j := fun j hj => s.island_modIsland_ne _ hj
  cases hk : isKilnIsland isl with
  | false =>
    obtain ⟨b, hb⟩ := (s.islandUp isl).allReady_eq
    have hr : s.readied isl = { s.islandUp isl with boot := b } := by rw [State.readied, hk, ← hb]; rfl
    rw [hr]
    refine ⟨(congrArg Island.state hself).trans ?_, congrArg Island.readyAt hself, hne, rfl, rfl, fun h => by cases h⟩
    simp only [Island.firstPoint, hk]
  | true =>
    obtain ⟨b, hb⟩ := ((s.islandUp isl).enableKiln ((islandKilns isl).headD 0)).allReady_eq
    have hr : s.readied isl = { (s.islandUp isl).enableKiln ((islandKilns isl).headD 0) with boot := b } := by
      rw [State.readied, hk, ← hb]; rfl
    obtain ⟨hislands, hslots, hmem, -⟩ := (s.islandUp isl).enableKiln_frame ((islandKilns isl).headD 0)
    have hisland : ∀ j, (s.readied isl).island j = (s.islandUp isl).island j := fun j => by
      rw [hr]
      exact congrArg (fun m => KMap.getD m j Island.dark) hislands
    rw [hisland, hself]
    refine ⟨?_, rfl, fun j hj => (hisland j).trans (hne j hj), by rw [hr]; exact hslots, by rw [hr]; exact hmem, fun _ => ?_⟩
    · simp only [Island.firstPoint, hk]
    · rw [hr]
      refine State.enableKiln_first hk ?_ ?_
      · rw [hself]
        simp only [Island.firstPoint, hk, if_true]
        split <;> simp
      · rw [hself]
        exact Nat.le_refl _
/-- An island that is sound becomes ready 40,000 cycles after its start (R18). -/
theorem execIslandReady_due {s : State} {isl c : Nat} (h : (s.island isl).state = .starting c) (hc : c + 40000 ≤ s.cycle)
    (hd : s.boot.defects.contains isl = false) :
    execIslandReady isl s = .next (s.readied isl) := by
  simp only [execIslandReady, h, if_neg (Nat.not_lt.mpr hc), hd]
  rfl
/-- An island that is broken shows ERRCODE 0x06 (Table 1.7). -/
theorem execIslandReady_broken {s : State} {isl c : Nat} (h : (s.island isl).state = .starting c) (hc : c + 40000 ≤ s.cycle)
    (hd : s.boot.defects.contains isl = true) : execIslandReady isl s = .next { s with boot := { s.boot with errcode := 6 } } := by
  simp only [execIslandReady, h, if_neg (Nat.not_lt.mpr hc), hd, if_true]
theorem execIslandReady_early {s : State} {isl c : Nat} (h : (s.island isl).state = .starting c) (hc : s.cycle < c + 40000) :
    execIslandReady isl s = .next s := by simp only [execIslandReady, h, if_pos hc]
/-- The machine with an island starting. -/
def State.islandStarting (s : State) (isl : Nat) : State :=
  s.modIsland isl fun x => { x with state := .starting s.cycle, clock := s.cycle }
theorem State.islandStarting_self (s : State) (isl : Nat) :
    (s.islandStarting isl).island isl = { s.island isl with state := .starting s.cycle, clock := s.cycle } :=
  s.island_modIsland_self isl _
/-- An island starts when it is the lowest that asks and the last start lies 10,000 cycles back (R18). -/
theorem execIslandStart_due {s : State} {isl : Nat} (h3 : 3 ≤ s.boot.stage) (h5 : s.boot.stage ≤ 5)
    (hapart : s.lastStart = none ∨ ∃ c, s.lastStart = some c ∧ c + 10000 ≤ s.cycle) (hp : s.pending isl = true)
    (hlow : ∀ j, j < isl → s.pending j = false) :
    execIslandStart isl s = .next { s.islandStarting isl with lastStart := some s.cycle } := by
  have hall : ((List.range isl).all fun j => !(s.pending j)) = true := by
    simpa [List.all_eq_true] using hlow
  rcases hapart with hl | ⟨c, hl, hc⟩
  · simp only [execIslandStart, hl, h3, h5, hp, hall, and_self, decide_true, Bool.and_self, if_true, State.islandStarting]
  · simp only [execIslandStart, hl, hc, h3, h5, hp, hall, and_self, decide_true, Bool.and_self, if_true, State.islandStarting]

/-! ### HOLD and OFF (R14, R185), and points (R15) -/

/-- An island that is up, and that nothing uses, goes OFF (R14). -/
theorem execIslandEnterOff_due {s : State} {isl : Nat} (hon : (s.island isl).state ∈ [IslandState.run, .hold, .k2, .k15, .k10])
    (hused : s.islandUsed isl = false) (h5 : 5 ≤ s.boot.stage) :
    execIslandEnterOff isl s = .next ((s.darken isl).modIsland isl fun x => { x with state := .off, wanted := .off }) := by
  simp only [List.mem_cons, List.not_mem_nil, or_false] at hon
  rcases hon with h | h | h | h | h <;>
    simp only [execIslandEnterOff, h, hused, h5, Bool.not_false, decide_true, Bool.and_self, if_true]
/-- A kiln island whose kilns are idle takes the point that is asked for (R15). -/
theorem execKilnPointSwitch_due {s : State} {k : Nat} (hstate : (s.island (kilnIsland k)).state ∈ [IslandState.k2, .k15, .k10])
    (hwanted : (s.island (kilnIsland k)).wanted ∈ [IslandState.k2, .k15, .k10])
    (hidle : ∀ q ∈ islandKilns (kilnIsland k), (s.kiln q).running = none) :
    execKilnPointSwitch k s = .next (s.modIsland (kilnIsland k) fun x => { x with state := x.wanted }) := by
  have hall : ((islandKilns (kilnIsland k)).all fun q => decide ((s.kiln q).running = none)) = true := by
    simpa only [List.all_eq_true, decide_eq_true_eq] using hidle
  simp only [List.mem_cons, List.not_mem_nil, or_false] at hstate hwanted
  simp only [execKilnPointSwitch, hall, hstate, hwanted, decide_true, Bool.and_self, if_true]

/-! ### The power limit (R16) -/

/-- The lower of two kiln islands in class, as POWER_SAMPLE goes through them. -/
def State.lowerClass (s : State) (best : Option Nat) (i : Nat) : Option Nat :=
  match best with
  | some b => if s.islandClass b < s.islandClass i then some i else some b
  | none => some i
/-- What is found going through some islands has a class at least as low as each of them and as what was found before. -/
theorem State.foldl_lowerClass (s : State) (l : List Nat) : ∀ {best : Option Nat} {i : Nat}, l.foldl s.lowerClass best = some i →
    (∀ j ∈ l, s.islandClass j ≤ s.islandClass i) ∧ ∀ b, best = some b → s.islandClass b ≤ s.islandClass i := by
  induction l with
  | nil =>
    intro best i h
    exact ⟨fun j hj => absurd hj List.not_mem_nil, fun b hb => by rw [Option.some.inj (hb.symm.trans h)]⟩
  | cons x rest ih =>
    intro best i h
    obtain ⟨hrest, hbest⟩ := ih h
    have hstep : s.islandClass x ≤ s.islandClass i ∧ ∀ b, best = some b → s.islandClass b ≤ s.islandClass i := by
      cases best with
      | none => exact ⟨hbest x rfl, fun b hb => by cases hb⟩
      | some b =>
        by_cases hlt : s.islandClass b < s.islandClass x
        · have hx := hbest x (if_pos hlt)
          exact ⟨hx, fun b' hb' => by cases hb'; omega⟩
        · have hb := hbest b (if_neg hlt)
          exact ⟨by omega, fun b' hb' => by cases hb'; exact hb⟩
    exact ⟨List.forall_mem_cons.mpr ⟨hstep.1, hrest⟩, hstep.2⟩
/-- The island to lower is of the lowest class among those that can be lowered (R16). -/
theorem State.toLower_lowest {s : State} {i : Nat} (h : s.toLower = some i) :
    ∀ j ∈ kilnIslands, (s.island j).wanted = .k2 ∨ (s.island j).wanted = .k15 → s.islandClass j ≤ s.islandClass i := by
  intro j hj hw
  refine (s.foldl_lowerClass _ (best := none) h).1 j (List.mem_filter.mpr ⟨hj, decide_eq_true hw⟩)
/-- The island to raise is not held (R16, R17). -/
theorem State.toRaise_free {s : State} {i : Nat} (h : s.toRaise = some i) : (s.island i).held = false := by
  have hfound := List.find?_some h
  simp only [Bool.and_eq_true, Bool.not_eq_true'] at hfound
  exact hfound.1
/-- The last 100 samples with one more (R16). -/
def State.samplesWith (s : State) (mw : Nat) : List Nat := (s.powerSamples ++ [mw]).drop (s.powerSamples.length + 1 - 100)
/-- The machine with one more sample. -/
def State.sampled (s : State) (mw : Nat) : State := { s with powerSamples := s.samplesWith mw, lastSample := some s.cycle }
/-- Change the island that a choice names, if it names one. -/
def State.modChosen (s : State) (o : Option Nat) (f : Island → Island) : State :=
  match o with
  | some i => s.modIsland i f
  | none => s
/-- Changing a chosen island changes at most islands, and no other island than the chosen one. -/
theorem State.modChosen_frame (s : State) (o : Option Nat) (f : Island → Island) :
    (s.modChosen o f).powerSamples = s.powerSamples ∧ (s.modChosen o f).lastSample = s.lastSample ∧
      (s.modChosen o f).mem = s.mem ∧ (s.modChosen o f).slots = s.slots ∧
      ∀ i, o = some i → (s.modChosen o f).island i = f (s.island i) ∧ ∀ j, j ≠ i → (s.modChosen o f).island j = s.island j := by
  cases o with
  | none => exact ⟨rfl, rfl, rfl, rfl, fun i h => by cases h⟩
  | some x =>
    refine ⟨rfl, rfl, rfl, rfl, fun i h => ?_⟩
    cases h
    exact ⟨s.island_modIsland_self x f, fun j hj => s.island_modIsland_ne f hj⟩
/-- A sample that is due is kept, and the average lowers an island, raises one, or leaves them (R16). -/
theorem execPowerSample_due {s : State} {mw : Nat} (h : s.lastSample = none ∨ ∃ c, s.lastSample = some c ∧ c + 20000 ≤ s.cycle) :
    execPowerSample mw s = .next (
      if 2000000 * (s.samplesWith mw).length < (s.samplesWith mw).sum then
        (s.sampled mw).modChosen s.toLower fun x => { x with wanted := x.wanted.lower }
      else if (s.samplesWith mw).sum < 1900000 * (s.samplesWith mw).length then
        (s.sampled mw).modChosen s.toRaise fun x => { x with wanted := x.wanted.raise }
      else s.sampled mw) := by
  have hxs : (s.powerSamples ++ [mw]).drop ((s.powerSamples ++ [mw]).length - 100) = s.samplesWith mw := by
    rw [List.length_append]; rfl
  have hlower : State.toLower { s with powerSamples := s.samplesWith mw, lastSample := some s.cycle } = s.toLower := rfl
  have hraise : State.toRaise { s with powerSamples := s.samplesWith mw, lastSample := some s.cycle } = s.toRaise := rfl
  have hdue : (match s.lastSample with | some c => decide (c + 20000 ≤ s.cycle) | none => true) = true := by
    rcases h with h | ⟨c, h, hc⟩
    · rw [h]
    · simp only [h, hc, decide_true]
  unfold execPowerSample
  simp only [hxs, ← List.sum_eq_foldl, hlower, hraise]
  refine (if_neg (ne_true_of_eq_false (congrArg not hdue))).trans ?_
  split
  · cases s.toLower <;> rfl
  · split
    · cases s.toRaise <;> rfl
    · rfl

/-! ### The thermal hold (R17) -/

/-- Changing islands one after another, from a number up, changes each of them once. -/
theorem State.island_foldl_modIsland (s : State) (lo i n : Nat) (f : Island → Island) :
    ((List.range n).foldl (fun (s : State) j => s.modIsland (lo + j) f) s).island i =
      if lo ≤ i ∧ i < lo + n then f (s.island i) else s.island i := by
  induction n with
  | zero => rw [if_neg (by omega)]; rfl
  | succ n ih =>
    rw [List.range_succ, List.foldl_append, List.foldl_cons, List.foldl_nil]
    by_cases hi : i = lo + n
    · subst hi
      rw [State.island_modIsland_self, ih, if_neg (by omega), if_pos (by omega)]
    · rw [State.island_modIsland_ne _ _ hi, ih]
      exact if_congr (by omega) rfl rfl
/-- Changing islands changes nothing but islands. -/
theorem State.foldl_modIsland_frame (s : State) (lo n : Nat) (f : Island → Island) :
    ((List.range n).foldl (fun (s : State) j => s.modIsland (lo + j) f) s).mem = s.mem ∧
      ((List.range n).foldl (fun (s : State) j => s.modIsland (lo + j) f) s).slots = s.slots := by
  induction n with
  | zero => exact ⟨rfl, rfl⟩
  | succ n ih =>
    rw [List.range_succ, List.foldl_append]
    exact ih
/-- What a thermal hold does to an island. -/
def Island.holdPoint (x : Island) : Island :=
  { x with held := true, wanted := match x.wanted with | .k2 | .k15 => .k10 | w => w }
/-- A held island asks for no point above K10. -/
theorem Island.holdPoint_low (x : Island) : x.holdPoint.wanted ∉ [IslandState.k2, .k15] := by
  unfold Island.holdPoint
  cases x.wanted <;> simp
/-- THERMAL_HOLD holds the eight kiln islands of the die. -/
theorem execThermalHold_eq (die : Nat) (s : State) : execThermalHold die s =
    .next ((List.range 8).foldl (fun (s : State) j => s.modIsland (16 * die + 8 + j) Island.holdPoint) s) := rfl

/-! ### The obligation -/

/-- Settles O52: each event is what its `_due` lemma says, and an island or kiln that it changes reads so while the others read as before. -/
theorem islandsAndPower : Obligations.IslandsAndPower := by
  unfold Obligations.IslandsAndPower
  refine ⟨fun s isl => ⟨?_, ?_, ?_, ?_, ?_, ?_⟩, fun s isl => ⟨?_, ?_, ?_, ?_⟩, fun s mw hdue => ?_, fun s die => ?_⟩
  · intro h3 h5 hapart hp hlow
    refine ⟨_, execIslandStart_due h3 h5 hapart hp hlow, ?_, ?_, rfl, rfl, rfl, fun j hj => KMap.getD_set_ne _ _ _ hj⟩
    · exact congrArg Island.state (s.islandStarting_self isl)
    · exact congrArg Island.clock (s.islandStarting_self isl)
  · intro c h hc hd
    exact ⟨_, execIslandReady_due h hc hd, s.readied_spec isl⟩
  · exact fun c h hc hd => execIslandReady_broken h hc hd
  · exact fun c h hc => execIslandReady_early h hc
  · intro k hup htime hbefore
    refine ⟨_, congrArg Host.Outcome.next (State.enableKiln_due hup htime hbefore), ?_, fun j hj => s.kiln_modKiln_ne _ hj, rfl⟩
    rw [State.kiln_modKiln_self]
  · exact fun k h => congrArg Host.Outcome.next (State.enableKiln_early h)
  · intro h hready
    refine ⟨_, if_pos ⟨h, by simp [hready]⟩, ⟨?_, s.modIsland_only isl _⟩, ?_⟩
    all_goals rw [State.island_modIsland_self]
  · intro h hwake
    refine ⟨_, if_pos ⟨h, hwake.symm⟩, ⟨?_, s.modIsland_only isl _⟩, ?_⟩
    all_goals rw [State.island_modIsland_self]
  · intro hon hused h5
    refine ⟨_, execIslandEnterOff_due hon hused h5, ⟨?_, (s.darken isl).modIsland_only isl _⟩, ?_, ?_⟩
    · rw [State.island_modIsland_self]
    · exact fun kv hkv => of_decide_eq_true (List.mem_filter.mp hkv).2
    · exact fun kv hkv => of_decide_eq_true (List.mem_filter.mp hkv).2
  · rintro k rfl hstate hwanted hidle
    refine ⟨_, execKilnPointSwitch_due hstate hwanted hidle, ?_, s.modIsland_only _ _⟩
    rw [State.island_modIsland_self]
  · change ∃ t : State, execPowerSample mw s = _ ∧ t.powerSamples = s.samplesWith mw ∧ _
    rw [execPowerSample_due hdue]
    by_cases hover : 2000000 * (s.samplesWith mw).length < (s.samplesWith mw).sum
    · obtain ⟨hxs, hlast, hmem, hslots, hisl⟩ := (s.sampled mw).modChosen_frame s.toLower fun x => { x with wanted := x.wanted.lower }
      rw [if_pos hover]
      refine ⟨_, rfl, hxs, hlast, hmem, hslots, fun _ i hi => ?_, fun h => absurd h ?_, fun _ h => absurd h (Nat.not_le.mpr hover)⟩
      · exact ⟨congrArg Island.wanted (hisl i hi).1, (hisl i hi).2, State.toLower_lowest hi⟩
      · have hlow : 1900000 * (s.samplesWith mw).length ≤ (s.samplesWith mw).sum := by omega
        exact Nat.not_lt.mpr hlow
    · rw [if_neg hover]
      by_cases hunder : (s.samplesWith mw).sum < 1900000 * (s.samplesWith mw).length
      · obtain ⟨hxs, hlast, hmem, hslots, hisl⟩ := (s.sampled mw).modChosen_frame s.toRaise fun x => { x with wanted := x.wanted.raise }
        rw [if_pos hunder]
        refine ⟨_, rfl, hxs, hlast, hmem, hslots, fun h => absurd h hover, fun _ i hi => ?_, fun h => absurd h (Nat.not_le.mpr hunder)⟩
        exact ⟨congrArg Island.wanted (hisl i hi).1, State.toRaise_free hi, (hisl i hi).2⟩
      · rw [if_neg hunder]
        exact ⟨_, rfl, rfl, rfl, rfl, rfl, fun h => absurd h hover, fun h => absurd h hunder, fun _ _ => rfl⟩
  · refine ⟨_, execThermalHold_eq die s, (s.foldl_modIsland_frame _ 8 _).1, (s.foldl_modIsland_frame _ 8 _).2, fun j hj => ?_, fun i hi => ?_⟩
    · rw [State.island_foldl_modIsland, if_pos (by omega)]
      exact ⟨rfl, Island.holdPoint_low _⟩
    · rw [State.island_foldl_modIsland, if_neg (by omega)]

end Sys2Proof.Machine
end

section
/-!
SUPPORT. What the ends of threads and fault notices leave of the memories: bytes, full/empty bits, poison, and the count of corrected errors.
-/
namespace Sys2Proof.Machine

/-- A fold of steps that each keep what a view shows keeps it. -/
theorem foldl_view {α β γ : Type} (v : γ → β) {f : γ → α → γ} (h : ∀ s a, v (f s a) = v s) (l : List α) (s : γ) :
    v (l.foldl f s) = v s := by
  induction l generalizing s with
  | nil => rfl
  | cons a rest ih => exact (ih (f s a)).trans (h s a)

/-- What the memories hold, as far as the ends of threads could change it and do not: bytes, full/empty bits, poison, and the count of corrected errors of SRAM. -/
def State.store (s : State) : List Host.Cell × NSet × NSet × Nat := (s.mem, s.fe, s.poison, s.corrSram)
theorem State.mem_of_store {s t : State} (h : t.store = s.store) : t.mem = s.mem := congrArg (·.1) h
theorem State.fe_of_store {s t : State} (h : t.store = s.store) : t.fe = s.fe := congrArg (·.2.1) h
theorem State.poison_of_store {s t : State} (h : t.store = s.store) : t.poison = s.poison := congrArg (·.2.2.1) h
theorem State.corrSram_of_store {s t : State} (h : t.store = s.store) : t.corrSram = s.corrSram := congrArg (·.2.2.2) h

@[simp] theorem State.setSlot_store (s : State) (key : Nat) (k : Slot) : (s.setSlot key k).store = s.store := rfl
@[simp] theorem State.modCtx_store (s : State) (c : Nat) (f : Slot → Slot) : (s.modCtx c f).store = s.store := rfl
@[simp] theorem State.modRegion_store (s : State) (vd r : Nat) (f : Region → Region) : (s.modRegion vd r f).store = s.store := rfl
@[simp] theorem State.allocated_store (s : State) (p : Place) (on : Bool) : (s.allocated p on).store = s.store := by cases p <;> rfl
@[simp] theorem State.log_store (s : State) (w : LogKind) (u : Nat) : (s.log w u).store = s.store := rfl
@[simp] theorem State.withdraw_store (s : State) (c : Nat) : (s.withdraw c).store = s.store := rfl
@[simp] theorem State.unstall_store (s : State) (c : Nat) : (s.unstall c).store = s.store := rfl
@[simp] theorem State.demands_store (s : State) (d : List Demand) : { s with demands := d }.store = s.store := rfl
@[simp] theorem State.orphans_store (s : State) (m : KMap Slot) : { s with orphans := m }.store = s.store := rfl
@[simp] theorem State.savedHeldOrphans_store (s : State) (a b c : KMap Slot) :
    { s with saved := a, held := b, orphans := c }.store = s.store := rfl
@[simp] theorem State.orphansArrivals_store (s : State) (m : KMap Slot) (a b : KMap (List Arrival)) :
    { s with orphans := m, arrivals := a, spills := b }.store = s.store := rfl
@[simp] theorem State.migMsgs_store (s : State) (l : List MigMsg) : { s with migMsgs := l }.store = s.store := rfl
@[simp] theorem State.spawnq_store (s : State) (q : KMap (List SpawnEntry)) : { s with spawnq := q }.store = s.store := rfl
@[simp] theorem State.modSlot_store (s : State) (key : Nat) (f : Slot → Slot) : (s.modSlot key f).store = s.store := rfl
@[simp] theorem State.modVd_store (s : State) (vd : Nat) (f : VDev → VDev) : (s.modVd vd f).store = s.store := rfl
theorem State.foldl_store {α : Type} {f : State → α → State} (h : ∀ s a, (f s a).store = s.store) (l : List α) (s : State) :
    (l.foldl f s).store = s.store := foldl_view State.store h l s
@[simp] theorem State.modSub_store (s : State) (b sb : Nat) (f : SubBank → SubBank) : (s.modSub b sb f).store = s.store := rfl

/-- An access accepted before its sub-bank closed keeps of the memories what the access itself keeps. -/
theorem State.accepted_store {f : State → State} (h : ∀ s, (f s).store = s.store) (s : State) (p : Place) :
    (s.accepted p f).store = s.store := by
  unfold State.accepted
  split
  · rw [State.allocated_store, h, State.allocated_store]
  · exact h s
/-- Handing on a reservation leaves the memories. -/
theorem State.resvRun_store (key : Nat) (l : List Nat) (s : State) : (s.resvRun key l).store = s.store := by
  induction l generalizing s with
  | nil => rfl
  | cons c rest ih =>
    unfold State.resvRun
    split
    · exact ih s
    · split
      · exact ih s
      · split
        · exact ih _
        · rfl
theorem State.handOnWord_store (s : State) (key : Nat) : (s.handOnWord key).store = s.store := by
  unfold State.handOnWord
  split
  · exact State.accepted_store (fun s => s.resvRun_store key _) s _
  · rfl
theorem State.handOn_store (s : State) (k : Slot) : (s.handOn k).store = s.store := by
  unfold State.handOn
  split
  · exact State.handOnWord_store _ _
  · rfl
/-- A context that gives up what it holds leaves the memories. -/
theorem State.leave_store (s : State) (k : Slot) : (s.leave k).store = s.store := by
  simp only [State.leave, State.release, State.demands_store, State.unstall_store, State.withdraw_store, State.handOn_store]
theorem State.fillFor_store (s : State) (key vd : Nat) : (s.fillFor key vd).store = s.store := by
  simp only [State.fillFor]
  split
  · rfl
  · split <;> rfl
theorem State.fill_store (s : State) (key : Nat) : (s.fill key).store = s.store := by
  unfold State.fill
  split
  · split
    · split
      · rfl
      · exact s.fillFor_store key _
    · rfl
  · rfl
/-- The end of a thread leaves the memories. -/
theorem State.endThread_store (s : State) (key : Nat) : (s.endThread key).store = s.store := by
  simp only [State.endThread]
  split
  · rfl
  · simp only [State.fill_store, State.setSlot_store, State.modRegion_store, State.orphans_store, State.leave_store]

/-! ### The stages in which the threads of some regions end (R376, R377) -/

/-- A region has one live thread less. -/
def State.lowerLive (s : State) (vd r : Nat) : State := s.modRegion vd r fun x => { x with live := x.live - 1 }
/-- Is a context one of a thread of the regions? -/
def Slot.inRegions (k : Slot) (vd : Nat) (rs : List Nat) : Bool :=
  decide (k.vd = vd) && rs.contains k.region && decide (k.mode ≠ .free ∧ k.ctx ≠ 0)
/-- A context of the regions that is kept outside a slot and waits for an answer ends later. -/
def cancelLater (vd : Nat) (rs : List Nat) (kv : Nat × Slot) : Nat × Slot :=
  if kv.2.inRegions vd rs then (kv.1, { kv.2 with cancelled := true }) else kv
/-- The contexts of the regions in the save area and those that are held end, or end later. -/
def State.endOutside (s : State) (vd : Nat) (rs : List Nat) : State :=
  let gone := (s.saved ++ s.held).filter fun kv => kv.2.inRegions vd rs && !kv.2.endsLater
  let t := gone.foldl (fun (t : State) kv => (t.leave kv.2).lowerLive vd kv.2.region) s
  { t with
    saved := List.map (cancelLater vd rs) (t.saved.filter fun kv => !(kv.2.inRegions vd rs && !kv.2.endsLater))
    held := List.map (cancelLater vd rs) (t.held.filter fun kv => !(kv.2.inRegions vd rs && !kv.2.endsLater))
    orphans := gone.foldl (fun (m : KMap Slot) (kv : Nat × Slot) => keepLeft m kv.1 kv.2) t.orphans }
/-- The region of an arrival of one of the regions. -/
def Arrival.inRegions (vd : Nat) (rs : List Nat) : Arrival → Option Nat
  | .migrant m _ => if m.vd = vd ∧ rs.contains m.region then some m.region else none
  | .context k _ => if k.vd = vd ∧ rs.contains k.region then some k.region else none
/-- What waits to arrive for the regions ends. -/
def State.endArriving (s : State) (vd : Nat) (rs : List Nat) : State :=
  let lost := ((s.arrivals ++ s.spills).map (·.2)).flatten.filterMap (Arrival.inRegions vd rs)
  let cut := s.arriving.filter fun kv => decide (kv.2.vd = vd) && rs.contains kv.2.region
  let t := cut.foldl (fun (t : State) kv => t.leave kv.2) (lost.foldl (fun (t : State) r => t.lowerLive vd r) s)
  let keep := fun (m : KMap (List Arrival)) =>
    (m.map fun kv => (kv.1, kv.2.filter fun a => (a.inRegions vd rs).isNone)).filter fun kv => decide (kv.2 ≠ [])
  { t with
    orphans := cut.foldl (fun (m : KMap Slot) (kv : Nat × Slot) =>
      keepLeft m (keepKey kv.2.ctx (8 * (kv.1 / 16)) kv.2.vd) kv.2) t.orphans
    arrivals := keep t.arrivals
    spills := keep t.spills }
/-- The migrants of the regions that are on their way end. -/
def State.endMigrants (s : State) (vd : Nat) (rs : List Nat) : State :=
  let migs := s.migMsgs.filter fun m => decide (m.m.vd = vd) && rs.contains m.m.region
  let t := migs.foldl (fun (t : State) m => t.lowerLive vd m.m.region) s
  { t with migMsgs := t.migMsgs.filter fun m => !(decide (m.m.vd = vd) && rs.contains m.m.region) }
/-- The spawns of the regions that are queued end. -/
def State.endSpawns (s : State) (vd : Nat) (rs : List Nat) : State :=
  let q := (s.spawnq.filter fun kv => decide (kv.1 % 16 = vd)).map (·.2)
  let t := (q.flatten.filter fun e => rs.contains e.region).foldl (fun (t : State) e => t.lowerLive vd e.region) s
  let queued := t.spawnq.map fun kv =>
    if kv.1 % 16 = vd then (kv.1, kv.2.filter fun e => !(rs.contains e.region)) else kv
  { t with spawnq := queued.filter fun kv => decide (kv.2 ≠ []) }
/-- The thread of a slot ends, or later when it waits for an answer. -/
def State.endOrCancel (s : State) (key : Nat) : State :=
  if (s.slotAt key).endsLater then s.modSlot key fun k => { k with cancelled := true } else s.endThread key
/-- The threads of the regions in slots end. -/
def State.endSlots (s : State) (vd : Nat) (rs : List Nat) : State :=
  ((s.slots.filter fun kv => kv.2.inRegions vd rs).map (·.1)).foldl State.endOrCancel s
/-- The threads of some regions end stage by stage: kept contexts, arrivals, migrants, spawns, slots. -/
theorem State.endRegions_eq (s : State) (vd : Nat) (rs : List Nat) :
    s.endRegions vd rs = ((((s.endOutside vd rs).endArriving vd rs).endMigrants vd rs).endSpawns vd rs).endSlots vd rs := rfl

@[simp] theorem State.lowerLive_store (s : State) (vd r : Nat) : (s.lowerLive vd r).store = s.store := rfl
theorem State.foldl_lowerLive_store {α : Type} (vd : Nat) (r : α → Nat) (l : List α) (s : State) :
    (l.foldl (fun (t : State) a => t.lowerLive vd (r a)) s).store = s.store :=
  State.foldl_store (fun t a => t.lowerLive_store vd (r a)) l s
theorem State.endOrCancel_store (s : State) (key : Nat) : (s.endOrCancel key).store = s.store := by
  unfold State.endOrCancel
  split
  · rfl
  · exact s.endThread_store key
/-- The ends of the threads of some regions leave the memories. -/
theorem State.endRegions_store (s : State) (vd : Nat) (rs : List Nat) : (s.endRegions vd rs).store = s.store := by
  have houtside : (s.endOutside vd rs).store = s.store := by
    simp only [State.endOutside, State.savedHeldOrphans_store, State.foldl_store, State.lowerLive_store, State.leave_store, implies_true]
  have harriving : ∀ t : State, (t.endArriving vd rs).store = t.store := fun t => by
    simp only [State.endArriving, State.orphansArrivals_store, State.foldl_store, State.leave_store, implies_true]
    exact State.foldl_lowerLive_store vd id _ t
  have hmigrants : ∀ t : State, (t.endMigrants vd rs).store = t.store := fun t =>
    (State.migMsgs_store _ _).trans (State.foldl_lowerLive_store vd (fun m : MigMsg => m.m.region) _ t)
  have hspawns : ∀ t : State, (t.endSpawns vd rs).store = t.store := fun t =>
    (State.spawnq_store _ _).trans (State.foldl_lowerLive_store vd SpawnEntry.region _ t)
  have hslots : ∀ t : State, (t.endSlots vd rs).store = t.store := fun t => State.foldl_store State.endOrCancel_store _ t
  rw [State.endRegions_eq, hslots, hspawns, hmigrants, harriving, houtside]
/-- A fatal notice leaves the memories. -/
theorem State.fatalDomain_store (s : State) (vd d : Nat) : (s.fatalDomain vd d).store = s.store := by
  unfold State.fatalDomain
  split
  · split
    · exact State.endRegions_store _ vd _
    · rfl
  · rfl
/-- A fault notice leaves the memories. -/
theorem State.notify_store (s : State) (vd region cause : Nat) (xval whre : Word) :
    (s.notify vd region cause xval whre).store = s.store := by
  unfold State.notify
  split
  · rfl
  · split
    · rfl
    · simp only [apply_ite State.store, State.fatalDomain_store, State.modRegion_store, ite_self]
      split <;> rfl
theorem State.healthNotice_store (s : State) (sb addr : Nat) : (s.healthNotice sb addr).store = s.store := by
  unfold State.healthNotice
  split
  · exact s.notify_store _ _ _ _ _
  · rfl

end Sys2Proof.Machine
end

section
/-!
SUPPORT. Sub-banks after a change, sets after an erasure, a scrubbed granule of SRAM, the waiters of a withdrawn sub-bank, and the pairs of a hash mask; MemoryUpkeep is assembled from these.
-/
namespace Sys2Proof.Machine

/-! ### Sub-banks -/

/-- A sub-bank that is listed reads as it is listed. -/
theorem State.subBank_of_find {s : State} {b sb : Nat} {x : SubBank} (h : KMap.find? s.subbanks (subKey b sb) = some x) :
    s.subBank b sb = x := by simp only [State.subBank, h]
@[simp] theorem State.subBank_modSub_self (s : State) (b sb : Nat) (f : SubBank → SubBank) :
    (s.modSub b sb f).subBank b sb = f (s.subBank b sb) :=
  State.subBank_of_find (KMap.find?_set_self _ _ _)
/-- A sub-bank that is left idle long enough goes to RETENTION (R136). -/
theorem execSubbankRetention_due {s : State} {b sb : Nat} {v : VDev} (hv : (s.subHolder sb).bind s.vd? = some v)
    (halloc : (s.subBank b sb).alloc = true) (hon : (s.subBank b sb).power = .on)
    (hidle : max (s.subBank b sb).lastUse v.created + 128000 ≤ s.cycle) (hphase : v.phase ≠ 3) (hq : s.queueIn b sb = false)
    (hacc : s.acceptedIn b sb = false) :
    execSubbankRetention b sb s = .next (s.modSub b sb fun x => { x with power := .retention }) := by
  simp only [execSubbankRetention, hv, halloc, hon, hidle, hphase, hq, hacc, ne_eq, not_false_eq_true, and_self, decide_true,
    Bool.not_false, Bool.and_self, if_true]
/-- An island that runs or is in HOLD has power (Table 1.2). -/
theorem State.brickUp_of_state {s : State} {b : Nat}
    (h : (s.island (brickIsland b)).state = .run ∨ (s.island (brickIsland b)).state = .hold) : s.brickUp b = true := by
  rcases h with h | h <;> simp only [State.brickUp, h]

/-! ### Sets -/

/-- A number that was added to a set is in it. -/
theorem NSet.contains_insert_self (m : NSet) (x : Nat) : (NSet.insert m x).contains x = true := by
  induction m with
  | nil => simp [NSet.insert]
  | cons k r ih =>
    unfold NSet.insert
    split
    · simp
    · split
      · simp [*]
      · simp only [List.contains_cons, ih, Bool.or_true]
/-- A number that was removed from a set without repetitions is not in it. -/
theorem NSet.contains_erase_self {m : NSet} (x : Nat) (h : m.Nodup) : (NSet.erase m x).contains x = false := by
  induction m with
  | nil => rfl
  | cons k r ih =>
    obtain ⟨hk, hr⟩ := List.nodup_cons.mp h
    unfold NSet.erase
    split
    · next e => simpa [← e] using hk
    · next hne => simpa [Ne.symm hne] using ih hr

/-! ### Scrubbing (R32, R33, R140) -/

/-- The start of a granule of the bricks' banks is an SRAM place again. -/
theorem placeOf_bank {b o : Nat} (hb : b < 2048) (ho : o < 2 ^ 20) : placeOf (bankAddr b o / 64 * 64) = .sram b (o / 64 * 64) := by
  unfold placeOf bankAddr
  rw [if_pos (by omega)]
  exact congrArg₂ Place.sram (by omega) (by omega)
/-- An SRAM granule that is poisoned shows it. -/
theorem granule_bank {b o : Nat} : (Place.sram b (o / 64 * 64)).granule = bankAddr b o / 64 * 64 := by
  simp only [Place.granule, Place.key, bankAddr]
  omega
theorem State.outOfSpares_store (s : State) (b sb : Nat) : (s.outOfSpares b sb).store = s.store := by
  unfold State.outOfSpares
  split
  · rfl
  · exact State.healthNotice_store _ _ _
/-- A remap of a lasting granule leaves what the memories hold (R33). -/
theorem State.lastingSram_store (s : State) (b sb g : Nat) : (s.lastingSram b sb g).store = s.store := by
  unfold State.lastingSram
  simp only [apply_ite State.store, State.outOfSpares_store, ite_self]
  split <;> rfl
/-- A corrected error of SRAM is counted, and a lasting one is then remapped (R32, R33). -/
theorem State.corrected_sram_cases (s : State) (b off : Nat) : ∃ t : State, t.mem = s.mem ∧ t.corrSram = s.corrSram + 1 ∧
    (s.corrected (.sram b off) = t.lastingSram b (off / 2 ^ 16) (Place.sram b off).granule ∨ s.corrected (.sram b off) = t) := by
  refine ⟨_, ?_, ?_, ite_eq_or_eq _ _ _⟩
  · rfl
  · rfl
/-- A corrected error of SRAM is counted, and memory keeps its bytes (R32). -/
theorem State.corrected_sram (s : State) (b off : Nat) :
    (s.corrected (.sram b off)).corrSram = s.corrSram + 1 ∧ (s.corrected (.sram b off)).mem = s.mem := by
  obtain ⟨t, hmem, hcorr, h | h⟩ := s.corrected_sram_cases b off
  · have hstore := t.lastingSram_store b (off / 2 ^ 16) (Place.sram b off).granule
    rw [h, State.corrSram_of_store hstore, State.mem_of_store hstore]
    exact ⟨hcorr, hmem⟩
  · rw [h]
    exact ⟨hcorr, hmem⟩
/-- A place that a number names loses its granule to an error that no parity repairs (R140). -/
theorem State.lost_placeOf (s : State) (g : Nat) : s.lost (placeOf g) = s.poisoned (placeOf g) := by
  unfold placeOf
  split <;> rfl

/-! ### Withdrawing a sub-bank (R33) -/

/-- The sub-banks, and what has been migrated out of those that were withdrawn. -/
def State.banks (s : State) : KMap SubBank × KMap (List Host.Cell) := (s.subbanks, s.migrated)
/-- The sub-bank of a key has left the bank power map, and these are the cells that were migrated out of it. -/
def State.Withdrawn (s : State) (key : Nat) (cells : List Host.Cell) : Prop :=
  (KMap.find? s.subbanks key).map SubBank.power = some .unavailable ∧ KMap.find? s.migrated key = some cells

theorem State.uncover_banks (s : State) (kid pa : Nat) : (s.uncover kid pa).banks = s.banks := by
  simp only [State.uncover]
  split <;> split <;> rfl
theorem State.count_banks (s : State) (pa : Nat) : (s.count pa).banks = s.banks := by
  simp only [State.count]
  split <;> rfl
theorem State.openGranule_banks (s : State) (kid g : Nat) : (s.openGranule kid g).banks = s.banks := by
  unfold State.openGranule
  split
  · rw [State.count_banks, State.uncover_banks]
  · rfl
theorem State.opened_banks (s : State) (kid : Nat) (p : Place) (n : Nat) : (s.opened kid p n).banks = s.banks := by
  cases p with
  | hbm pa => exact foldl_view State.banks (fun s g => s.openGranule_banks kid g) _ s
  | sram _ _ => rfl
  | host _ => rfl
  | peer _ _ => rfl
/-- A write at a home changes no sub-bank's power. -/
theorem State.poke_banks (s : State) (kid : Nat) (p : Place) (bs : List Byte) : (s.poke kid p bs).banks = s.banks := by
  have hlog : ((s.opened kid p bs.length).logCode p bs.length).banks = (s.opened kid p bs.length).banks := by cases p <;> rfl
  exact hlog.trans (s.opened_banks kid p bs.length)

section
variable {s t : State} {key : Nat} {cells : List Host.Cell}

theorem State.Withdrawn.of_banks (h : s.Withdrawn key cells) (hb : t.banks = s.banks) : t.Withdrawn key cells := by
  obtain ⟨hsub, hmig⟩ := Prod.mk.inj hb
  exact ⟨hsub ▸ h.1, hmig ▸ h.2⟩
/-- A change of a sub-bank that keeps its power leaves withdrawn sub-banks withdrawn. -/
theorem State.Withdrawn.modSub (h : s.Withdrawn key cells) (b sb : Nat) {f : SubBank → SubBank} (hf : ∀ x, (f x).power = x.power) :
    (s.modSub b sb f).Withdrawn key cells := by
  refine ⟨?_, h.2⟩
  by_cases hk : key = subKey b sb
  · subst hk
    obtain ⟨x, hx, hpower⟩ := Option.map_eq_some_iff.mp h.1
    rw [State.modSub_subbanks, KMap.find?_set_self, State.subBank_of_find hx, Option.map_some, hf, hpower]
  · rw [State.modSub_subbanks, KMap.find?_set_ne _ _ hk]
    exact h.1
theorem State.Withdrawn.touch (h : s.Withdrawn key cells) (p : Place) : (s.touch p).Withdrawn key cells := by
  cases p with
  | sram b off => exact h.modSub b _ fun _ => rfl
  | hbm pa => exact h
  | host _ => exact h
  | peer _ _ => exact h
theorem State.Withdrawn.allocated (h : s.Withdrawn key cells) (p : Place) (on : Bool) : (s.allocated p on).Withdrawn key cells := by
  cases p with
  | sram b off => exact h.modSub b _ fun _ => rfl
  | hbm pa => exact h
  | host _ => exact h
  | peer _ _ => exact h
theorem State.Withdrawn.accepted (h : s.Withdrawn key cells) (p : Place) {f : State → State}
    (hf : ∀ s : State, s.Withdrawn key cells → (f s).Withdrawn key cells) : (s.accepted p f).Withdrawn key cells := by
  unfold State.accepted
  split
  · exact (hf _ (h.allocated p true)).allocated p false
  · exact hf s h
/-- A full/empty access at its home leaves withdrawn sub-banks withdrawn. -/
theorem State.Withdrawn.fePerform (h : s.Withdrawn key cells) (vd : Nat) (q : Request) : (s.fePerform vd q).1.Withdrawn key cells := by
  unfold State.fePerform
  split
  · split
    · exact h.touch q.place
    · exact h
  · split
    · exact h
    · exact State.Withdrawn.touch (s := s.setFe q.place false) h q.place
  · split
    · next u hw =>
      unfold State.writeAt at hw
      split at hw
      · cases hw
      · obtain rfl := Except.ok.inj hw
        exact (h.of_banks (s.poke_banks _ _ _)).touch q.place
    · exact h
theorem State.Withdrawn.feServe (h : s.Withdrawn key cells) (k : Slot) (q : Request) : (s.feServe k q).Withdrawn key cells :=
  (h.fePerform k.vd q).of_banks rfl
/-- Serving the waiters of a word leaves withdrawn sub-banks withdrawn. -/
theorem State.Withdrawn.feRun (word fuel : Nat) : ∀ {s : State}, s.Withdrawn key cells → (s.feRun word fuel).Withdrawn key cells := by
  induction fuel with
  | zero => exact fun h => h
  | succ n ih =>
    intro s h
    simp only [State.feRun]
    split
    · exact h
    · exact ih ((h.feServe _ _).of_banks rfl)
    · exact h.of_banks rfl
theorem State.Withdrawn.wakeWaiters (h : s.Withdrawn key cells) (b sb : Nat) : (s.wakeWaiters b sb).Withdrawn key cells := by
  unfold State.wakeWaiters
  generalize (s.feq.map (·.1)).filter _ = words
  induction words generalizing s with
  | nil => exact h
  | cons w rest ih => exact ih (h.accepted (placeOf w) fun t ht => State.Withdrawn.feRun w _ ht)
/-- A sub-bank that is withdrawn has no power (R33). -/
theorem State.Withdrawn.power {b sb : Nat} (h : s.Withdrawn (subKey b sb) cells) : (s.subBank b sb).power = .unavailable := by
  obtain ⟨x, hx, hpower⟩ := Option.map_eq_some_iff.mp h.1
  rw [State.subBank_of_find hx, hpower]
end

/-- An access to a sub-bank that has left the bank power map takes the bank fault (R33). -/
theorem State.sramFault_unavailable {s : State} {vd b o sb : Nat} (hsb : o / 2 ^ 16 = sb) (h : (s.subBank b sb).power = .unavailable) :
    s.sramFault vd b o = some .bank := by
  simp only [State.sramFault, hsb, h, if_true, ite_self]
/-- The machine with a sub-bank's contents migrated, its cells blank and its power gone. -/
def State.emptied (s : State) (b sb : Nat) : State :=
  ((s.migrateSub b sb).blankSub b sb).modSub b sb fun x => { x with power := .unavailable }
theorem State.emptied_withdrawn (s : State) (b sb : Nat) : (s.emptied b sb).Withdrawn (subKey b sb)
    (s.mem.filter fun c => decide (bankAddr b (sb * 2 ^ 16) ≤ c.1 ∧ c.1 < bankAddr b (sb * 2 ^ 16) + 2 ^ 16)) :=
  ⟨by rw [State.emptied, State.modSub_subbanks, KMap.find?_set_self, Option.map_some], KMap.find?_set_self _ _ _⟩
/-- A sub-bank whose partition has had its notice is withdrawn (R33). -/
theorem execSubbankWithdraw_due {s : State} {b sb : Nat} (hn : s.neremRuns = true) (hnotice : (s.subBank b sb).noticed = true)
    (hpower : (s.subBank b sb).power ≠ .unavailable) :
    execSubbankWithdraw b sb s = .next (((s.emptied b sb).log .bankWithdrawn (subKey b sb)).wakeWaiters b sb) := by
  simp only [execSubbankWithdraw, hnotice, hpower, hn, ne_eq, not_false_eq_true, decide_true, Bool.and_self, if_true, State.emptied]

/-! ### Hash masks (R123) -/

/-- The pairs of the four quarters of a mask, put together, read back one by one. -/
theorem maskPair_wrap {f : Nat → Nat} (hf : ∀ q, f q < 2 ^ 12) {q : Nat} (hq : q < 4) :
    maskPair (wrap (f 0 * 2 ^ (12 * 0) + f 1 * 2 ^ (12 * 1) + f 2 * 2 ^ (12 * 2) + f 3 * 2 ^ (12 * 3))) q = f q := by
  have h0 := hf 0
  have h1 := hf 1
  have h2 := hf 2
  have h3 := hf 3
  simp only [maskPair, bits, wrap, BitVec.toNat_ofNat]
  interval_cases q <;> omega
theorem maskPair_lt (v : Word) (q : Nat) : maskPair v q < 2 ^ 12 := by
  have hw : 12 * q + 11 + 1 - 12 * q = 12 := by omega
  rw [maskPair, bits, hw]
  exact Nat.mod_lt _ (by decide)
/-- HASHMASK_WRITE takes each pair that may change from the value, and leaves the others (R123). -/
theorem execHashmaskWrite_pairs {s : State} (stack : Nat) (v : Word) (hn : s.neremRuns = true) :
    ∃ t : State, execHashmaskWrite stack v s = .next t ∧
      (∀ q, q < 4 → maskPair (t.hashMask stack) q = if s.quarterOwned stack q then maskPair (s.hashMask stack) q else maskPair v q) ∧
      (∀ x, x ≠ stack → t.hashMask x = s.hashMask x) ∧ t.mem = s.mem := by
  refine ⟨_, if_pos hn, fun q hq => ?_, fun x hx => KMap.getD_set_ne _ _ _ hx, rfl⟩
  have hlt : ∀ q, (if s.quarterOwned stack q then maskPair (s.hashMask stack) q else maskPair v q) < 2 ^ 12 := fun q => by
    split
    · exact maskPair_lt _ q
    · exact maskPair_lt _ q
  rw [← maskPair_wrap hlt hq]
  exact congrArg (maskPair · q) (KMap.getD_set_self _ _ _ _)

/-! ### The obligation -/

/-- Sub-banks go to RETENTION, wake and power up. -/
theorem subbanksSleepAndWake (s : State) (b sb : Nat) :
    (∀ v, (s.subHolder sb).bind s.vd? = some v → (s.subBank b sb).alloc = true → (s.subBank b sb).power = .on →
      max (s.subBank b sb).lastUse v.created + 128000 ≤ s.cycle → v.phase ≠ 3 → s.queueIn b sb = false → s.acceptedIn b sb = false →
      ∃ t : State, exec (.subbankRetention b sb) s = .next t ∧ (t.subBank b sb).power = .retention ∧ t.mem = s.mem ∧ t.slots = s.slots) ∧
    ((s.subBank b sb).power = .waking → ∃ t : State, exec (.subbankWakeDone b sb) s = .next t ∧ (t.subBank b sb).power = .on ∧ t.mem = s.mem) ∧
    ((s.subBank b sb).power = .poweringUp → (s.island (brickIsland b)).state = .run ∨ (s.island (brickIsland b)).state = .hold →
      ∃ t : State, exec (.subbankPowerUpDone b sb) s = .next t ∧ (t.subBank b sb).power = .on ∧ t.mem = s.mem) := by
  have hself := fun f => congrArg SubBank.power (s.subBank_modSub_self b sb f)
  refine ⟨fun v hv halloc hon hidle hphase hq hacc => ?_, fun h => ?_, fun h hup => ?_⟩
  · exact ⟨_, execSubbankRetention_due hv halloc hon hidle hphase hq hacc, hself _, rfl, rfl⟩
  · exact ⟨_, if_pos h, hself _, rfl⟩
  · exact ⟨_, if_pos ⟨h, State.brickUp_of_state hup⟩, hself _, rfl⟩

/-- Settles O53: sleep is read off the events' guards, repairs off the sets they change, a withdrawal off `State.Withdrawn`, and hash masks off their pairs. -/
theorem memoryUpkeep : Obligations.MemoryUpkeep := by
  unfold Obligations.MemoryUpkeep
  refine ⟨fun s b sb p => ?_, fun s => ⟨?_, ?_, ?_, ?_, ?_, ?_, ?_, ?_⟩, fun s stack q v hn hq => ?_⟩
  · obtain ⟨hret, hwake, hup⟩ := subbanksSleepAndWake s b sb
    refine ⟨hret, hwake, hup, fun n hact hn hidle hq => ?_, fun n hact hn hidle hq => ?_, fun h => if_pos h⟩
    · exact if_pos ⟨hact, by simpa [hn, State.pchIdle, hidle] using hq⟩
    · exact if_pos ⟨hact, by simpa [hn, State.pchIdle, hidle] using hq⟩
  · intro b o ho hb _
    have hplace := placeOf_bank hb ho
    obtain ⟨hcorr, hmem⟩ := s.corrected_sram b (o / 64 * 64)
    refine ⟨rfl, ⟨_, congrArg (fun p => Host.Outcome.next (s.corrected p)) hplace, hcorr, hmem⟩,
      ⟨_, congrArg (fun p => Host.Outcome.next (s.uncorrectable p)) hplace, ?_, rfl⟩⟩
    rw [← granule_bank]
    exact NSet.contains_insert_self s.poison (Place.sram b (o / 64 * 64)).granule
  · exact fun g => congrArg Host.Outcome.next (s.lost_placeOf _)
  · intro b sb hn hnotice hpower
    have hw := ((s.emptied_withdrawn b sb).of_banks (t := (s.emptied b sb).log .bankWithdrawn (subKey b sb)) rfl).wakeWaiters b sb
    exact ⟨_, execSubbankWithdraw_due hn hnotice hpower, hw.power, hw.2, fun vd o ho => State.sramFault_unavailable ho hw.power⟩
  · exact fun b sb h => if_neg (by simp [h])
  · intro b sb g hin hnodup
    exact ⟨_, if_pos hin, rfl, rfl, NSet.contains_erase_self _ hnodup⟩
  · intro g hin
    refine ⟨_, if_pos hin, ?_, rfl, rfl⟩
    simp
  · exact fun k hnodup => ⟨_, rfl, NSet.contains_erase_self k hnodup, rfl⟩
  · intro st w hw
    refine ⟨_, rfl, ?_, rfl⟩
    rw [KMap.find?_modify_self, hw, Option.map_some]
  · obtain ⟨t, ht, hpairs, hothers, hmem⟩ := execHashmaskWrite_pairs stack v hn
    exact ⟨t, ht, hpairs q hq, hothers, hmem⟩

end Sys2Proof.Machine
end

section
/-!
SUPPORT. How a payload leaves the ring for its home line, how a stowed line boards again, and what rousing an island leaves; RingLinesGoHome is assembled from these.
-/
namespace Sys2Proof.Machine

/-! ### Rousing the island of a write-back (R185, R14) -/

/-- Rousing an island leaves the machine, or has that island ask for RUN. -/
theorem State.rouse_cases (s : State) (b : Nat) :
    s.rouse b = s.modIsland (brickIsland b) (fun x => { x with wanted := .run }) ∨ s.rouse b = s := ite_eq_or_eq _ _ _
/-- Rousing an island keeps every island's state. -/
theorem State.island_rouse_state (s : State) (b i : Nat) : ((s.rouse b).island i).state = (s.island i).state := by
  rcases s.rouse_cases b with h | h <;> rw [h]
  by_cases hi : i = brickIsland b
  · rw [hi, State.island_modIsland_self]
  · rw [State.island_modIsland_ne _ _ hi]
/-- Rousing an island changes islands alone. -/
theorem State.rouse_eq (s : State) (b : Nat) : ∃ m, s.rouse b = { s with islands := m } := by
  rcases s.rouse_cases b with h | h
  · exact ⟨_, h⟩
  · exact ⟨s.islands, h⟩
/-- Rousing an island wakes no memory: what was blocked stays blocked. -/
theorem State.blocked_rouse (s : State) (b token c off : Nat) : (s.rouse b).blocked token (.sram c off) = s.blocked token (.sram c off) := by
  have hup : ∀ x, (s.rouse b).brickUp x = s.brickUp x := fun x => by
    unfold State.brickUp
    rw [State.island_rouse_state]
  have hbank : (s.rouse b).subBank c (off / 2 ^ 16) = s.subBank c (off / 2 ^ 16) := by
    obtain ⟨m, hm⟩ := s.rouse_eq b
    unfold State.subBank
    rw [hup, hm]
    rfl
  have hunit : (s.rouse b).unitStill (.sram c off) = s.unitStill (.sram c off) := by
    simp only [State.unitStill, hbank]
  unfold State.blocked State.stalled
  rw [hunit]
  obtain ⟨m, hm⟩ := s.rouse_eq b
  rw [hm]
  rfl

/-! ### Payloads on their way home (R185, R189) -/

/-- A ring slot's number taken off the ring, and its island roused. -/
def State.offRing (s : State) (key : Nat) (r : RingSlot) : State := { s with rings := KMap.erase s.rings key }.rouse (homeOf key r)
theorem State.offRing_eq (s : State) (key : Nat) (r : RingSlot) : ∃ m, s.offRing key r = { s with rings := KMap.erase s.rings key, islands := m } :=
  State.rouse_eq _ _
theorem State.blocked_offRing (s : State) (key : Nat) (r : RingSlot) (token c off : Nat) :
    (s.offRing key r).blocked token (.sram c off) = s.blocked token (.sram c off) :=
  State.blocked_rouse { s with rings := KMap.erase s.rings key } _ _ _ _
/-- A payload whose home sub-bank cannot serve waits there (R21, R185). -/
theorem State.takeOff_blocked {s : State} {key : Nat} {r : RingSlot} {stow : Bool}
    (h : s.blocked (RingBack.token ⟨key / 512, r, stow⟩) (.sram (homeOf key r) (64 * r.line)) = true) :
    s.takeOff key r stow = { (s.offRing key r).stallAt (RingBack.token ⟨key / 512, r, stow⟩) (.sram (homeOf key r) (64 * r.line)) with
      writebacks := s.writebacks ++ [⟨key / 512, r, stow⟩] } := by
  obtain ⟨m, hm⟩ := s.offRing_eq key r
  have hw : (s.offRing key r).writebacks = s.writebacks := by rw [hm]
  rw [← hw]
  exact if_pos ((s.blocked_offRing key r _ _ _).trans h)
/-- A payload whose home sub-bank can serve is landed there. -/
theorem State.takeOff_served {s : State} {key : Nat} {r : RingSlot} {stow : Bool}
    (h : s.blocked (RingBack.token ⟨key / 512, r, stow⟩) (.sram (homeOf key r) (64 * r.line)) = false) :
    s.takeOff key r stow = ((s.offRing key r).unstall (RingBack.token ⟨key / 512, r, stow⟩)).landBack ⟨key / 512, r, stow⟩ :=
  if_neg (by rw [← s.blocked_offRing key r] at h; exact ne_true_of_eq_false h)
/-- A wait for memory changes no byte, no ring slot, no lock and no slot. -/
theorem State.stallAt_frame (s : State) (token : Nat) (p : Place) : (s.stallAt token p).mem = s.mem ∧ (s.stallAt token p).slots = s.slots ∧
    (s.stallAt token p).rings = s.rings ∧ (s.stallAt token p).locks = s.locks := by
  have hwake : (s.wake p).mem = s.mem ∧ (s.wake p).slots = s.slots ∧ (s.wake p).rings = s.rings ∧ (s.wake p).locks = s.locks := by
    unfold State.wake
    split
    · split <;> exact ⟨rfl, rfl, rfl, rfl⟩
    · split <;> exact ⟨rfl, rfl, rfl, rfl⟩
    · exact ⟨rfl, rfl, rfl, rfl⟩
    · exact ⟨rfl, rfl, rfl, rfl⟩
  unfold State.stallAt
  split <;> exact hwake
/-- A payload that is written back stands in its home line, and locks, ring slots and thread slots are as before. -/
theorem State.writeBack_sram (s : State) (w : RingBack) (h : Memory.wf s.mem = true) :
    Mem.readBytes (s.writeBack w).mem (lineKey w.brick w.slot.line) 64 = lineBytes w.slot.payload ∧
      (s.writeBack w).rings = s.rings ∧ (s.writeBack w).locks = s.locks ∧ (s.writeBack w).slots = s.slots := by
  have hlen : (lineBytes w.slot.payload).length = 64 := leBytes_length _ _
  refine ⟨?_, rfl, rfl, rfl⟩
  conv_lhs => rw [← hlen]
  exact Mem.readBytes_writeBytes _ _ h
/-- The machine once a payload that is not stowed has been written to its home line and the line unlocked, before the alights are answered (R185). -/
def State.unlocked (s : State) (w : RingBack) : State :=
  let t := s.writeBack w
  let t := if w.slot.poison then { t with poison := NSet.insert t.poison w.place.granule } else t
  { t with locks := KMap.erase t.locks (lineKey w.brick w.slot.line) }
/-- What the unlocking leaves and writes. -/
theorem State.unlocked_spec (s : State) (w : RingBack) (h : Memory.wf s.mem = true) :
    Mem.readBytes (s.unlocked w).mem (lineKey w.brick w.slot.line) 64 = lineBytes w.slot.payload ∧
      (s.unlocked w).rings = s.rings ∧ (s.unlocked w).locks = KMap.erase s.locks (lineKey w.brick w.slot.line) ∧
      (s.unlocked w).slots = s.slots ∧ (w.slot.poison = true → (s.unlocked w).poison.contains w.place.granule = true) := by
  obtain ⟨hmem, hrings, hlocks, hslots⟩ := s.writeBack_sram w h
  unfold State.unlocked
  simp only
  split
  · exact ⟨hmem, hrings, congrArg (KMap.erase · _) hlocks, hslots, fun _ => NSet.contains_insert_self _ _⟩
  · next hp => exact ⟨hmem, hrings, congrArg (KMap.erase · _) hlocks, hslots, fun hp' => absurd hp' hp⟩
/-- A payload that is not stowed lands: its line is unlocked, and each alight that waits is answered (R185). -/
theorem State.landBack_unlocks (s : State) (w : RingBack) (h : w.stow = false) : s.landBack w =
    (s.alighters w.brick w.slot.line).foldl (fun (s : State) x => s.ringGive x.1 (.done (if x.2 then 0 else 1))) (s.unlocked w) := by
  unfold State.landBack
  rw [if_neg (by simp [h])]
  rfl
/-- A payload that is stowed lands: its line is STOWED with ALTPEND and POISON (R189). -/
theorem State.landBack_stows (s : State) (w : RingBack) (h : w.stow = true) : s.landBack w =
    { s.writeBack w with locks := KMap.modify s.locks (lineKey w.brick w.slot.line) fun l =>
      { l with state := .stowed w.slot.altpend w.slot.poison } } := by
  unfold State.landBack
  rw [if_pos h]
  rfl

/-! ### The events -/

/-- RING_ALIGHT_WRITEBACK takes the slot off the ring after what the station applies (R185, R364). -/
theorem execRingAlightWriteback_due {s : State} {ring idx : Nat} {r0 r : RingSlot} (h0 : KMap.find? s.rings (ringKey ring idx) = some r0)
    (halt : r0.altpend = true) (hhome : s.isHome (ringKey ring idx) r0 = true) (hstow : s.canStow (ringKey ring idx) r0 = false)
    (hturn : s.turnOver (homeOf (ringKey ring idx) r0) = true)
    (hr : KMap.find? (s.applyStation (homeOf (ringKey ring idx) r0)).rings (ringKey ring idx) = some r) :
    execRingAlightWriteback ring idx s = .next ((s.applyStation (homeOf (ringKey ring idx) r0)).takeOff (ringKey ring idx) r false) := by
  simp only [execRingAlightWriteback, h0, halt, hhome, hstow, hturn, hr, Bool.not_false, Bool.and_self, if_true]
/-- RING_STOW takes the slot off the ring after what the station applies (R189). -/
theorem execRingStow_due {s : State} {ring idx : Nat} {r0 r : RingSlot} (h0 : KMap.find? s.rings (ringKey ring idx) = some r0)
    (hstow : s.canStow (ringKey ring idx) r0 = true) (hturn : s.turnOver (homeOf (ringKey ring idx) r0) = true)
    (hr : KMap.find? (s.applyStation (homeOf (ringKey ring idx) r0)).rings (ringKey ring idx) = some r) :
    execRingStow ring idx s = .next ((s.applyStation (homeOf (ringKey ring idx) r0)).takeOff (ringKey ring idx) r true) := by
  simp only [execRingStow, h0, hstow, hturn, hr, Bool.and_self, if_true]
/-- A stowed line of a resident partition boards when a free slot stands at its home and its memory serves (R190). -/
theorem State.reboardNow_due {s : State} {b line : Nat} {l : LineLock} {alt poison : Bool} (hl : KMap.find? s.locks (lineKey b line) = some l)
    (hstate : l.state = .stowed alt poison) (hres : s.isResident l.vd = true) (hfree : KMap.has s.rings (s.standing b) = false)
    (hserves : s.blocked (reboardToken b line) (.sram b (64 * line)) = false) :
    s.reboardNow b line = (s.unstall (reboardToken b line)).boardLine (s.standing b) b line l.vd l.region alt poison := by
  simp only [State.reboardNow, hl, hstate, hres, hfree, hserves, Bool.not_false, Bool.and_self, if_true, Bool.false_eq_true, if_false]
/-- A station whose slots have no entries applies nothing. -/
theorem State.applyStation_none {s : State} {b : Nat} (h : ∀ kv ∈ s.ringHolders, kv.1 / 8 ≠ b) : s.applyStation b = s.stationAt b (8 * b + 8) := by
  have hnone : (s.ringHolders.filter fun kv => decide (kv.1 / 8 = b)) = [] :=
    List.filter_eq_nil_iff.mpr fun kv hkv => by simpa using h kv hkv
  unfold State.applyStation
  rw [hnone]
  rfl
/-- RING_MISS traps an overdue head entry that is neither a boarding nor a put (R191). -/
theorem execRingMiss_due {s : State} {ctx : Nat} {k : Slot} {e : RingEntry} {rest : List RingEntry} (hk : s.ctxOf ctx = some k)
    (hq : k.ringq = e :: rest) (hm : e.matched = false) (hage : e.since + 512 ≤ s.cycle) (hboard : ∀ n, e.op ≠ .board n)
    (hput : ∀ f v, e.op ≠ .put f v) : execRingMiss ctx s = .next (s.ringGive k (.failed Cause.ringMiss.code e.ea false)) := by
  have hnoboard : e.boards = false := by
    unfold RingEntry.boards
    cases h : e.op with
    | board n => exact absurd h (hboard n)
    | _ => rfl
  have hnoput : e.isPut = false := by
    unfold RingEntry.isPut
    cases h : e.op with
    | put f v => exact absurd h (hput f v)
    | _ => rfl
  have hover : e.overdue s.cycle = true := by simp [RingEntry.overdue, hm, hage]
  simp only [execRingMiss, hk, hq, hnoboard, hover, State.ringMissed, hnoput, Bool.not_true, Bool.or_self, Bool.false_eq_true, if_false]

/-- Settles O37: a slot that leaves the ring is landed by `State.landBack_unlocks` or `State.landBack_stows`, or waits by `State.takeOff_blocked`. -/
theorem ringLinesGoHome : Obligations.RingLinesGoHome := by
  unfold Obligations.RingLinesGoHome
  refine ⟨?_, ⟨?_, ?_⟩, ?_, ?_, ?_⟩
  · rintro s0 s ring idx r0 r h0 halt hhome hstow hturn rfl hr hwf
    have hexec := execRingAlightWriteback_due h0 halt hhome hstow hturn hr
    generalize hs : s0.applyStation (homeOf (ringKey ring idx) r0) = s at hr hwf hexec
    obtain ⟨m, hoff⟩ := s.offRing_eq (ringKey ring idx) r
    refine ⟨fun hserves => ?_, fun hblocked => ?_, fun hnone => hs.symm.trans (State.applyStation_none hnone)⟩
    · rw [State.takeOff_served hserves, State.landBack_unlocks _ _ rfl, hoff] at hexec
      obtain ⟨hmem, hrings, hlocks, hslots, hpoison⟩ := State.unlocked_spec (({ s with
        rings := KMap.erase s.rings (ringKey ring idx), islands := m } : State).unstall
          (RingBack.token ⟨ringKey ring idx / 512, r, false⟩)) ⟨ringKey ring idx / 512, r, false⟩ hwf
      refine ⟨_, hmem, hrings, hlocks, hslots, hpoison, fun hnone => hexec.trans ?_, fun k set hone => hexec.trans ?_⟩
      · exact congrArg (fun l => Host.Outcome.next (List.foldl _ _ l)) hnone
      · exact congrArg (fun l => Host.Outcome.next (List.foldl _ _ l)) hone
    · rw [State.takeOff_blocked hblocked] at hexec
      obtain ⟨hmem, -, hrings, hlocks⟩ := (s.offRing (ringKey ring idx) r).stallAt_frame
        (RingBack.token ⟨ringKey ring idx / 512, r, false⟩) (.sram (homeOf (ringKey ring idx) r) (64 * r.line))
      rw [hoff] at hexec hmem hrings hlocks
      exact ⟨_, hexec, rfl, hrings, hlocks, hmem⟩
  · rintro s0 s ring idx r0 r h0 hstow hturn rfl hr hwf w hserves
    have hexec := execRingStow_due h0 hstow hturn hr
    generalize s0.applyStation (homeOf (ringKey ring idx) r0) = s at hr hwf hexec hserves
    obtain ⟨m, hoff⟩ := s.offRing_eq (ringKey ring idx) r
    rw [State.takeOff_served hserves, State.landBack_stows _ _ rfl, hoff] at hexec
    obtain ⟨hmem, hrings, -, -⟩ := State.writeBack_sram (({ s with
      rings := KMap.erase s.rings (ringKey ring idx), islands := m } : State).unstall w.token) w hwf
    exact ⟨_, hexec, hrings, hmem, rfl⟩
  · intro s b line l alt poison hl hstate hres hfree hserves
    refine ⟨_, congrArg Host.Outcome.next (State.reboardNow_due hl hstate hres hfree hserves), rfl, ?_, rfl⟩
    exact congrArg (Option.map _) (KMap.find?_set_self _ _ _)
  · exact fun s ctx k e rest hk hq hm hage hboard hput => execRingMiss_due hk hq hm hage hboard hput
  · intro s ring idx r hr
    refine ⟨⟨{ s with rings := KMap.modify s.rings (ringKey ring idx) fun r => { r with poison := true } }, ?_, ?_, rfl, rfl⟩,
      { s with corrSram := s.corrSram + 1 }.log .count (lineKey (homeOf (ringKey ring idx) r) r.line), ?_, rfl, rfl, rfl, rfl⟩
    · change execRingSlotError ring idx .payload s = _
      simp only [execRingSlotError, hr]
    · rw [KMap.find?_modify_self, hr]
      rfl
    · change execRingSlotError ring idx .corrected s = _
      simp only [execRingSlotError, hr]
  · intro s b line l hl hstate hrings hbacks hn
    change execRingLockClear b line s = _
    simp only [execRingLockClear, hl, hstate, hrings, hbacks, hn, Bool.or_self, Bool.not_false, and_self, if_true]

end Sys2Proof.Machine
end

section
/-!
SUPPORT. How a load of a place elsewhere is sent, what a walk leaves when the media answer nothing, how a home serves a read, and what a reply completes; RemoteLoads is assembled from these.
-/
namespace Sys2Proof.Machine

/-! ### What waits, walks and translations leave -/

/-- The bytes, the slots, the current slot and the answers laid down. -/
def State.core (s : State) : List Host.Cell × KMap Slot × Nat × List Media := (s.mem, s.slots, s.cur, s.answers)
theorem State.core_eq {s t : State} (h : t.core = s.core) : t.mem = s.mem ∧ t.slots = s.slots ∧ t.cur = s.cur ∧ t.answers = s.answers := by
  obtain ⟨hm, h⟩ := Prod.mk.inj h
  obtain ⟨hs, h⟩ := Prod.mk.inj h
  exact ⟨hm, hs, Prod.mk.inj h⟩
theorem State.me_of_core {s t : State} (h : t.core = s.core) : t.me = s.me := by
  obtain ⟨-, hslots, hcur, -⟩ := State.core_eq h
  unfold State.me State.slotAt
  rw [hslots, hcur]
theorem State.brick_of_core {s t : State} (h : t.core = s.core) : t.brick = s.brick := by
  obtain ⟨-, -, hcur, -⟩ := State.core_eq h
  unfold State.brick
  rw [hcur]
theorem State.wake_core (s : State) (p : Place) : (s.wake p).core = s.core := by
  unfold State.wake
  split
  · split <;> rfl
  · split <;> rfl
  · rfl
  · rfl
theorem State.stallAt_core (s : State) (token : Nat) (p : Place) : (s.stallAt token p).core = s.core := by
  unfold State.stallAt
  split <;> exact s.wake_core p
theorem State.touch_core (s : State) (p : Place) : (s.touch p).core = s.core := by cases p <;> rfl
theorem State.cross_core (s : State) (p : Place) (bs : List Byte) : (s.cross p bs).core = s.core := by cases p <;> rfl
theorem State.servedAt_core (s : State) (token : Nat) (p : Place) : (s.servedAt token p).core = s.core := rfl
theorem State.keepWalk_core (s : State) (q : Nat) (e : TlbEntry) : (s.keepWalk q e).core = s.core := by
  unfold State.keepWalk
  simp only
  split <;> rfl
/-- A translation fills a cache at most. -/
theorem State.translated_core (s : State) (brick vd : Nat) (space : BitVec 12) (l : Level) (ea : Word) (k : Access) :
    (s.translated brick vd space l ea k).core = s.core := by
  unfold State.translated
  simp only
  split
  · rfl
  · split
    · exact State.keepWalk_core _ _ _
    · rfl
/-- With no answers laid down the words of a walk are read without a change of bytes or slots. -/
theorem State.readWords_core (token vd : Nat) (rs : List TableRead) : ∀ {s : State}, s.answers = [] → (s.readWords token vd rs).1.core = s.core := by
  induction rs with
  | nil => exact fun _ => rfl
  | cons r rest ih =>
    intro s h
    have htouch := s.touch_core r.place
    have hans : (s.touch r.place).answers = [] := (State.core_eq htouch).2.2.2.trans h
    simp only [State.readWords, State.look, hans]
    split
    · exact s.stallAt_core token r.place
    · split
      · exact (ih hans).trans htouch
      · split
        · exact htouch
        · exact (ih hans).trans htouch
/-- With no answers laid down a walk changes no byte and no slot. -/
theorem State.walk_core {s : State} (a : Agent) (ea : Word) (h : s.answers = []) : (s.walk a ea).1.core = s.core := by
  unfold State.walk
  split
  · rfl
  · have hread := State.readWords_core a.token a.vd (s.walkReads a.vd a.space ea.toNat) h
    unfold State.readTables
    split
    · next heq => rwa [heq] at hread
    · next heq =>
      rw [heq] at hread
      exact (foldl_view State.core (fun t (r : TableRead) => t.servedAt_core a.token r.place) _ _).trans hread

/-! ### Sending a load (R98) -/

/-- A request of the own bank that cannot be served has arrived there, and begins the wake (R21). -/
def State.arrived (s : State) (p : Place) : State := if s.ownBank p && s.blocked s.me.ctx p then s.stallAt s.me.ctx p else s
theorem State.arrived_core (s : State) (p : Place) : (s.arrived p).core = s.core := by
  unfold State.arrived
  split
  · exact s.stallAt_core _ _
  · rfl
theorem State.send_eq (s : State) (q : Request) : s.send q = State.park
    (((s.arrived q.place).cross q.place (leBytes 8 q.data.toNat)).modSlot (s.arrived q.place).cur fun k => { k with req := some q }) .reply := rfl
/-- Sending a request parks the current slot on its reply, with memory and every other slot as they were. -/
theorem State.send_parks (s : State) (q : Request) : ∃ t : State, s.send q = .next t ∧ t.me = { s.me with mode := .parked .reply, req := some q } ∧
    t.mem = s.mem ∧ ∀ key, key ≠ s.cur → t.slotAt key = s.slotAt key := by
  have hcore := ((s.arrived q.place).cross_core q.place (leBytes 8 q.data.toNat)).trans (s.arrived_core q.place)
  have hcur := (State.core_eq (s.arrived_core q.place)).2.2.1
  rw [State.send_eq, hcur]
  generalize (s.arrived q.place).cross q.place (leBytes 8 q.data.toNat) = u at hcore
  obtain ⟨hmem, hslots, hucur, -⟩ := State.core_eq hcore
  have hat : ∀ key, u.slotAt key = s.slotAt key := fun key => by rw [State.slotAt, State.slotAt, hslots]
  refine ⟨_, rfl, ?_, hmem, fun key hkey => ?_⟩
  · simp only [State.me, State.modSlot_cur, State.slotAt_modSlot_self, hucur, hat]
  · have hne : key ≠ u.cur := by rwa [hucur]
    rw [State.modSlot_cur, State.slotAt_modSlot_ne _ _ hne, State.slotAt_modSlot_ne _ _ hkey, hat]

/-- An access whose walk has been read goes on at the place that translation gives. -/
theorem State.reach_walked {s u : State} {ea : Word} {n : Nat} {k : Access} {p : Place} {win : Nat} {go : State → Place → Nat → Out}
    (hfault : addrFault s.brick ea n = none) (hwalk : s.walk s.agent ea = (u, none)) (hme : u.me = s.me)
    (hplace : u.resolve u.brick s.me.vd s.me.space s.me.level ea k = .ok p win) :
    s.reach ea n k go = go (u.translated u.brick s.me.vd s.me.space s.me.level ea k) p win := by
  simp only [State.reach, hfault, State.resolved, State.walking, hwalk, hme, ne_eq, not_true_eq_false, if_false, hplace]
/-- An access waits at a table that its walk cannot read (R21). -/
theorem State.reach_waits {s u : State} {ea : Word} {n : Nat} {k : Access} {q : Place} {go : State → Place → Nat → Out}
    (hfault : addrFault s.brick ea n = none) (hwalk : s.walk s.agent ea = (u, some q)) (hme : u.me = s.me) :
    s.reach ea n k go = .next ((u.stallAt s.me.ctx q).modSlot u.cur fun k => { k with mode := .parked (.cond (.awake q ea)) }) := by
  have hcur := (State.core_eq (u.stallAt_core s.me.ctx q)).2.2.1
  simp only [State.reach, hfault, State.resolved, State.walking, hwalk, hme, ne_eq, not_true_eq_false, if_false, State.awaitMemory,
    State.waitFor, State.park, hcur]
/-- A load of a place elsewhere that no own store meets is sent. -/
theorem State.loadFrom_away {s : State} {q : Request} {n : Nat} (hat : s.atHand q.place = false)
    (hclear : s.forward s.me s.brick q.place q.ea n = .clear) : s.loadFrom q n = s.send q := by
  simp only [State.loadFrom, hclear, State.request, hat, Bool.false_eq_true, if_false]

/-! ### Serving a read at its home (R143, R69) -/

/-- Media that answer sound change nothing. -/
theorem State.mediaFor_sound (s : State) (k : Slot) (q : Request) : s.mediaFor k q .sound = s := by
  have hmedia : s.media k.vd q.win q.place q.kind.size q.kind.writes false .sound = s := by
    unfold State.media
    split
    · split <;> rfl
    · simp only [State.counterAnswer, State.granuleAnswer, ite_self]
    · rfl
    · rfl
  have hgen : s.genMedia k.vd q.win q.place.key q.kind.writes .sound = s := by
    simp only [State.genMedia, State.counterAnswer, State.granuleAnswer, ite_self]
  unfold State.mediaFor
  split
  · exact hgen
  · exact hgen
  · exact hmedia
/-- A home that answers no fault to a read is not closing (R135). -/
theorem State.closing_of_sound {s : State} {vd win size : Nat} {p : Place} (h : s.homeFault vd win p size false false = none) :
    s.closing p = false := by
  cases p with
  | sram b off =>
    have hsram : s.sramFault vd b off = none := by
      cases hf : s.sramFault vd b off with
      | none => rfl
      | some c => simp [State.homeFault, hf] at h
    have halloc : (s.subBank b (off / 2 ^ 16)).alloc = true := by
      by_contra hoff
      simp only [Bool.not_eq_true] at hoff
      simp only [State.sramFault, hoff] at hsram
      split at hsram
      · cases hsram
      · split at hsram <;> simp at hsram
    simp only [State.closing, halloc, Bool.not_true, Bool.false_and]
  | hbm _ => rfl
  | host _ => rfl
  | peer _ _ => rfl
/-- A request that its memory can serve, at a sub-bank that is not closing, is performed, its reply is set, and it leaves the order of arrival (R21). -/
theorem State.serveAt_sound {s u : State} {k : Slot} {q : Request} {st : ReqStage} (hserves : s.blocked k.ctx q.place = false)
    (hopen : s.closing q.place = false) (hperform : s.perform k q = (u, st)) (hq : u.stallq = s.stallq) :
    s.serveAt k q .sound = (u.modCtx k.ctx fun k => k.setStage st).unstall k.ctx := by
  unfold State.serveAt State.inTurn
  simp only [State.mediaFor_sound, hperform, hserves, Bool.false_and, Bool.false_eq_true, if_false, State.accepted, hopen]
  split
  · rfl
  · next hnone =>
    have hkeep : (u.stallq.filter fun e => decide (e.token ≠ k.ctx)) = u.stallq := by
      rw [List.filter_eq_self, hq]
      simpa using hnone
    simp only [State.unstall]
    rw [show (u.modCtx k.ctx fun k => k.setStage st).stallq = u.stallq from rfl, hkeep]
    rfl
theorem State.touch_stallq (s : State) (p : Place) : (s.touch p).stallq = s.stallq := by cases p <;> rfl
/-- A read at a home without a fault. -/
theorem State.readPerform_sound {s : State} {vd n : Nat} {q : Request} (h : s.homeFault vd q.win q.place n false false = none) :
    s.readPerform vd q n = (s.touch q.place, .done (bytesLine (s.peek q.place n))) := by
  simp only [State.readPerform, State.readAt, h, State.peekLine]
/-- A read at a home with a fault. -/
theorem State.readPerform_fault {s : State} {vd n : Nat} {q : Request} {c : Cause}
    (h : s.homeFault vd q.win q.place n false false = some c) : s.readPerform vd q n = (s, .failed c.code q.ea false) := by
  simp only [State.readPerform, State.readAt, h]
/-- A request that reads `n` bytes of memory, and nothing else: a load, ZLD, the descriptor of an engine command, or LDR. -/
abbrev ReqKind.reads (kind : ReqKind) (n : Nat) : Prop :=
  (∃ m : LdMode, kind = .ld m ∧ n = m.size) ∨ ((kind = .zld ∨ kind = .descr) ∧ n = 64) ∨ (kind = .ldr ∧ n = 8)
theorem State.perform_reads {s : State} {k : Slot} {q : Request} {n : Nat} (h : q.kind.reads n) :
    s.perform k q = s.readPerform k.vd q n := by
  rcases h with ⟨m, hk, rfl⟩ | ⟨hk | hk, rfl⟩ | ⟨hk, rfl⟩ <;> simp only [State.perform, hk]
theorem ReqKind.isRead_of_reads {kind : ReqKind} {n : Nat} (h : kind.reads n) : kind.isRead = true := by
  rcases h with ⟨m, rfl, -⟩ | ⟨rfl | rfl, -⟩ | ⟨rfl, -⟩ <;> rfl
/-- LOAD_AT_HOME serves the read that a context has sent. -/
theorem execLoadAtHome_sent {s : State} {ctx : Nat} {k : Slot} {q : Request} (hk : s.ctxOf ctx = some k) (hreq : k.req = some q)
    (hstage : q.stage = .sent) (hlink : s.linkDown q.place = false) (hread : q.kind.isRead = true) :
    execLoadAtHome ctx .sound s = .next (s.serveAt k q .sound) := by
  simp only [execLoadAtHome, State.sentReq, hk, hreq, hstage, hread, hlink, decide_true, Bool.not_false, Bool.and_self, if_true]

/-! ### A reply completes (R98) -/

/-- A reply that pushes nothing completes the instruction that waits for it. -/
theorem State.repliedAt_done {s : State} {key : Nat} {q : Request} {v : Line} (hreq : (s.slotAt key).req = some q) (hstage : q.stage = .done v)
    (hlive : (s.slotAt key).cancelled = false) (hdescr : q.kind ≠ .descr) (hpush : (s.slotAt key).replyPushes q = false) :
    s.repliedAt key = s.completeAt key ((s.slotAt key).reply q.kind q.reg v).advance := by
  simp only [State.repliedAt, hreq, hstage, hlive, hdescr, hpush, Bool.false_eq_true, if_false]
/-- A descriptor goes to its engine command, which executes on (R340). -/
theorem State.repliedAt_descr {s : State} {key : Nat} {q : Request} {v : Line} (hreq : (s.slotAt key).req = some q) (hstage : q.stage = .done v)
    (hlive : (s.slotAt key).cancelled = false) (hdescr : q.kind = .descr) :
    s.repliedAt key = s.setSlot key { s.slotAt key with mode := .ready, req := none, descr := some v } := by
  simp only [State.repliedAt, hreq, hstage, hlive, hdescr, Bool.false_eq_true, if_false, if_true]
/-- REPLY_ARRIVE completes what a parked slot waits for. -/
theorem execReplyArrive_parked {s : State} {ctx key : Nat} (hkey : s.keyOf ctx = some key) (hmode : (s.slotAt key).mode = .parked .reply) :
    execReplyArrive ctx s = .next (s.repliedAt key) := by
  simp only [execReplyArrive, hkey, hmode, true_or, if_true]

/-! ### The obligation -/

/-- A load whose walk has been read, of a place elsewhere that no own store meets, is sent and parks its slot. -/
theorem State.reach_load_parks {s u : State} {kind : ReqKind} {ea : Word} {n : Nat} {p : Place} {win : Nat} (reg : Nat)
    (hfault : addrFault s.brick ea n = none) (hwalk : s.walk s.agent ea = (u, none)) (hme : u.me = s.me)
    (hplace : u.resolve u.brick s.me.vd s.me.space s.me.level ea .read = .ok p win)
    (haway : (u.translated u.brick s.me.vd s.me.space s.me.level ea .read).atHand p = false)
    (hclear : (u.translated u.brick s.me.vd s.me.space s.me.level ea .read).forward s.me u.brick p ea n = .clear) :
    ∃ t : State, (s.reach ea n .read fun s p win => s.loadFrom (mkReq kind ea p win reg 0 0) n) = .next t ∧ t.me.mode = .parked .reply ∧
      t.me.g = s.me.g ∧ t.me.pc = s.me.pc ∧ (t.me.req.map fun q => (q.kind, q.place, q.stage, q.reg)) = some (kind, p, .sent, reg) ∧
      t.mem = u.mem ∧ (∀ key, key ≠ u.cur → t.slotAt key = u.slotAt key) ∧ (s.answers = [] → u.mem = s.mem ∧ u.slots = s.slots) := by
  have hcore := u.translated_core u.brick s.me.vd s.me.space s.me.level ea .read
  rw [State.reach_walked hfault hwalk hme hplace]
  generalize u.translated u.brick s.me.vd s.me.space s.me.level ea .read = v at haway hclear hcore
  obtain ⟨hmem, hslots, hcur, -⟩ := State.core_eq hcore
  have hvme : v.me = s.me := (State.me_of_core hcore).trans hme
  have hclear' : v.forward v.me v.brick p ea n = .clear := by rw [hvme, State.brick_of_core hcore, hclear]
  obtain ⟨t, ht, htme, htmem, hothers⟩ := v.send_parks (mkReq kind ea p win reg 0 0)
  refine ⟨t, (State.loadFrom_away (q := mkReq kind ea p win reg 0 0) haway hclear').trans ht, ?_, ?_, ?_, ?_, htmem.trans hmem, ?_, fun ha => ?_⟩
  · rw [htme]
  · rw [htme, hvme]
  · rw [htme, hvme]
  · rw [htme]; rfl
  · intro key hkey
    rw [hothers key (by rwa [hcur]), State.slotAt, State.slotAt, hslots]
  · obtain ⟨hm, hs, -⟩ := State.core_eq (State.walk_core s.agent ea ha)
    rw [hwalk] at hm hs
    exact ⟨hm, hs⟩

/-- Settles O24: a load elsewhere is sent by `State.reach_load_parks`, a home serves it by `State.serveAt_sound`, and its reply completes it by `State.repliedAt_done`. -/
theorem remoteLoads : Obligations.RemoteLoads := by
  unfold Obligations.RemoteLoads
  refine ⟨?_, ?_, ?_⟩
  · intro s u b r i z j p win
    refine ⟨?_, ?_, ?_, ?_⟩
    · rintro m hu ⟨⟨hfault, hwalk, hme⟩, hplace, haway, hclear⟩
      obtain ⟨t, ht, h⟩ := State.reach_load_parks (kind := .ld m) r.val hfault hwalk hme hplace haway hclear
      exact ⟨t, (execLd_reaches r b i hu).trans ht, h⟩
    · rintro ⟨⟨hfault, hwalk, hme⟩, hplace, haway, hclear⟩
      exact State.reach_load_parks (kind := .ldr) r.val hfault hwalk hme hplace haway hclear
    · rintro ⟨⟨hfault, hwalk, hme⟩, hplace, haway, hclear⟩
      exact State.reach_load_parks (kind := .zld) z.val hfault hwalk hme hplace haway hclear
    · rintro m q hm ⟨hfault, hwalk, hme⟩
      exact (execLd_reaches r b i fun e => absurd e hm).trans (State.reach_waits hfault hwalk hme)
  · intro s ctx n k q hk hctx hreq hstage hlink hserves
    subst hctx
    refine ⟨fun hreads hfault => ?_, fun c hreads hopen hfault => ?_, fun hkind hopen hfault => ?_⟩
    · refine (execLoadAtHome_sent hk hreq hstage hlink (ReqKind.isRead_of_reads hreads)).trans (congrArg _ ?_)
      exact State.serveAt_sound hserves (State.closing_of_sound hfault)
        ((State.perform_reads hreads).trans (State.readPerform_sound hfault)) (s.touch_stallq _)
    · refine (execLoadAtHome_sent hk hreq hstage hlink (ReqKind.isRead_of_reads hreads)).trans (congrArg _ ?_)
      exact State.serveAt_sound hserves hopen ((State.perform_reads hreads).trans (State.readPerform_fault hfault)) rfl
    · have hread : q.kind.isRead = true := by rw [hkind]; rfl
      refine (execLoadAtHome_sent hk hreq hstage hlink hread).trans (congrArg _ ?_)
      refine State.serveAt_sound hserves hopen ?_ rfl
      simp only [State.perform, hkind, State.genPerform, hfault, Bool.false_eq_true, if_false]
  · intro s ctx key q v hkey hmode hreq hstage hlive
    have hdone : q.kind ≠ .descr → (s.slotAt key).replyPushes q = false → ∀ k', (s.slotAt key).reply q.kind q.reg v = k' →
        exec (.replyArrive ctx) s = .next (s.completeAt key k'.advance) := fun hd hp k' hk' => by
      rw [← hk', ← State.repliedAt_done hreq hstage hlive hd hp]
      exact execReplyArrive_parked hkey hmode
    refine ⟨fun m hm hne => ?_, fun hm hp => ?_, fun hm => ?_, fun hm => ?_, fun o z hm => ?_, fun hm => ?_, fun hm => ?_⟩
    · refine hdone (by simp [hm]) ?_ _ ?_
      · cases m <;> simp [Slot.replyPushes, hm] at hne ⊢
      · cases m <;> simp [Slot.reply, Slot.load, hm] at hne ⊢
    · exact hdone (by simp [hm]) hp _ (by simp only [Slot.reply, hm, Slot.load])
    · exact hdone (by simp [hm]) (by simp only [Slot.replyPushes, hm]) _ (by simp only [Slot.reply, hm])
    · simp only [List.mem_cons, List.not_mem_nil, or_false] at hm
      rcases hm with hm | hm | hm | hm | hm | hm | hm <;>
        exact hdone (by simp [hm]) (by simp only [Slot.replyPushes, hm]) _ (by simp only [Slot.reply, hm])
    · exact hdone (by simp [hm]) (by simp only [Slot.replyPushes, hm]) _ (by simp only [Slot.reply, hm])
    · rcases hm with hm | hm <;>
        exact hdone (by simp [hm]) (by simp only [Slot.replyPushes, hm]) _ (by simp only [Slot.reply, hm])
    · exact (execReplyArrive_parked hkey hmode).trans (congrArg _ (State.repliedAt_descr hreq hstage hlive hm))

end Sys2Proof.Machine
end

section
/-!
SUPPORT. The steps of a hitless update, how contexts halt and go on, and what a debug server reads and writes; UpdatesAndDebug is assembled from these.
-/
namespace Sys2Proof.Machine

/-! ### Hitless update (R56, R57) -/

/-- What the system cores go by: the update under way, the boot hardware, the slots and the switches. -/
def State.gap (s : State) : Option Update × Boot × KMap Slot × List SwitchRec := (s.update, s.boot, s.slots, s.switches)
theorem State.gap_eq {s t : State} (h : t.gap = s.gap) : t.update = s.update ∧ t.boot = s.boot ∧ t.slots = s.slots ∧ t.switches = s.switches := by
  obtain ⟨hu, h⟩ := Prod.mk.inj h
  obtain ⟨hb, h⟩ := Prod.mk.inj h
  exact ⟨hu, hb, Prod.mk.inj h⟩
theorem State.setFun_gap (s : State) (f : Nat) (x : HostFun) : (s.setFun f x).gap = s.gap := rfl
theorem State.hostWrite_gap (s : State) (a : Nat) (bs : List Byte) : (s.hostWrite a bs).gap = s.gap := rfl
theorem State.flush_gap (f fuel : Nat) : ∀ s : State, (s.flush f fuel).gap = s.gap := by
  induction fuel with
  | zero => exact fun _ => rfl
  | succ fuel ih =>
    intro s
    simp only [State.flush]
    split
    · rfl
    · split
      · rw [ih, State.setFun_gap, State.hostWrite_gap, State.hostWrite_gap]
      · rfl
theorem State.respond_gap (s : State) (f seq status value : Nat) (counters : List Nat) :
    (s.respond f seq status value counters).gap = s.gap := by
  unfold State.respond State.flushAll
  simp only
  split
  · split
    · exact State.flush_gap _ _ _
    · rfl
  · rfl
theorem State.answerUpdate_gap (s : State) (u : Update) (status : Nat) : (s.answerUpdate u status).gap = s.gap := by
  unfold State.answerUpdate
  split
  · exact s.respond_gap _ _ _ _ _
  · rfl
theorem State.rearm_slots (s : State) (u : Update) : (s.rearm u).slots = s.slots := by
  refine foldl_view State.slots (fun t (w : SwitchRec) => ?_) u.cancelled s
  split <;> rfl

theorem State.serve_sound {s : State} {id op : Nat} {pfOnly : Bool} {sound : HostReq → Bool} {go : HostReq → State} {r : HostReq}
    (hr : s.request? 0 id op = some r) (h : sound r = true) : s.serve 0 id op pfOnly sound go = .next (go r) := by
  simp [State.serve, hr, h]

/-- An accepted image is the one in the inactive slot. -/
theorem Boot.inactive_of_slot {b : Boot} {i : Image} (h : b.slot (!b.activeB) = some i) :
    b.inactive = if b.accepts b.minNerem i then some i else none := by
  unfold Boot.inactive
  rw [h]
  rfl

/-- The boot hardware after a health report at a time. -/
def Boot.heard (b : Boot) (at0 : Nat) : Boot := { b with healthBy := at0 + healthPeriod }
/-- The boot hardware once an image runs for good. -/
def Boot.running (b : Boot) (second : Bool) : Boot := { b with activeB := second, trial := false, img := if second then 2 else 1 }
/-- The machine after a health report, before the update is answered. -/
def State.reported (s : State) (u : Update) : State :=
  { s.rearm u with update := none, boot := s.boot.heard s.devTime }
/-- The slot of the new image becomes active. -/
def State.switchedOver (s : State) (u : Update) : State := { s with boot := s.boot.running u.toB }
theorem State.reported_gap (s : State) (u : Update) :
    (s.reported u).gap = (none, s.boot.heard s.devTime, s.slots, (s.rearm u).switches) := by
  unfold State.gap State.reported
  rw [s.rearm_slots u]
theorem State.switchedOver_gap (s : State) (u : Update) :
    ((s.reported u).switchedOver u).gap = (none, (s.boot.heard s.devTime).running u.toB, s.slots, (s.rearm u).switches) := by
  obtain ⟨hu, hb, hs, hw⟩ : _ := (by simpa [State.gap] using s.reported_gap u)
  exact Prod.ext hu (Prod.ext (congrArg (Boot.running · u.toB) hb) (Prod.ext hs hw))
/-- UPDATE, accepted: the record of the update, with the armed switches cancelled. -/
def State.updatingTo (s : State) (id : Nat) (i : Image) : State :=
  { s.taken 0 id with
    update := some ⟨some (0, id), !s.boot.activeB, false, s.devTime, false, s.switches.filter fun w => !w.taken, some i,
      s.boot.neremMeasured⟩
    switches := s.switches.filter (·.taken) }

section
variable {s : State} {id : Nat} {r : HostReq} (hr : s.request? 0 id 0x50 = some r) (hlen : r.len = 0)
include hr hlen
theorem execUpdate_asked :
    exec (.update 0 id) s = .next (if s.update.isSome then s.reply 0 id 3 0 else match s.boot.inactive with
      | none => s.reply 0 id 4 0
      | some i => s.updatingTo id i) :=
  State.serve_sound (sound := fun r => decide (r.len = 0)) hr (decide_eq_true hlen)
theorem execUpdate_twice (h : s.update.isSome = true) : exec (.update 0 id) s = .next (s.reply 0 id 3 0) :=
  (execUpdate_asked hr hlen).trans (congrArg Host.Outcome.next (if_pos h))
theorem execUpdate_first (h : s.update = none) :
    exec (.update 0 id) s = .next (match s.boot.inactive with
      | none => s.reply 0 id 4 0
      | some i => s.updatingTo id i) :=
  (execUpdate_asked hr hlen).trans (congrArg Host.Outcome.next (if_neg (by simp [h])))
end

theorem State.neremRuns_updating {s : State} {u : Update} (h : s.update = some u) : s.neremRuns = false := by simp [State.neremRuns, h]
theorem execQueuePoll_updating {s : State} {u : Update} (h : s.update = some u) (g : Nat) : exec (.queuePoll g) s = .next s :=
  if_pos (by simp [State.neremRuns_updating h])

section
variable {s : State} {u : Update} (h : s.update = some u)
include h
theorem execUpdateHandoff_idle (hh : u.handed = false) (hidle : s.coresIdle = true) : exec .updateHandoff s =
    .next { s with update := some { u with handed := true, startedAt := s.devTime }, boot := { s.boot with neremMeasured := u.accepted } } := by
  simp [exec, execUpdateHandoff, h, hh, hidle]
theorem execUpdateHandoff_busy (hbusy : s.coresIdle = false) : exec .updateHandoff s = .next s := by
  simp [exec, execUpdateHandoff, h, hbusy]
theorem execUpdateHealthReport_eq : exec .updateHealthReport s =
    if !u.handed || (!u.fellBack && decide (u.startedAt + 200000000 < s.devTime)) then .next s
    else if u.fellBack then .next ((s.reported u).choose.2.answerUpdate u ((s.reported u).choose.1 % 7))
    else .next ((s.reported u).switchedOver u |>.answerUpdate u 0) := by
  show execUpdateHealthReport s = _
  unfold execUpdateHealthReport
  rw [h]
  rfl
theorem execUpdateHealthReport_late (hfell : u.fellBack = false) (hlate : u.startedAt + 200000000 < s.devTime) :
    exec .updateHealthReport s = .next s :=
  (execUpdateHealthReport_eq h).trans (if_pos (by simp [hfell, hlate]))
/-- A report in time: the slot of the new image is active. -/
theorem execUpdateHealthReport_inTime (hh : u.handed = true) (hfell : u.fellBack = false) (hin : s.devTime ≤ u.startedAt + 200000000) :
    ∃ t : State, exec .updateHealthReport s = .next t ∧
      t.gap = (none, (s.boot.heard s.devTime).running u.toB, s.slots, (s.rearm u).switches) := by
  refine ⟨_, (execUpdateHealthReport_eq h).trans ((if_neg ?_).trans (if_neg ?_)), ?_⟩
  · simpa [hh, hfell] using hin
  · simp [hfell]
  · rw [State.answerUpdate_gap, State.switchedOver_gap]
/-- A report after the fallback: the old image serves again. -/
theorem execUpdateHealthReport_back (hh : u.handed = true) (hfell : u.fellBack = true) :
    ∃ t : State, exec .updateHealthReport s = .next t ∧ t.gap = (none, s.boot.heard s.devTime, s.slots, (s.rearm u).switches) := by
  refine ⟨_, (execUpdateHealthReport_eq h).trans ((if_neg ?_).trans (if_pos hfell)), ?_⟩
  · simp [hh, hfell]
  · rw [State.answerUpdate_gap]
    exact s.reported_gap u
theorem execUpdateFallback_due (hh : u.handed = true) (hfell : u.fellBack = false) (hdue : u.startedAt + 200000000 ≤ s.devTime) :
    exec .updateFallback s =
      .next { s with update := some { u with fellBack := true }, boot := { s.boot.fail u.toB with neremMeasured := u.before } } := by
  simp [exec, execUpdateFallback, h, hh, hfell, hdue]
/-- In the gap no demand fault is answered but that of a device in destruction. -/
theorem execDemandFaultRetry_gap {id : Nat} (ws : List TableWrite)
    (hd : ∀ d ∈ s.demands, d.id = id → (s.vd? d.vd).bind (·.destroy) = none) : exec (.demandFaultRetry id ws) s = .next s := by
  have hnone : s.demand? id = none := by
    refine List.find?_eq_none.mpr fun d hmem => ?_
    rw [Bool.and_eq_true, not_and, Bool.not_eq_true]
    intro hid
    have hdestroy := hd d hmem (of_decide_eq_true hid)
    unfold State.answers?
    rw [State.neremRuns_updating h]
    cases hv : s.vd? d.vd with
    | none => simp
    | some v => simp [hv] at hdestroy; simp [hdestroy]
  simp only [exec, execDemandFaultRetry, hnone]
end
theorem Boot.failed_fail (b : Boot) (second : Bool) : (b.fail second).failed second = true := by cases second <;> rfl

/-- UPDATE and what follows it. -/
theorem updateRequest (s : State) (id : Nat) (r : HostReq) (hr : s.request? 0 id 0x50 = some r) (hlen : r.len = 0) :
    (s.update = none → (∀ i, s.boot.slot (!s.boot.activeB) = some i → ∃ t : State, exec (.update 0 id) s = .next t ∧
        if s.boot.accepts s.boot.minNerem i then
          t.update = some ⟨some (0, id), !s.boot.activeB, false, s.devTime, false, s.switches.filter fun w => !w.taken, some i, s.boot.neremMeasured⟩ ∧
          (∀ w ∈ t.switches, w.taken = true) ∧ t.mem = s.mem ∧ ∀ g, exec (.queuePoll g) t = .next t
        else t = s.reply 0 id 4 0) ∧
        (s.boot.slot (!s.boot.activeB) = none → exec (.update 0 id) s = .next (s.reply 0 id 4 0))) ∧
      (s.update.isSome = true → exec (.update 0 id) s = .next (s.reply 0 id 3 0)) := by
  refine ⟨fun hnone => ⟨fun i hslot => ?_, fun hslot => ?_⟩, execUpdate_twice hr hlen⟩
  · have hexec := execUpdate_first hr hlen hnone
    rw [Boot.inactive_of_slot hslot] at hexec
    refine ⟨_, hexec, ?_⟩
    split
    · exact ⟨rfl, fun w hw => (List.mem_filter.mp hw).2, rfl, execQueuePoll_updating rfl⟩
    · rfl
  · have hexec := execUpdate_first hr hlen hnone
    rwa [Boot.inactive, hslot] at hexec
theorem updateGap (s : State) (u : Update) (h : s.update = some u) :
    (u.handed = false → s.coresIdle = true → exec .updateHandoff s =
        .next { s with
          update := some { u with handed := true, startedAt := s.devTime },
          boot := { s.boot with neremMeasured := u.accepted } }) ∧
      (s.coresIdle = false → exec .updateHandoff s = .next s) ∧
      (u.handed = true → u.fellBack = false → s.devTime ≤ u.startedAt + 200000000 → ∃ t : State, exec .updateHealthReport s = .next t ∧
        t.update = none ∧ t.boot.activeB = u.toB ∧ t.boot.neremMeasured = s.boot.neremMeasured ∧
        t.boot.trial = false ∧ t.boot.img = (if u.toB then 2 else 1) ∧ t.slots = s.slots ∧ t.switches = (s.rearm u).switches) ∧
      (u.fellBack = false → u.startedAt + 200000000 < s.devTime → exec .updateHealthReport s = .next s) ∧
      (u.handed = true → u.fellBack = true → ∃ t : State, exec .updateHealthReport s = .next t ∧ t.update = none ∧
        t.boot.activeB = s.boot.activeB ∧ t.switches = (s.rearm u).switches) ∧
      (u.handed = true → u.fellBack = false → u.startedAt + 200000000 ≤ s.devTime → ∃ t : State, exec .updateFallback s = .next t ∧
        t.update = some { u with fellBack := true } ∧ t.boot.failed u.toB = true ∧ t.boot.neremMeasured = u.before ∧ t.mem = s.mem) ∧
      ∀ (id : Nat) (ws : List TableWrite), (∀ d ∈ s.demands, d.id = id → (s.vd? d.vd).bind (·.destroy) = none) →
        exec (.demandFaultRetry id ws) s = .next s := by
  refine ⟨execUpdateHandoff_idle h, execUpdateHandoff_busy h, fun hh hfell hin => ?_, execUpdateHealthReport_late h, fun hh hfell => ?_,
    fun hh hfell hdue => ⟨_, execUpdateFallback_due h hh hfell hdue, rfl, Boot.failed_fail _ _, rfl, rfl⟩, fun id ws => execDemandFaultRetry_gap h ws⟩
  · obtain ⟨t, hexec, hgap⟩ := execUpdateHealthReport_inTime h hh hfell hin
    obtain ⟨hu, hgap⟩ := Prod.mk.inj hgap
    obtain ⟨hb, hgap⟩ := Prod.mk.inj hgap
    obtain ⟨hs, hw⟩ := Prod.mk.inj hgap
    exact ⟨t, hexec, hu, congrArg Boot.activeB hb, (congrArg Boot.neremMeasured hb).trans rfl, congrArg Boot.trial hb, congrArg Boot.img hb, hs, hw⟩
  · obtain ⟨t, hexec, hgap⟩ := execUpdateHealthReport_back h hh hfell
    obtain ⟨hu, hgap⟩ := Prod.mk.inj hgap
    obtain ⟨hb, hgap⟩ := Prod.mk.inj hgap
    exact ⟨t, hexec, hu, (congrArg Boot.activeB hb).trans rfl, (Prod.mk.inj hgap).2⟩

/-! ### Attaching and halting (R58, R59) -/

/-- A fill starts threads and takes arrivals; what is held stays. -/
theorem State.fill_held (s : State) (key : Nat) : (s.fill key).held = s.held := by
  unfold State.fill
  split
  · split
    · split
      · rfl
      · simp only [State.fillFor]
        split
        · rfl
        · split <;> rfl
    · rfl
  · rfl
/-- Without a reservation a context that gives up what it waits for leaves the slots and the memories. -/
theorem State.release_unreserved (s : State) {k : Slot} (h : k.resv = none) (key : Nat) :
    (s.release k).slotAt key = s.slotAt key ∧ (s.release k).store = s.store := by
  simp only [State.release, State.handOn, h]
  exact ⟨rfl, rfl⟩
theorem Slot.withdrawn_ready {k : Slot} (h : k.mode = .ready) : k.withdrawn = k := by simp only [Slot.withdrawn, h]
/-- A ready context without a reservation stands halted in its save area; no byte changes. -/
theorem State.haltOut_ready (s : State) {key : Nat} {k : Slot} (hk : s.slotAt key = k) (hmode : k.mode = .ready) (hresv : k.resv = none) :
    KMap.find? (s.haltOut key).held (keepKey k.ctx key k.vd) = some k.halt ∧ (s.haltOut key).mem = s.mem := by
  obtain ⟨hslot, hstore⟩ := s.release_unreserved hresv key
  simp only [State.haltOut, hk, hslot, Slot.withdrawn_ready hmode]
  refine ⟨?_, State.mem_of_store ?_⟩
  · rw [State.fill_held]
    exact KMap.find?_set_self _ _ _
  · rw [State.fill_store]
    exact hstore

section
variable {s u : State} {b n : Nat}
theorem execDebugHaltTakesEffect_stores (h : (s.slotAt (8 * b + n)).sb ≠ []) : exec (.debugHaltTakesEffect b n) s = .next s :=
  if_neg fun hnow => h hnow.2.2.2
theorem execDebugHaltTakesEffect_now (hask : (s.slotAt (8 * b + n)).haltAsked = true) (hctx : (s.slotAt (8 * b + n)).ctx ≠ 0)
    (hmode : (s.slotAt (8 * b + n)).mode = .ready) (hsb : (s.slotAt (8 * b + n)).sb = []) :
    exec (.debugHaltTakesEffect b n) s = .next (s.haltSlot (8 * b + n)) :=
  if_pos ⟨hask, hctx, by rw [Slot.withdrawn_ready hmode, hmode], hsb⟩
end

theorem names_one {vd c : Nat} {k : Slot} (hvd : k.vd = vd) (hctx : k.ctx = c) (h0 : c ≠ 0) : names vd (some c) k = true := by
  simp [names, hvd, hctx, h0]
/-- What DEBUG_HALT asks of a context in a slot. -/
def haltAsk (vd : Nat) (c : Option Nat) (kv : Nat × Slot) : Nat × Slot :=
  if names vd c kv.2 ∧ kv.2.mode ≠ .halted then (kv.1, { kv.2 with haltAsked := true }) else kv
/-- The machine once DEBUG_HALT has asked contexts in slots to stop, and halted saved ones where they stand. -/
def State.haltsAsked (s : State) (vd : Nat) (c : Option Nat) : State :=
  { s with
    slots := s.slots.map (haltAsk vd c)
    saved := (s.saved.filter fun kv => !(names vd c kv.2 && kv.2.haltsHere)).map (haltAsk vd c)
    held := ((s.saved ++ s.held).filter fun kv => names vd c kv.2 && kv.2.haltsHere).foldl
      (fun (m : KMap Slot) (kv : Nat × Slot) => KMap.set m kv.1 kv.2.halt) (s.held.map (haltAsk vd c)) }
theorem execDebugHalt_attached {s : State} {vd : Nat} (c : Option Nat) (h : s.debugs vd = true) :
    exec (.debugHalt vd c) s = .next ((s.haltsAsked vd c).haltArrivals vd c) :=
  if_neg (by simp [h])
theorem haltAsk_one {vd c : Nat} {kv : Nat × Slot} (hvd : kv.2.vd = vd) (hctx : kv.2.ctx = c) (h0 : c ≠ 0) (hmode : kv.2.mode ≠ .halted) :
    haltAsk vd (some c) kv = (kv.1, { kv.2 with haltAsked := true }) :=
  if_pos ⟨names_one hvd hctx h0, hmode⟩
/-- A saved context that waits for nothing is halted where it stands. -/
theorem State.haltsAsked_saved {s : State} {vd c a : Nat} {k : Slot} (hsaved : s.saved = [(a, k)]) (hheld : s.held = [])
    (hname : names vd (some c) k = true) (hhere : k.haltsHere = true) :
    (s.haltsAsked vd (some c)).saved = [] ∧ (s.haltsAsked vd (some c)).held = [(a, k.halt)] := by
  constructor
  · simp [State.haltsAsked, hsaved, hname, hhere]
  · simp [State.haltsAsked, hsaved, hheld, hname, hhere, KMap.set]
/-- With nothing under way, arrivals change nothing that is held. -/
theorem State.haltArrivals_none (s : State) (vd : Nat) (c : Option Nat) (harr : s.arrivals = []) (hsp : s.spills = []) (hmig : s.migMsgs = []) :
    (s.haltArrivals vd c).held = s.held := by
  simp [State.haltArrivals, harr, hsp, hmig]
/-- A migrant on its way is halted where it stands. -/
theorem State.haltArrivals_migrant (s : State) {vd c : Nat} {m : MigMsg} (harr : s.arrivals = []) (hsp : s.spills = []) (hmig : s.migMsgs = [m])
    (hheld : s.held = []) (hname : names vd (some c) (landed m.m) = true) :
    (s.haltArrivals vd (some c)).migMsgs = [] ∧
      (s.haltArrivals vd (some c)).held = [(keepKey (landed m.m).ctx (8 * m.brick) vd, (landed m.m).halt)] := by
  constructor
  · simp [State.haltArrivals, hmig, hname]
  · simp [State.haltArrivals, harr, hsp, hmig, hheld, hname, KMap.set]

/-! ### Going on (R59) -/

/-- A debug operation of a device that has none under way is carried out at once; one that memory makes wait is kept. -/
theorem State.debugAsk_first {s : State} {vd : Nat} (o : DebugOp) (h : s.debugs vd = true) (hops : ∀ x ∈ s.debugOps, x.2.1 ≠ vd) :
    s.debugAsk vd o = match s.debugRun s.nextId vd o with
      | (s', true) => { s' with debugOps := s'.debugOps ++ [(s.nextId, vd, o)], nextId := s'.nextId + 1 }
      | (s', false) => s' := by
  have hnone : (s.debugOps.any fun x => decide (x.2.1 = vd)) = false := by
    simpa using fun a b c hmem => hops (a, b, c) hmem
  simp only [State.debugAsk, h, hnone]
  rfl

theorem State.debugAsk_done {s t : State} {vd : Nat} {o : DebugOp} (h : s.debugs vd = true) (hops : ∀ x ∈ s.debugOps, x.2.1 ≠ vd)
    (hrun : s.debugRun s.nextId vd o = (t, false)) : s.debugAsk vd o = t := by
  rw [State.debugAsk_first o h hops, hrun]
theorem State.debugAsk_waits {s t : State} {vd : Nat} {o : DebugOp} (h : s.debugs vd = true) (hops : ∀ x ∈ s.debugOps, x.2.1 ≠ vd)
    (hrun : s.debugRun s.nextId vd o = (t, true)) :
    s.debugAsk vd o = { t with debugOps := t.debugOps ++ [(s.nextId, vd, o)], nextId := t.nextId + 1 } := by
  rw [State.debugAsk_first o h hops, hrun]
/-- A halted context goes on in the lowest free slot of its brick once its image has been read. -/
theorem State.resumeCtx_done {s u : State} {vd c at0 n : Nat} {k : Slot} (hhalted : s.haltedCtx vd c = some (at0, k))
    (hfree : s.freeSlot vd (at0 % 2 ^ 18 / 128) = some n)
    (hread : s.contextPassage imagePass vd (at0 % 2 ^ 18 / 16) 0 4096 none = (u, .done)) (step : Bool) :
    s.resumeCtx vd c step = ({ u with held := KMap.erase u.held at0 }.setSlot (8 * (at0 % 2 ^ 18 / 128) + n)
      { k with mode := .ready, debugStep := step }, false) := by
  simp only [State.resumeCtx, hhalted, hfree, hread]

/-! ### Listing, reading and writing (Table 2.11) -/

/-- The lines of LIST: contexts in slots, saved or held, those that wait to arrive, and migrants on their way. -/
def State.listed (s : State) (vd : Nat) : List Word :=
  (((s.slots.filter fun (kv : Nat × Slot) => decide (kv.2.vd = vd ∧ kv.2.mode ≠ .free ∧ kv.2.ctx ≠ 0)).map fun kv => listLine kv.1 true kv.2)
    ++ (((s.saved ++ s.held).filter fun (kv : Nat × Slot) => decide (kv.2.vd = vd ∧ kv.2.mode ≠ .free ∧ kv.2.ctx ≠ 0)).map fun kv =>
      listLine (kv.1 % 2 ^ 18 / 16) false kv.2)
    ++ (((s.arrivals ++ s.spills).filter fun kv => decide (kv.1 % 16 = vd)).map fun kv => (kv.2.map (arrivalLine kv.1)).flatten)
    ++ (s.migMsgs.filter fun m => decide (m.m.vd = vd)).map fun m => listLine (8 * m.brick) false (landed m.m)).flatten
theorem execDebugList_attached {s : State} {vd : Nat} (h : s.debugs vd = true) : exec (.debugList vd) s = .next (s.debugReply vd (s.listed vd)) :=
  if_neg (by simp [h])
theorem State.listed_slot {s : State} {vd key : Nat} {k : Slot} (hslots : s.slots = [(key, k)]) (hsaved : s.saved = []) (hheld : s.held = [])
    (harr : s.arrivals = []) (hsp : s.spills = []) (hmig : s.migMsgs = []) (hvd : k.vd = vd) (hmode : k.mode = .ready) (hctx : k.ctx ≠ 0) :
    s.listed vd = [wrap k.ctx, wrap key, 1, 1] := by
  simp [State.listed, hslots, hsaved, hheld, harr, hsp, hmig, hvd, hmode, hctx, listLine, b2n, SlotMode.code, wrap]
theorem State.listed_migrant {s : State} {vd : Nat} {m : MigMsg} (hmig : s.migMsgs = [m]) (hslots : s.slots = []) (hsaved : s.saved = [])
    (hheld : s.held = []) (harr : s.arrivals = []) (hsp : s.spills = []) (hvd : m.m.vd = vd) :
    s.listed vd = [wrap m.m.ctx, wrap (8 * m.brick), 0, 1] := by
  simp [State.listed, hslots, hsaved, hheld, harr, hsp, hmig, hvd, listLine, b2n, SlotMode.code, wrap, landed]

/-- A word of a halted context's image is reached once its memory serves. -/
theorem State.imageDo_done {s u : State} {id vd c off at0 : Nat} {k : Slot} {d : VDev} {v : Option Word} {bad : State → State}
    {go : State → Nat → Slot → State} (hhalted : s.haltedCtx vd c = some (at0, k)) (hvd : s.vd? vd = some d) (hword : off % 8 = 0) (hin : off < 4096)
    (hpass : s.passage (unitToken debugPass id) vd (d.imageAt (at0 % 2 ^ 18 / 16) + off) 8 (v.map fun w => leBytes 8 w.toNat) = (u, .done))
    (hstill : u.haltedCtx vd c = some (at0, k)) : s.imageDo id vd c off v bad go = (go u at0 k, false) := by
  simp only [State.imageDo, hhalted, hvd, hpass, hstill, if_pos (And.intro hword hin)]

/-! ### Walks note the use of pseudo-channels alone -/

/-- The machine with the idle times of its pseudo-channels started again. -/
def State.withUse (s : State) (q : KMap Nat) : State := { s with pchUse := q }
/-- Is a place no place of a bank? -/
def Place.offBank (p : Place) : Prop := ∀ b off, p ≠ .sram b off
theorem State.touch_offBank (s : State) (q : KMap Nat) {p : Place} (h : p.offBank) : ∃ q', (s.withUse q).touch p = s.withUse q' := by
  cases p with
  | sram b off => exact absurd rfl (h b off)
  | hbm pa => exact ⟨_, rfl⟩
  | host a => exact ⟨q, rfl⟩
  | peer c a => exact ⟨q, rfl⟩
theorem State.homeFault_withUse (s : State) (q : KMap Nat) (vd win : Nat) (p : Place) (size : Nat) (wr whole : Bool) :
    (s.withUse q).homeFault vd win p size wr whole = s.homeFault vd win p size wr whole := by cases p <;> rfl
theorem State.readAt_withUse (s : State) (q : KMap Nat) (vd win : Nat) (p : Place) (size : Nat) :
    (s.withUse q).readAt vd win p size = s.readAt vd win p size := by
  unfold State.readAt
  rw [State.homeFault_withUse]
  cases p <;> rfl
theorem State.stalled_withUse (s : State) (q : KMap Nat) (p : Place) : (s.withUse q).stalled p = s.stalled p := by cases p <;> rfl
theorem State.stage2Read_withUse (s : State) (q : KMap Nat) (vd ipa : Nat) : (s.withUse q).stage2Read vd ipa = s.stage2Read vd ipa := by
  have hstage : (s.withUse q).stage2 vd .read ipa = s.stage2 vd .read ipa := rfl
  simp only [State.stage2Read, hstage, State.readAt_withUse]
theorem State.walkGuest_withUse (s : State) (q : KMap Nat) (vd va : Nat) (shs : List Nat) : ∀ table : Nat,
    (s.withUse q).walkGuest vd va table shs = s.walkGuest vd va table shs := by
  induction shs with
  | nil => exact fun _ => rfl
  | cons sh rest ih =>
    intro table
    simp only [State.walkGuest, State.stage2Read_withUse, ih]
theorem State.translate_withUse (s : State) (q : KMap Nat) (vd : Nat) (space : BitVec 12) (lvl : Level) (va : Nat) (k : Access) :
    (s.withUse q).translate vd space lvl va k = s.translate vd space lvl va k := by
  have hstage : ∀ ipa, (s.withUse q).stage2 vd k ipa = s.stage2 vd k ipa := fun _ => rfl
  simp only [State.translate, State.guestLeaf, State.stage2Read_withUse, State.walkGuest_withUse, hstage]
theorem State.resolve_withUse (s : State) (q : KMap Nat) (brick vd : Nat) (space : BitVec 12) (lvl : Level) (ea : Word) (k : Access) :
    (s.withUse q).resolve brick vd space lvl ea k = s.resolve brick vd space lvl ea k := by
  have hcached : ∀ die va, (s.withUse q).cached die vd space va = s.cached die vd space va := fun _ _ => rfl
  have huse : ∀ ipa e sh, (s.withUse q).useHyp k ipa e sh = s.useHyp k ipa e sh := fun _ _ _ => rfl
  simp only [State.resolve, State.translateAt, State.translate_withUse, hcached, huse]

theorem hypPlace_offBank (e sh ipa : Nat) : (hypPlace e sh ipa).offBank := by
  intro b off
  simp only [hypPlace]
  split <;> exact Place.noConfusion
theorem State.hypReads_offBank (s : State) (ipa : Nat) (shs : List Nat) : ∀ table : Nat, ∀ r ∈ s.hypReads ipa table shs, r.place.offBank := by
  induction shs with
  | nil => simp [State.hypReads]
  | cons sh rest ih =>
    intro table r hr
    rcases List.mem_cons.mp hr with rfl | hr
    · exact fun _ _ => Place.noConfusion
    · split at hr
      · exact absurd hr List.not_mem_nil
      · exact ih _ r hr
theorem State.ipaReads_offBank (s : State) (vd ipa : Nat) : ∀ r ∈ s.ipaReads vd ipa, r.place.offBank := by
  unfold State.ipaReads
  split
  · exact s.hypReads_offBank ipa _ _
  · simp
/-- A walk of the hypervisor stage that ends in no leaf names no place. -/
theorem State.walkHyp_error (s : State) {ipa win : Nat} {p : Place} (shs : List Nat) : ∀ table : Nat, s.walkHyp ipa table shs ≠ .error (.ok p win) := by
  induction shs with
  | nil => exact fun _ h => TResult.noConfusion (Except.error.inj h)
  | cons sh rest ih =>
    intro table
    simp only [State.walkHyp]
    split
    · exact fun h => TResult.noConfusion (Except.error.inj h)
    · split
      · exact fun h => TResult.noConfusion (Except.error.inj h)
      · split
        · simp
        · exact ih _
theorem State.hypLeaf_error (s : State) {vd ipa win : Nat} {p : Place} : s.hypLeaf vd ipa ≠ .error (.ok p win) := by
  unfold State.hypLeaf
  split
  · exact s.walkHyp_error _ _
  · exact fun h => TResult.noConfusion (Except.error.inj h)
theorem State.useHyp_offBank {s : State} {k : Access} {ipa e sh win : Nat} {p : Place} (h : s.useHyp k ipa e sh = .ok p win) : p.offBank := by
  unfold State.useHyp at h
  split at h
  · exact TResult.noConfusion h
  · split at h
    · exact TResult.noConfusion h
    · exact (TResult.ok.inj h).1 ▸ hypPlace_offBank _ _ _
theorem State.stage2_offBank {s : State} {vd ipa win : Nat} {k : Access} {p : Place} (h : s.stage2 vd k ipa = .ok p win) : p.offBank := by
  unfold State.stage2 at h
  split at h
  · exact State.useHyp_offBank h
  · next hleaf => exact absurd (h ▸ hleaf) s.hypLeaf_error
theorem State.wordReads_offBank (s : State) (vd ipa : Nat) : ∀ r ∈ s.wordReads vd ipa, r.place.offBank := by
  intro r hr
  rcases List.mem_append.mp hr with hr | hr
  · exact s.ipaReads_offBank vd ipa r hr
  · split at hr
    · next hstage => exact List.mem_singleton.mp hr ▸ State.stage2_offBank hstage
    · exact absurd hr List.not_mem_nil
theorem State.guestReads_offBank (s : State) (vd va : Nat) (shs : List Nat) : ∀ table : Nat, ∀ r ∈ s.guestReads vd va table shs, r.place.offBank := by
  induction shs with
  | nil => simp [State.guestReads]
  | cons sh rest ih =>
    intro table r hr
    rcases List.mem_append.mp hr with hr | hr
    · exact s.wordReads_offBank vd _ r hr
    · split at hr
      · exact absurd hr List.not_mem_nil
      · split at hr
        · exact absurd hr List.not_mem_nil
        · split at hr
          · exact s.ipaReads_offBank vd _ r hr
          · exact ih _ r hr
/-- The words that a walk reads lie in no bank. -/
theorem State.walkReads_offBank (s : State) (vd : Nat) (space : BitVec 12) (va : Nat) : ∀ r ∈ s.walkReads vd space va, r.place.offBank := by
  intro r hr
  rcases List.mem_append.mp hr with hr | hr
  · exact s.wordReads_offBank vd _ r hr
  · split at hr
    · exact absurd hr List.not_mem_nil
    · split at hr
      · exact absurd hr List.not_mem_nil
      · exact s.guestReads_offBank vd va _ _ r hr

section
variable {s : State} (hans : s.answers = []) (hq : s.stallq = [])
include hq
theorem State.blocked_withUse (q : KMap Nat) (token : Nat) (p : Place) : (s.withUse q).blocked token p = s.stalled p := by
  unfold State.blocked State.behind
  rw [State.stalled_withUse, show (s.withUse q).stallq = [] from hq]
  exact Bool.or_false _
theorem State.unstall_withUse (q : KMap Nat) (token : Nat) : (s.withUse q).unstall token = s.withUse q := by
  have hempty : (s.withUse q).stallq.filter (fun e => decide (e.token ≠ token)) = (s.withUse q).stallq := by
    rw [show (s.withUse q).stallq = [] from hq, List.filter_nil]
  unfold State.unstall
  rw [hempty]
theorem State.servedAt_withUse (q : KMap Nat) (token : Nat) (p : Place) : (s.withUse q).servedAt token p = s.withUse q := by
  have hempty : (s.withUse q).stallq.filter (fun e => decide (¬ (e.token = token ∧ e.place = p))) = (s.withUse q).stallq := by
    rw [show (s.withUse q).stallq = [] from hq, List.filter_nil]
  unfold State.servedAt
  rw [hempty]
include hans
/-- Words of tables off the banks that nothing holds up are read without waiting. -/
theorem State.readWords_sound (token vd : Nat) (rs : List TableRead) (hoff : ∀ r ∈ rs, r.place.offBank) (hfree : ∀ r ∈ rs, s.stalled r.place = false) :
    ∀ q : KMap Nat, ∃ q', (s.withUse q).readWords token vd rs = (s.withUse q', none) := by
  induction rs with
  | nil => exact fun q => ⟨q, rfl⟩
  | cons r rest ih =>
    intro q
    obtain ⟨q', htouch⟩ := s.touch_offBank q (hoff r List.mem_cons_self)
    have hgo := ih (fun x hx => hoff x (List.mem_cons_of_mem _ hx)) (fun x hx => hfree x (List.mem_cons_of_mem _ hx)) q'
    have hlook : ∀ wr whole, (s.withUse q').look vd r.win r.place 8 wr whole = s.withUse q' := by
      intro wr whole
      simp only [State.look, show (s.withUse q').answers = [] from hans]
    simp only [State.readWords, State.blocked_withUse hq, hfree r List.mem_cons_self, htouch, hlook]
    split
    · exact absurd ‹_› Bool.false_ne_true
    · split
      · exact hgo
      · split
        · exact ⟨q', rfl⟩
        · exact hgo
/-- The tables of a walk that nothing holds up are read without waiting. -/
theorem State.readTables_sound (token vd : Nat) {rs : List TableRead} (hoff : ∀ r ∈ rs, r.place.offBank) (hfree : ∀ r ∈ rs, s.stalled r.place = false) :
    ∃ q, s.readTables token vd rs = (s.withUse q, none) := by
  obtain ⟨q, hread⟩ := State.readWords_sound hans hq token vd rs hoff hfree s.pchUse
  have hserved : rs.foldl (fun (t : State) r => t.servedAt token r.place) (s.withUse q) = s.withUse q := by
    have hstep : ∀ l : List TableRead, l.foldl (fun (t : State) r => t.servedAt token r.place) (s.withUse q) = s.withUse q := by
      intro l
      induction l with
      | nil => rfl
      | cons r rest ih => rw [List.foldl_cons, State.servedAt_withUse hq, ih]
    exact hstep rs
  refine ⟨q, ?_⟩
  have hread' : s.readWords token vd rs = (s.withUse q, none) := hread
  simp only [State.readTables, hread', hserved]

section
variable {vd space va win : Nat} {p : Place} (hres : s.resolve 0 vd (BitVec.ofNat 12 space) .handler (wrap va) .read = .ok p win)
  (hwalk : inVspace va = true → ∀ r ∈ s.walkReads vd (BitVec.ofNat 12 space) va, s.stalled r.place = false)
include hres hwalk
theorem State.memoryDo_tables (id : Nat) (wr : Bool) (bad : State → State) (go : State → Place → Nat → State) :
    ∃ q, s.memoryDo id vd space va wr bad go =
      if s.stalled p then ((s.withUse q).stallAt (unitToken debugPass id) p, true) else (go (s.withUse q) p win, false) := by
  have htables : ∃ q, s.readTables (unitToken debugPass id) vd (if inVspace va then s.walkReads vd (BitVec.ofNat 12 space) va else []) = (s.withUse q, none) := by
    split
    · next hin => exact State.readTables_sound hans hq _ vd (s.walkReads_offBank vd _ va) (hwalk hin)
    · exact State.readTables_sound hans hq _ vd (by simp) (by simp)
  obtain ⟨q, htables⟩ := htables
  have hlook : (s.withUse q).look vd win p 8 wr false = s.withUse q := by
    simp only [State.look, show (s.withUse q).answers = [] from hans]
  refine ⟨q, ?_⟩
  simp only [State.memoryDo, htables, State.resolve_withUse, hres, State.blocked_withUse hq, hlook, State.unstall_withUse hq]
theorem State.memoryDo_serves (h : s.stalled p = false) (id : Nat) (wr : Bool) (bad : State → State) (go : State → Place → Nat → State) :
    ∃ q, s.memoryDo id vd space va wr bad go = (go (s.withUse q) p win, false) := by
  obtain ⟨q, hdo⟩ := State.memoryDo_tables hans hq hres hwalk id wr bad go
  exact ⟨q, hdo.trans (if_neg (ne_true_of_eq_false h))⟩
theorem State.memoryDo_waits (h : s.stalled p = true) (id : Nat) (wr : Bool) (bad : State → State) (go : State → Place → Nat → State) :
    ∃ q, s.memoryDo id vd space va wr bad go = ((s.withUse q).stallAt (unitToken debugPass id) p, true) := by
  obtain ⟨q, hdo⟩ := State.memoryDo_tables hans hq hres hwalk id wr bad go
  exact ⟨q, hdo.trans (if_pos h)⟩
end
end

/-! ### Writes whatever the idle times -/

/-- A CLEARED unit is converted to a KID (R73). -/
def State.unitOwned (s : State) (kid pa : Nat) : State :=
  if KMap.has s.owner (unitOf pa) then s
  else
    { s with
      owner := KMap.set s.owner (unitOf pa) kid
      written := NSet.eraseRange s.written (unitOf pa * 2 ^ 15) (unitOf pa * 2 ^ 15 + 2 ^ 15) }
/-- A cleared granule is uncovered (R68). -/
def State.granuleBared (s : State) (pa : Nat) : State :=
  if s.written.contains (pa / 64) then s
  else
    { s with
      written := NSet.insert s.written (pa / 64)
      mem := Mem.blankRange s.mem (pa / 64 * 64) (pa / 64 * 64 + 64)
      fe := NSet.eraseRange s.fe (pa / 64 * 64) (pa / 64 * 64 + 64)
      poison := NSet.erase s.poison (pa / 64 * 64)
      badTag := NSet.erase s.badTag (pa / 64) }
theorem State.uncover_eq (s : State) (kid pa : Nat) : s.uncover kid pa = (s.unitOwned kid pa).granuleBared pa := rfl
theorem State.unitOwned_withUse (s : State) (q : KMap Nat) (kid pa : Nat) : (s.withUse q).unitOwned kid pa = (s.unitOwned kid pa).withUse q := by
  unfold State.unitOwned
  rw [apply_ite (State.withUse · q)]
  rfl
theorem State.granuleBared_withUse (s : State) (q : KMap Nat) (pa : Nat) : (s.withUse q).granuleBared pa = (s.granuleBared pa).withUse q := by
  unfold State.granuleBared
  rw [apply_ite (State.withUse · q)]
  rfl
theorem State.uncover_withUse (s : State) (q : KMap Nat) (kid pa : Nat) : (s.withUse q).uncover kid pa = (s.uncover kid pa).withUse q := by
  rw [State.uncover_eq, State.unitOwned_withUse, State.granuleBared_withUse, ← State.uncover_eq]
theorem State.count_withUse (s : State) (q : KMap Nat) (pa : Nat) : (s.withUse q).count pa = (s.count pa).withUse q := by
  unfold State.count
  rw [apply_ite (State.withUse · q)]
  rfl
theorem State.openGranule_withUse (s : State) (q : KMap Nat) (kid g : Nat) : (s.withUse q).openGranule kid g = (s.openGranule kid g).withUse q := by
  unfold State.openGranule
  rw [State.uncover_withUse, State.count_withUse]
  split <;> rfl
theorem State.opened_withUse (s : State) (q : KMap Nat) (kid : Nat) (p : Place) (n : Nat) :
    (s.withUse q).opened kid p n = (s.opened kid p n).withUse q := by
  cases p with
  | hbm pa => exact List.foldl_hom (State.withUse · q) (fun t g => t.openGranule_withUse q kid g)
  | sram | host | peer => rfl
theorem State.poke_withUse (s : State) (q : KMap Nat) (kid : Nat) (p : Place) (bs : List Byte) :
    (s.withUse q).poke kid p bs = (s.poke kid p bs).withUse q := by
  unfold State.poke
  rw [State.opened_withUse]
  cases p <;> rfl
theorem State.openGranule_slots (s : State) (kid g : Nat) : (s.openGranule kid g).slots = s.slots := by
  have hcount : ∀ t : State, (t.count g).slots = t.slots := by
    intro t
    simp only [State.count]
    split <;> rfl
  unfold State.openGranule
  split
  · rw [hcount]
    simp only [State.uncover]
    split <;> split <;> rfl
  · rfl
theorem State.opened_slots (s : State) (kid : Nat) (p : Place) (n : Nat) : (s.opened kid p n).slots = s.slots := by
  cases p with
  | hbm pa => exact foldl_view State.slots (fun s g => s.openGranule_slots kid g) _ s
  | sram | host | peer => rfl
theorem State.poke_slots (s : State) (kid : Nat) (p : Place) (bs : List Byte) : (s.poke kid p bs).slots = s.slots := by
  have hlog : ((s.opened kid p bs.length).logCode p bs.length).slots = (s.opened kid p bs.length).slots := by cases p <;> rfl
  exact hlog.trans (s.opened_slots kid p bs.length)
theorem State.touch_store (s : State) (p : Place) : (s.touch p).store = s.store := by cases p <;> rfl
/-- A write lays down the same bytes whatever the idle times are, and changes no slot. -/
theorem State.writeAt_withUse {s u : State} (q : KMap Nat) {vd win : Nat} {p : Place} {size : Nat} {v : Line} (h : s.writeAt vd win p size v = .ok u) :
    ∃ t, (s.withUse q).writeAt vd win p size v = .ok t ∧ t.store = u.store ∧ t.slots = s.slots := by
  unfold State.writeAt at h
  split at h
  · cases h
  · next hfault =>
    have hu := Except.ok.inj h
    refine ⟨((s.poke (kidOf vd win) p (leBytes size v.toNat)).withUse q).touch p, ?_, ?_, ?_⟩
    · simp only [State.writeAt, State.homeFault_withUse, hfault, State.poke_withUse]
    · rw [← hu, State.touch_store, State.touch_store]
      rfl
    · exact (State.core_eq (State.touch_core _ p)).2.1.trans (s.poke_slots _ p _)

/-- The operations waiting, the answers given to debug servers, and the bytes. -/
def State.debugView (s : State) : List (Nat × Nat × DebugOp) × List (Nat × List Word) × List Host.Cell := (s.debugOps, s.debugReplies, s.mem)
theorem State.stallAt_debugView (s : State) (token : Nat) (p : Place) : (s.stallAt token p).debugView = s.debugView := by
  have hwake : (s.wake p).debugView = s.debugView := by
    unfold State.wake
    split
    · split <;> rfl
    · split <;> rfl
    · rfl
    · rfl
  unfold State.stallAt
  split <;> exact hwake

/-! ### Operations of the debug server -/

/-- A debug read at memory that serves: the word is answered, or nothing where it faults. -/
def State.readBack (s : State) (vd : Nat) (p : Place) (win : Nat) : State :=
  match s.readAt vd win p 8 with
  | .ok v => (s.touch p).debugReply vd [lowWord v]
  | .error _ => s.debugReply vd []
/-- A debug write at memory that serves. -/
def State.putBack (s : State) (vd : Nat) (v : Word) (p : Place) (win : Nat) : State :=
  match s.writeAt vd win p 8 (lineOf v) with
  | .ok t => t.emptyAllICaches
  | .error _ => s
theorem State.readBack_ok {s : State} {vd win : Nat} {p : Place} {x : Line} (h : s.readAt vd win p 8 = .ok x) :
    s.readBack vd p win = (s.touch p).debugReply vd [lowWord x] := by
  unfold State.readBack
  rw [h]
theorem State.putBack_ok {s t : State} {vd win : Nat} {v : Word} {p : Place} (h : s.writeAt vd win p 8 (lineOf v) = .ok t) :
    s.putBack vd v p win = t.emptyAllICaches := by
  unfold State.putBack
  rw [h]

section
variable {s : State} {vd : Nat} (hattached : s.debugs vd = true) (hops : ∀ x ∈ s.debugOps, x.2.1 ≠ vd)
include hattached hops

/-- A halted context goes on, for one instruction or for good. -/
theorem State.debugAsk_resumes {u : State} {c at0 n : Nat} {k : Slot} (step : Bool) (hhalted : s.haltedCtx vd c = some (at0, k))
    (hfree : s.freeSlot vd (at0 % 2 ^ 18 / 128) = some n)
    (hread : s.contextPassage imagePass vd (at0 % 2 ^ 18 / 16) 0 4096 none = (u, .done)) :
    (s.debugAsk vd (.resume c step)).slotAt (8 * (at0 % 2 ^ 18 / 128) + n) = { k with mode := .ready, debugStep := step } ∧
      (s.debugAsk vd (.resume c step)).held = KMap.erase u.held at0 ∧ (s.debugAsk vd (.resume c step)).mem = u.mem := by
  rw [State.debugAsk_done (o := .resume c step) hattached hops (State.resumeCtx_done hhalted hfree hread step)]
  exact ⟨State.slotAt_setSlot_self _ _ _, rfl, rfl⟩

section
variable {u : State} {c off at0 : Nat} {k : Slot} {d : VDev} (hhalted : s.haltedCtx vd c = some (at0, k)) (hvd : s.vd? vd = some d)
  (hword : off % 8 = 0) (hin : off < 4096) (hstill : u.haltedCtx vd c = some (at0, k))
include hhalted hvd hword hin hstill
theorem execDebugRead_image
    (hpass : s.passage (unitToken debugPass s.nextId) vd (d.imageAt (at0 % 2 ^ 18 / 16) + off) 8 none = (u, .done)) :
    exec (.debugRead vd (.image c off)) s =
      .next { u with debugReplies := u.debugReplies ++ [(vd, [imgWord (u.fullImage k (at0 % 2 ^ 18 / 128)) off])] } :=
  congrArg Host.Outcome.next (State.debugAsk_done hattached hops (State.imageDo_done (v := none) hhalted hvd hword hin hpass hstill))
theorem execDebugWrite_image (v : Word)
    (hpass : s.passage (unitToken debugPass s.nextId) vd (d.imageAt (at0 % 2 ^ 18 / 16) + off) 8 (some (leBytes 8 v.toNat)) = (u, .done)) :
    exec (.debugWrite vd (.image c off) v) s =
      .next { u with held := KMap.set u.held at0 (k.withImage (patch (u.fullImage k (at0 % 2 ^ 18 / 128)) off v)) } :=
  congrArg Host.Outcome.next (State.debugAsk_done hattached hops (State.imageDo_done (v := some v) hhalted hvd hword hin hpass hstill))
end

section
variable {space va win : Nat} {p : Place} (hres : s.resolve 0 vd (BitVec.ofNat 12 space) .handler (wrap va) .read = .ok p win)
  (hans : s.answers = []) (hq : s.stallq = [])
  (hwalk : inVspace va = true → ∀ r ∈ s.walkReads vd (BitVec.ofNat 12 space) va, s.stalled r.place = false)
include hres hans hq hwalk
theorem execDebugRead_memory {x : Line} (hfree : s.stalled p = false) (hread : s.readAt vd win p 8 = .ok x) :
    ∃ t : State, exec (.debugRead vd (.memory space va)) s = .next t ∧ t.mem = s.mem ∧
      t.debugReplies = s.debugReplies ++ [(vd, [lowWord x])] := by
  obtain ⟨q, hdo⟩ := State.memoryDo_serves hans hq hres hwalk hfree s.nextId false (·.debugReply vd []) (·.readBack vd)
  rw [State.readBack_ok ((s.readAt_withUse q vd win p 8).trans hread)] at hdo
  refine ⟨_, congrArg Host.Outcome.next (State.debugAsk_done (o := .read (.memory space va)) hattached hops hdo), ?_, ?_⟩
  · exact (State.core_eq (State.touch_core (s.withUse q) p)).1
  · cases p <;> rfl
theorem execDebugWrite_memory {u : State} {v : Word} (hfree : s.stalled p = false) (hwrite : s.writeAt vd win p 8 (lineOf v) = .ok u) :
    ∃ t : State, exec (.debugWrite vd (.memory space va) v) s = .next t ∧
      t.mem = u.mem ∧ t.fe = u.fe ∧ t.poison = u.poison ∧ t.slots = s.slots ∧ t.icaches = [] ∧ t.codeLog = [] := by
  obtain ⟨q, hdo⟩ := State.memoryDo_serves hans hq hres hwalk hfree s.nextId true id (·.putBack vd v)
  obtain ⟨t, hput, hstore, hslots⟩ := State.writeAt_withUse q hwrite
  rw [State.putBack_ok hput] at hdo
  exact ⟨_, congrArg Host.Outcome.next (State.debugAsk_done (o := .write (.memory space va) v) hattached hops hdo), State.mem_of_store hstore, State.fe_of_store hstore,
    State.poison_of_store hstore, hslots, rfl, rfl⟩
/-- A read of memory that cannot serve waits. -/
theorem execDebugRead_waits (hstall : s.stalled p = true) :
    ∃ t : State, exec (.debugRead vd (.memory space va)) s = .next t ∧ t.mem = s.mem ∧ t.debugReplies = s.debugReplies ∧
      t.debugOps = s.debugOps ++ [(s.nextId, vd, .read (.memory space va))] := by
  obtain ⟨q, hdo⟩ := State.memoryDo_waits hans hq hres hwalk hstall s.nextId false (·.debugReply vd []) (·.readBack vd)
  have hview := (s.withUse q).stallAt_debugView (unitToken debugPass s.nextId) p
  obtain ⟨hkept, hview⟩ := Prod.mk.inj hview
  obtain ⟨hreplies, hmem⟩ := Prod.mk.inj hview
  exact ⟨_, congrArg Host.Outcome.next (State.debugAsk_waits (o := .read (.memory space va)) hattached hops hdo), hmem, hreplies,
    congrArg (· ++ [(s.nextId, vd, DebugOp.read (.memory space va))]) hkept⟩
end
end

/-! ### The statement -/

theorem debugAttaches (s : State) (vd : Nat) (v : VDev) (hv : s.vd? vd = some v) :
    (∀ who : Requester, who.vd = vd → v.dbg = true → s.neremRuns = true → debugAllowed s.boot.lcs who = true → ∃ t : State, exec (.debugAttach who) s = .next t ∧
        t.vd? vd = some { v with attached := true } ∧ t.slots = s.slots) ∧
      (∀ who : Requester, who.vd = vd → v.dbg = false ∨ debugAllowed s.boot.lcs who = false → exec (.debugAttach who) s = .next s) ∧
      (s.neremRuns = true → ∃ t : State, exec (.debugDetach vd) s = .next t ∧ t.vd? vd = some { v with attached := false } ∧ t.slots = s.slots) := by
  have hmod : ∀ f : VDev → VDev, (s.modVd vd f).vd? vd = some (f v) := fun f => by simp [State.vd?_modVd, hv]
  have hattach : ∀ who : Requester, who.vd = vd → exec (.debugAttach who) s =
      if v.dbg && s.neremRuns && debugAllowed s.boot.lcs who then .next (s.modVd vd fun v => { v with attached := true }) else .next s := by
    rintro who rfl
    simp only [exec, execDebugAttach, hv]
  refine ⟨fun who hwho hdbg hnerem hallowed => ⟨_, (hattach who hwho).trans (if_pos ?_), hmod _, rfl⟩,
    fun who hwho hdenied => (hattach who hwho).trans (if_neg ?_), fun hnerem => ⟨_, if_neg ?_, hmod _, rfl⟩⟩
  · simp [hdbg, hnerem, hallowed]
  · rcases hdenied with h | h <;> simp [h]
  · simp [hnerem]
theorem debugHalts (s : State) (vd c : Nat) (h : s.debugs vd = true) : ∃ t : State, exec (.debugHalt vd (some c)) s = .next t ∧ t.mem = s.mem ∧
      (∀ kv ∈ s.slots, kv.2.vd = vd → kv.2.ctx = c → c ≠ 0 → kv.2.mode ≠ .halted → (kv.1, { kv.2 with haltAsked := true }) ∈ t.slots) ∧
      (∀ a k, s.saved = [(a, k)] → s.held = [] → s.arrivals = [] → s.spills = [] → s.migMsgs = [] → k.vd = vd → k.ctx = c → c ≠ 0 →
        k.mode = .ready → k.sb = [] → t.saved = [] ∧ t.held = [(a, k.halt)]) ∧
      (∀ m, s.migMsgs = [m] → s.saved = [] → s.held = [] → s.arrivals = [] → s.spills = [] → m.m.vd = vd → m.m.ctx = c → c ≠ 0 →
        t.migMsgs = [] ∧ t.held = [(keepKey c (8 * m.brick) vd, (landed m.m).halt)]) := by
  refine ⟨_, execDebugHalt_attached (some c) h, rfl, fun kv hkv hvd hctx h0 hmode => ?_, fun a k hsaved hheld harr hsp hmig hvd hctx h0 hmode hsb => ?_,
    fun m hmig hsaved hheld harr hsp hvd hctx h0 => ?_⟩
  · exact List.mem_map.mpr ⟨kv, hkv, haltAsk_one hvd hctx h0 hmode⟩
  · obtain ⟨hout, hin⟩ := State.haltsAsked_saved hsaved hheld (names_one hvd hctx h0) (decide_eq_true ⟨hmode, hsb⟩)
    exact ⟨hout, ((s.haltsAsked vd (some c)).haltArrivals_none vd (some c) harr hsp hmig).trans hin⟩
  · have hnone : (s.haltsAsked vd (some c)).held = [] := by simp [State.haltsAsked, hsaved, hheld]
    obtain ⟨hgone, hin⟩ := (s.haltsAsked vd (some c)).haltArrivals_migrant harr hsp hmig hnone (names_one (k := landed m.m) hvd hctx h0)
    exact ⟨hgone, hctx ▸ hin⟩
theorem haltTakesEffect (s u : State) (b n : Nat) (p : Passage) :
      let k := s.slotAt (8 * b + n)
      let image := s.fullImage k.withdrawn.halt ((8 * b + n) / 8)
      (k.sb ≠ [] → exec (.debugHaltTakesEffect b n) s = .next s) ∧
      (k.haltAsked = true → k.ctx ≠ 0 → k.mode = .ready → k.sb = [] → s.contextPassage imagePass k.vd (8 * b + n) 0 4096 (some image) = (u, p) →
        p = .still → exec (.debugHaltTakesEffect b n) s = .next u) ∧
      (k.haltAsked = true → k.ctx ≠ 0 → k.mode = .ready → k.resv = none → k.sb = [] →
        s.contextPassage imagePass k.vd (8 * b + n) 0 4096 (some image) = (u, .done) → u.slotAt (8 * b + n) = k → ∃ (t : State) (h : Slot),
        exec (.debugHaltTakesEffect b n) s = .next t ∧ KMap.find? t.held (keepKey k.ctx (8 * b + n) k.vd) = some h ∧ h.mode = .halted ∧
        h.haltAsked = false ∧ h.ctx = k.ctx ∧ h.g = k.g ∧ h.w = k.w ∧ h.z = k.z ∧ h.pc = k.pc ∧ t.mem = u.mem) := by
  intro k image
  refine ⟨execDebugHaltTakesEffect_stores, fun hask hctx hmode hsb hpass hp => ?_, fun hask hctx hmode hresv hsb hpass hk => ?_⟩
  · subst hp
    have hhalt : s.haltSlot (8 * b + n) = u := by simp only [State.haltSlot, k, image] at hpass ⊢; rw [hpass]
    rw [execDebugHaltTakesEffect_now hask hctx hmode hsb, hhalt]
  · have hhalt : s.haltSlot (8 * b + n) = u.haltOut (8 * b + n) := by simp only [State.haltSlot, k, image] at hpass ⊢; rw [hpass]
    obtain ⟨hheld, hmem⟩ := u.haltOut_ready hk hmode hresv
    rw [← hhalt] at hheld hmem
    exact ⟨_, k.halt, execDebugHaltTakesEffect_now hask hctx hmode hsb, hheld, rfl, rfl, rfl, rfl, rfl, rfl, rfl, hmem⟩

/-- Settles O59: an update step by step, then each debug operation by its equation; reads and writes of memory go through a walk that notes the use of pseudo-channels alone. -/
theorem updatesAndDebug : Obligations.UpdatesAndDebug := by
  unfold Obligations.UpdatesAndDebug
  refine ⟨⟨updateRequest, updateGap⟩, ⟨debugAttaches, debugHalts, haltTakesEffect, fun s u vd c at0 n k h hops hhalted hfree hread =>
    ⟨⟨_, rfl, State.debugAsk_resumes h hops false hhalted hfree hread⟩, ⟨_, rfl, State.debugAsk_resumes h hops true hhalted hfree hread⟩⟩⟩,
    fun s vd c h => ⟨⟨_, _, execDebugList_attached h, rfl, rfl, fun _ _ => State.listed_slot, fun _ => State.listed_migrant⟩,
      fun at0 k off u d hhalted hvd hops hword hin hstill => ⟨fun hpass => ?_, fun v hpass => ?_⟩,
      fun space va p win hres hans hq hops hwalk => ⟨fun hfree => ⟨fun x hread => ?_, fun v u hwrite => ?_⟩, fun hstall => ?_⟩⟩⟩
  · exact execDebugRead_image h hops hhalted hvd hword hin hstill hpass
  · exact execDebugWrite_image h hops hhalted hvd hword hin hstill v hpass
  · exact execDebugRead_memory h hops hres hans hq hwalk hfree hread
  · exact execDebugWrite_memory h hops hres hans hq hwalk hfree hwrite
  · exact execDebugRead_waits h hops hres hans hq hwalk hstall

end Sys2Proof.Machine
end

section
/-!
SUPPORT. What the queues of a host function hold after each operation on them, what a poll takes and what a response writes; HostQueues is assembled from these.
-/
namespace Sys2Proof.Machine

/-! ### The queues of the functions -/

@[simp] theorem State.hostFun_setFun_self (s : State) (f : Nat) (x : HostFun) : (s.setFun f x).hostFun f = x :=
  KMap.getD_set_self s.funs f x HostFun.atReset
theorem State.hostFun_setFun_ne (s : State) {f g : Nat} (x : HostFun) (h : g ≠ f) : (s.setFun f x).hostFun g = s.hostFun g :=
  KMap.getD_set_ne s.funs x HostFun.atReset h
@[simp] theorem State.hostFun_modFun_self (s : State) (f : Nat) (g : HostFun → HostFun) : (s.modFun f g).hostFun f = g (s.hostFun f) :=
  s.hostFun_setFun_self f _
@[simp] theorem State.setFun_mem (s : State) (f : Nat) (x : HostFun) : (s.setFun f x).mem = s.mem := rfl
@[simp] theorem State.hostWrite_mem (s : State) (a : Nat) (bs : List Byte) : (s.hostWrite a bs).mem = Mem.writeBytes s.mem (2 ^ 64 + a) bs := rfl
/-- A machine differs from another, as far as queue areas, memory and slots go, in the queues of one function alone. -/
def State.FunAlone (s : State) (f : Nat) (t : State) : Prop :=
  (∀ g, g ≠ f → (t.hostFun g).qbase = (s.hostFun g).qbase ∧ (t.hostFun g).en = (s.hostFun g).en) ∧ t.mem = s.mem ∧ t.slots = s.slots
theorem State.setFun_alone (s : State) (f : Nat) (x : HostFun) : s.FunAlone f (s.setFun f x) :=
  ⟨fun g hg => by rw [State.hostFun_setFun_ne _ _ hg]; exact ⟨rfl, rfl⟩, rfl, rfl⟩
theorem State.FunAlone.trans {s t u : State} {f : Nat} (h : s.FunAlone f t) (h' : t.FunAlone f u) : s.FunAlone f u :=
  ⟨fun g hg => ⟨(h'.1 g hg).1.trans (h.1 g hg).1, (h'.1 g hg).2.trans (h.1 g hg).2⟩, h'.2.1.trans h.2.1, h'.2.2.trans h.2.2⟩
theorem State.enable_alone (s : State) (f : Nat) : s.FunAlone f (s.enable f) := s.setFun_alone f _
theorem State.disable_alone (s : State) (f : Nat) : s.FunAlone f (s.disable f) := s.setFun_alone f _
/-- What disabling leaves of the queues of the function (R43; log entry 67). -/
@[simp] theorem State.hostFun_disable (s : State) (f : Nat) :
    (s.disable f).hostFun f = { s.hostFun f with en := false, pending := [], cancels := [], waiting := [] } :=
  s.hostFun_setFun_self f _
/-- What enabling makes of the queues of the function (R43). -/
@[simp] theorem State.hostFun_enable (s : State) (f : Nat) :
    (s.enable f).hostFun f =
      { s.hostFun f with en := true, err := 0, reqCount := 1, rspCount := 1, live := s.coresRun, pending := [], cancels := [], waiting := [] } :=
  s.hostFun_setFun_self f _

/-! ### Control (R42, R43) -/

/-- The queues of a function once LOG2N has been written: out of range it sets ERR, and it changes only while EN is 0. -/
def HostFun.sized (x : HostFun) (n : Nat) : HostFun :=
  if n < 4 ∨ 12 < n then { x with err := 5 } else if x.en then x else { x with log2n := n }
theorem HostFun.sized_outside {x : HostFun} {n : Nat} (h : n < 4 ∨ 12 < n) : x.sized n = { x with err := 5 } := if_pos h
theorem HostFun.sized_disabled {x : HostFun} {n : Nat} (h4 : 4 ≤ n) (h12 : n ≤ 12) (he : x.en = false) : x.sized n = { x with log2n := n } := by
  rw [HostFun.sized, if_neg (by omega), if_neg (by simp [he])]
theorem HostFun.sized_enabled {x : HostFun} {n : Nat} (h4 : 4 ≤ n) (h12 : n ≤ 12) (he : x.en = true) : x.sized n = x := by
  rw [HostFun.sized, if_neg (by omega), if_pos he]
/-- Whatever LOG2N is written while EN is 1, the size stays. -/
theorem HostFun.sized_log2n {x : HostFun} (n : Nat) (he : x.en = true) : (x.sized n).log2n = x.log2n := by
  by_cases h : n < 4 ∨ 12 < n
  · rw [HostFun.sized_outside h]
  · rw [HostFun.sized_enabled (by omega) (by omega) he]

section
variable {s : State} {f : Nat} {v : Word}
/-- A write of QCTL that keeps EN writes LOG2N alone. -/
theorem execHostRegisterWrite_keeps (h : bit v 0 = (s.hostFun f).en) :
    exec (.hostRegisterWrite f .qctl v) s = .next (s.setFun f ((s.hostFun f).sized (bits v 19 16))) := if_pos h
theorem execHostRegisterWrite_enables (h : bit v 0 = true) (he : (s.hostFun f).en = false) :
    exec (.hostRegisterWrite f .qctl v) s = .next ((s.setFun f ((s.hostFun f).sized (bits v 19 16))).enable f) :=
  (if_neg (by simp [h, he])).trans (if_neg (by simp [he]))
theorem execHostRegisterWrite_disables (h : bit v 0 = false) (he : (s.hostFun f).en = true) :
    exec (.hostRegisterWrite f .qctl v) s = .next ((s.setFun f ((s.hostFun f).sized (bits v 19 16))).disable f) :=
  (if_neg (by simp [h, he])).trans (if_pos he)
end

theorem b2n_le (b : Bool) : b2n b ≤ 1 := by cases b <;> decide
/-- The fields of QCTL, as far as they fit it, put together as a number (Table 2.3). -/
theorem HostFun.qctl_toNat {x : HostFun} (he : x.err < 256) (hl : x.log2n < 16) :
    x.qctl.toNat = x.err * 4294967296 + x.log2n * 65536 + b2n x.live * 2 + b2n x.en := by
  have hlive := b2n_le x.live
  have hen := b2n_le x.en
  simp only [HostFun.qctl, wrap, BitVec.toNat_ofNat]
  omega
/-- The host reads the fields of QCTL back, and reserved bits as zero. -/
theorem HostFun.qctl_fields {x : HostFun} (he : x.err < 256) (hl : x.log2n < 16) :
    bits x.qctl 0 0 = b2n x.en ∧ bits x.qctl 1 1 = b2n x.live ∧ bits x.qctl 15 2 = 0 ∧ bits x.qctl 19 16 = x.log2n ∧
      bits x.qctl 31 20 = 0 ∧ bits x.qctl 39 32 = x.err ∧ bits x.qctl 63 40 = 0 := by
  have hlive := b2n_le x.live
  have hen := b2n_le x.en
  simp only [bits, HostFun.qctl_toNat he hl]
  omega

/-- What control does to the queues of a function, and that it leaves the others' (R42, R43, R6). -/
theorem hostQueueControl (s : State) (f : Nat) :
    let x := s.hostFun f
    (x.en = false → ∃ t : State, exec (.qctlEnable f) s = .next t ∧ s.FunAlone f t ∧ (t.hostFun f).en = true ∧ (t.hostFun f).err = 0 ∧
      (t.hostFun f).reqCount = 1 ∧ (t.hostFun f).rspCount = 1 ∧ (t.hostFun f).pending = [] ∧ (t.hostFun f).qbase = x.qbase) ∧
    (x.en = true → ∃ t : State, exec (.qctlDisable f) s = .next t ∧ s.FunAlone f t ∧ (t.hostFun f).en = false ∧
      (t.hostFun f).pending = [] ∧ (t.hostFun f).waiting = [] ∧ (t.hostFun f).qbase = x.qbase) ∧
    (x.en = false → ∃ t : State, exec (.queueLiveClear f) s = .next t ∧ s.FunAlone f t ∧ t.hostFun f = { x with live := false }) ∧
    (f ≠ 0 → ∃ t : State, exec (.vfFunctionLevelReset f) s = .next t ∧ s.FunAlone f t ∧
      t.hostFun f = { HostFun.atReset with live := (t.hostFun f).live }) := by
  refine ⟨fun he => ⟨s.enable f, if_neg (by simp [he]), s.enable_alone f, ?_⟩, fun he => ⟨s.disable f, if_pos he, s.disable_alone f, ?_⟩,
    fun he => ⟨_, if_neg (by simp [he]), s.setFun_alone f _, s.hostFun_setFun_self f _⟩,
    fun h0 => ⟨_, if_neg h0, (s.disable_alone f).trans ((s.disable f).setFun_alone f _), ?_⟩⟩
  · simp only [State.hostFun_enable, and_self]
  · simp only [State.hostFun_disable, and_self]
  · simp only [State.hostFun_modFun_self]
/-- What a write of QBASE or QCTL does (R43). -/
theorem hostQueueRegisters (s : State) (f : Nat) (v : Word) :
    let x := s.hostFun f
    (x.en = true → exec (.hostRegisterWrite f .qbase v) s = .next s) ∧
    (x.en = false → ∃ t : State, exec (.hostRegisterWrite f .qbase v) s = .next t ∧ s.FunAlone f t ∧
      t.hostFun f = { x with qbase := bits v 63 12 * 4096 }) ∧
    (x.en = false → bit v 0 = false → 4 ≤ bits v 19 16 → bits v 19 16 ≤ 12 → ∃ t : State,
      exec (.hostRegisterWrite f .qctl v) s = .next t ∧ s.FunAlone f t ∧ t.hostFun f = { x with log2n := bits v 19 16 }) ∧
    (x.en = false → bit v 0 = true → 4 ≤ bits v 19 16 → bits v 19 16 ≤ 12 → ∃ t : State,
      exec (.hostRegisterWrite f .qctl v) s = .next t ∧ s.FunAlone f t ∧ (t.hostFun f).en = true ∧ (t.hostFun f).log2n = bits v 19 16) ∧
    (x.en = true → bit v 0 = true → 4 ≤ bits v 19 16 → bits v 19 16 ≤ 12 → ∃ t : State,
      exec (.hostRegisterWrite f .qctl v) s = .next t ∧ s.FunAlone f t ∧ t.hostFun f = x) ∧
    (x.en = true → bit v 0 = false → ∃ t : State,
      exec (.hostRegisterWrite f .qctl v) s = .next t ∧ s.FunAlone f t ∧ (t.hostFun f).en = false ∧ (t.hostFun f).log2n = x.log2n) ∧
    (bits v 19 16 < 4 ∨ 12 < bits v 19 16 → bit v 0 = x.en → ∃ t : State, exec (.hostRegisterWrite f .qctl v) s = .next t ∧
      s.FunAlone f t ∧ t.hostFun f = { x with err := 5 }) := by
  have halone := s.setFun_alone f ((s.hostFun f).sized (bits v 19 16))
  have hself := s.hostFun_setFun_self f ((s.hostFun f).sized (bits v 19 16))
  refine ⟨fun he => if_pos he, fun he => ⟨_, if_neg (by simp [he]), s.setFun_alone f _, s.hostFun_setFun_self f _⟩,
    fun he hb h4 h12 => ?_, fun he hb h4 h12 => ?_, fun he hb h4 h12 => ?_, fun he hb => ?_, fun hout hb => ?_⟩
  · exact ⟨_, execHostRegisterWrite_keeps (hb.trans he.symm), halone, hself.trans (HostFun.sized_disabled h4 h12 he)⟩
  · refine ⟨_, execHostRegisterWrite_enables hb he, halone.trans (State.enable_alone _ f), ?_⟩
    rw [State.hostFun_enable, hself, HostFun.sized_disabled h4 h12 he]
    exact ⟨rfl, rfl⟩
  · exact ⟨_, execHostRegisterWrite_keeps (hb.trans he.symm), halone, hself.trans (HostFun.sized_enabled h4 h12 he)⟩
  · refine ⟨_, execHostRegisterWrite_disables hb he, halone.trans (State.disable_alone _ f), ?_⟩
    rw [State.hostFun_disable, hself]
    exact ⟨rfl, HostFun.sized_log2n _ he⟩
  · exact ⟨_, execHostRegisterWrite_keeps hb, halone, hself.trans (HostFun.sized_outside hout)⟩

/-! ### Polling (R43, R45, R46, Table 2.3) -/

/-- With no response waiting there is none to write. -/
theorem State.flushAll_idle {s : State} {f : Nat} (h : (s.hostFun f).waiting = []) : s.flushAll f = s := by
  simp only [State.flushAll, h, List.length_nil, State.flush, ite_self]
/-- The machine in which a poll goes on once the host has answered its read: LIVE is set. -/
def State.polled (s : State) (f : Nat) : State :=
  { s with answers := s.answers.tail }.modFun f fun x => { x with live := true }
/-- What a poll makes of the header it has read: it takes the request, leaves an entry not yet written, or sets ERR. -/
def State.takeEntry (s : State) (f : Nat) : State :=
  let x := s.hostFun f
  let a := x.qbase + 128 * ((x.reqCount - 1) % x.n)
  let h := s.hostWord a
  let seq := nbits h 63 32
  let old := if x.reqCount ≤ x.n then 0 else (x.reqCount - x.n) % 2 ^ 32
  if seq = x.reqCount % 2 ^ 32 then
    if 120 < nbits h 7 0 then s.setFun f { x with err := 3 }
    else
      (s.hostWrite (x.qbase + 256 * x.n) (leBytes 8 x.reqCount)).setFun f { x with
        pending := x.pending ++ [⟨seq, nbits h 31 16, nbits h 15 0, Mem.readBytes s.mem (2 ^ 64 + a + 8) 120, 0⟩]
        reqCount := x.reqCount + 1 }
  else if seq = old then s
  else s.setFun f { x with err := 2 }

section
variable {s : State} {f : Nat} (hn : s.neremRuns = true) (hu : s.update = none) (he : (s.hostFun f).en = true) (herr : (s.hostFun f).err = 0)
include hn hu he herr
/-- A poll of queues that are served reads the area, unless it runs past the end of the address space. -/
theorem execQueuePoll_served : exec (.queuePoll f) s =
    if !(s.hostFun f).areaFits then .next (s.setFun f { s.hostFun f with err := 1 })
    else if readError (s.answers.headD .sound) then .next ({ s with answers := s.answers.tail }.setFun f { s.hostFun f with err := 4 })
    else .next (((s.polled f).flushAll f).takeEntry f) := by
  refine (if_neg (by simp [hn, hu, he, herr])).trans ?_
  unfold State.takeEntry
  simp only [apply_ite Host.Outcome.next]
  rfl
theorem execQueuePoll_beyond (h : (s.hostFun f).areaFits = false) :
    exec (.queuePoll f) s = .next (s.setFun f { s.hostFun f with err := 1 }) :=
  (execQueuePoll_served hn hu he herr).trans (if_pos (by simp [h]))
theorem execQueuePoll_readError (h : (s.hostFun f).areaFits = true) (hr : readError (s.answers.headD .sound) = true) :
    exec (.queuePoll f) s = .next ({ s with answers := s.answers.tail }.setFun f { s.hostFun f with err := 4 }) :=
  (execQueuePoll_served hn hu he herr).trans ((if_neg (by simp [h])).trans (if_pos hr))
theorem execQueuePoll_reads (h : (s.hostFun f).areaFits = true) (hr : readError (s.answers.headD .sound) = false)
    (hw : (s.hostFun f).waiting = []) : exec (.queuePoll f) s = .next ((s.polled f).takeEntry f) := by
  rw [execQueuePoll_served hn hu he herr, if_neg (by simp [h]), if_neg (ne_true_of_eq_false hr),
    State.flushAll_idle (by simp only [State.polled, State.hostFun_modFun_self]; exact hw)]
end

/-- A poll that reads its area: the four headers that it can find (R45, R46, Table 2.3). -/
theorem State.takeEntry_polled (s : State) (f : Nat) (hwf : Memory.wf s.mem = true) :
    let x := s.hostFun f
    let a := x.qbase + 128 * ((x.reqCount - 1) % x.n)
    let h := s.hostWord a
    let seq := nbits h 63 32
    let want := x.reqCount % 2 ^ 32
    let old := if x.reqCount ≤ x.n then 0 else (x.reqCount - x.n) % 2 ^ 32
    let t := (s.polled f).takeEntry f
    (seq = want → nbits h 7 0 ≤ 120 → t.hostFun f = { x with
          live := true, reqCount := x.reqCount + 1,
          pending := x.pending ++ [⟨seq, nbits h 31 16, nbits h 15 0, Mem.readBytes s.mem (2 ^ 64 + a + 8) 120, 0⟩] } ∧
        Mem.readBytes t.mem (2 ^ 64 + x.qbase + 256 * x.n) 8 = leBytes 8 x.reqCount ∧
        ∀ y, y < 2 ^ 64 + x.qbase + 256 * x.n ∨ 2 ^ 64 + x.qbase + 256 * x.n + 8 ≤ y → Mem.read t.mem y = Mem.read s.mem y) ∧
      (seq = want → 120 < nbits h 7 0 → t.hostFun f = { x with live := true, err := 3 }) ∧
      (seq ≠ want → seq = old → t.hostFun f = { x with live := true } ∧ t.mem = s.mem) ∧
      (seq ≠ want → seq ≠ old → t.hostFun f = { x with live := true, err := 2 }) := by
  intro x a h seq want old t
  have hx : (s.polled f).hostFun f = { x with live := true } := State.hostFun_modFun_self _ f _
  have ht : t = (s.polled f).takeEntry f := rfl
  simp only [State.takeEntry, hx] at ht
  refine ⟨fun hseq hlen => ?_, fun hseq hlen => ?_, fun hseq hold => ?_, fun hseq hold => ?_⟩
  · have htaken := ht.trans ((if_pos hseq).trans (if_neg (Nat.not_lt.mpr hlen)))
    have hmem : t.mem = Mem.writeBytes s.mem (2 ^ 64 + x.qbase + 256 * x.n) (leBytes 8 x.reqCount) := by
      rw [Nat.add_assoc]
      exact congrArg State.mem htaken
    rw [hmem]
    refine ⟨?_, Mem.readBytes_writeBytes (leBytes 8 x.reqCount) _ hwf, fun y hy => Mem.read_writeBytes_ne _ _ ?_⟩
    · rw [htaken, State.hostFun_setFun_self]
      rfl
    · rwa [leBytes_length]
  · rw [ht.trans ((if_pos hseq).trans (if_pos hlen)), State.hostFun_setFun_self]
  · rw [ht.trans ((if_neg hseq).trans (if_pos hold))]
    exact ⟨hx, rfl⟩
  · rw [ht.trans ((if_neg hseq).trans (if_neg hold)), State.hostFun_setFun_self]

/-! ### Responses (R43, R45) -/

theorem Mem.writeBytes_append (xs ys : List Byte) : ∀ (m : List Host.Cell) (a : Nat),
    Mem.writeBytes m a (xs ++ ys) = Mem.writeBytes (Mem.writeBytes m a xs) (a + xs.length) ys := by
  induction xs with
  | nil => exact fun _ _ => rfl
  | cons x xs ih =>
    intro m a
    simp only [List.cons_append, Mem.writeBytes, ih, List.length_cons]
    rw [Nat.add_assoc, Nat.add_comm 1]
theorem Mem.readBytes_congr {m m' : List Host.Cell} (n : Nat) : ∀ {a : Nat}, (∀ y, a ≤ y → y < a + n → Mem.read m y = Mem.read m' y) →
    Mem.readBytes m a n = Mem.readBytes m' a n := by
  induction n with
  | zero => exact fun _ => rfl
  | succ n ih =>
    intro a h
    rw [Mem.readBytes, Mem.readBytes, h a (Nat.le_refl a) (by omega), ih fun y hy hlt => h y (by omega) (by omega)]
/-- A part of bytes that were written reads back. -/
theorem Mem.readBytes_writeBytes_part {m : List Host.Cell} (h : Memory.wf m = true) (a : Nat) (xs ys zs : List Byte) :
    Mem.readBytes (Mem.writeBytes m a (xs ++ (ys ++ zs))) (a + xs.length) ys.length = ys := by
  rw [Mem.writeBytes_append, Mem.writeBytes_append]
  refine (Mem.readBytes_congr _ fun y _ hlt => Mem.read_writeBytes_ne zs _ (.inl hlt)).trans ?_
  exact Mem.readBytes_writeBytes ys _ (Memory.wf_writeBytes xs a h)

/-- The bytes of a response without counters after its header (Table 2.5). -/
def responseRest (seq value : Nat) : List Byte := leBytes 4 seq ++ (leBytes 8 value ++ (leBytes 4 0 ++ List.replicate 104 0))
theorem responseEntry_plain (seq st v : Nat) : responseEntry seq st v [] = leBytes 8 (st * 2 ^ 16 + 12) ++ responseRest seq v := by
  simp only [responseEntry, responseRest, if_true, List.append_assoc]
theorem responseRest_length (seq v : Nat) : (responseRest seq v).length = 120 := by
  simp only [responseRest, List.length_append, leBytes_length, List.length_replicate]
/-- Address of the next entry of the response ring of a function. -/
def HostFun.nextResponse (x : HostFun) : Nat := x.qbase + 128 * x.n + 128 * ((x.rspCount - 1) % x.n)
/-- Is there room for the next response of a function? -/
def State.hasRoom (s : State) (x : HostFun) : Prop := x.rspCount ≤ x.n + s.hostWord (x.qbase + 256 * x.n + 8)
/-- The header of a response of a status, with the count that it carries. -/
def responseHead (st count : Nat) : Nat := (st * 2 ^ 16 + 12) % 2 ^ 32 + count % 2 ^ 32 * 2 ^ 32
/-- A response to a disabled function is dropped. -/
theorem State.respond_disabled {s : State} {f : Nat} (h : (s.hostFun f).en = false) (seq st v : Nat) (cs : List Nat) :
    s.respond f seq st v cs = s := if_neg (by simp [h])
section
variable {s : State} {f : Nat} (he : (s.hostFun f).en = true) (herr : (s.hostFun f).err = 0) (hw : (s.hostFun f).waiting = [])
include he herr hw
/-- The first response that waits is written if there is room. -/
theorem State.respond_first (seq st v : Nat) : s.respond f seq st v [] =
    (s.setFun f { s.hostFun f with waiting := [responseEntry seq st v []] }).flush f 1 := by
  simp only [State.respond, State.flushAll, State.modFun, he, if_true, State.hostFun_setFun_self, herr, hw, List.nil_append, and_self, List.length_singleton]
theorem State.respond_full (seq st v : Nat) (h : ¬s.hasRoom (s.hostFun f)) :
    s.respond f seq st v [] = s.setFun f { s.hostFun f with waiting := [responseEntry seq st v []] } := by
  rw [State.respond_first he herr hw, State.flush]
  simp only [State.hostFun_setFun_self]
  exact if_neg h
/-- A response for which there is room is written, its header last, and counted. -/
theorem State.respond_room (seq st v : Nat) (h : s.hasRoom (s.hostFun f)) :
    s.respond f seq st v [] = (((s.setFun f { s.hostFun f with waiting := [responseEntry seq st v []] }).hostWrite
        ((s.hostFun f).nextResponse + 8) (responseRest seq v)).hostWrite (s.hostFun f).nextResponse
        (leBytes 8 (responseHead st (s.hostFun f).rspCount))).setFun f
      { s.hostFun f with waiting := [], rspCount := (s.hostFun f).rspCount + 1 } := by
  have htake : (responseEntry seq st v []).take 8 = leBytes 8 (st * 2 ^ 16 + 12) := by
    rw [responseEntry_plain, List.take_left' (leBytes_length 8 _)]
  have hdrop : (responseEntry seq st v []).drop 8 = responseRest seq v := by
    rw [responseEntry_plain, List.drop_left' (leBytes_length 8 _)]
  have hhead : leNat (leBytes 8 (st * 2 ^ 16 + 12)) % 2 ^ 32 = (st * 2 ^ 16 + 12) % 2 ^ 32 := by
    rw [leNat_leBytes]
    exact Nat.mod_mod_of_dvd _ (by norm_num)
  rw [State.respond_first he herr hw, State.flush]
  simp only [State.hostFun_setFun_self, htake, hdrop, hhead, State.flush]
  exact if_pos h
/-- The bytes of a response that is written: the header carries the count, then come SEQ and VALUE, and no byte outside the entry changes. -/
theorem State.respond_bytes (hwf : Memory.wf s.mem = true) (seq st v : Nat) (h : s.hasRoom (s.hostFun f)) :
    let a := 2 ^ 64 + (s.hostFun f).nextResponse
    let t := s.respond f seq st v []
    Mem.readBytes t.mem a 8 = leBytes 8 (responseHead st (s.hostFun f).rspCount) ∧ Mem.readBytes t.mem (a + 8) 4 = leBytes 4 seq ∧
      Mem.readBytes t.mem (a + 12) 8 = leBytes 8 v ∧ ∀ y, y < a ∨ a + 128 ≤ y → Mem.read t.mem y = Mem.read s.mem y := by
  intro a t
  have hmem : t.mem = Mem.writeBytes (Mem.writeBytes s.mem (a + 8) (responseRest seq v)) a
      (leBytes 8 (responseHead st (s.hostFun f).rspCount)) := by
    simp only [t, a, State.respond_room he herr hw seq st v h, State.setFun_mem, State.hostWrite_mem, Nat.add_assoc]
  clear_value a t
  have hrest : ∀ x n, a + 8 ≤ x → Mem.readBytes t.mem x n = Mem.readBytes (Mem.writeBytes s.mem (a + 8) (responseRest seq v)) x n :=
    fun x n hx => by
      rw [hmem]
      exact Mem.readBytes_congr n fun y hy _ => Mem.read_writeBytes_ne _ _ (.inr (by rw [leBytes_length]; omega))
  refine ⟨?_, ?_, ?_, fun y hy => ?_⟩
  · rw [hmem]
    exact Mem.readBytes_writeBytes (leBytes 8 (responseHead st (s.hostFun f).rspCount)) a (Memory.wf_writeBytes _ _ hwf)
  · rw [hrest _ _ (Nat.le_refl _)]
    exact Mem.readBytes_writeBytes_part hwf (a + 8) [] (leBytes 4 seq) _
  · rw [hrest _ _ (by omega)]
    exact Mem.readBytes_writeBytes_part hwf (a + 8) (leBytes 4 seq) (leBytes 8 v) _
  · rw [hmem, Mem.read_writeBytes_ne _ _ (by rw [leBytes_length]; omega), Mem.read_writeBytes_ne _ _ (by rw [responseRest_length]; omega)]
end

/-- Settles O56: control by what `enable`, `disable` and `HostFun.sized` make of the queues, polls by `State.takeEntry`, and responses by `State.respond_bytes`. -/
theorem hostQueues : Obligations.HostQueues := by
  unfold Obligations.HostQueues
  refine ⟨fun s f => ?_, fun s f hn hu he herr => ⟨fun hfit => ?_, fun hfit hr => ?_, fun hfit hr hw hwf => ?_⟩,
    fun s f seq st v hwf hw herr => ⟨fun he => State.respond_disabled he _ _ _ _, fun he hroom => ?_, fun he hroom => ?_⟩⟩
  · obtain ⟨henable, hdisable, hlive, hreset⟩ := hostQueueControl s f
    exact ⟨henable, hdisable, hlive, hostQueueRegisters s f, fun he hl => ⟨_, rfl, HostFun.qctl_fields he hl⟩, hreset⟩
  · exact ⟨_, execQueuePoll_beyond hn hu he herr hfit, s.hostFun_setFun_self f _, rfl⟩
  · exact ⟨_, execQueuePoll_readError hn hu he herr hfit hr, State.hostFun_setFun_self _ f _, rfl⟩
  · have hexec := execQueuePoll_reads hn hu he herr hfit hr hw
    obtain ⟨htake, hlong, hold, hwrong⟩ := s.takeEntry_polled f hwf
    exact ⟨fun h h' => ⟨_, hexec, htake h h'⟩, fun h h' => ⟨_, hexec, hlong h h'⟩, fun h h' => ⟨_, hexec, hold h h'⟩,
      fun h h' => ⟨_, hexec, hwrong h h'⟩⟩
  · refine ⟨?_, State.respond_bytes he herr hw hwf seq st v hroom⟩
    rw [State.respond_room he herr hw seq st v hroom, State.hostFun_setFun_self, ← hw]
  · rw [State.respond_full he herr hw seq st v hroom]
    exact ⟨rfl, s.hostFun_setFun_self f _⟩

end Sys2Proof.Machine
end

section
/-!
SUPPORT. How a request of the host is run, and what answering one leaves of the machine: all but host memory and the queues of the functions.
-/
namespace Sys2Proof.Machine

/-! ### What a response leaves -/

/-- A machine differs from another in host memory and in the queues of the functions alone. -/
def State.HostAlone (s t : State) : Prop :=
  ∃ m fs, t = { s with mem := m, funs := fs } ∧ ∀ y, y < 2 ^ 64 → Mem.read m y = Mem.read s.mem y
theorem State.HostAlone.refl (s : State) : s.HostAlone s := ⟨s.mem, s.funs, rfl, fun _ _ => rfl⟩
theorem State.HostAlone.trans {s t u : State} (h : s.HostAlone t) (h' : t.HostAlone u) : s.HostAlone u := by
  obtain ⟨m, fs, rfl, hm⟩ := h
  obtain ⟨m', fs', rfl, hm'⟩ := h'
  exact ⟨m', fs', rfl, fun y hy => (hm' y hy).trans (hm y hy)⟩
/-- What can be seen of a machine without host memory and queues stays. -/
theorem State.HostAlone.view {s t : State} {β : Type} (h : s.HostAlone t) (v : State → β)
    (hv : ∀ (s : State) m fs, v { s with mem := m, funs := fs } = v s) : v t = v s := by
  obtain ⟨m, fs, rfl, -⟩ := h
  exact hv s m fs
theorem State.HostAlone.read {s t : State} (h : s.HostAlone t) {y : Nat} (hy : y < 2 ^ 64) : Mem.read t.mem y = Mem.read s.mem y := by
  obtain ⟨m, fs, rfl, hm⟩ := h
  exact hm y hy
theorem State.HostAlone.vd? {s t : State} (h : s.HostAlone t) (vd : Nat) : t.vd? vd = s.vd? vd := h.view (fun s => s.vd? vd) fun _ _ _ => rfl
theorem State.HostAlone.foldl {α : Type} {f : State → α → State} (h : ∀ (s : State) a, s.HostAlone (f s a)) (l : List α) (s : State) :
    s.HostAlone (l.foldl f s) := by
  induction l generalizing s with
  | nil => exact .refl s
  | cons a rest ih => exact (h s a).trans (ih (f s a))

theorem State.setFun_hostAlone (s : State) (f : Nat) (x : HostFun) : s.HostAlone (s.setFun f x) := ⟨_, _, rfl, fun _ _ => rfl⟩
theorem State.modFun_hostAlone (s : State) (f : Nat) (g : HostFun → HostFun) : s.HostAlone (s.modFun f g) := s.setFun_hostAlone f _
theorem State.hostWrite_hostAlone (s : State) (a : Nat) (bs : List Byte) : s.HostAlone (s.hostWrite a bs) :=
  ⟨_, _, rfl, fun _ hy => Mem.read_writeBytes_ne _ _ (.inl (Nat.lt_of_lt_of_le hy (Nat.le_add_right _ _)))⟩
theorem State.flush_hostAlone (f fuel : Nat) : ∀ s : State, s.HostAlone (s.flush f fuel) := by
  induction fuel with
  | zero => exact fun s => .refl s
  | succ fuel ih =>
    intro s
    simp only [State.flush]
    split
    · exact .refl s
    · split
      · exact (((s.hostWrite_hostAlone _ _).trans (State.hostWrite_hostAlone _ _ _)).trans (State.setFun_hostAlone _ _ _)).trans (ih _)
      · exact .refl s
theorem State.respond_hostAlone (s : State) (f seq st v : Nat) (cs : List Nat) : s.HostAlone (s.respond f seq st v cs) := by
  simp only [State.respond, State.flushAll]
  split
  · split
    · exact (s.modFun_hostAlone f _).trans (State.flush_hostAlone f _ _)
    · exact s.modFun_hostAlone f _
  · exact .refl s
theorem State.taken_hostAlone (s : State) (f id : Nat) : s.HostAlone (s.taken f id) := s.modFun_hostAlone f _
theorem State.reply_hostAlone (s : State) (f id st v : Nat) : s.HostAlone (s.reply f id st v) :=
  (s.taken_hostAlone f id).trans (State.respond_hostAlone _ f id st v [])

/-! ### Running a request -/

theorem State.request?_seq {s : State} {f id op : Nat} {r : HostReq} (h : s.request? f id op = some r) : r.seq = id := by
  have hfound := List.find?_some h
  simp only [Bool.and_eq_true, decide_eq_true_eq] at hfound
  exact hfound.1.1
section
variable {s : State} {f id op : Nat} {pfOnly : Bool} {sound : HostReq → Bool} {go : HostReq → State} {r : HostReq}
  (hr : s.request? f id op = some r)
include hr
/-- A sound request that its function may make is run. -/
theorem State.serve_runs (hpf : pfOnly = false ∨ f = 0) (h : sound r = true) : s.serve f id op pfOnly sound go = .next (go r) := by
  have hmay : ¬(pfOnly = true ∧ f ≠ 0) := by rcases hpf with rfl | rfl <;> simp
  simp only [State.serve, hr, if_neg hmay, h]
  rfl
/-- A malformed request is refused (R48). -/
theorem State.serve_malformed (hpf : pfOnly = false ∨ f = 0) (h : sound r = false) :
    s.serve f id op pfOnly sound go = .next (s.reply f id 6 0) := by
  have hmay : ¬(pfOnly = true ∧ f ≠ 0) := by rcases hpf with rfl | rfl <;> simp
  simp only [State.serve, hr, if_neg hmay, h]
  rfl
/-- A request that only the PF may make is not permitted to a VF (R47). -/
theorem State.serve_vf (h0 : f ≠ 0) : s.serve f id op true sound go = .next (s.reply f id 2 0) := by
  simp only [State.serve, hr]
  exact if_pos ⟨trivial, h0⟩
end
/-- Nerem backs no page: the tables stay. -/
@[simp] theorem State.writeTables_nil (s : State) : s.writeTables [] = s := ite_self _

end Sys2Proof.Machine
end

section
/-!
SUPPORT. How a line of a copy ends, how a tree is launched, ended and cancelled; CopiesAndTrees is assembled from these.
-/
namespace Sys2Proof.Machine

/-! ### Copies of one line (R48, R21, R132) -/

theorem State.stallAt_funs (s : State) (token : Nat) (p : Place) : (s.stallAt token p).funs = s.funs := by
  have hwake : (s.wake p).funs = s.funs := by
    cases p <;> simp only [State.wake]
    all_goals split <;> rfl
  unfold State.stallAt
  split <;> exact hwake
/-- An access that does not wait leaves no place in the order of arrival. -/
theorem State.unstall_absent {s : State} {token : Nat} (h : ∀ e ∈ s.stallq, e.token ≠ token) : s.unstall token = s := by
  have hall : s.stallq.filter (fun e => decide (e.token ≠ token)) = s.stallq := List.filter_eq_self.mpr fun e he => decide_eq_true (h e he)
  rw [State.unstall, hall]
/-- With no answer of the media laid down nothing is wrong. -/
theorem State.look_sound {s : State} (h : s.answers = []) (vd win : Nat) (p : Place) (size : Nat) (wr whole : Bool) :
    s.look vd win p size wr whole = s := by
  simp only [State.look, h]

/-- The device-side address of a copy. -/
def HostReq.devAt (r : HostReq) (load : Bool) : Nat := if load then r.at 16 8 else r.at 8 8
/-- The host-side address of a copy. -/
def HostReq.hostAt (r : HostReq) (load : Bool) : Nat := if load then r.at 8 8 else r.at 16 8
/-- The device-side access of a copy. -/
def copyAccess (load : Bool) : Access := if load then .write else .read

/-- The request of a copy goes on, or ends, with its first line. -/
def CopyEnd.after (f id : Nat) : CopyEnd → State
  | .moved s => s.reply f id 0 0
  | .failed s => s.reply f id 4 0
  | .held s => s.modFun f fun x =>
    { x with pending := x.pending.map fun (q : HostReq) => if q.seq = id then { q with done := 0 } else q }
/-- A copy of one line of a device that its function may name ends with that line. -/
theorem State.copyRequest_line {s : State} {f id op : Nat} {r : HostReq} (hr : s.request? f id op = some r) (hsound : copySound r = true)
    (hnamed : s.named f (r.at 24 1) = true) (hdone : r.done = 0) (hlen : r.at 32 8 = 64) (declined load : Bool) :
    s.copyRequest f id op ⟨[], declined⟩ load = .next ((s.copyOne f r declined load 0).after f id) := by
  refine (State.serve_runs hr (.inl rfl) hsound).trans (congrArg Host.Outcome.next ?_)
  simp only [hnamed, hdone, hlen, State.writeTables_nil]
  show s.copyLines f id r declined load 0 1 = _
  unfold State.copyLines
  cases s.copyOne f r declined load 0 <;> rfl

section
variable {s w : State} {f win : Nat} {r : HostReq} {p : Place} {load : Bool}
  (hwalk : s.readTables (copyToken f r.seq) (r.at 24 1) (s.copyReads r (r.devAt load)) = (w, none))
include hwalk
/-- How the first line of a copy ends once the tables have been read. -/
theorem State.copyOne_walked (declined : Bool) : s.copyOne f r declined load 0 =
    match w.copyReach r (r.devAt load) (copyAccess load) with
    | .fault _ | .fatal => .failed w
    | .demand _ => if declined then .failed w else .held w
    | .ok p win =>
      let token := copyToken f r.seq
      let was := w.stallq.any fun e => decide (e.token = token)
      if w.linkDown p then .failed w
      else if w.blocked token p && (was || !(w.closing p)) then .held (w.stallAt token p)
      else if was && w.closing p then
        match ((w.unstall token).allocated p true).copyBytes (r.at 24 1) win p (r.hostAt load) load with
        | .moved s => .moved (s.allocated p false)
        | .held s => .held (s.allocated p false)
        | .failed s => .failed (s.allocated p false)
      else (w.unstall token).copyBytes (r.at 24 1) win p (r.hostAt load) load := by
  have hwalk' : s.readTables (copyToken f r.seq) (r.at 24 1) (s.copyReads r ((if load then r.at 16 8 else r.at 8 8) + 0)) = (w, none) := hwalk
  simp only [State.copyOne, hwalk']
  rfl
theorem State.copyOne_fault {c : Cause} (h : w.copyReach r (r.devAt load) (copyAccess load) = .fault c) (declined : Bool) :
    s.copyOne f r declined load 0 = .failed w := by
  rw [State.copyOne_walked hwalk, h]
theorem State.copyOne_demand {ipa : Nat} (h : w.copyReach r (r.devAt load) (copyAccess load) = .demand ipa) (declined : Bool) :
    s.copyOne f r declined load 0 = if declined then .failed w else .held w := by
  rw [State.copyOne_walked hwalk, h]
/-- Memory that cannot serve holds a copy up (R21). -/
theorem State.copyOne_waits (h : w.copyReach r (r.devAt load) (copyAccess load) = .ok p win) (hlink : w.linkDown p = false)
    (hblocked : w.blocked (copyToken f r.seq) p = true) (hopen : w.closing p = false) (declined : Bool) :
    s.copyOne f r declined load 0 = .held (w.stallAt (copyToken f r.seq) p) := by
  rw [State.copyOne_walked hwalk, h]
  simp only [hlink, hblocked, hopen, Bool.not_false, Bool.or_true, Bool.and_true, if_true, Bool.false_eq_true, if_false]
/-- Where memory serves, the line is read or written at its place. -/
theorem State.copyOne_serves (h : w.copyReach r (r.devAt load) (copyAccess load) = .ok p win) (hlink : w.linkDown p = false)
    (hserves : w.blocked (copyToken f r.seq) p = false) (hq : ∀ e ∈ w.stallq, e.token ≠ copyToken f r.seq) (declined : Bool) :
    s.copyOne f r declined load 0 = w.copyBytes (r.at 24 1) win p (r.hostAt load) load := by
  have hwas : (w.stallq.any fun e => decide (e.token = copyToken f r.seq)) = false :=
    List.any_eq_false.mpr fun e he => by simp [hq e he]
  rw [State.copyOne_walked hwalk, h]
  simp only [hlink, hserves, hwas, Bool.false_and, Bool.false_eq_true, if_false, State.unstall_absent hq]
end
theorem State.copyBytes_load {w u : State} {vd win : Nat} {p : Place} {host : Nat} (hans : w.answers = [])
    (hw : w.writeAt vd win p 64 (bytesLine (Mem.readBytes w.mem (2 ^ 64 + host) 64)) = .ok u) : w.copyBytes vd win p host true = .moved u := by
  simp only [State.copyBytes, State.look_sound hans, if_true, hw]
theorem State.copyBytes_fetch {w : State} {vd win : Nat} {p : Place} {v : Line} (host : Nat) (hans : w.answers = [])
    (hr : w.readAt vd win p 64 = .ok v) : w.copyBytes vd win p host false = .moved ((w.touch p).hostWrite host (lineBytes v)) := by
  simp only [State.copyBytes, State.look_sound hans, hr, Bool.false_eq_true, if_false]
/-- A copy that is held up leaves memory, and its request pending. -/
theorem CopyEnd.after_held (u : State) (f id : Nat) : ((CopyEnd.held u).after f id).mem = u.mem ∧
    (((CopyEnd.held u).after f id).hostFun f).pending.length = (u.hostFun f).pending.length := by
  refine ⟨rfl, ?_⟩
  rw [CopyEnd.after, State.hostFun_modFun_self, List.length_map]

/-- A request that stays pending: an event leaves memory, and as many requests pending. -/
def State.Pends (s w : State) (f : Nat) (i : Instr) : Prop :=
  ∃ t : State, exec i s = .next t ∧ t.mem = w.mem ∧ (t.hostFun f).pending.length = (w.hostFun f).pending.length
theorem State.pends_of_held {s u w : State} {f id : Nat} {i : Instr} (h : exec i s = .next ((CopyEnd.held u).after f id))
    (hmem : u.mem = w.mem) (hfuns : u.funs = w.funs) : s.Pends w f i := by
  obtain ⟨hm, hp⟩ := CopyEnd.after_held u f id
  refine ⟨_, h, hm.trans hmem, hp.trans ?_⟩
  simp only [State.hostFun, hfuns]

/-- What a copy of one line does, in either direction, whatever its event is called. -/
theorem copyLine {s w : State} {f id op win : Nat} {r : HostReq} {p : Place} {load : Bool} {event : Bool → Instr}
    (hevent : ∀ declined, exec (event declined) s = s.copyRequest f id op ⟨[], declined⟩ load)
    (hr : s.request? f id op = some r) (hsound : copySound r = true) (hnamed : s.named f (r.at 24 1) = true) (hdone : r.done = 0)
    (hlen : r.at 32 8 = 64) (hq : ∀ e ∈ w.stallq, e.token ≠ copyToken f r.seq)
    (hwalk : s.readTables (copyToken f r.seq) (r.at 24 1) (s.copyReads r (r.devAt load)) = (w, none)) :
    (w.copyReach r (r.devAt load) (copyAccess load) = .ok p win → w.linkDown p = false →
      (w.blocked (copyToken f r.seq) p = false → exec (event false) s = .next ((w.copyBytes (r.at 24 1) win p (r.hostAt load) load).after f id)) ∧
      (w.blocked (copyToken f r.seq) p = true → w.closing p = false → s.Pends w f (event false))) ∧
    (∀ c, w.copyReach r (r.devAt load) (copyAccess load) = .fault c → exec (event false) s = .next (w.reply f id 4 0)) ∧
    (∀ ipa, w.copyReach r (r.devAt load) (copyAccess load) = .demand ipa → s.Pends w f (event false) ∧
      exec (event true) s = .next (w.reply f id 4 0)) := by
  have hline : ∀ declined, exec (event declined) s = .next ((s.copyOne f r declined load 0).after f id) := fun declined =>
    (hevent declined).trans (State.copyRequest_line hr hsound hnamed hdone hlen declined load)
  refine ⟨fun hok hlink => ⟨fun hserves => ?_, fun hblocked hopen => ?_⟩, fun c hfault => ?_, fun ipa hdemand => ⟨?_, ?_⟩⟩
  · rw [hline, State.copyOne_serves hwalk hok hlink hserves hq]
  · have hheld := hline false
    rw [State.copyOne_waits hwalk hok hlink hblocked hopen] at hheld
    exact State.pends_of_held hheld (w.stallAt_frame _ p).1 (w.stallAt_funs _ p)
  · rw [hline, State.copyOne_fault hwalk hfault]
    rfl
  · have hheld := hline false
    rw [State.copyOne_demand hwalk hdemand] at hheld
    exact State.pends_of_held hheld rfl rfl
  · rw [hline, State.copyOne_demand hwalk hdemand]
    rfl

/-! ### LAUNCH (R89, R90, R92) -/

/-- How a LAUNCH ends once the memory of its tree has been read. -/
def State.launchWalked (u : State) (f id vd : Nat) (v : VDev) (space : BitVec 12) (root : Word) (declined : Bool) : State :=
  match u.walkTree vd v space [⟨root, none, 0, 1⟩] [] 1100 with
  | .ok rs => u.startTree f id vd space rs
  | .demand _ a => if declined then u.reply f id 3 a.toNat else u
  | .bad a => u.reply f id 3 a.toNat

section
variable {s u : State} {f id : Nat} {r : HostReq} {v : VDev} (hr : s.request? f id 0x20 = some r) (hsound : launchSound r = true)
  (hvd : s.vd? (r.at 8 1) = some v) (hnamed : s.named f (r.at 8 1) = true)
include hr hsound hvd hnamed
/-- A device with a tree, in destruction, or with a response not yet written starts no other tree (R89; log entry 103). -/
theorem execLaunch_refused (h : v.tree.isSome = true ∨ v.destroy.isSome = true ∨ s.unwritten v.launched = true) (ws : Backing) :
    exec (.launch f id ws) s = .next (s.reply f id 3 (wrap (r.at 16 8)).toNat) := by
  refine (State.serve_runs hr (.inl rfl) hsound).trans (congrArg Host.Outcome.next ?_)
  simp only [hvd, hnamed, Bool.not_true, Bool.false_eq_true, if_false]
  exact if_pos h
section
variable (htree : v.tree = none) (hdestroy : v.destroy = none) (hunwritten : s.unwritten v.launched = false)
include htree hdestroy hunwritten
/-- A LAUNCH that may be made reads the memory of its tree, and waits where that cannot serve. -/
theorem execLaunch_reads (declined : Bool) {still : Option Place}
    (hread : s.readTables (copyToken f id) (r.at 8 1)
      (s.treeReads (r.at 8 1) (BitVec.ofNat 12 (r.at 10 2)) [⟨wrap (r.at 16 8), none, 0, 1⟩] [] 1100) = (u, still)) :
    exec (.launch f id ⟨[], declined⟩) s = .next (if still.isSome then u
      else u.launchWalked f id (r.at 8 1) v (BitVec.ofNat 12 (r.at 10 2)) (wrap (r.at 16 8)) declined) := by
  refine (State.serve_runs hr (.inl rfl) hsound).trans (congrArg Host.Outcome.next ?_)
  simp only [hvd, hnamed, htree, hdestroy, hunwritten, Option.isSome_none, Bool.not_true, Bool.false_eq_true, or_self, if_false,
    State.writeTables_nil, hread]
  cases still <;> rfl
end
end

theorem State.freeSlot_modVd (s : State) {f : VDev → VDev} (hf : ∀ v, (f v).resident = v.resident ∧ (f v).slotNums = v.slotNums)
    (vd x b : Nat) : (s.modVd vd f).freeSlot x b = s.freeSlot x b := by
  simp only [State.freeSlot, State.vd?_modVd]
  by_cases h : x = vd
  · subst h
    cases s.vd? x with
    | none => rw [if_pos rfl]; rfl
    | some v => simp only [if_true, Option.map_some, (hf v).1, (hf v).2]; rfl
  · rw [if_neg h]; rfl
/-- A target of the own-brick mode takes the lowest free slot of its brick, where no spawn waits (R95). -/
theorem State.place_own {s : State} {vd target n : Nat} (hmode : nbits target 13 12 = 0)
    (hq : KMap.getD s.spawnq (queueKey (nbits target 10 0) vd) [] = []) (hfree : s.freeSlot vd (nbits target 10 0) = some n) (e : SpawnEntry) :
    s.place vd target e = (0, nbits target 10 0, s.startSpawn (8 * nbits target 10 0 + n) vd e) := by
  simp only [State.place, hmode, spawnBricks, if_true, List.find?_cons, hfree, hq, Option.isSome_some, decide_true, Bool.and_self]
theorem newThread_g (ctx vd region : Nat) (space : BitVec 12) (pc : Word) (args : List Word) (i : Fin 4) :
    (newThread ctx vd region space pc args).g[i.val] = args.getD i.val 0 := by
  fin_cases i <;> rfl
/-- The machine with the region table of a tree written, and one live thread in its root (R90). -/
def State.treed (s : State) (vd : Nat) (t : Tree) : State :=
  (s.modVd vd fun v => { v with tree := some t }).modRegion vd 0 fun r => { r with live := 1 }
theorem State.freeSlot_treed (s : State) (vd : Nat) (t : Tree) (x b : Nat) : (s.treed vd t).freeSlot x b = s.freeSlot x b :=
  (State.freeSlot_modVd _ (by exact fun _ => ⟨rfl, rfl⟩) vd x b).trans (State.freeSlot_modVd _ (by exact fun _ => ⟨rfl, rfl⟩) vd x b)
theorem State.region?_treed {s : State} {vd : Nat} {v : VDev} (hvd : s.vd? vd = some v) (t : Tree) {g : Region} {rs : List Region}
    (ht : t.regions = g :: rs) : (s.treed vd t).region? vd 0 = some { g with live := 1 } := by
  simp only [State.region?, State.treed, State.modRegion, State.vd?_modVd, hvd, if_true, Option.map_some, ht]
  rfl
/-- A tree starts at its root's home, where a slot is free: its first thread stands there, and no byte has changed. -/
theorem State.startTree_placed {u : State} {f id vd n : Nat} {v : VDev} {g : Region} (hvd : u.vd? vd = some v) (space : BitVec 12) (rs : List Region)
    (hmode : nbits g.home.toNat 13 12 = 0) (hq : KMap.getD u.spawnq (queueKey (nbits g.home.toNat 10 0) vd) [] = [])
    (hfree : u.freeSlot vd (nbits g.home.toNat 10 0) = some n) :
    let key := 8 * nbits g.home.toNat 10 0 + n
    let t := u.startTree f id vd space (g :: rs)
    (t.slotAt key).mode = .ready ∧ (t.slotAt key).pc = g.entry ∧ (t.slotAt key).region = 0 ∧ (t.slotAt key).vd = vd ∧
      (∀ i : Fin 4, (t.slotAt key).g[i.val] = g.args.getD i.val 0) ∧ (t.region? vd 0).map (·.live) = some 1 ∧ t.mem = u.mem ∧
      ∀ q ∈ (t.hostFun f).pending, q.seq ≠ id := by
  intro key t
  let w := u.treed vd ⟨some (f, id), space, false, false, g :: rs⟩
  have hplace := State.place_own (s := w) hmode hq ((u.freeSlot_treed vd _ vd _).trans hfree) ⟨0, g.args, g.entry⟩
  have ht : t = (w.startSpawn key vd ⟨0, g.args, g.entry⟩).taken f id := by
    show (match w.place vd g.home.toNat ⟨0, g.args, g.entry⟩ with | (st, _, s') => if st = 2 then u.reply f id 3 g.rcb.toNat else s'.taken f id) = _
    rw [hplace]
    rfl
  have hslot : ∃ ctx sp, t.slotAt key = newThread ctx vd 0 sp g.entry g.args := by
    rw [ht]
    exact ⟨_, _, State.slotAt_setSlot_self _ key _⟩
  obtain ⟨ctx, sp, hslot⟩ := hslot
  rw [hslot]
  refine ⟨rfl, rfl, rfl, rfl, newThread_g ctx vd 0 sp g.entry g.args, ?_, by rw [ht]; rfl, fun q hq' => ?_⟩
  · have hregion : t.region? vd 0 = w.region? vd 0 := by rw [ht]; rfl
    rw [hregion, State.region?_treed hvd _ rfl]
    rfl
  · rw [ht, State.taken, State.hostFun_modFun_self] at hq'
    exact of_decide_eq_true (List.mem_filter.mp hq').2

/-! ### The ends of trees (R90, R376) -/

theorem State.answerCancels_hostAlone (s : State) (vd : Nat) : s.HostAlone (s.answerCancels vd) :=
  State.HostAlone.trans ⟨s.mem, _, rfl, fun _ _ => rfl⟩ (.foldl (fun (s : State) (c : Nat × Nat) => s.respond_hostAlone c.1 c.2 0 0 []) _ _)
theorem State.endTree_hostAlone (s : State) (vd : Nat) (t : Tree) :
    (s.modVd vd fun v => { v with tree := none, launched := t.owed }).HostAlone (s.endTree vd t) := by
  unfold State.endTree
  simp only
  split
  · exact (State.answerCancels_hostAlone _ vd).trans (State.respond_hostAlone _ _ _ _ _ _)
  · exact State.answerCancels_hostAlone _ vd
/-- A tree that has ended is gone. -/
theorem State.endTree_gone (s : State) (vd : Nat) (t : Tree) : ((s.endTree vd t).vd? vd).bind (·.tree) = none := by
  rw [(s.endTree_hostAlone vd t).vd?, State.vd?_modVd, if_pos rfl]
  cases s.vd? vd <;> rfl
theorem execLaunchResponse_ends {s : State} {vd : Nat} {v : VDev} {t : Tree} (hvd : s.vd? vd = some v) (ht : v.tree = some t) (hquiet : t.quiet = true)
    (hn : s.neremRuns = true) (hplaces : (s.handlerPlaces.all fun h => decide (h.1 ≠ vd)) = true)
    (hnotices : (s.notices.all fun n => decide (n.vd ≠ vd)) = true) : exec (.launchResponse vd) s = .next (s.endTree vd t) := by
  simp only [exec, execLaunchResponse, hvd, Option.bind_some, ht]
  exact if_pos (by simp only [hquiet, hn, hplaces, hnotices, Bool.and_self])
/-- CANCEL of the first region with a control block ends its threads (R376). -/
theorem execCancel_named {s : State} {f id i : Nat} {r : HostReq} {t : Tree} (hr : s.request? f id 0x21 = some r) (hsound : launchSound r = true)
    (hnamed : s.named f (r.at 8 1) = true) (ht : (s.vd? (r.at 8 1)).bind (·.tree) = some t) (hspace : t.space.toNat = r.at 10 2)
    (hi : i < t.regions.length) (hrcb : (t.regions[i]?).map (·.rcb.toNat) = some (r.at 16 8))
    (hfirst : ∀ j, j < i → (t.regions[j]?).map (·.rcb.toNat) ≠ some (r.at 16 8)) :
    exec (.cancel f id) s = .next (((s.taken f id).modFun f fun x =>
      { x with cancels := x.cancels ++ [(id, r.at 8 1, i)] }).cancelRegion (r.at 8 1) i t) := by
  refine (State.serve_runs hr (.inl rfl) hsound).trans (congrArg Host.Outcome.next ?_)
  simp only [hnamed, ht, Bool.not_true, Bool.false_eq_true, if_false]
  rw [(List.find?_range_eq_some (i := i)).mpr]
  refine ⟨?_, List.mem_range.mpr hi, fun j hj => ?_⟩
  · cases hx : t.regions[i]? with
    | none => simp [hx] at hrcb
    | some x => simpa [hx, hspace] using hrcb
  · have hj' := hfirst j hj
    cases hx : t.regions[j]? with
    | none => rfl
    | some x => simpa [hx, hspace] using hj'
theorem execCancelDone_eq {s : State} {f id vd top : Nat} {t : Tree}
    (h : ((s.hostFun f).cancels.find? fun c => decide (c.1 = id) && s.coresRun) = some (id, vd, top)) (ht : (s.vd? vd).bind (·.tree) = some t) :
    exec (.cancelDone f id) s = if t.liveIn (t.subtree top) = 0 then .next ((s.modFun f fun x =>
        { x with cancels := x.cancels.filter fun c => decide (c.1 ≠ id) }).respond f id 0 0 [])
      else .next (s.cancelRegion vd top t) := by
  simp only [exec, execCancelDone, h, ht]

/-- Settles O58: a copy of one line by `copyLine`, LAUNCH by `execLaunch_reads` and `State.startTree_placed`, and the ends of trees by their equations. -/
theorem copiesAndTrees : Obligations.CopiesAndTrees := by
  unfold Obligations.CopiesAndTrees
  refine ⟨fun s w u f id win r p hsound hnamed hdone hlen hans hq => ⟨fun hr hwalk => ?_, fun hr hwalk => ?_⟩,
    fun s f id r v hr hsound hvd hnamed => ⟨fun h => execLaunch_refused hr hsound hvd hnamed h _, fun htree hdestroy hunw u still hread hvd' =>
      ⟨fun hstill => ?_, fun a hstill hwalk => ?_, fun ipa a hstill hwalk => ⟨?_, ?_⟩, fun g rs n hstill hwalk hmode hspawn hfree => ?_⟩⟩,
    fun s vd v t hvd ht hquiet hn hplaces hnotices => ⟨execLaunchResponse_ends hvd ht hquiet hn hplaces hnotices, s.endTree_gone vd t⟩,
    fun s f id i r t hr hsound hnamed ht hspace hi hrcb hfirst => execCancel_named hr hsound hnamed ht hspace hi hrcb hfirst,
    fun s f id vd top t h ht => ⟨fun hlive => (execCancelDone_eq h ht).trans (if_pos hlive), fun hlive => (execCancelDone_eq h ht).trans (if_neg hlive)⟩⟩
  · obtain ⟨hok, hfault, hdemand⟩ := copyLine (load := true) (win := win) (p := p) (event := fun d => .load f id ⟨[], d⟩) (fun _ => rfl)
      hr hsound hnamed hdone hlen hq hwalk
    refine ⟨fun hreach hlink => ⟨fun hserves hwrite => ?_, (hok hreach hlink).2⟩, hfault, hdemand⟩
    exact ((hok hreach hlink).1 hserves).trans (congrArg (Host.Outcome.next ∘ CopyEnd.after f id) (State.copyBytes_load hans hwrite))
  · obtain ⟨hok, hfault, hdemand⟩ := copyLine (load := false) (win := win) (p := p) (event := fun d => .fetch f id ⟨[], d⟩) (fun _ => rfl)
      hr hsound hnamed hdone hlen hq hwalk
    refine ⟨fun hreach hlink => ⟨fun line hserves hread => ?_, (hok hreach hlink).2⟩, hfault, hdemand⟩
    exact ((hok hreach hlink).1 hserves).trans (congrArg (Host.Outcome.next ∘ CopyEnd.after f id) (State.copyBytes_fetch _ hans hread))
  all_goals have hexec := fun declined => execLaunch_reads hr hsound hvd hnamed htree hdestroy hunw declined hread
  · exact (hexec false).trans (congrArg Host.Outcome.next (if_pos hstill))
  · subst hstill
    rw [hexec, State.launchWalked, hwalk]
    rfl
  · subst hstill
    rw [hexec, State.launchWalked, hwalk]
    rfl
  · subst hstill
    rw [hexec, State.launchWalked, hwalk]
    rfl
  · subst hstill
    refine ⟨u.startTree f id (r.at 8 1) (BitVec.ofNat 12 (r.at 10 2)) (g :: rs), ?_,
      State.startTree_placed hvd' _ rs hmode hspawn hfree⟩
    rw [hexec, State.launchWalked, hwalk]
    rfl

end Sys2Proof.Machine
end

section
/-!
SUPPORT. How a device is made and destroyed at the host's request, and how steering rules and queues are set; HostRequests is settled here.
-/
namespace Sys2Proof.Machine

/-! ### Maps and memory that lose what they listed -/

theorem KMap.find?_of_absent {α : Type} {m : KMap α} {x : Nat} (h : x ∉ m.map (·.1)) : KMap.find? m x = none := by
  induction m with
  | nil => rfl
  | cons hd rest ih =>
    obtain ⟨hne, hrest⟩ := not_or.mp (fun e => h (List.mem_cons.mpr e))
    exact (if_neg (Ne.symm hne)).trans (ih hrest)
/-- An erased key of a map without repetitions is absent. -/
theorem KMap.find?_erase_self {α : Type} {m : KMap α} (x : Nat) (h : (m.map (·.1)).Nodup) : KMap.find? (KMap.erase m x) x = none := by
  induction m with
  | nil => rfl
  | cons hd rest ih =>
    obtain ⟨hfresh, hrest⟩ := List.nodup_cons.mp h
    simp only [KMap.erase]
    split
    next hx => exact KMap.find?_of_absent (hx ▸ hfresh)
    next hx => exact (if_neg hx).trans (ih hrest)
theorem KMap.find?_erase_ne {α : Type} (m : KMap α) {x y : Nat} (h : y ≠ x) : KMap.find? (KMap.erase m x) y = KMap.find? m y := by
  induction m with
  | nil => rfl
  | cons hd rest ih =>
    simp only [KMap.erase]
    split
    next hx => exact (if_neg (hx ▸ Ne.symm h)).symm
    next => simp only [KMap.find?, ih]
/-- An address that memory does not list reads blank. -/
theorem Mem.read_of_absent {m : List Host.Cell} {x : Nat} (h : ∀ c ∈ m, c.1 ≠ x) : Mem.read m x = Mem.blank := by
  induction m with
  | nil => rfl
  | cons c rest ih => exact (if_neg (h c List.mem_cons_self)).trans (ih fun d hd => h d (List.mem_cons_of_mem c hd))
theorem NSet.erase_sublist (m : NSet) (x : Nat) : (NSet.erase m x).Sublist m := by
  induction m with
  | nil => exact .slnil
  | cons k rest ih =>
    simp only [NSet.erase]
    split
    · exact List.sublist_cons_self k rest
    · exact ih.cons_cons k

/-! ### Requests of no device -/

theorem execUnknownRequest_answers {s : State} {f id : Nat} {r : HostReq} (hs : s.serves f = true) (hr : r ∈ (s.hostFun f).pending)
    (hseq : r.seq = id) (hop : r.op ∉ knownOps) : exec (.unknownRequest f id) s = .next (s.reply f id 1 0) := by
  simp only [exec, execUnknownRequest]
  split
  · rfl
  next hnone => exact absurd (List.find?_eq_none.mp hnone r hr) (by simp [hs, hseq, hop])
theorem execNop_answers {s : State} {f id : Nat} {r : HostReq} (hr : s.request? f id 1 = some r) :
    exec (.nop f id) s = .next (s.reply f id (if r.len = 0 then 0 else 6) 0) := by
  simp only [exec, execNop]
  by_cases hlen : r.len = 0
  · rw [State.serve_runs hr (.inl rfl) (decide_eq_true hlen), if_pos hlen]
  · rw [State.serve_malformed hr (.inl rfl) (decide_eq_false hlen), if_neg hlen]
theorem execInfo_sound {s : State} {f id : Nat} {r : HostReq} (hr : s.request? f id 0x30 = some r) (hsound : infoSound r = true) :
    exec (.info f id) s = .next (if s.infoAllowed f r then
      (s.taken f id).respond f id 0 0 (s.counters (r.at 9 1) (r.at 8 1) (r.at 10 2)) else s.reply f id 2 0) := by
  simp only [exec, execInfo]
  exact State.serve_runs hr (.inl rfl) hsound

/-! ### VDCREATE (R39, R126, R175) -/

/-- Nerem's table writes change memory alone. -/
theorem State.tableWrites_memory (ws : List TableWrite) : ∀ s : State, ∃ m, s.tableWrites ws = { s with mem := m } := by
  induction ws with
  | nil => exact fun s => ⟨s.mem, rfl⟩
  | cons w rest ih =>
    intro s
    simp only [State.tableWrites, List.foldl_cons]
    split
    · exact ih _
    · exact ih s
theorem State.writeTables_memory (s : State) (ws : List TableWrite) : ∃ m, s.writeTables ws = { s with mem := m } := by
  simp only [State.writeTables]
  split
  · exact s.tableWrites_memory ws
  · exact ⟨s.mem, rfl⟩
/-- A device is made, before its tables are written: its sub-banks, its key and itself. -/
def State.made (s : State) (vd : Nat) (v : VDev) : State :=
  { (s.giveSubs v.subbanks).newKey (vd + 1) with vds := KMap.set s.vds vd v }
theorem State.made_keys (s : State) (vd : Nat) (v : VDev) :
    (s.made vd v).keys = KMap.set s.keys (vd + 1) (if s.boot.lcs = 1 then Config.testKey s.nextId else s.nextId) := rfl
section
variable {s : State} {id : Nat} {r : HostReq}
theorem execVdcreate_sound {root save : Nat} (hr : s.request? 0 id 2 = some r) (hsound : createSound r = true) (ws : List TableWrite) :
    exec (.vdcreate 0 id ⟨root, save⟩ ws) s = .next (if s.creates (r.at 8 1) (createVd s r root save) then
      ((s.made (r.at 8 1) (createVd s r root save)).writeTables ws).reply 0 id 0 0 else s.reply 0 id 3 0) := by
  simp only [exec, execVdcreate]
  exact State.serve_runs hr (.inr rfl) hsound
/-- The device of a VDCREATE that is answered stands as it was made: table writes and the response leave what can be seen of devices, keys and slots. -/
theorem State.made_answered (s : State) (vd : Nat) (v : VDev) (ws : List TableWrite) (id : Nat) {β : Type} (view : State → β)
    (hv : ∀ (s : State) m fs, view { s with mem := m, funs := fs } = view s) :
    view (((s.made vd v).writeTables ws).reply 0 id 0 0) = view (s.made vd v) := by
  obtain ⟨m, hm⟩ := (s.made vd v).writeTables_memory ws
  exact (State.HostAlone.view (State.reply_hostAlone _ 0 id 0 0) view hv).trans (hm ▸ hv _ m (s.made vd v).funs)
theorem execVdcreate_makes {root save : Nat} (hr : s.request? 0 id 2 = some r) (hsound : createSound r = true) (ws : List TableWrite)
    (hmade : s.creates (r.at 8 1) (createVd s r root save) = true) : ∃ t : State, exec (.vdcreate 0 id ⟨root, save⟩ ws) s = .next t ∧
      t.vd? (r.at 8 1) = some (createVd s r root save) ∧
      KMap.find? t.keys (r.at 8 1 + 1) = some (if s.boot.lcs = 1 then Config.testKey s.nextId else s.nextId) ∧ t.slots = s.slots ∧
      ∀ x, x ≠ r.at 8 1 → t.vd? x = s.vd? x := by
  have hexec := execVdcreate_sound (root := root) (save := save) hr hsound ws
  rw [if_pos hmade] at hexec
  have answered := @State.made_answered s (r.at 8 1) (createVd s r root save) ws id
  refine ⟨_, hexec, ?_, ?_, answered State.slots fun _ _ _ => rfl, fun x hx => ?_⟩
  · exact (answered (·.vd? (r.at 8 1)) fun _ _ _ => rfl).trans (KMap.find?_set_self _ _ _)
  · rw [answered State.keys fun _ _ _ => rfl, State.made_keys, KMap.find?_set_self]
  · exact (answered (·.vd? x) fun _ _ _ => rfl).trans (KMap.find?_set_ne _ _ hx)

/-! ### VDDESTROY (R41, R74) -/

theorem execVddestroy_named {v : VDev} (hr : s.request? 0 id 3 = some r) (hlen : r.len = 1) (hvd : r.at 8 1 < 16) (hv : s.vd? (r.at 8 1) = some v) :
    exec (.vddestroy 0 id) s = .next (if s.hasContexts (r.at 8 1) ∨ v.destroy.isSome then s.reply 0 id 3 0
      else ((s.beginDestroy (r.at 8 1)).taken 0 id).modVd (r.at 8 1) fun v => { v with destroy := some (some (0, id)) }) := by
  simp only [exec, execVddestroy]
  rw [State.serve_runs hr (.inr rfl) (decide_eq_true ⟨hlen, hvd⟩), hv]
/-- No hire of a device whose drain has begun still waits for a grant (R41). -/
theorem State.beginDestroy_entries {vd : Nat} {e : Entry} (he : e ∈ (s.beginDestroy vd).entries) (hvd : e.vd = vd) : e.stage ≠ .waiting := by
  have hkept := (List.mem_filter.mp he).2
  simpa [hvd] using hkept
theorem execVddestroy_begins {v : VDev} (hr : s.request? 0 id 3 = some r) (hlen : r.len = 1) (hvd : r.at 8 1 < 16) (hv : s.vd? (r.at 8 1) = some v)
    (hctx : s.hasContexts (r.at 8 1) = false) (hfresh : v.destroy = none) : ∃ t : State, exec (.vddestroy 0 id) s = .next t ∧
      (t.vd? (r.at 8 1)).bind (·.destroy) = some (some (0, id)) ∧ (∀ e ∈ t.entries, e.vd = r.at 8 1 → e.stage ≠ .waiting) ∧ t.mem = s.mem := by
  have hexec := execVddestroy_named hr hlen hvd hv
  rw [if_neg (by simp [hctx, hfresh])] at hexec
  refine ⟨_, hexec, ?_, fun e he hown => State.beginDestroy_entries he hown, rfl⟩
  rw [State.vd?_modVd, if_pos rfl, show ((s.beginDestroy (r.at 8 1)).taken 0 id).vd? (r.at 8 1) = some v from hv]
  rfl
end
/-- Taking a device out of a window leaves devices and memory: its key or its members change. -/
theorem State.leaveWindow_keeps (s : State) (vd w : Nat) (x : Window) :
    ((s.leaveWindow vd w x).vds, (s.leaveWindow vd w x).mem) = (s.vds, s.mem) := by
  simp only [State.leaveWindow]
  split
  · rfl
  · split <;> rfl
section
variable {s : State} {vd : Nat} {v : VDev} {owed : Option (Nat × Nat)}
theorem execVddestroyDrained_drained (hv : s.vd? vd = some v) (howed : v.destroy = some owed) (hdrained : s.drainedOf vd = true)
    (hrun : s.coresRun = true) : exec (.vddestroyDrained vd) s =
      if s.windows.any fun kv => kv.2.holds vd then .next (s.windows.foldl (fun s kv => s.leaveWindow vd kv.1 kv.2) s)
      else if s.beingErased (vd + 1) then .next s else .next (s.dropDevice vd v) := by
  simp only [exec, execVddestroyDrained, hv, howed, hdrained, hrun]
  rfl
/-- A device without a tree goes: its locks and ring slots, and its key, which begins to be erased. -/
theorem State.dropDevice_treeless (htree : v.tree = none) : s.dropDevice vd v =
    ({ s with kilns := s.kilns.map fun (kv : Nat × Kiln) => (kv.1, kv.2.without vd) }.dropBarriers vd).eraseKey (vd + 1) (.device vd) := by
  simp only [State.dropDevice, htree]
theorem execVddestroyDrained_leaves (hv : s.vd? vd = some v) (howed : v.destroy = some owed) (hdrained : s.drainedOf vd = true)
    (hrun : s.coresRun = true) (hheld : (s.windows.any fun kv => kv.2.holds vd) = true) :
    ∃ t : State, exec (.vddestroyDrained vd) s = .next t ∧ t.vds = s.vds ∧ t.mem = s.mem := by
  have hexec := execVddestroyDrained_drained hv howed hdrained hrun
  rw [if_pos hheld] at hexec
  have hkept := foldl_view (fun t : State => (t.vds, t.mem)) (fun t kv => t.leaveWindow_keeps vd kv.1 kv.2) s.windows s
  exact ⟨_, hexec, congrArg Prod.fst hkept, congrArg Prod.snd hkept⟩
theorem execVddestroyDrained_drops (hv : s.vd? vd = some v) (howed : v.destroy = some owed) (hdrained : s.drainedOf vd = true)
    (hrun : s.coresRun = true) (htree : v.tree = none) (hleft : (s.windows.any fun kv => kv.2.holds vd) = false)
    (herased : s.beingErased (vd + 1) = false) : ∃ t : State, exec (.vddestroyDrained vd) s = .next t ∧
      t.keys = KMap.erase s.keys (vd + 1) ∧ t.erasing = s.erasing ++ [⟨vd + 1, .device vd⟩] ∧
      (∀ kv ∈ t.locks, kv.2.vd ≠ vd) ∧ (∀ kv ∈ t.rings, kv.2.vd ≠ vd) := by
  have hexec := execVddestroyDrained_drained hv howed hdrained hrun
  rw [if_neg (Bool.eq_false_iff.mp hleft), if_neg (Bool.eq_false_iff.mp herased), State.dropDevice_treeless htree] at hexec
  exact ⟨_, hexec, rfl, rfl, fun kv hkv => of_decide_eq_true (List.mem_filter.mp hkv).2,
    fun kv hkv => of_decide_eq_true (List.mem_filter.mp hkv).2⟩
/-- What the end of the only erasure under way leaves, when it is a device's: all but host memory and queues is as `clearUnits`, `freeSubs` and `forget` leave it. -/
theorem State.eraseAll_device (hv : s.vd? vd = some v) (howed : v.destroy = some owed) (he : s.erasing = [⟨vd + 1, .device vd⟩]) :
    (((s.clearUnits (vd + 1)).freeSubs v.subbanks).forget vd).HostAlone s.eraseAll := by
  have hv' : (s.clearUnits (vd + 1)).vd? vd = some v := hv
  simp only [State.eraseAll, he, List.foldl_cons, List.foldl_nil, State.finishDestroy, hv', howed]
  cases owed with
  | none => exact .refl _
  | some request => exact State.respond_hostAlone _ _ _ _ _ _
end
/-- The offset of an SRAM address within its brick, and where SRAM lies (Table 5.1). -/
theorem bankAddr_bounds {b o : Nat} (hb : b < 2048) (ho : o < 2 ^ 20) :
    bankAddr b o % 2 ^ 20 = o ∧ bankAddr 0 0 ≤ bankAddr b o ∧ bankAddr b o < 2 ^ 64 := by
  simp only [bankAddr]
  omega
/-- Sub-banks that return to the free pool read zero on every brick (R41 step 7). -/
theorem State.freeSubs_read (s : State) {subs : NSet} {b o : Nat} (hb : b < 2048) (ho : o < 2 ^ 20) (hsub : subs.contains (o / 2 ^ 16) = true) :
    Mem.read (s.freeSubs subs).mem (bankAddr b o) = Mem.blank := by
  obtain ⟨hoff, hlo, hhi⟩ := bankAddr_bounds hb ho
  refine Mem.read_of_absent fun c hc hat => ?_
  have hout : (!(decide (bankAddr 0 0 ≤ c.1 ∧ c.1 < 2 ^ 64) && subs.contains (c.1 % 2 ^ 20 / 2 ^ 16))) = true := (List.mem_filter.mp hc).2
  rw [hat, hoff, hsub, decide_eq_true ⟨hlo, hhi⟩] at hout
  exact Bool.false_ne_true hout
theorem State.eraseAll_device_gone {s : State} {vd : Nat} {v : VDev} {owed : Option (Nat × Nat)} (hv : s.vd? vd = some v)
    (howed : v.destroy = some owed) (he : s.erasing = [⟨vd + 1, .device vd⟩]) (hnodup : (s.vds.map (·.1)).Nodup) :
    s.eraseAll.vd? vd = none ∧ (∀ x, x ≠ vd → s.eraseAll.vd? x = s.vd? x) ∧ (∀ e ∈ s.eraseAll.owner, e.2 ≠ vd + 1) ∧
    ∀ b o, b < 2048 → o < 2 ^ 20 → v.subbanks.contains (o / 2 ^ 16) = true → Mem.read s.eraseAll.mem (bankAddr b o) = Mem.blank := by
  have hend := State.eraseAll_device hv howed he
  refine ⟨?_, fun x hx => ?_, fun e hin => ?_, fun b o hb ho hsub => ?_⟩
  · exact (hend.vd? vd).trans (KMap.find?_erase_self vd hnodup)
  · exact (hend.vd? x).trans (KMap.find?_erase_ne s.vds hx)
  · rw [hend.view State.owner fun _ _ _ => rfl] at hin
    exact of_decide_eq_true (List.mem_filter.mp hin).2
  · exact (hend.read (bankAddr_bounds hb ho).2.2).trans (State.freeSubs_read (s.clearUnits (vd + 1)) hb ho hsub)

/-! ### STEERSET (R49 to R51) -/

/-- A sound STEERSET request of the PF is run by the event of its kind. -/
theorem State.steerset_runs {s : State} {id kind : Nat} {sound : HostReq → Bool} {go : HostReq → State} {r : HostReq}
    (hr : s.request? 0 id 0x40 = some r) (hkind : r.at 8 1 = kind) (hsound : sound r = true) :
    s.steerset 0 id kind sound go = .next (go r) := by
  have hserved : s.serve 0 id 0x40 true (fun r => decide (r.at 8 1 = kind) && sound r) go = .next (go r) :=
    State.serve_runs hr (.inr rfl) (by rw [hsound, decide_eq_true hkind]; rfl)
  simp only [State.steerset, hr]
  exact (if_pos (.inl hkind)).trans hserved

/-- A machine whose full words are among another's, with its ring locks and its rules. -/
structure State.FewerFull (s t : State) : Prop where
  fe : t.fe.Sublist s.fe
  locks : t.locks = s.locks
  rules : t.rules = s.rules
theorem State.FewerFull.refl (s : State) : s.FewerFull s := ⟨.refl _, rfl, rfl⟩
theorem State.FewerFull.trans {s t u : State} (h : s.FewerFull t) (h' : t.FewerFull u) : s.FewerFull u :=
  ⟨h'.fe.trans h.fe, h'.locks.trans h.locks, h'.rules.trans h.rules⟩
theorem State.FewerFull.foldl {α : Type} {f : State → α → State} (h : ∀ (s : State) a, s.FewerFull (f s a)) (l : List α) (s : State) :
    s.FewerFull (l.foldl f s) := by
  induction l generalizing s with
  | nil => exact .refl s
  | cons a rest ih => exact (h s a).trans (ih (f s a))
theorem State.FewerFull.lineLocked {s t : State} (h : s.FewerFull t) (k : Nat) : t.lineLocked k = s.lineLocked k := congrArg (KMap.has · k) h.locks
/-- A word that is empty stays empty. -/
theorem State.FewerFull.feBit_sram {s t : State} (h : s.FewerFull t) {b o : Nat} (he : s.feBit (.sram b o) = false) : t.feBit (.sram b o) = false := by
  have hout : (Place.sram b o).key / 8 * 8 ∉ s.fe := by simpa [State.feBit] using he
  simpa [State.feBit] using fun hin => hout (h.fe.subset hin)

theorem State.blankSub_fewerFull (s : State) (b sb : Nat) : s.FewerFull (s.blankSub b sb) := ⟨List.filter_sublist, rfl, rfl⟩
theorem State.modSub_fewerFull (s : State) (b sb : Nat) (f : SubBank → SubBank) : s.FewerFull (s.modSub b sb f) := ⟨.refl _, rfl, rfl⟩
theorem State.setAlloc_fewerFull (s : State) (vd b : Nat) (v : Word) (sb : Nat) : s.FewerFull (s.setAlloc vd b v sb) := by
  simp only [State.setAlloc]
  split
  · exact .refl s
  · split
    · split
      · exact s.modSub_fewerFull b sb _
      · exact (s.blankSub_fewerFull b sb).trans (State.modSub_fewerFull _ b sb _)
    · split
      · exact s.modSub_fewerFull b sb _
      · exact (s.blankSub_fewerFull b sb).trans (State.modSub_fewerFull _ b sb _)
theorem State.holdAwake_fewerFull (s : State) (vd b sb : Nat) : s.FewerFull (s.holdAwake vd b sb) := by
  simp only [State.holdAwake]
  split
  · exact State.modSub_fewerFull _ b sb _
  · exact (s.setAlloc_fewerFull vd b _ sb).trans (State.modSub_fewerFull _ b sb _)

/-- Word 0 of an entry is zeroed and emptied, unless its line is locked on the ring (R51, R179). -/
def State.emptyEntry (q : SteerQueue) (s : State) (i : Nat) : State :=
  if s.lineLocked ((q.place i 0).key / 64 * 64) then s else (s.poke 0 (q.place i 0) (leBytes 8 0)).setFe (q.place i 0) false
/-- The machine in which the entries of a queue are emptied: its sub-banks held awake, and no frame waiting for it. -/
def State.heldAwake (s : State) (qn : Nat) (q : SteerQueue) : State :=
  let last := (q.offset + 2 ^ (q.log2e + q.log2s) - 1) / 2 ^ 16
  let banks := (List.range 16).filter fun sb => decide (q.offset / 2 ^ 16 ≤ sb ∧ sb ≤ last)
  { banks.foldl (fun s sb => s.holdAwake q.vd q.brick sb) s with frames := s.frames.filter fun x => decide (x.queue ≠ qn) }
theorem State.openQueue_eq (s : State) (qn : Nat) (q : SteerQueue) :
    s.openQueue qn q = (List.range (2 ^ q.log2e)).foldl (State.emptyEntry q) (s.heldAwake qn q) := rfl
theorem State.heldAwake_fewerFull (s : State) (qn : Nat) (q : SteerQueue) : s.FewerFull (s.heldAwake qn q) :=
  (State.FewerFull.foldl (fun s sb => s.holdAwake_fewerFull q.vd q.brick sb) _ s).trans ⟨.refl _, rfl, rfl⟩
theorem State.emptyEntry_fewerFull (q : SteerQueue) (s : State) (i : Nat) : s.FewerFull (State.emptyEntry q s i) := by
  simp only [State.emptyEntry]
  split
  · exact .refl s
  · exact ⟨NSet.erase_sublist s.fe _, rfl, rfl⟩
theorem State.feBit_emptyEntry {q : SteerQueue} {s : State} {i : Nat} (hfe : s.fe.Nodup) (hfree : s.lineLocked ((q.place i 0).key / 64 * 64) = false) :
    (State.emptyEntry q s i).feBit (q.place i 0) = false := by
  simp only [State.emptyEntry, hfree]
  exact NSet.contains_erase_self _ hfe
/-- Every entry of a list of them whose line is not locked ends empty. -/
theorem State.feBit_emptied (q : SteerQueue) (l : List Nat) : ∀ {s : State} {i : Nat}, s.fe.Nodup → i ∈ l →
    s.lineLocked ((q.place i 0).key / 64 * 64) = false → (l.foldl (State.emptyEntry q) s).feBit (q.place i 0) = false := by
  induction l with
  | nil => exact fun _ hi => absurd hi List.not_mem_nil
  | cons j rest ih =>
    intro s i hfe hi hfree
    have hstep := State.emptyEntry_fewerFull q s j
    rcases List.mem_cons.mp hi with rfl | hi
    · exact (State.FewerFull.foldl (State.emptyEntry_fewerFull q) rest _).feBit_sram (State.feBit_emptyEntry hfe hfree)
    · exact ih (hfe.sublist hstep.fe) hi ((hstep.lineLocked _).trans hfree)
theorem State.openQueue_rules (s : State) (qn : Nat) (q : SteerQueue) : (s.openQueue qn q).rules = s.rules :=
  ((s.heldAwake_fewerFull qn q).trans (State.FewerFull.foldl (State.emptyEntry_fewerFull q) _ _)).rules
theorem State.feBit_openQueue {s : State} {q : SteerQueue} {i : Nat} (qn : Nat) (hfe : s.fe.Nodup) (hi : i < 2 ^ q.log2e)
    (hfree : s.lineLocked ((q.place i 0).key / 64 * 64) = false) : (s.openQueue qn q).feBit (q.place i 0) = false := by
  have hheld := s.heldAwake_fewerFull qn q
  exact State.feBit_emptied q _ (hfe.sublist hheld.fe) (List.mem_range.mpr hi) ((hheld.lineLocked _).trans hfree)

/-- The descriptor that a STEERSET payload gives, with its counts at zero (Table 2.16). -/
def HostReq.queue (r : HostReq) : SteerQueue := ⟨r.at 16 1, decide (r.at 17 1 = 1), r.at 18 1, r.at 19 1, r.at 20 2, r.at 24 8, 0, 0, 0, 0, 0, 0⟩
/-- Do the entries of a queue lie where its device may have them (R51)? -/
def State.queueLies (s : State) (q : SteerQueue) : Bool := s.queueFits q.vd q.brick q.offset (2 ^ (q.log2e + q.log2s))
section
variable {s : State} {id : Nat} {r : HostReq} (hr : s.request? 0 id 0x40 = some r)
include hr
theorem execSteersetRule_sound (hkind : r.at 8 1 = 0) (hsound : ruleSound r = true) : exec (.steersetRule 0 id) s =
    .next (if r.at 10 2 < 16 then s.reply 0 id 2 0
      else { s with rules := KMap.set s.rules (r.at 10 2) ⟨(r.payload.drop 8).take 96, 0⟩ }.reply 0 id 0 0) :=
  State.steerset_runs hr hkind hsound
theorem execSteersetRule_stores (hkind : r.at 8 1 = 0) (hsound : ruleSound r = true) (hfree : 16 ≤ r.at 10 2) :
    ∃ t : State, exec (.steersetRule 0 id) s = .next t ∧
      KMap.find? t.rules (r.at 10 2) = some ⟨(r.payload.drop 8).take 96, 0⟩ ∧ t.queues = s.queues ∧ t.slots = s.slots := by
  have hexec := execSteersetRule_sound hr hkind hsound
  rw [if_neg (Nat.not_lt.mpr hfree)] at hexec
  have hhost := State.reply_hostAlone { s with rules := KMap.set s.rules (r.at 10 2) ⟨(r.payload.drop 8).take 96, 0⟩ } 0 id 0 0
  exact ⟨_, hexec, (hhost.view (fun t => KMap.find? t.rules (r.at 10 2)) fun _ _ _ => rfl).trans (KMap.find?_set_self _ _ _),
    hhost.view State.queues fun _ _ _ => rfl, hhost.view State.slots fun _ _ _ => rfl⟩
variable (hkind : r.at 8 1 = 1) (hsound : queueSound r = true)
include hkind hsound
theorem execSteersetQueue_misplaced (hfit : s.queueLies r.queue = false) : exec (.steersetQueue 0 id) s = .next (s.reply 0 id 3 0) := by
  refine (State.steerset_runs hr hkind hsound).trans (congrArg _ ?_)
  exact if_pos (congrArg (!·) hfit)
variable (hfit : s.queueLies r.queue = true)
include hfit
theorem execSteersetQueue_opens (hold : ∀ q, KMap.find? s.queues (r.at 10 2) = some q → q.en = false) : exec (.steersetQueue 0 id) s =
    .next (((if r.queue.en then s.openQueue (r.at 10 2) r.queue else s).setSteer (r.at 10 2) r.queue).reply 0 id 0 0) := by
  refine (State.steerset_runs hr hkind hsound).trans (congrArg _ ?_)
  refine (if_neg fun hout => Bool.false_ne_true ((congrArg (!·) hfit).symm.trans hout)).trans ?_
  cases hq : KMap.find? s.queues (r.at 10 2) with
  | none => rfl
  | some q =>
    simp only [hold q hq]
    rfl
theorem execSteersetQueue_enabled {q : SteerQueue} (hq : KMap.find? s.queues (r.at 10 2) = some q) (hen : q.en = true) : exec (.steersetQueue 0 id) s =
    .next (if q.vd = r.queue.vd ∧ q.log2e = r.queue.log2e ∧ q.log2s = r.queue.log2s ∧ q.brick = r.queue.brick ∧ q.offset = r.queue.offset then
      (s.setSteer (r.at 10 2) { q with en := r.queue.en }).reply 0 id 0 0 else s.reply 0 id 3 0) := by
  refine (State.steerset_runs hr hkind hsound).trans (congrArg _ ?_)
  refine (if_neg fun hout => Bool.false_ne_true ((congrArg (!·) hfit).symm.trans hout)).trans ?_
  simp only [hq, hen, if_true, decide_eq_true_eq]
  rfl
theorem execSteersetQueue_stores (hold : ∀ q, KMap.find? s.queues (r.at 10 2) = some q → q.en = false) (hfe : s.fe.Nodup) :
    ∃ t : State, exec (.steersetQueue 0 id) s = .next t ∧ KMap.find? t.queues (r.at 10 2) = some r.queue ∧ t.rules = s.rules ∧
      (r.queue.en = true → ∀ i, i < 2 ^ r.queue.log2e → s.lineLocked ((r.queue.place i 0).key / 64 * 64) = false →
        t.feBit (r.queue.place i 0) = false) := by
  have hexec := execSteersetQueue_opens hr hkind hsound hfit hold
  have hhost := State.reply_hostAlone ((if r.queue.en then s.openQueue (r.at 10 2) r.queue else s).setSteer (r.at 10 2) r.queue) 0 id 0 0
  refine ⟨_, hexec, (hhost.view (fun t => KMap.find? t.queues (r.at 10 2)) fun _ _ _ => rfl).trans (KMap.find?_set_self _ _ _),
    (hhost.view State.rules fun _ _ _ => rfl).trans ?_, fun hopen i hi hfree => ?_⟩
  · split
    · exact s.openQueue_rules _ _
    · rfl
  · refine (hhost.view (fun t => t.feBit (r.queue.place i 0)) fun _ _ _ => rfl).trans ?_
    rw [if_pos hopen]
    exact State.feBit_openQueue (r.at 10 2) hfe hi hfree
theorem execSteersetQueue_toggles {q : SteerQueue} (hq : KMap.find? s.queues (r.at 10 2) = some q) (hen : q.en = true)
    (hsame : q.vd = r.queue.vd ∧ q.log2e = r.queue.log2e ∧ q.log2s = r.queue.log2s ∧ q.brick = r.queue.brick ∧ q.offset = r.queue.offset) :
    ∃ t : State, exec (.steersetQueue 0 id) s = .next t ∧ KMap.find? t.queues (r.at 10 2) = some { q with en := r.queue.en } ∧
      t.rules = s.rules ∧ t.fe = s.fe := by
  have hhost := State.reply_hostAlone (s.setSteer (r.at 10 2) { q with en := r.queue.en }) 0 id 0 0
  exact ⟨_, (execSteersetQueue_enabled hr hkind hsound hfit hq hen).trans (congrArg _ (if_pos hsame)),
    (hhost.view (fun t => KMap.find? t.queues (r.at 10 2)) fun _ _ _ => rfl).trans (KMap.find?_set_self _ _ _),
    hhost.view State.rules fun _ _ _ => rfl, hhost.view State.fe fun _ _ _ => rfl⟩
end

/-- Settles O57: requests run as `State.serve_runs` says; what a response leaves is read off by `State.HostAlone`, what opening a queue leaves of full words by `State.FewerFull`. -/
theorem hostRequests : Obligations.HostRequests := by
  unfold Obligations.HostRequests
  refine ⟨fun s f id r => ⟨execNop_answers, execUnknownRequest_answers, ?_, ?_, ?_⟩, ⟨?_, ?_, ?_⟩, ?_⟩
  · intro hr hsound hmay
    rw [execInfo_sound hr hsound, if_pos hmay]
  · intro hr hsound hmay
    rw [execInfo_sound hr hsound, if_neg (Bool.eq_false_iff.mp hmay)]
  · exact fun hf => ⟨fun _ _ _ hr => State.serve_vf hr hf, fun hr => State.serve_vf hr hf, fun hr => State.serve_vf hr hf⟩
  · intro s id root save ws r hr hsound
    refine ⟨fun hmade => execVdcreate_makes hr hsound ws hmade, fun hrefused => ?_⟩
    rw [execVdcreate_sound hr hsound, if_neg (Bool.eq_false_iff.mp hrefused)]
  · intro s id r v hr hlen hvd hv
    refine ⟨execVddestroy_begins hr hlen hvd hv, fun hrefused => ?_⟩
    rw [execVddestroy_named hr hlen hvd hv, if_pos hrefused]
  · intro s vd v owed hv howed
    refine ⟨fun htree hdrained hrun => ?_, fun he hnodup => State.eraseAll_device_gone hv howed he hnodup⟩
    exact ⟨execVddestroyDrained_leaves hv howed hdrained hrun, execVddestroyDrained_drops hv howed hdrained hrun htree⟩
  · intro s id r hr
    refine ⟨fun hkind hsound => ⟨fun hnerem => ?_, execSteersetRule_stores hr hkind hsound⟩, fun hkind hsound => ?_⟩
    · rw [execSteersetRule_sound hr hkind hsound, if_pos hnerem]
    · refine ⟨execSteersetQueue_misplaced hr hkind hsound, fun hfit hold hfe => ?_, fun q hq hfit hen hvd hlog2e hlog2s hbrick hoffset => ?_,
        fun q hq hfit hen hother => ?_⟩
      · exact execSteersetQueue_stores hr hkind hsound hfit hold hfe
      · exact execSteersetQueue_toggles hr hkind hsound hfit hq hen ⟨hvd, hlog2e, hlog2s, hbrick, hoffset⟩
      · exact (execSteersetQueue_enabled hr hkind hsound hfit hq hen).trans (congrArg _ (if_neg fun ⟨_, _, _, _, hoffset⟩ => hother hoffset))

end Sys2Proof.Machine
end

section
/-!
SUPPORT. What a handover makes of a context that waited on a CWR; GangSwitches is refuted with it.
-/
namespace Sys2Proof.Machine

@[simp] theorem Slot.advance_descr (k : Slot) : k.advance.descr = k.descr := by
  unfold Slot.advance
  split
  · split
    · rfl
    · split <;> rfl
  · rfl
/-- A restored context with its buffered stores to be translated again (R133). -/
def Slot.restored (k : Slot) : Slot := { k with sb := k.sb.map SbEntry.saved }
/-- A context that waited on a CWR of BWPHASE or SINV is handed its slot with that CWR complete, and no descriptor is left (Table 4.12). -/
theorem execSlotHandover_onCwr {s u : State} {b n vd at0 : Nat} {k : Slot} (hmode : (s.slotAt (8 * b + n)).mode = .switching none)
    (hres : s.residentOf ((8 * b + n) % 8) = some vd) (hsaved : s.savedFor (8 * b + n) vd = some (at0, k))
    (hread : s.contextPassage imagePass k.vd (8 * b + n) 0 4096 none = (u, .done)) (hcwr : k.mode.onCwr = true) (hstep : k.sstep = false) :
    ∃ t : State, exec (.slotHandover b n) s = .next t ∧ t.slotAt (8 * b + n) =
      { k.restored.advance with
        mode := .ready, req := none, descr := none, haltAsked := k.restored.advance.haltAsked || k.restored.advance.debugStep } := by
  have hrestore : s.handover (8 * b + n) = u.restoreSlot (8 * b + n) at0 k := by
    simp only [State.handover, hres, Option.bind_some, hsaved, hread]
  have hnostep : (({ u with saved := KMap.erase u.saved at0 }.setSlot (8 * b + n) k.restored).slotAt (8 * b + n)).stepDue = false := by
    rw [State.slotAt_setSlot_self]
    simp only [Slot.stepDue, Slot.restored, hstep, Bool.false_and]
  refine ⟨u.restoreSlot (8 * b + n) at0 k, ?_, ?_⟩
  · simp only [exec, execSlotHandover, hmode, hrestore]
  · have hcomplete : u.restoreSlot (8 * b + n) at0 k =
        ({ u with saved := KMap.erase u.saved at0 }.setSlot (8 * b + n) k.restored).completeAt (8 * b + n) k.restored.advance := if_pos hcwr
    rw [hcomplete, State.completeAt_plain _ hnostep, State.slotAt_setSlot_self]

/-- A passage that has ended leaves some machine. -/
theorem exists_of_done {x : State × Passage} (h : x.2 = .done) : ∃ u, x = (u, .done) := ⟨x.1, by rw [← h]⟩

/-- A saved context that waits on a CWR of SINV and whose image holds a descriptor. -/
def cwrWithDescr : Slot := { State.reset.withDemo.slotAt 0 with mode := .parked (.invalidation 9), descr := some 0 }
/-- The demonstration device, resident, with that context saved for slot 0 of brick 0, whose outgoing context has left it. -/
def handingOver : State :=
  { State.reset.withDemo.setSlot 0 { Slot.empty with mode := .switching none } with saved := [(keepKey 1 0 0, cwrWithDescr)] }
/-- The image of the context is read at once. -/
theorem handingOver_read : (handingOver.contextPassage imagePass cwrWithDescr.vd (8 * 0 + 0) 0 4096 none).2 = .done := by decide +kernel

/-- Refutes O60: the statement has a CWR complete with the descriptor that the saved context held, where `State.completeAt` leaves none. In `handingOver` the context that comes back waits on a CWR of SINV with a descriptor in its image, so the slot after the handover differs. -/
theorem not_gangSwitches : ¬ Obligations.GangSwitches := by
  unfold Obligations.GangSwitches
  rintro ⟨-, hhandover⟩
  have hmode : (handingOver.slotAt (8 * 0 + 0)).mode = .switching none := rfl
  have hres : handingOver.residentOf ((8 * 0 + 0) % 8) = some 0 := by decide
  have hsaved : handingOver.savedFor (8 * 0 + 0) 0 = some (keepKey 1 0 0, cwrWithDescr) := rfl
  obtain ⟨u, hread⟩ : ∃ u, handingOver.contextPassage imagePass cwrWithDescr.vd (8 * 0 + 0) 0 4096 none = (u, .done) :=
    exists_of_done handingOver_read
  obtain ⟨-, -, hrestores⟩ := hhandover handingOver handingOver u 0 0 0
  obtain ⟨-, hcwr⟩ := (hrestores (.inl ⟨hmode, rfl⟩) hres).1 _ _ hsaved hread
  obtain ⟨t, hexec, hslot, -⟩ := hcwr rfl rfl
  obtain ⟨t', hexec', hslot'⟩ := execSlotHandover_onCwr hmode hres hsaved hread rfl rfl
  obtain rfl : t = t' := Host.Outcome.next.inj (hexec.symm.trans hexec')
  have hkept : (t.slotAt (8 * 0 + 0)).descr = cwrWithDescr.restored.advance.descr := by rw [hslot]; rfl
  have hnone : (t.slotAt (8 * 0 + 0)).descr = none := by rw [hslot']
  rw [hkept, Slot.advance_descr] at hnone
  exact Option.some_ne_none (0 : Line) hnone

end Sys2Proof.Machine
end

section
/-!
SUPPORT. What a fresh key, the end of an erasure and the key calls on devices and windows leave; KeysWindowsMeasurements is assembled from these.
-/
namespace Sys2Proof.Machine

/-! ### Keys, made and erased (R66, R74) -/

theorem State.keyCall_runs {s : State} (h : s.neremRuns = true) (call : Nat) (go : Nat × State) :
    s.keyCall call go = .next (go.2.answer call go.1) := if_pos h
@[simp] theorem State.find?_newKey_keys (s : State) (kid : Nat) :
    KMap.find? (s.newKey kid).keys kid = some (if s.boot.lcs = 1 then Config.testKey s.nextId else s.nextId) :=
  KMap.find?_set_self _ _ _
/-- No unit belongs to a key that has been erased (R74 step 2). -/
theorem State.owner_clearUnits {s : State} {kid : Nat} : ∀ kv ∈ (s.clearUnits kid).owner, kv.2 ≠ kid :=
  fun _ hkv => of_decide_eq_true (List.mem_filter.mp hkv).2
/-- The only erasure under way has ended. -/
theorem State.erasing_clearUnits {s : State} {kid : Nat} {who : EraseFor} (he : s.erasing = [⟨kid, who⟩]) :
    (s.clearUnits kid).erasing = [] := by
  simp only [State.clearUnits, he, ne_eq, List.filter_cons, not_true, decide_false, Bool.false_eq_true, if_false, List.filter_nil]
/-- The zeroing of a device's save region leaves what the memory controllers and the key table hold. -/
theorem State.zeroSaved_keeps (s : State) (vd : Nat) :
    ((s.zeroSaved vd).keys, (s.zeroSaved vd).owner, (s.zeroSaved vd).erasing, (s.zeroSaved vd).mem) =
      (s.keys, s.owner, s.erasing, s.mem) :=
  foldl_view (f := fun (t : State) (kv : Nat × Slot) => t.withdraw kv.2.ctx) (fun t => (t.keys, t.owner, t.erasing, t.mem))
    (fun _ _ => rfl) _ s
theorem State.eraseAll_key {s : State} {kid : Nat} (he : s.erasing = [⟨kid, .key⟩]) :
    s.eraseAll = ((s.clearUnits kid).zeroSaved (kid - 1)).answer 0x11 0 := by
  simp only [State.eraseAll, he, List.foldl_cons, List.foldl_nil, State.erasedFor]
theorem State.eraseAll_window {s : State} {kid w : Nat} (he : s.erasing = [⟨kid, .window w⟩]) :
    s.eraseAll = { s.clearUnits kid with windows := KMap.modify s.windows w fun x => { x with state := .closed } }.answer 0x22 0 := by
  simp only [State.eraseAll, he, List.foldl_cons, List.foldl_nil, State.erasedFor]
  rfl

/-! ### VDKEY and VDERASE (Table 3.9) -/

section
variable {s : State} {vd : Nat} {v : VDev} (hn : s.neremRuns = true)
include hn

theorem execVdkey_makes (hv : s.vd? vd = some v) (hallowed : s.boot.keysAllowed = true) (hnone : KMap.has s.keys (vd + 1) = false)
    (herase : s.beingErased (vd + 1) = false) : exec (.vdkey vd) s = .next ((s.newKey (vd + 1)).answer 0x10 0) := by
  simp [exec, execVdkey, State.keyCall_runs hn, hv, hallowed, hnone, herase]
theorem execVdkey_denied (hdenied : s.boot.keysAllowed = false) : exec (.vdkey vd) s = .next (s.answer 0x10 2) := by
  simp [exec, execVdkey, State.keyCall_runs hn, hdenied]
theorem execVderase_eq (hv : s.vd? vd = some v) : exec (.vderase vd) s =
    if (s.windows.any fun kv => kv.2.lists vd) || s.beingErased (vd + 1) then .next (s.answer 0x11 3)
    else .next (s.eraseKey (vd + 1) .key) := by
  simp only [exec, execVderase, hn, hv, Bool.not_true, Bool.false_eq_true, Option.isNone_some, if_false]
end
/-- The end of an erasure that VDERASE began: it is answered, and neither the key table nor memory changes any more (R74). -/
theorem State.eraseAll_key_ends {s : State} {kid : Nat} (he : s.erasing = [⟨kid, .key⟩]) :
    s.eraseAll.mailbox = some (0x11, 0) ∧ s.eraseAll.erasing = [] ∧ (∀ kv ∈ s.eraseAll.owner, kv.2 ≠ kid) ∧
      s.eraseAll.keys = s.keys ∧ s.eraseAll.mem = s.mem := by
  have hkeeps := (s.clearUnits kid).zeroSaved_keeps (kid - 1)
  simp only [Prod.mk.injEq] at hkeeps
  obtain ⟨hkeys, howner, herasing, hmem⟩ := hkeeps
  rw [State.eraseAll_key he]
  refine ⟨rfl, herasing.trans (State.erasing_clearUnits he), ?_, hkeys, hmem⟩
  exact fun kv hkv => State.owner_clearUnits kv (howner ▸ hkv)

/-! ### Windows (R77, R82, R85) -/

section
variable {s : State} {w : Nat} {x : Window}

theorem State.windowFree_of_find (hx : KMap.find? s.windows w = some x) : s.windowFree w = decide (x.state = .closed) := by
  rw [State.windowFree, hx]
theorem State.inRekey_of_find (hx : KMap.find? s.windows w = some x) : s.inRekey w = decide (x.state = .rekey) := by
  rw [State.inRekey, hx]
/-- WINOPEN of a sound window takes its units from their owners and gives it a fresh key (R77). -/
theorem execWinopen_opens (hn : s.neremRuns = true) {units : List Nat} {ms : List WinMember} {creator : Nat}
    (hallowed : s.boot.keysAllowed = true)
    (hsound : (decide (w < 64) && s.windowFree w && s.membersSound ms && s.unitsSound units creator && s.unitsFree units
      && s.quotaAllows creator units) = true) :
    exec (.winopen w units ms creator) s = .next ({ s.newKey (32 + w) with
      owner := s.owner.filter fun kv => !(units.contains kv.1)
      windows := KMap.set s.windows w ⟨units, ms, 0, .opened, [], false, creator, none, []⟩ }.answer 0x20 0) := by
  simp only [exec, execWinopen, State.keyCall_runs hn, hallowed, hsound, Bool.not_true, Bool.false_eq_true, if_false]
  rfl
theorem execWinmembers_begins (hn : s.neremRuns = true) (hx : KMap.find? s.windows w = some x) {ms : List WinMember}
    (hopen : x.state = .opened) (hallowed : s.boot.keysAllowed = true) (hsound : s.membersSound ms = true)
    (herase : s.beingErased (32 + w) = false) : exec (.winmembers w ms) s =
      .next { s with windows := KMap.set s.windows w { x with state := .rekey, next := ms, drained := false } } := by
  simp only [exec, execWinmembers, hn, hx, hopen, hallowed, hsound, herase, Bool.not_true, Bool.false_eq_true, if_false]
theorem execWinmembers_rekey (hn : s.neremRuns = true) (hx : KMap.find? s.windows w = some x) (hrekey : x.state = .rekey)
    (ms : List WinMember) : exec (.winmembers w ms) s = .next (s.answer 0x21 3) := by
  simp only [exec, execWinmembers, hn, hx, hrekey, Bool.not_true, Bool.false_eq_true, if_false]
theorem execRekeyDrained_eq (hx : KMap.find? s.windows w = some x) : exec (.rekeyDrained w) s =
    if x.state = .rekey ∧ !x.drained then .next { s.newKey (32 + w) with
      windows := KMap.set s.windows w { x with drained := true, old := KMap.find? s.keys (32 + w), passed := [] } }
    else .next s := by
  simp only [exec, execRekeyDrained, hx]
  rfl
theorem execRekeyClose_eq (hx : KMap.find? s.windows w = some x) : exec (.rekeyClose w) s =
    if x.state = .rekey ∧ x.drained ∧ !(s.written.any fun g => s.rekeyAhead x x.passed g) then
      .next ({ s with windows := KMap.set s.windows w { x with
        state := .opened, members := x.next, next := [], drained := false, old := none, passed := []
        gen := x.gen + 0x100000000 } }.answer 0x21 0)
    else .next s := by
  simp only [exec, execRekeyClose, hx]
  rfl
theorem execWinclose_eq (hn : s.neremRuns = true) (hx : KMap.find? s.windows w = some x) (hnotclosed : x.state ≠ .closed) :
    exec (.winclose w) s = if x.state = .rekey ∨ s.beingErased (32 + w) = true then .next (s.answer 0x22 3)
      else .next (s.eraseKey (32 + w) (.window w)) := by
  simp only [exec, execWinclose, hn, State.windowFree_of_find hx, State.inRekey_of_find hx, hnotclosed, decide_false,
    Bool.or_eq_true, decide_eq_true_eq, Bool.not_true, Bool.false_eq_true, if_false]
end
/-- The end of the erasure of a window's key: WINCLOSE is answered, and the window is CLOSED (R74, R77). -/
theorem State.eraseAll_window_closes {s : State} {kid w : Nat} (he : s.erasing = [⟨kid, .window w⟩]) :
    s.eraseAll.mailbox = some (0x22, 0) ∧ s.eraseAll.erasing = [] ∧ (∀ kv ∈ s.eraseAll.owner, kv.2 ≠ kid) ∧
      s.eraseAll.mem = s.mem ∧
      ∀ x, KMap.find? s.windows w = some x → KMap.find? s.eraseAll.windows w = some { x with state := .closed } := by
  rw [State.eraseAll_window he]
  refine ⟨rfl, State.erasing_clearUnits he, State.owner_clearUnits, rfl, fun x hx => ?_⟩
  exact (KMap.find?_modify_self s.windows w fun x => { x with state := .closed }).trans (by rw [hx, Option.map_some])

/-! ### Measurements (R86) -/

theorem execAttest_eq {s : State} (hn : s.neremRuns = true) (vd nonce : Nat) : exec (.attest vd nonce) s =
    .next (if (s.vd? vd).isNone then s.answer 0x30 1
      else { s with reports := s.reports ++ [(vd, signed (nonce :: (s.commonBlocks.flatten ++ s.vdBlock vd)))] }.answer 0x30 0) := by
  simp only [exec, execAttest, State.keyCall_runs hn]
  split <;> rfl
/-- The devices whose blocks SPDM gives to a function: every one to the PF, its own to a VF (R86). -/
def State.measuredFor (s : State) (f : Nat) : List Nat := (s.vds.filter fun kv => decide (f = 0 ∨ kv.2.func = f)).map (·.1)
theorem execSpdmGetMeasurements_eq (s : State) (f : Nat) : exec (.spdmGetMeasurements f) s =
    .next { s with reports := s.reports ++ [(f, signed (s.commonBlocks.flatten ++ ((s.measuredFor f).map s.vdBlock).flatten))] } := rfl
theorem State.measuredFor_pf (s : State) : s.measuredFor 0 = s.vds.map (·.1) := by
  simp only [State.measuredFor, true_or, decide_true, List.filter_true]
theorem State.measuredFor_vf {s : State} {f vd : Nat} {v : VDev} (hf : f ≠ 0) (hvds : s.vds = [(vd, v)]) :
    s.measuredFor f = if v.func = f then [vd] else [] := by
  by_cases hown : v.func = f
  · simp [State.measuredFor, hvds, hown]
  · simp [State.measuredFor, hvds, hown, hf]

/-! ### The obligation -/

/-- Settles O54: each key call and each event of a window by its equation, the ends of erasures by what `State.eraseAll` makes of the only one under way, and reports by the devices that they measure. -/
theorem keysWindowsMeasurements : Obligations.KeysWindowsMeasurements := by
  unfold Obligations.KeysWindowsMeasurements
  refine ⟨fun s vd v => ⟨fun hn hv => ⟨?_, execVdkey_denied hn, ?_, ?_⟩, State.eraseAll_key_ends⟩,
    fun s w => ⟨fun hn => ⟨?_, fun x hx => ⟨?_, ?_, ?_, ?_, ?_, ?_, ?_⟩⟩, State.eraseAll_window_closes⟩,
    fun _ => rfl, fun s => ⟨?_, ?_, ?_⟩⟩
  · intro hallowed hnone herase
    exact ⟨_, execVdkey_makes hn hv hallowed hnone herase, s.find?_newKey_keys (vd + 1), rfl, rfl⟩
  · exact fun hlists herase => (execVderase_eq hn hv).trans (if_neg (by simp [hlists, herase]))
  · exact fun hbusy => (execVderase_eq hn hv).trans (if_pos ((Bool.or_eq_true _ _).mpr hbusy))
  · intro units ms creator hallowed hw hfree hmembers hunits hunused hquota
    refine ⟨_, execWinopen_opens hn hallowed (by simp [hw, hfree, hmembers, hunits, hunused, hquota]), rfl,
      KMap.find?_set_self _ _ _, s.find?_newKey_keys (32 + w), fun kv hkv hin => ?_⟩
    have hkept : (!(units.contains kv.1)) = true := (List.mem_filter.mp hkv).2
    simp [hin] at hkept
  · exact fun ms hopen hallowed hsound herase => execWinmembers_begins hn hx hopen hallowed hsound herase
  · exact fun ms hrekey => execWinmembers_rekey hn hx hrekey ms
  · intro hrekey hfresh
    exact ⟨_, (execRekeyDrained_eq hx).trans (if_pos ⟨hrekey, by simp [hfresh]⟩), KMap.find?_set_self _ _ _,
      s.find?_newKey_keys (32 + w)⟩
  · intro hrekey hdrained hpassed
    exact ⟨_, (execRekeyClose_eq hx).trans (if_pos ⟨hrekey, hdrained, by simpa using hpassed⟩), rfl, KMap.find?_set_self _ _ _⟩
  · intro _ ⟨g, hg, hahead⟩
    have hany : (s.written.any fun g => s.rekeyAhead x x.passed g) = true := List.any_eq_true.mpr ⟨g, hg, hahead⟩
    exact (execRekeyClose_eq hx).trans (if_neg (by simp [hany]))
  · intro hopen herase
    exact (execWinclose_eq hn hx (by simp [hopen])).trans (if_neg (by simp [hopen, herase]))
  · rintro (hrekey | ⟨hopen, herase⟩)
    · exact (execWinclose_eq hn hx (by simp [hrekey])).trans (if_pos (.inl hrekey))
    · exact (execWinclose_eq hn hx (by simp [hopen])).trans (if_pos (.inr herase))
  · intro vd nonce v hn hv
    exact (execAttest_eq hn vd nonce).trans (by rw [if_neg (by simp [hv])]; rfl)
  · intro vd nonce hn hv
    exact (execAttest_eq hn vd nonce).trans (by rw [if_pos (by simp [hv])]; rfl)
  · intro f
    refine ⟨_, _, execSpdmGetMeasurements_eq s f, rfl, rfl, fun hf => ?_, fun vd v hf hvds => ?_⟩
    · rw [hf, s.measuredFor_pf]
    · rw [State.measuredFor_vf hf hvds]
      split
      · exact congrArg _ (List.append_nil _)
      · rfl

end Sys2Proof.Machine
end

section
/-!
SUPPORT. A turn as one step of the machine, and the end of a step; StepsRunWords and EveryStepIsPrompt are assembled from these.
-/
namespace Sys2Proof.Machine

/-! ### The end of a step -/

/-- Once every slot whose wait has ended is readied, no slot oversleeps: readying ends no other slot's wait. -/
theorem State.prompt_readyAll (s : State) : s.readyAll.Prompt := by
  intro kv hkv c hmode
  obtain ⟨⟨key, k⟩, -, rfl⟩ := List.mem_map.mp hkv
  obtain ⟨hstays, hwaits⟩ := State.checked_cond hmode
  rw [State.condOver_readyAll, hstays]
  exact hwaits
/-- What ends a step leaves no slot that oversleeps, in whatever state the step's move had left the machine. -/
theorem State.prompt_settle (s : State) : s.settle.Prompt := State.prompt_readyAll _
/-- Every step ends by settling what its move made. -/
theorem step_settles (s : State) : ∃ o, step s = settled o := by
  unfold step State.oneStep
  split
  · exact ⟨_, rfl⟩
  · exact ⟨_, rfl⟩
/-- A next state after settling is a settled one. -/
theorem settled_next {o : Out} {t : State} (h : settled o = .next t) : ∃ u : State, t = u.settle := by
  cases o with
  | next u => exact ⟨u, (Host.Outcome.next.inj h).symm⟩
  | fault f => cases h
  | refused r => cases h

/-! ### A turn -/

section
variable {s s1 s2 t : State} {b n : Nat} {rest : List Move} {w : IWord} {i : Instr}

/-- The turn of a slot that may issue is one step: the slot issues, its turn ends, and the machine settles (R97). -/
theorem step_issues (hmove : s.agenda = .turn b n :: rest)
    (hs1 : s1 = { ({ s with agenda := rest }.reachTurn b (n % 8)) with cur := 8 * b + n % 8 }) (hgo : s1.canIssue s1.cur = true) :
    step s = settled (turned s1.cur s1.me.ctx s1.issue) := by
  subst hs1
  simp only [step, State.oneStep, hmove, State.move, State.turn]
  exact congrArg settled (if_pos hgo)
/-- The turn of a slot that may not issue is lost (R97). -/
theorem step_loses_turn (hmove : s.agenda = .turn b n :: rest) (hs1 : s1 = { s with agenda := rest }.reachTurn b (n % 8))
    (hgo : s1.canIssue (8 * b + n % 8) = false) : step s = .next s1.settle := by
  subst hs1
  simp only [step, State.oneStep, hmove, State.move, State.turn, hgo]
  rfl
/-- Outside a running frame a slot whose fetch reaches its home executes the word at its PC (R229). -/
theorem State.issue_fetched (hframe : s1.me.frame.running = false) (hready : s1.fetchReady s1.cur s1.me.pc = (s2, none))
    (hme : s2.me = s1.me) (hfetch : s2.fetch s2.cur s2.me.pc = .word w t) (hword : decode w = .ok i) : s1.issue = exec i t := by
  simp [State.issue, State.nextInstr, hframe, hready, hme, hme ▸ hfetch, hword]
/-- In a running frame a slot executes the word of the capture buffer at POS, staggered by its repetition, and fetches nothing (R162, R163). -/
theorem State.issue_framed (hframe : s1.me.frame.running = true) (hbody : s1.me.frame.body[s1.me.frame.pos]? = some w)
    (hword : decode w = .ok i) : s1.issue = exec (stagger (s1.me.frame.iter * s1.me.frame.stag) i) s1 := by
  simp [State.issue, State.nextInstr, hframe, hbody, hword]

end

/-- Settles O5: a turn is `step_issues` or `step_loses_turn`, and what the slot issues is `State.issue_fetched` or `State.issue_framed`. -/
theorem stepsRunWords : Obligations.StepsRunWords := by
  refine ⟨?_, ?_, fun s s1 b n rest => step_loses_turn⟩
  · intro s s1 s2 t b n rest w i hmove hs1 hgo hframe hready hme hfetch hword
    rw [step_issues hmove hs1 hgo, State.issue_fetched hframe hready hme hfetch hword]
  · intro s s1 b n rest w i hmove hs1 hgo hframe hbody hword
    rw [step_issues hmove hs1 hgo, State.issue_framed hframe hbody hword]

/-- Settles O6: every step settles its move, and a settled machine is prompt by `State.prompt_settle`, whatever it was before. -/
theorem everyStepIsPrompt : Obligations.EveryStepIsPrompt := by
  intro s t _ hstep
  obtain ⟨o, ho⟩ := step_settles s
  obtain ⟨u, rfl⟩ := settled_next (ho.symm.trans hstep)
  exact u.prompt_settle

end Sys2Proof.Machine
end

section
/-!
SUPPORT. Words of lines, and how ITER claims a chunk of a descriptor in the own bank; IterClaims is assembled from these.
-/
namespace Sys2Proof.Machine

/-! ### Words of a line -/

/-- What stands above the low bits of a bit vector fits the others. -/
theorem toNat_div_lt {w n k : Nat} (v : BitVec w) (h : w ≤ k + n) : v.toNat / 2 ^ k < 2 ^ n := by
  apply Nat.div_lt_of_lt_mul
  rw [← pow_add]
  exact v.isLt.trans_le (Nat.pow_le_pow_right (by decide) h)
/-- A number that fits fewer bits is kept. -/
theorem toNat_ofNat_of_fits {w n x : Nat} (hn : n ≤ w) (h : x < 2 ^ n) : (BitVec.ofNat w x).toNat = x := by
  rw [BitVec.toNat_ofNat, Nat.mod_eq_of_lt (h.trans_le (Nat.pow_le_pow_right (by decide) hn))]
/-- A line with a word replaced, as a number: the bits below the word, the word, the bits above it. -/
theorem toNat_setWord (l : Line) {k : Nat} (hk : k < 8) (v : Word) :
    (setWord l k v).toNat = l.toNat % 2 ^ (64 * k) + (v.toNat + l.toNat / 2 ^ (64 * k) / 2 ^ 64 * 2 ^ 64) * 2 ^ (64 * k) := by
  have hform : l.toNat % 2 ^ (64 * k) + v.toNat * 2 ^ (64 * k) + l.toNat / 2 ^ (64 * k + 64) * 2 ^ (64 * k + 64) =
      l.toNat % 2 ^ (64 * k) + (v.toNat + l.toNat / 2 ^ (64 * k) / 2 ^ 64 * 2 ^ 64) * 2 ^ (64 * k) := by
    rw [pow_add, ← Nat.div_div_eq_div_mul]
    ring
  have hhigh : l.toNat / 2 ^ (64 * k) / 2 ^ 64 < 2 ^ (448 - 64 * k) := by
    rw [Nat.div_div_eq_div_mul, ← pow_add]
    exact toNat_div_lt l (by omega)
  rw [setWord, hform, toNat_ofNat_of_fits (n := 448 - 64 * k + 64 + 64 * k) (by omega)]
  have hlow : l.toNat % 2 ^ (64 * k) < 2 ^ (64 * k) := Nat.mod_lt _ (Nat.two_pow_pos _)
  have hword := v.isLt
  have hupper : v.toNat + l.toNat / 2 ^ (64 * k) / 2 ^ 64 * 2 ^ 64 + 1 ≤ 2 ^ (448 - 64 * k) * 2 ^ 64 := by omega
  have hfits := Nat.mul_le_mul_right (2 ^ (64 * k)) hupper
  rw [Nat.succ_mul] at hfits
  rw [pow_add, pow_add]
  omega
/-- The word that was put into a line. -/
theorem wordOf_setWord_self (l : Line) {k : Nat} (hk : k < 8) (v : Word) : wordOf (setWord l k v) k = v := by
  apply BitVec.eq_of_toNat_eq
  have hlow : l.toNat % 2 ^ (64 * k) < 2 ^ (64 * k) := Nat.mod_lt _ (Nat.two_pow_pos _)
  rw [wordOf, toNat_setWord l hk, Nat.add_mul_div_right _ _ (Nat.two_pow_pos _), Nat.div_eq_of_lt hlow, Nat.zero_add,
    BitVec.toNat_ofNat, Nat.add_mul_mod_self_right, Nat.mod_eq_of_lt v.isLt]
/-- Every other word of the line. -/
theorem wordOf_setWord_ne (l : Line) {k j : Nat} (hk : k < 8) (hj : j ≠ k) (v : Word) :
    wordOf (setWord l k v) j = wordOf l j := by
  apply BitVec.eq_of_toNat_eq
  simp only [wordOf, BitVec.toNat_ofNat, toNat_setWord l hk]
  have hlow : l.toNat % 2 ^ (64 * k) < 2 ^ (64 * k) := Nat.mod_lt _ (Nat.two_pow_pos _)
  rcases Nat.lt_or_gt_of_ne hj with hlt | hgt
  · obtain ⟨n, rfl⟩ := Nat.exists_eq_add_of_lt hlt
    have hpow : 2 ^ (64 * (j + n + 1)) = 2 ^ (64 * n) * 2 ^ 64 * 2 ^ (64 * j) := by rw [← pow_add, ← pow_add]; congr 1; ring
    rw [hpow, ← Nat.mul_assoc, Nat.add_mul_div_right _ _ (Nat.two_pow_pos _), ← Nat.mul_assoc, Nat.add_mul_mod_self_right,
      Nat.mul_comm (2 ^ (64 * n) * 2 ^ 64), Nat.mod_mul_right_div_self, Nat.mod_mul_left_mod]
  · obtain ⟨n, rfl⟩ := Nat.exists_eq_add_of_lt hgt
    have hpow : 2 ^ (64 * (k + n + 1)) = 2 ^ (64 * k) * 2 ^ 64 * 2 ^ (64 * n) := by rw [← pow_add, ← pow_add]; congr 1; ring
    rw [hpow, ← Nat.div_div_eq_div_mul, ← Nat.div_div_eq_div_mul, Nat.add_mul_div_right _ _ (Nat.two_pow_pos _),
      Nat.div_eq_of_lt hlow, Nat.zero_add, Nat.add_mul_div_right _ _ (Nat.two_pow_pos _), Nat.div_eq_of_lt v.isLt, Nat.zero_add,
      ← Nat.div_div_eq_div_mul, ← Nat.div_div_eq_div_mul]
/-- As many bytes as a bit vector fills hold its number. -/
theorem leNat_leBytes_toNat {n : Nat} (v : BitVec (8 * n)) : leNat (leBytes n v.toNat) = v.toNat := by
  rw [leNat_leBytes, show 256 = 2 ^ 8 from rfl, ← pow_mul, BitVec.toNat_mod_cancel]
/-- The bytes of a line hold it. -/
@[simp] theorem bytesLine_lineBytes (l : Line) : bytesLine (lineBytes l) = l := by
  rw [bytesLine, lineBytes, leNat_leBytes_toNat (n := 64) l, BitVec.ofNat_toNat, BitVec.setWidth_eq]

/-! ### The claim of a nest descriptor (R100) -/

section
variable {d : Line}

/-- While work is left, a claim takes the larger of the least chunk and the fair share, and no more than is left. -/
theorem claimChunk_left (h : (wordOf d 0).toNat < (wordOf d 1).toNat) :
    claimChunk d = min ((wordOf d 1).toNat - (wordOf d 0).toNat)
      (max (max (wordOf d 4).toNat 1) (ceilDiv ((wordOf d 1).toNat - (wordOf d 0).toNat) (lbits d 3 15 0))) :=
  if_neg (Nat.sub_ne_zero_of_lt h)
theorem claimChunk_ne_zero (h : (wordOf d 0).toNat < (wordOf d 1).toNat) : claimChunk d ≠ 0 := by
  rw [claimChunk_left h]
  omega
/-- A claim that takes something moves NEXT on. -/
theorem claimed_next (h : claimChunk d ≠ 0) : wordOf (claimed d) 0 = wordOf d 0 + wrap (claimChunk d) := by
  rw [claimed, if_neg h, wordOf_setWord_ne _ (by decide) (by decide), wordOf_setWord_self _ (by decide)]
/-- A claim that takes something is counted. -/
theorem claimed_count (h : claimChunk d ≠ 0) : wordOf (claimed d) 5 = wordOf d 5 + 1 := by
  rw [claimed, if_neg h, wordOf_setWord_self _ (by decide)]
/-- What a claim gives: first, count, quotient and remainder. -/
theorem claimResult_words (d : Line) :
    wordOf (claimResult d) 0 = wordOf d 0 ∧ wordOf (claimResult d) 1 = wrap (claimChunk d) ∧
    wordOf (claimResult d) 2 = wrap ((wordOf d 0).toNat / (wordOf d 2).toNat) ∧
    wordOf (claimResult d) 3 = wrap ((wordOf d 0).toNat % (wordOf d 2).toNat) := by
  have hfirst : wrap (wordOf d 0).toNat = wordOf d 0 := BitVec.ofNat_toNat _ _ |>.trans (BitVec.setWidth_eq _)
  simp [claimResult, wordOf_setWord_self, wordOf_setWord_ne, hfirst]

end

@[simp] theorem Slot.getG_dropAhead (k : Slot) (r : GReg) : k.dropAhead.getG r = k.getG r := rfl
/-- The slot after a claim, which acquires (R276). -/
abbrev Slot.claims (k : Slot) (v : Line) : Slot := (k.claimRegs v).dropAhead
/-- g12 to g15 after a claim. -/
theorem Slot.getG_claims (k : Slot) (v : Line) : (k.claims v).getG 12 = wordOf v 0 ∧ (k.claims v).getG 13 = wordOf v 1 ∧
    (k.claims v).getG 14 = wordOf v 2 ∧ (k.claims v).getG 15 = wordOf v 3 := by
  simp [Slot.claimRegs, Slot.getG_setG_ne]
/-- A claim writes no register below g12. -/
theorem Slot.getG_claims_low (k : Slot) (v : Line) {r : GReg} (hr : r.val < 12) : (k.claims v).getG r = k.getG r := by
  have hne : ∀ x : GReg, 12 ≤ x.val → r ≠ x := fun x hx e => by subst e; omega
  rw [Slot.getG_dropAhead, Slot.claimRegs, Slot.getG_setG_ne _ _ (hne 15 (by decide)), Slot.getG_setG_ne _ _ (hne 14 (by decide)),
    Slot.getG_setG_ne _ _ (hne 13 (by decide)), Slot.getG_setG_ne _ _ (hne 12 (by decide))]

/-! ### ITER in the own bank (R299) -/

section
variable {s : State}

/-- The descriptor that stands in the own bank at an offset. -/
abbrev State.ownNest (s : State) (off : Nat) : Line := bytesLine (Mem.readBytes s.mem (Place.sram s.brick off).key 64)
/-- The machine once the current slot has put a claimed descriptor back into its own bank: the sub-bank was used, and the access waits no longer. -/
def State.ownClaimed (s : State) (off : Nat) : State :=
  ((s.poke (kidOf s.me.vd 0) (.sram s.brick off) (lineBytes (claimed (s.ownNest off)))).touch (.sram s.brick off)).unstall s.me.ctx
theorem State.me_ownClaimed (s : State) (off : Nat) : (s.ownClaimed off).me = s.me := State.touch_me _ _
theorem State.mem_ownClaimed (s : State) (off : Nat) :
    (s.ownClaimed off).mem = Mem.writeBytes s.mem (Place.sram s.brick off).key (lineBytes (claimed (s.ownNest off))) := rfl
/-- The claimed descriptor reads back. -/
theorem State.ownNest_ownClaimed (hwf : Memory.wf s.mem = true) (off : Nat) :
    bytesLine (Mem.readBytes (s.ownClaimed off).mem (Place.sram s.brick off).key 64) = claimed (s.ownNest off) := by
  have hback := Mem.readBytes_writeBytes (lineBytes (claimed (s.ownNest off))) (Place.sram s.brick off).key hwf
  rw [lineBytes, leBytes_length] at hback
  rw [State.mem_ownClaimed, lineBytes, hback]
  exact bytesLine_lineBytes _
/-- A claim changes no byte outside its descriptor. -/
theorem State.read_ownClaimed (off : Nat) {a : Nat} (ha : a < (Place.sram s.brick off).key ∨ (Place.sram s.brick off).key + 64 ≤ a) :
    Mem.read (s.ownClaimed off).mem a = Mem.read s.mem a := by
  refine Mem.read_writeBytes_ne _ _ ?_
  rwa [lineBytes, leBytes_length]
/-- A claim of work that is left, on ready bytes of the own bank, puts the claimed descriptor back and answers what it took. -/
theorem State.iterPerform_own {off : Nat} (h : s.ownReady off 64) {q : Request} (hp : q.place = .sram s.brick off) (hw : q.win = 0)
    (hsound : nestSound (s.ownNest off) = true) (hleft : claimChunk (s.ownNest off) ≠ 0) :
    s.iterPerform s.me.vd q =
      ((s.poke (kidOf s.me.vd 0) (.sram s.brick off) (lineBytes (claimed (s.ownNest off)))).touch (.sram s.brick off),
        .done (claimResult (s.ownNest off))) := by
  have hpeek : s.peekLine (.sram s.brick off) 64 = s.ownNest off := rfl
  simp only [State.iterPerform, hp, hw, State.homeFault_own h, hpeek, hsound, if_neg hleft]
  rfl
/-- ITER of a sound descriptor with work left, which no own store or update holds back, claims in its own step. -/
theorem exec_iter_own {b : GReg} {i : BitVec 14} {ea : Word} (hea : eaM s.me b i = ea) (hdrained : s.me.sb = []) (ha : s.answers = [])
    (h : s.ownClear ea 64) (hsound : nestSound (s.ownNest ea.toNat) = true) (hleft : claimChunk (s.ownNest ea.toNat) ≠ 0) :
    exec (.iter b i) s =
      .next ((s.ownClaimed ea.toNat).after (s.me.claims (claimResult (s.ownNest ea.toNat)))) := by
  obtain ⟨haligned, hready, hclear⟩ := h
  have hgo : execIter b i s = s.request (mkReq .iter ea (.sram s.brick ea.toNat) 0 0 0 0) := by
    rw [execIter, hea, State.reach_own hready.1 haligned]
    simp [State.drainedFor, scopeFrom, State.drained, State.behindOwn, State.wordOpen, hdrained, hclear]
  generalize hq : mkReq .iter ea (.sram s.brick ea.toNat) 0 0 0 0 = q at hgo
  have hplace : q.place = .sram s.brick ea.toNat := by rw [← hq]; rfl
  have hwin : q.win = 0 := by rw [← hq]; rfl
  have hkind : q.kind = .iter := by rw [← hq]; rfl
  have hperform : s.perform s.me q = s.iterPerform s.me.vd q := by rw [State.perform, hkind]
  show execIter b i s = _
  rw [hgo, State.request, hplace, State.atHand_own hready, if_pos rfl, State.looking_sound ha, hperform,
    State.iterPerform_own hready hplace hwin hsound hleft]
  refine (State.served_done (s.ownClaimed ea.toNat) q _).trans ?_
  rw [State.me_ownClaimed, hkind]
  rfl

end

/-- Settles O29: ITER claims by `exec_iter_own`, the registers are those of `claimResult_words`, and memory is that of `State.ownClaimed`. -/
theorem iterClaims : Obligations.IterClaims := by
  intro s b i ea p d next rem chunk haligned hready ha hdrained hclear hwf hsound hleft
  have hea : eaM s.me b i = ea := rfl
  have hd : s.ownNest ea.toNat = d := rfl
  clear_value d
  have hchunk : claimChunk d = chunk := claimChunk_left hleft
  have hne : claimChunk d ≠ 0 := claimChunk_ne_zero hleft
  have hexec := exec_iter_own hea hdrained ha ⟨haligned, hready, hclear⟩ (by rwa [hd]) (by rwa [hd])
  have hback : bytesLine (Mem.readBytes (s.ownClaimed ea.toNat).mem p.key 64) = claimed (s.ownNest ea.toNat) :=
    State.ownNest_ownClaimed hwf ea.toNat
  rw [hd] at hexec hback
  obtain ⟨hfirst, hcount, hquotient, hremainder⟩ := claimResult_words d
  obtain ⟨h12, h13, h14, h15⟩ := s.me.getG_claims (claimResult d)
  refine ⟨s.ownClaimed ea.toNat, s.me.claims (claimResult d), hexec, h12.trans hfirst, ?_, h14.trans hquotient,
    h15.trans hremainder, fun r hr => s.me.getG_claims_low _ hr, ?_, ?_, fun a ha => State.read_ownClaimed ea.toNat ha⟩
  · rw [← hchunk]
    exact h13.trans hcount
  · rw [hback, ← hchunk]
    exact claimed_next hne
  · rw [hback]
    exact claimed_count hne

end Sys2Proof.Machine
end

section
/-!
SUPPORT. How SPAWN sends a spawn or is refused, and how a spawn's thread begins in a free slot; ThreadsBegin is assembled from these.
-/
namespace Sys2Proof.Machine

/-! ### Slots and contexts -/

/-- A pair of a map stays when another key is set. -/
theorem KMap.mem_set_of_ne {α : Type} {m : KMap α} {kv : Nat × α} {x : Nat} (v : α) (h : kv ∈ m) (hx : kv.1 ≠ x) : kv ∈ KMap.set m x v := by
  induction m with
  | nil => cases h
  | cons hd tl ih =>
    obtain ⟨k, u⟩ := hd
    unfold KMap.set
    split
    · exact List.mem_cons_of_mem _ h
    · split
      · next _ hk =>
        rcases List.mem_cons.mp h with rfl | htl
        · exact absurd hk.symm hx
        · exact List.mem_cons_of_mem _ htl
      · rcases List.mem_cons.mp h with rfl | htl
        · exact List.mem_cons_self
        · exact List.mem_cons_of_mem _ (ih htl)
/-- A slot of another context stays when a context is changed. -/
theorem State.slotAt_modCtx_ne {s : State} {c key : Nat} (f : Slot → Slot) (h : (s.slotAt key).ctx ≠ c) :
    (s.modCtx c f).slotAt key = s.slotAt key := by
  have hslots : (s.modCtx c f).slots = s.slots.map fun kv => (kv.1, if kv.2.ctx = c ∧ c ≠ 0 then f kv.2 else kv.2) := rfl
  unfold State.slotAt KMap.getD at h ⊢
  rw [hslots, KMap.find?_mapVals s.slots (fun _ k => if k.ctx = c ∧ c ≠ 0 then f k else k)]
  cases hk : KMap.find? s.slots key with
  | none => rfl
  | some k =>
    rw [hk] at h
    exact if_neg fun e => h e.1
/-- The slots that a context occupies are changed with it. -/
theorem State.mem_slots_modCtx {s : State} {c : Nat} {kv : Nat × Slot} (f : Slot → Slot) (h : kv ∈ s.slots) (hctx : kv.2.ctx = c) (hc : c ≠ 0) :
    (kv.1, f kv.2) ∈ (s.modCtx c f).slots :=
  List.mem_map.mpr ⟨kv, h, by simp [hctx, hc]⟩

/-! ### SPAWN (R93, R94, R304) -/

/-- Changing a region changes its live count as the others of its fields. -/
theorem State.region?_modRegion_self (s : State) (vd r : Nat) (f : Region → Region) : (s.modRegion vd r f).region? vd r = (s.region? vd r).map f := by
  unfold State.region? State.modRegion
  rw [State.vd?_modVd, if_pos rfl]
  cases s.vd? vd with
  | none => rfl
  | some v =>
    cases hv : v.tree with
    | none => simp [hv]
    | some t => simp [hv]
/-- A request that goes to no bank and no port parks its slot on the reply, and does nothing else. -/
theorem State.send_host (s : State) {q : Request} {a : Nat} (h : q.place = .host a) :
    s.send q = .next ((s.modSlot s.cur fun k => { k with req := some q }).modSlot s.cur fun k => { k with mode := .parked .reply }) := by
  rw [State.send, h]
  rfl

section
variable {s : State} {d a b : GReg} {r : Region}

/-- The four argument registers of a spawn, from `b` up. -/
def Slot.spawnArgs (k : Slot) (b : GReg) : List Word := [k.getG b, k.getG (GReg.plus b 1), k.getG (GReg.plus b 2), k.getG (GReg.plus b 3)]
/-- The machine once the current slot has sent a spawn into its own region, which counts the thread. -/
def State.spawned (s : State) (target : Word) (args : List Word) : State :=
  let t := { s with nextId := s.nextId + 1 }.modRegion s.me.vd s.me.region fun r => { r with live := r.live + 1 }
  { t with spawnMsgs := t.spawnMsgs ++ [SpawnMsg.mk s.nextId s.me.ctx s.me.vd s.me.region target args] }
/-- SPAWN into the own region of a slot whose stores have landed: refused when the region is full, else sent. -/
theorem execSpawn_own (htarget : badTarget (s.me.getG a) = false) (hsb : s.me.sb = []) (hack : s.me.ackcnt = 0)
    (hown : bit (s.me.getG a) 31 = false) (hr : s.region? s.me.vd s.me.region = some r) :
    exec (.spawn d a b) s = if r.live < r.slots then (s.spawned (s.me.getG a) (s.me.spawnArgs b)).send (mkReq .spawn 0 (.host 0) 0 d.val 0 0)
      else .next (s.after (s.me.dropAhead.setG d 3)) := by
  show execSpawn d a b s = _
  have hdrained : ∀ go, s.drainedAck go = go := fun go => if_neg (by simp [hsb, hack])
  rw [execSpawn, if_neg (by simp [htarget]), hdrained]
  by_cases hroom : r.live < r.slots
  · simp only [hown, hr, hroom, Bool.false_and, Bool.false_eq_true, if_false, if_true, decide_true, Bool.not_true]
    rfl
  · simp only [hown, hr, hroom, Bool.false_and, Bool.false_eq_true, if_false, if_true, decide_false, Bool.not_false]
    rfl

end

/-! ### SPAWN_PLACE (R92, R94, R95) -/

/-- A spawn goes to the lowest free slot of the first brick of its target that has one and where no other waits (R95). -/
theorem State.place_first {s : State} {vd target x n : Nat}
    (hx : ((spawnBricks (nbits target 13 12) (nbits target 10 0)).find? fun x =>
      (s.freeSlot vd x).isSome && decide (KMap.getD s.spawnq (queueKey x vd) [] = [])) = some x)
    (hn : s.freeSlot vd x = some n) (e : SpawnEntry) : s.place vd target e = (0, x, s.startSpawn (8 * x + n) vd e) := by
  simp only [State.place, hx, hn]
/-- The machine without a spawn that has arrived. -/
def State.spawnTaken (s : State) (id : Nat) : State := { s with spawnMsgs := s.spawnMsgs.filter fun x => decide (x.id ≠ id) }

section
variable {s : State} {id x n : Nat} {m : SpawnMsg} {r : Region}

/-- The machine once the thread of a spawn has begun at a slot. -/
def State.threadBegun (s : State) (id key : Nat) (m : SpawnMsg) (r : Region) : State :=
  (s.spawnTaken id).startSpawn key m.vd ⟨m.region, m.args, r.entry⟩
theorem State.threadBegun_eq (hr : s.region? m.vd m.region = some r) (id key : Nat) : s.threadBegun id key m r =
    { s.spawnTaken id with nextId := s.nextId + 1 }.setSlot key (newThread s.nextId m.vd m.region r.space r.entry m.args) := by
  have hregion : ({ s.spawnTaken id with nextId := (s.spawnTaken id).nextId + 1 } : State).region? m.vd m.region = some r := hr
  simp only [State.threadBegun, State.startSpawn, State.fresh, hregion]
  rfl
/-- SPAWN_PLACE with a free slot that its target names: the thread begins there, and its spawner is answered with status 0 and the brick. -/
theorem execSpawnPlace_begins (hm : (s.spawnMsgs.find? fun m => decide (m.id = id)) = some m) (hr : s.region? m.vd m.region = some r)
    (hx : ((spawnBricks (nbits m.target.toNat 13 12) (nbits m.target.toNat 10 0)).find? fun x =>
      (s.freeSlot m.vd x).isSome && decide (KMap.getD s.spawnq (queueKey x m.vd) [] = [])) = some x)
    (hn : s.freeSlot m.vd x = some n) : exec (.spawnPlace id) s =
      .next ((s.threadBegun id (8 * x + n) m r).modCtx m.ctx fun k => k.setStage (.done (lineOf (BitVec.ofNat 64 (x * 2 ^ 16))))) := by
  have hregion : (s.spawnTaken id).region? m.vd m.region = some r := hr
  have hplace := State.place_first (s := s.spawnTaken id) hx hn ⟨m.region, m.args, r.entry⟩
  show execSpawnPlace id s = _
  unfold State.spawnTaken at hregion hplace
  simp only [execSpawnPlace, hm, hregion, hplace, Nat.zero_add]
  rfl

end

/-- Settles O33: SPAWN is `execSpawn_own`, and a spawn's thread begins by `execSpawnPlace_begins` in the slot of `State.threadBegun_eq`. -/
theorem threadsBegin : Obligations.ThreadsBegin := by
  refine ⟨fun s d a b r htarget hsb hack hown hr => ⟨fun hroom => ?_, fun hfull => ?_⟩, ?_⟩
  · have hexec := execSpawn_own (d := d) (b := b) htarget hsb hack hown hr
    rw [if_pos hroom, State.send_host _ rfl] at hexec
    refine ⟨_, hexec, ?_, ?_, rfl, rfl, ?_⟩
    · simp [State.me, State.spawned]
    · simp only [State.me, State.modSlot_cur, State.slotAt_modSlot_self]
      rfl
    · have hlive := State.region?_modRegion_self { s with nextId := s.nextId + 1 } s.me.vd s.me.region fun r => { r with live := r.live + 1 }
      rw [show ({ s with nextId := s.nextId + 1 } : State).region? s.me.vd s.me.region = some r from hr] at hlive
      exact congrArg (Option.map (·.live)) hlive
  · rw [execSpawn_own htarget hsb hack hown hr, if_neg (Nat.not_lt.mpr hfull)]
  · intro s id m r x n hm hr hx hn hctx
    have hslot : (s.threadBegun id (8 * x + n) m r).slotAt (8 * x + n) = newThread s.nextId m.vd m.region r.space r.entry m.args := by
      rw [State.threadBegun_eq hr, State.slotAt_setSlot_self]
    have hother : ((s.threadBegun id (8 * x + n) m r).slotAt (8 * x + n)).ctx ≠ m.ctx := by
      rw [hslot]
      exact hctx.symm
    refine ⟨_, execSpawnPlace_begins hm hr hx hn, ?_⟩
    rw [State.slotAt_modCtx_ne _ hother, hslot]
    refine ⟨rfl, rfl, rfl, rfl, rfl, rfl, rfl, rfl, rfl, fun kv hkv hkey hspawner h0 => State.mem_slots_modCtx _ ?_ hspawner h0, ?_⟩
    · rw [State.threadBegun_eq hr]
      exact KMap.mem_set_of_ne _ hkv hkey
    · show (s.threadBegun id (8 * x + n) m r).mem = s.mem
      rw [State.threadBegun_eq hr]
      rfl

end Sys2Proof.Machine
end

section
/-!
SUPPORT. The order of R103 and the entry that a free kiln is granted to, and what bringing in its pallets leaves; AgingAndGrants is assembled from these.
-/
namespace Sys2Proof.Machine

/-! ### Aging (R104) -/

/-- An entry that has been eligible for YAGE resident cycles, and has not aged, does so now. -/
theorem State.agesNow_due {s : State} {u : Nat} {e : Entry} (hsince : e.since = some u) (haged : e.aged = none)
    (hresident : s.residentVd e.vd = true) (heligible : s.eligible e = true) (hdue : u + s.yageOf e.vd ≤ s.residentTime e.vd) :
    s.agesNow (e.brick / 512) e = true ∧ s.agedAt e = some (u + s.yageOf e.vd) := by
  simp [State.agesNow, State.agedAt, hsince, haged, hresident, heligible, hdue]
/-- An entry that waits, with no work of it running or landing, is eligible behind granted entries of its lane alone. -/
theorem State.eligible_of_idle {s : State} {e : Entry} (hstage : e.stage = .waiting) (hruns : e.runs = []) (hlands : e.lands = [])
    (hlane : s.laneReady e = true) : s.eligible e = true := by
  simp [State.eligible, hstage, hruns, hlands, hlane]

/-! ### The order of R103 -/

/-- On keys of one length the order of R103 is the lexicographic order of the library. -/
theorem lexLess_iff : ∀ {a b : List Nat}, a.length = b.length → (lexLess a b = true ↔ a < b)
  | [], [], _ => by simp [lexLess]
  | x :: a, y :: b, h => by
    have hlen : a.length = b.length := Nat.succ.inj h
    rw [List.cons_lt_cons_iff, ← lexLess_iff hlen]
    simp [lexLess]
theorem State.grantKey_length (s : State) (e : Entry) : (s.grantKey e).length = 6 := by
  unfold State.grantKey
  cases s.agedAt e <;> rfl
/-- An entry does not precede another exactly when its key is not the less. -/
theorem State.notBefore_iff (s : State) (x e : Entry) : lexLess (s.grantKey x) (s.grantKey e) = false ↔ s.grantKey e ≤ s.grantKey x := by
  rw [← not_lt, ← lexLess_iff ((s.grantKey_length x).trans (s.grantKey_length e).symm), Bool.not_eq_true]
/-- The earlier of the best entry so far and another. -/
def State.earlier (s : State) (best : Option Entry) (e : Entry) : Option Entry :=
  match best with
  | some b => if lexLess (s.grantKey e) (s.grantKey b) then some e else some b
  | none => some e
/-- What stands after a comparison is no later than either. -/
theorem State.earlier_spec (s : State) (best : Option Entry) (x : Entry) : ∃ y, s.earlier best x = some y ∧ s.grantKey y ≤ s.grantKey x ∧
    ∀ b, best = some b → s.grantKey y ≤ s.grantKey b := by
  cases best with
  | none => exact ⟨x, rfl, le_refl _, fun b hb => by cases hb⟩
  | some b =>
    cases hless : lexLess (s.grantKey x) (s.grantKey b) with
    | true =>
      have hlt := (lexLess_iff ((s.grantKey_length x).trans (s.grantKey_length b).symm)).mp hless
      refine ⟨x, if_pos hless, le_refl _, fun c hc => ?_⟩
      cases hc
      exact le_of_lt hlt
    | false =>
      refine ⟨b, if_neg (by simp [hless]), (s.notBefore_iff x b).mp hless, fun c hc => ?_⟩
      cases hc
      exact le_refl _
/-- The first of some entries in the order of R103 is no later than any of them. -/
theorem State.foldl_earlier (s : State) (l : List Entry) : ∀ {best : Option Entry} {e : Entry}, l.foldl s.earlier best = some e →
    (∀ x ∈ l, s.grantKey e ≤ s.grantKey x) ∧ ∀ b, best = some b → s.grantKey e ≤ s.grantKey b := by
  induction l with
  | nil =>
    intro best e h
    refine ⟨fun x hx => (List.not_mem_nil hx).elim, fun b hb => ?_⟩
    cases hb.symm.trans h
    exact le_refl _
  | cons x rest ih =>
    intro best e h
    obtain ⟨y, hy, hyx, hybest⟩ := s.earlier_spec best x
    obtain ⟨hrest, hstart⟩ := ih h
    have hey := hstart y hy
    refine ⟨fun z hz => ?_, fun b hb => hey.trans (hybest b hb)⟩
    rcases List.mem_cons.mp hz with rfl | hz
    · exact hey.trans hyx
    · exact hrest z hz
theorem State.chosen_eq (s : State) (vd kn : Nat) : s.chosen vd kn = (s.entries.filter fun e =>
    decide (e.vd = vd ∧ e.brick / 512 = kn / 32) && s.eligible e && decide (e.boundKiln = none ∨ e.boundKiln = some kn)
      && !(s.leaseTaken e)).foldl s.earlier none := rfl
/-- The entry that a kiln is granted to is one that no other precedes, of those of its device and die that fit the kiln and do not wait for another's values (R103). -/
theorem State.chosen_first {s : State} {vd kn : Nat} {e x : Entry} (h : s.chosen vd kn = some e) (hx : x ∈ s.entries) (hvd : x.vd = vd)
    (hdie : x.brick / 512 = kn / 32) (heligible : s.eligible x = true) (hbound : x.boundKiln = none ∨ x.boundKiln = some kn)
    (hfree : s.leaseTaken x = false) : lexLess (s.grantKey x) (s.grantKey e) = false := by
  rw [State.chosen_eq] at h
  refine (s.notBefore_iff x e).mpr ((s.foldl_earlier _ h).1 x (List.mem_filter.mpr ⟨hx, ?_⟩))
  simp [hvd, hdie, heligible, hbound, hfree]

/-! ### What bringing in pallets leaves of a kiln (R204, R205) -/

/-- What an access of a save region leaves alone: the kilns, and what the media are still to answer. -/
def State.kilnView (s : State) : KMap Kiln × List Media := (s.kilns, s.answers)
/-- A kiln served a device last, and no answer of the media is laid down. -/
def State.ServedLast (s : State) (kn vd : Nat) : Prop := (s.kiln kn).lastVd = some vd ∧ s.answers = []

theorem State.uncover_kilnView (s : State) (kid pa : Nat) : (s.uncover kid pa).kilnView = s.kilnView := by
  simp only [State.uncover]
  split <;> split <;> rfl
theorem State.count_kilnView (s : State) (pa : Nat) : (s.count pa).kilnView = s.kilnView := by
  simp only [State.count]
  split <;> rfl
theorem State.openGranule_kilnView (s : State) (kid g : Nat) : (s.openGranule kid g).kilnView = s.kilnView := by
  unfold State.openGranule
  split
  · rw [State.count_kilnView, State.uncover_kilnView]
  · rfl
theorem State.poke_hbm_kilnView (s : State) (kid pa : Nat) (bs : List Byte) : (s.poke kid (.hbm pa) bs).kilnView = s.kilnView :=
  foldl_view State.kilnView (fun s g => s.openGranule_kilnView kid g) _ s
theorem State.wake_kilnView (s : State) (p : Place) : (s.wake p).kilnView = s.kilnView := by
  cases p <;> simp only [State.wake]
  all_goals split <;> rfl
theorem State.linesWait_kilnView (s : State) (token : Nat) (gs : List Nat) : (s.linesWait token gs).kilnView = s.kilnView := by
  have hwakes := foldl_view State.kilnView (fun s g => State.wake_kilnView s (.hbm g)) gs s
  simp only [State.linesWait]
  split
  · exact hwakes
  · exact hwakes

section
variable {s : State} {kn vd : Nat}

theorem State.ServedLast.of_view {t : State} (h : s.ServedLast kn vd) (hv : t.kilnView = s.kilnView) : t.ServedLast kn vd := by
  obtain ⟨hlast, ha⟩ := h
  obtain ⟨hkilns, hanswers⟩ := Prod.mk.inj hv
  exact ⟨by rw [State.kiln, hkilns]; exact hlast, hanswers.trans ha⟩
/-- A change of a kiln that leaves the device which it last served. -/
theorem State.ServedLast.modKiln (h : s.ServedLast kn vd) (j : Nat) {f : Kiln → Kiln} (hf : ∀ k, (f k).lastVd = k.lastVd) :
    (s.modKiln j f).ServedLast kn vd := by
  obtain ⟨hlast, ha⟩ := h
  refine ⟨?_, ha⟩
  by_cases hj : kn = j
  · subst hj
    rw [State.kiln_modKiln_self, hf, hlast]
  · rw [State.kiln_modKiln_ne s f hj, hlast]
theorem State.ServedLast.saveLine (h : s.ServedLast kn vd) (d a : Nat) (bs : List Byte) : (s.saveLine d a bs).ServedLast kn vd := by
  have htouch : (s.touch (.hbm a)).ServedLast kn vd := h.of_view rfl
  simp only [State.saveLine, State.look_sound htouch.2]
  split
  · exact htouch
  · exact htouch.of_view (State.poke_hbm_kilnView _ _ _ _)
theorem State.ServedLast.saveBytes (d n : Nat) : ∀ {s : State} (a : Nat) (bs : List Byte), s.ServedLast kn vd →
    (s.saveBytes d a n bs).ServedLast kn vd := by
  induction n with
  | zero => exact fun _ _ h => h
  | succ n ih => exact fun a bs h => ih (a + 64) (bs.drop 64) (h.saveLine d a (bs.take 64))
theorem State.ServedLast.loadLine (h : s.ServedLast kn vd) (d a : Nat) : (s.loadLine d a).2.ServedLast kn vd := by
  have htouch : (s.touch (.hbm a)).ServedLast kn vd := h.of_view rfl
  simp only [State.loadLine, State.look_sound htouch.2]
  split
  · exact htouch.of_view rfl
  · exact htouch
theorem State.ServedLast.loadBytes (d n : Nat) : ∀ {s : State} (a : Nat), s.ServedLast kn vd → (s.loadBytes d a n).2.ServedLast kn vd := by
  induction n with
  | zero => exact fun _ h => h
  | succ n ih => exact fun a h => ih (a + 64) (h.loadLine d a)
theorem State.ServedLast.loadRows (d a : Nat) (rows : List Nat) : ∀ {s : State}, s.ServedLast kn vd → (s.loadRows d a rows).2.ServedLast kn vd := by
  induction rows with
  | nil => exact fun h => h
  | cons r rest ih =>
    intro s h
    have hrow := State.ServedLast.loadBytes d 8 (a + 512 * r) h
    simp only [State.loadRows]
    exact ih hrow
theorem State.ServedLast.loadPallet (h : s.ServedLast kn vd) (d a : Nat) : (s.loadPallet d a).2.ServedLast kn vd := by
  have hline := h.loadLine d (a + tailOffset)
  unfold State.loadPallet
  simp only
  exact State.ServedLast.loadRows d a _ hline
theorem State.ServedLast.setSaved (h : s.ServedLast kn vd) (j : Nat) (p : PalletHolder) (b : Bool) : (s.setSaved j p b).ServedLast kn vd := by
  cases p with
  | lease n => exact h.modKiln j fun _ => rfl
  | temp e => exact h.of_view rfl
  | parked e => exact h.of_view rfl
theorem State.ServedLast.savePallet (h : s.ServedLast kn vd) (j : Nat) (p : Pallet) : (s.savePallet j p).ServedLast kn vd := by
  unfold State.savePallet
  simp only
  apply State.ServedLast.setSaved
  apply State.ServedLast.saveBytes
  refine List.foldlRecOn (motive := fun u : State => u.ServedLast kn vd) _ _ h ?_
  exact fun u hu r _ => State.ServedLast.saveBytes p.vd 8 _ _ hu
/-- Saving a kiln's pallet and freeing it. -/
theorem State.ServedLast.evict (h : s.ServedLast kn vd) (j : Nat) (p : Pallet) : (s.evict j p).ServedLast kn vd :=
  (h.savePallet j p).modKiln j fun _ => rfl
theorem State.ServedLast.usePallet (h : s.ServedLast kn vd) (j : Nat) (p : PalletHolder) : (s.usePallet j p).ServedLast kn vd :=
  State.ServedLast.modKiln (s := s.fresh.2) (h.of_view rfl) j fun _ => rfl
/-- Bringing a holder's pallet into a kiln. -/
theorem State.ServedLast.holdPallet (h : s.ServedLast kn vd) (token j d : Nat) (p : PalletHolder) (pins : List PalletHolder) :
    (s.holdPallet token j d p pins).1.ServedLast kn vd := by
  unfold State.holdPallet
  split
  · exact h.usePallet j p
  · split
    · exact h
    · next v _ =>
      have hfree : (s.unstall token).ServedLast kn vd := h.of_view rfl
      simp only
      split
      · exact h.of_view (State.linesWait_kilnView s token _)
      · apply State.ServedLast.usePallet
        apply State.ServedLast.setSaved
        refine State.ServedLast.modKiln ?_ j fun _ => rfl
        cases v with
        | none =>
          simp only
          split
          · exact hfree.loadPallet d _
          · exact hfree
        | some old =>
          have hout := hfree.evict j old
          simp only
          split
          · exact hout.loadPallet d _
          · exact hout
/-- Bringing in the pallets of an entry. -/
theorem State.ServedLast.takePallets (h : s.ServedLast kn vd) (j : Nat) (e : Entry) : (s.takePallets j e).1.ServedLast kn vd := by
  unfold State.takePallets
  refine List.foldlRecOn (motive := fun a : State × Nat => a.1.ServedLast kn vd) _ _ h ?_
  exact fun a ha p _ => State.ServedLast.holdPallet ha _ j e.vd p e.holders
/-- Taking an entry's temporary pallet out of other kilns. -/
theorem State.ServedLast.gatherTemp (h : s.ServedLast kn vd) (id j : Nat) : (s.gatherTemp id j).1.ServedLast kn vd := by
  simp only [State.gatherTemp]
  split
  · refine List.foldlRecOn (motive := fun u : State => u.ServedLast kn vd) _ _ (h.of_view rfl) ?_
    exact fun u hu x _ => hu.evict x.1 x.2
  · exact h.of_view (State.linesWait_kilnView s _ _)
/-- A kiln that is made ready for a device serves it last (R193). -/
theorem State.servedLast_passKiln (ha : s.answers = []) (kn vd : Nat) : (s.passKiln kn vd).ServedLast kn vd := by
  unfold State.passKiln
  split
  · next hlast => exact ⟨hlast, ha⟩
  · exact ⟨by rw [State.kiln_modKiln_self], ha⟩
/-- When the pallets of an entry are all brought in, they stand in the kiln, which serves the entry's device. -/
theorem State.bringPallets_some {e : Entry} {r : State} {moves : Nat} (ha : s.answers = []) (h : s.bringPallets kn vd e = (r, some moves)) :
    e.holders.all (r.hasPallet kn) = true ∧ r.ServedLast kn vd := by
  have hgathered := (State.servedLast_passKiln ha kn vd).gatherTemp e.id kn
  unfold State.bringPallets at h
  generalize (s.passKiln kn vd).gatherTemp e.id kn = g at h hgathered
  obtain ⟨u, gathered⟩ := g
  cases gathered with
  | false => cases h
  | true =>
    obtain ⟨hr, hmoves⟩ := Prod.mk.inj h
    subst hr
    refine ⟨?_, State.ServedLast.takePallets hgathered kn e⟩
    by_contra hmissing
    rw [if_neg hmissing] at hmoves
    cases hmoves

end

/-! ### The grant (R103) -/

/-- A kiln that runs the entry granted to it; a parked pallet of the entry is its temporary one again (R212). -/
def Kiln.granted (k : Kiln) (id : Nat) : Kiln :=
  { k with running := some id, pallets := k.pallets.map fun p => if p.holder = .parked id then { p with holder := .temp id } else p }

section
variable (s : State) (kn moves : Nat) (e : Entry)

theorem State.grantTo_kiln : (s.grantTo kn moves e).kiln kn = (s.kiln kn).granted e.id :=
  State.kiln_modKiln_self (s.stampGrant e).choose.2 kn fun k => k.granted e.id
/-- A grant is the latest of its master and of its lane. -/
theorem State.grantTo_stamps : (s.grantTo kn moves e).stamps e = (s.nextId, s.nextId) := by
  have hgrants : (s.grantTo kn moves e).grants =
    KMap.set s.grants e.master ⟨s.nextId, KMap.set (KMap.getD s.grants e.master ⟨0, []⟩).lanes e.lane s.nextId⟩ := rfl
  simp [State.stamps, hgrants]
/-- The granted entry has its kiln. -/
theorem State.grantTo_entries {x : Entry} (hx : x ∈ (s.grantTo kn moves e).entries) (hid : x.id = e.id) : x.stage = .granted ∧ x.kiln = some kn := by
  obtain ⟨y, hy, hxy⟩ := List.mem_map.mp hx
  obtain ⟨z, -, hzy⟩ := List.mem_map.mp hy
  have hsame : x.id = y.id ∧ x.stage = y.stage ∧ x.kiln = y.kiln := by
    rw [← hxy]
    split <;> exact ⟨rfl, rfl, rfl⟩
  obtain ⟨hxid, hxstage, hxkiln⟩ := hsame
  rw [hxstage, hxkiln]
  by_cases hz : z.id = e.id
  · rw [← hzy, if_pos hz]
    exact ⟨rfl, rfl⟩
  · rw [if_neg hz] at hzy
    exact absurd (by rw [hzy, ← hxid, hid]) hz

end

/-- GRANT of a free kiln to the entry that the order of R103 gives, with its pallets brought in. -/
theorem execGrant_grants {s r : State} {die k vd moves : Nat} {e : Entry} (howner : s.kilnOwner (32 * die + k % 32) = some vd)
    (hfree : s.kilnFree (32 * die + k % 32) = true) (hchosen : s.chosen vd (32 * die + k % 32) = some e)
    (hbring : s.bringPallets (32 * die + k % 32) vd e = (r, some moves)) :
    exec (.grant die k) s = .next (r.grantTo (32 * die + k % 32) moves e) := by
  show execGrant die k s = _
  simp [execGrant, howner, hfree, hchosen, hbring]

/-- Settles O45: aging is `State.agesNow_due`, the granted entry is first by `State.chosen_first`, and the grant is `State.grantTo` after `State.bringPallets_some`. -/
theorem agingAndGrants : Obligations.AgingAndGrants := by
  refine ⟨?_, ?_⟩
  · rintro s die u e he rfl hsince haged hstage hruns hlands hlane hresident hdue
    obtain ⟨hages, hat⟩ := State.agesNow_due hsince haged hresident (State.eligible_of_idle hstage hruns hlands hlane) hdue
    refine ⟨_, rfl, List.mem_map.mpr ⟨e, he, ?_⟩, rfl, rfl⟩
    rw [if_pos hages, hat]
  · intro s r die k vd moves e kn howner hfree hchosen ha hbring
    obtain ⟨hholders, hlast, -⟩ := State.bringPallets_some ha hbring
    have hkiln := r.grantTo_kiln kn moves e
    have hdie : kn / 32 = die := by omega
    refine ⟨hholders, fun x hx hvd hxdie heligible hbound hunleased => ?_, r.grantTo kn moves e,
      execGrant_grants howner hfree hchosen hbring, ?_, ?_, rfl, rfl, r.grantTo_stamps kn moves e,
      fun x hx hid => State.grantTo_entries r kn moves e hx hid⟩
    · exact State.chosen_first hchosen hx hvd (hxdie.trans hdie.symm) heligible hbound hunleased
    · rw [hkiln]
      rfl
    · rw [hkiln]
      exact hlast

end Sys2Proof.Machine
end


section
/-!
SUPPORT. What setting or clearing one ALLOC bit makes of its sub-bank, and when CWR BANKMAP is refused; BankmapAllocation is assembled from these.
-/
namespace Sys2Proof.Machine

/-! ### One ALLOC bit (R135, Table 5.7) -/

/-- Every byte of a sub-bank that has been zeroed reads zero. -/
theorem State.read_blankSub (s : State) (b sb : Nat) {o : Nat} (ho : o < 2 ^ 16) :
    Mem.read (s.blankSub b sb).mem (bankAddr b (sb * 2 ^ 16) + o) = Mem.blank :=
  Mem.read_blankRange_in s.mem ⟨Nat.le_add_right _ _, Nat.add_lt_add_left ho _⟩
/-- Zeroing a sub-bank leaves its power and its allocation. -/
theorem State.subBank_blankSub (s : State) (b sb : Nat) : (s.blankSub b sb).subBank b sb = s.subBank b sb := rfl

section
variable {s : State} {vd b sb : Nat} {v : Word}

/-- A bit of a held sub-bank that stays changes nothing. -/
theorem State.setAlloc_same (h : (s.subBank b sb).alloc = bit v sb) : s.setAlloc vd b v sb = s := by
  simp only [State.setAlloc, h, decide_true, Bool.or_true, if_true]

variable (hheld : s.holdsSub vd sb = true)
include hheld
/-- A bit that is cleared turns the sub-bank off, unless accesses that it has accepted are still to complete. -/
theorem State.setAlloc_cleared (hwas : (s.subBank b sb).alloc = true) (hbit : bit v sb = false) :
    s.setAlloc vd b v sb =
      if s.acceptedIn b sb then s.modSub b sb fun x => { x with alloc := false } else s.turnOff b sb := by
  simp [State.setAlloc, hheld, hwas, hbit]
/-- A bit that is set powers the sub-bank up with zeros, unless it is still closing. -/
theorem State.setAlloc_set (hwas : (s.subBank b sb).alloc = false) (hbit : bit v sb = true) :
    s.setAlloc vd b v sb =
      if s.closing (.sram b (sb * 2 ^ 16)) then s.modSub b sb fun x => { x with alloc := true }
      else (s.blankSub b sb).modSub b sb fun x =>
        { x with alloc := true, power := if x.power = .unavailable then .unavailable else .poweringUp } := by
  simp [State.setAlloc, hheld, hwas, hbit]

end

/-! ### CWR BANKMAP (R135) -/

/-- Setting or clearing ALLOC bits leaves the slot whose turn it is. -/
theorem State.me_setAlloc (s : State) (vd b : Nat) (v : Word) (sb : Nat) : (s.setAlloc vd b v sb).me = s.me := by
  unfold State.setAlloc
  simp only
  split
  · rfl
  · split
    · split <;> rfl
    · split <;> rfl
/-- May CWR BANKMAP not write its value to a bit: one set for a sub-bank that is not held, or cleared for an allocated one that is in use? -/
def State.badBankBit (s : State) (v : Word) (sb : Nat) : Bool :=
  if bit v sb then !(s.holdsSub s.me.vd sb)
  else s.holdsSub s.me.vd sb && (s.subBank s.brick sb).alloc
    && (s.queueIn s.brick sb || s.lockedIn s.brick sb || s.prefIn s.me.vd s.brick sb)
theorem State.badBankBit_iff (s : State) (v : Word) (sb : Nat) : s.badBankBit v sb = true ↔
    if bit v sb then s.holdsSub s.me.vd sb = false
    else s.holdsSub s.me.vd sb = true ∧ (s.subBank s.brick sb).alloc = true ∧
      (s.queueIn s.brick sb = true ∨ s.lockedIn s.brick sb = true ∨ s.prefIn s.me.vd s.brick sb = true) := by
  unfold State.badBankBit
  split
  · rw [Bool.not_eq_true']
  · simp only [Bool.and_eq_true, Bool.or_eq_true, and_assoc, or_assoc]

section
variable {s : State} {g : GReg} (hlevel : s.me.level = .handler)
include hlevel
/-- CWR BANKMAP with no bad bit writes every bit and completes. -/
theorem exec_cwrBankmap_sound (h : (List.range 16).any (s.badBankBit (s.me.getG g)) = false) : exec (.cwrBankmap g) s =
    .next (((List.range 16).foldl (fun u sb => u.setAlloc s.me.vd s.brick (s.me.getG g) sb) s).after s.me) := by
  have hme : ((List.range 16).foldl (fun u sb => u.setAlloc s.me.vd s.brick (s.me.getG g) sb) s).me = s.me :=
    foldl_view State.me (fun u sb => u.me_setAlloc s.me.vd s.brick (s.me.getG g) sb) _ _
  show execCwrBankmap g s = _
  unfold State.badBankBit at h
  rw [execCwrBankmap, if_neg (by simp [hlevel]), if_neg (by simp [h])]
  simp only [State.retire, State.after, hme, id]
/-- CWR BANKMAP with a bad bit traps, XVAL the value. -/
theorem exec_cwrBankmap_refused (h : (List.range 16).any (s.badBankBit (s.me.getG g)) = true) : exec (.cwrBankmap g) s =
    .next (s.trapAt s.cur .illegalOperand (s.me.getG g)) := by
  show execCwrBankmap g s = _
  unfold State.badBankBit at h
  rw [execCwrBankmap, if_neg (by simp [hlevel]), if_pos h]
  rfl

end

/-- Settles O39: a bit that changes is `State.setAlloc_cleared` or `State.setAlloc_set`, and CWR BANKMAP is refused for a `State.badBankBit` and for nothing else. -/
theorem bankmapAllocation : Obligations.BankmapAllocation := by
  refine ⟨fun s vd b sb v x hheld hx hpower _ => ⟨?_, ?_, ?_, ?_, ?_⟩, fun s g hlevel => ⟨fun hgood => ?_, fun hbad => ?_⟩⟩
  · intro hwas hbit hnone
    subst hx
    rw [State.setAlloc_cleared hheld hwas hbit, hnone, if_neg Bool.false_ne_true, State.turnOff, State.subBank_modSub_self,
      State.subBank_blankSub]
    exact ⟨rfl, if_neg hpower, fun o ho => s.read_blankSub b sb ho⟩
  · intro hwas hbit hsome
    subst hx
    rw [State.setAlloc_cleared hheld hwas hbit, if_pos hsome]
    exact ⟨State.subBank_modSub_self s b sb _, rfl⟩
  · intro hwas hbit hopen
    subst hx
    rw [State.setAlloc_set hheld hwas hbit, hopen, if_neg Bool.false_ne_true, State.subBank_modSub_self, State.subBank_blankSub]
    exact ⟨rfl, if_neg hpower, fun o ho => s.read_blankSub b sb ho⟩
  · intro hwas hbit hclosing
    subst hx
    rw [State.setAlloc_set hheld hwas hbit, if_pos hclosing]
    exact ⟨State.subBank_modSub_self s b sb _, rfl⟩
  · intro hsame
    exact State.setAlloc_same (by rw [hx, hsame])
  · refine exec_cwrBankmap_sound hlevel (List.any_eq_false.mpr fun sb hsb hbad => ?_)
    exact hgood sb (List.mem_range.mp hsb) ((s.badBankBit_iff _ sb).mp hbad)
  · obtain ⟨sb, hsb, hbit⟩ := hbad
    exact exec_cwrBankmap_refused hlevel
      (List.any_eq_true.mpr ⟨sb, List.mem_range.mpr hsb, (s.badBankBit_iff _ sb).mpr hbit⟩)

end Sys2Proof.Machine
end

section
/-!
SUPPORT. What Nerem's table writes put into the firmware reserve, the fields that an invalidation of Nerem's names, and what a completed invalidation leaves in the quoins' caches; TablesAndInvalidations is assembled from these.
-/
namespace Sys2Proof.Machine

/-! ### Table writes (R126) -/

section
variable {s : State} {w : TableWrite}

/-- A write of one entry in the reserve lays its eight bytes down. -/
theorem State.tableWrites_one (h : inReserve w.pa = true) :
    s.tableWrites [w] = { s with mem := Mem.writeBytes s.mem w.pa (leBytes 8 w.entry.toNat) } := if_pos h
/-- A write of one entry outside the reserve is not made. -/
theorem State.tableWrites_outside (h : inReserve w.pa = false) : s.tableWrites [w] = s := if_neg (by simp [h])
/-- Writes that keep the layouts are made. -/
theorem State.writeTables_kept {ws : List TableWrite} (h : (s.tableWrites ws).layoutSound = true) : s.writeTables ws = s.tableWrites ws := if_pos h
/-- Writes that would break a layout are not made. -/
theorem State.writeTables_broken {ws : List TableWrite} (h : (s.tableWrites ws).layoutSound = false) : s.writeTables ws = s := if_neg (by simp [h])
theorem State.writeTables_outside (h : inReserve w.pa = false) : s.writeTables [w] = s := by
  simp only [State.writeTables, State.tableWrites_outside h, ite_self]

end

/-! ### The fields of a value (Table 5.6) -/

/-- A bit of a field. -/
theorem testBit_bits (v : Word) (hi lo i : Nat) : (bits v hi lo).testBit i = (decide (i < hi + 1 - lo) && v.getLsbD (lo + i)) := by
  simp only [bits, Nat.testBit_mod_two_pow, Nat.testBit_div_two_pow, BitVec.getLsbD, Nat.add_comm]
/-- Values that agree on the bits of a field agree on the field. -/
theorem bits_congr {x v : Word} {hi lo : Nat} (h : ∀ j, lo ≤ j → j ≤ hi → x.getLsbD j = v.getLsbD j) : bits x hi lo = bits v hi lo := by
  apply Nat.eq_of_testBit_eq
  intro i
  rw [testBit_bits, testBit_bits]
  by_cases hi' : i < hi + 1 - lo
  · rw [h (lo + i) (by omega) (by omega)]
  · simp [hi']
/-- A field without a bit set is zero. -/
theorem bits_eq_zero {x : Word} {hi lo : Nat} (h : ∀ j, lo ≤ j → j ≤ hi → x.getLsbD j = false) : bits x hi lo = 0 := by
  have hzero : bits 0 hi lo = 0 := by simp [bits]
  rw [← hzero]
  exact bits_congr fun j hlo hhi => by simp [h j hlo hhi]
/-- The reserved bits of a value of SINV. -/
theorem sinvMask_bits : ∀ j : Fin 64, (wrap (field 51 48 + field 11 2)).getLsbD j = (decide (48 ≤ j.val ∧ j.val ≤ 51) || decide (2 ≤ j.val ∧ j.val ≤ 11)) := by
  decide
/-- The reserved bits are discarded, and the others stay. -/
theorem getLsbD_sinvFields (v : Word) {j : Nat} (hj : j < 64) :
    (sinvFields v).getLsbD j = (v.getLsbD j && !(decide (48 ≤ j ∧ j ≤ 51) || decide (2 ≤ j ∧ j ≤ 11))) := by
  rw [sinvFields, BitVec.getLsbD_and, BitVec.getLsbD_not, sinvMask_bits ⟨j, hj⟩, decide_eq_true hj, Bool.true_and]
theorem bits_sinvFields_kept (v : Word) {hi lo : Nat} (hhi : hi < 64) (hkept : ∀ j, lo ≤ j → j ≤ hi → ¬ ((48 ≤ j ∧ j ≤ 51) ∨ (2 ≤ j ∧ j ≤ 11))) :
    bits (sinvFields v) hi lo = bits v hi lo := by
  refine bits_congr fun j hlo hj => ?_
  have hnot := hkept j hlo hj
  rw [getLsbD_sinvFields v (by omega), ← Bool.decide_or, decide_eq_false hnot, Bool.not_false, Bool.and_true]
theorem bits_sinvFields_reserved (v : Word) {hi lo : Nat} (hhi : hi < 64) (hres : ∀ j, lo ≤ j → j ≤ hi → (48 ≤ j ∧ j ≤ 51) ∨ (2 ≤ j ∧ j ≤ 11)) :
    bits (sinvFields v) hi lo = 0 := by
  refine bits_eq_zero fun j hlo hj => ?_
  have hin := hres j hlo hj
  rw [getLsbD_sinvFields v (by omega), ← Bool.decide_or, decide_eq_true hin, Bool.not_true, Bool.and_false]

/-! ### Invalidations (R130, R131, R230) -/

/-- HYP_INVALIDATE while Nerem serves: its tables are written, and the invalidation sets out. -/
theorem exec_hypInvalidate {s : State} (h : s.neremRuns = true) (vd : Nat) (v : HypInval) : exec (.hypInvalidate vd v) s =
    .next { (s.writeTables v.writes).fresh.2 with
      invals := (s.writeTables v.writes).invals ++ [⟨(s.writeTables v.writes).nextId, none, vd, sinvFields v.value⟩] } := if_pos h
/-- A quoin's cache keeps what the named range has not produced. -/
theorem State.getD_discard (s : State) (i : Inval) (q : Nat) : KMap.getD (s.discard i).tlb q [] =
    (KMap.getD s.tlb q []).filter fun e => !(decide (e.vd = i.vd) && i.meets e.space e.va e.sh) := by
  unfold KMap.getD State.discard
  rw [KMap.find?_mapVals s.tlb (fun _ es => es.filter fun e => !(decide (e.vd = i.vd) && i.meets e.space e.va e.sh))]
  cases KMap.find? s.tlb q <;> rfl
/-- A translation that is still cached was cached before, and the named range has not produced it. -/
theorem State.mem_discard {s : State} {i : Inval} {q : Nat} {e : TlbEntry} (h : e ∈ KMap.getD (s.discard i).tlb q []) :
    e ∈ KMap.getD s.tlb q [] ∧ ¬ (e.vd = i.vd ∧ i.meets e.space e.va e.sh = true) := by
  rw [State.getD_discard, List.mem_filter] at h
  simpa [imp_iff_not_or] using h
/-- The machine once an invalidation is complete, before the slot that waited for it goes on. -/
def State.invalidationDone (s : State) (id : Nat) (i : Inval) : State :=
  { s.discard i with icaches := [], codeLog := [], invals := s.invals.filter fun x => decide (x.id ≠ id) }

section
variable {s : State} {id : Nat} {i : Inval} (hi : (s.invals.find? fun i => decide (i.id = id)) = some i) (hdone : s.oldDone i = true)
include hi hdone
/-- INVALIDATE_COMPLETE of an invalidation of Nerem's. -/
theorem exec_invalidateComplete_ownerless (hnone : i.ctx = none) : exec (.invalidateComplete id) s = .next (s.invalidationDone id i) := by
  show execInvalidateComplete id s = _
  simp only [execInvalidateComplete, hi, hdone, if_true, hnone]
  rfl
/-- INVALIDATE_COMPLETE completes the CWR of SINV of the slot that waits for it. -/
theorem exec_invalidateComplete_waited {c key : Nat} (hc : i.ctx = some c) (hkey : s.keyOf c = some key)
    (hmode : (s.slotAt key).mode = .parked (.invalidation id)) :
    exec (.invalidateComplete id) s = .next ((s.invalidationDone id i).completeAt key (s.slotAt key).advance) := by
  have hkey' : (s.invalidationDone id i).keyOf c = some key := hkey
  have hmode' : ((s.invalidationDone id i).slotAt key).mode = .parked (.invalidation id) := hmode
  have hgoes : (s.invalidationDone id i).invalidated id c = (s.invalidationDone id i).completeAt key (s.slotAt key).advance := by
    simp only [State.invalidated, hkey', if_pos hmode']
    rfl
  show execInvalidateComplete id s = _
  simp only [execInvalidateComplete, hi, hdone, if_true, hc]
  exact congrArg Host.Outcome.next hgoes

end

/-- Settles O50: a table entry is written by `State.tableWrites_one` or not at all, the value of an invalidation is `sinvFields`, and a completed one leaves what `State.mem_discard` says. -/
theorem tablesAndInvalidations : Obligations.TablesAndInvalidations := by
  refine ⟨fun s w hwf => ⟨fun hin hsound => ?_, fun hnot => ?_⟩, fun s vd v ws hruns => ?_, fun s id i hi hdone => ⟨?_, ?_, ?_⟩⟩
  · have hlength : (leBytes 8 w.entry.toNat).length = 8 := leBytes_length _ _
    rw [State.writeTables_kept hsound, State.tableWrites_one hin]
    refine ⟨?_, fun a ha => Mem.read_writeBytes_ne _ _ (by rwa [hlength])⟩
    have hback := Mem.readBytes_writeBytes (leBytes 8 w.entry.toNat) w.pa hwf
    rwa [hlength] at hback
  · exact hnot.elim State.writeTables_outside State.writeTables_broken
  · obtain ⟨m, hm⟩ := s.writeTables_memory ws
    refine ⟨_, sinvFields v, exec_hypInvalidate hruns vd ⟨v, ws⟩, ?_, rfl, ?_, ?_, ?_, ?_, ?_, ?_⟩
    · simp only [hm]
    · simp only [hm, State.fresh_slots]
    · exact bits_sinvFields_kept v (by decide) (by omega)
    · exact bits_sinvFields_reserved v (by decide) (by omega)
    · exact bits_sinvFields_kept v (by decide) (by omega)
    · exact bits_sinvFields_reserved v (by decide) (by omega)
    · exact bits_sinvFields_kept v (by decide) (by omega)
  · exact fun q e he => State.mem_discard he
  · exact exec_invalidateComplete_ownerless hi hdone
  · exact fun c key hc hkey hmode => exec_invalidateComplete_waited hi hdone hc hkey hmode

end Sys2Proof.Machine
end

section
/-!
SUPPORT. When fences wait and complete, how a prefetch starts and wakes go on, how a generation word is reached, and the home that HLOC gives; FencesPrefetchesWindows is assembled from these.
-/
namespace Sys2Proof.Machine

/-! ### Drains (R145, R156) -/

section
variable {s : State} {go : Out}
/-- An empty store buffer holds nothing up. -/
theorem State.drained_done (hsb : s.me.sb = []) : s.drained go = go := if_neg (not_not.mpr hsb)
/-- A buffered store is waited for. -/
theorem State.drained_waits (hsb : s.me.sb ≠ []) :
    s.drained go = .next (s.setSlot s.cur { s.me with mode := .parked (.cond .drained) }) := if_pos hsb
/-- With every store and remote write acknowledged nothing is held up. -/
theorem State.drainedAck_done (hsb : s.me.sb = []) (hack : s.me.ackcnt = 0) : s.drainedAck go = go :=
  if_neg (not_or.mpr ⟨not_not.mpr hsb, not_not.mpr hack⟩)
/-- A buffered store or a remote write under way is waited for. -/
theorem State.drainedAck_waits (h : s.me.sb ≠ [] ∨ s.me.ackcnt ≠ 0) :
    s.drainedAck go = .next (s.setSlot s.cur { s.me with mode := .parked (.cond .drainedAck) }) := if_pos h
end

/-! ### PREF.hbm (R289) -/

/-- The prefetch command of the current slot for a request word and a source. -/
def State.prefetch (s : State) (v ea : Word) : Cmd :=
  ⟨s.nextId, .pref, s.me.vd, s.me.ctx, s.brick, s.cur % 8, s.me.region, s.me.level, s.me.space, 0, 0, lineOf v, wrap (bits v 19 0), ea,
    some (bits v 38 32), .moving, 0, 0, 0, none, [], none⟩
/-- The machine with that command under way, bound to its barrier. -/
def State.prefetching (s : State) (v ea : Word) : State :=
  { s.fresh.2 with cmds := s.cmds ++ [s.prefetch v ea] }.bind s.me.vd s.brick (bits v 38 32)
/-- Binding an operation to a barrier changes barriers alone. -/
theorem State.bind_frame (s : State) (vd b n : Nat) :
    (s.bind vd b n).me = s.me ∧ (s.bind vd b n).mem = s.mem ∧ (s.bind vd b n).cmds = s.cmds := by
  unfold State.bind State.modBarrierOf
  split <;> exact ⟨rfl, rfl, rfl⟩
theorem State.prefetching_frame (s : State) (v ea : Word) :
    (s.prefetching v ea).me = s.me ∧ (s.prefetching v ea).mem = s.mem ∧ (s.prefetching v ea).cmds = s.cmds ++ [s.prefetch v ea] :=
  State.bind_frame _ _ _ _
/-- A sound prefetch that its slot has room for starts, and the slot goes on. -/
theorem exec_prefHbm_starts {s : State} {r b : GReg} {i : BitVec 14} {v ea : Word} (hv : s.me.getG r = v) (hea : eaM s.me b i = ea)
    (hsound : prefSound v = true) (hheld : s.holdsBarrier s.me.vd (bits v 38 32) = true)
    (htarget : (s.barrier s.brick (bits v 38 32)).target ≠ 0) (hfault : addrFault s.brick ea 64 = none)
    (hdest : s.prefDestFault s.me.vd s.brick v = none) (hsb : s.me.sb = []) (hack : s.me.ackcnt = 0) (hroom : s.me.prefs < 16) :
    exec (.prefHbm r b i) s = .next ((s.prefetching v ea).after
      { (s.prefetching v ea).me.dropAhead with prefs := (s.prefetching v ea).me.prefs + 1 }) := by
  show execPrefHbm r b i s = _
  rw [execPrefHbm]
  simp only [hv, hea, hsound, hheld, htarget, Bool.not_true, decide_false, Bool.or_self, Bool.false_eq_true, if_false, hfault, hdest,
    State.drainedAck_done hsb hack, if_neg (Nat.not_le.mpr hroom)]
  rfl

/-! ### PREF.wake (R290) -/

theorem State.wakeAt_core (s : State) (ea : Word) : (s.wakeAt ea).core = s.core := by
  unfold State.wakeAt
  simp only
  split
  · split
    · exact s.wake_core _
    · rfl
  · exact (State.wake_core _ _).trans (s.translated_core _ _ _ _ _ _)
  · rfl
/-- With no answers laid down, waking a block changes no byte and no slot, whether its tables can be read or not. -/
theorem State.wakeBlock_core {s : State} (ea : Word) (h : s.answers = []) : (s.wakeBlock ea).core = s.core := by
  have hwalk := State.walk_core s.agent ea h
  unfold State.wakeBlock
  split
  · next heq => rwa [heq] at hwalk
  · next heq =>
    rw [heq] at hwalk
    split
    · exact hwalk
    · exact (State.wakeAt_core _ _).trans hwalk
theorem State.wakeBlocks_core (n : Nat) : ∀ {s : State} (a : Nat), s.answers = [] → (s.wakeBlocks a n).core = s.core := by
  induction n with
  | zero => exact fun _ _ => rfl
  | succ n ih =>
    intro s a h
    have hblock := State.wakeBlock_core (wrap (a * 128)) h
    simp only [State.wakeBlocks]
    split
    · exact hblock
    · exact (ih (a + 1) ((State.core_eq hblock).2.2.2.trans h)).trans hblock
/-- PREF.wake of a range that is neither empty nor too long starts wakes and goes on. -/
theorem exec_prefWake_goes {s : State} {r b : GReg} {i : BitVec 14} {n : Nat} (hn : (s.me.getG r).toNat = n) (hpos : 0 < n) (hmax : n ≤ 2 ^ 24)
    (h : s.answers = []) : ∃ t : State, exec (.prefWake r b i) s = .next (t.after t.me) ∧ t.core = s.core := by
  have hcore := State.wakeBlocks_core (((eaM s.me b i).toNat + n - 1) / 128 - (eaM s.me b i).toNat / 128 + 1) ((eaM s.me b i).toNat / 128) h
  refine ⟨_, ?_, hcore⟩
  have hlegal : ¬ (n = 0 ∨ 2 ^ 24 < n) := by omega
  have hme := State.me_of_core hcore
  show execPrefWake r b i s = _
  rw [execPrefWake]
  simp only [hn, if_neg hlegal, hme, ne_eq, not_true_eq_false, if_false]
  rw [State.retire, State.after, hme]
  rfl

/-! ### Places that a walk gives (R128) -/

/-- The machine with other translations cached, and another number of free values used up. -/
def State.withCaches (s : State) (m : KMap (List TlbEntry)) (n : Nat) : State := { s with tlb := m, freeCtr := n }
/-- A translation fills a cache at most; a full one drops an entry that a free value names. -/
theorem State.translated_caches (s : State) (brick vd : Nat) (space : BitVec 12) (l : Level) (ea : Word) (k : Access) :
    ∃ m n, s.translated brick vd space l ea k = s.withCaches m n := by
  unfold State.translated
  simp only
  split
  · exact ⟨_, _, rfl⟩
  · split
    · unfold State.keepWalk
      simp only
      split <;> exact ⟨_, _, rfl⟩
    · exact ⟨_, _, rfl⟩
/-- An address whose walk has been read goes on at the place that translation gives. -/
theorem State.resolved_walked {s u : State} {ea : Word} {k : Access} {p : Place} {win : Nat} {go : State → Place → Nat → Out}
    (hwalk : s.walk s.agent ea = (u, none)) (hme : u.me = s.me)
    (hplace : u.resolve u.brick s.me.vd s.me.space s.me.level ea k = .ok p win) :
    s.resolved ea k go = go (u.translated u.brick s.me.vd s.me.space s.me.level ea k) p win := by
  simp only [State.resolved, State.walking, hwalk, hme, ne_eq, not_true_eq_false, if_false, hplace]
/-- HLOC gives the home of the place that translation gives. -/
theorem exec_hloc_walked {s u : State} {d r : GReg} {p : Place} {win : Nat} (hwalk : s.walk s.agent (s.me.getG r) = (u, none)) (hme : u.me = s.me)
    (hplace : u.resolve u.brick s.me.vd s.me.space s.me.level (s.me.getG r) .read = .ok p win) :
    exec (.hloc d r) s = .next ((u.translated u.brick s.me.vd s.me.space s.me.level (s.me.getG r) .read).after
      (s.me.setG d (u.hlocWord p))) := by
  have hgo := State.resolved_walked (go := fun s p _ => s.retire fun k => k.setG d (s.hlocWord p)) hwalk hme hplace
  obtain ⟨m, n, hcaches⟩ := u.translated_caches u.brick s.me.vd s.me.space s.me.level (s.me.getG r) .read
  have hword : (u.translated u.brick s.me.vd s.me.space s.me.level (s.me.getG r) .read).hlocWord p = u.hlocWord p := by
    rw [hcaches]
    cases p <;> rfl
  have hsame : (u.translated u.brick s.me.vd s.me.space s.me.level (s.me.getG r) .read).me = s.me :=
    (State.me_of_core (u.translated_core _ _ _ _ _ _)).trans hme
  refine hgo.trans ?_
  rw [State.retire, hsame, hword]
  rfl

/-! ### Generation words (R80, R81, R293) -/

section
variable {s u : State} {ea : Word} {win pa : Nat} {wr : Bool}

/-- The machine once the generation word of a window is reached: the walk is kept, and the access waits no longer. -/
abbrev State.genReached (u : State) (k : Slot) (ea : Word) (wr : Bool) : State :=
  (u.translated u.brick k.vd k.space k.level ea (if wr then .write else .read)).unstall k.ctx

theorem State.me_genReached {k : Slot} (h : u.me = k) (ea : Word) (wr : Bool) : (u.genReached k ea wr).me = k :=
  (State.me_of_core (u.translated_core _ _ _ _ _ _)).trans h
theorem State.mem_genReached (u : State) (k : Slot) (ea : Word) (wr : Bool) : (u.genReached k ea wr).mem = u.mem :=
  (State.core_eq (u.translated_core _ _ _ _ _ _)).1
/-- Reaching a generation word leaves the windows. -/
theorem State.window_genReached {w : Window} (h : KMap.find? u.windows (win - 1) = some w) (k : Slot) (ea : Word) (wr : Bool) :
    KMap.find? (u.genReached k ea wr).windows (win - 1) = some w := by
  obtain ⟨m, n, hcaches⟩ := u.translated_caches u.brick k.vd k.space k.level ea (if wr then .write else .read)
  rw [State.genReached, hcaches]
  exact h
/-- The generation word of a window, at its first byte, is reached by a member with the right where memory serves. -/
theorem State.reachGen_open {r : GReg} {go : State → Nat → Out} (hfault : addrFault s.brick ea 8 = none) (hwalk : s.walk s.agent ea = (u, none))
    (hme : u.me = s.me) (ha : u.answers = []) (hwin : 0 < win) (hbase : pa = u.winBase win) (hserves : u.blocked s.me.ctx (.hbm pa) = false)
    (hplace : u.resolve u.brick s.me.vd s.me.space s.me.level ea (if wr then .write else .read) = .ok (.hbm pa) win)
    (hright : u.genFault s.me.vd win pa wr = none) : s.reachGen ea wr r go = go (u.genReached s.me ea wr) win := by
  obtain ⟨m, n, hcaches⟩ := u.translated_caches u.brick s.me.vd s.me.space s.me.level ea (if wr then .write else .read)
  rw [State.reachGen, State.reach_walked hfault hwalk hme hplace, State.genReached, hcaches]
  have hsame : (u.withCaches m n).me = s.me := hme
  have hnamed : ¬ (win = 0 ∨ pa ≠ (u.withCaches m n).winBase win) := not_or.mpr ⟨hwin.ne', not_not.mpr hbase⟩
  have hfree : (u.withCaches m n).blocked s.me.ctx (.hbm pa) = false := hserves
  have hsound : ∀ v : State, v.answers = [] → v.genLook s.me.vd win pa wr = v := fun v hv => by rw [State.genLook, hv]
  have hlook := hsound ((u.withCaches m n).unstall s.me.ctx) ha
  have hsame' : ((u.withCaches m n).unstall s.me.ctx).me = s.me := hme
  have hok : ((u.withCaches m n).unstall s.me.ctx).genFault s.me.vd win pa wr = none := hright
  simp only [if_neg hnamed, hsame, hfree, Bool.false_eq_true, if_false, hlook, hsame', ne_eq, not_true_eq_false, hok]

theorem State.me_nextGen (s : State) (win : Nat) : (s.nextGen win).me = s.me := rfl
theorem State.mem_nextGen (s : State) (win : Nat) : (s.nextGen win).mem = s.mem := rfl

variable {w : Window} (hw : KMap.find? u.windows (win - 1) = some w)
include hw
theorem State.genOf_listed : u.genOf win = w.gen := by rw [State.genOf, hw]
/-- A release raises the generation of its window. -/
theorem State.nextGen_raises : (KMap.find? (u.nextGen win).windows (win - 1)).map (·.gen) = some (w.gen + 1) := by
  have hmod := KMap.find?_modify_self u.windows (win - 1) fun w => { w with gen := u.genOf win + 1 }
  rw [hw, State.genOf_listed hw] at hmod
  unfold State.nextGen
  rw [State.genOf_listed hw, hmod]
  rfl
end

section
variable {s u : State} {r b : GReg} {i : BitVec 14} {win pa : Nat} {w : Window}
  (hfault : addrFault s.brick (eaM s.me b i) 8 = none) (hwalk : s.walk s.agent (eaM s.me b i) = (u, none)) (hme : u.me = s.me)
  (ha : u.answers = []) (hwin : 0 < win) (hbase : pa = u.winBase win) (hserves : u.blocked s.me.ctx (.hbm pa) = false)
include hfault hwalk hme ha hwin hbase hserves
/-- WREL of a drained slot raises the generation and returns it. -/
theorem exec_wrel_open (hsb : s.me.sb = []) (hack : s.me.ackcnt = 0)
    (hplace : u.resolve u.brick s.me.vd s.me.space s.me.level (eaM s.me b i) .write = .ok (.hbm pa) win)
    (hright : u.genFault s.me.vd win pa true = none) (hw : KMap.find? u.windows (win - 1) = some w) :
    exec (.wrel r b i) s = .next (((u.genReached s.me (eaM s.me b i) true).nextGen win).after
      (((u.genReached s.me (eaM s.me b i) true).nextGen win).me.dropAhead.setG r (w.gen + 1))) := by
  have hlisted := State.window_genReached hw s.me (eaM s.me b i) true
  have hgo := State.reachGen_open (r := r) (wr := true) (go := fun s win => (s.nextGen win).retire fun k => k.dropAhead.setG r (s.genOf win + 1))
    hfault hwalk hme ha hwin hbase hserves hplace hright
  rw [State.genOf_listed hlisted] at hgo
  exact (State.drainedAck_done hsb hack).trans hgo
/-- WACQ returns the generation. -/
theorem exec_wacq_open (hplace : u.resolve u.brick s.me.vd s.me.space s.me.level (eaM s.me b i) .read = .ok (.hbm pa) win)
    (hright : u.genFault s.me.vd win pa false = none) (hw : KMap.find? u.windows (win - 1) = some w) :
    exec (.wacq r b i) s = .next ((u.genReached s.me (eaM s.me b i) false).after (s.me.dropAhead.setG r w.gen)) := by
  have hlisted := State.window_genReached hw s.me (eaM s.me b i) false
  have hgo := State.reachGen_open (r := r) (wr := false) (go := fun s win => s.retire fun k => k.dropAhead.setG r (s.genOf win))
    hfault hwalk hme ha hwin hbase hserves hplace hright
  rw [State.genOf_listed hlisted, State.retire, State.me_genReached hme] at hgo
  exact hgo
end

/-- Settles O30: fences by what their drains wait for, prefetches by `exec_prefHbm_starts` and `exec_prefWake_goes`, generation words by `State.reachGen_open`, and HLOC by `exec_hloc_walked`. -/
theorem fencesPrefetchesWindows : Obligations.FencesPrefetchesWindows := by
  refine ⟨fun s => ⟨?_, ?_, ?_, ?_⟩, fun s r b i => ⟨?_, ?_⟩, ?_, fun s u d r p win hwalk hme hplace => ⟨?_, ?_⟩⟩
  · exact fun hsb => State.drained_done hsb
  · exact fun hsb hack => ⟨State.drainedAck_done hsb hack, State.drainedAck_done hsb hack⟩
  · exact fun hsb => ⟨State.drained_waits hsb, State.drainedAck_waits (.inl hsb)⟩
  · exact fun h => ⟨State.drainedAck_waits h, State.drainedAck_waits h⟩
  · intro hsound hheld htarget hfault hdest hsb hack hroom
    obtain ⟨hme, hmem, hcmds⟩ := s.prefetching_frame (s.me.getG r) (eaM s.me b i)
    refine ⟨_, exec_prefHbm_starts rfl rfl hsound hheld htarget hfault hdest hsb hack hroom, hme, hmem,
      s.prefetch (s.me.getG r) (eaM s.me b i), ?_, rfl, rfl, rfl, rfl⟩
    rw [hcmds]
    exact List.mem_append_right _ List.mem_cons_self
  · intro hpos hmax ha _ _
    obtain ⟨t, hexec, hcore⟩ := exec_prefWake_goes (b := b) (i := i) rfl hpos hmax ha
    exact ⟨t, hexec, State.me_of_core hcore, (State.core_eq hcore).1⟩
  · intro s u r b i win pa w ea hfault hwalk hme ha hwin hw hbase hserves
    refine ⟨fun hsb hack hplace hright => ?_, fun hplace hright => ?_⟩
    · exact ⟨_, exec_wrel_open hfault hwalk hme ha hwin hbase hserves hsb hack hplace hright hw,
        (State.me_nextGen _ win).trans (State.me_genReached hme ea true), (State.mem_nextGen _ win).trans (u.mem_genReached s.me ea true),
        State.nextGen_raises (State.window_genReached hw s.me ea true)⟩
    · exact exec_wacq_open hfault hwalk hme ha hwin hbase hserves hplace hright hw
  · exact exec_hloc_walked hwalk hme hplace
  · rintro b off rfl
    rfl

end Sys2Proof.Machine
end

section
/-!
SUPPORT. A context that stands outside the slots twice, once cancelled, and what serving its full/empty store leaves of it; FullEmptyWords is refuted with it.
-/
namespace Sys2Proof.Machine

/-- A full/empty store of a word of brick 0 on its way to its home. -/
def sentStff : Request := ⟨.stff, 0x2000, .sram 0 0x2000, 0, 0, 7, 0, .sent⟩
/-- A context of the demonstration device parked on that store. -/
def storing : Slot := { Slot.empty with mode := .parked .reply, ctx := 5, req := some sentStff }
/-- The demonstration device with that context saved by a gang switch, and held a second time under the same number, cancelled. -/
def storingTwice : State :=
  { State.reset.withDemo with saved := [(keepKey 5 8 0, storing)], held := [(keepKey 5 16 0, { storing with cancelled := true })] }
/-- Does an outcome leave a context of a number anywhere? -/
def leavesContext (o : Out) (ctx : Nat) : Bool :=
  match o with
  | .next t => (t.ctxOf ctx).isSome
  | _ => true
/-- The answer lands with both contexts; the cancelled one ends with it, and takes the other along. -/
theorem storingTwice_ends : leavesContext (exec (.fullEmptyAtHome 5 .sound) storingTwice) 5 = false := by decide +kernel

/-- Refutes O26: the statement asks that the context found first is not cancelled, and not that it is the only one of its number. In `storingTwice` a second one is cancelled and ends as the answer lands, which `State.dropKept` makes of every saved and held context of that number, so no stage is left to read. -/
theorem not_fullEmptyWords : ¬ Obligations.FullEmptyWords := by
  unfold Obligations.FullEmptyWords
  rintro ⟨-, hhome⟩
  have hfault : ∀ wr, storingTwice.homeFault 0 0 (.sram 0 0x2000) 8 wr false = none := by decide +kernel
  have hwf : Memory.wf storingTwice.mem = true := by decide +kernel
  obtain ⟨t, hexec, -, hstores, -⟩ := hhome storingTwice 5 0 0x2000 storing sentStff rfl rfl rfl rfl (by decide) rfl rfl rfl
    (by decide +kernel) rfl hfault hwf List.nodup_nil
  obtain ⟨hstage, -⟩ := hstores (.inl rfl)
  have hgone := storingTwice_ends
  rw [hexec] at hgone
  have hnone : t.ctxOf 5 = none := Option.isNone_iff_eq_none.mp (Option.isSome_eq_false_iff.mp hgone)
  rw [hnone] at hstage
  cases hstage

end Sys2Proof.Machine
end

section
/-!
SUPPORT. What PAGE_PRESENT makes of a context that waits in its save area for a page; DemandFaults is refuted with it.
-/
namespace Sys2Proof.Machine

/-- A whole context that arrives where a slot is free and nothing else waits takes that slot, READY. -/
theorem State.arrive_context {s : State} {b vd n : Nat} {k : Slot} (since : Nat) (hres : s.isResident vd = true)
    (hspills : KMap.getD s.spills (queueKey b vd) [] = []) (harrivals : KMap.getD s.arrivals (queueKey b vd) [] = [])
    (hfree : s.freeSlot vd b = some n) :
    s.arrive b vd (.context k since) = (s.setSlot (8 * b + n) { k with mode := .ready }, false) := by
  simp only [State.arrive, hres, hspills, harrivals, hfree, ne_eq, not_true_eq_false, decide_false, Bool.not_true, Bool.or_self,
    Bool.false_eq_true, if_false, if_true, Arrival.slot]
/-- PAGE_PRESENT of a context whose image has been read: it stands in a free slot of its brick, READY whatever it waited for before. -/
theorem exec_pagePresent_ready {s u : State} {id c key n : Nat} {d : Demand} {k : Slot} {ws : List TableWrite} (hd : s.demand? id = some d)
    (hwho : d.who = .slot c) (hlong : d.long = true)
    (hheld : (List.find? (fun (kv : Nat × Slot) => decide (kv.2.ctx = c ∧ kv.2.mode ≠ .halted))
      (((s.dropDemand d).writeTables ws).retryFor d).held) = some (key, k))
    (hread : (((s.dropDemand d).writeTables ws).retryFor d).contextPassage imagePass k.vd (key % 2 ^ 18 / 16) 0 4096 none = (u, .done))
    (hres : u.isResident k.vd = true) (hspills : KMap.getD u.spills (queueKey (key % 2 ^ 18 / 128) k.vd) [] = [])
    (harrivals : KMap.getD u.arrivals (queueKey (key % 2 ^ 18 / 128) k.vd) [] = [])
    (hfree : u.freeSlot k.vd (key % 2 ^ 18 / 128) = some n) :
    ∃ t : State, exec (.pagePresent id ws) s = .next t ∧ t.slotAt (8 * (key % 2 ^ 18 / 128) + n) = { k with mode := .ready } := by
  have hbrick : key % 2 ^ 18 / 16 / 8 = key % 2 ^ 18 / 128 := Nat.div_div_eq_div_mul _ _ _
  have harrive := State.arrive_context (s := { u with held := KMap.erase u.held key }) (k := k) (u.patienceFrom k.vd) hres hspills harrivals hfree
  refine ⟨(((s.dropDemand d).writeTables ws).retryFor d).bringBack c, ?_, ?_⟩
  · show execPagePresent id ws s = _
    simp only [execPagePresent, hd, hlong, hwho, Bool.not_true, Bool.false_eq_true, if_false]
  · simp only [State.bringBack, State.reinject, hheld, hread, hbrick, harrive]
    exact State.slotAt_setSlot_self _ _ _

/-- The demand fault of a context of the demonstration device that has been answered LONG. -/
def longFault : Demand := ⟨9, 0, 6 * 2 ^ 30, 0x180000000, .slot 1, true⟩
/-- The context as it is held: parked on a reply. -/
def heldParked : Slot := { State.reset.withDemo.slotAt 0 with mode := .parked .reply }
/-- The demonstration device with that context held for slot 0 of brick 0, which is free. -/
def pageComes : State := { State.reset.withDemo.setSlot 0 Slot.empty with demands := [longFault], held := [(keepKey 1 0 0, heldParked)] }
/-- Its page is present, and its image is to be read. -/
def pageCame : State := ((pageComes.dropDemand longFault).writeTables []).retryFor longFault
/-- The machine once the image has been read. -/
def imageRead : State := (pageCame.contextPassage imagePass heldParked.vd (keepKey 1 0 0 % 2 ^ 18 / 16) 0 4096 none).1
theorem pageCame_done : (pageCame.contextPassage imagePass heldParked.vd (keepKey 1 0 0 % 2 ^ 18 / 16) 0 4096 none).2 = .done := by
  decide +kernel
theorem pageCame_reads :
    pageCame.contextPassage imagePass heldParked.vd (keepKey 1 0 0 % 2 ^ 18 / 16) 0 4096 none = (imageRead, .done) := by
  rw [imageRead, ← pageCame_done]
/-- The context is found held as it was: it did not wait for the page in its own mode. -/
theorem pageCame_held : (List.find? (fun (kv : Nat × Slot) => decide (kv.2.ctx = 1 ∧ kv.2.mode ≠ .halted)) pageCame.held) =
    some (keepKey 1 0 0, heldParked) := by decide +kernel

/-- Refutes O49: the statement has PAGE_PRESENT put the held context back as it stood, whatever its mode, where `Arrival.slot` makes it READY. In `pageComes` the context is held parked on a reply, so the slot that it takes differs from it. -/
theorem not_demandFaults : ¬ Obligations.DemandFaults := by
  unfold Obligations.DemandFaults
  rintro ⟨-, hpresent, -⟩
  have hd : pageComes.demand? 9 = some longFault := by decide +kernel
  have hres : imageRead.isResident 0 = true := by decide +kernel
  have hspills : KMap.getD imageRead.spills (queueKey (keepKey 1 0 0 % 2 ^ 18 / 128) 0) [] = [] := by decide +kernel
  have harrivals : KMap.getD imageRead.arrivals (queueKey (keepKey 1 0 0 % 2 ^ 18 / 128) 0) [] = [] := by decide +kernel
  have hfree : imageRead.freeSlot 0 (keepKey 1 0 0 % 2 ^ 18 / 128) = some 0 := by decide +kernel
  obtain ⟨t, hexec, hkept, -⟩ := hpresent pageComes imageRead 9 1 (keepKey 1 0 0) 0 longFault heldParked [] hd rfl rfl
    pageCame_held pageCame_reads hres hspills harrivals hfree
  obtain ⟨t', hexec', hready⟩ := exec_pagePresent_ready (ws := []) hd rfl rfl pageCame_held pageCame_reads hres hspills harrivals hfree
  obtain rfl : t = t' := Host.Outcome.next.inj (hexec.symm.trans hexec')
  have hmode : heldParked.mode = .ready := by rw [← hkept, hready]
  cases hmode

end Sys2Proof.Machine
end

section
/-!
SUPPORT. What moving on keeps of a slot, what a trap with a handler set makes of the machine, and the single step after a completion; TakingTraps is assembled from these.
-/
namespace Sys2Proof.Machine

/-- Moving on changes the PC and the frame alone. -/
theorem Slot.advance_eq (k : Slot) : k.advance = { k with pc := k.advance.pc, frame := k.advance.frame } := by
  unfold Slot.advance
  split
  · split
    · rfl
    · split <;> rfl
  · rfl
/-- A slot that has completed an instruction and goes on as `k`: nothing is outstanding, and a debug step asks for its halt (R58). -/
def Slot.completed (k : Slot) : Slot := { k with mode := .ready, req := none, descr := none, haltAsked := k.haltAsked || k.debugStep }
/-- A trap with XVEC set writes the current slot alone (R174). -/
theorem State.trapAt_handled {s : State} {v : VDev} (c : Cause) (x : Word) (hv : s.vd? s.me.vd = some v) (hvec : v.xvec ≠ 0) :
    s.trapAt s.cur c x = s.setSlot s.cur (s.me.enter c.code x v.xvec) := State.trapCodeAt_handled hv hvec
/-- With single step due, completing an instruction ends in the single-step trap of the slot that has moved on (R149). -/
theorem State.after_step {s : State} {k : Slot} {v : VDev} (hstep : s.me.stepDue = true) (hv : s.vd? k.vd = some v) (hvec : v.xvec ≠ 0) :
    s.after k = (s.setSlot s.cur k.advance.completed).setSlot s.cur (k.advance.completed.enter Cause.singleStep.code s.me.pc v.xvec) := by
  have hme : (s.setSlot s.cur k.advance.completed).slotAt s.cur = k.advance.completed := State.slotAt_setSlot_self _ _ _
  have hvd : k.advance.completed.vd = k.vd := by
    show k.advance.vd = k.vd
    rw [k.advance_eq]
  have hdevice : (s.setSlot s.cur k.advance.completed).vd? ((s.setSlot s.cur k.advance.completed).slotAt s.cur).vd = some v := by
    rw [hme, hvd]
    exact hv
  have htrap := State.trapCodeAt_handled (code := Cause.singleStep.code) (xval := s.me.pc) hdevice hvec
  rw [hme] at htrap
  exact (State.completeAt_step k.advance hstep).trans htrap

/-- Settles O15: with XVEC set a trap is `State.trapAt_handled` and a step after a completion `State.after_step`; with XVEC zero the context is delivered. -/
theorem takingTraps : Obligations.TakingTraps := by
  unfold Obligations.TakingTraps
  refine ⟨fun s t c x v hv hvec ht => ?_, fun s c x v hv hvec => State.trapCodeAt_unhandled hv hvec,
    fun s t k v hsstep hlevel hvd hv hvec ht => ?_⟩
  · rw [State.trapAt_handled c x hv hvec] at ht
    have hme : t.me = s.me.enter c.code x v.xvec := by rw [ht]; exact State.me_setSlot s _
    rw [hme]
    refine ⟨rfl, rfl, rfl, rfl, rfl, rfl, rfl, rfl, rfl, rfl, rfl, rfl, rfl, rfl, rfl, rfl, rfl, fun a => ?_, fun key hkey => ?_, ?_⟩
    · rw [ht]; rfl
    · rw [ht]; exact State.slotAt_setSlot_ne s _ hkey
    · rw [ht]; rfl
  · have hstep : s.me.stepDue = true := by simp [Slot.stepDue, hsstep, hlevel]
    rw [State.after_step hstep (hvd ▸ hv) hvec] at ht
    have hme : t.me = k.advance.completed.enter Cause.singleStep.code s.me.pc v.xvec := by
      rw [ht]
      exact State.me_setSlot (s.setSlot s.cur k.advance.completed) _
    rw [hme]
    exact ⟨rfl, rfl, rfl, rfl, rfl, k.advance_level, k.advance_g, by rw [ht]; rfl⟩

end Sys2Proof.Machine
end

section
/-!
SUPPORT. What the ends of threads and fault notices leave of the barriers; Barriers is assembled from these.
-/
namespace Sys2Proof.Machine

/-- What the barriers are and what is on its way to them, with the bytes of memory: of these the ends of threads change nothing. -/
def State.gates (s : State) : List Host.Cell × KMap Barrier × List BarrierMsg := (s.mem, s.barriers, s.barrierMsgs)
theorem State.mem_of_gates {s t : State} (h : t.gates = s.gates) : t.mem = s.mem := congrArg (·.1) h
theorem State.barriers_of_gates {s t : State} (h : t.gates = s.gates) : t.barriers = s.barriers := congrArg (·.2.1) h
theorem State.barrierMsgs_of_gates {s t : State} (h : t.gates = s.gates) : t.barrierMsgs = s.barrierMsgs := congrArg (·.2.2) h
theorem State.barrier_of_gates {s t : State} (h : t.gates = s.gates) (b n : Nat) : t.barrier b n = s.barrier b n := by
  rw [State.barrier, State.barriers_of_gates h, State.barrier]

section
variable (s : State) (c key vd r : Nat)

@[simp] theorem State.setSlot_gates (k : Slot) : (s.setSlot key k).gates = s.gates := rfl
@[simp] theorem State.modCtx_gates (f : Slot → Slot) : (s.modCtx c f).gates = s.gates := rfl
@[simp] theorem State.modRegion_gates (f : Region → Region) : (s.modRegion vd r f).gates = s.gates := rfl
@[simp] theorem State.allocated_gates (p : Place) (on : Bool) : (s.allocated p on).gates = s.gates := by cases p <;> rfl
@[simp] theorem State.withdraw_gates : (s.withdraw c).gates = s.gates := rfl
@[simp] theorem State.unstall_gates : (s.unstall c).gates = s.gates := rfl
@[simp] theorem State.demands_gates (d : List Demand) : { s with demands := d }.gates = s.gates := rfl
@[simp] theorem State.orphans_gates (m : KMap Slot) : { s with orphans := m }.gates = s.gates := rfl
@[simp] theorem State.savedHeldOrphans_gates (x y z : KMap Slot) : { s with saved := x, held := y, orphans := z }.gates = s.gates := rfl
@[simp] theorem State.orphansArrivals_gates (m : KMap Slot) (x y : KMap (List Arrival)) :
    { s with orphans := m, arrivals := x, spills := y }.gates = s.gates := rfl
@[simp] theorem State.migMsgs_gates (l : List MigMsg) : { s with migMsgs := l }.gates = s.gates := rfl
@[simp] theorem State.spawnq_gates (q : KMap (List SpawnEntry)) : { s with spawnq := q }.gates = s.gates := rfl
@[simp] theorem State.lowerLive_gates : (s.lowerLive vd r).gates = s.gates := rfl

end

theorem State.foldl_gates {α : Type} {f : State → α → State} (h : ∀ s a, (f s a).gates = s.gates) (l : List α) (s : State) :
    (l.foldl f s).gates = s.gates := foldl_view State.gates h l s
theorem State.foldl_lowerLive_gates {α : Type} (vd : Nat) (r : α → Nat) (l : List α) (s : State) :
    (l.foldl (fun (t : State) a => t.lowerLive vd (r a)) s).gates = s.gates :=
  State.foldl_gates (fun t a => t.lowerLive_gates vd (r a)) l s
theorem State.accepted_gates {f : State → State} (h : ∀ s, (f s).gates = s.gates) (s : State) (p : Place) :
    (s.accepted p f).gates = s.gates := by
  unfold State.accepted
  split
  · rw [State.allocated_gates, h, State.allocated_gates]
  · exact h s
theorem State.resvRun_gates (key : Nat) (l : List Nat) (s : State) : (s.resvRun key l).gates = s.gates := by
  induction l generalizing s with
  | nil => rfl
  | cons c rest ih =>
    unfold State.resvRun
    split
    · exact ih s
    · split
      · exact ih s
      · split
        · exact ih _
        · rfl
theorem State.handOn_gates (s : State) (k : Slot) : (s.handOn k).gates = s.gates := by
  unfold State.handOn
  split
  · unfold State.handOnWord
    split
    · exact State.accepted_gates (fun u => u.resvRun_gates _ _) _ _
    · rfl
  · rfl
theorem State.leave_gates (s : State) (k : Slot) : (s.leave k).gates = s.gates := by
  simp only [State.leave, State.release, State.demands_gates, State.unstall_gates, State.withdraw_gates, State.handOn_gates]
theorem State.fill_gates (s : State) (key : Nat) : (s.fill key).gates = s.gates := by
  unfold State.fill
  split
  · split
    · split
      · rfl
      · simp only [State.fillFor]
        split
        · rfl
        · split <;> rfl
    · rfl
  · rfl
theorem State.endThread_gates (s : State) (key : Nat) : (s.endThread key).gates = s.gates := by
  simp only [State.endThread]
  split
  · rfl
  · simp only [State.fill_gates, State.setSlot_gates, State.modRegion_gates, State.orphans_gates, State.leave_gates]
theorem State.endRegions_gates (s : State) (vd : Nat) (rs : List Nat) : (s.endRegions vd rs).gates = s.gates := by
  have houtside : (s.endOutside vd rs).gates = s.gates := by
    simp only [State.endOutside, State.savedHeldOrphans_gates, State.foldl_gates, State.lowerLive_gates, State.leave_gates, implies_true]
  have harriving : ∀ t : State, (t.endArriving vd rs).gates = t.gates := fun t => by
    simp only [State.endArriving, State.orphansArrivals_gates, State.foldl_gates, State.leave_gates, implies_true]
    exact State.foldl_lowerLive_gates vd id _ t
  have hmigrants : ∀ t : State, (t.endMigrants vd rs).gates = t.gates := fun t =>
    (State.migMsgs_gates _ _).trans (State.foldl_lowerLive_gates vd (fun m : MigMsg => m.m.region) _ t)
  have hspawns : ∀ t : State, (t.endSpawns vd rs).gates = t.gates := fun t =>
    (State.spawnq_gates _ _).trans (State.foldl_lowerLive_gates vd SpawnEntry.region _ t)
  have hslot : ∀ (t : State) (key : Nat), (t.endOrCancel key).gates = t.gates := fun t key => by
    unfold State.endOrCancel
    split
    · rfl
    · exact t.endThread_gates key
  have hslots : ∀ t : State, (t.endSlots vd rs).gates = t.gates := fun t => State.foldl_gates hslot _ t
  rw [State.endRegions_eq, hslots, hspawns, hmigrants, harriving, houtside]
theorem State.notify_gates (s : State) (vd region cause : Nat) (xval whre : Word) : (s.notify vd region cause xval whre).gates = s.gates := by
  have hfatal : ∀ (t : State) (d : Nat), (t.fatalDomain vd d).gates = t.gates := fun t d => by
    unfold State.fatalDomain
    split
    · split
      · exact State.endRegions_gates _ vd _
      · rfl
    · rfl
  unfold State.notify
  split
  · rfl
  · split
    · rfl
    · simp only [apply_ite State.gates, hfatal, State.modRegion_gates, ite_self]
      split <;> rfl
/-- A trap changes no more of the barriers than the end of the thread that it can come to: nothing. -/
theorem State.trapAt_gates (s : State) (key : Nat) (c : Cause) (x : Word) : (s.trapAt key c x).gates = s.gates := by
  have hdeliver : (s.deliver key c.code x).gates = s.gates := (State.notify_gates _ _ _ _ _ _).trans (s.endThread_gates key)
  simp only [State.trapAt, State.trapCodeAt]
  split
  · split
    · exact hdeliver
    · rfl
  · exact hdeliver
/-- Completing an instruction leaves the barriers, whatever comes of a single step. -/
theorem State.completeAt_gates (s : State) (key : Nat) (k : Slot) : (s.completeAt key k).gates = s.gates := by
  cases hstep : (s.slotAt key).stepDue with
  | true => rw [State.completeAt_step k hstep, State.trapAt_gates, State.setSlot_gates]
  | false => rw [State.completeAt_plain k hstep, State.setSlot_gates]

end Sys2Proof.Machine
end

section
/-!
SUPPORT. What BINIT, BARR and BWAIT do, and what an arrival makes of a barrier, of its waiters and of its sender; Barriers is assembled from these.
-/
namespace Sys2Proof.Machine

/-! ### BINIT, BARR and BWAIT (R169, R300 to R302) -/

section
variable {s : State} {a d : GReg} {n : BitVec 7}

/-- The illegal-operand trap that names a barrier by its number. -/
theorem State.trap_barrier (s : State) (n : BitVec 7) :
    s.trap .illegalOperand (wrap n.toNat) = .next (s.trapAt s.cur .illegalOperand (n.setWidth 64)) := by
  rw [wrap, BitVec.ofNat_toNat, State.trap]
theorem exec_binit_range (h : (s.me.getG a).toNat = 0 ∨ 65535 < (s.me.getG a).toNat) :
    exec (.binit a n) s = .next (s.trapAt s.cur .illegalOperand (s.me.getG a)) := if_pos h
/-- BINIT, with a count in range, of a barrier that is not held, or that something uses. -/
theorem exec_binit_unfit (hlow : 0 < (s.me.getG a).toNat) (hhigh : (s.me.getG a).toNat ≤ 65535)
    (h : s.holdsBarrier s.me.vd n.toNat = false ∨ ¬((s.barrier s.brick n.toNat).bound = 0 ∧ s.barrierWaiters s.brick n.toNat = [])) :
    exec (.binit a n) s = .next (s.trapAt s.cur .illegalOperand (n.setWidth 64)) := by
  have hunfit : (!(s.holdsBarrier s.me.vd n.toNat) || decide ((s.barrier s.brick n.toNat).bound ≠ 0) ||
      decide (s.barrierWaiters s.brick n.toNat ≠ [])) = true := by
    rcases h with h | h
    · simp [h]
    · rcases not_and_or.mp h with h | h <;> simp [h]
  show execBinit a n s = _
  rw [execBinit, if_neg (by omega), if_pos hunfit, State.trap_barrier]
theorem exec_binit_sets (hlow : 0 < (s.me.getG a).toNat) (hhigh : (s.me.getG a).toNat ≤ 65535)
    (hheld : s.holdsBarrier s.me.vd n.toNat = true) (hbound : (s.barrier s.brick n.toNat).bound = 0)
    (hwaiters : s.barrierWaiters s.brick n.toNat = []) : exec (.binit a n) s =
      .next ((s.modBarrier s.brick n.toNat fun _ => ⟨(s.me.getG a).toNat, 0, false, false, false, 0⟩).after s.me) := by
  show execBinit a n s = _
  rw [execBinit, if_neg (by omega), if_neg (by simp [hheld, hbound, hwaiters])]
  rfl
theorem exec_barr_range (h : 2047 < (s.me.getG a).toNat) :
    exec (.barr a n) s = .next (s.trapAt s.cur .illegalOperand (s.me.getG a)) := if_pos h
theorem exec_barr_unheld (hrange : (s.me.getG a).toNat ≤ 2047) (h : s.holdsBarrier s.me.vd n.toNat = false) :
    exec (.barr a n) s = .next (s.trapAt s.cur .illegalOperand (n.setWidth 64)) := by
  show execBarr a n s = _
  rw [execBarr, if_neg (Nat.not_lt.mpr hrange), if_pos (by simp [h]), State.trap_barrier]
/-- Stores that have left, and to another die are acknowledged, hold nothing back at a place of a bank. -/
theorem State.drainedFor_sram {b off : Nat} (go : Out) (hsb : s.me.sb = []) (hack : b / 512 = s.brick / 512 ∨ s.me.ackcnt = 0) :
    s.drainedFor (.sram b off) go = go := by
  unfold State.drainedFor
  split
  · exact State.drained_done hsb
  · next hfar => exact State.drainedAck_done hsb (hack.resolve_left fun h => hfar (if_pos h))
/-- The machine once the current slot has sent an arrival to a barrier of a brick. -/
def State.arrivalSent (s : State) (b n : Nat) : State :=
  { s with nextId := s.nextId + 1, barrierMsgs := s.barrierMsgs ++ [⟨s.nextId, s.me.vd, b, n, some s.me.ctx, false, false⟩] }
theorem exec_barr_sends (hrange : (s.me.getG a).toNat ≤ 2047) (hheld : s.holdsBarrier s.me.vd n.toNat = true) (hsb : s.me.sb = [])
    (hack : (s.me.getG a).toNat / 512 = s.brick / 512 ∨ s.me.ackcnt = 0) :
    exec (.barr a n) s = (s.arrivalSent (s.me.getG a).toNat n.toNat).send (mkReq .barr 0 (.host 0) 0 0 0 0) := by
  show execBarr a n s = _
  rw [execBarr, if_neg (Nat.not_lt.mpr hrange), if_neg (by simp [hheld]), State.drainedFor_sram _ hsb hack]
  rfl
/-- BWAIT on a barrier that is not held, or not initialised. -/
theorem exec_bwait_unfit (h : s.holdsBarrier s.me.vd n.toNat = false ∨ (s.barrier s.brick n.toNat).target = 0) :
    exec (.bwait d n) s = .next (s.trapAt s.cur .illegalOperand (n.setWidth 64)) := by
  have hunfit : (!(s.holdsBarrier s.me.vd n.toNat) || decide ((s.barrier s.brick n.toNat).target = 0)) = true := by
    rcases h with h | h <;> simp [h]
  show execBwait d n s = _
  rw [execBwait, if_pos hunfit, State.trap_barrier]
/-- BWAIT on an initialised barrier passes or parks by the phase. -/
theorem exec_bwait_fit (hheld : s.holdsBarrier s.me.vd n.toNat = true) (hset : (s.barrier s.brick n.toNat).target ≠ 0) :
    exec (.bwait d n) s = if b2n (s.barrier s.brick n.toNat).phase ≠ bits (s.me.getG d) 0 0
      then .next (s.after (s.me.setG d (s.barrier s.brick n.toNat).result).dropAhead)
      else .next (s.setSlot s.cur { s.me with mode := .parked (.barrier n.toNat d.val) }) := by
  show execBwait d n s = _
  rw [execBwait, if_neg (by simp [hheld, hset])]
  rfl
/-- The result of BWAIT: the phase in bit 0 and the error in bit 1 (R302). -/
theorem Barrier.result_eq (x : Barrier) : x.result = BitVec.ofNat 64 (2 * b2n x.err + b2n x.phase) := by rw [Barrier.result, wrap, Nat.mul_comm]

end

/-! ### Arrivals (R168) -/

/-- What an arrival that is bound to an operation leaves of the operations bound to a barrier. -/
def Barrier.unbind (x : Barrier) (bound : Bool) : Nat := if bound then x.bound - 1 else x.bound
theorem Barrier.arrive_counts {x : Barrier} (err bound : Bool) (h : x.count + 1 ≠ x.target) : x.arrive err bound =
    ({ x with bound := x.unbind bound, count := x.count + 1, errNow := x.errNow || err }, false) := if_neg h
theorem Barrier.arrive_flips {x : Barrier} (err bound : Bool) (h : x.count + 1 = x.target) : x.arrive err bound =
    ({ x with bound := x.unbind bound, count := 0, phase := !x.phase, err := x.errNow || err, errNow := false }, true) := if_pos h

/-- The machine without an arrival that has come to its barrier. -/
def State.arrivalTaken (s : State) (id : Nat) : State := { s with barrierMsgs := s.barrierMsgs.filter fun x => decide (x.id ≠ id) }
/-- The slot that sent an arrival, if one did, gets its reply. -/
def State.tellSender (s : State) (c : Option Nat) (st : ReqStage) : State :=
  match c with
  | some c => s.modCtx c fun k => k.setStage st
  | none => s
/-- A slot that waited at a barrier goes on with a result in its register. -/
def State.passWaiter (v : Word) (s : State) (w : Nat × Nat) : State :=
  s.completeAt w.1 ((s.slotAt w.1).setG (Fin.ofNat 16 w.2) v).dropAhead.advance
/-- The machine once an arrival has been counted, before any waiter goes on. -/
def State.counted (s : State) (vd b n : Nat) (err bound : Bool) : State :=
  s.modBarrierOf vd b n fun _ => ((s.barrierOf vd b n).arrive err bound).1

section
variable {s : State} {vd b n : Nat}

theorem State.counted_frame (s : State) (vd b n : Nat) (err bound : Bool) : (s.counted vd b n err bound).mem = s.mem ∧
    (s.counted vd b n err bound).slots = s.slots ∧ (s.counted vd b n err bound).barrierMsgs = s.barrierMsgs := by
  unfold State.counted State.modBarrierOf
  split <;> exact ⟨rfl, rfl, rfl⟩
/-- The barrier of a resident partition once an arrival has been counted. -/
theorem State.barrier_counted (hin : s.barriersIn vd n = true) (err bound : Bool) :
    (s.counted vd b n err bound).barrier b n = ((s.barrierOf vd b n).arrive err bound).1 := by
  rw [State.counted, State.modBarrierOf, if_pos hin]
  exact KMap.getD_set_self _ _ _ _
theorem State.arriveAt_counts (err bound : Bool) (h : (s.barrierOf vd b n).count + 1 ≠ (s.barrierOf vd b n).target) :
    s.arriveAt vd b n err bound = s.counted vd b n err bound := by
  simp only [State.arriveAt, State.counted, Barrier.arrive_counts err bound h, Bool.false_and, Bool.false_eq_true, if_false]
/-- The arrival that reaches the target at a resident partition: every waiter goes on with the new phase and the phase's errors. -/
theorem State.arriveAt_flips (hin : s.barriersIn vd n = true) (err bound : Bool)
    (h : (s.barrierOf vd b n).count + 1 = (s.barrierOf vd b n).target) : s.arriveAt vd b n err bound =
      (s.barrierWaiters b n).foldl (State.passWaiter ((s.counted vd b n err bound).barrier b n).result) (s.counted vd b n err bound) := by
  rw [State.barrier_counted hin]
  have hstill : (s.counted vd b n err bound).barriersIn vd n = true := by
    rw [State.counted, State.modBarrierOf, if_pos hin]
    exact hin
  have hwaiters : (s.counted vd b n err bound).barrierWaiters b n = s.barrierWaiters b n := by
    rw [State.barrierWaiters, (s.counted_frame vd b n err bound).2.1, State.barrierWaiters]
  unfold State.counted at hstill hwaiters ⊢
  rw [Barrier.arrive_flips err bound h] at hstill hwaiters ⊢
  simp only [State.arriveAt, Barrier.arrive_flips err bound h, hstill, hwaiters, Bool.and_self, if_true]
  rfl
/-- Whatever an arrival does, beyond the ends of threads in which waiters' single steps can result it changes its barrier alone. -/
theorem State.arriveAt_gates (s : State) (vd b n : Nat) (err bound : Bool) :
    (s.arriveAt vd b n err bound).gates = (s.counted vd b n err bound).gates := by
  simp only [State.arriveAt]
  split
  · exact foldl_view State.gates (fun t (w : Nat × Nat) => t.completeAt_gates w.1 _) _ _
  · rfl
theorem State.tellSender_gates (s : State) (c : Option Nat) (st : ReqStage) : (s.tellSender c st).gates = s.gates := by cases c <;> rfl
/-- The reply of an arrival reaches every slot of its sender. -/
theorem State.mem_tellSender {kv : Nat × Slot} {c : Option Nat} (st : ReqStage) (h : kv ∈ s.slots) (hc : c = some kv.2.ctx) (h0 : kv.2.ctx ≠ 0) :
    (kv.1, kv.2.setStage st) ∈ (s.tellSender c st).slots := by
  rw [hc]
  exact State.mem_slots_modCtx _ h rfl h0
/-- The reply of an arrival leaves the slot of another context. -/
theorem State.slotAt_tellSender {c : Option Nat} {key : Nat} (st : ReqStage) (h : c ≠ some (s.slotAt key).ctx) :
    (s.tellSender c st).slotAt key = s.slotAt key := by
  cases c with
  | none => rfl
  | some c => exact State.slotAt_modCtx_ne _ fun e => h (congrArg some e.symm)

end

/-- BARRIER_ARRIVAL takes its message away; the arrival counts at an initialised barrier, and else fails (R168). -/
theorem exec_barrierArrival {s : State} {id : Nat} {m : BarrierMsg} (hm : (s.barrierMsgs.find? fun m => decide (m.id = id)) = some m) :
    exec (.barrierArrival id) s = .next (if (s.barrierOf m.vd m.brick m.n).target = 0
      then (s.arrivalTaken id).tellSender m.ctx (.failed Cause.illegalOperand.code (BitVec.ofNat 64 m.n) false)
      else ((s.arrivalTaken id).arriveAt m.vd m.brick m.n m.err m.bound).tellSender m.ctx (.done 0)) := by
  show execBarrierArrival id s = _
  simp only [execBarrierArrival, hm]
  by_cases htarget : (s.barrierOf m.vd m.brick m.n).target = 0
  · exact (if_pos htarget).trans (by rw [if_pos htarget]; rfl)
  · exact (if_neg htarget).trans (by rw [if_neg htarget]; rfl)
/-- Whatever a barrier's arrival meets, it takes its message away and changes no byte. -/
theorem exec_barrierArrival_frame {s : State} {id : Nat} {m : BarrierMsg} (hm : (s.barrierMsgs.find? fun m => decide (m.id = id)) = some m) :
    ∃ t : State, exec (.barrierArrival id) s = .next t ∧ t.mem = s.mem ∧ ∀ y ∈ t.barrierMsgs, y.id ≠ id := by
  have htaken : ∀ y ∈ (s.arrivalTaken id).barrierMsgs, y.id ≠ id := fun y hy => of_decide_eq_true (List.mem_filter.mp hy).2
  refine ⟨_, exec_barrierArrival hm, ?_⟩
  split
  · have hview := (s.arrivalTaken id).tellSender_gates m.ctx (.failed Cause.illegalOperand.code (BitVec.ofNat 64 m.n) false)
    exact ⟨(State.mem_of_gates hview).trans rfl, fun y hy => htaken y ((State.barrierMsgs_of_gates hview) ▸ hy)⟩
  · obtain ⟨hmem, -, hmsgs⟩ := (s.arrivalTaken id).counted_frame m.vd m.brick m.n m.err m.bound
    have hview := (State.tellSender_gates _ m.ctx (.done 0)).trans ((s.arrivalTaken id).arriveAt_gates m.vd m.brick m.n m.err m.bound)
    exact ⟨(State.mem_of_gates hview).trans hmem, fun y hy => htaken y (hmsgs ▸ (State.barrierMsgs_of_gates hview) ▸ hy)⟩
/-- The one waiter of a barrier, of another context than the sender, goes on when the phase flips. -/
theorem State.slotAt_passed {s t : State} {key r : Nat} {v : Word} {c : Option Nat} (st : ReqStage) (hslots : t.slots = s.slots)
    (hstep : (s.slotAt key).stepDue = false) (hc : c ≠ some (s.slotAt key).ctx) :
    (((t.passWaiter v (key, r)).tellSender c st).slotAt key).mode = .ready ∧
      (((t.passWaiter v (key, r)).tellSender c st).slotAt key).getG (Fin.ofNat 16 r) = v := by
  have hat : t.slotAt key = s.slotAt key := by rw [State.slotAt, hslots, State.slotAt]
  have hpassed : (t.passWaiter v (key, r)).slotAt key = ((s.slotAt key).setG (Fin.ofNat 16 r) v).dropAhead.advance.completed := by
    have hplain : (t.slotAt key).stepDue = false := hat ▸ hstep
    rw [State.passWaiter, State.completeAt_plain _ hplain, State.slotAt_setSlot_self, hat]
    rfl
  have hctx : ((t.passWaiter v (key, r)).slotAt key).ctx = (s.slotAt key).ctx := by
    rw [hpassed]
    show (Slot.advance _).ctx = _
    rw [Slot.advance_eq]
    rfl
  rw [State.slotAt_tellSender st (hctx ▸ hc), hpassed]
  refine ⟨rfl, ?_⟩
  show (((s.slotAt key).setG (Fin.ofNat 16 r) v).dropAhead.advance).getG _ = v
  rw [Slot.getG_advance, Slot.getG_dropAhead, Slot.getG_setG_self]

/-- Settles O34: the instructions are `exec_binit_sets`, `exec_barr_sends`, `exec_bwait_fit` and their traps, an arrival is `Barrier.arrive_counts` or `Barrier.arrive_flips`, and BARRIER_ARRIVAL is `exec_barrierArrival`. -/
theorem barriers : Obligations.Barriers := by
  unfold Obligations.Barriers
  refine ⟨fun s a d n => ⟨exec_binit_range, exec_barr_range, fun hheld => ⟨fun hlow hhigh => exec_binit_unfit hlow hhigh (.inl hheld),
      fun hrange => exec_barr_unheld hrange hheld, exec_bwait_unfit (.inl hheld)⟩, fun hheld => ⟨fun hlow hhigh =>
      ⟨fun hidle => exec_binit_sets hlow hhigh hheld hidle.1 hidle.2, fun hbusy => exec_binit_unfit hlow hhigh (.inr hbusy)⟩,
      fun hrange hsb hack => ?_, fun hoff => exec_bwait_unfit (.inr hoff), fun hset hphase => ?_, fun hset hphase => ?_⟩⟩,
    fun x err bound => ⟨fun h => ⟨_, Barrier.arrive_counts err bound h, rfl, rfl, rfl, rfl, rfl⟩,
      fun h => ⟨_, Barrier.arrive_flips err bound h, rfl, rfl, rfl, rfl, rfl⟩⟩, fun s id m hm => ?_⟩
  · refine ⟨_, (exec_barr_sends hrange hheld hsb hack).trans (State.send_host _ rfl), ?_, ?_, rfl, rfl⟩
    · simp only [State.me, State.modSlot_cur, State.slotAt_modSlot_self]
    · simp only [State.me, State.modSlot_cur, State.slotAt_modSlot_self]
      rfl
  · rw [exec_bwait_fit hheld hset, if_pos hphase, Barrier.result_eq]
  · rw [exec_bwait_fit hheld hset, if_neg (not_not.mpr hphase)]
  · obtain ⟨t, hexec, hmem, hgone⟩ := exec_barrierArrival_frame hm
    refine ⟨t, hexec, hmem, hgone, fun htarget => ?_, fun htarget hin hcount => ?_, fun htarget hin hcount => ?_⟩
    all_goals rw [exec_barrierArrival hm] at hexec
    · rw [if_pos htarget] at hexec
      cases hexec
      exact ⟨fun kv hkv hc h0 => State.mem_tellSender _ hkv hc h0, (State.barriers_of_gates (State.tellSender_gates _ _ _)).trans rfl⟩
    · rw [if_neg htarget, State.arriveAt_counts (s := s.arrivalTaken id) m.err m.bound hcount] at hexec
      cases hexec
      have hslots := ((s.arrivalTaken id).counted_frame m.vd m.brick m.n m.err m.bound).2.1
      rw [State.barrier_of_gates (State.tellSender_gates _ _ _), State.barrier_counted (s := s.arrivalTaken id) hin,
        Barrier.arrive_counts (x := (s.arrivalTaken id).barrierOf m.vd m.brick m.n) m.err m.bound hcount]
      exact ⟨rfl, rfl, fun kv hkv hc h0 => State.mem_tellSender _ (hslots.symm ▸ hkv) hc h0⟩
    · rw [if_neg htarget] at hexec
      cases hexec
      have hslots := ((s.arrivalTaken id).counted_frame m.vd m.brick m.n m.err m.bound).2.1
      have hbarrier := State.barrier_counted (s := s.arrivalTaken id) (b := m.brick) hin m.err m.bound
      rw [Barrier.arrive_flips (x := (s.arrivalTaken id).barrierOf m.vd m.brick m.n) m.err m.bound hcount] at hbarrier
      rw [State.barrier_of_gates (State.tellSender_gates _ _ _), State.barrier_of_gates (State.arriveAt_gates _ _ _ _ _ _), hbarrier]
      refine ⟨rfl, rfl, fun key r hwaiters hstep hc => ?_⟩
      rw [State.arriveAt_flips (s := s.arrivalTaken id) hin m.err m.bound hcount, hbarrier, Barrier.result_eq,
        show (s.arrivalTaken id).barrierWaiters m.brick m.n = [(key, r)] from hwaiters]
      exact State.slotAt_passed _ hslots hstep hc

end Sys2Proof.Machine
end

section
/-!
SUPPORT. Contexts after a change of one of them, what MQDQ takes and the overflow area gives back, and how completion messages are sent and arrive; Inboxes is assembled from these.
-/
namespace Sys2Proof.Machine

/-! ### Contexts after a change of one of them -/

/-- What changing a context makes of a place that holds a context. -/
def changeCtx (c : Nat) (f : Slot → Slot) (kv : Nat × Slot) : Nat × Slot := (kv.1, if kv.2.ctx = c ∧ c ≠ 0 then f kv.2 else kv.2)
/-- Does a place hold the context of a number? -/
def holdsCtx (c : Nat) (kv : Nat × Slot) : Bool := decide (kv.2.ctx = c ∧ c ≠ 0)

section
variable {s : State} {c : Nat} {f : Slot → Slot}

/-- A change that keeps the number of a context is found where the context stood. -/
theorem find?_changeCtx (hf : ∀ k, (f k).ctx = k.ctx) (l : List (Nat × Slot)) :
    (l.map (changeCtx c f)).find? (holdsCtx c) = (l.find? (holdsCtx c)).map (changeCtx c f) := by
  have hsame : holdsCtx c ∘ changeCtx c f = holdsCtx c := funext fun kv => by
    simp only [Function.comp, holdsCtx, changeCtx]
    split
    · rw [hf]
    · rfl
  rw [List.find?_map, hsame]
theorem State.arriving_modCtx (s : State) (c : Nat) (f : Slot → Slot) : (s.modCtx c f).arriving = s.arriving.map (changeCtx c f) := by
  have hqueue : ∀ q : KMap (List Arrival), ((onArrivals q fun k => if k.ctx = c ∧ c ≠ 0 then f k else k).flatMap
      fun kv => kv.2.filterMap fun a => a.whole.map fun k => (kv.1, k)) =
      (q.flatMap fun kv => kv.2.filterMap fun a => a.whole.map fun k => (kv.1, k)).map (changeCtx c f) := fun q => by
    simp only [onArrivals, List.flatMap_map, List.map_flatMap, List.filterMap_map, List.map_filterMap]
    refine List.flatMap_congr fun kv _ => List.filterMap_congr fun a _ => ?_
    cases a <;> rfl
  show ((onArrivals s.arrivals _) ++ (onArrivals s.spills _)).flatMap _ = ((s.arrivals ++ s.spills).flatMap _).map _
  rw [List.flatMap_append, List.flatMap_append, List.map_append, hqueue, hqueue]
/-- A context that has been changed is found changed. -/
theorem State.ctxOf_modCtx {k : Slot} (hf : ∀ k, (f k).ctx = k.ctx) (hk : s.ctxOf c = some k) : (s.modCtx c f).ctxOf c = some (f k) := by
  have hplaces : (s.modCtx c f).slots ++ (s.modCtx c f).saved ++ (s.modCtx c f).held ++ (s.modCtx c f).orphans ++ (s.modCtx c f).arriving =
      (s.slots ++ s.saved ++ s.held ++ s.orphans ++ s.arriving).map (changeCtx c f) := by
    rw [State.arriving_modCtx, List.map_append, List.map_append, List.map_append, List.map_append]
    rfl
  obtain ⟨kv, hkv, rfl⟩ := Option.map_eq_some_iff.mp hk
  have hheld := List.find?_some hkv
  show (List.find? (holdsCtx c) _).map _ = _
  rw [hplaces, find?_changeCtx hf, show List.find? (holdsCtx c) _ = some kv from hkv]
  exact congrArg some (if_pos (of_decide_eq_true hheld))
theorem State.keyOf_modCtx (hf : ∀ k, (f k).ctx = k.ctx) : (s.modCtx c f).keyOf c = s.keyOf c := by
  show (List.find? (holdsCtx c) (s.slots.map (changeCtx c f))).map _ = _
  rw [find?_changeCtx hf, Option.map_map]
  rfl
theorem State.slotAt_modCtx (s : State) (c key : Nat) (f : Slot → Slot) :
    (s.modCtx c f).slotAt key = if (s.slotAt key).ctx = c ∧ c ≠ 0 then f (s.slotAt key) else s.slotAt key := by
  have hslots : (s.modCtx c f).slots = s.slots.map fun kv => (kv.1, if kv.2.ctx = c ∧ c ≠ 0 then f kv.2 else kv.2) := rfl
  unfold State.slotAt KMap.getD
  rw [hslots, KMap.find?_mapVals s.slots (fun _ k => if k.ctx = c ∧ c ≠ 0 then f k else k)]
  cases KMap.find? s.slots key with
  | none => exact (if_neg fun h => h.2 h.1.symm).symm
  | some k => rfl

end

/-! ### MQDQ and the overflow area (R166, R303) -/

theorem exec_mqdq_takes {s : State} {d : GReg} {e : InboxEntry} {rest : List InboxEntry} (h : s.me.inbox = e :: rest) :
    exec (.mqdq d) s = .next (s.after (s.me.dequeue d e)) := by
  show execMqdq d s = _
  simp only [execMqdq, h]
  rfl
theorem exec_mqdq_empty {s : State} {d : GReg} (h : s.me.inbox = []) : exec (.mqdq d) s =
    if s.me.hires = 0 ∧ s.me.engines = 0 then .next (s.trapAt s.cur .illegalOperand 0)
    else .next (s.setSlot s.cur { s.me with mode := .parked (.cond .inbox) }) := by
  have hempty : exec (.mqdq d) s = if s.me.hires = 0 ∧ s.me.engines = 0 then s.trap .illegalOperand 0 else s.waitFor .inbox := by
    show execMqdq d s = _
    simp only [execMqdq, h]
  exact hempty
theorem Slot.dropAhead_ahead (k : Slot) : ∀ p ∈ k.dropAhead.ports.toList, p.ahead = [] := by
  intro p hp
  simp only [Slot.dropAhead, Vector.toList_map, List.mem_map] at hp
  obtain ⟨q, -, rfl⟩ := hp
  rfl
/-- An entry enters the inbox, or the overflow area, and changes nothing else of its slot. -/
theorem Slot.addInbox_eq (k : Slot) (e : InboxEntry) :
    k.addInbox e = { k with inbox := (k.addInbox e).inbox, overflow := (k.addInbox e).overflow } := by
  unfold Slot.addInbox
  split <;> rfl
@[simp] theorem Slot.addInbox_ctx (k : Slot) (e : InboxEntry) : (k.addInbox e).ctx = k.ctx := by rw [k.addInbox_eq]
@[simp] theorem Slot.addInbox_mode (k : Slot) (e : InboxEntry) : (k.addInbox e).mode = k.mode := by rw [k.addInbox_eq]
@[simp] theorem Slot.addInbox_sstep (k : Slot) (e : InboxEntry) : (k.addInbox e).sstep = k.sstep := by rw [k.addInbox_eq]
/-- Moving on does not look at the inbox. -/
theorem Slot.advance_addInbox_pc (k : Slot) (e : InboxEntry) : (k.addInbox e).advance.pc = k.advance.pc := by
  have hpc : (k.addInbox e).pc = k.pc := by rw [k.addInbox_eq]
  have hframe : (k.addInbox e).frame = k.frame := by rw [k.addInbox_eq]
  simp only [Slot.advance, apply_ite Slot.pc, hpc, hframe]
section
variable {s u : State} {key : Nat} (hfull : (s.slotAt key).overflow ≠ []) (hroom : (s.slotAt key).inbox.length < 16)
include hfull hroom

/-- The oldest entry of an overflow area moves into an inbox with room when its passage ends. -/
theorem State.refillInbox_done (hpass : s.contextPassage mailIn (s.slotAt key).vd key (overflowAt (s.slotAt key).overflowPos) 16 none = (u, .done)) :
    s.refillInbox key 1 = u.modSlot key Slot.refill := by
  rw [State.refillInbox, if_neg (not_or.mpr ⟨hfull, Nat.not_le.mpr hroom⟩), hpass]
  rfl
theorem State.refillInbox_still (hpass : s.contextPassage mailIn (s.slotAt key).vd key (overflowAt (s.slotAt key).overflowPos) 16 none = (u, .still)) :
    s.refillInbox key 1 = u := by
  rw [State.refillInbox, if_neg (not_or.mpr ⟨hfull, Nat.not_le.mpr hroom⟩), hpass]

end

/-! ### Completion messages on their way (R108, R165, R211) -/

theorem State.entry?_modEntry {s : State} {id : Nat} {f : Entry → Entry} (hf : ∀ e, (f e).id = e.id) :
    (s.modEntry id f).entry? id = (s.entry? id).map f := by
  have hsame : ((fun e : Entry => decide (e.id = id)) ∘ fun e => if e.id = id then f e else e) = fun e => decide (e.id = id) :=
    funext fun e => by
      simp only [Function.comp]
      split
      · rw [hf]
      · rfl
  show List.find? _ (s.entries.map fun e => if e.id = id then f e else e) = _
  rw [List.find?_map, hsame, State.entry?]
  cases he : s.entries.find? fun e => decide (e.id = id) with
  | none => rfl
  | some e =>
    have hid := List.find?_some he
    exact congrArg some (if_pos (of_decide_eq_true hid))
/-- The machine once an entry has sent the completion message of its next hod. -/
def State.hodSent (s : State) (id : Nat) (e : Entry) (st v : Nat) : State :=
  ((s.modVd e.vd fun d => { d with hiresDone := d.hiresDone + 1 }).modEntry id fun e => { e with sent := e.sent + 1 }).post e.ctx
    (some e.lane) ⟨inboxWord (e.ticket + e.sent) e.lane st 1, wrap v⟩
theorem exec_hodComplete_sends {s u : State} {id st v : Nat} {e : Entry} (hu : u = s.land id) (he : u.entry? id = some e)
    (hst : KMap.find? e.statuses e.sent = some (st, v)) (hmay : u.maySend e = true) :
    exec (.hodComplete id) s = .next ((u.hodSent id e st v).land id) := by
  subst hu
  show execHodComplete id s = _
  simp only [execHodComplete, State.sendNext, he, hst, hmay, if_true]
  rfl

/-! ### Their arrival (R108, R166, R355) -/

/-- The machine once a message has entered the inbox of its context. -/
def State.mailed (s : State) (id : Nat) (m : InboxMsg) : State :=
  let t := s.modCtx m.ctx fun k => k.addInbox m.entry
  { t with inboxMsgs := t.inboxMsgs.filter fun x => decide (x.id ≠ id) }.leaveLanes

section
variable {s : State} {id : Nat} {m : InboxMsg}

/-- A message for a context with room enters its inbox at once. -/
theorem State.addMail_room {c : Nat} (e : InboxEntry) (h : ∀ k, s.ctxOf c = some k → k.overflow = [] ∧ k.inbox.length < 16) :
    s.addMail c e = (s.modCtx c fun k => k.addInbox e, false) := by
  unfold State.addMail
  split
  · next k _ hk _ => exact if_pos (h k hk)
  · rfl
/-- INBOX_ENTRY_ARRIVE of the first message of its lane, for a context with room: it enters, and ends a HALT. -/
theorem exec_inboxEntryArrive (hm : (s.inboxMsgs.find? fun m => decide (m.id = id)) = some m) (hfirst : s.laneFirst m = true)
    (hroom : ∀ k, s.ctxOf m.ctx = some k → k.overflow = [] ∧ k.inbox.length < 16) :
    exec (.inboxEntryArrive id) s = match s.keyOf m.ctx with
      | some key => if (s.slotAt key).mode = .parked (.cond .haltEnd)
        then .next ((s.mailed id m).completeAt key ((s.mailed id m).slotAt key).advance) else .next (s.mailed id m)
      | none => .next (s.mailed id m) := by
  have hkey : (s.mailed id m).keyOf m.ctx = s.keyOf m.ctx := State.keyOf_modCtx fun k => k.addInbox_ctx m.entry
  have hmode : ∀ key, ((s.mailed id m).slotAt key).mode = (s.slotAt key).mode := fun key => by
    show ((s.modCtx m.ctx fun k => k.addInbox m.entry).slotAt key).mode = _
    rw [State.slotAt_modCtx]
    split
    · exact Slot.addInbox_mode _ _
    · rfl
  show execInboxEntryArrive id s = _
  simp only [execInboxEntryArrive, hm, hfirst, if_true, State.addMail_room _ hroom]
  show (match (s.mailed id m).keyOf m.ctx with
    | some key => if ((s.mailed id m).slotAt key).mode = .parked (.cond .haltEnd)
      then .next ((s.mailed id m).completeAt key ((s.mailed id m).slotAt key).advance) else .next (s.mailed id m)
    | none => .next (s.mailed id m) : Out) = _
  rw [hkey]
  cases s.keyOf m.ctx with
  | none => rfl
  | some key => simp only [hmode]
/-- What a message leaves as it enters an inbox: every byte, and no message of its number. -/
theorem State.mailed_frame (s : State) (id : Nat) (m : InboxMsg) : (s.mailed id m).mem = s.mem ∧ ∀ x ∈ (s.mailed id m).inboxMsgs, x.id ≠ id :=
  ⟨rfl, fun _ hx => of_decide_eq_true (List.mem_filter.mp hx).2⟩

end

/-- Settles O32: MQDQ is `exec_mqdq_takes` and `exec_mqdq_empty`, the overflow area is `State.refillInbox_done`, messages are sent by `exec_hodComplete_sends` and arrive by `exec_inboxEntryArrive`. -/
theorem inboxes : Obligations.Inboxes := by
  unfold Obligations.Inboxes
  refine ⟨fun s d e rest => ⟨fun h => ?_, fun h hhires hengines => ?_, fun h hbusy => ?_⟩, ⟨fun k e => ⟨fun hempty hroom => if_pos ⟨hempty, hroom⟩,
      fun h => if_neg fun hroom => h.elim (fun hover => hover hroom.1) fun hfull => Nat.not_lt.mpr hfull hroom.2⟩,
      fun s u key e rest p hover hroom hpass hu => ⟨fun hp => ?_, fun hp => ?_⟩⟩, fun s u id st v e hu he hst hmay => ?_, fun s id m hm hfirst h0 hroom => ⟨fun hmode => ?_, fun key hkey hctx hmode hsstep => ?_⟩⟩
  · refine ⟨_, exec_mqdq_takes h, ?_, rfl, ?_, rfl, rfl, rfl, Slot.dropAhead_ahead _, fun r hr => ?_, rfl, rfl, rfl, rfl, rfl, rfl, rfl⟩
    · rw [Slot.dequeue, Slot.getG_dropAhead, Slot.getG_setG_self]
    · show s.me.inbox.drop 1 = rest
      rw [h]
      rfl
    · rw [Slot.dequeue, Slot.getG_dropAhead, Slot.getG_setG_ne _ _ hr]
      rfl
  · rw [exec_mqdq_empty h, if_pos ⟨hhires, hengines⟩]
  · rw [exec_mqdq_empty h, if_neg (by omega)]
  · have hfull : (s.slotAt key).overflow ≠ [] := hover ▸ List.cons_ne_nil e rest
    rw [State.refillInbox_done hfull hroom (hp ▸ hpass), State.slotAt_modSlot_self, hu]
    simp [Slot.refill, hover]
  · exact State.refillInbox_still (hover ▸ List.cons_ne_nil e rest) hroom (hp ▸ hpass)
  · refine ⟨u.hodSent id e st v, _, exec_hodComplete_sends hu he hst hmay, rfl, rfl, rfl, rfl, rfl, rfl, ?_⟩
    have hentry := State.entry?_modEntry (s := u.modVd e.vd fun d => { d with hiresDone := d.hiresDone + 1 }) (id := id)
      (f := fun e => { e with sent := e.sent + 1 }) fun _ => rfl
    rw [show (u.modVd e.vd fun d => { d with hiresDone := d.hiresDone + 1 }).entry? id = some e from he] at hentry
    exact congrArg (Option.map (·.sent)) hentry
  · have hexec : exec (.inboxEntryArrive id) s = .next (s.mailed id m) := by
      rw [exec_inboxEntryArrive hm hfirst hroom]
      cases hkey : s.keyOf m.ctx with
      | none => rfl
      | some key => exact if_neg fun h => hmode (by rw [hkey]; exact congrArg some h)
    obtain ⟨hmem, hgone⟩ := s.mailed_frame id m
    exact ⟨_, hexec, hmem, hgone, fun kv hkv hctx => State.mem_slots_modCtx (fun k => k.addInbox m.entry) hkv hctx h0,
      fun kv hkv hctx => List.mem_map.mpr ⟨kv, hkv, by simp [hctx, h0]⟩⟩
  · have hexec := exec_inboxEntryArrive hm hfirst hroom
    simp only [hkey, hmode, if_true] at hexec
    have hslot : (s.mailed id m).slotAt key = (s.slotAt key).addInbox m.entry := by
      show (s.modCtx m.ctx fun k => k.addInbox m.entry).slotAt key = _
      rw [State.slotAt_modCtx, if_pos ⟨hctx, h0⟩]
    have hstep : ((s.mailed id m).slotAt key).stepDue = false := by
      rw [hslot, Slot.stepDue, Slot.addInbox_sstep, hsstep, Bool.false_and]
    refine ⟨_, hexec, ?_⟩
    rw [State.completeAt_plain _ hstep, State.slotAt_setSlot_self, hslot]
    refine ⟨rfl, Slot.advance_addInbox_pc _ _, ?_⟩
    show (Slot.advance _).inbox = _
    rw [Slot.advance_eq]

end Sys2Proof.Machine
end

section
/-!
SUPPORT. How stores enter the store buffer, how the oldest entry of a context departs, how a store is performed at a bank, and what its acknowledgement frees; StoresReachMemory is assembled from these.
-/
namespace Sys2Proof.Machine

/-! ### Into the store buffer (R151, R278) -/

section
variable {s : State}

/-- A buffered store, as it enters. -/
def State.newEntry (s : State) (ea : Word) (n : Nat) (d : Line) : SbEntry := ⟨s.nextId, ea, n, d, s.me.level, s.me.space, none, 0, none, false, none⟩
/-- A port without the lines that a store to an address discards (R159). -/
def State.dropEntry (s : State) (ea : Word) (x : Port) : Port :=
  { x with ahead := x.ahead.filter fun l => !(s.sameLine s.me s.brick ea (wrap l.1))
           asked := x.asked.filter fun a => !(s.sameLine s.me s.brick ea (wrap a)) }
/-- A store that enters the buffer adds its entry, and discards what ports hold of its line. -/
theorem State.me_buffer (s : State) (ea : Word) (n : Nat) (d : Line) : (s.buffer ea n d).me =
    { s.me with sb := s.me.sb ++ [s.newEntry ea n d], ports := s.me.ports.map (s.fresh.2.dropEntry ea) } :=
  State.slotAt_modSlot_self _ _ _
/-- A store with a sound address and a free entry is buffered and completes. -/
theorem State.storeValue_buffers {ea : Word} {n : Nat} (v : Line) (hfault : addrFault s.brick ea n = none) (hfree : s.entryFree s.cur = true) :
    s.storeValue ea n v = .next ((s.buffer ea n (firstBytes v n)).after (s.buffer ea n (firstBytes v n)).me) := by
  simp only [State.storeValue, hfault, hfree, if_true]
  rfl
/-- A store with a sound address and no free entry waits for one. -/
theorem State.storeValue_waits {ea : Word} {n : Nat} (v : Line) (hfault : addrFault s.brick ea n = none) (hfull : s.entryFree s.cur = false) :
    s.storeValue ea n v = .next (s.setSlot s.cur { s.me with mode := .parked (.cond (.storeEntry s.me.sb.length)) }) := by
  simp only [State.storeValue, hfault, hfull, Bool.false_eq_true, if_false]
  rfl
/-- ST of a valid w register that is no port buffers its line. -/
theorem exec_st_line {r b : GReg} {i : BitVec 14} (hu : s.me.unbound) (hvalid : s.me.wValid (Fin.ofNat 8 r.val) = true)
    (hfault : addrFault s.brick (eaM s.me b i) 64 = none) (hfree : s.entryFree s.cur = true) : exec (.st .l r b i) s =
      .next ((s.buffer (eaM s.me b i) 64 s.me.w[(Fin.ofNat 8 r.val : WReg)]).after
        (s.buffer (eaM s.me b i) 64 s.me.w[(Fin.ofNat 8 r.val : WReg)]).me) := by
  have hsource : s.me.valid [toW r] := List.forall_mem_singleton.mpr hvalid
  obtain ⟨h0, h1, -⟩ := id hu
  show execSt .l r b i s = _
  rw [execSt, if_pos rfl, State.wChecks_plain _ _ hu hsource]
  simp only [hfault, hfree, Bool.not_true, Bool.false_eq_true, if_false, Slot.popsOf_unbound h0 h1, State.popping, State.reachPops,
    State.popAll, ne_eq, not_true_eq_false]
  rfl

end

/-! ### The oldest entry departs (R133, R152, R153) -/

section
variable {s u : State} {ctx key : Nat} {k : Slot} {e : SbEntry}

/-- A context whose only entry has no place has that entry translated. -/
theorem State.translateOldest_one (hk : s.ctxOf k.ctx = some k) (hsb : k.sb = [e]) (hplace : e.place = none) (hdemand : e.demand = none) :
    s.translateOldest key k = s.translateEntry key k e := by
  simp [State.translateOldest, State.translateNext, Slot.heldBack, hk, hsb, hplace, hdemand]
theorem State.departOldest_unplaced (hk : s.ctxOf ctx = some k) (hsb : k.sb = [e]) (hplace : e.place = none) (hbuffered : e.departed = false) :
    s.departOldest key ctx = s := by
  simp [State.departOldest, hk, hsb, hplace, hbuffered]
/-- An entry with no earlier one departs, unless it goes beyond the die and no acknowledgement can be counted (R153). -/
theorem State.canDepart_one {b : Nat} {p : Place} (hsb : k.sb = [e]) (hgo : scopeFrom b p = .die ∨ k.ackcnt < 65535) :
    s.canDepart k e b p = true := by
  by_cases hdie : scopeFrom b p = .die
  · simp [State.canDepart, hsb, hdie]
  · simp [State.canDepart, hdie, hgo.resolve_left hdie]
/-- The message of a store that departs. -/
def State.storeMsg (s : State) (key : Nat) (k : Slot) (e : SbEntry) (p : Place) : Msg :=
  ⟨e.id, k.ctx, key, k.vd, k.region, .store, e.ea, e.size, e.data, p, e.win, s.homeBrick p, scopeFrom (key / 8) p, e.level, e.space, none, false⟩
/-- A context once an entry has departed to a home. -/
def Slot.departs (k : Slot) (e : SbEntry) (home : Option Nat) (sc : Scope) : Slot :=
  { k.modSb e.id fun e => { e with home := home, departed := true } with ackcnt := if sc = .die then k.ackcnt else k.ackcnt + 1 }
theorem State.depart_goes {p : Place} (h : s.canDepart k e (key / 8) p = true) : s.depart key k e p =
    ({ s with msgs := s.msgs ++ [s.storeMsg key k e p] }.cross p (leBytes e.size e.data.toNat)).modCtx k.ctx fun k =>
      k.departs e (s.homeBrick p) (scopeFrom (key / 8) p) := if_pos h
theorem State.departOldest_goes {p : Place} (hk : s.ctxOf ctx = some k) (hsb : k.sb = [e]) (hplace : e.place = some p) (hbuffered : e.departed = false)
    (hgo : scopeFrom (key / 8) p = .die ∨ k.ackcnt < 65535) : s.departOldest key ctx =
    ({ s with msgs := s.msgs ++ [s.storeMsg key k e p] }.cross p (leBytes e.size e.data.toNat)).modCtx k.ctx fun k =>
      k.departs e (s.homeBrick p) (scopeFrom (key / 8) p) := by
  rw [← State.depart_goes (State.canDepart_one hsb hgo)]
  simp [State.departOldest, hk, hsb, hplace, hbuffered]
theorem State.ctxOf_cross (s : State) (p : Place) (bs : List Byte) (c : Nat) : (s.cross p bs).ctxOf c = s.ctxOf c := by cases p <;> rfl
theorem State.mem_cross (s : State) (p : Place) (bs : List Byte) : (s.cross p bs).mem = s.mem := by cases p <;> rfl
theorem State.msgs_cross (s : State) (p : Place) (bs : List Byte) : (s.cross p bs).msgs = s.msgs := by cases p <;> rfl
theorem State.ctxOf_departs {p : Place} {ctx : Nat} {home : Option Nat} {sc : Scope} (hk : s.ctxOf ctx = some k) (hctx : k.ctx = ctx) (m : Msg) (bs : List Byte) :
    ((({ s with msgs := s.msgs ++ [m] }.cross p bs).modCtx k.ctx fun k => k.departs e home sc)).ctxOf ctx = some (k.departs e home sc) := by
  rw [hctx]
  exact State.ctxOf_modCtx (fun _ => rfl) ((State.ctxOf_cross _ p bs ctx).trans hk)
/-- A walk that waits leaves the entry as it is (R21). -/
theorem State.translateEntry_waits {q : Place} (hwalk : s.walk ⟨e.id, key / 8, k.vd, e.space, e.level⟩ e.ea = (u, some q)) :
    s.translateEntry key k e = u := by
  simp only [State.translateEntry, hwalk]
/-- A context once translation has given an entry its place. -/
def Slot.places (k : Slot) (e : SbEntry) (p : Place) (win : Nat) : Slot := k.modSb e.id fun e => { e with place := some p, win := win }
theorem State.translateEntry_places {p : Place} {win : Nat} (hwalk : s.walk ⟨e.id, key / 8, k.vd, e.space, e.level⟩ e.ea = (u, none))
    (hplace : u.resolve (key / 8) k.vd e.space e.level e.ea .write = .ok p win) : s.translateEntry key k e =
      (u.translated (key / 8) k.vd e.space e.level e.ea .write).modCtx k.ctx fun k => k.places e p win := by
  simp only [State.translateEntry, hwalk, hplace]
  rfl
theorem State.translateEntry_demands {ipa : Nat} (hwalk : s.walk ⟨e.id, key / 8, k.vd, e.space, e.level⟩ e.ea = (u, none))
    (hplace : u.resolve (key / 8) k.vd e.space e.level e.ea .write = .demand ipa) : s.translateEntry key k e =
      (u.postDemand k.vd ipa e.ea (.store k.ctx e.id)).modCtx k.ctx fun k => k.modSb e.id fun e => { e with demand := some u.nextId } := by
  simp only [State.translateEntry, hwalk, hplace]
theorem Slot.modSb_one {k : Slot} {e : SbEntry} (hsb : k.sb = [e]) (f : SbEntry → SbEntry) : (k.modSb e.id f).sb = [f e] := by
  simp [Slot.modSb, hsb]
/-- STORE_DEPART of a context whose partition has not stowed its stores: the oldest entries are translated, and the oldest goes if it can. -/
theorem exec_storeDepart (hk : s.ctxOf ctx = some k) (hkey : s.homeKey ctx = some key) (hstay : s.storesStay ctx = false) :
    exec (.storeDepart ctx) s = .next ((s.translateOldest key k).departOldest key ctx) := by
  show execStoreDepart ctx s = _
  simp only [execStoreDepart, hk, hkey, hstay, Bool.false_eq_true, if_false]
/-- A translation moves no context. -/
theorem State.ctxOf_translated (s : State) (brick vd : Nat) (space : BitVec 12) (l : Level) (ea : Word) (a : Access) (c : Nat) :
    (s.translated brick vd space l ea a).ctxOf c = s.ctxOf c := by
  obtain ⟨m, n, h⟩ := s.translated_caches brick vd space l ea a
  rw [h]
  rfl

end

/-! ### At its home (R2, R154) -/

/-- A sub-bank that serves its partition is not closing (R135). -/
theorem State.closing_of_sram {s : State} {vd b off : Nat} (h : s.sramFault vd b off = none) : s.closing (.sram b off) = false := by
  have halloc : (s.subBank b (off / 2 ^ 16)).alloc = true := by
    by_contra hoff
    simp only [Bool.not_eq_true] at hoff
    simp only [State.sramFault, hoff] at h
    split at h
    · cases h
    · split at h <;> simp at h
  simp only [State.closing, halloc, Bool.not_true, Bool.false_and]
theorem State.sramFault_of_home {s : State} {vd win b off n : Nat} {wr whole : Bool} (h : s.homeFault vd win (.sram b off) n wr whole = none) :
    s.sramFault vd b off = none := by
  cases hf : s.sramFault vd b off with
  | none => rfl
  | some c => simp [State.homeFault, hf] at h
/-- An access that memory can serve, at a sub-bank that is not closing, is served and leaves the order of arrival (R21). -/
theorem State.inTurn_serves {s t : State} {token : Nat} {p : Place} {f : State → State} (ht : f s = t) (hfree : s.blocked token p = false)
    (hopen : s.closing p = false) : s.inTurn token p f = t ∨ s.inTurn token p f = t.unstall token := by
  simp only [State.inTurn, hfree, Bool.false_and, Bool.false_eq_true, if_false, State.accepted, hopen, ht]
  split
  · exact .inr rfl
  · exact .inl rfl
/-- The machine once a store has been performed at its place. -/
def State.stored (s : State) (m : Msg) : State :=
  ((s.poke (kidOf m.vd m.win) m.place (leBytes m.size m.data.toNat)).touch m.place).modMsg m.id fun m => { m with performed := true }
/-- STORE_AT_HOME at a bank that can serve, with no fault there: the store is performed. -/
theorem exec_storeAtHome {s : State} {id b off : Nat} {m : Msg} (hm : (s.msgs.find? fun m => decide (m.id = id ∧ m.kind = .store)) = some m)
    (hfree : s.msgFree m = true) (hplace : m.place = .sram b off) (hserves : s.blocked id m.place = false)
    (hfault : s.homeFault m.vd m.win m.place m.size true (decide (m.size = 64)) = none) :
    exec (.storeAtHome id .sound) s = .next (s.stored m) ∨ exec (.storeAtHome id .sound) s = .next ((s.stored m).unstall id) := by
  have hfound := List.find?_some hm
  obtain ⟨hid, hkind⟩ := of_decide_eq_true hfound
  have hopen : s.closing m.place = false := by
    rw [hplace] at hfault ⊢
    exact State.closing_of_sram (State.sramFault_of_home hfault)
  have hmedia : s.media m.vd m.win m.place m.size true (decide (m.size = 64)) .sound = s := by
    rw [hplace]
    exact ite_self s
  have hlink : s.linkDown m.place = false := by rw [hplace]; rfl
  have hexec : exec (.storeAtHome id .sound) s = .next (s.msgPerform m .sound) := by
    show execStoreAtHome id .sound s = _
    simp only [execStoreAtHome, hm, hfree, if_true]
  subst hid
  rw [hexec, State.msgPerform, if_neg (by simp [hlink])]
  refine (State.inTurn_serves (t := s.stored m) ?_ hserves hopen).imp (congrArg Host.Outcome.next) (congrArg Host.Outcome.next)
  simp only [hmedia, hkind, State.writeAt, hfault]
  rfl
/-- What a performed store leaves: its bytes at its place, lowest address first, every other byte, the slots and the words' bits; its message is performed. -/
theorem State.stored_sram {s : State} {b off : Nat} {m : Msg} (hwf : Memory.wf s.mem = true) (hplace : m.place = .sram b off) :
    Mem.readBytes (s.stored m).mem (bankAddr b off) m.size = leBytes m.size m.data.toNat ∧
    (∀ a, a < bankAddr b off ∨ bankAddr b off + m.size ≤ a → Mem.read (s.stored m).mem a = Mem.read s.mem a) ∧
    (s.stored m).slots = s.slots ∧ (s.stored m).fe = s.fe ∧ ∀ x ∈ (s.stored m).msgs, x.id = m.id → x.performed = true := by
  have hmem : (s.stored m).mem = Mem.writeBytes s.mem (bankAddr b off) (leBytes m.size m.data.toNat) := by
    rw [State.stored, hplace]
    rfl
  have hlen := leBytes_length m.size m.data.toNat
  rw [hmem]
  refine ⟨?_, fun a ha => Mem.read_writeBytes_ne _ _ (by rwa [hlen]), ?_, ?_, fun x hx hid => ?_⟩
  · have hread := Mem.readBytes_writeBytes (leBytes m.size m.data.toNat) (bankAddr b off) hwf
    rwa [hlen] at hread
  · rw [State.stored, hplace]; rfl
  · rw [State.stored, hplace]; rfl
  · obtain ⟨y, -, rfl⟩ := List.mem_map.mp hx
    split at hid
    · next hy => rw [if_pos hy]
    · next hy => exact absurd hid hy

/-! ### The acknowledgement (R145, R151) -/

/-- The machine once the acknowledgement of a write has arrived. -/
def State.ackTaken (s : State) (id : Nat) (m : Msg) : State :=
  ({ s with msgs := s.msgs.filter fun x => decide (x.id ≠ id) }.modCtx m.ctx fun k => k.acked m).dropOrphans
theorem exec_ackArrive {s : State} {id : Nat} {m : Msg} (hm : (s.msgs.find? fun m => decide (m.id = id ∧ m.performed = true)) = some m) :
    exec (.ackArrive id) s = .next (s.ackTaken id m) := by
  show execAckArrive id s = _
  simp only [execAckArrive, hm]
  rfl

/-- Settles O25: stores are buffered by `State.storeValue_buffers`, depart by `State.departOldest_goes`, are performed by `exec_storeAtHome` as `State.stored_sram` says, and acknowledged by `exec_ackArrive`. -/
theorem storesReachMemory : Obligations.StoresReachMemory := by
  unfold Obligations.StoresReachMemory
  refine ⟨fun s b r i v z j => ?_, fun s u ctx key k e w hk hctx h0 hkey hstay hsb hplace hbuffered hdemand hwalk hu => ?_,
    fun s id b off m hwf hm hfree hplace hserves hfault => ?_, fun s id key m k hm h0 hk hctx => ?_⟩
  · have hframe : ∀ (ea : Word) (n : Nat) (d : Line), (s.buffer ea n d).mem = s.mem ∧ (s.buffer ea n d).me.g = s.me.g ∧
        (s.buffer ea n d).me.w = s.me.w ∧ (s.buffer ea n d).me.z = s.me.z ∧ (s.buffer ea n d).me.sb = s.me.sb ++ [s.newEntry ea n d] :=
      fun ea n d => by
        rw [State.me_buffer]
        exact ⟨rfl, rfl, rfl, rfl, rfl⟩
    refine ⟨fun hfree => ⟨fun m hm hfault => ⟨?_, hframe _ _ _⟩, fun hunbound hvalid hfault => ⟨?_, hframe _ _ _⟩,
      fun m hfault => ⟨?_, hframe _ _ _⟩, fun hvalid hfault => ⟨?_, hframe _ _ _⟩, fun hok hfault => ⟨?_, hframe _ _ _⟩⟩,
      fun hfull => ⟨fun m hm hfault => ?_, fun m hfault => ?_⟩⟩
    · exact (if_neg hm).trans (State.storeValue_buffers _ hfault hfree)
    · exact exec_st_line hunbound hvalid hfault hfree
    · exact State.storeValue_buffers _ hfault hfree
    · exact (if_neg (by simp [hvalid])).trans (State.storeValue_buffers _ hfault hfree)
    · exact (if_neg (by simpa [GReg.plus] using hok)).trans (State.storeValue_buffers _ hfault hfree)
    · exact (if_neg hm).trans (State.storeValue_waits _ hfault hfull)
    · exact State.storeValue_waits _ hfault hfull
  · have hexec := exec_storeDepart hk hkey hstay
    subst hctx
    rw [State.translateOldest_one hk hsb hplace hdemand] at hexec
    refine ⟨fun q hq => ?_, fun p win hw hresolve hgo => ?_, fun ipa hw hresolve => ?_⟩
    · rw [hq] at hwalk
      rw [hexec, State.translateEntry_waits hwalk, State.departOldest_unplaced hu hsb hplace hbuffered]
    · rw [hw] at hwalk
      have hplaced : ((u.translated (key / 8) k.vd e.space e.level e.ea .write).modCtx k.ctx fun k => k.places e p win).ctxOf k.ctx =
          some (k.places e p win) := State.ctxOf_modCtx (fun _ => rfl) ((u.ctxOf_translated _ _ _ _ _ _ _).trans hu)
      have hsb' := Slot.modSb_one hsb fun e => { e with place := some p, win := win }
      rw [State.translateEntry_places hwalk hresolve, State.departOldest_goes hplaced hsb' rfl hbuffered hgo] at hexec
      obtain ⟨caches, n, hcaches⟩ := u.translated_caches (key / 8) k.vd e.space e.level e.ea .write
      have hhome : ((u.translated (key / 8) k.vd e.space e.level e.ea .write).modCtx k.ctx fun k => k.places e p win).homeBrick p =
          u.homeBrick p := by
        rw [hcaches]
        cases p <;> rfl
      refine ⟨_, _, hexec, ?_, ?_, State.ctxOf_departs hplaced rfl _ _, rfl, ?_, rfl⟩
      · refine (State.mem_cross _ p _).trans ?_
        rw [hcaches]
        rfl
      · refine (State.msgs_cross _ p _).trans ?_
        rw [State.storeMsg, hhome, hcaches]
        rfl
      · rw [hhome]
        exact Slot.modSb_one hsb' _
    · rw [hw] at hwalk
      have hheld : ((u.postDemand k.vd ipa e.ea (.store k.ctx e.id)).modCtx k.ctx fun k => k.modSb e.id fun e => { e with demand := some u.nextId }).ctxOf
          k.ctx = some (k.modSb e.id fun e => { e with demand := some u.nextId }) := State.ctxOf_modCtx (fun _ => rfl) hu
      have hsb' := Slot.modSb_one hsb fun e => { e with demand := some u.nextId }
      rw [State.translateEntry_demands hwalk hresolve, State.departOldest_unplaced hheld hsb' hplace hbuffered] at hexec
      exact ⟨_, _, hexec, rfl, rfl, rfl, hheld, hsb'⟩
  · obtain ⟨hbytes, hothers, hslots, hfe, hmsgs⟩ := State.stored_sram hwf hplace
    have hfound := List.find?_some hm
    have hid : m.id = id := (of_decide_eq_true hfound).1
    rw [hid] at hmsgs
    rcases exec_storeAtHome hm hfree hplace hserves hfault with hexec | hexec
    · exact ⟨_, hexec, hbytes, hothers, hslots, hfe, hmsgs⟩
    · exact ⟨_, hexec, hbytes, hothers, hslots, hfe, hmsgs⟩
  · exact ⟨_, k.acked m, exec_ackArrive hm, State.mem_slots_modCtx (fun k => k.acked m) hk hctx h0, rfl, rfl, rfl, rfl,
      fun x hx => of_decide_eq_true (List.mem_filter.mp hx).2⟩

end Sys2Proof.Machine
end

section
/-!
SUPPORT. Lines of bytes and of lanes, the checks of an instruction whose one wide source is a port, what pops in memory and queue-fed mode leave, pushes, and bound ports; StreamsAndZWords is assembled from these.
-/
namespace Sys2Proof.Machine

/-! ### Lines of bytes and of lanes -/

/-- The lowest lanes of a line add up to its low bits. -/
theorem lanesSum_lane_self (l : Line) (e n : Nat) : lanesSum e (lane l e) n = l.toNat % 2 ^ (e * n) := by
  induction n with
  | zero => simp [lanesSum, Nat.mod_one]
  | succ n ih =>
    rw [lanesSum, ih, lane, Nat.mod_mod, Nat.mul_succ, Nat.pow_add, Nat.mod_mul, Nat.mul_comm (2 ^ (e * n))]
theorem toNat_lt_of_width {w n : Nat} (v : BitVec w) (h : n = w) : v.toNat < 2 ^ n := h ▸ v.isLt
theorem eltBits_lanes (f : Elt) : eltBits f * (512 / eltBits f) = 512 := by cases f <;> rfl
/-- A line is what its lanes make, at every format. -/
theorem map1_id (f : Elt) (l : Line) : map1 (eltBits f) id l = l := by
  show BitVec.ofNat 512 (lanesSum (eltBits f) (lane l (eltBits f)) (512 / eltBits f)) = l
  rw [lanesSum_lane_self, Nat.mod_eq_of_lt (toNat_lt_of_width l (eltBits_lanes f)), BitVec.ofNat_toNat, BitVec.setWidth_eq]
/-- The first bytes of a number. -/
theorem leNat_take (n : Nat) : ∀ bs : List Byte, leNat (bs.take n) = leNat bs % 256 ^ n := by
  induction n with
  | zero => exact fun bs => (Nat.mod_one _).symm
  | succ n ih =>
    intro bs
    cases bs with
    | nil => simp [leNat]
    | cons b rest =>
      have hb := b.isLt
      rw [List.take_succ_cons, leNat, leNat, ih, Nat.pow_succ, Nat.mul_comm (256 ^ n), Nat.mod_mul,
        Nat.add_mul_mod_self_left, Nat.mod_eq_of_lt hb, Nat.add_mul_div_left _ _ (by norm_num), Nat.div_eq_of_lt hb, Nat.zero_add]
theorem pow_256 (n : Nat) : 256 ^ n = 2 ^ (8 * n) := (Nat.pow_mul 2 8 n).symm
/-- The first bytes of a line of bytes. -/
theorem firstBytes_bytesLine {bs : List Byte} (n : Nat) (h : bs.length ≤ 64) : firstBytes (bytesLine bs) n = bytesLine (bs.take n) := by
  have hlt : leNat bs < 2 ^ (8 * 64) := calc
    leNat bs < 256 ^ bs.length := leNat_lt bs
    _ ≤ 256 ^ 64 := Nat.pow_le_pow_right (by norm_num) h
    _ = 2 ^ (8 * 64) := pow_256 64
  have hline : (bytesLine bs).toNat = leNat bs := toNat_ofNat_of_fits (by decide) hlt
  rw [firstBytes, hline, bytesLine, leNat_take, pow_256]

/-! ### The checks of an instruction whose one source is a port or a register below the ports (R157, R158, R307) -/

theorem inputPort : ∀ p : Fin 3, p ≠ 2 → p = 0 ∨ p = 1 := by decide
theorem portReg_val : ∀ p : Fin 3, (portReg p).val = 5 + p.val := by decide

section
variable {k : Slot} {p : Fin 3} {r : WReg}

theorem Slot.portOf_low (h : r.val < 5) : k.portOf r = none := by
  unfold Slot.portOf
  rw [if_neg, if_neg, if_neg]
  all_goals
    rintro ⟨rfl, -⟩
    exact absurd h (by decide)
theorem Slot.popsOf_low (h : r.val < 5) : k.popsOf [r] = [] := by
  have hne : ∀ p : Fin 3, portReg p ≠ r := fun p he => by
    have hval := portReg_val p
    rw [he] at hval
    omega
  simp [Slot.popsOf, hne]
theorem Slot.portOf_portReg (hin : p ≠ 2) (hbound : k.ports[p].bound = true) : k.portOf (portReg p) = some p := by
  obtain rfl | rfl := inputPort p hin
  · exact if_pos ⟨rfl, hbound⟩
  · exact (if_neg fun h => absurd h.1 (by decide)).trans (if_pos ⟨rfl, hbound⟩)
theorem Slot.popsOf_portReg (hin : p ≠ 2) (hbound : k.ports[p].bound = true) : k.popsOf [portReg p] = [p] := by
  have hne : portReg 0 ≠ portReg 1 := by decide
  obtain rfl | rfl := inputPort p hin
  · have hport : k.ports[0].bound = true := hbound
    simp [Slot.popsOf, List.filter, hport, hne.symm]
  · have hport : k.ports[1].bound = true := hbound
    simp [Slot.popsOf, List.filter, hport, hne]

end

section
variable {s : State} {p : Fin 3} {d : WReg} {f : (WReg → Line) → Line}

/-- With a bound input port that is not at its end as its one source, and a destination below the ports, a wide instruction pops, and gives the destination its value. -/
theorem State.wideTo_pops (hin : p ≠ 2) (hbound : s.me.ports[p].bound = true) (hrem : s.me.ports[p].rem ≠ 0) (hd : d.val < 5) :
    s.wideTo [portReg p] d f = s.popping [p] fun popped t => .next (t.after (t.me.setW d (f (srcValue s.me popped)))) := by
  have hd7 : d ≠ 7 := by rintro rfl; exact absurd hd (by decide)
  have hstale : s.me.staleW [portReg p] = none := by simp [Slot.staleW, Slot.portOf_portReg hin hbound]
  have hsource : ([portReg p].find? fun (r : WReg) => decide (r = 7 ∧ s.me.ports[2].bound)) = none := by
    have hne : portReg p ≠ 7 := by
      obtain rfl | rfl := inputPort p hin
      all_goals decide
    simp [hne]
  have hillegal : s.me.illegalW [portReg p] (some d) = none := by
    unfold Slot.illegalW
    rw [hsource]
    exact if_neg fun h => by simp [Slot.portOf_low hd] at h
  have hpush : s.me.pushes (some d) = false := by simp [Slot.pushes, hd7]
  have hend : s.me.streamEnd [portReg p] (some d) = none := by
    rw [Slot.streamEnd, Slot.popsOf_portReg hin hbound, hpush, List.find?_cons, decide_eq_false hrem]
    rfl
  simp only [State.wideTo, State.wideRun, State.wChecks, State.wLegal, State.notAtEnd, State.pushGuard, hstale, hillegal, hpush, hend,
    Slot.popsOf_portReg hin hbound, Bool.false_eq_true, if_false, Bool.false_and]
  rfl
/-- With a valid register below the ports as its one source, and the bound port 2 with room as its destination, a wide instruction pushes its value. -/
theorem State.wideTo_pushes {a : WReg} (ha : a.val < 5) (hvalid : s.me.wValid a = true) (hbound : s.me.ports[(2 : Fin 3)].bound = true)
    (hrem : s.me.ports[(2 : Fin 3)].rem ≠ 0) (hfault : pushFault s.brick s.me.ports[(2 : Fin 3)] = none) (hfree : s.entryFree s.cur = true) :
    s.wideTo [a] 7 f = .next ((s.push (f fun r => s.me.w[r])).after (s.push (f fun r => s.me.w[r])).me) := by
  have ha7 : a ≠ 7 := by rintro rfl; exact absurd ha (by decide)
  have hstale : s.me.staleW [a] = none := by simp [Slot.staleW, hvalid]
  have hsource : ([a].find? fun (r : WReg) => decide (r = 7 ∧ s.me.ports[2].bound)) = none := by simp [ha7]
  have hillegal : s.me.illegalW [a] (some 7) = none := by
    unfold Slot.illegalW
    rw [hsource]
    exact if_neg fun h => absurd h.1 (by decide)
  have hpush : s.me.pushes (some 7) = true := by
    rw [Slot.pushes, decide_eq_true rfl, Bool.true_and]
    exact hbound
  have hend : s.me.streamEnd [a] (some 7) = none := by
    have hroom : decide (s.me.ports[2].rem = 0) = false := decide_eq_false hrem
    rw [Slot.streamEnd, Slot.popsOf_low ha, hpush, hroom]
    rfl
  simp only [State.wideTo, State.wideRun, State.wChecks, State.wLegal, State.notAtEnd, State.pushGuard, hstale, hillegal, hpush, hend,
    hfault, hfree, Slot.popsOf_low ha, State.popping, State.reachPops, State.popAll, Bool.not_true, Bool.and_false, Bool.false_eq_true,
    if_false, if_true, ne_eq, not_true_eq_false]
  rfl

end

end Sys2Proof.Machine
end

section
/-!
SUPPORT. What pops in memory and queue-fed mode leave, pushes, and bound ports; StreamsAndZWords is assembled from these.
-/
namespace Sys2Proof.Machine

/-! ### Ports -/

section
variable (k : Slot) (p : Fin 3) (x : Port) (brick : Nat)

@[simp] theorem Slot.setPort_port : (k.setPort p x).ports[p] = x := by simp [Slot.setPort]
theorem Slot.setPort_setPort (y : Port) : (k.setPort p x).setPort p y = k.setPort p y := by simp [Slot.setPort]
/-- What a pop or push makes of a port: ADDR moves by STRIDE, REM falls by VL (R158). -/
theorem Port.step_addr : (x.step brick).addr = x.addr + x.stride.signExtend 64 := rfl
theorem Port.step_rem : (x.step brick).rem.toNat = x.rem.toNat - min 64 x.rem.toNat := by
  have hlt := x.rem.isLt
  show (BitVec.ofNat 40 (x.rem.toNat - min 64 x.rem.toNat)).toNat = _
  rw [BitVec.toNat_ofNat, Nat.mod_eq_of_lt (by omega)]

end

/-! ### A pop of an own line that is reached (R157, R161) -/

section
variable {s : State} {p : Fin 3} {d : WReg} (f : Elt)

/-- A line of the own bank is reached with the machine as it is. -/
theorem State.popReach_own (hown : s.me.ports[p].addr.toNat < 2 ^ 20) (ha : s.answers = []) : s.popReach p = (s, none) := by
  simp only [State.popReach, State.walk_own hown, State.resolve_own hown, State.look_sound ha, State.translated, bankOf_own hown,
    Option.isSome_some, Bool.true_or, if_true, ite_self]
variable (hin : p ≠ 2) (hbound : s.me.ports[p].bound = true) (hrem : s.me.ports[p].rem ≠ 0) (hd : d.val < 5)
  (hown : s.me.ports[p].addr.toNat < 2 ^ 20) (ha : s.answers = [])
include hin hbound hrem hd hown ha

/-- WMOV from a port whose pop gives a line puts the line in its register. -/
theorem exec_wmov_pops {t : State} {v : Line} (hpop : s.pop s p = .ok (v, t)) :
    exec (.wmov f d (portReg p)) s = .next (t.after (t.me.setW d v)) := by
  have hsource : srcValue s.me [(5 + p.val, v)] (portReg p) = v := by simp [srcValue, portReg_val]
  show execWmov f d (portReg p) s = _
  rw [execWmov, State.wideTo_pops hin hbound hrem hd]
  simp only [State.popping, State.reachPops, State.popReach_own hown ha, State.popAll, hpop, ne_eq, not_true_eq_false, if_false, hsource,
    map1_id]
/-- WMOV from a port whose pop waits or faults does no more than that. -/
theorem exec_wmov_stops {o : Out} (hpop : s.pop s p = .error o) : exec (.wmov f d (portReg p)) s = o := by
  show execWmov f d (portReg p) s = _
  rw [execWmov, State.wideTo_pops hin hbound hrem hd]
  simp only [State.popping, State.reachPops, State.popReach_own hown ha, State.popAll, hpop, ne_eq, not_true_eq_false, if_false]

end

/-! ### Loads sent ahead (R159) -/

theorem State.aheadLine_core {s : State} (h : s.answers = []) (k : Slot) (win : Nat) (pl : Place) : (s.aheadLine k win pl).1.core = s.core := by
  have htouch := s.touch_core pl
  have hans : (s.touch pl).answers = [] := (State.core_eq htouch).2.2.2.trans h
  simp only [State.aheadLine, State.look_sound hans]
  split <;> exact htouch
/-- With no answers laid down loads sent ahead change no byte and no slot. -/
theorem State.readAhead_core (k : Slot) (brick : Nat) (x : Port) (n : Nat) : ∀ {s : State} (i : Nat), s.answers = [] →
    (s.readAhead k brick x i n).1.core = s.core := by
  induction n with
  | zero => exact fun _ _ => rfl
  | succ n ih =>
    intro s i h
    simp only [State.readAhead]
    split
    · rfl
    · split
      · next pl win _ =>
        split
        · rfl
        · split
          · exact ih (i + 1) h
          · have hline := State.aheadLine_core h k win pl
            have hans := (State.core_eq hline).2.2.2.trans h
            split
            · next t heq => rwa [heq] at hline
            · next t v heq =>
              rw [heq] at hline hans
              exact (ih (i + 1) hans).trans hline
      · rfl
theorem State.sendAhead_core (s : State) (ctx p : Nat) (sent : List (Nat × Place)) : (s.sendAhead ctx p sent).core = s.core :=
  foldl_view State.core (fun t (a : Nat × Place) => t.stallAt_core _ a.2) sent s

/-! ### Memory mode (R157, R158) -/

/-- The machine once a pop has taken its line: the access waits no longer, and the port has moved on. -/
def State.popped (s : State) (ctx : Nat) (p : Fin 3) : State :=
  (s.unstall ctx).modSlot s.cur fun k => k.setPort p ((k.ports[p]).step s.brick)
theorem State.me_popped (s : State) (ctx : Nat) (p : Fin 3) : (s.popped ctx p).me = s.me.setPort p ((s.me.ports[p]).step s.brick) :=
  State.slotAt_modSlot_self _ _ _
/-- A pop of a line in the own bank that nothing holds back gives its first bytes, and sends loads ahead. -/
theorem State.pop_memory {s : State} {p : Fin 3} (hmode : s.me.ports[p].queueFed = false) (hahead : s.me.ports[p].ahead = [])
    (haligned : s.me.ports[p].addr.toNat % 64 = 0) (hready : s.ownReady s.me.ports[p].addr.toNat 64) (ha : s.answers = [])
    (hclear : s.forward s.me s.brick (.sram s.brick s.me.ports[p].addr.toNat) s.me.ports[p].addr 64 = .clear) :
    ∃ (t : State) (more : Ahead), s.pop s p = .ok (firstBytes (bytesLine (Mem.readBytes s.mem (bankAddr s.brick s.me.ports[p].addr.toNat) 64))
        s.me.ports[p].vl, t) ∧ t.cur = s.cur ∧ t.mem = s.mem ∧ t.me = s.me.setPort p (((s.me.ports[p]).withAhead more).step s.brick) := by
  have hread : s.readAt s.me.vd 0 (.sram s.brick s.me.ports[p].addr.toNat) 64 =
      .ok (bytesLine (Mem.readBytes s.mem (bankAddr s.brick s.me.ports[p].addr.toNat) 64)) := by
    rw [State.readAt, State.homeFault_own hready]
    rfl
  rcases hchoice : (s.touch (.sram s.brick s.me.ports[p].addr.toNat)).choose with ⟨n, t⟩
  have htouched : t.core = s.core := by
    rw [show t = (s.touch (.sram s.brick s.me.ports[p].addr.toNat)).choose.2 by rw [hchoice]]
    exact s.touch_core _
  rcases hlines : t.readAhead s.me t.brick s.me.ports[p] 1 (n % 4) with ⟨u, more⟩
  have hread_core : u.core = s.core := by
    have hcore := State.readAhead_core s.me t.brick s.me.ports[p] (n % 4) 1 ((State.core_eq htouched).2.2.2.trans ha)
    rw [hlines] at hcore
    exact hcore.trans htouched
  have hsame : u.me = s.me := State.me_of_core hread_core
  have hsent := (u.modSlot u.cur fun k => k.setPort p ((k.ports[p]).withAhead more)).sendAhead_core s.me.ctx p.val more.sent
  obtain ⟨hmem, -, hcur, -⟩ := State.core_eq hsent
  obtain ⟨humem, -, hucur, -⟩ := State.core_eq hread_core
  refine ⟨((u.modSlot u.cur fun k => k.setPort p ((k.ports[p]).withAhead more)).sendAhead s.me.ctx p.val more.sent).popped s.me.ctx p,
    more, ?_, hcur.trans hucur, hmem.trans humem, ?_⟩
  · simp only [State.pop, hmode, Bool.false_eq_true, if_false, hahead, List.find?_nil, State.resolve_own hready.1, haligned, hclear,
      hready.2.2.1, hread, hchoice, hlines, hsame, ne_eq, not_true_eq_false]
    rfl
  · have hme : (u.modSlot u.cur fun k => k.setPort p ((k.ports[p]).withAhead more)).me =
        s.me.setPort p ((s.me.ports[p]).withAhead more) := by
      rw [← hsame]
      exact State.slotAt_modSlot_self _ _ _
    have hbrick : (((u.modSlot u.cur fun k => k.setPort p ((k.ports[p]).withAhead more)).sendAhead s.me.ctx p.val more.sent)).brick = s.brick := by
      rw [State.brick_of_core hsent]
      show u.brick = s.brick
      exact State.brick_of_core hread_core
    rw [State.me_popped, State.me_of_core hsent, hme, hbrick, Slot.setPort_port, Slot.setPort_setPort]

end Sys2Proof.Machine
end

section
/-!
SUPPORT. Pops of queue-fed ports, pushes, and what SBIND binds; StreamsAndZWords is assembled from these.
-/
namespace Sys2Proof.Machine

/-! ### Queue-fed mode (R160, R161) -/

theorem KMap.mem_of_find? {α : Type} {m : KMap α} {x : Nat} {v : α} (h : KMap.find? m x = some v) : (x, v) ∈ m := by
  induction m with
  | nil => cases h
  | cons hd rest ih =>
    simp only [KMap.find?] at h
    split at h
    · next he =>
      cases h
      exact he ▸ List.mem_cons_self
    · exact List.mem_cons_of_mem _ (ih h)
/-- The first waiter of a word that can go on is one of its waiters. -/
theorem State.feFirst_mem {s : State} {key c : Nat} {what : Option (Slot × Request)} (q : List Nat) (h : s.feFirst key q = some (c, what)) : c ∈ q := by
  induction q with
  | nil => cases h
  | cons x rest ih =>
    simp only [State.feFirst] at h
    split at h
    · exact List.mem_cons_of_mem _ (ih h)
    · split at h
      all_goals split at h
      · cases h; exact List.mem_cons_self
      · exact List.mem_cons_of_mem _ (ih h)
      · cases h; exact List.mem_cons_self
      · exact List.mem_cons_of_mem _ (ih h)
/-- A word whose only waiter withdraws has no waiters. -/
theorem State.feq_withdraw {s : State} {ctx key : Nat} (h : ∀ kv ∈ s.feq, kv.1 = key → ∀ c ∈ kv.2, c = ctx) :
    KMap.find? (s.withdraw ctx).feq key = none := by
  refine KMap.find?_of_absent fun hin => ?_
  obtain ⟨kv, hkv, hkey⟩ := List.mem_map.mp hin
  obtain ⟨hmapped, hsome⟩ := List.mem_filter.mp hkv
  obtain ⟨old, hold, rfl⟩ := List.mem_map.mp hmapped
  refine of_decide_eq_true hsome (List.filter_eq_nil_iff.mpr fun c hc => ?_)
  simp [h old hold hkey c hc]
/-- Nothing is served at a word without waiters. -/
theorem State.feWake_alone {s : State} {key : Nat} (h : KMap.find? s.feq key = none) : (s.feWake key).core = s.core ∧ (s.feWake key).fe = s.fe := by
  have hrun : ∀ t : State, t.feq = s.feq → t.feRun key (KMap.getD t.feq key []).length = t := fun t ht => by
    rw [ht, KMap.getD, h]
    rfl
  have hallocated : ∀ (t : State) (on : Bool), (t.allocated (placeOf key) on).core = t.core ∧ (t.allocated (placeOf key) on).fe = t.fe ∧
      (t.allocated (placeOf key) on).feq = t.feq := fun t on => by
    cases placeOf key <;> exact ⟨rfl, rfl, rfl⟩
  obtain ⟨hcore, hfe, hfeq⟩ := hallocated s true
  unfold State.feWake State.accepted
  split
  · dsimp only
    rw [hrun _ hfeq]
    obtain ⟨hcore', hfe', -⟩ := hallocated (s.allocated (placeOf key) true) false
    exact ⟨hcore'.trans hcore, hfe'.trans hfe⟩
  · dsimp only
    rw [hrun s rfl]
    exact ⟨rfl, rfl⟩
theorem bankAddr_word {b off : Nat} (h : off % 64 = 0) : bankAddr b off / 8 * 8 = bankAddr b off := by
  unfold bankAddr
  omega

/-- The machine once a queue-fed pop has emptied its word, and what waited there has been served. -/
def State.wordTaken (s : State) (p : Place) : State := (((s.setFe p false).touch p).withdraw s.me.ctx).feWake (p.key / 8 * 8)
/-- The machine once the current slot is among the waiters of a word. -/
def State.wordJoined (s : State) (key : Nat) : State :=
  if (KMap.getD s.feq key []).contains s.me.ctx then s else { s with feq := KMap.set s.feq key (KMap.getD s.feq key [] ++ [s.me.ctx]) }

/-- A slot that alone waits at a word of a bank empties it, and no waiter is served. -/
theorem State.wordTaken_alone {s : State} {b off : Nat} (haligned : off % 64 = 0)
    (halone : ∀ kv ∈ s.feq, kv.1 = bankAddr b off → ∀ c ∈ kv.2, c = s.me.ctx) :
    (s.wordTaken (.sram b off)).core = s.core ∧ (s.wordTaken (.sram b off)).fe = NSet.erase s.fe (bankAddr b off / 8 * 8) := by
  have hwaiters : KMap.find? (((s.setFe (.sram b off) false).touch (.sram b off)).withdraw s.me.ctx).feq (bankAddr b off / 8 * 8) = none := by
    rw [bankAddr_word haligned]
    exact State.feq_withdraw (s := (s.setFe (.sram b off) false).touch (.sram b off)) halone
  exact State.feWake_alone hwaiters
theorem State.wordJoined_frame (s : State) (key : Nat) : (s.wordJoined key).core = s.core ∧ (s.wordJoined key).fe = s.fe ∧
    s.me.ctx ∈ KMap.getD (s.wordJoined key).feq key [] := by
  unfold State.wordJoined
  split
  · next hin => exact ⟨rfl, rfl, List.contains_iff_mem.mp hin⟩
  · refine ⟨rfl, rfl, ?_⟩
    show s.me.ctx ∈ KMap.getD (KMap.set s.feq key _) key []
    rw [KMap.getD_set_self]
    exact List.mem_append_right _ List.mem_cons_self

section
variable {s : State} {p : Fin 3} {x : Port} (hx : s.me.ports[p] = x) (hmode : x.queueFed = true) (haligned : x.addr.toNat % 64 = 0)
  (hready : s.ownReady x.addr.toNat 64) (hclear : s.forward s.me s.brick (.sram s.brick x.addr.toNat) x.addr 64 = .clear)
include hx hmode haligned hready hclear

/-- A queue-fed pop of a full word at which no other slot waits takes the line. -/
theorem State.pop_full (hfull : s.feBit (.sram s.brick x.addr.toNat) = true)
    (halone : ∀ kv ∈ s.feq, kv.1 = bankAddr s.brick x.addr.toNat → ∀ c ∈ kv.2, c = s.me.ctx) :
    s.pop s p = .ok (firstBytes (bytesLine (Mem.readBytes s.mem (bankAddr s.brick x.addr.toNat) 64)) x.vl,
      ((s.wordTaken (.sram s.brick x.addr.toNat)).modSlot s.cur Slot.dropAhead).popped s.me.ctx p) := by
  have hcur := (State.core_eq (State.wordTaken_alone haligned halone).1).2.2.1
  have hfirst : ∀ c what, s.feFirst (bankAddr s.brick x.addr.toNat) (KMap.getD s.feq (bankAddr s.brick x.addr.toNat) []) = some (c, what) →
      c = s.me.ctx := fun c what heq => by
    have hc := State.feFirst_mem _ heq
    cases hq : KMap.find? s.feq (bankAddr s.brick x.addr.toNat) with
    | none =>
      rw [KMap.getD, hq] at hc
      cases hc
    | some q =>
      rw [KMap.getD, hq] at hc
      exact halone _ (KMap.mem_of_find? hq) rfl c hc
  rw [← hcur]
  simp only [State.pop, hx, hmode, if_true, State.resolve_own hready.1, haligned, State.wordOpen, hclear, hready.2.2.1,
    State.homeFault_own hready, hfull, Place.key, ne_eq, not_true_eq_false, if_false, Bool.false_eq_true, decide_true, Bool.not_true,
    Bool.true_and]
  cases hcase : s.feFirst (bankAddr s.brick x.addr.toNat) (KMap.getD s.feq (bankAddr s.brick x.addr.toNat) []) with
  | none => rfl
  | some found =>
    obtain ⟨c, what⟩ := found
    exact if_pos (decide_eq_true (hfirst c what hcase))
/-- A queue-fed pop of an empty word parks the slot among the waiters of the word. -/
theorem State.pop_empty (hempty : s.feBit (.sram s.brick x.addr.toNat) = false) :
    s.pop s p = .error ((s.wordJoined (bankAddr s.brick x.addr.toNat)).park (.wordFull (bankAddr s.brick x.addr.toNat))) := by
  simp only [State.pop, hx, hmode, if_true, State.resolve_own hready.1, haligned, State.wordOpen, hclear, hready.2.2.1,
    State.homeFault_own hready, hempty, Place.key, ne_eq, not_true_eq_false, if_false, Bool.false_eq_true, decide_true, Bool.not_true,
    Bool.false_and]
  rfl

end

/-- What a pop leaves that has emptied its word in a machine that differs in no byte and no slot: every byte, the empty word, and a port that has moved on. -/
theorem State.popped_of_emptied {s u : State} {b off : Nat} (p : Fin 3) (hcore : u.core = s.core)
    (hfe : u.fe = NSet.erase s.fe (bankAddr b off / 8 * 8)) (hnodup : s.fe.Nodup) :
    let t := (u.modSlot s.cur Slot.dropAhead).popped s.me.ctx p
    t.cur = s.cur ∧ t.mem = s.mem ∧ t.feBit (.sram b off) = false ∧
      t.me.ports[p].addr = s.me.ports[p].addr + s.me.ports[p].stride.signExtend 64 ∧
      t.me.ports[p].rem.toNat = s.me.ports[p].rem.toNat - min 64 s.me.ports[p].rem.toNat := by
  obtain ⟨hmem, -, hcur, -⟩ := State.core_eq hcore
  have hempty : (NSet.erase s.fe (bankAddr b off / 8 * 8)).contains (bankAddr b off / 8 * 8) = false := NSet.contains_erase_self _ hnodup
  have hme : (u.modSlot s.cur Slot.dropAhead).me = s.me.dropAhead := by
    rw [← State.me_of_core hcore, ← hcur]
    exact State.slotAt_modSlot_self _ _ _
  have hdropped : s.me.dropAhead.ports[p] = { s.me.ports[p] with ahead := [], asked := [] } := by simp [Slot.dropAhead]
  refine ⟨hcur, hmem, ?_, ?_, ?_⟩
  · rw [← hfe] at hempty
    exact hempty
  · rw [State.me_popped, Slot.setPort_port, hme, hdropped]
    rfl
  · rw [State.me_popped, Slot.setPort_port, Port.step_rem, hme, hdropped]
/-- A slot that parks in a machine that differs in no byte and no slot. -/
theorem State.me_parked {s t : State} (h : t.core = s.core) (w : Wait) :
    (t.modSlot t.cur fun k => { k with mode := .parked w }).me = { s.me with mode := .parked w } := by
  rw [← State.me_of_core h]
  exact State.slotAt_modSlot_self _ _ _

/-! ### Pushes (R157, R158) -/

/-- A push buffers its line at ADDR, and moves the port on. -/
theorem State.me_push (s : State) (v : Line) : ∃ x : Port, (s.push v).me.ports[(2 : Fin 3)] = x.step s.brick ∧
    x.addr = s.me.ports[(2 : Fin 3)].addr ∧ x.stride = s.me.ports[(2 : Fin 3)].stride ∧ x.rem = s.me.ports[(2 : Fin 3)].rem ∧
    (s.push v).me.sb = s.me.sb ++ [s.newEntry s.me.ports[(2 : Fin 3)].addr s.me.ports[(2 : Fin 3)].vl v] ∧ (s.push v).me.w = s.me.w ∧
    (s.push v).me.g = s.me.g := by
  have hme : (s.push v).me = (s.buffer s.me.ports[(2 : Fin 3)].addr s.me.ports[(2 : Fin 3)].vl v).me.setPort 2
      ((s.buffer s.me.ports[(2 : Fin 3)].addr s.me.ports[(2 : Fin 3)].vl v).me.ports[(2 : Fin 3)].step s.brick) := State.slotAt_modSlot_self _ _ _
  rw [hme, State.me_buffer, Slot.setPort_port]
  exact ⟨_, rfl, by simp [State.dropEntry], by simp [State.dropEntry], by simp [State.dropEntry], rfl, rfl, rfl⟩

/-! ### ZSET, ZGET and SBIND (R320, R325) -/

/-- A port as a sound descriptor binds it. -/
def portOfDesc (l : Line) : Port :=
  ⟨true, decide (lbits l 3 1 1 = 1), wordOf l 0, BitVec.ofNat 32 (lbits l 1 63 32), BitVec.ofNat 40 (lbits l 2 39 0), [], []⟩

section
variable {s : State} {z : ZReg} {p : Fin 3} (hvalid : s.me.zValid z = true)
include hvalid

theorem exec_zset (g : GReg) (w : BitVec 3) : exec (.zset z g w) s = .next (s.after (s.me.setZ z (setWord s.me.z[z] w.toNat (s.me.getG g)))) := by
  show execZset z g w s = _
  rw [execZset, if_neg (by simp [hvalid])]
  rfl
theorem exec_zget (g : GReg) (w : BitVec 3) : exec (.zget z g w) s = .next (s.after (s.me.setG g (wordOf s.me.z[z] w.toNat))) := by
  show execZget z g w s = _
  rw [execZget, if_neg (by simp [hvalid])]
  rfl
variable (hsound : descSound s.me.z[z] p = true)
include hsound
/-- SBIND with bit 0 clear unbinds its port and makes its w register invalid. -/
theorem exec_sbind_unbinds (hbit : lbits s.me.z[z] 3 0 0 = 0) : exec (.sbind z p) s = .next (s.after
    { (s.me.setPort p { s.me.ports[p] with bound := false, rem := 0, ahead := [], asked := [] }) with
      wv := s.me.wv &&& ~~~ ((1 : BitVec 8) <<< (5 + p.val)) }) := by
  show execSbind z p s = _
  rw [execSbind, if_neg (by simp [hvalid]), if_neg (by rw [hsound]; decide), if_neg (by omega)]
  rfl
/-- SBIND with bit 0 set binds its port by the descriptor; an input port in memory mode may hold lines ahead. -/
theorem exec_sbind_binds (hbit : lbits s.me.z[z] 3 0 0 = 1) (ha : s.answers = []) : ∃ (t : State) (more : Ahead) (x : Port),
    exec (.sbind z p) s = .next (t.after (s.me.setPort p x)) ∧ t.mem = s.mem ∧ t.slots = s.slots ∧
      (x = portOfDesc s.me.z[z] ∨ x = (portOfDesc s.me.z[z]).withAhead more) := by
  show ∃ (t : State) (more : Ahead) (x : Port), execSbind z p s = _ ∧ _
  rw [execSbind, if_neg (by simp [hvalid]), if_neg (by rw [hsound]; decide), if_pos hbit]
  by_cases hmode : (portOfDesc s.me.z[z]).queueFed = true ∨ p = 2
  · exact ⟨s, ⟨[], []⟩, _, if_pos hmode, rfl, rfl, .inl rfl⟩
  · rcases hchoice : s.choose with ⟨n, t⟩
    have hchosen : t.core = s.core := by
      rw [show t = s.choose.2 by rw [hchoice]]
      rfl
    rcases hlines : t.readAhead s.me t.brick (portOfDesc s.me.z[z]) 0 (n % 5) with ⟨u, more⟩
    have hcore : u.core = s.core := by
      have hread := State.readAhead_core s.me t.brick (portOfDesc s.me.z[z]) (n % 5) 0 ((State.core_eq hchosen).2.2.2.trans ha)
      rw [hlines] at hread
      exact hread.trans hchosen
    have hsame : u.me = s.me := State.me_of_core hcore
    have hsent := (u.sendAhead_core s.me.ctx p.val more.sent).trans hcore
    obtain ⟨hmem, hslots, -, -⟩ := State.core_eq hsent
    refine ⟨u.sendAhead s.me.ctx p.val more.sent, more, _, ?_, hmem, hslots, .inr rfl⟩
    refine (if_neg hmode).trans ?_
    unfold portOfDesc at hlines
    simp only [hlines, hsame, ne_eq, not_true_eq_false, if_false, State.retire, State.me_of_core hsent]
    rfl

end

/-- Settles O22: pops are `State.pop_memory`, `State.pop_full` and `State.pop_empty`, under the checks of `State.wideTo_pops`; pushes are `State.wideTo_pushes`; the rest is `exec_zset`, `exec_zget`, `exec_sbind_unbinds` and `exec_sbind_binds`. -/
theorem streamsAndZWords : Obligations.StreamsAndZWords := by
  unfold Obligations.StreamsAndZWords
  refine ⟨fun s f d p hd hin hbound hmode hrem hahead haligned hready ha hclear => ?_,
    fun s f d p hd hin hbound hmode hrem haligned hready ha hclear => ⟨fun hfull hfe halone => ?_, fun hempty => ?_⟩,
    fun s f a ha hvalid hbound hrem hfault hfree => ?_, fun s z g w p hvalid => ⟨?_, exec_zget hvalid g w, fun hsound hbit => ?_, fun hsound hbit ha => ?_⟩⟩
  · obtain ⟨t, more, hpop, hcur, hmem, hme⟩ := State.pop_memory hmode hahead haligned hready ha hclear
    refine ⟨t, t.me, _, exec_wmov_pops f hin hbound hrem hd hready.1 ha hpop, hcur, hmem, ?_, ?_, ?_, ?_,
      firstBytes_bytesLine _ (Mem.readBytes_length _ _ _).le⟩
    all_goals rw [hme]
    · rfl
    · rfl
    · rw [Slot.setPort_port]; rfl
    · rw [Slot.setPort_port, Port.step_rem]; rfl
  · obtain ⟨hcore, hemptied⟩ := State.wordTaken_alone haligned halone
    obtain ⟨hcur, hmem, hempty, haddr, hremains⟩ := State.popped_of_emptied p hcore hemptied (hfe.imp Nat.ne_of_lt)
    exact ⟨_, _, _, exec_wmov_pops f hin hbound hrem hd hready.1 ha (State.pop_full rfl hmode haligned hready hclear hfull halone),
      hcur, hmem, hempty, haddr, hremains, firstBytes_bytesLine _ (Mem.readBytes_length _ _ _).le⟩
  · obtain ⟨hcore, hfe, hwaits⟩ := s.wordJoined_frame (bankAddr s.brick s.me.ports[p].addr.toNat)
    obtain ⟨hmem, -⟩ := State.core_eq hcore
    refine ⟨_, exec_wmov_stops f hin hbound hrem hd hready.1 ha (State.pop_empty rfl hmode haligned hready hclear hempty), hmem, hfe, hwaits, ?_⟩
    exact State.me_parked hcore _
  · obtain ⟨x, hport, haddr, hstride, hremains, hsb, hw, hg⟩ := s.me_push s.me.w[a]
    have hexec : exec (.wmov f 7 a) s = .next ((s.push s.me.w[a]).after (s.push s.me.w[a]).me) := by
      show execWmov f 7 a s = _
      rw [execWmov, State.wideTo_pushes ha hvalid hbound hrem hfault hfree, map1_id]
    refine ⟨_, _, _, hexec, rfl, rfl, hsb, rfl, rfl, rfl, hw, hg, ?_, ?_⟩
    · rw [hport, Port.step_addr, haddr, hstride]
    · rw [hport, Port.step_rem, hremains]
  · refine ⟨_, exec_zset hvalid g w, fun j hj => ?_⟩
    split
    · next hw =>
      rw [hw, wordOf_setWord_self _ w.isLt]
    · next hw => exact wordOf_setWord_ne _ w.isLt hw _
  · refine ⟨_, exec_sbind_unbinds hvalid hsound hbit, ?_, ?_, ?_, rfl, rfl, rfl⟩
    · show (Slot.setPort s.me p _).ports[p].bound = false
      rw [Slot.setPort_port]
    · show (Slot.setPort s.me p _).ports[p].rem = 0
      rw [Slot.setPort_port]
    · show (s.me.wv &&& ~~~ ((1 : BitVec 8) <<< (5 + p.val))).getLsbD (5 + p.val) = false
      simp
  · obtain ⟨t, more, x, hexec, hmem, hslots, hx⟩ := exec_sbind_binds hvalid hsound hbit ha
    have hrem : (BitVec.ofNat 40 (lbits s.me.z[z] 2 39 0)).toNat = lbits s.me.z[z] 2 39 0 :=
      (BitVec.toNat_ofNat _ _).trans (Nat.mod_eq_of_lt (Nat.mod_lt _ (by norm_num)))
    refine ⟨t, _, hexec, hmem, hslots, ?_, ?_, ?_, rfl, rfl, rfl⟩
    all_goals
      rw [Slot.setPort_port]
      rcases hx with rfl | rfl
    · rfl
    · rfl
    · rfl
    · rfl
    · exact hrem
    · exact hrem

end Sys2Proof.Machine
end

section
/-!
SUPPORT. What the head entry of a ring queue does to the ring slot at its station, operation by operation, and how a line boards; RingEntriesApply is assembled from these.
-/
namespace Sys2Proof.Machine

/-! ### The turn of a slot at its station (R181) -/

/-- A head entry of the wanted kind that goes leaves the station at its slot. -/
theorem State.applyOne_goes {s t : State} {b n : Nat} {k : Slot} {e : RingEntry} {rest : List RingEntry} {want : RingOp → Bool}
    (hturn : s.stationFor (8 * b + n) = true)
    (hholder : (s.ringHolders.find? fun kv => decide (kv.1 = 8 * b + n)) = some (8 * b + n, k)) (hq : k.ringq = e :: rest)
    (happly : s.applyHead (8 * b + n) k e = some t) (hwant : want e.op = true) :
    s.applyOne b n want = t.stationAt b (8 * b + n) := by
  simp only [State.applyOne, hturn, hholder, hq, hwant, happly, Bool.not_true, Bool.false_eq_true, if_false, if_true]

/-! ### Entries at a ring slot (Table 7.2, Table 7.9) -/

/-- A capture that has waited too long misses its ring slot (R191). -/
theorem State.applyHead_capture_late {s : State} {key : Nat} {k : Slot} {e : RingEntry} {f : RingForm}
    (hlate : e.overdue s.cycle = true) (hop : e.op = .capture f) : s.applyHead key k e = some (s.ringMissed k e) := by
  simp only [State.applyHead, hop, hlate, if_true]

/-- What a capture reads of a ring slot (R182). -/
def RingSlot.captured (r : RingSlot) (word : Nat) : RingForm → Line
  | .word => lineOf (wordOf r.payload word)
  | .line => r.payload
/-- The payload of a ring slot once a put has written it (R182). -/
def RingSlot.putOver (r : RingSlot) (word : Nat) (v : Line) : RingForm → Line
  | .word => setWord r.payload word (lowWord v)
  | .line => v

section
variable {s : State} {key : Nat} {k : Slot} {e : RingEntry} {x : RingSlot} (hfound : KMap.find? s.rings (s.standing (key / 8)) = some x)
  (hfor : x.isFor k.vd e = true) (hdue : e.overdue s.cycle = false)
include hfound hfor hdue

/-- A capture gives its word or the line, but traps on a poisoned ring slot. -/
theorem State.applyHead_capture {f : RingForm} (hop : e.op = .capture f) : s.applyHead key k e = some (if x.poison then s.ringPoisoned k e
    else s.ringGive k (.done (x.captured e.word f))) := by
  simp only [State.applyHead, hop, hfound, hfor, hdue, Bool.not_true, Bool.false_eq_true, if_false]
  split
  · rfl
  · cases f <;> rfl
/-- A put writes its word or the line, but is dropped at a poisoned ring slot. -/
theorem State.applyHead_put {f : RingForm} {v : Line} (hop : e.op = .put f v) : s.applyHead key k e = some (if x.poison then
      (s.ringDone k).deferred k.vd k.region (s.whereKey k.ctx) .poison e.ea
    else (s.setPayload (s.standing (key / 8)) (x.putOver e.word v f)).ringDone k) := by
  simp only [State.applyHead, hop, hfound, hfor, hdue, Bool.not_true, Bool.false_eq_true, if_false]
  split
  · rfl
  · cases f <;> rfl
/-- An alight that has not matched marks the ring slot. -/
theorem State.applyHead_alight {set : Bool} (hop : e.op = .alight set) (hfresh : e.matched = false) : s.applyHead key k e = some
    (({ s with rings := KMap.modify s.rings (s.standing (key / 8)) fun r => { r with altpend := true } } : State).modCtx k.ctx fun k =>
      { k with ringq := { e with op := .alight (!x.altpend), matched := true, since := s.cycle } :: k.ringq.drop 1 }) := by
  simp only [State.applyHead, hop, hfound, hfor, hdue, hfresh, Bool.not_true, Bool.false_eq_true, if_false]

section
variable (hclean : x.poison = false)
include hclean

/-- An add replaces its word by the sum and gives the old word. -/
theorem State.applyHead_add {v : Word} (hop : e.op = .add v) : s.applyHead key k e = some
    ((s.setPayload (s.standing (key / 8)) (setWord x.payload e.word (wordOf x.payload e.word + v))).ringGive k
      (.done (lineOf (wordOf x.payload e.word)))) := by
  simp only [State.applyHead, hop, hfound, hfor, hdue, hclean, Bool.not_true, Bool.false_eq_true, if_false]
/-- A wait gives its word when that meets the condition (R296). -/
theorem State.applyHead_wait {c : RwCond} {v : Word} (hop : e.op = .wait c v) (hholds : c.holds (wordOf x.payload e.word) v = true) :
    s.applyHead key k e = some (s.ringGive k (.done (lineOf (wordOf x.payload e.word)))) := by
  simp only [State.applyHead, hop, hfound, hfor, hdue, hclean, hholds, Bool.not_true, Bool.false_eq_true, if_false, if_true]
/-- A claim takes a chunk of a sound descriptor (R100). -/
theorem State.applyHead_claim (hop : e.op = .claim) (hsound : nestSound x.payload = true) : s.applyHead key k e = some
    ((s.setPayload (s.standing (key / 8)) (claimed x.payload)).ringGive k (.done (claimResult x.payload))) := by
  simp only [State.applyHead, hop, hfound, hfor, hdue, hclean, hsound, Bool.not_true, Bool.false_eq_true, if_false]

end
end

/-! ### Boarding (Table 7.3) -/

/-- A boarding entry tries to board in every cycle of its turn (R183). -/
theorem State.applyHead_board {s : State} {b n : Nat} {k : Slot} {e : RingEntry} {nest : Option Line} (hop : e.op = .board nest)
    (hn : n < 8) : s.applyHead (8 * b + n) k e = s.tryBoard b k e nest := by
  have hbrick : (8 * b + n) / 8 = b := by omega
  simp only [State.applyHead, hop, hbrick]

section
variable {s : State} {b : Nat} {k : Slot} {e : RingEntry}

theorem State.tryBoard_locked (nest : Option Line) (hlocked : s.lineLocked (lineKey e.brick e.line) = true) :
    s.tryBoard b k e nest = some ((s.unstall k.ctx).ringGive k (.done 2)) := if_pos hlocked
theorem State.tryBoard_full (nest : Option Line) (hlocked : s.lineLocked (lineKey e.brick e.line) = false)
    (hfull : s.ringFull (b / 512) k.vd k.region = true) : s.tryBoard b k e nest = some ((s.unstall k.ctx).ringGive k (.done 1)) := by
  simp only [State.tryBoard, hlocked, hfull, Bool.false_eq_true, if_false, if_true]
/-- With no answer of the media laid down, a line boards onto the free ring slot at the station as its home holds it (R183 step 5, R184). -/
theorem State.tryBoard_boards {rest : List RingEntry} (hlocked : s.lineLocked (lineKey e.brick e.line) = false)
    (hroom : s.ringFull (b / 512) k.vd k.region = false) (hfree : KMap.has s.rings (s.standing b) = false)
    (hserves : s.blocked k.ctx (.sram e.brick (64 * e.line)) = false) (hsound : s.answers = []) (hctx : s.ctxOf k.ctx = some k)
    (hq : k.ringq = e :: rest) : s.tryBoard b k e none =
      some (((s.unstall k.ctx).boardLine (s.standing b) e.brick e.line k.vd k.region false false).ringGive k (.done 0)) := by
  have hhead : (s.unstall k.ctx).ringHead k.ctx e = true := by
    have hkept : (s.unstall k.ctx).ctxOf k.ctx = some k := hctx
    simp only [State.ringHead, hkept, hq, List.head?_cons, decide_true]
  simp only [State.tryBoard, hlocked, hroom, hfree, hserves, State.look, hsound, hhead, Bool.false_eq_true, if_false, if_true]
  rfl

end

/-- What boarding leaves and writes: no byte changes, the home line is locked for its partition and region, and the ring slot holds what stood there. -/
theorem State.boardLine_spec (s : State) (idx b line vd region : Nat) :
    let t := s.boardLine idx b line vd region false false
    t.mem = s.mem ∧ t.locks = KMap.set s.locks (lineKey b line) ⟨.aboard, vd, region⟩ ∧
      (KMap.find? t.rings idx).map (fun r => (r.payload, r.poison, r.altpend, r.vd, r.line)) =
        some (bytesLine (Mem.readBytes s.mem (lineKey b line) 64), s.poison.contains (Place.sram b (64 * line)).granule, false, vd, line) := by
  refine ⟨rfl, rfl, ?_⟩
  show (KMap.find? (KMap.set s.rings idx _) idx).map _ = _
  rw [KMap.find?_set_self, Option.map_some, Bool.false_or]
  rfl

/-- Settles O36: the station applies a head entry as `State.applyOne_goes` says, each operation by its equation for `State.applyHead`, and a boarding is `State.tryBoard_locked`, `State.tryBoard_full` or `State.tryBoard_boards`. -/
theorem ringEntriesApply : Obligations.RingEntriesApply := by
  unfold Obligations.RingEntriesApply
  refine ⟨fun s b n k e rest x hholder hq hturn hfound hfor => ?_, fun s b n k e rest hholder hq hop hn hturn => ?_⟩
  · have hgoes : ∀ {t : State} {want : RingOp → Bool}, s.applyHead (8 * b + n) k e = some t → want e.op = true →
        (Host.Outcome.next (s.applyOne b n want) : Out) = .next (t.stationAt b (8 * b + n)) := fun happly hwant =>
      congrArg Host.Outcome.next (State.applyOne_goes hturn hholder hq happly hwant)
    refine ⟨fun hlate hop => hgoes (State.applyHead_capture_late hlate hop) (by rw [hop]),
      fun hdue hpoison => ⟨fun f hop => ?_, fun f v hop => ?_⟩,
      fun hdue hclean => ⟨fun hop => ?_, fun hop => ?_, fun v hop => ?_, fun v hop => ?_, fun v hop => ?_, fun c v hop hholds => ?_,
        fun hop hsound => ?_, fun set hop hfresh => ?_⟩⟩
    · refine hgoes (t := s.ringPoisoned k e) ?_ (by rw [hop])
      rw [State.applyHead_capture hfound hfor hdue hop, hpoison, if_pos rfl]
    · refine hgoes ?_ (by rw [hop])
      rw [State.applyHead_put hfound hfor hdue hop, hpoison, if_pos rfl]
    · refine hgoes ?_ (by rw [hop])
      rw [State.applyHead_capture hfound hfor hdue hop, hclean]
      rfl
    · refine hgoes ?_ (by rw [hop])
      rw [State.applyHead_capture hfound hfor hdue hop, hclean]
      rfl
    · refine hgoes ?_ (by rw [hop])
      rw [State.applyHead_put hfound hfor hdue hop, hclean]
      rfl
    · refine hgoes ?_ (by rw [hop])
      rw [State.applyHead_put hfound hfor hdue hop, hclean]
      rfl
    · exact hgoes (State.applyHead_add hfound hfor hdue hclean hop) (by rw [hop])
    · exact hgoes (State.applyHead_wait hfound hfor hdue hclean hop hholds) (by rw [hop])
    · exact hgoes (State.applyHead_claim hfound hfor hdue hclean hop hsound) (decide_eq_true hop)
    · exact ⟨_, hgoes (State.applyHead_alight hfound hfor hdue hop hfresh) (by rw [hop]), rfl, rfl⟩
  · have hgoes : ∀ {t : State}, s.tryBoard b k e none = some t →
        exec (.ringBoardApply b n) s = .next (t.stationAt b (8 * b + n)) := fun htry =>
      congrArg Host.Outcome.next (State.applyOne_goes hturn hholder hq ((State.applyHead_board hop hn).trans htry) (by rw [hop]))
    refine ⟨fun hlocked => hgoes (State.tryBoard_locked none hlocked), fun hlocked hfull => hgoes (State.tryBoard_full none hlocked hfull),
      fun hlocked hroom hfree hserves hsound hctx => ⟨_, hgoes (State.tryBoard_boards hlocked hroom hfree hserves hsound hctx hq),
        State.boardLine_spec (s.unstall k.ctx) _ _ _ _ _⟩⟩

end Sys2Proof.Machine
end

section
/-!
SUPPORT. How a ring instruction names its line, when it may join the ring queue, and what joining leaves; RingInstructions is assembled from these.
-/
namespace Sys2Proof.Machine

/-! ### Joining the ring queue (R180, R188, R191) -/

section
variable {s : State} {ea : Word} {x off : Nat}

theorem State.ringReach_ok {align : Nat} {own : Bool} (go : Nat → Nat → Out) (hplace : s.ringPlace ea align own = .ok (x, off)) :
    s.ringReach ea align own go = go x off := by
  simp only [State.ringReach, hplace]
/-- What has a ring place has a ring home. -/
theorem State.ringHome_isSome {align : Nat} {own : Bool} (hplace : s.ringPlace ea align own = .ok (x, off)) : (s.ringHome ea own).isSome = true := by
  cases hhome : s.ringHome ea own with
  | some p => rfl
  | none => simp [State.ringPlace, hhome] at hplace
/-- Parking the current slot after a change of it changes that slot alone. -/
theorem State.park_modSlot (s : State) (f : Slot → Slot) (w : Wait) : ∃ t : State, (s.modSlot s.cur f).park w = .next t ∧
    t.me = { f s.me with mode := .parked w } ∧ t.mem = s.mem ∧ t.rings = s.rings ∧ ∀ key, key ≠ s.cur → t.slotAt key = s.slotAt key := by
  refine ⟨_, rfl, ?_, rfl, rfl, fun key hkey => (State.slotAt_modSlot_ne _ _ hkey).trans (State.slotAt_modSlot_ne _ _ hkey)⟩
  exact (State.slotAt_modSlot_self _ _ _).trans (congrArg (fun k : Slot => { k with mode := .parked w }) (State.slotAt_modSlot_self s s.cur f))
/-- With room in its ring queue a slot's entry joins at the end, and the slot parks; nothing else changes. -/
theorem State.ringPark_joins {o : Out} {e : RingEntry} {kind : ReqKind} (h : o = s.ringPark e kind) (hroom : s.me.ringq.length < 4) :
    ∃ t : State, o = .next t ∧ t.me.mode = .parked .ring ∧ t.me.ringq = s.me.ringq ++ [e] ∧ t.me.g = s.me.g ∧ t.mem = s.mem ∧
      t.rings = s.rings ∧ ∀ key, key ≠ s.cur → t.slotAt key = s.slotAt key := by
  rw [State.ringPark, if_neg (Nat.not_le.mpr hroom)] at h
  obtain ⟨t, ht, hme, hothers⟩ := s.park_modSlot (fun k =>
    { k.enqueue e with req := some (mkReq kind e.ea (.sram e.brick (64 * e.line + 8 * e.word)) 0 e.reg 0 0) }) .ring
  exact ⟨t, h.trans ht, by rw [hme], by rw [hme]; rfl, by rw [hme]; rfl, hothers⟩
/-- A ring write with nothing before it is made (R188). -/
theorem State.ringWrite_ready (go : Out) (hsb : s.me.sb = []) (hqueue : s.me.ringq = []) : s.ringWrite go = go := by
  rw [State.ringWrite, State.drained_done hsb, if_neg (not_not.mpr hqueue)]

/-! ### Checks of wide registers (R307) -/

theorem State.notAtEnd_plain {srcs : List WReg} (d : Option WReg) (go : Out) (hu : s.me.unbound) : s.notAtEnd srcs d go = go := by
  obtain ⟨h0, h1, h2⟩ := hu
  have hend : s.me.streamEnd srcs d = none := by
    simp [Slot.streamEnd, Slot.popsOf_unbound h0 h1, Slot.pushes, h2]
  simp only [State.notAtEnd, hend]
theorem State.pushGuard_plain (d : Option WReg) (go : Out) (hu : s.me.unbound) : s.pushGuard d go = go := by
  have hpush : s.me.pushes d = false := by simp [Slot.pushes, hu.2.2]
  simp only [State.pushGuard, hpush, Bool.false_eq_true, if_false, Bool.false_and]
/-- With no port bound and every source valid, a wide ring instruction reaches its line. -/
theorem State.ringLine_plain {srcs : List WReg} (d : Option WReg) (go : Nat → Nat → Out) (hu : s.me.unbound) (hv : s.me.valid srcs)
    (hplace : s.ringPlace ea 64 false = .ok (x, off)) : s.ringLine ea srcs d go = go x off := by
  obtain ⟨home, hhome⟩ := Option.isSome_iff_exists.mp (State.ringHome_isSome hplace)
  have hchecks := State.wChecks_plain d (go x off) hu hv
  rw [State.wChecks] at hchecks
  simp only [State.ringLine, hhome, State.ringReach_ok go hplace]
  exact hchecks

end

/-! ### The instructions -/

section
variable {s : State} {r b : GReg} {i : BitVec 14} {x off : Nat}

theorem exec_rcap_word (hplace : s.ringPlace (eaM s.me b i) 8 false = .ok (x, off)) : exec (.rcap .word r b i) s =
    s.ringPark (s.ringEntry (.capture .word) (eaM s.me b i) x off r.val) .ringWord := State.ringReach_ok _ hplace
theorem exec_rcap_line (hplace : s.ringPlace (eaM s.me b i) 64 false = .ok (x, off)) (hu : s.me.unbound) : exec (.rcap .line r b i) s =
    s.ringPark (s.ringEntry (.capture .line) (eaM s.me b i) x off r.val) .ringLine :=
  (State.ringLine_plain _ _ hu (List.forall_mem_nil _) hplace).trans (State.pushGuard_plain _ _ hu)
theorem exec_rwait (c : RwCond) (hplace : s.ringPlace (eaM s.me b i) 8 false = .ok (x, off)) : exec (.rwait c r b i) s =
    s.ringPark (s.ringEntry (.wait c (s.me.getG r)) (eaM s.me b i) x off r.val) .ringWord := State.ringReach_ok _ hplace
/-- RBRD and NEST enter a boarding of a held and allocated sub-bank that is there (R183 steps 1 and 2). -/
theorem State.boardFrom_parks {ea : Word} (nest : Option Line) (hplace : s.ringPlace ea 64 true = .ok (x, off))
    (hheld : s.holdsSub s.me.vd (off / 2 ^ 16) = true) (hthere : (s.subBank x (off / 2 ^ 16)).power ≠ .unavailable)
    (halloc : (s.subBank x (off / 2 ^ 16)).alloc = true) (hsb : s.me.sb = []) :
    s.boardFrom ea r nest = s.ringPark (s.ringEntry (.board nest) ea x off r.val) .ringWord := by
  rw [State.boardFrom, State.ringReach_ok _ hplace]
  simp only [hheld, hthere, halloc, decide_false, Bool.not_true, Bool.or_false, Bool.false_eq_true, if_false, State.drained_done hsb]
/-- NEST of operands that describe a nest boards the descriptor's line (R298). -/
theorem exec_nestRing (hok : nestOk (s.me.getG r) (s.me.getG (GReg.plus r 1)) (s.me.getG (GReg.plus r 2)) = true) :
    exec (.nestRing r b i) s = s.boardFrom (eaM s.me b i) r
      (some (nestLine (s.me.getG r) (s.me.getG (GReg.plus r 1)) (s.me.getG (GReg.plus r 2)))) := if_neg (by simp [hok])

section
variable (hsb : s.me.sb = []) (hqueue : s.me.ringq = [])
include hsb hqueue

theorem exec_radd (hplace : s.ringPlace (eaM s.me b i) 8 false = .ok (x, off)) : exec (.radd r b i) s =
    s.ringPark (s.ringEntry (.add (s.me.getG r)) (eaM s.me b i) x off r.val) .ringWord :=
  (State.ringReach_ok _ hplace).trans (State.ringWrite_ready _ hsb hqueue)
theorem exec_ralt (hplace : s.ringPlace (eaM s.me b i) 64 false = .ok (x, off)) : exec (.ralt r b i) s =
    s.ringPark (s.ringEntry (.alight false) (eaM s.me b i) x off r.val) .ringWord :=
  (State.ringReach_ok _ hplace).trans (State.ringWrite_ready _ hsb hqueue)
theorem exec_iterRing (hplace : s.ringPlace (eaM s.me b i) 64 false = .ok (x, off)) : exec (.iterRing b i) s =
    s.ringPark (s.ringEntry .claim (eaM s.me b i) x off 0) .ringClaim :=
  (State.ringReach_ok _ hplace).trans (State.ringWrite_ready _ hsb hqueue)
/-- A put of a word joins the ring queue, and the slot goes on (R294). -/
theorem State.putValue_queues {ea : Word} (v : Word) (hplace : s.ringPlace ea 8 false = .ok (x, off)) : s.putValue ea v =
    .next (s.after (s.me.dropAhead.enqueue (s.ringEntry (.put .word (lineOf v)) ea x off 0))) :=
  (State.ringReach_ok _ hplace).trans (State.ringWrite_ready _ hsb hqueue)
/-- A put of a line whose register is valid and no port joins the ring queue, and the slot goes on (R294). -/
theorem exec_rput_line (hplace : s.ringPlace (eaM s.me b i) 64 false = .ok (x, off)) (hu : s.me.unbound)
    (hvalid : s.me.wValid (toW r) = true) : exec (.rput .line r b i) s = .next (s.after
      (s.me.dropAhead.enqueue (s.ringEntry (.put .line s.me.w[toW r]) (eaM s.me b i) x off 0))) := by
  obtain ⟨h0, h1, -⟩ := id hu
  refine (State.ringLine_plain _ _ hu (List.forall_mem_singleton.mpr hvalid) hplace).trans
    ((State.ringWrite_ready _ hsb hqueue).trans ?_)
  simp only [Slot.popsOf_unbound h0 h1, State.popping, State.reachPops, State.popAll, ne_eq, not_true_eq_false, if_false]
  rfl

end
end

/-- Settles O35: each instruction enters its entry by its equation, and those that wait park by `State.ringPark_joins`. -/
theorem ringInstructions : Obligations.RingInstructions := by
  unfold Obligations.RingInstructions
  refine ⟨fun s r b i c x off => ⟨fun hplace hroom => ⟨?_, ?_⟩, fun hplace hroom hu => ?_, fun hplace hsb hqueue => ?_,
    fun hplace hsb hqueue => ⟨?_, ?_⟩, fun hplace hheld hthere halloc hsb hroom => ⟨?_, fun hnest => ?_⟩⟩,
    fun s r b i v x off hsb hqueue => ⟨fun hplace => ⟨?_, ?_⟩, fun hplace hu hvalid => ?_⟩⟩
  · exact State.ringPark_joins (exec_rcap_word hplace) hroom
  · exact State.ringPark_joins (exec_rwait c hplace) hroom
  · exact State.ringPark_joins (exec_rcap_line hplace hu) hroom
  · exact State.ringPark_joins (exec_radd hsb hqueue hplace) (by simp [hqueue])
  · exact State.ringPark_joins (exec_ralt hsb hqueue hplace) (by simp [hqueue])
  · exact State.ringPark_joins (exec_iterRing hsb hqueue hplace) (by simp [hqueue])
  · exact State.ringPark_joins (State.boardFrom_parks none hplace hheld hthere halloc hsb) hroom
  · exact State.ringPark_joins ((exec_nestRing hnest).trans (State.boardFrom_parks _ hplace hheld hthere halloc hsb)) hroom
  · exact State.putValue_queues hsb hqueue _ hplace
  · exact State.putValue_queues hsb hqueue _ hplace
  · exact exec_rput_line hsb hqueue hplace hu hvalid

end Sys2Proof.Machine
end

section
/-!
SUPPORT. How a frame is counted and steered, what a steering queue does with the frames that it accepts, what a written entry holds, and what flits and retraining make of a Birtil port; NetworkAndLinks is assembled from these.
-/
namespace Sys2Proof.Machine

/-! ### Ports -/

@[simp] theorem State.ethPort_modEth_self (s : State) (port : Nat) (f : EthPort → EthPort) :
    (s.modEth port f).ethPort port = f (s.ethPort port) := KMap.getD_set_self _ _ _ _
@[simp] theorem State.birtilPort_setBirtil_self (s : State) (port : Nat) (b : BirtilPort) : (s.setBirtil port b).birtilPort port = b :=
  KMap.getD_set_self _ _ _ _
/-- A frame dropped at its port raises the one counter of its fault. -/
theorem execFrameDropAtPort_counts (s : State) (port : Nat) (why : PortDrop) : ∃ t : State, exec (.frameDropAtPort port why) s = .next t ∧
    t.mem = s.mem ∧ t.queues = s.queues ∧ t.slots = s.slots ∧
      (t.ethPort port).fcs = (s.ethPort port).fcs + b2n (decide (why = .fcs)) ∧
      (t.ethPort port).runts = (s.ethPort port).runts + b2n (decide (why = .runt)) ∧
      (t.ethPort port).oversize = (s.ethPort port).oversize + b2n (decide (why = .oversize)) := by
  refine ⟨_, rfl, rfl, rfl, rfl, ?_⟩
  rw [State.ethPort_modEth_self]
  cases why <;> exact ⟨rfl, rfl, rfl⟩

/-! ### Bytes of an entry (R52, R53) -/

/-- A header of two parts with its data behind it, written from the back, reads back part by part, and no other byte changes. -/
theorem Mem.entry_reads {m : List Host.Cell} (hwf : Memory.wf m = true) (a : Nat) {word0 header : List Byte} (data : List Byte)
    (hword : word0.length = 8) (hheader : header.length = 56) :
    let m' := Mem.writeBytes (Mem.writeBytes (Mem.writeBytes m (a + 64) data) (a + 8) header) a word0
    Mem.readBytes m' a 8 = word0 ∧ Mem.readBytes m' (a + 8) 56 = header ∧ Mem.readBytes m' (a + 64) data.length = data ∧
      ∀ y, y < a ∨ a + 64 + data.length ≤ y → Mem.read m' y = Mem.read m y := by
  have hdata := Memory.wf_writeBytes data (a + 64) hwf
  have hboth := Memory.wf_writeBytes header (a + 8) hdata
  refine ⟨?_, ?_, ?_, fun y hy => ?_⟩
  · have hread := Mem.readBytes_writeBytes word0 a hboth
    rwa [hword] at hread
  · have hread := Mem.readBytes_writeBytes header (a + 8) hdata
    rw [hheader] at hread
    refine (Mem.readBytes_congr _ fun y hlo _ => Mem.read_writeBytes_ne _ _ (.inr ?_)).trans hread
    omega
  · refine (Mem.readBytes_congr _ fun y hlo _ => ?_).trans (Mem.readBytes_writeBytes data (a + 64) hwf)
    rw [Mem.read_writeBytes_ne _ _ (.inr (by omega)), Mem.read_writeBytes_ne _ _ (.inr (by omega))]
  · rw [Mem.read_writeBytes_ne _ _ (by omega), Mem.read_writeBytes_ne _ _ (by omega), Mem.read_writeBytes_ne _ _ (by omega)]

/-- Address of the entry at a queue's write index. -/
def SteerQueue.entryKey (q : SteerQueue) : Nat := bankAddr q.brick (q.offset + q.widx * 2 ^ q.log2s)
theorem SteerQueue.key_place (q : SteerQueue) (off : Nat) : (q.place q.widx off).key = q.entryKey + off := (Nat.add_assoc _ _ _).symm
theorem SteerQueue.feBit_place (q : SteerQueue) (s : State) (entry off : Nat) :
    s.feBit (q.place entry off) = s.fe.contains ((q.place entry off).key / 8 * 8) := rfl
theorem State.setSteer_mem (s : State) (qn : Nat) (q : SteerQueue) : (s.setSteer qn q).mem = s.mem := rfl
theorem State.setSteer_fe (s : State) (qn : Nat) (q : SteerQueue) : (s.setSteer qn q).fe = s.fe := rfl
theorem entryHeader_length (seq stamp : Nat) : (entryHeader seq stamp).length = 56 := by
  simp only [entryHeader, List.length_append, leBytes_length, List.length_replicate]
/-- Bytes of a frame that an entry of a queue has room for. -/
def SteerQueue.room (q : SteerQueue) : Nat := 2 ^ q.log2s - 64
/-- Word 0 of the entry that a queue makes of a frame. -/
def SteerQueue.word0 (q : SteerQueue) (x : SteeredFrame) : List Byte :=
  leBytes 8 (entryWord0 x.seq x.bytes.length (decide (q.room < x.bytes.length)) x.port x.rule)
theorem State.poke_entry (s : State) (q : SteerQueue) (off : Nat) (bs : List Byte) :
    (s.poke 0 (q.place q.widx off) bs).mem = Mem.writeBytes s.mem (q.entryKey + off) bs ∧
      (s.poke 0 (q.place q.widx off) bs).fe = s.fe ∧ (s.poke 0 (q.place q.widx off) bs).feq = s.feq := by
  obtain ⟨hmem, -, -, -, hfe, hfeq, -⟩ := s.poke_sram 0 q.brick (q.offset + q.widx * 2 ^ q.log2s + off) bs
  exact ⟨hmem.trans (congrArg (Mem.writeBytes s.mem · bs) (q.key_place off)), hfe, hfeq⟩
theorem SteerQueue.word0_length (q : SteerQueue) (x : SteeredFrame) : (q.word0 x).length = 8 := leBytes_length _ _
/-- The machine once the bytes of a frame's entry have been laid down, word 0 last. -/
def State.entryLaid (s : State) (q : SteerQueue) (x : SteeredFrame) : State :=
  ((s.poke 0 (q.place q.widx 64) (entryData q.room x.bytes)).poke 0 (q.place q.widx 8) (entryHeader x.seq x.stamp)).poke 0
    (q.place q.widx 0) (q.word0 x)
theorem State.entryLaid_frame (s : State) (q : SteerQueue) (x : SteeredFrame) : (s.entryLaid q x).mem =
      Mem.writeBytes (Mem.writeBytes (Mem.writeBytes s.mem (q.entryKey + 64) (entryData q.room x.bytes)) (q.entryKey + 8)
        (entryHeader x.seq x.stamp)) q.entryKey (q.word0 x) ∧
    (s.entryLaid q x).fe = s.fe ∧ (s.entryLaid q x).feq = s.feq := by
  have hdata := s.poke_entry q 64 (entryData q.room x.bytes)
  have hheader := State.poke_entry (s.poke 0 (q.place q.widx 64) (entryData q.room x.bytes)) q 8 (entryHeader x.seq x.stamp)
  rw [hdata.1, hdata.2.1, hdata.2.2] at hheader
  have hword := State.poke_entry ((s.poke 0 (q.place q.widx 64) (entryData q.room x.bytes)).poke 0 (q.place q.widx 8)
    (entryHeader x.seq x.stamp)) q 0 (q.word0 x)
  rw [hheader.1, hheader.2.1, hheader.2.2] at hword
  exact hword
/-- The machine once the entry is laid down and its word 0 set full, before what waits there is served. -/
def State.entryFull (s : State) (q : SteerQueue) (x : SteeredFrame) : State :=
  ((s.entryLaid q x).touch (q.place q.widx 0)).setFe (q.place q.widx 0) true
theorem State.entryFull_frame (s : State) (q : SteerQueue) (x : SteeredFrame) : (s.entryFull q x).mem = (s.entryLaid q x).mem ∧
    (s.entryFull q x).fe = NSet.insert s.fe ((q.place q.widx 0).key / 8 * 8) ∧ (s.entryFull q x).feq = s.feq := by
  obtain ⟨-, hfe, hfeq⟩ := s.entryLaid_frame q x
  refine ⟨?_, ?_, ?_⟩
  · rw [State.entryFull, State.setFe_mem, State.touch_mem]
  · rw [← hfe, ← State.touch_fe (s.entryLaid q x) (q.place q.widx 0)]
    rfl
  · rw [State.entryFull, State.setFe_feq, State.touch_feq, hfeq]
theorem State.writeFrame_eq (s : State) (q : SteerQueue) (x : SteeredFrame) : s.writeFrame q x =
    ((s.entryFull q x).feWake ((q.place q.widx 0).key / 8 * 8)).setSteer x.queue { q with
      widx := (q.widx + 1) % 2 ^ q.log2e, truncated := q.truncated + b2n (decide (q.room < x.bytes.length)) } := by
  unfold State.writeFrame State.entryFull State.entryLaid SteerQueue.word0 SteerQueue.room
  rfl
/-- A frame at whose word nothing waits is written into its entry: word 0, header and data, and the word is full (R53, R54). -/
theorem State.writeFrame_spec (s : State) (q : SteerQueue) (x : SteeredFrame) (hwf : Memory.wf s.mem = true)
    (hwaiters : KMap.find? s.feq ((q.place q.widx 0).key / 8 * 8) = none) :
    let t := s.writeFrame q x
    let data := entryData q.room x.bytes
    t.feBit (q.place q.widx 0) = true ∧ Mem.readBytes t.mem q.entryKey 8 = q.word0 x ∧
      Mem.readBytes t.mem (q.entryKey + 8) 56 = entryHeader x.seq x.stamp ∧
      Mem.readBytes t.mem (q.entryKey + 64) data.length = data ∧
      (∀ a, a < q.entryKey ∨ q.entryKey + 64 + data.length ≤ a → Mem.read t.mem a = Mem.read s.mem a) ∧
      KMap.find? t.queues x.queue = some { q with
        widx := (q.widx + 1) % 2 ^ q.log2e, truncated := q.truncated + b2n (decide (q.room < x.bytes.length)) } := by
  rw [State.writeFrame_eq]
  dsimp only
  rw [State.setSteer_mem]
  obtain ⟨hfull, hfe, hfeq⟩ := s.entryFull_frame q x
  rw [← hfeq] at hwaiters
  obtain ⟨hcore, hwoken⟩ := State.feWake_alone hwaiters
  have hmem := ((State.core_eq hcore).1).trans (hfull.trans (s.entryLaid_frame q x).1)
  obtain ⟨hword, hheader, hdata, hothers⟩ := Mem.entry_reads hwf q.entryKey (entryData q.room x.bytes)
    (q.word0_length x) (entryHeader_length x.seq x.stamp)
  rw [← hmem] at hword hheader hdata hothers
  refine ⟨?_, hword, hheader, hdata, hothers, KMap.find?_set_self _ _ _⟩
  rw [SteerQueue.feBit_place, State.setSteer_fe, hwoken, hfe]
  exact NSet.contains_insert_self _ _

/-! ### Frames that a queue has accepted (R53) -/

/-- The places that a frame of a length needs: word 0 of the entry at the write index, and the entry's lines. -/
def SteerQueue.needs (q : SteerQueue) (len : Nat) : List Place :=
  q.place q.widx 0 :: (List.range (1 + ceilDiv (min len q.room) 64)).map fun i => q.place q.widx (64 * i)

section
variable {s : State} {x : SteeredFrame} {q : SteerQueue} (hq : KMap.find? s.queues x.queue = some q)
include hq

/-- A frame waits where one of its places cannot serve (R21). -/
theorem State.putFrame_waits (hblocked : ∃ l ∈ q.needs x.bytes.length, s.blocked x.id l = true) :
    ∃ p, s.putFrame x = (s.stallAt x.id p, true) := by
  obtain ⟨p, hp⟩ := Option.isSome_iff_exists.mp (List.find?_isSome.mpr hblocked)
  simp only [SteerQueue.needs, SteerQueue.room] at hp
  exact ⟨p, by simp only [State.putFrame, hq, hp]⟩

section
variable (hserves : ∀ l ∈ q.needs x.bytes.length, s.blocked x.id l = false)
include hserves

/-- A frame whose places serve is dropped at an entry that is full, or has a line locked on the ring. -/
theorem State.putFrame_drops (hfull : s.feBit (q.place q.widx 0) = true ∨ s.entryLocked q x.bytes.length = true) : s.putFrame x =
    ((s.unstall x.id).setSteer x.queue { q with fullDrops := q.fullDrops + 1 }, false) := by
  have hnone : ((q.needs x.bytes.length).find? fun p => s.blocked x.id p) = none :=
    List.find?_eq_none.mpr fun l hl => ne_true_of_eq_false (hserves l hl)
  simp only [SteerQueue.needs, SteerQueue.room] at hnone
  simp only [State.putFrame, hq, hnone]
  exact if_pos (Bool.or_eq_true_iff.mpr hfull)
/-- A frame whose places serve is written into an entry that is empty and unlocked. -/
theorem State.putFrame_writes (hempty : s.feBit (q.place q.widx 0) = false) (hunlocked : s.entryLocked q x.bytes.length = false) :
    s.putFrame x = ((s.unstall x.id).writeFrame q x, false) := by
  have hnone : ((q.needs x.bytes.length).find? fun p => s.blocked x.id p) = none :=
    List.find?_eq_none.mpr fun l hl => ne_true_of_eq_false (hserves l hl)
  simp only [SteerQueue.needs, SteerQueue.room] at hnone
  simp only [State.putFrame, hq, hnone]
  exact if_neg (ne_true_of_eq_false (Bool.or_eq_false_iff.mpr ⟨hempty, hunlocked⟩))

end
end

/-- A queue that has accepted a frame: SEQ has moved on (R53). -/
def SteerQueue.accepts (q : SteerQueue) : SteerQueue := { q with seq := (q.seq + 1) % 2 ^ 64, accepted := q.accepted + 1 }
theorem SteerQueue.accepts_place (q : SteerQueue) (off : Nat) : q.accepts.place q.accepts.widx off = q.place q.widx off := by
  simp only [SteerQueue.place, SteerQueue.accepts]
theorem SteerQueue.accepts_needs (q : SteerQueue) (len : Nat) : q.accepts.needs len = q.needs len := by
  simp only [SteerQueue.needs, q.accepts_place]
  rfl
theorem SteerQueue.accepts_entryKey (q : SteerQueue) : q.accepts.entryKey = q.entryKey := by
  simp only [SteerQueue.entryKey, SteerQueue.accepts]
theorem SteerQueue.accepts_room (q : SteerQueue) : q.accepts.room = q.room := by
  simp only [SteerQueue.room, SteerQueue.accepts]
theorem State.accepts_locked (s : State) (q : SteerQueue) (len : Nat) : s.entryLocked q.accepts len = s.entryLocked q len := by
  simp only [State.entryLocked, q.accepts_place]
  rfl
/-- A frame as a queue accepts it. -/
def State.newFrame (s : State) (qn : Nat) (q : SteerQueue) (port rule : Nat) (f : List Byte) : SteeredFrame :=
  ⟨s.nextId, qn, port, rule, q.seq, s.frameStamp f, f⟩

section
variable {s t : State} {qn : Nat} {q : SteerQueue} {port rule : Nat} {f : List Byte} (hnone : ∀ x ∈ s.frames, x.queue ≠ qn)
include hnone

/-- A frame of a queue in which none waits is written at once, unless memory makes it wait. -/
theorem State.queueFrame_done (hput : (s.setSteer qn q.accepts).putFrame (s.newFrame qn q port rule f) = (t, false)) :
    s.queueFrame qn q port rule f = t := by
  have hfirst : (s.frames.any fun y => decide (y.queue = qn)) = false := List.any_eq_false.mpr fun x hx => by simp [hnone x hx]
  simp only [State.newFrame, SteerQueue.accepts] at hput
  simp only [State.queueFrame, State.setSteer] at hput ⊢
  simp only [hfirst, hput, Bool.false_eq_true, if_false]
theorem State.queueFrame_waits (hput : (s.setSteer qn q.accepts).putFrame (s.newFrame qn q port rule f) = (t, true)) :
    s.queueFrame qn q port rule f = { t with frames := t.frames ++ [s.newFrame qn q port rule f], nextId := t.nextId + 1 } := by
  have hfirst : (s.frames.any fun y => decide (y.queue = qn)) = false := List.any_eq_false.mpr fun x hx => by simp [hnone x hx]
  simp only [State.newFrame, SteerQueue.accepts] at hput ⊢
  simp only [State.queueFrame, State.setSteer] at hput ⊢
  simp only [hfirst, hput, Bool.false_eq_true, if_false]

end

/-! ### What a queue makes of a frame (R50 to R53) -/

/-- A wait for memory leaves bytes, words' bits, frames and queues. -/
theorem State.stallAt_ingest (s : State) (token : Nat) (p : Place) : (s.stallAt token p).mem = s.mem ∧ (s.stallAt token p).fe = s.fe ∧
    (s.stallAt token p).frames = s.frames ∧ (s.stallAt token p).queues = s.queues := by
  have hwake : (s.wake p).mem = s.mem ∧ (s.wake p).fe = s.fe ∧ (s.wake p).frames = s.frames ∧ (s.wake p).queues = s.queues := by
    unfold State.wake
    split
    · split <;> exact ⟨rfl, rfl, rfl, rfl⟩
    · split <;> exact ⟨rfl, rfl, rfl, rfl⟩
    · exact ⟨rfl, rfl, rfl, rfl⟩
    · exact ⟨rfl, rfl, rfl, rfl⟩
  unfold State.stallAt
  split <;> exact hwake
theorem State.setSteer_blocked (s : State) (qn : Nat) (q : SteerQueue) (token : Nat) (p : Place) :
    (s.setSteer qn q).blocked token p = s.blocked token p := rfl
theorem State.find?_setSteer (s : State) (qn : Nat) (q : SteerQueue) : KMap.find? (s.setSteer qn q).queues qn = some q :=
  KMap.find?_set_self _ _ _

section
variable {s : State} {qn : Nat} {q : SteerQueue} (port rule : Nat) {f : List Byte} (hfirst : ∀ x ∈ s.frames, x.queue ≠ qn)
include hfirst

/-- While the memory of its entry cannot serve, a frame waits with its SEQ and STAMP. -/
theorem State.queueFrame_blocked (hblocked : ∃ l ∈ q.needs f.length, s.blocked s.nextId l = true) :
    let t := s.queueFrame qn q port rule f
    t.mem = s.mem ∧ t.fe = s.fe ∧ t.frames = s.frames ++ [s.newFrame qn q port rule f] ∧ KMap.find? t.queues qn = some q.accepts := by
  obtain ⟨p, hput⟩ := State.putFrame_waits (x := s.newFrame qn q port rule f) (s.find?_setSteer qn q.accepts)
    (by rwa [q.accepts_needs])
  obtain ⟨hmem, hfe, hframes, hqueues⟩ := (s.setSteer qn q.accepts).stallAt_ingest (s.newFrame qn q port rule f).id p
  rw [State.queueFrame_waits hfirst hput]
  exact ⟨hmem, hfe, congrArg (· ++ [s.newFrame qn q port rule f]) hframes, by rw [hqueues]; exact s.find?_setSteer qn q.accepts⟩

section
variable (hserves : ∀ l ∈ q.needs f.length, s.blocked s.nextId l = false)
include hserves

/-- A full or locked entry drops the frame, and SEQ has moved on. -/
theorem State.queueFrame_dropped (hfull : s.feBit (q.place q.widx 0) = true ∨ s.entryLocked q f.length = true) :
    let t := s.queueFrame qn q port rule f
    t.mem = s.mem ∧ KMap.find? t.queues qn = some { q.accepts with fullDrops := q.fullDrops + 1 } := by
  have hput := State.putFrame_drops (x := s.newFrame qn q port rule f) (s.find?_setSteer qn q.accepts) (by rwa [q.accepts_needs])
    (by rwa [q.accepts_place, State.accepts_locked])
  rw [State.queueFrame_done hfirst hput]
  exact ⟨rfl, State.find?_setSteer _ _ _⟩
/-- An empty entry at whose word nothing waits takes the frame: word 0, header and data, and the word is full. -/
theorem State.queueFrame_written (hwf : Memory.wf s.mem = true) (hempty : s.feBit (q.place q.widx 0) = false)
    (hunlocked : s.entryLocked q f.length = false) (hwaiters : KMap.find? s.feq ((q.place q.widx 0).key / 8 * 8) = none) :
    let t := s.queueFrame qn q port rule f
    let data := entryData q.room f
    t.feBit (q.place q.widx 0) = true ∧
      Mem.readBytes t.mem q.entryKey 8 = leBytes 8 (entryWord0 q.seq f.length (decide (q.room < f.length)) port rule) ∧
      Mem.readBytes t.mem (q.entryKey + 8) 56 = entryHeader q.seq (s.frameStamp f) ∧
      Mem.readBytes t.mem (q.entryKey + 64) data.length = data ∧
      (∀ a, a < q.entryKey ∨ q.entryKey + 64 + data.length ≤ a → Mem.read t.mem a = Mem.read s.mem a) ∧
      KMap.find? t.queues qn = some { q.accepts with
        widx := (q.widx + 1) % 2 ^ q.log2e, truncated := q.truncated + b2n (decide (q.room < f.length)) } := by
  have hput := State.putFrame_writes (x := s.newFrame qn q port rule f) (s.find?_setSteer qn q.accepts) (by rwa [q.accepts_needs])
    (by rwa [q.accepts_place]) (by rwa [State.accepts_locked])
  have hspec := State.writeFrame_spec ((s.setSteer qn q.accepts).unstall (s.newFrame qn q port rule f).id) q.accepts
    (s.newFrame qn q port rule f) hwf (by rwa [q.accepts_place])
  rw [q.accepts_place, q.accepts_entryKey, q.accepts_room] at hspec
  rw [State.queueFrame_done hfirst hput]
  exact hspec

end
end

section
variable (s : State) (port n : Nat) {r : SteerRule} (f : List Byte)

theorem State.steer_queue {q : SteerQueue} (haction : leAt r.record 3 1 = 0) (hq : KMap.find? s.queues (leAt r.record 4 2) = some q)
    (hen : q.en = true) : s.steer port n r f = s.queueFrame (leAt r.record 4 2) q port n f := by
  simp only [State.steer, haction, hq, hen, if_true]
theorem State.steer_drop (haction : leAt r.record 3 1 = 1) : s.steer port n r f = s := by
  simp only [State.steer, haction]
theorem State.steer_management (haction : 2 ≤ leAt r.record 3 1) : s.steer port n r f = s.toManagement port true := by
  unfold State.steer
  split
  · omega
  · omega
  · rfl

end

/-! ### FRAME_ACCEPT (R49 to R55) -/

/-- The machine once a frame has been counted as received at its port. -/
def State.frameCounted (s : State) (port : Nat) : State :=
  s.modEth port fun e => { e with received := e.received + 1, lastEnd := max 1 s.devHalfNs }
/-- What a frame leaves that no queue takes. -/
def State.FrameKept (s t : State) (port : Nat) : Prop :=
  t.mem = s.mem ∧ t.fe = s.fe ∧ t.queues = s.queues ∧ (t.ethPort port).received = (s.ethPort port).received + 1
theorem State.frameCounted_kept (s : State) (port : Nat) : s.FrameKept (s.frameCounted port) port :=
  ⟨rfl, rfl, rfl, congrArg EthPort.received (s.ethPort_modEth_self port _)⟩
/-- A frame that goes to management is counted there, and as unmatched when no rule took it. -/
theorem State.toManagement_kept (s : State) (port : Nat) (matched : Bool) :
    let t := (s.frameCounted port).toManagement port matched
    s.FrameKept t port ∧ (t.ethPort port).management = (s.ethPort port).management + 1 ∧
      (t.ethPort port).unmatched = (s.ethPort port).unmatched + b2n (!matched) := by
  have heth : ((s.frameCounted port).toManagement port matched).ethPort port = { s.ethPort port with
      received := (s.ethPort port).received + 1, lastEnd := max 1 s.devHalfNs, management := (s.ethPort port).management + 1,
      unmatched := (s.ethPort port).unmatched + b2n (!matched) } := by
    rw [State.toManagement, State.ethPort_modEth_self, State.frameCounted, State.ethPort_modEth_self]
  refine ⟨⟨rfl, rfl, rfl, ?_⟩, ?_, ?_⟩ <;> rw [heth]

section
variable {s : State} {port : Nat} {f : List Byte}

/-- A frame longer than the MTU is counted as oversize and does nothing else (Table 1.9). -/
theorem exec_frameAccept_oversize (hlong : 9216 < f.length) : exec (.frameAccept port f) s =
    .next (s.modEth port fun e => { e with oversize := e.oversize + 1 }) := if_pos hlong

variable (hlen : f.length ≤ 9216) (hwire : s.wireFree port f = true)
include hlen hwire

/-- A frame that a rule of Nerem's takes goes to management. -/
theorem exec_frameAccept_nerem (htakes : Config.neremTakes port f = true) : exec (.frameAccept port f) s =
    .next ((s.frameCounted port).toManagement port true) := by
  show execFrameAccept port f s = _
  simp only [execFrameAccept, frameMax, Nat.not_lt.mpr hlen, hwire, htakes, Bool.not_true, Bool.false_eq_true, if_false, if_true]
  rfl
/-- A frame that a rule of Nerem's does not take is steered by the first rule that it matches. -/
theorem exec_frameAccept_matched {n : Nat} {r : SteerRule} (htakes : Config.neremTakes port f = false)
    (hfound : List.find? (fun (kv : Nat × SteerRule) => ruleMatches kv.2.record port f) s.rules = some (n, r)) :
    exec (.frameAccept port f) s = .next ((s.frameCounted port).steer port n r f) := by
  have hfound' : List.find? (fun (kv : Nat × SteerRule) => ruleMatches kv.2.record port f) (s.frameCounted port).rules = some (n, r) := hfound
  show execFrameAccept port f s = _
  simp only [execFrameAccept, frameMax, Nat.not_lt.mpr hlen, hwire, htakes, Bool.not_true, Bool.false_eq_true, if_false]
  rw [← State.frameCounted, hfound']
/-- A frame that no rule takes goes to management, unmatched. -/
theorem exec_frameAccept_unmatched (htakes : Config.neremTakes port f = false)
    (hfound : List.find? (fun (kv : Nat × SteerRule) => ruleMatches kv.2.record port f) s.rules = none) :
    exec (.frameAccept port f) s = .next ((s.frameCounted port).toManagement port false) := by
  have hfound' : List.find? (fun (kv : Nat × SteerRule) => ruleMatches kv.2.record port f) (s.frameCounted port).rules = none := hfound
  show execFrameAccept port f s = _
  simp only [execFrameAccept, frameMax, Nat.not_lt.mpr hlen, hwire, htakes, Bool.not_true, Bool.false_eq_true, if_false]
  rw [← State.frameCounted, hfound']
/-- FRAME_ACCEPT answers as a rule of Nerem's has it, or as steering has it. -/
theorem exec_frameAccept_steers {P : State → Prop} (hsteer : Config.neremTakes port f = false → ∃ t : State,
      exec (.frameAccept port f) s = .next t ∧ P t) : ∃ t : State, exec (.frameAccept port f) s = .next t ∧
    if Config.neremTakes port f then s.FrameKept t port ∧ (t.ethPort port).management = (s.ethPort port).management + 1 else P t := by
  cases htakes : Config.neremTakes port f with
  | true =>
    obtain ⟨hkept, hcount, -⟩ := s.toManagement_kept port true
    exact ⟨_, exec_frameAccept_nerem hlen hwire htakes, hkept, hcount⟩
  | false => exact hsteer htakes

end

/-! ### Device time (R38) -/

theorem State.discipline_spec (s : State) (corr : Int) : (s.discipline corr).slots = s.slots ∧ (s.discipline corr).mem = s.mem ∧
    (s.discipline corr).eth = s.eth ∧
    (1000000 < corr → (s.discipline corr).devHalfNs = s.devHalfNs + 2 * corr.toNat ∧ (s.discipline corr).slew = 0) ∧
    (corr ≤ 1000000 → (s.discipline corr).devHalfNs = s.devHalfNs ∧ (s.discipline corr).slew = 2 * corr) := by
  unfold State.discipline
  split
  · next h => exact ⟨rfl, rfl, rfl, fun _ => ⟨rfl, rfl⟩, fun h' => absurd h (not_lt.mpr h')⟩
  · next h => exact ⟨rfl, rfl, rfl, fun h' => absurd h' h, fun _ => ⟨rfl, rfl⟩⟩

/-! ### Birtil ports (R37) -/

/-- A flit that arrived whole and in sequence moves the port on and is acknowledged, whatever it carries. -/
def BirtilPort.next (b : BirtilPort) (ack : Nat) : BirtilPort :=
  { b with rxSeq := (b.rxSeq + 1) % 2 ^ 16, replays := 0, replay := (b.acknowledge ack).replay }
theorem BirtilPort.next_eq (b : BirtilPort) (ack : Nat) :
    ({ b with rxSeq := (b.rxSeq + 1) % 2 ^ 16, replays := 0 } : BirtilPort).acknowledge ack = b.next ack := by
  unfold BirtilPort.next BirtilPort.acknowledge
  dsimp only
  split <;> rfl
/-- Beside deliveries and protocol errors a port takes every flit alike. -/
theorem BirtilPort.take_common (b : BirtilPort) (f : List Byte) : (b.take f).rxSeq = (b.rxSeq + 1) % 2 ^ 16 ∧ (b.take f).link = b.link ∧
    (b.take f).replays = 0 ∧ (b.take f).replay = (b.acknowledge (leAt f 3 1)).replay := by
  unfold BirtilPort.take
  simp only [BirtilPort.next_eq]
  split
  · exact ⟨rfl, rfl, rfl, rfl⟩
  · split <;> exact ⟨rfl, rfl, rfl, rfl⟩
/-- A data flit is delivered on its virtual channel. -/
theorem BirtilPort.take_delivers {b : BirtilPort} {f : List Byte} (hvc : leAt f 2 1 < 4) (htype : leAt f 0 2 = 1) : (b.take f).delivered =
    KMap.set b.delivered (leAt f 2 1) (KMap.getD b.delivered (leAt f 2 1) [] ++ [f.drop 8]) := by
  simp only [BirtilPort.take, BirtilPort.next_eq, Nat.not_le.mpr hvc, htype, if_false]
  rfl
/-- A reserved bit of VC makes a flit a protocol error, undelivered. -/
theorem BirtilPort.take_reserved {b : BirtilPort} {f : List Byte} (hvc : 4 ≤ leAt f 2 1) : (b.take f).delivered = b.delivered ∧
    (b.take f).protocolErrors = b.protocolErrors + 1 := by
  simp only [BirtilPort.take, BirtilPort.next_eq, hvc, if_true]
  exact ⟨rfl, rfl⟩
/-- A failed flit is replayed; the ninth failure in a row retrains the port. -/
theorem BirtilPort.fail_spec (b : BirtilPort) : b.fail.rxSeq = b.rxSeq ∧ b.fail.delivered = b.delivered ∧
    (b.replays < 8 → b.fail.link = b.link ∧ b.fail.replays = b.replays + 1) ∧ (8 ≤ b.replays → b.fail.link = .retraining 8) := by
  unfold BirtilPort.fail
  split
  · next h => exact ⟨rfl, rfl, fun h' => by omega, fun _ => rfl⟩
  · next h => exact ⟨rfl, rfl, fun _ => ⟨rfl, rfl⟩, fun h' => by omega⟩

section
variable {s : State} {port : Nat}

section
variable {f : List Byte} (hup : (s.birtilPort port).up = true) (hlen : f.length = 64)
include hup hlen

theorem exec_flitReceive_failed (hcrc : crcOk f = false) : exec (.flitReceive port f) s =
    .next (s.setBirtil port (s.birtilPort port).fail) := by
  show execFlitReceive port f s = _
  simp only [execFlitReceive, hup, hlen, hcrc, ne_eq, not_true_eq_false, decide_false, Bool.not_true, Bool.or_self, Bool.false_eq_true,
    if_false, Bool.not_false, if_true]
theorem exec_flitReceive_whole (hcrc : crcOk f = true) : exec (.flitReceive port f) s =
    .next (if leAt f 4 2 = (s.birtilPort port).rxSeq then s.setBirtil port ((s.birtilPort port).take f) else s) := by
  show execFlitReceive port f s = _
  simp only [execFlitReceive, hup, hlen, hcrc, ne_eq, not_true_eq_false, decide_false, Bool.not_true, Bool.or_self, Bool.false_eq_true,
    if_false]
  split <;> rfl

end

/-- A port on which no write waits goes down alone. -/
theorem State.portDown_quiet (hquiet : (s.msgs.all fun m => !(m.place.onPort port)) = true) : s.portDown port =
    (s.setBirtil port { s.birtilPort port with link := .down, replay := [] }).log .portDown port := by
  have hnone : (s.msgs.filter fun m => m.place.onPort port && m.demand.isNone) = [] := List.filter_eq_nil_iff.mpr fun m hm => by
    have hoff := List.all_eq_true.mp hquiet m hm
    simp only [Bool.not_eq_true'] at hoff
    simp [hoff]
  have hmsgs : ((s.setBirtil port { s.birtilPort port with link := .down, replay := [] }).log .portDown port).msgs = s.msgs := rfl
  simp only [State.portDown, hmsgs, hnone, List.foldl_nil]
/-- RETRAIN_COMPLETE: with 8 lanes, then with 4, then the port is down. -/
theorem exec_retrainComplete_quiet {n : Nat} (ok : Bool) (hlink : (s.birtilPort port).link = .retraining n)
    (hquiet : (s.msgs.all fun m => !(m.place.onPort port)) = true) : ∃ t : State, exec (.retrainComplete port ok) s = .next t ∧
      t.mem = s.mem ∧ t.slots = s.slots ∧
      (t.birtilPort port).link = if ok then (if n = 8 then .lanes8 else .lanes4) else if n = 8 then .retraining 4 else .down := by
  have hexec : exec (.retrainComplete port ok) s = .next (if ok then
      s.setBirtil port { s.birtilPort port with link := if n = 8 then .lanes8 else .lanes4 }
    else if n = 8 then s.setBirtil port { s.birtilPort port with link := .retraining 4 } else s.portDown port) := by
    show execRetrainComplete port ok s = _
    simp only [execRetrainComplete, hlink]
    split
    · rfl
    · split <;> rfl
  refine ⟨_, hexec, ?_⟩
  rw [State.portDown_quiet hquiet]
  split
  · exact ⟨rfl, rfl, congrArg BirtilPort.link (s.birtilPort_setBirtil_self port _)⟩
  · split
    · exact ⟨rfl, rfl, congrArg BirtilPort.link (s.birtilPort_setBirtil_self port _)⟩
    · exact ⟨rfl, rfl, congrArg BirtilPort.link (s.birtilPort_setBirtil_self port _)⟩

end

/-! ### The parts of the statement -/

section
variable {s : State} {port : Nat} {f : List Byte} (hlen : f.length ≤ 9216) (hwire : s.wireFree port f = true)
include hlen hwire

/-- A frame that a rule steers into an enabled queue goes as that queue makes of it. -/
theorem exec_frameAccept_queued {n : Nat} {r : SteerRule} {q : SteerQueue} (htakes : Config.neremTakes port f = false)
    (hfound : List.find? (fun (kv : Nat × SteerRule) => ruleMatches kv.2.record port f) s.rules = some (n, r))
    (haction : leAt r.record 3 1 = 0) (hq : KMap.find? s.queues (leAt r.record 4 2) = some q) (hen : q.en = true) :
    exec (.frameAccept port f) s = .next ((s.frameCounted port).queueFrame (leAt r.record 4 2) q port n f) :=
  (exec_frameAccept_matched hlen hwire htakes hfound).trans
    (congrArg Host.Outcome.next ((s.frameCounted port).steer_queue port n f haction hq hen))

end

/-- Settles O55: frames go by the equations of FRAME_ACCEPT and of `State.queueFrame`, a written entry is `State.writeFrame_spec`, time is `State.discipline_spec`, and a Birtil port is what `BirtilPort.take` and `BirtilPort.fail` make of a flit. -/
theorem networkAndLinks : Obligations.NetworkAndLinks := by
  unfold Obligations.NetworkAndLinks
  refine ⟨fun s port f => ⟨fun hlong => ?_, fun hlen hwire hwf hnodup => ⟨fun hfound => ?_, fun n r hfound haction => ?_,
      fun n r hfound haction => ?_, fun n r q hfound haction hq hen hfirst => ⟨fun hblocked => ?_,
        fun hserves => ⟨fun hfull => ?_, fun hempty hunlocked hwaiters => ?_⟩⟩⟩⟩,
    fun s port corr => ⟨fun why => execFrameDropAtPort_counts s port why, ?_, ?_⟩,
    fun s port f => ⟨fun hup hsize => ?_, fun n ok => exec_retrainComplete_quiet ok⟩⟩
  · refine ⟨_, exec_frameAccept_oversize hlong, rfl, rfl, rfl, ?_, ?_⟩ <;> rw [State.ethPort_modEth_self]
  · refine exec_frameAccept_steers hlen hwire fun htakes => ?_
    obtain ⟨hkept, -, hcount⟩ := s.toManagement_kept port false
    exact ⟨_, exec_frameAccept_unmatched hlen hwire htakes hfound, hkept, hcount⟩
  · refine exec_frameAccept_steers hlen hwire fun htakes => ⟨_, exec_frameAccept_matched hlen hwire htakes hfound, ?_⟩
    rw [State.steer_drop _ _ _ _ haction]
    exact s.frameCounted_kept port
  · refine exec_frameAccept_steers hlen hwire fun htakes => ⟨_, exec_frameAccept_matched hlen hwire htakes hfound, ?_⟩
    rw [State.steer_management _ _ _ _ haction]
    obtain ⟨hkept, hcount, -⟩ := s.toManagement_kept port true
    exact ⟨hkept, hcount⟩
  · exact exec_frameAccept_steers hlen hwire fun htakes => ⟨_, exec_frameAccept_queued hlen hwire htakes hfound haction hq hen,
      State.queueFrame_blocked (s := s.frameCounted port) port n hfirst hblocked⟩
  · exact exec_frameAccept_steers hlen hwire fun htakes => ⟨_, exec_frameAccept_queued hlen hwire htakes hfound haction hq hen,
      State.queueFrame_dropped (s := s.frameCounted port) port n hfirst hserves hfull⟩
  · exact exec_frameAccept_steers hlen hwire fun htakes => ⟨_, exec_frameAccept_queued hlen hwire htakes hfound haction hq hen,
      State.queueFrame_written (s := s.frameCounted port) port n hfirst hserves hwf hempty hunlocked hwaiters⟩
  · rintro i (rfl | rfl)
    · obtain ⟨hslots, hmem, -, hjump, hslew⟩ := State.discipline_spec (s.modEth port fun e => { e with ptp := e.ptp + 1 }) corr
      exact ⟨_, rfl, hslots, hmem, hjump, hslew⟩
    · obtain ⟨hslots, hmem, -, hjump, hslew⟩ := s.discipline_spec corr
      exact ⟨_, rfl, hslots, hmem, hjump, hslew⟩
  · obtain ⟨-, -, heth, -⟩ := State.discipline_spec (s.modEth port fun e => { e with ptp := e.ptp + 1 }) corr
    refine ⟨_, rfl, ?_⟩
    rw [State.ethPort, heth]
    exact congrArg EthPort.ptp (s.ethPort_modEth_self port _)
  · cases hcrc : crcOk f with
    | false =>
      obtain ⟨hseq, hdelivered, hreplays, hretrains⟩ := (s.birtilPort port).fail_spec
      refine ⟨_, exec_flitReceive_failed hup hsize hcrc, rfl, rfl, ?_⟩
      rw [State.birtilPort_setBirtil_self]
      exact ⟨hseq, hdelivered, hreplays, hretrains⟩
    | true =>
      have hexec := exec_flitReceive_whole hup hsize hcrc
      by_cases hseq : leAt f 4 2 = (s.birtilPort port).rxSeq
      · rw [if_pos hseq] at hexec
        obtain ⟨hnext, hlink, hreplays, hreplay⟩ := (s.birtilPort port).take_common f
        refine ⟨_, hexec, rfl, rfl, fun _ => ?_, fun hne => absurd hseq hne⟩
        rw [State.birtilPort_setBirtil_self]
        exact ⟨hnext, hlink, hreplays, hreplay, BirtilPort.take_delivers, BirtilPort.take_reserved⟩
      · rw [if_neg hseq] at hexec
        exact ⟨s, hexec, rfl, rfl, fun h => absurd h hseq, fun _ => rfl⟩

end Sys2Proof.Machine
end

section
/-!
SUPPORT. The elements of a pallet after elements of it are written, one or many; PalletLeasesAndCopies is assembled from these and from what a pallet instruction leaves.
-/
namespace Sys2Proof.Machine

/-! ### Rising keys of a map -/

/-- The keys of a map after one of them is set. -/
theorem KMap.mem_keys_set {α : Type} {m : KMap α} {x y : Nat} {v : α} (h : y ∈ (KMap.set m x v).map (·.1)) : y = x ∨ y ∈ m.map (·.1) := by
  induction m with
  | nil => exact .inl (List.mem_singleton.mp h)
  | cons hd rest ih =>
    obtain ⟨k, u⟩ := hd
    simp only [KMap.set] at h
    split at h
    · exact List.mem_cons.mp h
    · split at h
      · exact (List.mem_cons.mp h).imp_right (List.mem_cons_of_mem k)
      · rcases List.mem_cons.mp h with rfl | h
        · exact .inr List.mem_cons_self
        · exact (ih h).imp_right (List.mem_cons_of_mem k)
/-- Setting a key keeps the keys rising. -/
theorem KMap.pairwise_set {α : Type} {m : KMap α} (x : Nat) (v : α) (h : (m.map (·.1)).Pairwise (· < ·)) :
    ((KMap.set m x v).map (·.1)).Pairwise (· < ·) := by
  induction m with
  | nil => exact List.pairwise_singleton _ _
  | cons hd rest ih =>
    obtain ⟨k, u⟩ := hd
    obtain ⟨habove, hrest⟩ := List.pairwise_cons.mp h
    simp only [KMap.set]
    split
    · next hx =>
      refine List.pairwise_cons.mpr ⟨fun y hy => ?_, h⟩
      rcases List.mem_cons.mp hy with rfl | hy
      · exact hx
      · exact hx.trans (habove y hy)
    · split
      · next hx =>
        subst hx
        exact h
      · refine List.pairwise_cons.mpr ⟨fun y hy => ?_, ih hrest⟩
        rcases KMap.mem_keys_set hy with rfl | hy
        · exact (by omega : k < y)
        · exact habove y hy
/-- A map with a key erased is a part of it. -/
theorem KMap.erase_sublist {α : Type} (m : KMap α) (x : Nat) : (KMap.erase m x).Sublist m := by
  induction m with
  | nil => exact .slnil
  | cons hd rest ih =>
    simp only [KMap.erase]
    split
    · exact List.sublist_cons_self _ _
    · exact ih.cons_cons _

/-! ### Elements (R202) -/

/-- The elements of a pallet are listed once each, in order. -/
def PalletData.Rising (d : PalletData) : Prop := (d.cells.map (·.1)).Pairwise (· < ·)
theorem PalletData.Rising.setCell {d : PalletData} (h : d.Rising) (r c v : Nat) : (d.setCell r c v).Rising := by
  simp only [PalletData.Rising, PalletData.setCell]
  split
  · exact h.sublist ((KMap.erase_sublist _ _).map _)
  · exact KMap.pairwise_set _ v h
/-- An element that was written reads back. -/
theorem PalletData.cell_setCell_self {d : PalletData} (h : d.Rising) {r c i j v : Nat} (hkey : 128 * r + c = 128 * i + j) :
    (d.setCell r c v).cell i j = v := by
  simp only [PalletData.cell, PalletData.setCell, ← hkey]
  split
  · next hv => rw [KMap.getD, KMap.find?_erase_self _ (h.imp Nat.ne_of_lt), hv, Option.getD_none]
  · exact KMap.getD_set_self _ _ _ _
/-- Writing an element leaves every other one. -/
theorem PalletData.cell_setCell_ne (d : PalletData) {r c i j : Nat} (v : Nat) (hkey : 128 * r + c ≠ 128 * i + j) :
    (d.setCell r c v).cell i j = d.cell i j := by
  simp only [PalletData.cell, PalletData.setCell]
  split
  · rw [KMap.getD, KMap.find?_erase_ne _ (Ne.symm hkey), KMap.getD]
  · exact KMap.getD_set_ne _ _ _ (Ne.symm hkey)
/-- Write elements one after another: row, column and value of each. -/
def PalletData.setCells (d : PalletData) (l : List (Nat × Nat × Nat)) : PalletData := l.foldl (fun d x => d.setCell x.1 x.2.1 x.2.2) d
/-- An element holds a value when all that is written to it is that value, and it held it before or is written. -/
theorem PalletData.cell_setCells {i j v : Nat} (l : List (Nat × Nat × Nat)) (hall : ∀ x ∈ l, 128 * x.1 + x.2.1 = 128 * i + j → x.2.2 = v) :
    ∀ {d : PalletData}, d.Rising → (d.cell i j = v ∨ ∃ x ∈ l, 128 * x.1 + x.2.1 = 128 * i + j) → (d.setCells l).cell i j = v := by
  induction l with
  | nil =>
    intro d _ h
    rcases h with h | ⟨x, hx, -⟩
    · exact h
    · cases hx
  | cons x rest ih =>
    intro d hd h
    refine ih (fun y hy => hall y (List.mem_cons_of_mem x hy)) (hd.setCell x.1 x.2.1 x.2.2) ?_
    by_cases hkey : 128 * x.1 + x.2.1 = 128 * i + j
    · exact .inl ((PalletData.cell_setCell_self hd hkey).trans (hall x List.mem_cons_self hkey))
    · rw [PalletData.cell_setCell_ne d x.2.2 hkey]
      refine h.imp_right fun ⟨y, hy, hykey⟩ => ⟨y, ?_, hykey⟩
      rcases List.mem_cons.mp hy with rfl | hy
      · exact absurd hykey hkey
      · exact hy
/-- The elements of a rectangle with their new values, row by row. -/
def rectangle (row0 col0 rows cols : Nat) (f : Nat → Nat → Nat) : List (Nat × Nat × Nat) :=
  (List.range rows).flatMap fun i => (List.range cols).map fun j => (row0 + i, col0 + j, f i j)
theorem mem_rectangle {row0 col0 rows cols : Nat} {f : Nat → Nat → Nat} {x : Nat × Nat × Nat} :
    x ∈ rectangle row0 col0 rows cols f ↔ ∃ i < rows, ∃ j < cols, x = (row0 + i, col0 + j, f i j) := by
  simp only [rectangle, List.mem_flatMap, List.mem_map, List.mem_range, eq_comm (a := x)]
/-- A rectangle within the columns of a pallet holds what is written to it. -/
theorem PalletData.cell_setCells_rectangle {d : PalletData} (h : d.Rising) {row0 col0 rows cols : Nat} (f : Nat → Nat → Nat)
    (hcols : col0 + cols ≤ 128) {i j : Nat} (hi : i < rows) (hj : j < cols) :
    (d.setCells (rectangle row0 col0 rows cols f)).cell (row0 + i) (col0 + j) = f i j := by
  refine PalletData.cell_setCells _ (fun x hx hkey => ?_) h (.inr ⟨_, mem_rectangle.mpr ⟨i, hi, j, hj, rfl⟩, rfl⟩)
  obtain ⟨i', -, j', hj', rfl⟩ := mem_rectangle.mp hx
  obtain ⟨rfl, rfl⟩ : i' = i ∧ j' = j := by
    simp only at hkey
    omega
  rfl
theorem copyRegion_eq (g t : PalletRegion) (src dst : PalletData) : copyRegion g t src dst =
    dst.setCells (rectangle t.row0 t.col0 g.rows g.cols fun i j => src.cell (g.row0 + i) (g.col0 + j)) := by
  simp only [copyRegion, PalletData.setCells, rectangle, List.foldl_flatMap, List.foldl_map]

end Sys2Proof.Machine
end

section
/-!
SUPPORT. What bringing a pallet into its kiln leaves of slots and leases, and that a use keeps it there; PalletLeasesAndCopies is assembled from these.
-/
namespace Sys2Proof.Machine

/-! ### What bringing in a pallet leaves of slots and leases (R204, R205) -/

/-- What a pallet instruction reads of the machine beside its pallets: slots, the current slot, the answers laid down, and the regions of a lease. -/
def State.desk (s : State) (kn n : Nat) : KMap Slot × Nat × List Media × Option (KMap PalletRegion) :=
  (s.slots, s.cur, s.answers, (KMap.find? (s.kiln kn).leases n).map (·.regions))
/-- Does a change of a kiln leave the regions of its leases? -/
def KeepsRegions (f : Kiln → Kiln) : Prop := ∀ k n, (KMap.find? (f k).leases n).map (·.regions) = (KMap.find? k.leases n).map (·.regions)

section
variable {s t : State} {kn n : Nat}

theorem State.desk_eq (h : t.desk kn n = s.desk kn n) : t.slots = s.slots ∧ t.cur = s.cur ∧ t.answers = s.answers ∧
    (KMap.find? (t.kiln kn).leases n).map (·.regions) = (KMap.find? (s.kiln kn).leases n).map (·.regions) := by
  obtain ⟨hslots, h⟩ := Prod.mk.inj h
  obtain ⟨hcur, h⟩ := Prod.mk.inj h
  exact ⟨hslots, hcur, Prod.mk.inj h⟩
theorem State.answers_of_desk (h : t.desk kn n = s.desk kn n) (ha : s.answers = []) : t.answers = [] := (State.desk_eq h).2.2.1.trans ha
theorem State.desk_of_kilnView (hslots : t.slots = s.slots) (hcur : t.cur = s.cur) (hview : t.kilnView = s.kilnView) : t.desk kn n = s.desk kn n := by
  obtain ⟨hkilns, hanswers⟩ := Prod.mk.inj hview
  simp only [State.desk, State.kiln, hslots, hcur, hkilns, hanswers]
theorem State.modKiln_desk (s : State) (kn n j : Nat) {f : Kiln → Kiln} (hf : KeepsRegions f) : (s.modKiln j f).desk kn n = s.desk kn n := by
  have hlease : (KMap.find? ((s.modKiln j f).kiln kn).leases n).map (·.regions) = (KMap.find? (s.kiln kn).leases n).map (·.regions) := by
    by_cases hj : kn = j
    · rw [hj, State.kiln_modKiln_self, hf]
    · rw [State.kiln_modKiln_ne s f hj]
  simp only [State.desk, hlease]
  rfl
theorem State.modPallets_desk (s : State) (kn n j : Nat) (f : Kiln → List Pallet) :
    (s.modKiln j fun k => { k with pallets := f k }).desk kn n = s.desk kn n := s.modKiln_desk kn n j fun _ _ => rfl
theorem State.openGranule_cur (s : State) (kid g : Nat) : (s.openGranule kid g).cur = s.cur := by
  have hcount : ∀ t : State, (t.count g).cur = t.cur := by
    intro t
    simp only [State.count]
    split <;> rfl
  unfold State.openGranule
  split
  · rw [hcount]
    simp only [State.uncover]
    split <;> split <;> rfl
  · rfl
theorem State.poke_hbm_cur (s : State) (kid pa : Nat) (bs : List Byte) : (s.poke kid (.hbm pa) bs).cur = s.cur :=
  foldl_view State.cur (fun s g => s.openGranule_cur kid g) _ s
theorem State.linesWait_core (s : State) (token : Nat) (gs : List Nat) : (s.linesWait token gs).core = s.core := by
  have hwakes := foldl_view State.core (fun s g => State.wake_core s (.hbm g)) gs s
  simp only [State.linesWait]
  split <;> exact hwakes
theorem State.linesWait_desk (s : State) (kn n token : Nat) (gs : List Nat) : (s.linesWait token gs).desk kn n = s.desk kn n := by
  obtain ⟨-, hslots, hcur, -⟩ := State.core_eq (s.linesWait_core token gs)
  exact State.desk_of_kilnView hslots hcur (s.linesWait_kilnView token gs)
theorem State.saveLine_desk (ha : s.answers = []) (d a : Nat) (bs : List Byte) : (s.saveLine d a bs).desk kn n = s.desk kn n := by
  have htouch : (s.touch (.hbm a)).answers = [] := ha
  simp only [State.saveLine, State.look_sound htouch]
  split
  · rfl
  · exact State.desk_of_kilnView (State.poke_slots _ _ _ _) (State.poke_hbm_cur _ _ _ _) (State.poke_hbm_kilnView _ _ _ _)
theorem State.saveBytes_desk (d m : Nat) : ∀ {s : State} (a : Nat) (bs : List Byte), s.answers = [] →
    (s.saveBytes d a m bs).desk kn n = s.desk kn n := by
  induction m with
  | zero => exact fun _ _ _ => rfl
  | succ m ih =>
    intro s a bs ha
    have hline := State.saveLine_desk (kn := kn) (n := n) ha d a (bs.take 64)
    exact (ih (a + 64) (bs.drop 64) (State.answers_of_desk hline ha)).trans hline
theorem State.loadLine_desk (ha : s.answers = []) (d a : Nat) : (s.loadLine d a).2.desk kn n = s.desk kn n := by
  have htouch : (s.touch (.hbm a)).answers = [] := ha
  simp only [State.loadLine, State.look_sound htouch]
  split <;> rfl
theorem State.loadBytes_desk (d m : Nat) : ∀ {s : State} (a : Nat), s.answers = [] → (s.loadBytes d a m).2.desk kn n = s.desk kn n := by
  induction m with
  | zero => exact fun _ _ => rfl
  | succ m ih =>
    intro s a ha
    have hline := State.loadLine_desk (kn := kn) (n := n) ha d a
    exact (ih (a + 64) (State.answers_of_desk hline ha)).trans hline
theorem State.loadRows_desk (d a : Nat) (rows : List Nat) : ∀ {s : State}, s.answers = [] → (s.loadRows d a rows).2.desk kn n = s.desk kn n := by
  induction rows with
  | nil => exact fun _ => rfl
  | cons r rest ih =>
    intro s ha
    have hrow := State.loadBytes_desk (kn := kn) (n := n) d 8 (a + 512 * r) ha
    simp only [State.loadRows]
    exact (ih (State.answers_of_desk hrow ha)).trans hrow
theorem State.loadPallet_desk (ha : s.answers = []) (d a : Nat) : (s.loadPallet d a).2.desk kn n = s.desk kn n := by
  have hline := State.loadLine_desk (kn := kn) (n := n) ha d (a + tailOffset)
  simp only [State.loadPallet]
  exact (State.loadRows_desk d a _ (State.answers_of_desk hline ha)).trans hline
theorem keepsRegions_saved (m : Nat) (b : Bool) : KeepsRegions fun k => { k with leases := k.leases.modify m fun l => { l with saved := b } } := by
  intro k n
  simp only [KMap.find?_modify]
  split
  · rw [Option.map_map]
    rfl
  · rfl
theorem State.setSaved_desk (s : State) (kn n j : Nat) (p : PalletHolder) (b : Bool) : (s.setSaved j p b).desk kn n = s.desk kn n := by
  cases p with
  | lease m => exact s.modKiln_desk kn n j (keepsRegions_saved m b)
  | temp e => rfl
  | parked e => rfl
/-- Saving a kiln's pallet and freeing it. -/
theorem State.evict_desk (ha : s.answers = []) (j : Nat) (p : Pallet) : (s.evict j p).desk kn n = s.desk kn n := by
  let rows := p.data.dirty.foldl (fun u r => u.saveBytes p.vd (s.imageAt j p.vd p.holder + 512 * r) 8 (p.data.row r)) s
  have hrows : rows.desk kn n = s.desk kn n := by
    refine List.foldlRecOn (motive := fun u : State => u.desk kn n = s.desk kn n) _ _ rfl fun u hu r _ => ?_
    exact (State.saveBytes_desk p.vd 8 _ _ (State.answers_of_desk hu ha)).trans hu
  simp only [State.evict, State.savePallet]
  refine (State.modPallets_desk _ kn n j _).trans ((State.setSaved_desk _ kn n j p.holder true).trans ?_)
  exact (State.saveBytes_desk p.vd 1 _ _ (State.answers_of_desk hrows ha)).trans hrows
theorem State.usePallet_desk (s : State) (kn n j : Nat) (p : PalletHolder) : (s.usePallet j p).desk kn n = s.desk kn n :=
  s.fresh.2.modPallets_desk kn n j _
/-- Bringing a holder's pallet into a kiln. -/
theorem State.holdPallet_desk (ha : s.answers = []) (token j d : Nat) (p : PalletHolder) (pins : List PalletHolder) :
    (s.holdPallet token j d p pins).1.desk kn n = s.desk kn n := by
  unfold State.holdPallet
  split
  · exact s.usePallet_desk kn n j p
  · split
    · rfl
    · next v _ =>
      simp only
      split
      · exact s.linesWait_desk kn n token _
      · refine (State.usePallet_desk _ kn n j p).trans ((State.setSaved_desk _ kn n j p false).trans
          ((State.modPallets_desk _ kn n j _).trans ?_))
        have hout : (match v with
            | some q => (s.unstall token).evict j q
            | none => s.unstall token).desk kn n = s.desk kn n := by
          cases v with
          | none => rfl
          | some q => exact State.evict_desk (s := s.unstall token) ha j q
        split
        · exact (State.loadPallet_desk (State.answers_of_desk hout ha) d _).trans hout
        · exact hout
/-- Bringing in the pallet of a lease. -/
theorem State.useLease_desk (ha : s.answers = []) (vd h : Nat) (more : List Nat) : (s.useLease vd h more).desk kn n = s.desk kn n :=
  State.holdPallet_desk ha _ _ _ _ _

end

/-- Noting a use of a pallet brings none in and takes none out. -/
theorem State.hasPallet_usePallet (s : State) (kn : Nat) (p : PalletHolder) : (s.usePallet kn p).hasPallet kn p = s.hasPallet kn p := by
  have hkiln := s.fresh.2.kiln_modKiln_self kn fun k =>
    { k with pallets := k.pallets.map fun x => if x.holder.same p then { x with lastUse := s.nextId } else x }
  have hsame : ((fun x : Pallet => x.holder.same p) ∘ fun x : Pallet => if x.holder.same p then { x with lastUse := s.nextId } else x) =
      fun x => x.holder.same p := by
    funext x
    simp only [Function.comp]
    split <;> rfl
  unfold State.hasPallet State.usePallet
  simp only [State.fresh_fst] at hkiln ⊢
  rw [hkiln, List.any_map, hsame]
  rfl
/-- The pallet of a lease that is in its kiln stays there at a use. -/
theorem State.hasPallet_useLease {s : State} {h : Nat} (vd : Nat) (more : List Nat) (hin : s.hasPallet (h / 256) (.lease (h % 4)) = true) :
    (s.useLease vd h more).hasPallet (h / 256) (.lease (h % 4)) = true := by
  simp only [State.useLease, State.holdPallet, hin, if_true]
  rw [State.hasPallet_usePallet, hin]

end Sys2Proof.Machine
end

section
/-!
SUPPORT. When pallet instructions are performed at once and when they wait at their kiln, and which lease number is free; PalletLeasesAndCopies is assembled from these.
-/
namespace Sys2Proof.Machine

/-! ### PLSE (R333) -/

/-- A kiln with fewer than three leases has a free number among the first four, and the lowest of them is taken next. -/
theorem Kiln.freeLease_lowest {k : Kiln} (h : k.leases.length < 3) :
    (∀ n, n < k.freeLease → KMap.has k.leases n = true) ∧ KMap.has k.leases k.freeLease = false := by
  cases hfind : (List.range 4).find? fun n => !(KMap.has k.leases n) with
  | none =>
    have hsub : List.range 4 ⊆ k.leases.map (·.1) := fun n hn => by
      have hhas : KMap.has k.leases n = true := by simpa using List.find?_eq_none.mp hfind n hn
      obtain ⟨v, hv⟩ := Option.isSome_iff_exists.mp hhas
      exact List.mem_map.mpr ⟨(n, v), KMap.mem_of_find? hv, rfl⟩
    have hlen := (List.nodup_range.subperm hsub).length_le
    rw [List.length_range, List.length_map] at hlen
    omega
  | some n =>
    obtain ⟨hfree, -, hbelow⟩ := List.find?_range_eq_some.mp hfind
    have hn : k.freeLease = n := by rw [Kiln.freeLease, hfind, Option.getD_some]
    rw [hn]
    exact ⟨fun m hm => by simpa using hbelow m hm, by simpa using hfree⟩

section
variable {s : State} {d a : GReg} (hkiln : (s.kilnsOn s.me.vd (s.brick / 512)).contains (s.me.getG a).toNat = true)
include hkiln

/-- PLSE of a kiln with fewer than three leases adds one without regions. -/
theorem exec_plse_leases (hroom : (s.kiln (s.me.getG a).toNat).leases.length < 3) : exec (.plse d a) s =
    .next ((s.modKiln (s.me.getG a).toNat fun x =>
        { x with leases := KMap.set x.leases (s.kiln (s.me.getG a).toNat).freeLease ⟨s.me.vd, none, [], false⟩ }).after
      (s.me.setG d (wrap ((s.me.getG a).toNat * 256 + (s.kiln (s.me.getG a).toNat).freeLease)))) := by
  show execPlse d a s = _
  simp only [execPlse, hkiln, Bool.not_true, Bool.false_eq_true, if_false, if_neg (Nat.not_le.mpr hroom)]
  rfl
/-- PLSE of a kiln with three leases answers all ones. -/
theorem exec_plse_full (hfull : 3 ≤ (s.kiln (s.me.getG a).toNat).leases.length) :
    exec (.plse d a) s = .next (s.after (s.me.setG d (BitVec.allOnes 64))) := by
  show execPlse d a s = _
  simp only [execPlse, hkiln, Bool.not_true, Bool.false_eq_true, if_false, if_pos hfull]
  rfl

end

/-! ### Handles and requests (R332) -/

theorem State.withLease_some {s : State} {handle : Word} {l : Lease} (go : Lease → Out) (h : s.lease? s.me.vd (s.brick / 512) handle.toNat = some l) :
    s.withLease handle go = go l := by simp only [State.withLease, h]
theorem State.withLease_none {s : State} {handle : Word} (go : Lease → Out) (h : s.lease? s.me.vd (s.brick / 512) handle.toNat = none) :
    s.withLease handle go = .next (s.trapAt s.cur .illegalOperand handle) := by simp only [State.withLease, h]; rfl
/-- A handle that names a lease finds it in the table of its kiln. -/
theorem State.find?_of_lease? {s : State} {vd die h : Nat} {l : Lease} (hl : s.lease? vd die h = some l) :
    KMap.find? (s.kiln (h / 256)).leases (h % 4) = some l := by
  unfold State.lease? at hl
  split at hl
  · cases hl
  · split at hl
    · cases hl
    · split at hl
      · next l' hfind =>
        split at hl
        · cases hl
          exact hfind
        · cases hl
      · cases hl
/-- A pallet instruction with no result completes in its step when its pallets are quiet and at hand, if that leaves the slots. -/
theorem State.palletDo_ready {s : State} {q : Request} (hready : s.palletReady s.me.vd q = true) (hpush : s.me.replyPushes q = false)
    (hreply : ∀ v, s.me.reply q.kind q.reg v = s.me) (hslots : (s.palletPerform s.me.vd q).1.slots = s.slots)
    (hcur : (s.palletPerform s.me.vd q).1.cur = s.cur) : s.palletDo q = .next ((s.palletPerform s.me.vd q).1.after s.me) := by
  have hme : (s.palletPerform s.me.vd q).1.me = s.me := by rw [State.me, State.slotAt, hslots, hcur]; rfl
  simp only [State.palletDo, hready, if_true, hpush, Bool.false_eq_true, if_false, State.retire, hme, hreply]
  rfl
/-- A slot that makes a request and parks on its reply. -/
theorem State.park_requesting (s : State) (q : Request) : ∃ t, (s.modSlot s.cur fun k => { k with req := some q }).park .reply = .next t ∧
    t.me = { s.me with mode := .parked .reply, req := some q } ∧ t.kilns = s.kilns := ⟨_, rfl, by simp [State.me], rfl⟩
/-- Else its request stays outstanding at the kiln, whose pallets and leases stay as they are. -/
theorem State.palletDo_waits {s : State} {q : Request} (hready : s.palletReady s.me.vd q = false) :
    ∃ t, s.palletDo q = .next t ∧ t.me.mode = .parked .reply ∧ t.kilns = s.kilns ∧ t.me.req = some { q with stage := .queued } := by
  have hwaits : (s.palletWaits s.me.vd q).kilns = s.kilns ∧ (s.palletWaits s.me.vd q).cur = s.cur := by
    unfold State.palletWaits
    split <;> exact ⟨rfl, rfl⟩
  obtain ⟨hkilns, hcur⟩ := hwaits
  obtain ⟨t, hpark, hme, htkilns⟩ := (s.palletWaits s.me.vd q).park_requesting { q with stage := .queued }
  refine ⟨t, ?_, by rw [hme], htkilns.trans hkilns, by rw [hme]⟩
  rw [← hpark, hcur]
  simp only [State.palletDo, hready, Bool.false_eq_true, if_false]

/-! ### PCFG and PFREE (R334, R337) -/

/-- A kiln whose lease of a number is to be freed for a context that waits (R337). -/
def Kiln.owing (k : Kiln) (n ctx : Nat) : Kiln := { k with leases := k.leases.modify n fun l => { l with freer := some ctx } }

section
variable {s : State} {a b : GReg} {r : BitVec 2} {l : Lease}

/-- No PCFG is performed while a hod writes its pallet (R206). -/
theorem State.palletReady_writing {vd : Nat} {h v : Word} (hwriting : s.hodWriting (h.toNat / 256) (h.toNat % 4) = true) :
    s.palletReady vd (palletReq (.pcfg r.toNat) h 0 v) = false := by
  simp [State.palletReady, Request.handles, palletReq, mkReq, hwriting]
/-- A PCFG can be performed when no hod writes its pallet and the pallet is in its kiln. -/
theorem State.palletReady_held {vd : Nat} {h v : Word} (hwriting : s.hodWriting (h.toNat / 256) (h.toNat % 4) = false)
    (hin : s.hasPallet (h.toNat / 256) (.lease (h.toNat % 4)) = true) : s.palletReady vd (palletReq (.pcfg r.toNat) h 0 v) = true := by
  simp [State.palletReady, State.bringIn, Request.handles, palletReq, mkReq, hwriting, State.hasPallet_useLease vd _ hin]

variable (hl : s.lease? s.me.vd (s.brick / 512) (s.me.getG a).toNat = some l)
include hl

theorem exec_pcfg_eq : exec (.pcfg a b r) s = if pcfgSound (s.me.getG b) then s.palletDo (palletReq (.pcfg r.toNat) (s.me.getG a) 0 (s.me.getG b))
    else .next (s.trapAt s.cur .illegalOperand (s.me.getG b)) := by
  show execPcfg a b r s = _
  simp only [execPcfg, State.withLease_some _ hl]
  cases pcfgSound (s.me.getG b) <;> rfl
/-- PCFG of a pallet at hand completes, and the lease has the region as its word says. -/
theorem exec_pcfg_configures (hsound : pcfgSound (s.me.getG b) = true)
    (hready : s.palletReady s.me.vd (palletReq (.pcfg r.toNat) (s.me.getG a) 0 (s.me.getG b)) = true) (ha : s.answers = []) :
    ∃ u : State, exec (.pcfg a b r) s = .next (u.after s.me) ∧ u.slots = s.slots ∧ u.cur = s.cur ∧
      (KMap.find? (u.kiln ((s.me.getG a).toNat / 256)).leases ((s.me.getG a).toNat % 4)).map (·.regions) =
        some (l.configure r.toNat (s.me.getG b)).regions := by
  obtain ⟨hslots, hcur, -, hregions⟩ := State.desk_eq (State.useLease_desk (kn := (s.me.getG a).toNat / 256) (n := (s.me.getG a).toNat % 4)
    ha s.me.vd (s.me.getG a).toNat [])
  rw [State.find?_of_lease? hl, Option.map_some] at hregions
  obtain ⟨l', hl', hsame⟩ := Option.map_eq_some_iff.mp hregions
  rw [exec_pcfg_eq hl, if_pos hsound]
  refine ⟨_, State.palletDo_ready hready rfl (fun _ => rfl) hslots hcur, hslots, hcur, ?_⟩
  simp only [State.palletPerform, palletReq, mkReq, State.kiln_modKiln_self, KMap.find?_modify_self, hl', Option.map_some, Lease.configure, hsame]
theorem exec_pfree_eq : exec (.pfree a) s = if s.leaseInUse (s.me.getG a).toNat then
    ((s.modKiln ((s.me.getG a).toNat / 256) fun x => x.owing ((s.me.getG a).toNat % 4) s.me.ctx).modSlot s.cur fun k =>
      { k with req := some { palletReq .pfree (s.me.getG a) 0 0 with stage := .queued } }).park .reply
    else .next ((s.freeLease (s.me.getG a).toNat).after s.me) := by
  show execPfree a s = _
  simp only [execPfree, State.withLease_some _ hl]
  rfl
/-- PFREE of a lease in use waits, and the lease knows for whom. -/
theorem exec_pfree_waits (hused : s.leaseInUse (s.me.getG a).toNat = true) : ∃ t : State, exec (.pfree a) s = .next t ∧ t.me.mode = .parked .reply ∧
    (KMap.find? (t.kiln ((s.me.getG a).toNat / 256)).leases ((s.me.getG a).toNat % 4)).map (·.freer) = some (some s.me.ctx) := by
  rw [exec_pfree_eq hl, if_pos hused]
  obtain ⟨t, hpark, hme, hkilns⟩ := (s.modKiln ((s.me.getG a).toNat / 256) fun x => x.owing ((s.me.getG a).toNat % 4) s.me.ctx).park_requesting
    { palletReq .pfree (s.me.getG a) 0 0 with stage := .queued }
  refine ⟨t, hpark, by rw [hme], ?_⟩
  rw [State.kiln, hkilns, ← State.kiln, State.kiln_modKiln_self, Kiln.owing, KMap.find?_modify_self, State.find?_of_lease? hl]
  rfl

end

/-! ### PCPY (R336) -/

section
variable {s : State} {a b : GReg} {p q : BitVec 2} {l m : Lease} {g x : PalletRegion}
  (hl : s.lease? s.me.vd (s.brick / 512) (s.me.getG a).toNat = some l) (hm : s.lease? s.me.vd (s.brick / 512) (s.me.getG b).toNat = some m)
  (hg : KMap.find? l.regions p.toNat = some g) (hx : KMap.find? m.regions q.toNat = some x)
include hl hm hg hx

theorem exec_pcpy_eq : exec (.pcpy a b p q) s = if g.rows ≠ x.rows ∨ g.cols ≠ x.cols then .next (s.trapAt s.cur .palletRegion (s.me.getG b))
    else s.palletDo (palletReq (.pcpy (s.me.getG b).toNat g x) (s.me.getG a) 0 0) := by
  show execPcpy a b p q s = _
  simp only [execPcpy, State.withLease_some _ hl, State.withLease_some _ hm, hg, hx]
  rfl
/-- PCPY between regions of one shape, of quiet pallets that are brought in, copies the region and completes. -/
theorem exec_pcpy_copies (hsrc : s.hodWriting ((s.me.getG a).toNat / 256) ((s.me.getG a).toNat % 4) = false)
    (hdst : s.hodWriting ((s.me.getG b).toNat / 256) ((s.me.getG b).toNat % 4) = false) (ha : s.answers = [])
    (hin : (s.bringIn s.me.vd (palletReq (.pcpy (s.me.getG b).toNat g x) (s.me.getG a) 0 0)).2 = true) (hrows : g.rows = x.rows) (hcols : g.cols = x.cols) :
    exec (.pcpy a b p q) s =
      .next ((s.palletPerform s.me.vd (palletReq (.pcpy (s.me.getG b).toNat g x) (s.me.getG a) 0 0)).1.after s.me) := by
  have hready : s.palletReady s.me.vd (palletReq (.pcpy (s.me.getG b).toNat g x) (s.me.getG a) 0 0) = true := by
    rw [State.palletReady, hin]
    simp [Request.handles, palletReq, mkReq, hsrc, hdst]
  have hfirst := State.useLease_desk (kn := 0) (n := 0) ha s.me.vd (s.me.getG a).toNat [(s.me.getG b).toNat]
  have hboth := State.useLease_desk (kn := 0) (n := 0) (State.answers_of_desk hfirst ha) s.me.vd (s.me.getG b).toNat [(s.me.getG a).toNat]
  obtain ⟨hslots, hcur, -⟩ := State.desk_eq (hboth.trans hfirst)
  rw [exec_pcpy_eq hl hm hg hx, if_neg (by simp [hrows, hcols])]
  exact State.palletDo_ready hready rfl (fun _ => rfl) hslots hcur

end

/-- Settles O43: PLSE is `exec_plse_leases` and `exec_plse_full`, PCFG `exec_pcfg_configures` and `State.palletDo_waits`, PFREE `exec_pfree_waits`, and PCPY `exec_pcpy_copies` with the elements of `PalletData.cell_setCells_rectangle`. -/
theorem palletLeasesAndCopies : Obligations.PalletLeasesAndCopies := by
  refine ⟨?_, ?_⟩
  · intro s d a b r kn h kiln ready
    refine ⟨fun hkiln => ⟨fun hroom => ?_, fun hfull => exec_plse_full hkiln hfull⟩, fun l hl => ?_, fun hnone => ⟨?_, ?_⟩⟩
    · obtain ⟨hbelow, hfree⟩ := Kiln.freeLease_lowest hroom
      refine ⟨hbelow, hfree, _, exec_plse_leases hkiln hroom, rfl, rfl, rfl, ?_⟩
      rw [State.kiln_modKiln_self, KMap.find?_set_self]
    · refine ⟨State.palletReady_writing, State.palletReady_held, exec_pcfg_configures hl, fun hsound hwait => ?_, fun hbad => ?_, fun hidle => ?_,
        exec_pfree_waits hl⟩
      · obtain ⟨t, hdo, hmode, hkilns, hreq⟩ := State.palletDo_waits hwait
        refine ⟨t, ?_, hmode, hkilns, by rw [hreq]; rfl⟩
        rw [exec_pcfg_eq hl, if_pos hsound, hdo]
      · rw [exec_pcfg_eq hl, hbad]
        rfl
      · rw [exec_pfree_eq hl, hidle]
        rfl
    · exact State.withLease_none _ hnone
    · exact State.withLease_none _ hnone
  · intro s a b p q l m g x h t hl hm hg hx u src b'
    refine ⟨fun hsrc hdst ha hsrcin hdstin hrows hcols => ⟨?_, fun dst hdst hx128 i j hi hj => ?_⟩, fun hshape => ?_⟩
    · exact exec_pcpy_copies hl hm hg hx hsrc hdst ha (by simpa [State.bringIn, Request.handles, palletReq, mkReq] using ⟨hsrcin, hdstin⟩) hrows hcols
    · rw [copyRegion_eq]
      exact PalletData.cell_setCells_rectangle hdst _ (hcols ▸ hx128) hi hj
    · rw [exec_pcpy_eq hl hm hg hx, if_pos hshape]

end Sys2Proof.Machine
end

section
/-!
SUPPORT. A hod whose pallet is reloaded when it starts, from an image that a stack loses then; HodsRun is refuted with it.
-/
namespace Sys2Proof.Machine

/-- A ZERO of row 2, column 3, of the temporary pallet of its entry. -/
def zeroingHod : Line := setWord (setWord 0 0 4) 6 0x0000000203000000
/-- An entry of the demonstration device on kiln 4 whose temporary pallet is saved, with that hod next. -/
def reloading : Entry :=
  { id := 9, vd := 0, ctx := 1, master := 0, brick := 0, region := 0, prio := 0, lane := 0, level := .task, space := 0, hods := [zeroingHod],
    ticket := 0, stage := .granted, since := some 0, aged := none, kiln := some 4, grantAt := 0, base := 0, hod := 0, resume := none,
    redo := [], runs := [], lands := [], statuses := [], sent := 0, place := 0, saved := true }
/-- The image of that pallet. -/
def reloadImage : Nat := demoVd.entryImage 0 0
/-- The demonstration device with that entry running and row 0 of the image dirty. The stack of the save region runs in 62-way mode, so that no parity stands for the channel of row 0; the media answer that the dirty map is sound and that the row cannot be corrected. -/
def losingStack : State :=
  let s := State.reset.withDemo
  { s with
    kilns := [(4, { Kiln.zero with enabled := true, running := some 9 })]
    entries := [reloading]
    owner := KMap.set s.owner (unitOf reloadImage) 1
    written := NSet.insert (NSet.insert s.written (reloadImage / 64)) ((reloadImage + tailOffset) / 64)
    mem := Mem.write s.mem (reloadImage + tailOffset) 1
    w62 := [(reloadImage / 2 ^ 36, ⟨0, 0⟩)]
    answers := [.sound, .uncorrectable] }
/-- Does an outcome leave a thread in slot 0 of brick 0? -/
def leavesThread (o : Out) : Bool :=
  match o with
  | .next t => decide ((t.slotAt 0).mode ≠ .free)
  | _ => true
/-- The stack fails as the row is read, and the threads of the device with its save region there end (R35, R115). -/
theorem losingStack_ends : leavesThread (exec (.hodStart 9) losingStack) = false := by decide +kernel

/-- Refutes O46: the statement asks nothing of the answers of the media, and says of every hod that its start leaves the slots. In `losingStack` the pallet of a sound ZERO is reloaded as it starts, an error in its image that no parity corrects fails the stack, and the thread in slot 0 ends. -/
theorem not_hodsRun : ¬ Obligations.HodsRun := by
  unfold Obligations.HodsRun
  rintro ⟨hstart, -⟩
  have hlines : pullLines (reloading.hods.getD 0 0) 0 = [] := by decide +kernel
  have hpull : losingStack.pullAll reloading.view (pullLines (reloading.hods.getD 0 0) 0) ((losingStack.kiln 4).staged 9 0 0) = (losingStack, [], .ok) := by
    rw [hlines]
    rfl
  obtain ⟨t, hexec, hslots, -⟩ := hstart losingStack losingStack 9 4 0 reloading [] rfl rfl rfl rfl rfl rfl hpull (by decide +kernel)
  have hended := losingStack_ends
  have hthread : (losingStack.slotAt 0).mode ≠ .free := by decide +kernel
  rw [hexec, leavesThread, State.slotAt, hslots, ← State.slotAt, decide_eq_false_iff_not] at hended
  exact hended hthread

end Sys2Proof.Machine
end

section
/-!
SUPPORT. Codes of a floating format and back: a finite value lies on the rounding grid of its format (R220), so rounding gives its magnitude code, and the sign and the magnitude give the code again. With it, the theorem that settles RepresentableValuesAreExact.
-/
namespace Sys2Proof.Machine

/-- The sign that `FloatFmt.value` reads from a code. -/
def FloatFmt.negOf (f : FloatFmt) (c : Nat) : Bool := f.signed && decide (2 ^ (f.width - 1) ≤ c)
/-- The magnitude code that `FloatFmt.value` reads from a code. -/
def FloatFmt.magOf (f : FloatFmt) (c : Nat) : Nat := if f.signed then c % 2 ^ (f.width - 1) else c

/-- A multiple of the unit is rounded to itself in every mode. -/
@[simp] theorem roundAt_self (r : Rnd) (neg : Bool) (m : Nat) (u : Int) : roundAt r neg m u u = m := by
  simp [roundAt]

/-- Rounding keeps the mantissa of a number whose own unit is the unit of its binade. -/
theorem FloatFmt.roundMag_of_top {f : FloatFmt} {m : Nat} {e : Int} (r : Rnd) (neg : Bool) (hm : m ≠ 0)
    (htop : max ((Nat.log2 m : Nat) + e) f.emin = e + (f.prec - 1 : Nat)) :
    f.roundMag r neg m e = (e + (f.prec - 1 : Nat) - f.emin).toNat * 2 ^ (f.prec - 1) + m := by
  simp [FloatFmt.roundMag, hm, htop]

/-- Rounding is exact on zero and the subnormal numbers. -/
theorem FloatFmt.roundMag_subnormal {f : FloatFmt} {m : Nat} (r : Rnd) (neg : Bool) (hm : m < 2 ^ (f.prec - 1)) :
    f.roundMag r neg m (f.emin - (f.prec - 1 : Nat)) = m := by
  by_cases h0 : m = 0
  · simp [FloatFmt.roundMag, h0]
  · have hlog : Nat.log2 m < f.prec - 1 := (Nat.log2_lt h0).mpr hm
    rw [f.roundMag_of_top r neg h0 (by omega)]
    simp

/-- Rounding is exact on the normal numbers: `j` is the binade above the least one, `k` the fraction. -/
theorem FloatFmt.roundMag_normal {f : FloatFmt} {j k : Nat} (r : Rnd) (neg : Bool) (hk : k < 2 ^ (f.prec - 1)) :
    f.roundMag r neg (2 ^ (f.prec - 1) + k) (f.emin - (f.prec - 1 : Nat) + j) = j * 2 ^ (f.prec - 1) + (2 ^ (f.prec - 1) + k) := by
  have h0 : 2 ^ (f.prec - 1) + k ≠ 0 := by positivity
  have hlog : Nat.log2 (2 ^ (f.prec - 1) + k) = f.prec - 1 := (Nat.log2_eq_iff h0).mpr (by omega)
  rw [f.roundMag_of_top r neg h0 (by omega)]
  congr 3
  omega

/-- `FloatFmt.value`, case by case, in terms of the sign and the magnitude of the code (R216, R218). -/
theorem FloatFmt.value_eq (f : FloatFmt) (c : Nat) :
    f.value c = if c = f.nan then .nan
      else if f.maxMag < f.magOf c then (if f.hasInf ∧ f.magOf c = f.maxMag + 1 then .inf (f.negOf c) else .nan)
      else if f.magOf c / 2 ^ (f.prec - 1) = 0 then .fin (f.negOf c) (f.magOf c) (f.emin - (f.prec - 1 : Nat))
      else .fin (f.negOf c) (2 ^ (f.prec - 1) + f.magOf c % 2 ^ (f.prec - 1))
        (f.emin - (f.prec - 1 : Nat) + (f.magOf c / 2 ^ (f.prec - 1) - 1 : Nat)) := rfl

/-- A code with a finite value is not the NaN, its magnitude is at most the largest finite one, and the value is rounded to that magnitude with the sign of the code. -/
theorem FloatFmt.value_fin {f : FloatFmt} {c m : Nat} {neg : Bool} {e : Int} (r : Rnd) (h : f.value c = .fin neg m e) :
    c ≠ f.nan ∧ f.magOf c ≤ f.maxMag ∧ neg = f.negOf c ∧ f.roundMag r neg m e = f.magOf c := by
  have hdm := Nat.div_add_mod' (f.magOf c) (2 ^ (f.prec - 1))
  rw [f.value_eq] at h
  split at h
  · cases h
  next hnan =>
  split at h
  · split at h <;> cases h
  next hmax =>
  refine ⟨hnan, Nat.le_of_not_lt hmax, ?_⟩
  split at h
  next hsub =>
    obtain ⟨rfl, rfl, rfl⟩ := Num.fin.inj h
    exact ⟨rfl, f.roundMag_subnormal r _ ((Nat.div_eq_zero_iff_lt (by positivity)).mp hsub)⟩
  next hnorm =>
    obtain ⟨rfl, rfl, rfl⟩ := Num.fin.inj h
    refine ⟨rfl, ?_⟩
    rw [f.roundMag_normal r _ (Nat.mod_lt _ (by positivity)), ← Nat.add_assoc, ← Nat.succ_mul,
      Nat.succ_eq_add_one, Nat.sub_add_cancel (Nat.pos_of_ne_zero hnorm), hdm]

/-- The sign and the magnitude of a code give the code again, where an 8-bit format with a sign has its NaN in the place of the negative zero. -/
theorem FloatFmt.code_negOf_magOf {f : FloatFmt} {c : Nat} (hw : f.width ≠ 0) (hzero : f.width = 8 → f.signed = true → f.nan = 0x80)
    (hc : c < 2 ^ f.width) (hnan : c ≠ f.nan) : f.code (f.negOf c) (f.magOf c) = c := by
  cases hs : f.signed
  case false => simp +contextual [FloatFmt.code, FloatFmt.magOf, hs]
  case true =>
    have htwo : 2 ^ f.width = 2 * 2 ^ (f.width - 1) := by rw [← Nat.pow_succ', Nat.succ_eq_add_one, Nat.sub_add_cancel (Nat.pos_of_ne_zero hw)]
    have hhigh (h : 2 ^ (f.width - 1) ≤ c) : c % 2 ^ (f.width - 1) = c - 2 ^ (f.width - 1) := by
      rw [Nat.mod_eq_sub_mod h, Nat.mod_eq_of_lt (by omega)]
    by_cases h : 2 ^ (f.width - 1) ≤ c
    · have hnz : ¬(f.width = 8 ∧ c - 2 ^ (f.width - 1) = 0) := by
        rintro ⟨h8, h0⟩
        rw [h8] at h h0
        exact hnan (by rw [hzero h8 hs]; omega)
      simp [FloatFmt.code, FloatFmt.negOf, FloatFmt.magOf, hs, h, hhigh h, hnz]
    · simp +contextual [FloatFmt.code, FloatFmt.negOf, FloatFmt.magOf, hs, h, Nat.mod_eq_of_lt (Nat.lt_of_not_le h)]

/-- A format without a sign reads no sign from a code. -/
theorem FloatFmt.negOf_and_not_signed (f : FloatFmt) (c : Nat) : (f.negOf c && !f.signed) = false := by
  cases hs : f.signed <;> simp [FloatFmt.negOf, hs]

/-- Conversion of a value that rounds to a magnitude in range, with the sign of a code of the format: no case of R221 out of range applies. -/
theorem FloatFmt.convert_in_range {f : FloatFmt} {c m : Nat} {e : Int} {r : Rnd} (sat : Bool)
    (hmax : f.roundMag r (f.negOf c) m e ≤ f.maxMag) :
    f.convert r sat (.fin (f.negOf c) m e) = f.code (f.negOf c) (f.roundMag r (f.negOf c) m e) := by
  simp [FloatFmt.convert, f.negOf_and_not_signed, Nat.not_lt.mpr hmax]

/-- A signed binary8 format writes its NaN where the other formats have their negative zero (Table 9.3). -/
theorem bin8_nan_of_signed {b : Bin8} (h : (bin8 b).signed = true) : (bin8 b).nan = 0x80 := by
  unfold bin8 at h ⊢
  split <;> simp_all

/-- A binary8 code has 8 bits. -/
@[simp] theorem bin8_width (b : Bin8) : (bin8 b).width = 8 := by
  unfold bin8
  split <;> rfl

/-- Settles O21: a finite value lies on the grid of its format, so it is rounded to its own magnitude, and sign and magnitude give the code back. -/
theorem representableValuesAreExact : Obligations.RepresentableValuesAreExact := by
  unfold Obligations.RepresentableValuesAreExact
  rintro f r sat c hf hc ⟨neg, m, e, hval⟩
  have hformat : f.width ≠ 0 ∧ (f.width = 8 → f.signed = true → f.nan = 0x80) := by
    rcases hf with rfl | rfl | rfl | ⟨b, rfl⟩
    · simp [fp32]
    · simp [fp16]
    · simp [bf16]
    · simpa using bin8_nan_of_signed
  obtain ⟨hw, hzero⟩ := hformat
  obtain ⟨hnan, hmax, rfl, hround⟩ := f.value_fin r hval
  rw [hval, f.convert_in_range sat (hround ▸ hmax), hround, f.code_negOf_magOf hw hzero hc hnan]

end Sys2Proof.Machine
end

section
/-!
SUPPORT. The fields of a packed word, and the word that its fields pack: for each of the nine formats, what every field reads, and that the fields determine the word.
-/
namespace Sys2Proof

/-! ### Fields of any word -/

theorem field_toNat (w : IWord) (lo len : Nat) : (field w lo len).toNat = w.toNat / 2 ^ lo % 2 ^ len := by simp [field]
theorem fieldG_val (w : IWord) (lo : Nat) : (fieldG w lo).val = w.toNat / 2 ^ lo % 16 := by simp [fieldG, field]
theorem fieldW_val (w : IWord) (lo : Nat) : (fieldW w lo).val = w.toNat / 2 ^ lo % 8 := by simp [fieldW, field]
/-- A field is zero where its bits are. -/
theorem field_eq_zero (w : IWord) (lo len : Nat) : field w lo len = 0 ↔ w.toNat / 2 ^ lo % 2 ^ len = 0 := by
  rw [← BitVec.toNat_inj, field_toNat]
  simp
theorem fieldG_eq_zero (w : IWord) (lo : Nat) : fieldG w lo = 0 ↔ w.toNat / 2 ^ lo % 16 = 0 := by
  rw [Fin.ext_iff, fieldG_val]
  simp
/-- The number of a word gives the word. -/
theorem word_of_toNat {n : Nat} {w : IWord} (h : n = w.toNat) : BitVec.ofNat 32 n = w := by
  rw [h, BitVec.ofNat_toNat, BitVec.setWidth_eq]
/-- A field of a packed number, by its digits. -/
theorem field_ofNat_toNat {m v lo len : Nat} (hlen : lo + len ≤ 32) (h : m / 2 ^ lo % 2 ^ len = v) :
    (field (BitVec.ofNat 32 m) lo len).toNat = v := by
  have hword : 2 ^ 32 = 2 ^ lo * 2 ^ (32 - lo) := by rw [← pow_add, Nat.add_sub_cancel' (by omega)]
  rw [field_toNat, BitVec.toNat_ofNat, hword, Nat.mod_mul_right_div_self, Nat.mod_mod_of_dvd _ (Nat.pow_dvd_pow 2 (by omega)), h]
theorem field_ofNat {m lo len : Nat} {v : BitVec len} (hlen : lo + len ≤ 32) (h : m / 2 ^ lo % 2 ^ len = v.toNat) :
    field (BitVec.ofNat 32 m) lo len = v :=
  BitVec.eq_of_toNat_eq (field_ofNat_toNat hlen h)
theorem fieldG_ofNat {m lo : Nat} {r : GReg} (hlen : lo + 4 ≤ 32) (h : m / 2 ^ lo % 2 ^ 4 = r.val) :
    fieldG (BitVec.ofNat 32 m) lo = r := Fin.ext (field_ofNat_toNat hlen h)
theorem fieldW_ofNat {m lo : Nat} {r : WReg} (hlen : lo + 3 ≤ 32) (h : m / 2 ^ lo % 2 ^ 3 = r.val) :
    fieldW (BitVec.ofNat 32 m) lo = r := Fin.ext (field_ofNat_toNat hlen h)

/-! ### Format A (Table 10.1) -/

section
variable {w : IWord} {op fn : Nat} {d a b c : GReg}

theorem fMajor_packA (hw : packA op d a b c fn = w) (hop : op < 2 ^ 7) (hfn : fn < 2 ^ 9) : (fMajor w).toNat = op := by
  subst hw
  exact field_ofNat_toNat (by decide) (by omega)
theorem fD_packA (hfn : fn < 2 ^ 9) : fD (packA op d a b c fn) = d := fieldG_ofNat (by decide) (by omega)
theorem fA_packA (hfn : fn < 2 ^ 9) : fA (packA op d a b c fn) = a := fieldG_ofNat (by decide) (by omega)
theorem fB_packA (hfn : fn < 2 ^ 9) : fB (packA op d a b c fn) = b := fieldG_ofNat (by decide) (by omega)
theorem fC_packA (hfn : fn < 2 ^ 9) : fC (packA op d a b c fn) = c := fieldG_ofNat (by decide) (by omega)
theorem fFn_packA (hw : packA op d a b c fn = w) (hfn : fn < 2 ^ 9) : (fFn w).toNat = fn := by
  subst hw
  exact field_ofNat_toNat (by decide) (by omega)
/-- The fields of a word in format A determine it. -/
theorem packA_eq (hop : (fMajor w).toNat = op) (hd : fD w = d) (ha : fA w = a) (hb : fB w = b) (hc : fC w = c)
    (hfn : (fFn w).toNat = fn) : packA op d a b c fn = w := by
  subst hop hd ha hb hc hfn
  apply word_of_toNat
  simp only [fMajor, fD, fA, fB, fC, fFn, fieldG_val, field_toNat]
  omega

end

/-! ### Formats I and B (Tables 10.2 and 10.4) -/

section
variable {w : IWord} {op imm : Nat} {d a : GReg}

theorem fMajor_packI (hw : packI op d a imm = w) (hop : op < 2 ^ 7) (himm : imm < 2 ^ 17) : (fMajor w).toNat = op := by
  subst hw
  exact field_ofNat_toNat (by decide) (by omega)
theorem fD_packI (himm : imm < 2 ^ 17) : fD (packI op d a imm) = d := fieldG_ofNat (by decide) (by omega)
theorem fA_packI (himm : imm < 2 ^ 17) : fA (packI op d a imm) = a := fieldG_ofNat (by decide) (by omega)
theorem fI17_packI (i : BitVec 17) : fI17 (packI op d a i.toNat) = i := field_ofNat (by decide) (by omega)
/-- The fields of a word in format I or B determine it. -/
theorem packI_eq (hop : (fMajor w).toNat = op) (hd : fD w = d) (ha : fA w = a) (himm : (fI17 w).toNat = imm) :
    packI op d a imm = w := by
  subst hop hd ha himm
  apply word_of_toNat
  simp only [fMajor, fD, fA, fI17, fieldG_val, field_toNat]
  omega

end

/-! ### Format M (Table 10.3) -/

section
variable {w : IWord} {op reg mode : Nat} {r b : GReg} {v : BitVec 4} {i : BitVec 14}

theorem fMajor_packM (hw : packM op reg b mode i = w) (hop : op < 2 ^ 7) (hreg : reg < 2 ^ 4) (hmode : mode < 2 ^ 3) :
    (fMajor w).toNat = op := by
  subst hw
  exact field_ofNat_toNat (by decide) (by omega)
theorem fD_packM (hmode : mode < 2 ^ 3) : fD (packM op r.val b mode i) = r := fieldG_ofNat (by decide) (by omega)
/-- The immediate source that stands in reg. -/
theorem field_reg_packM (hmode : mode < 2 ^ 3) : field (packM op v.toNat b mode i) 21 4 = v :=
  field_ofNat (by decide) (by omega)
theorem fA_packM (hmode : mode < 2 ^ 3) : fA (packM op reg b mode i) = b := fieldG_ofNat (by decide) (by omega)
theorem fMode_packM (hw : packM op reg b mode i = w) (hmode : mode < 2 ^ 3) : (fMode w).toNat = mode := by
  subst hw
  exact field_ofNat_toNat (by decide) (by omega)
/-- The mode field of a word packed with the code of a mode. -/
theorem fMode_packM_code (m : BitVec 3) : fMode (packM op reg b m.toNat i) = m := field_ofNat (by decide) (by omega)
theorem fI14_packM : fI14 (packM op reg b mode i) = i := field_ofNat (by decide) (by omega)
/-- The fields of a word in format M determine it. -/
theorem packM_eq (hop : (fMajor w).toNat = op) (hreg : (field w 21 4).toNat = reg) (hb : fA w = b)
    (hmode : (fMode w).toNat = mode) (hi : fI14 w = i) : packM op reg b mode i = w := by
  subst hop hreg hb hmode hi
  apply word_of_toNat
  simp only [fMajor, fA, fMode, fI14, fieldG_val, field_toNat]
  omega

end

/-! ### Format J (Table 10.5) -/

section
variable {w : IWord} {op off : Nat} {d : GReg} {v : BitVec 4}

theorem fMajor_packJ {d : Nat} (hw : packJ op d off = w) (hop : op < 2 ^ 7) (hd : d < 2 ^ 4) (hoff : off < 2 ^ 21) :
    (fMajor w).toNat = op := by
  subst hw
  exact field_ofNat_toNat (by decide) (by omega)
theorem fD_packJ (hoff : off < 2 ^ 21) : fD (packJ op d.val off) = d := fieldG_ofNat (by decide) (by omega)
theorem fO21_packJ (o : BitVec 21) {d : Nat} : fO21 (packJ op d o.toNat) = o := field_ofNat (by decide) (by omega)
/-- The fields of a word in format J determine it. -/
theorem packJ_eq {d : Nat} (hop : (fMajor w).toNat = op) (hd : (field w 21 4).toNat = d) (hoff : (fO21 w).toNat = off) :
    packJ op d off = w := by
  subst hop hd hoff
  apply word_of_toNat
  simp only [fMajor, fO21, field_toNat]
  omega

end

/-! ### Format W (Table 10.6) -/

section
variable {w : IWord} {op fmt fn : Nat} {d a b c : WReg} {sg : GReg}

theorem fMajor_packW (hw : packW op d a b c sg fmt fn = w) (hop : op < 2 ^ 7) (hfmt : fmt < 2 ^ 5) (hfn : fn < 2 ^ 4) :
    (fMajor w).toNat = op := by
  subst hw
  exact field_ofNat_toNat (by decide) (by omega)
theorem fWd_packW (hfmt : fmt < 2 ^ 5) (hfn : fn < 2 ^ 4) : fWd (packW op d a b c sg fmt fn) = d :=
  fieldW_ofNat (by decide) (by omega)
theorem fWa_packW (hfmt : fmt < 2 ^ 5) (hfn : fn < 2 ^ 4) : fWa (packW op d a b c sg fmt fn) = a :=
  fieldW_ofNat (by decide) (by omega)
theorem fWb_packW (hfmt : fmt < 2 ^ 5) (hfn : fn < 2 ^ 4) : fWb (packW op d a b c sg fmt fn) = b :=
  fieldW_ofNat (by decide) (by omega)
theorem fWc_packW (hfmt : fmt < 2 ^ 5) (hfn : fn < 2 ^ 4) : fWc (packW op d a b c sg fmt fn) = c :=
  fieldW_ofNat (by decide) (by omega)
theorem fC_packW (hfmt : fmt < 2 ^ 5) (hfn : fn < 2 ^ 4) : fC (packW op d a b c sg fmt fn) = sg :=
  fieldG_ofNat (by decide) (by omega)
/-- The format field of a word packed with the code of a format. -/
theorem fFmt_packW (f : BitVec 5) (hfn : fn < 2 ^ 4) : fFmt (packW op d a b c sg f.toNat fn) = f := field_ofNat (by decide) (by omega)
theorem fWfn_packW (hw : packW op d a b c sg fmt fn = w) (hfn : fn < 2 ^ 4) : (fWfn w).toNat = fn := by
  subst hw
  exact field_ofNat_toNat (by decide) (by omega)
/-- The fields of a word in format W determine it. -/
theorem packW_eq (hop : (fMajor w).toNat = op) (hd : fWd w = d) (ha : fWa w = a) (hb : fWb w = b) (hc : fWc w = c)
    (hsg : fC w = sg) (hfmt : (fFmt w).toNat = fmt) (hfn : (fWfn w).toNat = fn) : packW op d a b c sg fmt fn = w := by
  subst hop hd ha hb hc hsg hfmt hfn
  apply word_of_toNat
  simp only [fMajor, fWd, fWa, fWb, fWc, fC, fFmt, fWfn, fieldG_val, fieldW_val, field_toNat]
  omega

end

/-! ### Formats Z and H (Tables 10.7 and 10.8) -/

section
variable {w : IWord} {op f imm train lane : Nat} {z g : Fin 16}

theorem fMajor_packZ (hw : packZ op z g f imm = w) (hop : op < 2 ^ 7) (hf : f < 2 ^ 6) (himm : imm < 2 ^ 11) :
    (fMajor w).toNat = op := by
  subst hw
  exact field_ofNat_toNat (by decide) (by omega)
theorem fD_packZ (hf : f < 2 ^ 6) (himm : imm < 2 ^ 11) : fD (packZ op z g f imm) = z := fieldG_ofNat (by decide) (by omega)
theorem fA_packZ (hf : f < 2 ^ 6) (himm : imm < 2 ^ 11) : fA (packZ op z g f imm) = g := fieldG_ofNat (by decide) (by omega)
theorem fZf_packZ (hw : packZ op z g f imm = w) (hf : f < 2 ^ 6) (himm : imm < 2 ^ 11) : (fZf w).toNat = f := by
  subst hw
  exact field_ofNat_toNat (by decide) (by omega)
theorem fI11_packZ (i : BitVec 11) : fI11 (packZ op z g f i.toNat) = i := field_ofNat (by decide) (by omega)
theorem fI11_packZ_zero : fI11 (packZ op z g f 0) = 0 := fI11_packZ 0
/-- The fields of a word in format Z determine it. -/
theorem packZ_eq (hop : (fMajor w).toNat = op) (hz : fD w = z) (hg : fA w = g) (hf : (fZf w).toNat = f)
    (himm : (fI11 w).toNat = imm) : packZ op z g f imm = w := by
  subst hop hz hg hf himm
  apply word_of_toNat
  simp only [fMajor, fD, fA, fZf, fI11, fieldG_val, field_toNat]
  omega
/-- A word of format H is the word of format Z whose field joins train and lane. -/
theorem packH_eq_packZ : packH op z g train lane = packZ op z g (train * 2 ^ 3 + lane) 0 :=
  congrArg (BitVec.ofNat 32) (by omega)
theorem fMajor_packH (hw : packH op z g train lane = w) (hop : op < 2 ^ 7) (htrain : train < 2 ^ 3) (hlane : lane < 2 ^ 3) :
    (fMajor w).toNat = op := by
  exact fMajor_packZ (packH_eq_packZ.symm.trans hw) hop (by omega) (by decide)
theorem fD_packH (htrain : train < 2 ^ 3) (hlane : lane < 2 ^ 3) : fD (packH op z g train lane) = z := by
  rw [packH_eq_packZ, fD_packZ (by omega) (by decide)]
theorem fA_packH (htrain : train < 2 ^ 3) (hlane : lane < 2 ^ 3) : fA (packH op z g train lane) = g := by
  rw [packH_eq_packZ, fA_packZ (by omega) (by decide)]
theorem fTrain_packH (t : BitVec 3) (hlane : lane < 2 ^ 3) : fTrain (packH op z g t.toNat lane) = t :=
  field_ofNat (by decide) (by omega)
theorem fLane_packH (l : BitVec 3) : fLane (packH op z g train l.toNat) = l := field_ofNat (by decide) (by omega)
theorem fI11_packH : fI11 (packH op z g train lane) = 0 := field_ofNat (by decide) (by simp; omega)
/-- The fields of a word in format H determine it. -/
theorem packH_eq (hop : (fMajor w).toNat = op) (hz : fD w = z) (hg : fA w = g) (htrain : (fTrain w).toNat = train)
    (hlane : (fLane w).toNat = lane) (hfn : fI11 w = 0) : packH op z g train lane = w := by
  have hf : (fZf w).toNat = train * 2 ^ 3 + lane := by
    simp only [← htrain, ← hlane, fZf, fTrain, fLane, field_toNat]
    omega
  exact packH_eq_packZ.trans (packZ_eq hop hz hg hf (congrArg BitVec.toNat hfn))

end

/-! ### Format S (Table 10.9) -/

section
variable {w : IWord} {creg fn : Nat} {d : GReg}

theorem fMajor_packS (hw : packS d creg fn = w) (hcreg : creg < 2 ^ 12) (hfn : fn < 2 ^ 9) : (fMajor w).toNat = 0x70 := by
  subst hw
  exact field_ofNat_toNat (by decide) (by omega)
theorem fD_packS (hcreg : creg < 2 ^ 12) (hfn : fn < 2 ^ 9) : fD (packS d creg fn) = d :=
  fieldG_ofNat (by decide) (by omega)
theorem fCreg_packS (n : BitVec 12) (hfn : fn < 2 ^ 9) : fCreg (packS d n.toNat fn) = n := field_ofNat (by decide) (by omega)
theorem fFn_packS (hw : packS d creg fn = w) (hfn : fn < 2 ^ 9) : (fFn w).toNat = fn := by
  subst hw
  exact field_ofNat_toNat (by decide) (by omega)
/-- The fields of a word in format S determine it. -/
theorem packS_eq (hop : (fMajor w).toNat = 0x70) (hd : fD w = d) (hcreg : (fCreg w).toNat = creg)
    (hfn : (fFn w).toNat = fn) : packS d creg fn = w := by
  subst hd hcreg hfn
  apply word_of_toNat
  simp only [fMajor, field_toNat] at hop
  simp only [fD, fCreg, fFn, fieldG_val, field_toNat]
  omega

end

end Sys2Proof
end

section
/-!
SUPPORT. The codes of the small types: each value is read back from its code, and a code that is assigned is the code of the value that it reads as.
-/
namespace Sys2Proof

@[simp] theorem LdMode.ofCode_code (m : LdMode) : ofCode m.code = m := by cases m <;> rfl
@[simp] theorem StMode.ofCode_code (m : StMode) : ofCode m.code = some m := by cases m <;> rfl
@[simp] theorem StiMode.ofCode_code (m : StiMode) : ofCode m.code = some m := by cases m <;> rfl
@[simp] theorem RingForm.ofCode_code (m : RingForm) : ofCode m.code = some m := by cases m <;> rfl
@[simp] theorem RwCond.ofCode_code (c : RwCond) : ofCode c.code = some c := by cases c <;> rfl
@[simp] theorem RmwOp.ofCode_code (o : RmwOp) : ofCode o.code = o := by cases o <;> rfl
@[simp] theorem AmoSize.ofCode_code (z : AmoSize) : ofCode z.code = z := by cases z <;> rfl
@[simp] theorem Elt.ofCode_code (e : Elt) : ofCode e.code = some e := by cases e <;> rfl
@[simp] theorem Pivot.ofCode_code (p : Pivot) : ofCode p.code = p := by cases p <;> rfl
@[simp] theorem Rnd.ofCode_code (r : Rnd) : ofCode r.code = r := by cases r <;> rfl
@[simp] theorem Pairing.ofCode_code (p : Pairing) : ofCode p.code = some p := by cases p <;> rfl
@[simp] theorem DotLane.ofCode_code (l : DotLane) : ofCode l.code = some l := by cases l <;> rfl
@[simp] theorem CReg.ofCode_code (c : CReg) : ofCode c.code = some c := by cases c <;> rfl

theorem RmwOp.code_lt (o : RmwOp) : o.code < 8 := by cases o <;> decide
theorem AmoOp.code_lt (o : AmoOp) : o.code < 16 := by
  cases o with
  | rmw o => exact Nat.lt_trans o.code_lt (by decide)
  | swap | cas => decide
theorem AmoSize.code_lt (z : AmoSize) : z.code < 2 := by cases z <;> decide
theorem Pivot.code_lt (p : Pivot) : p.code < 4 := by cases p <;> decide
theorem Rnd.code_lt (r : Rnd) : r.code < 4 := by cases r <;> decide
theorem Pairing.code_lt (p : Pairing) : p.code < 8 := by cases p <;> decide

@[simp] theorem AmoOp.ofCode_code (o : AmoOp) : ofCode o.code = some o := by
  cases o with
  | rmw o => simp [ofCode, code, o.code_lt]
  | swap | cas => rfl
@[simp] theorem Bin8.ofCode_code (f : Bin8) : ofCode f.code = some f := by
  obtain ⟨signed, ext, p⟩ := f
  revert signed ext p
  decide
/-- A format is read back from its code and the bit of the binary8 family (R234). -/
@[simp] theorem Fmt.ofCode_code (f : Fmt) : ofCode f.isBin8 f.code = some f := by
  cases f with
  | elt e => simp [ofCode, isBin8, code]
  | b8 f => simp [ofCode, isBin8, code]

theorem LdMode.code_ofCode : ∀ c, (ofCode c).code = c := by decide
theorem StMode.code_of_ofCode {c : BitVec 3} {x : StMode} (h : ofCode c = some x) : x.code = c := by
  revert c x
  decide
theorem StiMode.code_of_ofCode {c : BitVec 3} {x : StiMode} (h : ofCode c = some x) : x.code = c := by
  revert c x
  decide
theorem RingForm.code_of_ofCode {c : BitVec 3} {x : RingForm} (h : ofCode c = some x) : x.code = c := by
  revert c x
  decide
theorem RwCond.code_of_ofCode {c : BitVec 3} {x : RwCond} (h : ofCode c = some x) : x.code = c := by
  revert c x
  decide
theorem Elt.code_of_ofCode {c : BitVec 5} {x : Elt} (h : ofCode c = some x) : x.code = c := by
  revert c x
  decide
theorem Bin8.code_of_ofCode {c : BitVec 5} {x : Bin8} (h : ofCode c = some x) : x.code = c := by
  revert c x
  decide
theorem DotLane.code_of_ofCode {c : BitVec 5} {x : DotLane} (h : ofCode c = some x) : x.code = c := by
  revert c x
  decide
theorem CReg.code_of_ofCode {c : BitVec 12} {x : CReg} (h : ofCode c = some x) : x.code = c := by
  apply BitVec.eq_of_toNat_eq
  unfold ofCode at h
  split at h
  case h_23 => cases h
  all_goals
    cases h
    exact Eq.symm ‹_›
theorem RmwOp.code_ofCode {c : Nat} (h : c < 8) : (ofCode c).code = c := by
  revert c
  decide
theorem AmoOp.code_of_ofCode {c : Nat} {o : AmoOp} (h : ofCode c = some o) : o.code = c := by
  unfold ofCode at h
  split at h
  case isTrue hc =>
    cases h
    exact RmwOp.code_ofCode hc
  case isFalse =>
    split at h
    case isTrue hc =>
      cases h
      exact hc.symm
    case isFalse =>
      split at h
      case isTrue hc =>
        cases h
        exact hc.symm
      case isFalse => cases h
theorem AmoSize.code_ofCode {c : Nat} (h : c < 2) : (ofCode c).code = c := by
  revert c
  decide
theorem Pivot.code_ofCode {c : Nat} (h : c < 4) : (ofCode c).code = c := by
  revert c
  decide
theorem Rnd.code_ofCode {c : Nat} (h : c < 4) : (ofCode c).code = c := by
  revert c
  decide
theorem Pairing.code_of_ofCode {c : Nat} {p : Pairing} (h : ofCode c = some p) : p.code = c := by
  unfold ofCode at h
  split at h
  case h_8 => cases h
  all_goals
    cases h
    rfl
/-- A format that is read has the code and the bit it is read from. -/
theorem Fmt.code_of_ofCode {bit : Bool} {c : BitVec 5} {f : Fmt} (h : ofCode bit c = some f) : f.isBin8 = bit ∧ f.code = c := by
  cases bit with
  | true =>
    obtain ⟨b, hb, rfl⟩ := Option.map_eq_some_iff.mp h
    exact ⟨rfl, Bin8.code_of_ofCode hb⟩
  | false =>
    obtain ⟨e, he, rfl⟩ := Option.map_eq_some_iff.mp h
    exact ⟨rfl, Elt.code_of_ofCode he⟩

end Sys2Proof
end

section
/-!
SUPPORT. What the decoder reads from a word that the encoder packed, one lemma per kind of word; DecodeInvertsEncode is assembled from these.
-/
namespace Sys2Proof

@[simp] theorem need_true (e : DecodeError) (k : Decoded) : need true e k = k := rfl
@[simp] theorem needSome_some {α : Type} (a : α) (e : DecodeError) (k : α → Decoded) : needSome (some a) e k = k a := rfl
/-- A condition that holds lets the decoder go on. -/
theorem need_pos {c : Prop} [Decidable c] (h : c) (e : DecodeError) (k : Decoded) : need (decide c) e k = k := by
  rw [decide_eq_true h, need_true]

/-! ### Words of scalar instructions -/

section
variable {w : IWord} {op fn : Nat} {d a b c : GReg}

theorem threeReg_packA {f : GReg → GReg → GReg → Instr} (hw : packA op d a b 0 fn = w) (hfn : fn < 2 ^ 9) :
    threeReg w f = .ok (f d a b) := by
  subst hw
  rw [threeReg, fD_packA hfn, fA_packA hfn, fB_packA hfn]
  exact need_pos (fC_packA hfn) _ _
theorem twoReg_packA {f : GReg → GReg → Instr} (hw : packA op d a 0 0 fn = w) (hfn : fn < 2 ^ 9) : twoReg w f = .ok (f d a) := by
  subst hw
  rw [twoReg, fD_packA hfn, fA_packA hfn]
  exact need_pos ⟨fB_packA hfn, fC_packA hfn⟩ _ _
theorem ok_packA {f : GReg → GReg → GReg → GReg → Instr} (hw : packA op d a b c fn = w) (hfn : fn < 2 ^ 9) :
    (.ok (f (fD w) (fA w) (fB w) (fC w)) : Decoded) = .ok (f d a b c) := by
  subst hw
  rw [fD_packA hfn, fA_packA hfn, fB_packA hfn, fC_packA hfn]
theorem ok_packI {f : GReg → GReg → BitVec 17 → Instr} {i : BitVec 17} (hw : packI op d a i.toNat = w) :
    (.ok (f (fD w) (fA w) (fI17 w)) : Decoded) = .ok (f d a i) := by
  subst hw
  rw [fD_packI i.isLt, fA_packI i.isLt, fI17_packI]
theorem ok_packJ {f : GReg → BitVec 21 → Instr} {o : BitVec 21} (hw : packJ op d.val o.toNat = w) :
    (.ok (f (fD w) (fO21 w)) : Decoded) = .ok (f d o) := by
  subst hw
  rw [fD_packJ o.isLt, fO21_packJ]
theorem shiftImm_packI {f : GReg → GReg → BitVec 6 → Instr} {n : BitVec 6} (hw : packI op d a n.toNat = w) :
    shiftImm w f = .ok (f d a n) := by
  subst hw
  have himm : n.toNat < 2 ^ 17 := by omega
  have hn : field (packI op d a n.toNat) 0 6 = n := field_ofNat (by decide) (by omega)
  rw [shiftImm, fD_packI himm, fA_packI himm, hn]
  exact need_pos (field_ofNat (by decide) (by simp; omega)) _ _
theorem fieldImm_packI {f : GReg → GReg → BitVec 6 → BitVec 6 → Instr} {n p : BitVec 6}
    (hw : packI op d a (n.toNat * 2 ^ 6 + p.toNat) = w) (h : p.toNat + n.toNat + 1 ≤ 64) : fieldImm w f = .ok (f d a n p) := by
  subst hw
  have himm : n.toNat * 2 ^ 6 + p.toNat < 2 ^ 17 := by omega
  have hn : field (packI op d a (n.toNat * 2 ^ 6 + p.toNat)) 6 6 = n := field_ofNat (by decide) (by omega)
  have hp : field (packI op d a (n.toNat * 2 ^ 6 + p.toNat)) 0 6 = p := field_ofNat (by decide) (by omega)
  rw [fieldImm, fD_packI himm, fA_packI himm, hn, hp, need_pos h]
  exact need_pos (field_ofNat (by decide) (by simp; omega)) _ _
theorem decodeLui_packI {k : BitVec 2} {c : BitVec 16} (hw : packI op d (Fin.ofNat 16 k.toNat) c.toNat = w) :
    decodeLui w = .ok (.lui d k c) := by
  subst hw
  have himm : c.toNat < 2 ^ 17 := by omega
  have hk : field (packI op d (Fin.ofNat 16 k.toNat) c.toNat) 17 2 = k := field_ofNat (by decide) (by simp; omega)
  have hc : field (packI op d (Fin.ofNat 16 k.toNat) c.toNat) 0 16 = c := field_ofNat (by decide) (by omega)
  rw [decodeLui, fD_packI himm, hk, hc]
  exact need_pos ⟨field_ofNat (by decide) (by simp; omega), field_ofNat (by decide) (by simp; omega)⟩ _ _
theorem movImmWord_packI {i : BitVec 17} (hw : packI op d 0 i.toNat = w) :
    need (fA w = 0) .nonzeroField (.ok (.movImm (fD w) (fI17 w))) = .ok (.movImm d i) := by
  subst hw
  rw [fD_packI i.isLt, fI17_packI]
  exact need_pos (fA_packI i.isLt) _ _
theorem decodeRpt_packJ {l : BitVec 4} {st : BitVec 3} {n : BitVec 12}
    (hw : packJ op l.toNat (st.toNat * 2 ^ 18 + n.toNat * 2 ^ 6) = w) : decodeRpt w = .ok (.rpt l st n) := by
  subst hw
  have hl : field (packJ op l.toNat (st.toNat * 2 ^ 18 + n.toNat * 2 ^ 6)) 21 4 = l := field_ofNat (by decide) (by omega)
  have hst : field (packJ op l.toNat (st.toNat * 2 ^ 18 + n.toNat * 2 ^ 6)) 18 3 = st := field_ofNat (by decide) (by omega)
  have hn : field (packJ op l.toNat (st.toNat * 2 ^ 18 + n.toNat * 2 ^ 6)) 6 12 = n := field_ofNat (by decide) (by omega)
  rw [decodeRpt, hl, hst, hn]
  exact need_pos (field_ofNat (by decide) (by simp; omega)) _ _

end

/-! ### Words of memory, rings and barriers -/

section
variable {w : IWord} {op fn mode : Nat} {r d a b c : GReg} {i : BitVec 14}

theorem ok_packM {f : GReg → GReg → BitVec 14 → Instr} (hw : packM op r.val b mode i = w) (hmode : mode < 2 ^ 3) :
    (.ok (f (fD w) (fA w) (fI14 w)) : Decoded) = .ok (f r b i) := by
  subst hw
  rw [fD_packM hmode, fA_packM hmode, fI14_packM]
theorem oneMode_packM {f : GReg → GReg → BitVec 14 → Instr} (hw : packM op r.val b mode i = w) (hmode : mode < 2 ^ 3) :
    oneMode w mode f = .ok (f r b i) := by
  rw [oneMode, need_pos (fMode_packM hw hmode)]
  exact ok_packM hw hmode
theorem oneModeImm_packM {f : BitVec 4 → GReg → BitVec 14 → Instr} {v : BitVec 4} (hw : packM op v.toNat b mode i = w)
    (hmode : mode < 2 ^ 3) : oneModeImm w mode f = .ok (f v b i) := by
  rw [oneModeImm, need_pos (fMode_packM hw hmode), ← hw, field_reg_packM hmode, fA_packM hmode, fI14_packM]
/-- The form without reg: reg must be zero. -/
theorem need_packM_zero {f : GReg → BitVec 14 → Instr} (hw : packM op 0 b mode i = w) (hmode : mode < 2 ^ 3) :
    need (fD w = 0) .nonzeroField (.ok (f (fA w) (fI14 w))) = .ok (f b i) := by
  subst hw
  rw [fA_packM hmode, fI14_packM]
  exact need_pos (fD_packM (r := 0) hmode) _ _
theorem decodeLd_packM {m : LdMode} (hw : packM op r.val b m.code.toNat i = w) (h : m ≠ .l ∨ r.val < 8) :
    decodeLd w = .ok (.ld m r b i) := by
  subst hw
  rw [decodeLd, fMode_packM_code, LdMode.ofCode_code, fD_packM m.code.isLt, fA_packM m.code.isLt, fI14_packM]
  exact need_pos h _ _
theorem decodeSt_packM {m : StMode} (hw : packM op r.val b m.code.toNat i = w) (h : m ≠ .l ∨ r.val < 8) :
    decodeSt w = .ok (.st m r b i) := by
  subst hw
  rw [decodeSt, fMode_packM_code, StMode.ofCode_code, needSome_some, fD_packM m.code.isLt, fA_packM m.code.isLt, fI14_packM]
  exact need_pos h _ _
theorem decodeStImm_packM {m : StiMode} {v : BitVec 4} (hw : packM op v.toNat b m.code.toNat i = w) :
    decodeStImm w = .ok (.stImm m v b i) := by
  subst hw
  rw [decodeStImm, fMode_packM_code, StiMode.ofCode_code, needSome_some, field_reg_packM m.code.isLt, fA_packM m.code.isLt, fI14_packM]
theorem ringWord_packM {f : RingForm → GReg → GReg → BitVec 14 → Instr} {m : RingForm} (hw : packM op r.val b m.code.toNat i = w)
    (h : m ≠ .line ∨ r.val < 8) : ringWord w f = .ok (f m r b i) := by
  subst hw
  rw [ringWord, fMode_packM_code, RingForm.ofCode_code, needSome_some, fD_packM m.code.isLt, fA_packM m.code.isLt, fI14_packM]
  exact need_pos h _ _
theorem decodeRwait_packM {m : RwCond} (hw : packM op r.val b m.code.toNat i = w) : decodeRwait w = .ok (.rwait m r b i) := by
  subst hw
  rw [decodeRwait, fMode_packM_code, RwCond.ofCode_code, needSome_some, fD_packM m.code.isLt, fA_packM m.code.isLt, fI14_packM]
theorem decodeMigr_packM (hw : packM op 0 b 0 i = w) : decodeMigr w = .ok (.migr b i) := by
  rw [decodeMigr, need_pos (fMode_packM hw (by decide))]
  exact need_packM_zero hw (by decide)
theorem decodePref_packM {hbm : Bool} (hw : packM op r.val b (if hbm then 0 else 1) i = w) :
    decodePref w = .ok (if hbm then .prefHbm r b i else .prefWake r b i) := by
  cases hbm <;> rw [decodePref, fMode_packM hw (by decide)] <;> exact ok_packM hw (by decide)
theorem decodeIter_packM {ring : Bool} (hw : packM op 0 b (if ring then 1 else 0) i = w) :
    decodeIter w = .ok (if ring then .iterRing b i else .iter b i) := by
  cases ring <;> rw [decodeIter, fMode_packM hw (by decide)] <;> exact need_packM_zero hw (by decide)
theorem decodeNest_packM {ring : Bool} (hw : packM op r.val b (if ring then 1 else 0) i = w) (h : r.val ≤ 13) :
    decodeNest w = .ok (if ring then .nestRing r b i else .nest r b i) := by
  have hreg : (fD w).val ≤ 13 := by
    subst hw
    rwa [fD_packM (by split <;> decide)]
  cases ring <;> rw [decodeNest, fMode_packM hw (by decide)] <;> exact (need_pos hreg _ _).trans (ok_packM hw (by decide))
theorem decodeAmo_packA {o : AmoOp} {z : AmoSize} (hw : packA op d a b c (o.code * 2 ^ 5 + z.code * 2 ^ 4) = w)
    (h : o = .cas ∨ c = 0) : decodeAmo w = .ok (.amo o z d a b c) := by
  have ho := o.code_lt
  have hz := z.code_lt
  have hfn : o.code * 2 ^ 5 + z.code * 2 ^ 4 < 2 ^ 9 := by omega
  subst hw
  have hop : (field (packA op d a b c (o.code * 2 ^ 5 + z.code * 2 ^ 4)) 5 4).toNat = o.code :=
    field_ofNat_toNat (by decide) (by omega)
  have hsize : (field (packA op d a b c (o.code * 2 ^ 5 + z.code * 2 ^ 4)) 4 1).toNat = z.code :=
    field_ofNat_toNat (by decide) (by omega)
  rw [decodeAmo, hop, hsize, AmoOp.ofCode_code, AmoSize.ofCode_code, needSome_some, fD_packA hfn, fA_packA hfn, fB_packA hfn,
    fC_packA hfn]
  exact need_pos ⟨field_ofNat (by decide) (by simp; omega), h⟩ _ _
theorem decodeRupd_packA {o : RmwOp} {z : AmoSize} (hw : packA op 0 a b 0 (o.code * 2 ^ 5 + z.code * 2 ^ 4) = w) :
    decodeRupd w = .ok (.rupd o z a b) := by
  have ho := o.code_lt
  have hz := z.code_lt
  have hfn : o.code * 2 ^ 5 + z.code * 2 ^ 4 < 2 ^ 9 := by omega
  subst hw
  have hop : (field (packA op 0 a b 0 (o.code * 2 ^ 5 + z.code * 2 ^ 4)) 5 3).toNat = o.code :=
    field_ofNat_toNat (by decide) (by omega)
  have hsize : (field (packA op 0 a b 0 (o.code * 2 ^ 5 + z.code * 2 ^ 4)) 4 1).toNat = z.code :=
    field_ofNat_toNat (by decide) (by omega)
  have htop : field (packA op 0 a b 0 (o.code * 2 ^ 5 + z.code * 2 ^ 4)) 8 1 = 0 := field_ofNat (by decide) (by simp; omega)
  rw [decodeRupd, need_pos htop, hop, hsize, RmwOp.ofCode_code, AmoSize.ofCode_code, fA_packA hfn, fB_packA hfn]
  exact need_pos ⟨fD_packA hfn, fC_packA hfn, field_ofNat (by decide) (by simp; omega)⟩ _ _
theorem noReg_packA {j : Instr} (hw : packA op 0 0 0 0 fn = w) (hfn : fn < 2 ^ 9) : noReg w j = .ok j := by
  subst hw
  exact need_pos (field_ofNat (by decide) (by simp; omega)) _ _
theorem mqdqWord_packA (hw : packA op d 0 0 0 fn = w) (hfn : fn < 2 ^ 9) :
    need (field w 9 12 = 0) .nonzeroField (.ok (.mqdq (fD w))) = .ok (.mqdq d) := by
  subst hw
  rw [fD_packA hfn]
  exact need_pos (field_ofNat (by decide) (by simp; omega)) _ _
theorem spawnWord_packA (hw : packA op d a b 0 fn = w) (hfn : fn < 2 ^ 9) (h : b.val ≤ 12) :
    need (fC w = 0) .nonzeroField (need ((fB w).val ≤ 12) .registerLimit (.ok (.spawn (fD w) (fA w) (fB w)))) =
      .ok (.spawn d a b) := by
  subst hw
  rw [fD_packA hfn, fA_packA hfn, fB_packA hfn, need_pos h]
  exact need_pos (fC_packA hfn) _ _
theorem bwaitWord_packI {n : BitVec 7} (hw : packI op d 0 n.toNat = w) :
    need (fA w = 0 ∧ field w 7 10 = 0) .nonzeroField (.ok (.bwait (fD w) (field w 0 7))) = .ok (.bwait d n) := by
  subst hw
  have himm : n.toNat < 2 ^ 17 := by omega
  have hn : field (packI op d 0 n.toNat) 0 7 = n := field_ofNat (by decide) (by omega)
  rw [fD_packI himm, hn]
  exact need_pos ⟨fA_packI himm, field_ofNat (by decide) (by simp; omega)⟩ _ _
/-- A word whose one operand is a barrier's number, and its register in sa. -/
theorem barrierImm_packI {f : GReg → BitVec 7 → Instr} {n : BitVec 7} (hw : packI op 0 a n.toNat = w) :
    barrierImm w f = .ok (f a n) := by
  subst hw
  have himm : n.toNat < 2 ^ 17 := by omega
  have hn : field (packI op 0 a n.toNat) 0 7 = n := field_ofNat (by decide) (by omega)
  rw [barrierImm, fA_packI himm, hn]
  exact need_pos ⟨fD_packI himm, field_ofNat (by decide) (by simp; omega)⟩ _ _

end

/-! ### Words of wide instructions -/

section
variable {w : IWord} {op fn : Nat} {e : Elt} {d a b c : WReg} {g : GReg} {ok : Elt → Bool}

/-- The decoder goes on with the format that the encoder packed. -/
theorem needElt_packW (hok : ok e = true) (hfn : fn < 2 ^ 4) (k : Elt → Decoded) :
    needElt (packW op d a b c g e.code.toNat fn) ok k = k e := by
  rw [needElt, fFmt_packW _ hfn, Elt.ofCode_code, needSome_some, hok, need_true]
theorem wideThree_packW {f : Elt → WReg → WReg → WReg → Instr} (hw : packW op d a b 0 0 e.code.toNat fn = w) (hok : ok e = true)
    (hfn : fn < 2 ^ 4) : wideThree w ok f = .ok (f e d a b) := by
  subst hw
  rw [wideThree, needElt_packW hok hfn, fWd_packW e.code.isLt hfn, fWa_packW e.code.isLt hfn, fWb_packW e.code.isLt hfn]
  exact need_pos ⟨fWc_packW e.code.isLt hfn, fC_packW e.code.isLt hfn⟩ _ _
theorem wideTwo_packW {f : Elt → WReg → WReg → Instr} (hw : packW op d a 0 0 0 e.code.toNat fn = w) (hok : ok e = true)
    (hfn : fn < 2 ^ 4) : wideTwo w ok f = .ok (f e d a) := by
  subst hw
  rw [wideTwo, needElt_packW hok hfn, fWd_packW e.code.isLt hfn, fWa_packW e.code.isLt hfn]
  exact need_pos ⟨fWb_packW e.code.isLt hfn, fWc_packW e.code.isLt hfn, fC_packW e.code.isLt hfn⟩ _ _
theorem wideFour_packW {f : Elt → WReg → WReg → WReg → WReg → Instr} (hw : packW op d a b c 0 e.code.toNat fn = w)
    (hok : ok e = true) (hfn : fn < 2 ^ 4) : wideFour w ok f = .ok (f e d a b c) := by
  subst hw
  rw [wideFour, needElt_packW hok hfn, fWd_packW e.code.isLt hfn, fWa_packW e.code.isLt hfn, fWb_packW e.code.isLt hfn,
    fWc_packW e.code.isLt hfn]
  exact need_pos (fC_packW e.code.isLt hfn) _ _
theorem wideRed_packW {f : Elt → GReg → WReg → Instr} (hw : packW op 0 a 0 0 g e.code.toNat fn = w) (hfn : fn < 2 ^ 4) :
    wideRed w f = .ok (f e g a) := by
  subst hw
  rw [wideRed, needElt_packW rfl hfn, fWa_packW e.code.isLt hfn, fC_packW e.code.isLt hfn]
  exact need_pos ⟨fWd_packW e.code.isLt hfn, fWb_packW e.code.isLt hfn, fWc_packW e.code.isLt hfn⟩ _ _
theorem decodeWbcst_packW (hw : packW op d 0 0 0 g e.code.toNat fn = w) (hfn : fn < 2 ^ 4) :
    decodeWbcst w = .ok (.wbcst e d g) := by
  subst hw
  rw [decodeWbcst, needElt_packW rfl hfn, fWd_packW e.code.isLt hfn, fC_packW e.code.isLt hfn]
  exact need_pos ⟨fWa_packW e.code.isLt hfn, fWb_packW e.code.isLt hfn, fWc_packW e.code.isLt hfn⟩ _ _
/-- A bit of a packed word that is 1 where a flag is set reads as the flag. -/
theorem decide_field_ofNat {m lo : Nat} {flag : Bool} (hlo : lo + 1 ≤ 32) (h : m / 2 ^ lo % 2 = if flag then 1 else 0) :
    decide (field (BitVec.ofNat 32 m) lo 1 = 1) = flag := by
  rw [field_ofNat (v := if flag then 1 else 0) hlo (by cases flag <;> simpa using h)]
  cases flag <;> decide
theorem decodeWdot_packW {l : DotLane} {sat : Bool} {p : Pairing}
    (hw : packW op d a b c 0 l.code.toNat ((if sat then 8 else 0) + p.code) = w) :
    decodeWdot w = .ok (.wdot l sat p d a b c) := by
  have hp := p.code_lt
  have hfn : (if sat then 8 else 0) + p.code < 2 ^ 4 := by split <;> omega
  subst hw
  have hpair : (field (packW op d a b c 0 l.code.toNat ((if sat then 8 else 0) + p.code)) 0 3).toNat = p.code :=
    field_ofNat_toNat (by decide) (by split <;> omega)
  have hsat : decide (field (packW op d a b c 0 l.code.toNat ((if sat then 8 else 0) + p.code)) 3 1 = 1) = sat :=
    decide_field_ofNat (by decide) (by split <;> omega)
  rw [decodeWdot, fFmt_packW _ hfn, DotLane.ofCode_code, needSome_some, hpair, Pairing.ofCode_code, needSome_some, hsat,
    fWd_packW l.code.isLt hfn, fWa_packW l.code.isLt hfn, fWb_packW l.code.isLt hfn, fWc_packW l.code.isLt hfn]
  exact need_pos (fC_packW l.code.isLt hfn) _ _

end

/-! ### Words of WCVT (R242) -/

section
variable {w : IWord} {op : Nat} {toPivot : Bool} {pv : Pivot} {f : Fmt} {sat : Bool} {r : Rnd} {d a : WReg} {g : GReg}

/-- The function bits of WCVT: saturation, rounding, and the bit of the binary8 family. -/
def wcvtFn (f : Fmt) (sat : Bool) (r : Rnd) : Nat := (if sat then 8 else 0) + r.code * 2 + (if f.isBin8 then 1 else 0)
theorem wcvtFn_lt (f : Fmt) (sat : Bool) (r : Rnd) : wcvtFn f sat r < 2 ^ 4 := by
  have := r.code_lt
  unfold wcvtFn
  split <;> split <;> omega
/-- The word of WCVT, without scale, which leaves sg zero, and with it; the low bits of the major are the direction and the pivot. -/
theorem decodeWcvt_packW (hw : packW op d a 0 0 g f.code.toNat (wcvtFn f sat r) = w) (hdir : op / 4 % 2 = if toPivot then 1 else 0)
    (hpv : op % 4 = pv.code) {scaled : Bool} (hg : scaled = false → g = 0) :
    decodeWcvt w scaled = .ok (if scaled then .wcvtScaled toPivot pv f sat r d a g else .wcvt toPivot pv f sat r d a) := by
  have hr := r.code_lt
  have hfn := wcvtFn_lt f sat r
  have hfmt := f.code.isLt
  have hbin : decide (field w 0 1 = 1) = f.isBin8 := by
    subst hw
    exact decide_field_ofNat (by decide) (by unfold wcvtFn; split <;> split <;> omega)
  have hdir : decide (field w 27 1 = 1) = toPivot := by
    subst hw
    exact decide_field_ofNat (by decide) (by omega)
  have hpivot : (field w 25 2).toNat = pv.code := by
    subst hw
    exact field_ofNat_toNat (by decide) (by omega)
  have hsat : decide (field w 3 1 = 1) = sat := by
    subst hw
    exact decide_field_ofNat (by decide) (by unfold wcvtFn; split <;> split <;> omega)
  have hround : (field w 1 2).toNat = r.code := by
    subst hw
    exact field_ofNat_toNat (by decide) (by unfold wcvtFn; split <;> split <;> omega)
  rw [decodeWcvt, hbin, hdir, hpivot, hsat, hround, ← hw, fFmt_packW _ hfn, Fmt.ofCode_code, Pivot.ofCode_code,
    Rnd.ofCode_code, fWd_packW hfmt hfn, fWa_packW hfmt hfn, fC_packW hfmt hfn, needSome_some,
    need_pos ⟨fWb_packW hfmt hfn, fWc_packW hfmt hfn⟩]
  cases scaled with
  | true => rfl
  | false => exact need_pos (hg rfl) _ _

end

/-! ### Words of streams, hires, pallets, engines and the system -/

section
variable {w : IWord} {op fn : Nat} {d a b c : GReg} {z g : Fin 16}

theorem zMem_packZ {f : ZReg → GReg → BitVec 11 → Instr} {i : BitVec 11} (hw : packZ op z g 0 i.toNat = w) :
    zMem w f = .ok (f z g i) := by
  have hzero : fZf w = 0 := BitVec.eq_of_toNat_eq (fZf_packZ hw (by decide) i.isLt)
  rw [zMem, need_pos hzero, ← hw, fD_packZ (by decide) i.isLt, fA_packZ (by decide) i.isLt, fI11_packZ]
theorem zWord_packZ {f : ZReg → GReg → BitVec 3 → Instr} {k : BitVec 3} (hw : packZ op z g k.toNat 0 = w) :
    zWord w f = .ok (f z g k) := by
  subst hw
  have hk : field (packZ op z g k.toNat 0) 11 3 = k := field_ofNat (by decide) (by omega)
  rw [zWord, fD_packZ (by omega) (by decide), fA_packZ (by omega) (by decide), hk]
  exact need_pos ⟨field_ofNat (by decide) (by simp; omega), fI11_packZ_zero⟩ _ _
theorem decodeSbind_packZ {p : Fin 3} (hw : packZ op z 0 p.val 0 = w) : decodeSbind w = .ok (.sbind z p) := by
  have hzero : fA w = 0 ∧ fI11 w = 0 := by
    subst hw
    exact ⟨fA_packZ (by omega) (by decide), fI11_packZ_zero⟩
  have hz : fD w = z := by
    subst hw
    exact fD_packZ (by omega) (by decide)
  rw [decodeSbind, need_pos hzero, fZf_packZ hw (by omega) (by decide), hz]
  clear hw
  fin_cases p <;> rfl
theorem decodeHire_packH {l : BitVec 3} (hw : packH op z g 0 l.toNat = w) : decodeHire w = .ok (.hire z g l) := by
  subst hw
  rw [decodeHire, fD_packH (by decide) l.isLt, fA_packH (by decide) l.isLt, fLane_packH]
  exact need_pos ⟨fTrain_packH 0 l.isLt, fI11_packH⟩ _ _
theorem decodeHiret_packH {n l : BitVec 3} (hw : packH op z g n.toNat l.toNat = w) (h : g.val + n.toNat ≤ 15) :
    decodeHiret w = .ok (.hiret z g n l) := by
  subst hw
  rw [decodeHiret, fD_packH n.isLt l.isLt, fA_packH n.isLt l.isLt, fLane_packH, fTrain_packH _ l.isLt, need_pos h]
  exact need_pos fI11_packH _ _
/-- The function of a pallet word. -/
theorem palletFn_packA {o : Nat} (hw : packA op d a b c fn = w) (ho : fn / 2 ^ 5 = o) (hlt : o < 16) : (field w 5 4).toNat = o := by
  subst hw
  exact field_ofNat_toNat (by decide) (by omega)
/-- The function of a word of PWR or PRD, which also names a region and a w register. -/
theorem palletFn_line {o : Nat} {r : BitVec 2} {v : WReg} (hw : packA op d a b c (o * 2 ^ 5 + r.toNat * 2 ^ 3 + v.val) = w)
    (hlt : o < 16) : (field w 5 4).toNat = o := palletFn_packA hw (by omega) hlt
theorem plseWord_packA (hw : packA op d a 0 0 0 = w) :
    need (fB w = 0 ∧ fC w = 0 ∧ field w 0 5 = 0) .nonzeroField (.ok (.plse (fD w) (fA w))) = .ok (.plse d a) := by
  subst hw
  rw [fD_packA (by decide), fA_packA (by decide)]
  exact need_pos ⟨fB_packA (by decide), fC_packA (by decide), field_ofNat (by decide) (by simp; omega)⟩ _ _
theorem pcfgWord_packA {r : BitVec 2} (hw : packA op 0 a b 0 (2 ^ 5 + r.toNat * 2 ^ 3) = w) :
    need (fD w = 0 ∧ fC w = 0 ∧ field w 0 3 = 0) .nonzeroField (.ok (.pcfg (fA w) (fB w) (field w 3 2))) = .ok (.pcfg a b r) := by
  have hfn : 2 ^ 5 + r.toNat * 2 ^ 3 < 2 ^ 9 := by omega
  subst hw
  have hr : field (packA op 0 a b 0 (2 ^ 5 + r.toNat * 2 ^ 3)) 3 2 = r := field_ofNat (by decide) (by omega)
  rw [fA_packA hfn, fB_packA hfn, hr]
  exact need_pos ⟨fD_packA hfn, fC_packA hfn, field_ofNat (by decide) (by simp; omega)⟩ _ _
theorem pcpyWord_packA {p q : BitVec 2} (hw : packA op 0 a b 0 (6 * 2 ^ 5 + p.toNat * 2 ^ 3 + q.toNat) = w) :
    need (fD w = 0 ∧ fC w = 0 ∧ field w 2 1 = 0) .nonzeroField (.ok (.pcpy (fA w) (fB w) (field w 3 2) (field w 0 2))) =
      .ok (.pcpy a b p q) := by
  have hfn : 6 * 2 ^ 5 + p.toNat * 2 ^ 3 + q.toNat < 2 ^ 9 := by omega
  subst hw
  have hp : field (packA op 0 a b 0 (6 * 2 ^ 5 + p.toNat * 2 ^ 3 + q.toNat)) 3 2 = p := field_ofNat (by decide) (by omega)
  have hq : field (packA op 0 a b 0 (6 * 2 ^ 5 + p.toNat * 2 ^ 3 + q.toNat)) 0 2 = q := field_ofNat (by decide) (by omega)
  rw [fA_packA hfn, fB_packA hfn, hp, hq]
  exact need_pos ⟨fD_packA hfn, fC_packA hfn, field_ofNat (by decide) (by simp; omega)⟩ _ _
theorem pfreeWord_packA (hw : packA op 0 a 0 0 (7 * 2 ^ 5) = w) :
    need (fD w = 0 ∧ fB w = 0 ∧ fC w = 0 ∧ field w 0 5 = 0) .nonzeroField (.ok (.pfree (fA w))) = .ok (.pfree a) := by
  subst hw
  rw [fA_packA (by decide)]
  exact need_pos ⟨fD_packA (by decide), fB_packA (by decide), fC_packA (by decide), field_ofNat (by decide) (by simp; omega)⟩ _ _
theorem palletLine_packA {f : GReg → GReg → BitVec 2 → WReg → Instr} {o : Nat} {r : BitVec 2} {v : WReg}
    (hw : packA op 0 a b 0 (o * 2 ^ 5 + r.toNat * 2 ^ 3 + v.val) = w) (ho : o < 16) : palletLine w f = .ok (f a b r v) := by
  have hfn : o * 2 ^ 5 + r.toNat * 2 ^ 3 + v.val < 2 ^ 9 := by omega
  subst hw
  have hr : field (packA op 0 a b 0 (o * 2 ^ 5 + r.toNat * 2 ^ 3 + v.val)) 3 2 = r := field_ofNat (by decide) (by omega)
  have hv : fieldW (packA op 0 a b 0 (o * 2 ^ 5 + r.toNat * 2 ^ 3 + v.val)) 0 = v := fieldW_ofNat (by decide) (by omega)
  rw [palletLine, fA_packA hfn, fB_packA hfn, hr, hv]
  exact need_pos ⟨fD_packA hfn, fC_packA hfn⟩ _ _
/-- The function of an engine command. -/
theorem engineFn_packA {o : Nat} (hw : packA op d a b c (o * 2 ^ 6) = w) (ho : o < 8) : (field w 6 3).toNat = o := by
  subst hw
  exact field_ofNat_toNat (by decide) (by omega)
theorem engineWord_packA {f : GReg → GReg → GReg → GReg → Instr} {o : Nat} (hw : packA op d a b c (o * 2 ^ 6) = w) (ho : o < 8) :
    engineWord w f = .ok (f d a b c) := by
  have hlow : field w 0 6 = 0 := by
    subst hw
    exact field_ofNat (by decide) (by simp; omega)
  exact (need_pos hlow _ _).trans (ok_packA hw (by omega))
theorem noReg_packS {j : Instr} (hw : packS 0 0 fn = w) (hfn : fn < 2 ^ 9) : noReg w j = .ok j := by
  subst hw
  exact need_pos (field_ofNat (by decide) (by simp; omega)) _ _

/-- The words of CRD and CWR, of a control register. -/
theorem cregWord_packS {f : GReg → CReg → Instr} {c : CReg} (hw : packS d c.code.toNat fn = w) (hfn : fn < 2 ^ 9) :
    needSome (CReg.ofCode (fCreg w)) .unassignedRegister (fun c => .ok (f (fD w) c)) = .ok (f d c) := by
  subst hw
  rw [fCreg_packS _ hfn, CReg.ofCode_code, needSome_some, fD_packS c.code.isLt hfn]
/-- The words of TRAP and BKPT, of a number in the place of creg. -/
theorem numberWord_packS {f : BitVec 12 → Instr} {n : BitVec 12} (hw : packS 0 n.toNat fn = w) (hfn : fn < 2 ^ 9) :
    need (fD w = 0) .nonzeroField (.ok (f (fCreg w))) = .ok (f n) := by
  subst hw
  rw [fCreg_packS _ hfn]
  exact need_pos (fD_packS n.isLt hfn) _ _
/-- The words of SAVE and RESTORE, of a register in dst. -/
theorem registerWord_packS {f : GReg → Instr} (hw : packS d 0 fn = w) (hfn : fn < 2 ^ 9) :
    need (fCreg w = 0) .nonzeroField (.ok (f (fD w))) = .ok (f d) := by
  subst hw
  rw [fD_packS (by decide) hfn]
  exact need_pos (fCreg_packS 0 hfn) _ _
theorem hlocWord_packS (hw : packS d a.val fn = w) (hfn : fn < 2 ^ 9) :
    need (field w 13 8 = 0) .nonzeroField (.ok (.hloc (fD w) (fC w))) = .ok (.hloc d a) := by
  subst hw
  have ha : fC (packS d a.val fn) = a := fieldG_ofNat (by decide) (by omega)
  rw [fD_packS (by omega) hfn, ha]
  exact need_pos (field_ofNat (by decide) (by simp; omega)) _ _

end

end Sys2Proof
end

section
/-!
SUPPORT. Decoding undoes encoding: the split over the instructions, by the kind of their words.
-/
namespace Sys2Proof

section
variable {w : IWord}

/-- The majors 0x48 to 0x4F are WCVT without scale. -/
theorem decode_wcvt (h : (fMajor w).toNat / 8 = 9) : decode w = decodeWcvt w false := by
  have hop : (fMajor w).toNat = 0x48 ∨ (fMajor w).toNat = 0x49 ∨ (fMajor w).toNat = 0x4A ∨ (fMajor w).toNat = 0x4B ∨
      (fMajor w).toNat = 0x4C ∨ (fMajor w).toNat = 0x4D ∨ (fMajor w).toNat = 0x4E ∨ (fMajor w).toNat = 0x4F := by omega
  rcases hop with h | h | h | h | h | h | h | h <;> rw [decode, h] <;> rfl
/-- The majors 0x50 to 0x57 are WCVT with scale. -/
theorem decode_wcvtScaled (h : (fMajor w).toNat / 8 = 10) : decode w = decodeWcvt w true := by
  have hop : (fMajor w).toNat = 0x50 ∨ (fMajor w).toNat = 0x51 ∨ (fMajor w).toNat = 0x52 ∨ (fMajor w).toNat = 0x53 ∨
      (fMajor w).toNat = 0x54 ∨ (fMajor w).toNat = 0x55 ∨ (fMajor w).toNat = 0x56 ∨ (fMajor w).toNat = 0x57 := by omega
  rcases hop with h | h | h | h | h | h | h | h <;> rw [decode, h] <;> rfl
theorem decode_scalar (h : (fMajor w).toNat = 0x01) : decode w = decodeScalar w := by rw [decode, h]; rfl
theorem decode_sync (h : (fMajor w).toNat = 0x3C) : decode w = decodeSync w := by rw [decode, h]; rfl
theorem decode_wideAlu (h : (fMajor w).toNat = 0x40) : decode w = decodeWideAlu w := by rw [decode, h]; rfl
theorem decode_wideFma (h : (fMajor w).toNat = 0x41) : decode w = decodeWideFma w := by rw [decode, h]; rfl
theorem decode_wideCmp (h : (fMajor w).toNat = 0x42) : decode w = decodeWideCmp w := by rw [decode, h]; rfl
theorem decode_wideMove (h : (fMajor w).toNat = 0x43) : decode w = decodeWideMove w := by rw [decode, h]; rfl
theorem decode_wideFun (h : (fMajor w).toNat = 0x44) : decode w = decodeWideFun w := by rw [decode, h]; rfl
theorem decode_wideRed (h : (fMajor w).toNat = 0x46) : decode w = decodeWideRed w := by rw [decode, h]; rfl
theorem decode_pallet (h : (fMajor w).toNat = 0x62) : decode w = decodePallet w := by rw [decode, h]; rfl
theorem decode_engine (h : (fMajor w).toNat = 0x63) : decode w = decodeEngine w := by rw [decode, h]; rfl
theorem decode_system (h : (fMajor w).toNat = 0x70) : decode w = decodeSystem w := by rw [decode, h]; rfl

/-- CWR decodes by the control register that it names, of which six have instructions of their own. -/
theorem decode_packS_cwr {g : GReg} {c : CReg} (hw : packS g c.code.toNat 0x002 = w) : decode w = .ok (cwrOf g c) := by
  rw [decode_system (fMajor_packS hw c.code.isLt (by decide)), decodeSystem, fFn_packS hw (by decide)]
  exact cregWord_packS hw (by decide)
theorem cwrOf_plain {g : GReg} {c : CReg} (h : (!c.hasOwnRow) = true) : cwrOf g c = .cwr g c := by
  cases c
  case xvec | xframe | spaceid | bwphase | bankmap | sinv => cases h
  all_goals rfl

end

/-- Decoding the word of an instruction that the spec admits gives the instruction back: the major and, where it has several, the function of the word select the decoder of the word's kind, which reads back what was packed. -/
theorem decode_of_encode {i : Instr} {w : IWord} (hwf : wellFormed i = true) (henc : encode i = some w) : decode w = .ok i := by
  cases i <;> injection henc <;> rename_i hw
  -- Scalar words, major 0x01 (Table 10.12).
  case add | sub | and | or | xor | andn | shl | shr | sra | rol | mul | mulhI64 | mulhN64 | divI64 | divN64 | remI64 | remN64 |
      minI64 | minN64 | maxI64 | maxN64 | ceq | cne | cltI64 | cltN64 | cleI64 | cleN64 =>
    rw [decode_scalar (fMajor_packA hw (by decide) (by decide)), decodeScalar, fFn_packA hw (by decide)]
    exact threeReg_packA hw (by decide)
  case clz | ctz | popc | mov =>
    rw [decode_scalar (fMajor_packA hw (by decide) (by decide)), decodeScalar, fFn_packA hw (by decide)]
    exact twoReg_packA hw (by decide)
  case sel =>
    rw [decode_scalar (fMajor_packA hw (by decide) (by decide)), decodeScalar, fFn_packA hw (by decide)]
    exact ok_packA hw (by decide)
  -- Immediates, branches and jumps, majors 0x08 to 0x1F (R237).
  case addImm | andImm | orImm | xorImm | beq | bne | bltI64 | bgeI64 | bltN64 | bgeN64 | jalr =>
    rw [decode, fMajor_packI hw (by decide) (by omega)]
    exact ok_packI hw
  case movImm =>
    rw [decode, fMajor_packI hw (by decide) (by omega)]
    exact movImmWord_packI hw
  case shlImm | shrImm | sraImm =>
    rw [decode, fMajor_packI hw (by decide) (by omega)]
    exact shiftImm_packI hw
  case lui =>
    rw [decode, fMajor_packI hw (by decide) (by omega)]
    exact decodeLui_packI hw
  case extN64 | extI64 | ins =>
    rw [decode, fMajor_packI hw (by decide) (by omega)]
    exact fieldImm_packI hw (of_decide_eq_true hwf)
  case rpt =>
    rw [decode, fMajor_packJ hw (by decide) (by omega) (by omega)]
    exact decodeRpt_packJ hw
  case jal =>
    rw [decode, fMajor_packJ hw (by decide) (by omega) (by omega)]
    exact ok_packJ hw
  -- Memory and rings, majors 0x20 to 0x38 (Table 10.13).
  case ld =>
    rw [decode, fMajor_packM hw (by decide) (by omega) (by omega)]
    exact decodeLd_packM hw (of_decide_eq_true hwf)
  case st =>
    rw [decode, fMajor_packM hw (by decide) (by omega) (by omega)]
    exact decodeSt_packM hw (of_decide_eq_true hwf)
  case stImm =>
    rw [decode, fMajor_packM hw (by decide) (by omega) (by omega)]
    exact decodeStImm_packM hw
  case ldr | ldff | ldfe | stef | stff | lrw | scw | wrel | wacq | rbrd | ralt | radd =>
    rw [decode, fMajor_packM hw (by decide) (by omega) (by decide)]
    exact oneMode_packM hw (by decide)
  case stefImm | stffImm | rputImm =>
    rw [decode, fMajor_packM hw (by decide) (by omega) (by decide)]
    exact oneModeImm_packM hw (by decide)
  case rcap | rput =>
    rw [decode, fMajor_packM hw (by decide) (by omega) (by omega)]
    exact ringWord_packM hw (of_decide_eq_true hwf)
  case rwait =>
    rw [decode, fMajor_packM hw (by decide) (by omega) (by omega)]
    exact decodeRwait_packM hw
  case migr =>
    rw [decode, fMajor_packM hw (by decide) (by decide) (by decide)]
    exact decodeMigr_packM hw
  case prefHbm =>
    rw [decode, fMajor_packM hw (by decide) (by omega) (by decide)]
    exact decodePref_packM (hbm := true) hw
  case prefWake =>
    rw [decode, fMajor_packM hw (by decide) (by omega) (by decide)]
    exact decodePref_packM (hbm := false) hw
  case iter =>
    rw [decode, fMajor_packM hw (by decide) (by decide) (by decide)]
    exact decodeIter_packM (ring := false) hw
  case iterRing =>
    rw [decode, fMajor_packM hw (by decide) (by decide) (by decide)]
    exact decodeIter_packM (ring := true) hw
  case nest =>
    rw [decode, fMajor_packM hw (by decide) (by omega) (by decide)]
    exact decodeNest_packM (ring := false) hw (of_decide_eq_true hwf)
  case nestRing =>
    rw [decode, fMajor_packM hw (by decide) (by omega) (by decide)]
    exact decodeNest_packM (ring := true) hw (of_decide_eq_true hwf)
  -- Atomics, synchronisation and barriers, majors 0x3A to 0x3F (R239, Table 10.14).
  case amo o z d a b c =>
    have ho := o.code_lt
    have hz := z.code_lt
    rw [decode, fMajor_packA hw (by decide) (by omega)]
    exact decodeAmo_packA hw (of_decide_eq_true hwf)
  case rupd o z a b =>
    have ho := o.code_lt
    have hz := z.code_lt
    rw [decode, fMajor_packA hw (by decide) (by omega)]
    exact decodeRupd_packA hw
  case fenceDie | fencePkg | fenceSys | rsync | quit =>
    rw [decode_sync (fMajor_packA hw (by decide) (by decide)), decodeSync, fFn_packA hw (by decide)]
    exact noReg_packA hw (by decide)
  case mqdq =>
    rw [decode_sync (fMajor_packA hw (by decide) (by decide)), decodeSync, fFn_packA hw (by decide)]
    exact mqdqWord_packA hw (by decide)
  case spawn =>
    rw [decode_sync (fMajor_packA hw (by decide) (by decide)), decodeSync, fFn_packA hw (by decide)]
    exact spawnWord_packA hw (by decide) (of_decide_eq_true hwf)
  case binit | barr =>
    rw [decode, fMajor_packI hw (by decide) (by omega)]
    exact barrierImm_packI hw
  case bwait =>
    rw [decode, fMajor_packI hw (by decide) (by omega)]
    exact bwaitWord_packI hw
  -- Wide words, majors 0x40 to 0x57 (R240 to R242, Table 10.15).
  case wadd | wsub | wmul | wmin | wmax | wand | wor | wxor | wshl | wshr | wsra | waddSat | wsubSat =>
    rw [decode_wideAlu (fMajor_packW hw (by decide) (by omega) (by decide)), decodeWideAlu, fWfn_packW hw (by decide)]
    exact wideThree_packW hw hwf (by decide)
  case wabs =>
    rw [decode_wideAlu (fMajor_packW hw (by decide) (by omega) (by decide)), decodeWideAlu, fWfn_packW hw (by decide)]
    exact wideTwo_packW hw hwf (by decide)
  case wfma | wfms | wfnma | wfnms =>
    rw [decode_wideFma (fMajor_packW hw (by decide) (by omega) (by decide)), decodeWideFma, fWfn_packW hw (by decide)]
    exact wideFour_packW hw hwf (by decide)
  case wceq | wcne | wclt | wcle =>
    rw [decode_wideCmp (fMajor_packW hw (by decide) (by omega) (by decide)), decodeWideCmp, fWfn_packW hw (by decide)]
    exact wideThree_packW hw hwf (by decide)
  case wsel =>
    rw [decode_wideCmp (fMajor_packW hw (by decide) (by omega) (by decide)), decodeWideCmp, fWfn_packW hw (by decide)]
    exact wideFour_packW hw hwf (by decide)
  case wperm =>
    rw [decode_wideMove (fMajor_packW hw (by decide) (by omega) (by decide)), decodeWideMove, fWfn_packW hw (by decide)]
    exact wideThree_packW hw hwf (by decide)
  case wbcst =>
    rw [decode_wideMove (fMajor_packW hw (by decide) (by omega) (by decide)), decodeWideMove, fWfn_packW hw (by decide)]
    exact decodeWbcst_packW hw (by decide)
  case wmov =>
    rw [decode_wideMove (fMajor_packW hw (by decide) (by omega) (by decide)), decodeWideMove, fWfn_packW hw (by decide)]
    exact wideTwo_packW hw hwf (by decide)
  case wsig | wexp | wrcp | wrsq | wtanh | wlog =>
    rw [decode_wideFun (fMajor_packW hw (by decide) (by omega) (by decide)), decodeWideFun, fWfn_packW hw (by decide)]
    exact wideTwo_packW hw hwf (by decide)
  case wdot f sat p d a b c =>
    have hp := p.code_lt
    rw [decode, fMajor_packW hw (by decide) (by omega) (by split <;> omega)]
    exact decodeWdot_packW hw
  case wredSum | wredMin | wredMax =>
    rw [decode_wideRed (fMajor_packW hw (by decide) (by omega) (by decide)), decodeWideRed, fWfn_packW hw (by decide)]
    exact wideRed_packW hw (by decide)
  case wcvt toPivot pv f sat r d a =>
    have hpv := pv.code_lt
    have hop := fMajor_packW hw (by split <;> omega) (by omega) (wcvtFn_lt f sat r)
    rw [decode_wcvt (by rw [hop]; split <;> omega)]
    exact decodeWcvt_packW (scaled := false) hw (by split <;> omega) (by split <;> omega) fun _ => rfl
  case wcvtScaled toPivot pv f sat r d a g =>
    have hpv := pv.code_lt
    have hop := fMajor_packW hw (by split <;> omega) (by omega) (wcvtFn_lt f sat r)
    rw [decode_wcvtScaled (by rw [hop]; split <;> omega)]
    exact decodeWcvt_packW (scaled := true) hw (by split <;> omega) (by split <;> omega) nofun
  -- Streams and hires, majors 0x58 to 0x61 (Table 10.16).
  case zld | zst =>
    rw [decode, fMajor_packZ hw (by decide) (by decide) (by omega)]
    exact zMem_packZ hw
  case zset | zget =>
    rw [decode, fMajor_packZ hw (by decide) (by omega) (by decide)]
    exact zWord_packZ hw
  case sbind =>
    rw [decode, fMajor_packZ hw (by decide) (by omega) (by decide)]
    exact decodeSbind_packZ hw
  case hire =>
    rw [decode, fMajor_packH hw (by decide) (by decide) (by omega)]
    exact decodeHire_packH hw
  case hiret =>
    rw [decode, fMajor_packH hw (by decide) (by omega) (by omega)]
    exact decodeHiret_packH hw (of_decide_eq_true hwf)
  -- Pallets and engines, majors 0x62 and 0x63 (Table 10.17).
  case plse =>
    rw [decode_pallet (fMajor_packA hw (by decide) (by decide)), decodePallet, palletFn_packA (o := 0) hw (by decide) (by decide)]
    exact plseWord_packA hw
  case pcfg =>
    rw [decode_pallet (fMajor_packA hw (by decide) (by omega)), decodePallet, palletFn_packA (o := 1) hw (by omega) (by decide)]
    exact pcfgWord_packA hw
  case pwrR | pwrC | prdR | prdC =>
    rw [decode_pallet (fMajor_packA hw (by decide) (by omega)), decodePallet, palletFn_line hw (by decide)]
    exact palletLine_packA hw (by decide)
  case pcpy =>
    rw [decode_pallet (fMajor_packA hw (by decide) (by omega)), decodePallet, palletFn_packA (o := 6) hw (by omega) (by decide)]
    exact pcpyWord_packA hw
  case pfree =>
    rw [decode_pallet (fMajor_packA hw (by decide) (by decide)), decodePallet, palletFn_packA (o := 7) hw (by decide) (by decide)]
    exact pfreeWord_packA hw
  case cpy | gath | scat | coll =>
    rw [decode_engine (fMajor_packA hw (by decide) (by decide)), decodeEngine, engineFn_packA hw (by decide)]
    exact engineWord_packA hw (by decide)
  -- The system, major 0x70 (Table 10.18).
  case crd =>
    rw [decode_system (fMajor_packS hw (by omega) (by decide)), decodeSystem, fFn_packS hw (by decide)]
    exact cregWord_packS hw (by decide)
  case cwr => exact (decode_packS_cwr hw).trans (congrArg Except.ok (cwrOf_plain hwf))
  case cwrXvec => exact decode_packS_cwr (c := .xvec) hw
  case cwrXframe => exact decode_packS_cwr (c := .xframe) hw
  case cwrSpaceid => exact decode_packS_cwr (c := .spaceid) hw
  case cwrBwphase => exact decode_packS_cwr (c := .bwphase) hw
  case cwrBankmap => exact decode_packS_cwr (c := .bankmap) hw
  case cwrSinv => exact decode_packS_cwr (c := .sinv) hw
  case trap | bkpt =>
    rw [decode_system (fMajor_packS hw (by omega) (by decide)), decodeSystem, fFn_packS hw (by decide)]
    exact numberWord_packS hw (by decide)
  case xret | halt =>
    rw [decode_system (fMajor_packS hw (by decide) (by decide)), decodeSystem, fFn_packS hw (by decide)]
    exact noReg_packS hw (by decide)
  case save | restore =>
    rw [decode_system (fMajor_packS hw (by decide) (by decide)), decodeSystem, fFn_packS hw (by decide)]
    exact registerWord_packS hw (by decide)
  case hloc =>
    rw [decode_system (fMajor_packS hw (by omega) (by decide)), decodeSystem, fFn_packS hw (by decide)]
    exact hlocWord_packS hw (by decide)

/-- Settles O1: `decode_of_encode`. -/
theorem decodeInvertsEncode : Obligations.DecodeInvertsEncode := fun _ _ => decode_of_encode

end Sys2Proof
end

section
/-!
SUPPORT. A word that decodes is the word of its instruction: what each kind of word reads, packed, gives the word back; EncodeInvertsDecode is assembled from these.
-/
namespace Sys2Proof

/-- Whatever instruction the answer of the decoder is, its word is `w`, and the spec admits it. -/
def Decoded.readsBack (w : IWord) (d : Decoded) : Prop := ∀ i, d = .ok i → encode i = some w ∧ wellFormed i = true

section
variable {w : IWord} {op fn mode : Nat}

theorem readsBack_error (e : DecodeError) : Decoded.readsBack w (.error e) := fun _ h => nomatch h
theorem readsBack_ok {i : Instr} {v : IWord} (henc : encode i = some v) (hv : v = w) (hwf : wellFormed i = true) :
    Decoded.readsBack w (.ok i) := by
  rintro j ⟨⟩
  exact ⟨hv ▸ henc, hwf⟩
theorem readsBack_need {c : Prop} [Decidable c] {e : DecodeError} {k : Decoded} (h : c → k.readsBack w) :
    (need (decide c) e k).readsBack w := by
  by_cases hc : c
  · rw [need_pos hc]
    exact h hc
  · rw [decide_eq_false hc]
    exact readsBack_error e
theorem readsBack_needSome {α : Type} {o : Option α} {e : DecodeError} {k : α → Decoded} (h : ∀ a, o = some a → (k a).readsBack w) :
    (needSome o e k).readsBack w := by
  cases o with
  | none => exact readsBack_error e
  | some a => exact h a rfl

/-! ### Words of scalar instructions -/

theorem readsBack_threeReg {f : GReg → GReg → GReg → Instr} (hop : (fMajor w).toNat = op) (hfn : (fFn w).toNat = fn)
    (henc : ∀ d a b, encode (f d a b) = some (packA op d a b 0 fn)) (hwf : ∀ d a b, wellFormed (f d a b) = true) :
    (threeReg w f).readsBack w :=
  readsBack_need fun hc => readsBack_ok (henc _ _ _) (packA_eq hop rfl rfl rfl hc hfn) (hwf _ _ _)
theorem readsBack_twoReg {f : GReg → GReg → Instr} (hop : (fMajor w).toNat = op) (hfn : (fFn w).toNat = fn)
    (henc : ∀ d a, encode (f d a) = some (packA op d a 0 0 fn)) (hwf : ∀ d a, wellFormed (f d a) = true) :
    (twoReg w f).readsBack w :=
  readsBack_need fun ⟨hb, hc⟩ => readsBack_ok (henc _ _) (packA_eq hop rfl rfl hb hc hfn) (hwf _ _)
theorem readsBack_decodeScalar (hop : (fMajor w).toNat = 0x01) : (decodeScalar w).readsBack w := by
  unfold decodeScalar
  split
  case h_22 hfn | h_23 hfn | h_24 hfn | h_25 hfn => exact readsBack_twoReg hop hfn (fun _ _ => rfl) fun _ _ => rfl
  case h_32 hfn => exact readsBack_ok rfl (packA_eq hop rfl rfl rfl rfl hfn) rfl
  case h_33 => exact readsBack_error _
  all_goals
    rename_i hfn
    exact readsBack_threeReg hop hfn (fun _ _ _ => rfl) fun _ _ _ => rfl
theorem readsBack_okI {f : GReg → GReg → BitVec 17 → Instr} (hop : (fMajor w).toNat = op)
    (henc : ∀ d a i, encode (f d a i) = some (packI op d a i.toNat)) (hwf : ∀ d a i, wellFormed (f d a i) = true) :
    Decoded.readsBack w (.ok (f (fD w) (fA w) (fI17 w))) := readsBack_ok (henc _ _ _) (packI_eq hop rfl rfl rfl) (hwf _ _ _)
theorem readsBack_shiftImm {f : GReg → GReg → BitVec 6 → Instr} (hop : (fMajor w).toNat = op)
    (henc : ∀ d a n, encode (f d a n) = some (packI op d a n.toNat)) (hwf : ∀ d a n, wellFormed (f d a n) = true) :
    (shiftImm w f).readsBack w := by
  refine readsBack_need fun hhigh => readsBack_ok (henc _ _ _) (packI_eq hop rfl rfl ?_) (hwf _ _ _)
  rw [field_eq_zero] at hhigh
  simp only [fI17, field_toNat]
  omega
theorem readsBack_fieldImm {f : GReg → GReg → BitVec 6 → BitVec 6 → Instr} (hop : (fMajor w).toNat = op)
    (henc : ∀ d a n p, encode (f d a n p) = some (packI op d a (n.toNat * 2 ^ 6 + p.toNat)))
    (hwf : ∀ d a n p, p.toNat + n.toNat + 1 ≤ 64 → wellFormed (f d a n p) = true) : (fieldImm w f).readsBack w := by
  refine readsBack_need fun hhigh => readsBack_need fun hwidth => readsBack_ok (henc _ _ _ _) (packI_eq hop rfl rfl ?_)
    (hwf _ _ _ _ hwidth)
  rw [field_eq_zero] at hhigh
  simp only [fI17, field_toNat]
  omega
theorem readsBack_decodeLui (hop : (fMajor w).toNat = 0x0F) : (decodeLui w).readsBack w := by
  refine readsBack_need fun ⟨hhigh, htop⟩ => readsBack_ok rfl (packI_eq hop rfl (Fin.ext ?_) ?_) rfl
  all_goals
    rw [field_eq_zero] at hhigh htop
    simp only [fA, fieldG_val, fI17, field_toNat, Fin.val_ofNat]
    omega
theorem readsBack_decodeRpt (hop : (fMajor w).toNat = 0x17) : (decodeRpt w).readsBack w := by
  refine readsBack_need fun hlow => readsBack_ok rfl (packJ_eq hop rfl ?_) rfl
  rw [field_eq_zero] at hlow
  simp only [fO21, field_toNat]
  omega
/-- The low seven bits of imm17 are all of it where the others are zero. -/
theorem fI17_of_high_zero (h : field w 7 10 = 0) : (fI17 w).toNat = (field w 0 7).toNat := by
  rw [field_eq_zero] at h
  simp only [fI17, field_toNat]
  omega
theorem readsBack_barrierImm {f : GReg → BitVec 7 → Instr} (hop : (fMajor w).toNat = op)
    (henc : ∀ a n, encode (f a n) = some (packI op 0 a n.toNat)) (hwf : ∀ a n, wellFormed (f a n) = true) :
    (barrierImm w f).readsBack w :=
  readsBack_need fun ⟨hd, hhigh⟩ => readsBack_ok (henc _ _) (packI_eq hop hd rfl (fI17_of_high_zero hhigh)) (hwf _ _)

/-! ### Words of memory, rings and barriers -/

theorem readsBack_okM {f : GReg → GReg → BitVec 14 → Instr} (hop : (fMajor w).toNat = op) (hmode : (fMode w).toNat = mode)
    (henc : ∀ r b i, encode (f r b i) = some (packM op r.val b mode i)) (hwf : wellFormed (f (fD w) (fA w) (fI14 w)) = true) :
    Decoded.readsBack w (.ok (f (fD w) (fA w) (fI14 w))) := readsBack_ok (henc _ _ _) (packM_eq hop rfl rfl hmode rfl) hwf
theorem readsBack_oneMode {f : GReg → GReg → BitVec 14 → Instr} (hop : (fMajor w).toNat = op)
    (henc : ∀ r b i, encode (f r b i) = some (packM op r.val b mode i)) (hwf : ∀ r b i, wellFormed (f r b i) = true) :
    (oneMode w mode f).readsBack w := readsBack_need fun hmode => readsBack_okM hop hmode henc (hwf _ _ _)
theorem readsBack_oneModeImm {f : BitVec 4 → GReg → BitVec 14 → Instr} (hop : (fMajor w).toNat = op)
    (henc : ∀ v b i, encode (f v b i) = some (packM op v.toNat b mode i)) (hwf : ∀ v b i, wellFormed (f v b i) = true) :
    (oneModeImm w mode f).readsBack w :=
  readsBack_need fun hmode => readsBack_ok (henc _ _ _) (packM_eq hop rfl rfl hmode rfl) (hwf _ _ _)
theorem readsBack_noRegM {f : GReg → BitVec 14 → Instr} (hop : (fMajor w).toNat = op) (hmode : (fMode w).toNat = mode)
    (henc : ∀ b i, encode (f b i) = some (packM op 0 b mode i)) (hwf : ∀ b i, wellFormed (f b i) = true) :
    (need (fD w = 0) .nonzeroField (.ok (f (fA w) (fI14 w)))).readsBack w :=
  readsBack_need fun hd => readsBack_ok (henc _ _) (packM_eq hop (congrArg Fin.val hd) rfl hmode rfl) (hwf _ _)
theorem readsBack_decodeLd (hop : (fMajor w).toNat = 0x20) : (decodeLd w).readsBack w :=
  readsBack_need fun hreg => readsBack_ok rfl
    (packM_eq hop rfl rfl (congrArg BitVec.toNat (LdMode.code_ofCode (fMode w)).symm) rfl) (decide_eq_true hreg)
theorem readsBack_decodeSt (hop : (fMajor w).toNat = 0x21) : (decodeSt w).readsBack w :=
  readsBack_needSome fun _ hm => readsBack_need fun hreg => readsBack_ok rfl
    (packM_eq hop rfl rfl (congrArg BitVec.toNat (StMode.code_of_ofCode hm).symm) rfl) (decide_eq_true hreg)
theorem readsBack_decodeStImm (hop : (fMajor w).toNat = 0x22) : (decodeStImm w).readsBack w :=
  readsBack_needSome fun _ hm => readsBack_ok rfl
    (packM_eq hop rfl rfl (congrArg BitVec.toNat (StiMode.code_of_ofCode hm).symm) rfl) rfl
theorem readsBack_ringWord {f : RingForm → GReg → GReg → BitVec 14 → Instr} (hop : (fMajor w).toNat = op)
    (henc : ∀ m r b i, encode (f m r b i) = some (packM op r.val b m.code.toNat i))
    (hwf : ∀ m r b i, m ≠ .line ∨ r.val < 8 → wellFormed (f m r b i) = true) : (ringWord w f).readsBack w :=
  readsBack_needSome fun _ hm => readsBack_need fun hreg => readsBack_ok (henc _ _ _ _)
    (packM_eq hop rfl rfl (congrArg BitVec.toNat (RingForm.code_of_ofCode hm).symm) rfl) (hwf _ _ _ _ hreg)
theorem readsBack_decodeRwait (hop : (fMajor w).toNat = 0x36) : (decodeRwait w).readsBack w :=
  readsBack_needSome fun _ hm => readsBack_ok rfl
    (packM_eq hop rfl rfl (congrArg BitVec.toNat (RwCond.code_of_ofCode hm).symm) rfl) rfl
theorem readsBack_decodeMigr (hop : (fMajor w).toNat = 0x2C) : (decodeMigr w).readsBack w :=
  readsBack_need fun hmode => readsBack_noRegM hop hmode (fun _ _ => rfl) fun _ _ => rfl
theorem readsBack_decodePref (hop : (fMajor w).toNat = 0x2D) : (decodePref w).readsBack w := by
  unfold decodePref
  split
  case h_1 hmode | h_2 hmode => exact readsBack_okM hop hmode (fun _ _ _ => rfl) rfl
  case h_3 => exact readsBack_error _
theorem readsBack_decodeIter (hop : (fMajor w).toNat = 0x37) : (decodeIter w).readsBack w := by
  unfold decodeIter
  split
  case h_1 hmode | h_2 hmode => exact readsBack_noRegM hop hmode (fun _ _ => rfl) fun _ _ => rfl
  case h_3 => exact readsBack_error _
theorem readsBack_decodeNest (hop : (fMajor w).toNat = 0x38) : (decodeNest w).readsBack w := by
  unfold decodeNest
  split
  case h_1 hmode | h_2 hmode =>
    exact readsBack_need fun hreg => readsBack_okM hop hmode (fun _ _ _ => rfl) (decide_eq_true hreg)
  case h_3 => exact readsBack_error _
theorem AmoSize.code_ofCode_field (lo : Nat) : (AmoSize.ofCode (field w lo 1).toNat).code = (field w lo 1).toNat :=
  AmoSize.code_ofCode (field w lo 1).isLt
theorem readsBack_decodeAmo (hop : (fMajor w).toNat = 0x3A) : (decodeAmo w).readsBack w := by
  refine readsBack_needSome fun o ho => readsBack_need fun ⟨hlow, hcas⟩ => readsBack_ok rfl (packA_eq hop rfl rfl rfl rfl ?_)
    (decide_eq_true hcas)
  rw [field_eq_zero] at hlow
  rw [AmoOp.code_of_ofCode ho, AmoSize.code_ofCode_field]
  simp only [fFn, field_toNat]
  omega
theorem readsBack_decodeRupd (hop : (fMajor w).toNat = 0x3B) : (decodeRupd w).readsBack w := by
  refine readsBack_need fun htop => readsBack_need fun ⟨hd, hc, hlow⟩ => readsBack_ok rfl (packA_eq hop hd rfl rfl hc ?_) rfl
  rw [field_eq_zero] at htop hlow
  rw [RmwOp.code_ofCode (field w 5 3).isLt, AmoSize.code_ofCode_field]
  simp only [fFn, field_toNat]
  omega
/-- Bits [24:9] are the four register fields. -/
theorem registers_zero (h : field w 9 16 = 0) : fD w = 0 ∧ fA w = 0 ∧ fB w = 0 ∧ fC w = 0 := by
  rw [field_eq_zero] at h
  simp only [fD, fA, fB, fC, fieldG_eq_zero]
  omega
theorem readsBack_noReg {i : Instr} (hop : (fMajor w).toNat = op) (hfn : (fFn w).toNat = fn)
    (henc : encode i = some (packA op 0 0 0 0 fn)) (hwf : wellFormed i = true) : (noReg w i).readsBack w :=
  readsBack_need fun hzero =>
    have ⟨hd, ha, hb, hc⟩ := registers_zero hzero
    readsBack_ok henc (packA_eq hop hd ha hb hc hfn) hwf
theorem readsBack_decodeSync (hop : (fMajor w).toNat = 0x3C) : (decodeSync w).readsBack w := by
  unfold decodeSync
  split
  case h_5 hfn =>
    refine readsBack_need fun hzero => ?_
    rw [field_eq_zero] at hzero
    have hfields : fA w = 0 ∧ fB w = 0 ∧ fC w = 0 := by
      simp only [fA, fB, fC, fieldG_eq_zero]
      omega
    obtain ⟨ha, hb, hc⟩ := hfields
    exact readsBack_ok rfl (packA_eq hop rfl ha hb hc hfn) rfl
  case h_7 hfn =>
    exact readsBack_need fun hc => readsBack_need fun hreg =>
      readsBack_ok rfl (packA_eq hop rfl rfl rfl hc hfn) (decide_eq_true hreg)
  case h_8 => exact readsBack_error _
  all_goals
    rename_i hfn
    exact readsBack_noReg hop hfn rfl rfl

/-! ### Words of wide instructions -/

theorem readsBack_needElt {ok : Elt → Bool} {k : Elt → Decoded}
    (h : ∀ e, (fFmt w).toNat = e.code.toNat → ok e = true → (k e).readsBack w) : (needElt w ok k).readsBack w := by
  refine readsBack_needSome fun e he => ?_
  cases hok : ok e with
  | true => exact h e (congrArg BitVec.toNat (Elt.code_of_ofCode he).symm) hok
  | false => exact readsBack_error _
theorem readsBack_wideThree {ok : Elt → Bool} {f : Elt → WReg → WReg → WReg → Instr} (hop : (fMajor w).toNat = op)
    (hfn : (fWfn w).toNat = fn) (henc : ∀ e d a b, encode (f e d a b) = some (packW op d a b 0 0 e.code.toNat fn))
    (hwf : ∀ e d a b, ok e = true → wellFormed (f e d a b) = true) : (wideThree w ok f).readsBack w :=
  readsBack_needElt fun _ hfmt hok => readsBack_need fun ⟨hc, hg⟩ =>
    readsBack_ok (henc _ _ _ _) (packW_eq hop rfl rfl rfl hc hg hfmt hfn) (hwf _ _ _ _ hok)
theorem readsBack_wideTwo {ok : Elt → Bool} {f : Elt → WReg → WReg → Instr} (hop : (fMajor w).toNat = op)
    (hfn : (fWfn w).toNat = fn) (henc : ∀ e d a, encode (f e d a) = some (packW op d a 0 0 0 e.code.toNat fn))
    (hwf : ∀ e d a, ok e = true → wellFormed (f e d a) = true) : (wideTwo w ok f).readsBack w :=
  readsBack_needElt fun _ hfmt hok => readsBack_need fun ⟨hb, hc, hg⟩ =>
    readsBack_ok (henc _ _ _) (packW_eq hop rfl rfl hb hc hg hfmt hfn) (hwf _ _ _ hok)
theorem readsBack_wideFour {ok : Elt → Bool} {f : Elt → WReg → WReg → WReg → WReg → Instr} (hop : (fMajor w).toNat = op)
    (hfn : (fWfn w).toNat = fn) (henc : ∀ e d a b c, encode (f e d a b c) = some (packW op d a b c 0 e.code.toNat fn))
    (hwf : ∀ e d a b c, ok e = true → wellFormed (f e d a b c) = true) : (wideFour w ok f).readsBack w :=
  readsBack_needElt fun _ hfmt hok => readsBack_need fun hg =>
    readsBack_ok (henc _ _ _ _ _) (packW_eq hop rfl rfl rfl rfl hg hfmt hfn) (hwf _ _ _ _ _ hok)
theorem readsBack_wideRed {f : Elt → GReg → WReg → Instr} (hop : (fMajor w).toNat = op) (hfn : (fWfn w).toNat = fn)
    (henc : ∀ e g a, encode (f e g a) = some (packW op 0 a 0 0 g e.code.toNat fn)) (hwf : ∀ e g a, wellFormed (f e g a) = true) :
    (wideRed w f).readsBack w :=
  readsBack_needElt fun _ hfmt _ => readsBack_need fun ⟨hd, hb, hc⟩ =>
    readsBack_ok (henc _ _ _) (packW_eq hop hd rfl hb hc rfl hfmt hfn) (hwf _ _ _)
theorem readsBack_decodeWbcst (hop : (fMajor w).toNat = 0x43) (hfn : (fWfn w).toNat = 1) : (decodeWbcst w).readsBack w :=
  readsBack_needElt fun _ hfmt _ => readsBack_need fun ⟨ha, hb, hc⟩ =>
    readsBack_ok rfl (packW_eq hop rfl ha hb hc rfl hfmt hfn) rfl
theorem readsBack_decodeWideAlu (hop : (fMajor w).toNat = 0x40) : (decodeWideAlu w).readsBack w := by
  unfold decodeWideAlu
  split
  case h_14 hfn => exact readsBack_wideTwo hop hfn (fun _ _ _ => rfl) fun _ _ _ h => h
  case h_15 => exact readsBack_error _
  all_goals
    rename_i hfn
    exact readsBack_wideThree hop hfn (fun _ _ _ _ => rfl) fun _ _ _ _ h => h
theorem readsBack_decodeWideFma (hop : (fMajor w).toNat = 0x41) : (decodeWideFma w).readsBack w := by
  unfold decodeWideFma
  split
  case h_5 => exact readsBack_error _
  all_goals
    rename_i hfn
    exact readsBack_wideFour hop hfn (fun _ _ _ _ _ => rfl) fun _ _ _ _ _ h => h
theorem readsBack_decodeWideCmp (hop : (fMajor w).toNat = 0x42) : (decodeWideCmp w).readsBack w := by
  unfold decodeWideCmp
  split
  case h_5 hfn => exact readsBack_wideFour hop hfn (fun _ _ _ _ _ => rfl) fun _ _ _ _ _ h => h
  case h_6 => exact readsBack_error _
  all_goals
    rename_i hfn
    exact readsBack_wideThree hop hfn (fun _ _ _ _ => rfl) fun _ _ _ _ h => h
theorem readsBack_decodeWideMove (hop : (fMajor w).toNat = 0x43) : (decodeWideMove w).readsBack w := by
  unfold decodeWideMove
  split
  case h_1 hfn => exact readsBack_wideThree hop hfn (fun _ _ _ _ => rfl) fun _ _ _ _ h => h
  case h_2 hfn => exact readsBack_decodeWbcst hop hfn
  case h_3 hfn => exact readsBack_wideTwo hop hfn (fun _ _ _ => rfl) fun _ _ _ h => h
  case h_4 => exact readsBack_error _
theorem readsBack_decodeWideFun (hop : (fMajor w).toNat = 0x44) : (decodeWideFun w).readsBack w := by
  unfold decodeWideFun
  split
  case h_7 => exact readsBack_error _
  all_goals
    rename_i hfn
    exact readsBack_wideTwo hop hfn (fun _ _ _ => rfl) fun _ _ _ h => h
theorem readsBack_decodeWideRed (hop : (fMajor w).toNat = 0x46) : (decodeWideRed w).readsBack w := by
  unfold decodeWideRed
  split
  case h_4 => exact readsBack_error _
  all_goals
    rename_i hfn
    exact readsBack_wideRed hop hfn (fun _ _ _ => rfl) fun _ _ _ => rfl
/-- What a one-bit field adds to a code in which it weighs `k`. -/
theorem flag_weight (lo k : Nat) : (if decide (field w lo 1 = 1) then k else 0) = (field w lo 1).toNat * k := by
  have hbit : ∀ b : BitVec 1, b = 0 ∨ b = 1 := by decide
  rcases hbit (field w lo 1) with h | h <;> simp [h]
theorem readsBack_decodeWdot (hop : (fMajor w).toNat = 0x45) : (decodeWdot w).readsBack w := by
  refine readsBack_needSome fun l hl => readsBack_needSome fun p hp => readsBack_need fun hg => readsBack_ok rfl
    (packW_eq hop rfl rfl rfl rfl hg (congrArg BitVec.toNat (DotLane.code_of_ofCode hl).symm) ?_) rfl
  rw [flag_weight, Pairing.code_of_ofCode hp]
  simp only [fWfn, field_toNat]
  omega
/-- The function bits of WCVT are its three fields. -/
theorem fWfn_wcvt {f : Fmt} (hf : f.isBin8 = decide (field w 0 1 = 1)) :
    (fWfn w).toNat = wcvtFn f (decide (field w 3 1 = 1)) (Rnd.ofCode (field w 1 2).toNat) := by
  rw [wcvtFn, hf, flag_weight, flag_weight, Rnd.code_ofCode (field w 1 2).isLt]
  simp only [fWfn, field_toNat]
  omega
/-- The major of WCVT is its base, the direction and the pivot. -/
theorem fMajor_wcvt {base : Nat} (hop : (fMajor w).toNat / 8 = base) :
    (fMajor w).toNat = base * 8 + (if decide (field w 27 1 = 1) then 4 else 0) + (Pivot.ofCode (field w 25 2).toNat).code := by
  rw [flag_weight, Pivot.code_ofCode (field w 25 2).isLt]
  simp only [fMajor, field_toNat] at hop ⊢
  omega
theorem readsBack_decodeWcvt (hop : (fMajor w).toNat / 8 = 9) : (decodeWcvt w false).readsBack w :=
  readsBack_needSome fun _ hf => readsBack_need fun ⟨hb, hc⟩ => readsBack_need fun hg =>
    have ⟨hbin, hcode⟩ := Fmt.code_of_ofCode hf
    readsBack_ok rfl (packW_eq (fMajor_wcvt hop) rfl rfl hb hc hg (congrArg BitVec.toNat hcode.symm) (fWfn_wcvt hbin)) rfl
theorem readsBack_decodeWcvt_scaled (hop : (fMajor w).toNat / 8 = 10) : (decodeWcvt w true).readsBack w :=
  readsBack_needSome fun _ hf => readsBack_need fun ⟨hb, hc⟩ =>
    have ⟨hbin, hcode⟩ := Fmt.code_of_ofCode hf
    readsBack_ok rfl (packW_eq (fMajor_wcvt hop) rfl rfl hb hc rfl (congrArg BitVec.toNat hcode.symm) (fWfn_wcvt hbin)) rfl

/-! ### Words of streams, hires, pallets, engines and the system -/

theorem readsBack_zMem {f : ZReg → GReg → BitVec 11 → Instr} (hop : (fMajor w).toNat = op)
    (henc : ∀ z g i, encode (f z g i) = some (packZ op z g 0 i.toNat)) (hwf : ∀ z g i, wellFormed (f z g i) = true) :
    (zMem w f).readsBack w :=
  readsBack_need fun hf => readsBack_ok (henc _ _ _) (packZ_eq hop rfl rfl (congrArg BitVec.toNat hf) rfl) (hwf _ _ _)
theorem readsBack_zWord {f : ZReg → GReg → BitVec 3 → Instr} (hop : (fMajor w).toNat = op)
    (henc : ∀ z g k, encode (f z g k) = some (packZ op z g k.toNat 0)) (hwf : ∀ z g k, wellFormed (f z g k) = true) :
    (zWord w f).readsBack w := by
  refine readsBack_need fun ⟨hhigh, himm⟩ =>
    readsBack_ok (henc _ _ _) (packZ_eq hop rfl rfl ?_ (congrArg BitVec.toNat himm)) (hwf _ _ _)
  rw [field_eq_zero] at hhigh
  simp only [fZf, field_toNat]
  omega
theorem readsBack_decodeSbind (hop : (fMajor w).toNat = 0x5C) : (decodeSbind w).readsBack w := by
  refine readsBack_need fun ⟨hg, himm⟩ => ?_
  split
  case h_4 => exact readsBack_error _
  all_goals
    rename_i hf
    exact readsBack_ok rfl (packZ_eq hop rfl hg hf (congrArg BitVec.toNat himm)) rfl
theorem readsBack_decodeHire (hop : (fMajor w).toNat = 0x60) : (decodeHire w).readsBack w :=
  readsBack_need fun ⟨htrain, hfn⟩ =>
    readsBack_ok rfl (packH_eq hop rfl rfl (congrArg BitVec.toNat htrain) rfl hfn) rfl
theorem readsBack_decodeHiret (hop : (fMajor w).toNat = 0x61) : (decodeHiret w).readsBack w :=
  readsBack_need fun hfn => readsBack_need fun htrain =>
    readsBack_ok rfl (packH_eq hop rfl rfl rfl rfl hfn) (decide_eq_true htrain)
theorem readsBack_palletLine {f : GReg → GReg → BitVec 2 → WReg → Instr} {o : Nat} (hop : (fMajor w).toNat = 0x62)
    (hfn : (field w 5 4).toNat = o)
    (henc : ∀ a b r v, encode (f a b r v) = some (packA 0x62 0 a b 0 (o * 2 ^ 5 + r.toNat * 2 ^ 3 + v.val)))
    (hwf : ∀ a b r v, wellFormed (f a b r v) = true) : (palletLine w f).readsBack w := by
  refine readsBack_need fun ⟨hd, hc⟩ => readsBack_ok (henc _ _ _ _) (packA_eq hop hd rfl rfl hc ?_) (hwf _ _ _ _)
  rw [← hfn, fieldW_val]
  simp only [fFn, field_toNat]
  omega
theorem readsBack_decodePallet (hop : (fMajor w).toNat = 0x62) : (decodePallet w).readsBack w := by
  unfold decodePallet
  split
  case h_1 hfn =>
    refine readsBack_need fun ⟨hb, hc, hlow⟩ => readsBack_ok rfl (packA_eq hop rfl rfl hb hc ?_) rfl
    rw [field_eq_zero] at hlow
    simp only [fFn, field_toNat] at hfn ⊢
    omega
  case h_2 hfn =>
    refine readsBack_need fun ⟨hd, hc, hlow⟩ => readsBack_ok rfl (packA_eq hop hd rfl rfl hc ?_) rfl
    rw [field_eq_zero] at hlow
    simp only [fFn, field_toNat] at hfn ⊢
    omega
  case h_7 hfn =>
    refine readsBack_need fun ⟨hd, hc, hlow⟩ => readsBack_ok rfl (packA_eq hop hd rfl rfl hc ?_) rfl
    rw [field_eq_zero] at hlow
    simp only [fFn, field_toNat] at hfn ⊢
    omega
  case h_8 hfn =>
    refine readsBack_need fun ⟨hd, hb, hc, hlow⟩ => readsBack_ok rfl (packA_eq hop hd rfl hb hc ?_) rfl
    rw [field_eq_zero] at hlow
    simp only [fFn, field_toNat] at hfn ⊢
    omega
  case h_9 => exact readsBack_error _
  all_goals
    rename_i hfn
    exact readsBack_palletLine hop hfn (fun _ _ _ _ => rfl) fun _ _ _ _ => rfl
theorem readsBack_engineWord {f : GReg → GReg → GReg → GReg → Instr} {o : Nat} (hop : (fMajor w).toNat = 0x63)
    (hfn : (field w 6 3).toNat = o) (henc : ∀ t a b c, encode (f t a b c) = some (packA 0x63 t a b c (o * 2 ^ 6)))
    (hwf : ∀ t a b c, wellFormed (f t a b c) = true) : (engineWord w f).readsBack w := by
  refine readsBack_need fun hlow => readsBack_ok (henc _ _ _ _) (packA_eq hop rfl rfl rfl rfl ?_) (hwf _ _ _ _)
  rw [field_eq_zero] at hlow
  simp only [← hfn, fFn, field_toNat]
  omega
theorem readsBack_decodeEngine (hop : (fMajor w).toNat = 0x63) : (decodeEngine w).readsBack w := by
  unfold decodeEngine
  split
  case h_5 => exact readsBack_error _
  all_goals
    rename_i hfn
    exact readsBack_engineWord hop hfn (fun _ _ _ _ => rfl) fun _ _ _ _ => rfl
/-- The word of the CWR instruction of a control register, and that the spec admits it. -/
theorem encode_cwrOf (g : GReg) (c : CReg) :
    encode (cwrOf g c) = some (packS g c.code.toNat 0x002) ∧ wellFormed (cwrOf g c) = true := by
  cases c <;> exact ⟨rfl, rfl⟩
theorem readsBack_noRegS {i : Instr} (hop : (fMajor w).toNat = 0x70) (hfn : (fFn w).toNat = fn)
    (henc : encode i = some (packS 0 0 fn)) (hwf : wellFormed i = true) : (noReg w i).readsBack w := by
  refine readsBack_need fun hzero => readsBack_ok henc (packS_eq hop (registers_zero hzero).1 ?_ hfn) hwf
  rw [field_eq_zero] at hzero
  simp only [fCreg, field_toNat]
  omega
theorem readsBack_decodeSystem (hop : (fMajor w).toNat = 0x70) : (decodeSystem w).readsBack w := by
  unfold decodeSystem
  split
  case h_1 hfn =>
    exact readsBack_needSome fun _ hc =>
      readsBack_ok rfl (packS_eq hop rfl (congrArg BitVec.toNat (CReg.code_of_ofCode hc).symm) hfn) rfl
  case h_2 hfn =>
    exact readsBack_needSome fun c hc =>
      have ⟨henc, hwf⟩ := encode_cwrOf (fD w) c
      readsBack_ok henc (packS_eq hop rfl (congrArg BitVec.toNat (CReg.code_of_ofCode hc).symm) hfn) hwf
  case h_3 hfn | h_6 hfn => exact readsBack_need fun hd => readsBack_ok rfl (packS_eq hop hd rfl hfn) rfl
  case h_4 hfn | h_5 hfn => exact readsBack_noRegS hop hfn rfl rfl
  case h_7 hfn | h_8 hfn =>
    exact readsBack_need fun hzero => readsBack_ok rfl (packS_eq hop rfl (congrArg BitVec.toNat hzero) hfn) rfl
  case h_9 hfn =>
    refine readsBack_need fun hzero => readsBack_ok rfl (packS_eq hop rfl ?_ hfn) rfl
    rw [field_eq_zero] at hzero
    simp only [fCreg, fC, fieldG_val, field_toNat]
    omega
  case h_10 => exact readsBack_error _

/-! ### Every word -/

/-- Whatever the decoder reads from a word, its word is that word: the split is over the majors of the opcode map (R235), in the order of the arms of `decode`. -/
theorem readsBack_decode (w : IWord) : (decode w).readsBack w := by
  unfold decode
  split <;> rename_i hop
  case h_1 | h_88 | h_89 => exact readsBack_error _
  case h_2 => exact readsBack_decodeScalar hop
  case h_3 | h_4 | h_5 | h_6 | h_16 | h_17 | h_18 | h_19 | h_20 | h_21 | h_23 =>
    exact readsBack_okI hop (fun _ _ _ => rfl) fun _ _ _ => rfl
  case h_7 | h_8 | h_9 => exact readsBack_shiftImm hop (fun _ _ _ => rfl) fun _ _ _ => rfl
  case h_10 => exact readsBack_decodeLui hop
  case h_11 => exact readsBack_need fun ha => readsBack_ok rfl (packI_eq hop rfl ha rfl) rfl
  case h_12 | h_13 | h_14 => exact readsBack_fieldImm hop (fun _ _ _ _ => rfl) fun _ _ _ _ h => decide_eq_true h
  case h_15 => exact readsBack_decodeRpt hop
  case h_22 => exact readsBack_ok rfl (packJ_eq hop rfl rfl) rfl
  case h_24 => exact readsBack_decodeLd hop
  case h_25 => exact readsBack_decodeSt hop
  case h_26 => exact readsBack_decodeStImm hop
  case h_27 | h_28 | h_29 | h_30 | h_32 | h_34 | h_35 | h_38 | h_39 | h_40 | h_41 | h_45 =>
    exact readsBack_oneMode hop (fun _ _ _ => rfl) fun _ _ _ => rfl
  case h_31 | h_33 | h_44 => exact readsBack_oneModeImm hop (fun _ _ _ => rfl) fun _ _ _ => rfl
  case h_36 => exact readsBack_decodeMigr hop
  case h_37 => exact readsBack_decodePref hop
  case h_42 | h_43 => exact readsBack_ringWord hop (fun _ _ _ _ => rfl) fun _ _ _ _ h => decide_eq_true h
  case h_46 => exact readsBack_decodeRwait hop
  case h_47 => exact readsBack_decodeIter hop
  case h_48 => exact readsBack_decodeNest hop
  case h_49 => exact readsBack_decodeAmo hop
  case h_50 => exact readsBack_decodeRupd hop
  case h_51 => exact readsBack_decodeSync hop
  case h_52 | h_53 => exact readsBack_barrierImm hop (fun _ _ => rfl) fun _ _ => rfl
  case h_54 => exact readsBack_need fun ⟨ha, hhigh⟩ => readsBack_ok rfl (packI_eq hop rfl ha (fI17_of_high_zero hhigh)) rfl
  case h_55 => exact readsBack_decodeWideAlu hop
  case h_56 => exact readsBack_decodeWideFma hop
  case h_57 => exact readsBack_decodeWideCmp hop
  case h_58 => exact readsBack_decodeWideMove hop
  case h_59 => exact readsBack_decodeWideFun hop
  case h_60 => exact readsBack_decodeWdot hop
  case h_61 => exact readsBack_decodeWideRed hop
  case h_62 | h_63 | h_64 | h_65 | h_66 | h_67 | h_68 | h_69 => exact readsBack_decodeWcvt (by omega)
  case h_70 | h_71 | h_72 | h_73 | h_74 | h_75 | h_76 | h_77 => exact readsBack_decodeWcvt_scaled (by omega)
  case h_78 | h_79 => exact readsBack_zMem hop (fun _ _ _ => rfl) fun _ _ _ => rfl
  case h_80 | h_81 => exact readsBack_zWord hop (fun _ _ _ => rfl) fun _ _ _ => rfl
  case h_82 => exact readsBack_decodeSbind hop
  case h_83 => exact readsBack_decodeHire hop
  case h_84 => exact readsBack_decodeHiret hop
  case h_85 => exact readsBack_decodePallet hop
  case h_86 => exact readsBack_decodeEngine hop
  case h_87 => exact readsBack_decodeSystem hop

end

/-- Settles O2: `readsBack_decode`. -/
theorem encodeInvertsDecode : Obligations.EncodeInvertsDecode := readsBack_decode

/-- Settles O3: each word is evaluated. -/
theorem sampleWordsDecode : Obligations.SampleWordsDecode := by
  unfold Obligations.SampleWordsDecode
  decide

end Sys2Proof
end

section
/-!
SUPPORT. Words that do not decode, and the turn that meets one; UnassignedWordsTrap is assembled from these.
-/
namespace Sys2Proof.Machine

/-- No word of a major outside the opcode map decodes (R235). -/
theorem decode_unassignedMajor {w : IWord}
    (h : fMajor w = 0x00#7 ∨ (0x02#7 ≤ fMajor w ∧ fMajor w ≤ 0x07#7) ∨ (0x14#7 ≤ fMajor w ∧ fMajor w ≤ 0x16#7) ∨ fMajor w = 0x39#7 ∨
      fMajor w = 0x47#7 ∨ (0x5D#7 ≤ fMajor w ∧ fMajor w ≤ 0x5F#7) ∨ (0x64#7 ≤ fMajor w ∧ fMajor w ≤ 0x6F#7) ∨ 0x71#7 ≤ fMajor w) :
    ∃ e, decode w = .error e := by
  simp only [BitVec.le_def, ← BitVec.toNat_inj, BitVec.toNat_ofNat] at h
  unfold decode
  split <;> rename_i hop
  case h_1 | h_88 | h_89 => exact ⟨_, rfl⟩
  all_goals
    exfalso
    omega
/-- Outside a running frame a slot whose word does not decode executes the illegal-instruction row (R246). -/
theorem State.issue_undecoded {s1 s2 t : State} {w : IWord} {e : DecodeError} (hframe : s1.me.frame.running = false)
    (hready : s1.fetchReady s1.cur s1.me.pc = (s2, none)) (hme : s2.me = s1.me) (hfetch : s2.fetch s2.cur s2.me.pc = .word w t)
    (hword : decode w = .error e) : s1.issue = exec (.illegalInstruction w) t := by
  simp [State.issue, State.nextInstr, hframe, hready, hme, hme ▸ hfetch, hword]
/-- The illegal-instruction row traps with XVAL the word (R246). -/
theorem exec_illegalInstruction (w : IWord) (s : State) :
    exec (.illegalInstruction w) s = .next (s.trapAt s.cur .illegal (w.setWidth 64)) := rfl

/-- Settles O4: majors outside the map are `decode_unassignedMajor`, and the turn issues what `State.issue_undecoded` says. -/
theorem unassignedWordsTrap : Obligations.UnassignedWordsTrap := by
  refine ⟨fun w s hmajor => ⟨decode_unassignedMajor hmajor, exec_illegalInstruction w s⟩, ?_⟩
  intro s s1 s2 t b n rest w e hmove hs1 hgo hframe hready hme hfetch hword
  rw [step_issues hmove hs1 hgo, State.issue_undecoded hframe hready hme hfetch hword, exec_illegalInstruction]
  rfl

end Sys2Proof.Machine
end

section
/-!
SUPPORT. What a completion writes of the machine, and what writing a register writes of its slot; Frames is assembled from these.
-/
namespace Sys2Proof.Machine

/-- With no single step due, completing an instruction writes the current slot alone (R229). -/
theorem State.after_plain {s : State} (k : Slot) (h : s.me.stepDue = false) :
    s.after k = s.setSlot s.cur k.advance.completed := State.completeAt_plain k.advance h

/-! ### Valid bits -/

/-- The bits of a set of registers to which one is added. -/
theorem getLsbD_or_one_shiftLeft {n : Nat} (v : BitVec n) {i : Nat} (hi : i < n) (j : Nat) :
    (v ||| (1 <<< i)).getLsbD j = (v.getLsbD j || decide (j = i)) := by
  rw [BitVec.getLsbD_or, BitVec.natCast_eq_ofNat, BitVec.getLsbD_ofNat, Nat.one_shiftLeft, Nat.testBit_two_pow]
  by_cases hj : j = i
  · simp [hj, hi]
  · simp [hj, Ne.symm hj]
theorem Slot.wValid_setW (k : Slot) (a b : WReg) (l : Line) : (k.setW a l).wValid b = (k.wValid b || decide (b = a)) := by
  rw [Slot.wValid, Slot.setW, getLsbD_or_one_shiftLeft _ a.isLt, ← Slot.wValid]
  simp only [Fin.ext_iff]
theorem Slot.zValid_setZ (k : Slot) (y z : ZReg) (l : Line) : (k.setZ y l).zValid z = (k.zValid z || decide (z = y)) := by
  rw [Slot.zValid, Slot.setZ, getLsbD_or_one_shiftLeft _ y.isLt, ← Slot.zValid]
  simp only [Fin.ext_iff]

/-! ### Other registers -/

theorem Slot.setW_read_ne (k : Slot) {a b : WReg} (l : Line) (h : b ≠ a) : (k.setW a l).w[b] = k.w[b] := by
  have hne : (a : Nat) ≠ (b : Nat) := fun e => h (Fin.ext e.symm)
  simp [Slot.setW, hne]
theorem Slot.setZ_read_ne (k : Slot) {y z : ZReg} (l : Line) (h : z ≠ y) : (k.setZ y l).z[z] = k.z[z] := by
  have hne : (y : Nat) ≠ (z : Nat) := fun e => h (Fin.ext e.symm)
  simp [Slot.setZ, hne]

/-- Settles O13: a completion is `State.after_plain`, whose slot differs from `k` as `Slot.advance_eq` and `Slot.completed` say; each kind of register has its laws of reading. -/
theorem frames : Obligations.Frames := by
  refine ⟨fun s t k hstep ht => ?_, fun k d r a b y z v l => ?_⟩
  · rw [State.after_plain k hstep] at ht
    have hme : t.me = k.advance.completed := by rw [ht]; exact State.me_setSlot s _
    rw [hme, k.advance_eq]
    subst ht
    exact ⟨fun _ => rfl, rfl, rfl, rfl, rfl, fun key hkey => State.slotAt_setSlot_ne s _ hkey, rfl, rfl, rfl, rfl, rfl, rfl, rfl, rfl,
      rfl, rfl, rfl, rfl, rfl, rfl, rfl, rfl, rfl, rfl, rfl, rfl⟩
  · refine ⟨k.getG_setG_self d v, k.getG_setG_ne v, rfl, k.setW_read_self a l, ?_, fun h => ⟨k.setW_read_ne l h, ?_⟩, rfl,
      k.setZ_read_self y l, ?_, fun h => ⟨k.setZ_read_ne l h, ?_⟩, rfl⟩
    · simp [Slot.wValid_setW]
    · simp [Slot.wValid_setW, h]
    · simp [Slot.zValid_setZ]
    · simp [Slot.zValid_setZ, h]

end Sys2Proof.Machine
end

section
/-!
SUPPORT. The values of scalar arithmetic, shifts, products, counts and bit fields; ScalarResults and DivisionAndRemainder are assembled from these.
-/
namespace Sys2Proof.Machine

/-! ### Rotates and products -/

/-- A rotate keeps every bit (R259). -/
theorem rolValue_eq_rotateLeft (x y : Word) : rolValue x y = x.rotateLeft (y.toNat % 64) := by
  rw [rolValue, shiftCount, BitVec.rotateLeft_def, Nat.mod_mod]
/-- A word is its integer modulo 2 ^ 64, and its integer is itself when it lies in range. -/
theorem toInt_wrapInt {i : Int} (hlow : -2 ^ 63 ≤ i) (hhigh : i < 2 ^ 63) : (wrapInt i).toInt = i := by
  rw [wrapInt, BitVec.toInt_ofInt]
  exact Int.bmod_eq_of_le (by norm_num; omega) (by norm_num; omega)
/-- The magnitude of a word's integer. -/
theorem natAbs_toInt_le (x : Word) : x.toInt.natAbs ≤ 2 ^ 63 := by
  have hlow := x.le_toInt
  have hhigh := x.toInt_lt
  norm_num at hlow hhigh
  omega
theorem natAbs_product_le (x y : Word) : (x.toInt * y.toInt).natAbs ≤ 2 ^ 126 := by
  rw [Int.natAbs_mul]
  calc x.toInt.natAbs * y.toInt.natAbs ≤ 2 ^ 63 * 2 ^ 63 := Nat.mul_le_mul (natAbs_toInt_le x) (natAbs_toInt_le y)
    _ = 2 ^ 126 := by norm_num
/-- A product modulo 2 ^ 64 is that of the integers. -/
theorem toNat_mul_toInt (x y : Word) : ((x * y).toNat : Int) = x.toInt * y.toInt % 2 ^ 64 := by
  have h : x * y = BitVec.ofInt 64 (x.toInt * y.toInt) := by rw [BitVec.ofInt_mul, BitVec.ofInt_toInt, BitVec.ofInt_toInt]
  rw [h, BitVec.toNat_ofInt]
  exact Int.toNat_of_nonneg (Int.emod_nonneg _ (by norm_num))
/-- High and low half of a signed product make it (R259). -/
theorem mulhSigned_spec (x y : Word) : (mulhSigned x y).toInt * 2 ^ 64 + (x * y).toNat = x.toInt * y.toInt := by
  have hp := natAbs_product_le x y
  generalize hprod : x.toInt * y.toInt = p at hp
  have hhigh : (mulhSigned x y).toInt = p / 2 ^ 64 := by
    rw [mulhSigned, hprod]
    exact toInt_wrapInt (by omega) (by omega)
  rw [hhigh, toNat_mul_toInt, hprod]
  omega
/-- High and low half of a natural product make it (R259). -/
theorem mulhNat_spec (x y : Word) : (mulhNat x y).toNat * 2 ^ 64 + (x * y).toNat = x.toNat * y.toNat := by
  have hlt : x.toNat * y.toNat < 2 ^ 64 * 2 ^ 64 := Nat.mul_lt_mul'' x.isLt y.isLt
  rw [BitVec.toNat_mul, mulhNat, wrap, BitVec.toNat_ofNat]
  generalize x.toNat * y.toNat = p at hlt
  omega

/-! ### Counts of bits -/

theorem clzFrom_le (v n : Nat) : clzFrom v n ≤ n := by
  induction n with
  | zero => exact Nat.le_refl 0
  | succ n ih =>
    unfold clzFrom
    split <;> omega
/-- The bits that CLZ counts are clear. -/
theorem testBit_clzFrom (v : Nat) {n j : Nat} (hj : n - clzFrom v n ≤ j) (hn : j < n) : v.testBit j = false := by
  induction n with
  | zero => omega
  | succ n ih =>
    unfold clzFrom at hj
    split at hj
    case isTrue => omega
    case isFalse hclear =>
      have hle := clzFrom_le v n
      by_cases hjn : j = n
      · subst hjn
        exact Bool.eq_false_iff.mpr hclear
      · exact ih (by omega) (by omega)
/-- The bit below those is set. -/
theorem testBit_below_clzFrom (v : Nat) {n : Nat} (h : clzFrom v n < n) : v.testBit (n - 1 - clzFrom v n) = true := by
  induction n with
  | zero => omega
  | succ n ih =>
    unfold clzFrom at h ⊢
    split
    case isTrue hset => simpa using hset
    case isFalse hclear =>
      rw [if_neg hclear] at h
      have := ih (by omega)
      rwa [show n + 1 - 1 - (clzFrom v n + 1) = n - 1 - clzFrom v n by omega]
theorem ctzFrom_le (v i n : Nat) : ctzFrom v i n ≤ n := by
  induction n generalizing i with
  | zero => exact Nat.le_refl 0
  | succ n ih =>
    unfold ctzFrom
    have := ih (i + 1)
    split <;> omega
/-- The bits that CTZ counts are clear. -/
theorem testBit_ctzFrom (v : Nat) {i n j : Nat} (hi : i ≤ j) (hj : j < i + ctzFrom v i n) : v.testBit j = false := by
  induction n generalizing i with
  | zero =>
    unfold ctzFrom at hj
    omega
  | succ n ih =>
    unfold ctzFrom at hj
    split at hj
    case isTrue => omega
    case isFalse hclear =>
      by_cases hji : i = j
      · subst hji
        exact Bool.eq_false_iff.mpr hclear
      · exact ih (i := i + 1) (by omega) (by omega)
/-- The bit above those is set. -/
theorem testBit_above_ctzFrom (v : Nat) {i n : Nat} (h : ctzFrom v i n < n) : v.testBit (i + ctzFrom v i n) = true := by
  induction n generalizing i with
  | zero => omega
  | succ n ih =>
    unfold ctzFrom at h ⊢
    split
    case isTrue hset => simpa using hset
    case isFalse hclear =>
      rw [if_neg hclear] at h
      have := ih (i := i + 1) (by omega)
      rwa [show i + (ctzFrom v (i + 1) n + 1) = i + 1 + ctzFrom v (i + 1) n by omega]
/-- POPC counts the bits that are set. -/
theorem popFrom_eq_countP (v n : Nat) : popFrom v n = (List.range n).countP fun j => v.testBit j := by
  induction n with
  | zero => rfl
  | succ n ih =>
    rw [popFrom, List.range_succ, List.countP_append, ← ih, List.countP_singleton, Nat.add_comm]

/-! ### Bit fields -/

/-- A field read without sign, bit by bit (R264). -/
theorem getLsbD_extractNat (x : Word) (p w : Nat) {j : Nat} (hj : j < 64) :
    (extractNat x p w).getLsbD j = (decide (j < w) && x.getLsbD (p + j)) := by
  rw [extractNat, wrap, BitVec.getLsbD_ofNat, Nat.testBit_mod_two_pow, Nat.testBit_div_two_pow, Nat.add_comm, decide_eq_true hj,
    Bool.true_and]
  rfl
/-- A number of `n + 1` bits read as signed is that of its bit vector. -/
theorem signedOf_eq_toInt (n v : Nat) : signedOf (n + 1) v = (BitVec.ofNat (n + 1) v).toInt := by
  rw [signedOf, BitVec.toInt_eq_toNat_cond, BitVec.toNat_ofNat, Nat.add_sub_cancel]
  have hpow : 2 ^ (n + 1) = 2 * 2 ^ n := by omega
  by_cases h : v % 2 ^ (n + 1) < 2 ^ n
  · rw [if_pos h, if_pos (by omega)]
  · rw [if_neg h, if_neg (by omega)]
/-- A field read with sign repeats its top bit (R264). -/
theorem getLsbD_extractSigned (x : Word) {p w j : Nat} (hj : j < 64) :
    (extractSigned x p (w + 1)).getLsbD j = x.getLsbD (p + min j w) := by
  rw [extractSigned, signedOf_eq_toInt, wrapInt, ← BitVec.signExtend, BitVec.getLsbD_signExtend, decide_eq_true hj, Bool.true_and]
  have hbit : ∀ i, i < w + 1 → (BitVec.ofNat (w + 1) (x.toNat / 2 ^ p)).getLsbD i = x.getLsbD (p + i) := by
    intro i hi
    rw [BitVec.getLsbD_ofNat, Nat.testBit_div_two_pow, decide_eq_true hi, Bool.true_and, Nat.add_comm]
    rfl
  split
  case isTrue hlow => rw [hbit j hlow, Nat.min_eq_left (by omega)]
  case isFalse hhigh => rw [BitVec.msb_eq_getLsbD_last, Nat.add_sub_cancel, hbit w (by omega), Nat.min_eq_right (by omega)]
/-- The mask of a field, bit by bit. -/
theorem getLsbD_fieldMask (p w : Nat) {j : Nat} (hj : j < 64) :
    (wrap ((2 ^ w - 1) * 2 ^ p)).getLsbD j = decide (p ≤ j ∧ j < p + w) := by
  rw [wrap, BitVec.getLsbD_ofNat, Nat.testBit_mul_two_pow, Nat.testBit_two_pow_sub_one, decide_eq_true hj, Bool.true_and,
    Bool.decide_and]
  by_cases hp : p ≤ j
  · simp only [hp, decide_true, Bool.true_and, decide_eq_decide]
    omega
  · simp [hp]
/-- A field put into a word, bit by bit (R263, R264). -/
theorem getLsbD_insertBits (v f : Word) (p w : Nat) {j : Nat} (hj : j < 64) :
    (insertBits v f p w).getLsbD j = if p ≤ j ∧ j < p + w then f.getLsbD (j - p) else v.getLsbD j := by
  simp only [insertBits, BitVec.getLsbD_or, BitVec.getLsbD_and, BitVec.getLsbD_not, BitVec.getLsbD_shiftLeft, getLsbD_fieldMask p w hj,
    hj, decide_true, Bool.true_and]
  by_cases h : p ≤ j ∧ j < p + w
  · simp [h]
  · simp [h]
/-- LUI's chunk, bit by bit (R263). -/
theorem getLsbD_insertChunk (v : Word) (c : BitVec 2) (h : BitVec 16) {j : Nat} (hj : j < 64) :
    (insertBits v (h.setWidth 64) (16 * c.toNat) 16).getLsbD j = if j / 16 = c.toNat then h.getLsbD (j % 16) else v.getLsbD j := by
  rw [getLsbD_insertBits v _ _ _ hj]
  by_cases hc : j / 16 = c.toNat
  · rw [if_pos (by omega), if_pos hc, BitVec.getLsbD_setWidth, show j - 16 * c.toNat = j % 16 by omega,
      decide_eq_true (by omega), Bool.true_and]
  · rw [if_neg (by omega), if_neg hc]

/-- Settles O10: each instruction retires with the value of its helper, and the helpers have the values named by their lemmas above. -/
theorem scalarResults : Obligations.ScalarResults := by
  refine ⟨fun s d a b n => ?_, fun s d a b n => ?_, fun s d a b => ?_, fun s d a => ?_, fun s d a w p c h hfits => ?_⟩
  · refine ⟨rfl, rfl, rfl, rfl, rfl, rfl, rfl, rfl, rfl, rfl, rfl, rfl, rfl, ?_, ?_, ?_, ?_⟩
    all_goals
      simp only [exec, execMinI64, execMaxI64, execMinN64, execMaxN64, State.alu2, State.retire, State.after, minBy, maxBy, ltSigned, ltNat,
        BitVec.slt, BitVec.ult, decide_eq_true_eq]
  · refine ⟨rfl, rfl, rfl, ?_, rfl, rfl, rfl⟩
    simp only [exec, execRol, State.alu2, State.retire, State.after, rolValue_eq_rotateLeft]
  · exact ⟨⟨_, rfl, mulhSigned_spec _ _⟩, _, rfl, mulhNat_spec _ _⟩
  · have hhigh : ∀ j, 64 ≤ j → (s.me.getG a).getLsbD j = false := fun j hj => BitVec.getLsbD_of_ge _ _ hj
    refine ⟨⟨_, clzFrom_le _ 64, rfl, fun j hj => ?_, fun hlt => ?_⟩, ⟨_, ctzFrom_le _ 0 64, rfl, fun j hj => ?_, fun hlt => ?_⟩, ?_⟩
    · by_cases hj64 : j < 64
      · exact testBit_clzFrom _ hj hj64
      · exact hhigh j (by omega)
    · exact testBit_below_clzFrom _ hlt
    · exact testBit_ctzFrom _ (Nat.zero_le j) (hj.trans_eq (Nat.zero_add _).symm)
    · have hbit := testBit_above_ctzFrom _ hlt
      rwa [Nat.zero_add] at hbit
    · simp only [exec, execPopc, State.alu1, State.retire, State.after, popFrom_eq_countP]
      rfl
  · exact ⟨⟨_, rfl, fun j hj => getLsbD_extractNat _ _ _ hj⟩, ⟨_, rfl, fun j hj => getLsbD_extractSigned _ hj⟩,
      ⟨_, rfl, fun j hj => getLsbD_insertBits _ _ _ _ hj⟩, _, rfl, fun j hj => getLsbD_insertChunk _ _ _ hj⟩

/-! ### Quotients and remainders -/

/-- Natural quotient and remainder of a nonzero divisor (R260). -/
theorem divNat_remNat_spec (x : Word) {y : Word} (hy : y ≠ 0) :
    (divNat x y).toNat * y.toNat + (remNat x y).toNat = x.toNat ∧ (remNat x y).toNat < y.toNat := by
  have hpos : 0 < y.toNat := Nat.pos_of_ne_zero fun h => hy (BitVec.eq_of_toNat_eq h)
  have hq : (divNat x y).toNat = x.toNat / y.toNat := by
    rw [divNat, if_neg hy, wrap, BitVec.toNat_ofNat, Nat.mod_eq_of_lt ((Nat.div_le_self _ _).trans_lt x.isLt)]
  have hr : (remNat x y).toNat = x.toNat % y.toNat := by
    rw [remNat, if_neg hy, wrap, BitVec.toNat_ofNat, Nat.mod_eq_of_lt ((Nat.mod_le _ _).trans_lt x.isLt)]
  rw [hq, hr]
  exact ⟨Nat.div_add_mod' _ _, Nat.mod_lt _ hpos⟩
theorem divNat_zero (x : Word) : divNat x 0 = BitVec.allOnes 64 := rfl
theorem remNat_zero (x : Word) : remNat x 0 = x := rfl
theorem divSigned_zero (x : Word) : divSigned x 0 = BitVec.allOnes 64 := rfl
theorem remSigned_zero (x : Word) : remSigned x 0 = x := rfl
/-- At every operand the dividend is divisor times quotient plus remainder. -/
theorem eq_mul_divNat_add_remNat (x y : Word) : x = y * divNat x y + remNat x y := by
  by_cases hy : y = 0
  · subst hy
    rw [remNat_zero, zero_mul, zero_add]
  · refine BitVec.eq_of_toNat_eq ?_
    rw [BitVec.toNat_add, BitVec.toNat_mul, Nat.mod_add_mod, Nat.mul_comm, (divNat_remNat_spec x hy).1, Nat.mod_eq_of_lt x.isLt]
theorem eq_mul_divSigned_add_remSigned (x y : Word) : x = y * divSigned x y + remSigned x y := by
  by_cases hy : y = 0
  · subst hy
    rw [remSigned_zero, zero_mul, zero_add]
  · rw [divSigned, if_neg hy, remSigned, if_neg hy, wrapInt, wrapInt]
    have hprod : y * BitVec.ofInt 64 (x.toInt.tdiv y.toInt) = BitVec.ofInt 64 (y.toInt * x.toInt.tdiv y.toInt) := by
      rw [BitVec.ofInt_mul, BitVec.ofInt_toInt]
    rw [hprod, ← BitVec.ofInt_add, add_sub_cancel, BitVec.ofInt_toInt]
/-- The one overflow wraps (R260). -/
theorem divSigned_overflow : divSigned (BitVec.intMin 64) (BitVec.allOnes 64) = BitVec.intMin 64 := by decide
theorem remSigned_overflow : remSigned (BitVec.intMin 64) (BitVec.allOnes 64) = 0 := by decide
/-- A quotient of words that does not overflow is in range. -/
theorem tdiv_toInt_range {x y : Word} (hover : ¬(x = BitVec.intMin 64 ∧ y = BitVec.allOnes 64)) :
    -2 ^ 63 ≤ x.toInt.tdiv y.toInt ∧ x.toInt.tdiv y.toInt < 2 ^ 63 := by
  have hx := natAbs_toInt_le x
  have hle : (x.toInt.tdiv y.toInt).natAbs ≤ x.toInt.natAbs := by
    rw [Int.natAbs_tdiv]
    exact Nat.div_le_self _ _
  refine ⟨by omega, ?_⟩
  by_contra hge
  have hmin : x.toInt.tdiv y.toInt = 2 ^ 63 := by omega
  have habs : x.toInt.natAbs / y.toInt.natAbs = 2 ^ 63 := by
    have hdiv := Int.natAbs_tdiv x.toInt y.toInt
    rw [hmin] at hdiv
    exact hdiv.symm
  have hy1 : y.toInt.natAbs = 1 := by
    rcases Nat.lt_or_ge 1 y.toInt.natAbs with h | h
    · have hhalf : x.toInt.natAbs / y.toInt.natAbs ≤ x.toInt.natAbs / 2 := Nat.div_le_div_left h (by norm_num)
      omega
    · rcases Nat.le_one_iff_eq_zero_or_eq_one.mp h with h0 | h1
      · rw [h0, Nat.div_zero] at habs
        omega
      · exact h1
  rw [hy1, Nat.div_one] at habs
  have hxlt := x.toInt_lt
  norm_num at hxlt
  have hxmin : x.toInt = -2 ^ 63 := by omega
  have hyneg : y.toInt = -1 := by
    rcases Int.natAbs_eq y.toInt with h | h
    · rw [h, hy1, hxmin] at hmin
      norm_num at hmin
    · rw [h, hy1]
      rfl
  exact hover ⟨BitVec.eq_of_toInt_eq (hxmin.trans rfl), BitVec.eq_of_toInt_eq (hyneg.trans rfl)⟩
/-- Signed quotient and remainder: toward zero, the remainder with the dividend's sign (R260). -/
theorem divSigned_remSigned_spec {x y : Word} (hy : y ≠ 0) (hover : ¬(x = BitVec.intMin 64 ∧ y = BitVec.allOnes 64)) :
    (divSigned x y).toInt * y.toInt + (remSigned x y).toInt = x.toInt ∧ (remSigned x y).toInt.natAbs < y.toInt.natAbs ∧
      ((remSigned x y).toInt = 0 ∨ ((remSigned x y).toInt < 0 ↔ x.toInt < 0)) := by
  have hy0 : y.toInt ≠ 0 := fun h => hy (BitVec.eq_of_toInt_eq (h.trans rfl))
  obtain ⟨hlow, hhigh⟩ := tdiv_toInt_range hover
  have hq : (divSigned x y).toInt = x.toInt.tdiv y.toInt := by
    rw [divSigned, if_neg hy]
    exact toInt_wrapInt hlow hhigh
  have htmod : x.toInt - y.toInt * x.toInt.tdiv y.toInt = x.toInt.tmod y.toInt := by
    have := Int.mul_tdiv_add_tmod x.toInt y.toInt
    omega
  have habs : (x.toInt.tmod y.toInt).natAbs = x.toInt.natAbs % y.toInt.natAbs := Int.natAbs_tmod _ _
  have hmod : x.toInt.natAbs % y.toInt.natAbs < y.toInt.natAbs := Nat.mod_lt _ (Int.natAbs_pos.mpr hy0)
  have hy63 := natAbs_toInt_le y
  have hr : (remSigned x y).toInt = x.toInt.tmod y.toInt := by
    rw [remSigned, if_neg hy, htmod]
    exact toInt_wrapInt (by omega) (by omega)
  rw [hq, hr]
  refine ⟨by rw [Int.mul_comm]; exact Int.mul_tdiv_add_tmod _ _, by omega, ?_⟩
  rcases lt_or_ge x.toInt 0 with hneg | hpos
  · have := Int.tmod_nonneg y.toInt (a := -x.toInt) (by omega)
    rw [Int.neg_tmod] at this
    omega
  · have := Int.tmod_nonneg y.toInt hpos
    omega

/-- Settles O12: natural quotients are `divNat_remNat_spec`, signed ones `divSigned_remSigned_spec`, with the zero divisors and the overflow by themselves. -/
theorem divisionAndRemainder : Obligations.DivisionAndRemainder := by
  refine ⟨fun s d a b => ?_, fun s d a b => ?_⟩
  · refine ⟨_, _, rfl, rfl, divNat_remNat_spec _, fun hy => ?_, eq_mul_divNat_add_remNat _ _, rfl, rfl⟩
    rw [hy]
    exact ⟨divNat_zero _, remNat_zero _⟩
  · refine ⟨_, _, rfl, rfl, fun hy hover => divSigned_remSigned_spec hy hover, fun hx hy => ?_, fun hy => ?_,
      eq_mul_divSigned_add_remSigned _ _, rfl, rfl⟩
    · rw [hx, hy]
      exact ⟨divSigned_overflow, remSigned_overflow⟩
    · rw [hy]
      exact ⟨divSigned_zero _, remSigned_zero _⟩

end Sys2Proof.Machine
end

section
/-!
SUPPORT. Compares and SEL, branches and jumps, repeat frames and XRET; ComparesAndSelect, BranchesAndJumps and RepeatFramesAndReturns are assembled from these.
-/
namespace Sys2Proof.Machine

/-! ### The sc field of major 0x01 -/

/-- What a decoded word of three registers keeps out of its sc field (R237). -/
theorem threeReg_fC {w : IWord} {f : GReg → GReg → GReg → Instr} {i : Instr} (h : threeReg w f = .ok i) : fC w = 0 := by
  by_contra hne
  rw [threeReg, decide_eq_false hne] at h
  exact nomatch h
theorem twoReg_fC {w : IWord} {f : GReg → GReg → Instr} {i : Instr} (h : twoReg w f = .ok i) : fC w = 0 := by
  by_contra hne
  rw [twoReg, decide_eq_false fun hand => hne hand.2] at h
  exact nomatch h
/-- SEL is the only instruction of major 0x01 whose sc field is in use (R265). -/
theorem decodeScalar_fC {w : IWord} {i : Instr} (h : decodeScalar w = .ok i) (hc : fC w ≠ 0) : ∃ e f g h, i = .sel e f g h := by
  unfold decodeScalar at h
  split at h
  case h_22 | h_23 | h_24 | h_25 => exact absurd (twoReg_fC h) hc
  case h_32 =>
    cases h
    exact ⟨_, _, _, _, rfl⟩
  case h_33 => exact nomatch h
  all_goals exact absurd (threeReg_fC h) hc
theorem decode_scalarMajor {w : IWord} (h : fMajor w = 0x01#7) : decode w = decodeScalar w := by
  rw [decode, h]
  rfl

/-- Settles O11: the values are those of the relations, and SEL alone uses sc by `decodeScalar_fC`. -/
theorem comparesAndSelect : Obligations.ComparesAndSelect := by
  refine fun s d a b c => ⟨?_, ?_, ?_, ?_, ?_, ?_, ?_, rfl, rfl, rfl, rfl, rfl, rfl, rfl, fun w i hdec hmajor hc => ?_⟩
  · simp only [exec, execCeq, State.alu2, State.retire, State.after, flagWord, decide_eq_true_eq]
  · simp only [exec, execCne, State.alu2, State.retire, State.after, flagWord, decide_eq_true_eq, ne_eq, ite_not]
  · simp only [exec, execCltI64, State.alu2, State.retire, State.after, flagWord, ltSigned, BitVec.slt, decide_eq_true_eq]
  · simp only [exec, execCltN64, State.alu2, State.retire, State.after, flagWord, ltNat, BitVec.ult, decide_eq_true_eq]
  · simp only [exec, execCleI64, State.alu2, State.retire, State.after, flagWord, leSigned, BitVec.sle, decide_eq_true_eq]
  · simp only [exec, execCleN64, State.alu2, State.retire, State.after, flagWord, leNatW, BitVec.ule, decide_eq_true_eq]
  · simp only [exec, execSel, State.retire, State.after, isSet, decide_eq_true_eq]
  · exact decodeScalar_fC (decode_scalarMajor hmajor ▸ hdec) hc

/-! ### Branches and jumps -/

/-- A branch goes to its target when its relation holds and else to the next word (R267). -/
theorem State.branch_eq (s : State) (a b : GReg) (o : BitVec 17) (rel : Word → Word → Bool) :
    s.branch a b o rel = .next (s.afterAt s.me
      (if rel (s.me.getG a) (s.me.getG b) then s.me.pc + 4 * o.signExtend 64 else s.me.pc + 4)) := rfl
theorem not_ltSigned (x y : Word) : (!(ltSigned x y)) = decide (y.toInt ≤ x.toInt) := by
  simp [ltSigned, BitVec.slt, ← decide_not]
theorem not_ltNat (x y : Word) : (!(ltNat x y)) = decide (y.toNat ≤ x.toNat) := by
  simp [ltNat, BitVec.ult, ← decide_not]

theorem ltSigned_eq (x y : Word) : ltSigned x y = decide (x.toInt < y.toInt) := rfl
theorem ltNat_eq (x y : Word) : ltNat x y = decide (x.toNat < y.toNat) := rfl

/-- Settles O14: branches are `State.branch_eq`; JAL and JALR go on from the slot with the link written. -/
theorem branchesAndJumps : Obligations.BranchesAndJumps := by
  refine fun s d a b o j => ⟨?_, ?_, ?_, ?_, ?_, ?_, rfl, rfl, rfl, rfl, rfl, rfl, rfl, rfl, rfl, rfl⟩
  · simp only [exec, execBeq, State.branch_eq]
  · simp only [exec, execBne, State.branch_eq]
  · simp only [exec, execBltI64, State.branch_eq, ltSigned_eq]
  · simp only [exec, execBgeI64, State.branch_eq, not_ltSigned]
  · simp only [exec, execBltN64, State.branch_eq, ltNat_eq]
  · simp only [exec, execBgeN64, State.branch_eq, not_ltNat]

/-! ### Repeat frames and XRET -/

/-- RPT over a sound body starts the frame at its first word (R272). -/
theorem exec_rpt_starts {s t : State} {l : BitVec 4} {ws : List IWord} (st : BitVec 3) (n : BitVec 12)
    (hframe : s.me.frame.active = false) (hbody : s.captureBody (s.me.pc + 4) (l.toNat + 1) = .ok (ws, t)) (hme : t.me = s.me) :
    exec (.rpt l st n) s = .next (t.afterAt
      { s.me with frame := ⟨true, true, s.me.pc + 4, 0, 0, l.toNat, n.toNat, st.toNat, ws ++ s.me.frame.body.drop ws.length⟩ }
      (s.me.pc + 4)) := by
  simp only [exec, execRpt, hframe, hbody, State.retireTo, State.afterAt, hme, Bool.false_eq_true, if_false]
/-- Within a repetition PC and POS move on together. -/
theorem Slot.advance_word {k : Slot} (hrun : k.frame.running = true) (hpos : k.frame.pos < k.frame.lenm1) :
    k.advance = { k with pc := k.pc + 4, frame := { k.frame with pos := k.frame.pos + 1 } } := by
  rw [Slot.advance, if_pos hrun, if_pos hpos]
/-- After its last word the next repetition starts at the first. -/
theorem Slot.advance_repetition {k : Slot} (hrun : k.frame.running = true) (hpos : ¬k.frame.pos < k.frame.lenm1)
    (hiter : k.frame.iter < k.frame.cntm1) :
    k.advance = { k with pc := k.frame.base, frame := { k.frame with pos := 0, iter := k.frame.iter + 1 } } := by
  rw [Slot.advance, if_pos hrun, if_neg hpos, if_pos hiter]
/-- After the last repetition the frame is over. -/
theorem Slot.advance_over {k : Slot} (hrun : k.frame.running = true) (hpos : ¬k.frame.pos < k.frame.lenm1)
    (hiter : ¬k.frame.iter < k.frame.cntm1) :
    k.advance = { k with pc := k.pc + 4, frame := { k.frame with active := false, running := false } } := by
  rw [Slot.advance, if_pos hrun, if_neg hpos, if_neg hiter]
/-- XRET outside a frame goes to XPC (R353). -/
theorem Slot.leave_plain {k : Slot} (h : k.frame.active = false) : k.leave = { k with level := k.plevel, plevel := .task, pc := k.xpc } := by
  simp [Slot.leave, h]
/-- XRET goes back into a frame that is still active (R353). -/
theorem Slot.leave_frame {k : Slot} (h : k.frame.active = true) : k.leave =
    { k with level := k.plevel, plevel := .task, pc := k.frame.base + 4 * wrap k.frame.pos, frame := { k.frame with running := true } } := by
  simp [Slot.leave, h]
theorem Slot.leave_levels (k : Slot) : k.leave.level = k.plevel ∧ k.leave.plevel = .task := by
  unfold Slot.leave
  split <;> exact ⟨rfl, rfl⟩
/-- XRET at handler level replaces the slot and nothing else (R353). -/
theorem exec_xret {s : State} (h : s.me.level = .handler) : exec .xret s =
    .next (s.setSlot s.cur { s.me.leave with mode := .ready, req := none, descr := none, haltAsked := s.me.leave.haltAsked || s.me.leave.debugStep }) := by
  have hstep : (s.slotAt s.cur).stepDue = false := by
    change (s.me.sstep && decide (s.me.level = .task)) = false
    simp [h]
  simp only [exec, execXret, h, reduceCtorEq, if_false, State.completeAt_plain s.me.leave hstep]
theorem Slot.leave_debug (k : Slot) : k.leave.haltAsked = k.haltAsked ∧ k.leave.debugStep = k.debugStep := by
  unfold Slot.leave
  split <;> exact ⟨rfl, rfl⟩

/-- Settles O16: RPT is `exec_rpt_starts`, a frame moves on as `Slot.advance_word`, `Slot.advance_repetition` and `Slot.advance_over` say, and XRET is `exec_xret`. -/
theorem repeatFramesAndReturns : Obligations.RepeatFramesAndReturns := by
  refine ⟨fun s t l st n ws hframe hbody hme => exec_rpt_starts st n hframe hbody hme, fun k hrun => ⟨fun hpos => ?_, fun hpos hiter => ?_,
    fun hpos hiter => ?_⟩, fun s hlevel => ⟨?_, s.me.leave_levels.1, s.me.leave_levels.2, fun h => ?_, fun h => ?_⟩⟩
  · rw [Slot.advance_word hrun hpos]
    exact ⟨rfl, rfl⟩
  · rw [Slot.advance_repetition hrun hpos hiter]
    exact ⟨rfl, rfl⟩
  · rw [Slot.advance_over hrun hpos hiter]
    exact ⟨rfl, rfl, rfl⟩
  · rw [exec_xret hlevel, s.me.leave_debug.1, s.me.leave_debug.2]
  · rw [Slot.leave_plain h]
    exact ⟨rfl, rfl⟩
  · rw [Slot.leave_frame h]
    exact ⟨rfl, rfl⟩

end Sys2Proof.Machine
end

section
/-!
SUPPORT. The form of the state through the model's primitive updates: the premise `good` stands for "the state before the step is in form", and `Ends` says as well that a next state is answered; EveryMeaningAnswers and EveryStepKeepsTheForm are assembled from these.
-/
-- The many short proofs below are checked one after another: each in a thread of its own they would pass the limit on memory.
set_option Elab.async false
namespace Sys2Proof.Machine

/-- Given `good`, the state is in form. -/
def Fit (good : Prop) (s : State) : Prop := good → s.Formed
/-- The outcome is a next state, in form given `good`. -/
def Ends (good : Prop) (o : Out) : Prop := AnswersWith o (Fit good)
/-- What an operation that may end its instruction gives: a state in form given `good`, or an outcome that ends so. -/
def Reached {α : Type} (good : Prop) (st : α → State) : Except Out α → Prop
  | .ok x => Fit good (st x)
  | .error o => Ends good o

/-- A state that an operation gives, if it gives one, is in form given `good`. -/
def Given {ε α : Type} (good : Prop) (st : α → State) (r : Except ε α) : Prop := ∀ x, r = .ok x → Fit good (st x)
/-- The state offered, if one is, is in form given `good`. -/
def Offered (good : Prop) (o : Option State) : Prop := ∀ t, o = some t → Fit good t

variable {good : Prop} {s t : State} {α ε : Type}

/-! ### Rules -/

theorem Fit.next (h : Fit good t) : Ends good (.next t) := ⟨t, rfl, h⟩
/-- The form speaks of seven fields alone: an update names those that it touches. -/
theorem Fit.same (h : Fit good s) (mem : Memory.wf s.mem = true → Memory.wf t.mem = true := by exact fun hform => hform)
    (fe : s.fe.Pairwise (· < ·) → t.fe.Pairwise (· < ·) := by exact fun hform => hform)
    (remapping : s.remapping.Pairwise (· < ·) → t.remapping.Pairwise (· < ·) := by exact fun hform => hform)
    (rows : s.rowRepair.Pairwise (· < ·) → t.rowRepair.Pairwise (· < ·) := by exact fun hform => hform)
    (rolling : s.rolling.Pairwise (· < ·) → t.rolling.Pairwise (· < ·) := by exact fun hform => hform)
    (slots : (s.slots.map (·.1)).Pairwise (· < ·) → (t.slots.map (·.1)).Pairwise (· < ·) := by exact fun hform => hform)
    (vds : (s.vds.map (·.1)).Pairwise (· < ·) → (t.vds.map (·.1)).Pairwise (· < ·) := by exact fun hform => hform) : Fit good t := fun hg =>
  have ⟨hmem, hfe, hremapping, hrows, hrolling, hslots, hvds⟩ := h hg
  ⟨mem hmem, fe hfe, remapping hremapping, rows hrows, rolling hrolling, slots hslots, vds hvds⟩
theorem Fit.ite {c : Prop} [Decidable c] {a b : State} (ha : Fit good a) (hb : Fit good b) : Fit good (if c then a else b) := by
  split
  · exact ha
  · exact hb
theorem Ends.ite {c : Prop} [Decidable c] {a b : Out} (ha : Ends good a) (hb : Ends good b) : Ends good (if c then a else b) := by
  split
  · exact ha
  · exact hb
theorem Fit.foldl {xs : List α} {f : State → α → State} (h : Fit good s) (hf : ∀ t x, Fit good t → Fit good (f t x)) :
    Fit good (xs.foldl f s) := by
  induction xs generalizing s with
  | nil => exact h
  | cons x xs ih => exact ih (hf s x h)
theorem Fit.fst {x : State × α} {a : α} (h : Fit good x.1) (e : x = (t, a)) : Fit good t := by
  rw [e] at h
  exact h
theorem Reached.ok {st : α → State} {r : Except Out α} {x : α} (h : Reached good st r) (e : r = .ok x) : Fit good (st x) := by
  rw [e] at h
  exact h
theorem Reached.error {st : α → State} {r : Except Out α} {o : Out} (h : Reached good st r) (e : r = .error o) : Ends good o := by
  rw [e] at h
  exact h

theorem Reached.ite {st : α → State} {c : Prop} [Decidable c] {a b : Except Out α} (ha : Reached good st a) (hb : Reached good st b) :
    Reached good st (if c then a else b) := by
  split
  · exact ha
  · exact hb
theorem Offered.none : Offered good none := fun _ h => nomatch h
theorem Fit.offered (h : Fit good s) : Offered good (some s) := by
  rintro _ ⟨⟩
  exact h
theorem Offered.ite {c : Prop} [Decidable c] {a b : Option State} (ha : Offered good a) (hb : Offered good b) :
    Offered good (if c then a else b) := by
  split
  · exact ha
  · exact hb
theorem Given.ok {st : α → State} {r : Except ε α} {x : α} (h : Given good st r) (e : r = .ok x) : Fit good (st x) := h x e
theorem Given.error {st : α → State} {e : ε} : Given good st (.error e) := fun _ h => nomatch h
theorem Given.value {st : α → State} {x : α} (h : Fit good (st x)) : Given good st (.ok x : Except ε α) := by
  rintro _ ⟨⟩
  exact h
theorem Fit.foldl_fst {β : Type} {xs : List α} {f : State × β → α → State × β} {x : State × β} (h : Fit good x.1)
    (hf : ∀ y a, Fit good y.1 → Fit good (f y a).1) : Fit good (xs.foldl f x).1 := by
  induction xs generalizing x with
  | nil => exact h
  | cons a xs ih => exact ih (hf x a h)

/-! ### Ordered sets and maps -/

theorem NSet.mem_insert {m : NSet} {x y : Nat} (h : y ∈ NSet.insert m x) : y = x ∨ y ∈ m := by
  induction m with
  | nil => exact .inl (List.mem_singleton.mp h)
  | cons k r ih =>
    unfold NSet.insert at h
    split at h
    · exact (List.mem_cons.mp h).imp id id
    · split at h
      · exact .inr h
      · rcases List.mem_cons.mp h with hk | hr
        · exact .inr (hk ▸ List.mem_cons_self)
        · exact (ih hr).imp id (List.mem_cons_of_mem k)
/-- A number added to a rising set leaves it rising. -/
theorem NSet.pairwise_insert {m : NSet} (x : Nat) (h : m.Pairwise (· < ·)) : (NSet.insert m x).Pairwise (· < ·) := by
  induction m with
  | nil => exact List.pairwise_singleton _ _
  | cons k r ih =>
    obtain ⟨hk, hr⟩ := List.pairwise_cons.mp h
    unfold NSet.insert
    split
    case isTrue hlt =>
      exact List.pairwise_cons.mpr ⟨fun y hy => (List.mem_cons.mp hy).elim (fun e => e ▸ hlt) fun hy => hlt.trans (hk y hy), h⟩
    case isFalse hge =>
      split
      case isTrue => exact h
      case isFalse hne =>
        refine List.pairwise_cons.mpr ⟨fun y hy => ?_, ih hr⟩
        rcases NSet.mem_insert hy with rfl | hy
        · omega
        · exact hk y hy
theorem NSet.pairwise_erase {m : NSet} (x : Nat) (h : m.Pairwise (· < ·)) : (NSet.erase m x).Pairwise (· < ·) :=
  h.sublist (NSet.erase_sublist m x)
theorem KMap.pairwise_erase {m : KMap α} (x : Nat) (h : (m.map (·.1)).Pairwise (· < ·)) :
    ((KMap.erase m x).map (·.1)).Pairwise (· < ·) := h.sublist ((KMap.erase_sublist m x).map _)
/-- Changing values keeps the keys. -/
theorem KMap.pairwise_map {m : KMap α} {f : Nat × α → Nat × α} (hf : ∀ kv, (f kv).1 = kv.1) (h : (m.map (·.1)).Pairwise (· < ·)) :
    ((m.map f).map (·.1)).Pairwise (· < ·) := by
  rw [List.map_map, show (fun kv : Nat × α => kv.1) ∘ f = (·.1) from funext hf]
  exact h

/-! ### Primitive updates -/

theorem Fit.setSlot {key : Nat} {k : Slot} (h : Fit good s) : Fit good (s.setSlot key k) := h.same (slots := KMap.pairwise_set key k)
theorem Fit.modVd {vd : Nat} {f : VDev → VDev} (h : Fit good s) : Fit good (s.modVd vd f) :=
  h.same (vds := KMap.pairwise_map fun kv => by split <;> rfl)
theorem Fit.setFe {p : Place} {full : Bool} (h : Fit good s) : Fit good (s.setFe p full) := by
  refine h.same (fe := fun hfe => ?_)
  cases full
  · exact NSet.pairwise_erase _ hfe
  · exact NSet.pairwise_insert _ hfe
theorem Fit.modCtx {ctx : Nat} {f : Slot → Slot} (h : Fit good s) : Fit good (s.modCtx ctx f) :=
  h.same (slots := KMap.pairwise_map fun _ => rfl)
/-- Laying bytes down keeps memory in form. -/
theorem Fit.lay {p : Place} {bs : List Byte} (h : Fit good s) : Fit good (s.lay p bs) := h.same (mem := Memory.wf_writeBytes bs p.key)
theorem Fit.count {pa : Nat} (h : Fit good s) : Fit good (s.count pa) :=
  Fit.ite (h.same (rolling := NSet.pairwise_insert _)) h.same
theorem Fit.uncover {kid pa : Nat} (h : Fit good s) : Fit good (s.uncover kid pa) :=
  Fit.ite (Fit.ite h h.same) ((Fit.ite h h.same).same (mem := fun hm => Memory.wf_blankRange hm _ _) (fe := fun hfe => hfe.filter _))

/-! ### Access -/

theorem Fit.modSub {b sb f} (h : Fit good s) : Fit good (s.modSub b sb f) := h.same
theorem Fit.touch {p} (h : Fit good s) : Fit good (s.touch p) := by
  unfold State.touch
  split
  · exact h.modSub
  · exact h.same
  · exact h
  · exact h
theorem Fit.wake {p} (h : Fit good s) : Fit good (s.wake p) := by
  unfold State.wake
  split
  · exact Fit.ite h.modSub h
  · split
    · exact h.same
    · exact h.same
    · exact h
    · exact h
  · exact h
  · exact h
theorem Fit.stallAt {token p} (h : Fit good s) : Fit good (s.stallAt token p) := Fit.ite h.wake h.wake.same
theorem Fit.unstall {token} (h : Fit good s) : Fit good (s.unstall token) := h.same
theorem Fit.linesWait {token gs} (h : Fit good s) : Fit good (s.linesWait token gs) :=
  Fit.ite (h.foldl (fun _ _ h1 => h1.wake)) (h.foldl (fun _ _ h1 => h1.wake)).same
theorem Fit.allocated {p on} (h : Fit good s) : Fit good (s.allocated p on) := by
  unfold State.allocated
  split
  · exact h.modSub
  · exact h
  · exact h
  · exact h
theorem Fit.accepted {p f} (h : Fit good s) (hf : ∀ x0, Fit good x0 → Fit good (f x0)) : Fit good (s.accepted p f) :=
  Fit.ite (hf _ h.allocated).allocated (hf _ h)
theorem Fit.inTurn {token p f} (h : Fit good s) (hf : ∀ x0, Fit good x0 → Fit good (f x0)) : Fit good (s.inTurn token p f) :=
  Fit.ite h.stallAt (Fit.ite (h.accepted (fun _ h1 => hf _ h1)).unstall (hf _ h))
theorem Fit.logCode {p size} (h : Fit good s) : Fit good (s.logCode p size) := by
  unfold State.logCode
  split
  · exact h
  · exact h.same
  · exact h.same
  · exact h.same
theorem Fit.openGranule {kid g} (h : Fit good s) : Fit good (s.openGranule kid g) := Fit.ite h.uncover.count h
theorem Fit.opened {kid p n} (h : Fit good s) : Fit good (s.opened kid p n) := by
  unfold State.opened
  split
  · exact h.foldl (fun _ _ h1 => h1.openGranule)
  · exact h
  · exact h
  · exact h
theorem Fit.poke {kid p bs} (h : Fit good s) : Fit good (s.poke kid p bs) := h.opened.logCode.lay
theorem Fit.writeAt {vd win p size v} (h : Fit good s) : Given good id (s.writeAt vd win p size v) := by
  unfold State.writeAt
  split
  · exact Given.error
  · exact Given.value h.poke.touch
theorem Fit.keepWalk {q e} (h : Fit good s) : Fit good (s.keepWalk q e) := Fit.ite h.same h.same
theorem Fit.translated {brick vd space lvl ea k} (h : Fit good s) : Fit good (s.translated brick vd space lvl ea k) := Fit.ite h (by
      split
      · exact h.keepWalk
      · exact h)

/-! ### Ops -/

theorem Fit.modSlot {key f} (h : Fit good s) : Fit good (s.modSlot key f) := h.setSlot
theorem Fit.choose (h : Fit good s) : Fit good s.choose.2 := h.same
theorem Fit.fresh (h : Fit good s) : Fit good s.fresh.2 := h.same
theorem Fit.modRegion {vd region f} (h : Fit good s) : Fit good (s.modRegion vd region f) := h.modVd
theorem Fit.fePerform {vd q} (h : Fit good s) : Fit good (s.fePerform vd q).1 := by
  unfold State.fePerform
  split
  · split
    · exact h.touch
    · exact h
  · split
    · exact h
    · exact h.setFe.touch
  · split
    next hs => exact (h.writeAt.ok hs).setFe
    · exact h
theorem Fit.feServe {k q} (h : Fit good s) : Fit good (s.feServe k q) := h.fePerform.modCtx
theorem Fit.feRun {key n} (h : Fit good s) : Fit good (s.feRun key n) := by
  induction n generalizing s with
  | zero => exact h
  | succ n ih =>
    unfold State.feRun
    dsimp only
    split
    · exact h
    · exact ih h.feServe.same
    · exact h.modCtx
theorem Fit.feWake {key} (h : Fit good s) : Fit good (s.feWake key) := h.accepted (fun _ h1 => h1.feRun)
theorem Fit.feJoin {key ctx} (h : Fit good s) : Fit good (s.feJoin key ctx) := h.same.feWake
theorem Fit.resvRun {key cs} (h : Fit good s) : Fit good (s.resvRun key cs) := by
  induction cs generalizing s with
  | nil => exact h.same
  | cons c cs ih =>
    unfold State.resvRun
    split
    · exact ih h
    · split
      · exact ih h
      · split
        · exact ih h.modCtx
        · exact h.same.modCtx
theorem Fit.handOnWord {key} (h : Fit good s) : Fit good (s.handOnWord key) := by
  unfold State.handOnWord
  split
  · exact h.accepted (fun _ h1 => h1.resvRun)
  · exact h
theorem Fit.handOn {k} (h : Fit good s) : Fit good (s.handOn k) := by
  unfold State.handOn
  split
  · exact h.modCtx.handOnWord
  · exact h
theorem Fit.withdraw {ctx} (h : Fit good s) : Fit good (s.withdraw ctx) := h.same
theorem Fit.release {k} (h : Fit good s) : Fit good (s.release k) := h.handOn.withdraw.unstall
theorem Fit.leave {k} (h : Fit good s) : Fit good (s.leave k) := h.release.same
theorem Fit.startSpawn {key vd e} (h : Fit good s) : Fit good (s.startSpawn key vd e) := h.fresh.setSlot
theorem Fit.fillFor {key vd} (h : Fit good s) : Fit good (s.fillFor key vd) := by
  unfold State.fillFor
  dsimp only
  split
  · exact h.same.setSlot
  · split
    · exact h.same.startSpawn
    · exact h
theorem Fit.fill {key} (h : Fit good s) : Fit good (s.fill key) := Fit.ite (by
      split
      · exact Fit.ite h.setSlot h.fillFor
      · exact h) h
theorem Fit.endThread {key} (h : Fit good s) : Fit good (s.endThread key) := Fit.ite h h.leave.same.modRegion.setSlot.fill
theorem Fit.lowerLive {vd r} (h : Fit good s) : Fit good (s.lowerLive vd r) := h.modRegion
theorem Fit.endOutside {vd rs} (h : Fit good s) : Fit good (s.endOutside vd rs) := (h.foldl fun _ _ h1 => h1.leave.lowerLive).same
theorem Fit.endArriving {vd rs} (h : Fit good s) : Fit good (s.endArriving vd rs) :=
  ((h.foldl fun _ _ h1 => h1.lowerLive).foldl fun _ _ h1 => h1.leave).same
theorem Fit.endMigrants {vd rs} (h : Fit good s) : Fit good (s.endMigrants vd rs) := (h.foldl fun _ _ h1 => h1.lowerLive).same
theorem Fit.endSpawns {vd rs} (h : Fit good s) : Fit good (s.endSpawns vd rs) := (h.foldl fun _ _ h1 => h1.lowerLive).same
theorem Fit.endOrCancel {key} (h : Fit good s) : Fit good (s.endOrCancel key) := Fit.ite h.modSlot h.endThread
theorem Fit.endSlots {vd rs} (h : Fit good s) : Fit good (s.endSlots vd rs) := h.foldl fun _ _ h1 => h1.endOrCancel
/-- The threads of some regions end: stage by stage. -/
theorem Fit.endRegions {vd rs} (h : Fit good s) : Fit good (s.endRegions vd rs) := by
  rw [State.endRegions_eq]
  exact h.endOutside.endArriving.endMigrants.endSpawns.endSlots
theorem Fit.fatalDomain {vd d} (h : Fit good s) : Fit good (s.fatalDomain vd d) := by
  unfold State.fatalDomain
  split
  · split
    · exact h.modVd.endRegions
    · exact h
  · exact h
theorem Fit.dropNotice {vd} (h : Fit good s) : Fit good (s.dropNotice vd) := h.modVd
theorem Fit.notify {vd region cause xval whre} (h : Fit good s) : Fit good (s.notify vd region cause xval whre) := by
  unfold State.notify
  split
  · exact h
  · split
    · exact h
    · exact Fit.ite (Fit.ite h.fresh.dropNotice h.same).modRegion.fatalDomain (Fit.ite h.fresh.dropNotice h.same).modRegion
theorem Fit.deferred {vd region key c xval} (h : Fit good s) : Fit good (s.deferred vd region key c xval) := h.modVd.notify
theorem Fit.deliver {key code xval} (h : Fit good s) : Fit good (s.deliver key code xval) := h.endThread.notify
theorem Fit.trapCodeAt {key code xval} (h : Fit good s) : Fit good (s.trapCodeAt key code xval) := by
  unfold State.trapCodeAt
  dsimp only
  split
  · exact Fit.ite h.deliver h.setSlot
  · exact h.deliver
theorem Fit.trapAt {key c xval} (h : Fit good s) : Fit good (s.trapAt key c xval) := h.trapCodeAt
theorem Fit.trap {c xval} (h : Fit good s) : Ends good (s.trap c xval) := h.trapAt.next
theorem Fit.trapOpen {c} (h : Fit good s) : Ends good (s.trapOpen c) := h.choose.trap
theorem Fit.completeAt {key k'} (h : Fit good s) : Fit good (s.completeAt key k') := Fit.ite h.setSlot.trapAt h.setSlot
theorem Fit.retire {f} (h : Fit good s) : Ends good (s.retire f) := h.completeAt.next
theorem Fit.retireTo {f pc} (h : Fit good s) : Ends good (s.retireTo f pc) := h.completeAt.next
theorem Fit.park {w} (h : Fit good s) : Ends good (s.park w) := h.modSlot.next
theorem Fit.waitFor {c} (h : Fit good s) : Ends good (s.waitFor c) := h.park
theorem Fit.postDemand {vd ipa va who} (h : Fit good s) : Fit good (s.postDemand vd ipa va who) := h.same
theorem Fit.demandPark {ipa va} (h : Fit good s) : Ends good (s.demandPark ipa va) := h.postDemand.park

/-! ### Errors -/

theorem Fit.log {what unit} (h : Fit good s) : Fit good (s.log what unit) := h.same
theorem Fit.healthNotice {sb addr} (h : Fit good s) : Fit good (s.healthNotice sb addr) := by
  unfold State.healthNotice
  split
  · exact h.notify
  · exact h
theorem Fit.failStack {stack} (h : Fit good s) : Fit good (s.failStack stack) :=
  (h.same.foldl (fun _ _ h1 => h1.foldl (fun _ _ h2 => h2.fatalDomain))).log
theorem Fit.retireChannel {stack ch} (h : Fit good s) : Fit good (s.retireChannel stack ch) := by
  unfold State.retireChannel
  split
  · exact Fit.ite h h.failStack
  · exact h.same.log
theorem Fit.outOfSpares {b sb} (h : Fit good s) : Fit good (s.outOfSpares b sb) := Fit.ite h h.modSub.healthNotice
theorem Fit.lastingSram {b sb g} (h : Fit good s) : Fit good (s.lastingSram b sb g) :=
  have hlog : Fit good (if (s.subBank b sb).spares < 8 then
      ({ s with remapping := NSet.insert s.remapping g }.modSub b sb fun x => { x with spares := x.spares + 1 }).log .lineRemap g else s) :=
    Fit.ite (h.same (remapping := NSet.pairwise_insert g)).modSub.log h
  Fit.ite hlog hlog.outOfSpares
theorem Fit.lastingHbm {pa} (h : Fit good s) : Fit good (s.lastingHbm pa) := by
  unfold State.lastingHbm
  exact Fit.ite (h.same (rows := NSet.pairwise_insert _)).log (Fit.ite h.same.retireChannel h.same)
theorem Fit.corrected {p} (h : Fit good s) : Fit good (s.corrected p) := by
  unfold State.corrected
  split
  · exact Fit.ite h.same.lastingSram h.same
  · exact Fit.ite h.same.lastingHbm h.same
  · exact h.same.log
  · exact h.same.log
theorem Fit.poisoned {p} (h : Fit good s) : Fit good (s.poisoned p) := h.same
theorem Fit.uncorrectable {p} (h : Fit good s) : Fit good (s.uncorrectable p) := by
  unfold State.uncorrectable
  split
  · exact h.poisoned
  · exact Fit.ite h.corrected h.poisoned.failStack
  · exact h
  · exact h
theorem Fit.lost {p} (h : Fit good s) : Fit good (s.lost p) := by
  unfold State.lost
  split
  · exact h.poisoned
  · exact h.poisoned
  · exact h
  · exact h
theorem Fit.fence {level pa} (h : Fit good s) : Fit good (s.fence level pa) := h.same.log
theorem Fit.counterAnswer {pa x} (h : Fit good s) : Fit good (s.counterAnswer pa x) := by
  unfold State.counterAnswer
  split
  · exact h.fence
  · exact h.fence
  · exact h
  · exact h
  · exact h
  · exact h
  · exact h
theorem Fit.granuleAnswer {p r} (h : Fit good s) : Fit good (s.granuleAnswer p r) := by
  unfold State.granuleAnswer
  split
  · exact h
  · exact h.corrected
  · exact h.uncorrectable
  · exact h.lost
  · split
    · exact h.counterAnswer
    · exact h
    · exact h
    · exact h
  · split
    · exact h.counterAnswer
    · exact h
    · exact h
    · exact h
  · split
    · exact h.same
    · exact h
    · exact h
    · exact h
theorem Fit.media {vd win p size wr whole r} (h : Fit good s) : Fit good (s.media vd win p size wr whole r) := by
  unfold State.media
  split
  · exact Fit.ite h h.granuleAnswer
  · exact Fit.ite h (Fit.ite (Fit.ite h.counterAnswer h) (Fit.ite h h.granuleAnswer))
  · exact h
  · exact h
theorem Fit.look {vd win p size wr whole} (h : Fit good s) : Fit good (s.look vd win p size wr whole) := by
  unfold State.look
  split
  · exact h
  · exact h.same.media
theorem Fit.looking {vd win p size wr whole go} (h : Fit good s) (hgo : ∀ x0, Fit good x0 → Ends good (go x0)) : Ends good (s.looking vd win p size wr whole go) :=
  Ends.ite (hgo _ h.look) h.look.next

/-! ### Reach -/

theorem Fit.servedAt {token p} (h : Fit good s) : Fit good (s.servedAt token p) := h.same
theorem Fit.readWords {token vd rs} (h : Fit good s) : Fit good (s.readWords token vd rs).1 := by
  induction rs generalizing s with
  | nil => exact h
  | cons r rs ih =>
    unfold State.readWords
    split
    · exact h.stallAt
    · dsimp only
      split
      · exact ih h.touch
      · split
        · exact h.touch.look
        · exact ih h.touch.look
theorem Fit.readTables {token vd rs} (h : Fit good s) : Fit good (s.readTables token vd rs).1 := by
  unfold State.readTables
  split
  next hs => exact (h.readWords.fst hs)
  next hs => exact (h.readWords.fst hs).foldl (fun _ _ h1 => h1.servedAt)
theorem Fit.walk {a ea} (h : Fit good s) : Fit good (s.walk a ea).1 := by
  unfold State.walk
  split
  · exact h
  · exact h.readTables
theorem Fit.awaitMemory {p ea} (h : Fit good s) : Ends good (s.awaitMemory p ea) := h.stallAt.waitFor
theorem Fit.walking {ea go} (h : Fit good s) (hgo : ∀ x0, Fit good x0 → Ends good (go x0)) : Ends good (s.walking ea go) := Ends.ite h.walk.next (by
      split
      · exact h.walk.awaitMemory
      · exact hgo _ h.walk)
theorem Fit.resolved {ea k go} (h : Fit good s) (hgo : ∀ x0 x1 x2, Fit good x0 → Ends good (go x0 x1 x2)) : Ends good (s.resolved ea k go) :=
  h.walking (fun _ h1 => (by
      dsimp only
      split
      · exact hgo _ _ _ h1.translated
      · exact h1.trap
      · exact h1.demandPark
      · exact h1.deliver.next))
theorem Fit.writeNotice {n r va p win} (h : Fit good s) : Fit good (s.writeNotice n r va p win) :=
  Fit.ite h.poke.poke.setFe.touch.feWake.modRegion h.poke.poke.setFe.touch.feWake.modRegion.same
theorem Fit.putNotice {n} (h : Fit good s) : Fit good (s.putNotice n).1 := by
  unfold State.putNotice
  dsimp only
  split
  · exact h
  · split
    next hs => exact (h.readTables.fst hs)
    next hs =>
      split
      · split
        · exact (h.readTables.fst hs).stallAt
        · split
          · exact (h.readTables.fst hs).look.unstall.dropNotice
          · exact (h.readTables.fst hs).look.unstall.writeNotice
      · exact (h.readTables.fst hs).dropNotice.unstall
theorem Fit.sendNotices {late ns} (h : Fit good s) : Fit good (s.sendNotices late ns) := by
  induction ns generalizing s late with
  | nil => exact h
  | cons n ns ih =>
    unfold State.sendNotices
    split
    · exact ih h
    · split
      · next hs => exact ih (h.putNotice.fst hs)
      · next hs => exact ih (h.putNotice.fst hs).same
theorem Fit.writeNotices (h : Fit good s) : Fit good s.writeNotices := h.sendNotices
theorem Fit.saveGranule {vd g w} (h : Fit good s) : Fit good (s.saveGranule vd g w).1 := by
  unfold State.saveGranule
  dsimp only
  split
  · exact h.touch.look
  · split
    · exact h.touch.look.opened.lay
    · exact h.touch.look
theorem Fit.saveGranules {vd a data gs} (h : Fit good s) : Fit good (s.saveGranules vd a data gs).1 := by
  induction gs generalizing s a data with
  | nil => exact h
  | cons g gs ih =>
    unfold State.saveGranules
    split
    · next hs => exact ih (h.saveGranule.fst hs)
    · exact h.saveGranule
theorem Fit.passage {token vd a n data} (h : Fit good s) : Fit good (s.passage token vd a n data).1 := by
  unfold State.passage
  dsimp only
  split
  · exact h.unstall.saveGranules
  · exact h.linesWait
theorem Fit.contextPassage {kind vd key off n data} (h : Fit good s) : Fit good (s.contextPassage kind vd key off n data).1 := by
  unfold State.contextPassage
  split
  · exact h.passage
  · exact h

/-! ### Control -/

theorem Fit.fetchFrom {brick p} (h : Fit good s) : Fit good (s.fetchFrom brick p).2 := by
  unfold State.fetchFrom
  dsimp only
  split
  · exact h
  · exact h.same
theorem Fit.emptyICache {brick} (h : Fit good s) : Fit good (s.emptyICache brick) := h.same
theorem Fit.fetch {key va w} (h : Fit good s) (hs : s.fetch key va = .word w t) : Fit good t := by
  unfold State.fetch at hs
  dsimp only at hs
  split at hs
  · cases hs
  · split at hs
    case h_7 =>
      split at hs
      · cases hs
      · cases hs
        exact h.fetchFrom
    all_goals cases hs
theorem Fit.fetchReady {key va} (h : Fit good s) : Fit good (s.fetchReady key va).1 := by
  unfold State.fetchReady
  dsimp only
  split
  · exact h
  · split
    next hs => exact (h.walk.fst hs)
    next hs =>
      split
      · split
        · exact (h.walk.fst hs).translated.stallAt
        · exact (h.walk.fst hs).translated.touch.servedAt.look
      · exact (h.walk.fst hs).translated
      · exact (h.walk.fst hs).translated
      · exact (h.walk.fst hs).translated
theorem ends_execIllegalInstruction {w} (h : Fit good s) : Ends good (execIllegalInstruction w s) := h.trap
theorem ends_execFetchFault (h : Fit good s) : Ends good (execFetchFault s) := by
  unfold execFetchFault
  split
  next hs => exact ((h.fetch hs)).next
  · exact h.trap
  · exact h.demandPark
  · exact h.deliver.next
theorem Fit.branch {a b o rel} (h : Fit good s) : Ends good (s.branch a b o rel) := h.retireTo
theorem ends_execBeq {a b o} (h : Fit good s) : Ends good (execBeq a b o s) := h.branch
theorem ends_execBne {a b o} (h : Fit good s) : Ends good (execBne a b o s) := h.branch
theorem ends_execBltI64 {a b o} (h : Fit good s) : Ends good (execBltI64 a b o s) := h.branch
theorem ends_execBgeI64 {a b o} (h : Fit good s) : Ends good (execBgeI64 a b o s) := h.branch
theorem ends_execBltN64 {a b o} (h : Fit good s) : Ends good (execBltN64 a b o s) := h.branch
theorem ends_execBgeN64 {a b o} (h : Fit good s) : Ends good (execBgeN64 a b o s) := h.branch
theorem ends_execJal {d o} (h : Fit good s) : Ends good (execJal d o s) := h.retireTo
theorem ends_execJalr {d a i} (h : Fit good s) : Ends good (execJalr d a i s) := h.retireTo
theorem Fit.captureBody {va n} (h : Fit good s) : Reached good (·.2) (s.captureBody va n) := by
  induction n generalizing s va with
  | zero => exact h
  | succ n ih =>
    unfold State.captureBody
    dsimp only
    split
    · exact h.fetchReady.next
    · split
      · exact h.fetchReady.awaitMemory
      · split
        · exact h.fetchReady.trap
        · exact h.fetchReady.demandPark
        · exact h.fetchReady.deliver.next
        · next hs =>
          have hfetched := h.fetchReady.fetch hs
          split
          · split
            · next hs =>
              have hrest := (ih (va := va + 4) hfetched).ok hs
              exact hrest
            · next hs => exact (ih (va := va + 4) hfetched).error hs
          · exact hfetched.trap
theorem ends_execRpt {l st n} (h : Fit good s) : Ends good (execRpt l st n s) := Ends.ite h.trap (by
      split
      next hs => exact (h.captureBody.error hs)
      next hs => exact (h.captureBody.ok hs).retireTo)

/-! ### System -/

theorem Fit.privilege {i} (h : Fit good s) : Ends good (s.privilege i) := h.trap
theorem ends_execCrd {d c} (h : Fit good s) : Ends good (execCrd d c s) := Ends.ite h.retire h.privilege
theorem Fit.refuseCwr {v} (h : Fit good s) : Ends good (s.refuseCwr v) := h.trap
theorem ends_execCwr {g c} (h : Fit good s) : Ends good (execCwr g c s) := by
  unfold execCwr
  split
  · exact h.retire
  · exact Ends.ite h.privilege (Ends.ite h.refuseCwr h.retire)
  · exact Ends.ite h.privilege h.retire
  · exact Ends.ite h.privilege (Ends.ite h.refuseCwr h.retire)
  · exact Ends.ite h.privilege h.retire
  · exact h.privilege
  · exact h.privilege
  · exact h.privilege
  · exact h.privilege
  · exact h.privilege
  · exact h.privilege
  · exact h.privilege
  · exact h.privilege
  · exact h.privilege
  · exact h.privilege
  · exact h.privilege
  · exact h.privilege
  · exact h.privilege
  · exact h.privilege
  · exact h.privilege
  · exact h.privilege
  · exact h.privilege
theorem Fit.spreadStop (h : Fit good s) : Fit good s.spreadStop.2 := h.choose
theorem ends_execCwrXvec {g} (h : Fit good s) : Ends good (execCwrXvec g s) := Ends.ite h.privilege (Ends.ite h.refuseCwr h.spreadStop.modVd.park)
theorem ends_execCwrXframe {g} (h : Fit good s) : Ends good (execCwrXframe g s) := Ends.ite h.privilege (Ends.ite h.refuseCwr h.retire)
theorem ends_execCwrSpaceid {g} (h : Fit good s) : Ends good (execCwrSpaceid g s) :=
  Ends.ite h.privilege (Ends.ite h.refuseCwr (Ends.ite h.waitFor h.retire))
theorem ends_execCwrBwphase {g} (h : Fit good s) : Ends good (execCwrBwphase g s) := by
  unfold execCwrBwphase
  refine Ends.ite h.privilege (Ends.ite h.refuseCwr ?_)
  split
  · exact h.retire
  · have hstop : Fit good (s.modVd s.me.vd fun d => { d with bwphase := (s.me.getG g).setWidth 8 }).spreadStop.2 := h.modVd.spreadStop
    exact Ends.ite hstop.same.park hstop.park
theorem Fit.blankSub {b sb} (h : Fit good s) : Fit good (s.blankSub b sb) :=
  h.same (mem := fun hm => Memory.wf_blankRange hm _ _) (fe := fun hfe => hfe.filter _)
theorem Fit.turnOff {b sb} (h : Fit good s) : Fit good (s.turnOff b sb) := h.blankSub.modSub
theorem Fit.closeSubs (h : Fit good s) : Fit good s.closeSubs := h.foldl (fun _ _ h1 => h1.turnOff)
theorem Fit.setAlloc {vd b v sb} (h : Fit good s) : Fit good (s.setAlloc vd b v sb) :=
  Fit.ite h (Fit.ite (Fit.ite h.modSub h.blankSub.modSub) (Fit.ite h.modSub h.turnOff))
theorem ends_execCwrBankmap {g} (h : Fit good s) : Ends good (execCwrBankmap g s) :=
  Ends.ite h.privilege (Ends.ite h.refuseCwr (h.foldl (fun _ _ h1 => h1.setAlloc)).retire)
theorem ends_execCwrSinv {g} (h : Fit good s) : Ends good (execCwrSinv g s) := Ends.ite h.privilege (Ends.ite h.refuseCwr h.same.park)
theorem ends_execTrap {n} (h : Fit good s) : Ends good (execTrap n s) := h.trap
theorem ends_execXret (h : Fit good s) : Ends good (execXret s) := Ends.ite h.privilege h.completeAt.next
theorem ends_execBkpt {c} (h : Fit good s) : Ends good (execBkpt c s) := Ends.ite h.modSlot.next h.trap
theorem ends_execHalt (h : Fit good s) : Ends good (execHalt s) := Ends.ite h.retire h.waitFor
theorem ends_execHaltWake {b n} (h : Fit good s) : Ends good (execHaltWake b n s) := Ends.ite h.completeAt.next h.next
theorem Fit.reachLine {ea k} (h : Fit good s) : Reached good (·.1) (s.reachLine ea k) := by
  unfold State.reachLine
  dsimp only
  split
  · next hs => exact Ends.ite (h.walk.fst hs).awaitMemory (h.walk.fst hs).next
  · next hs =>
    have hwalked := h.walk.fst hs
    split
    · exact hwalked.next
    · split
      · exact hwalked.trap
      · exact hwalked.demandPark
      · exact hwalked.trap
      · split
        · exact hwalked.translated.awaitMemory
        · split
          · exact hwalked.translated.look
          · exact hwalked.translated.look.next
theorem Fit.saveLines {ea img n} (h : Fit good s) : Reached good id (s.saveLines ea img n) := by
  induction n generalizing s ea img with
  | zero => exact h
  | succ n ih =>
    unfold State.saveLines
    split
    · next hs => exact h.reachLine.error hs
    · next hs =>
      have hreached := h.reachLine.ok hs
      split
      · exact hreached.trap
      · next hs => exact ih (hreached.writeAt.ok hs)
theorem Fit.loadLines {ea n} (h : Fit good s) : Reached good (·.2) (s.loadLines ea n) := by
  induction n generalizing s ea with
  | zero => exact h
  | succ n ih =>
    unfold State.loadLines
    split
    · next hs => exact h.reachLine.error hs
    · next hs =>
      have hreached := h.reachLine.ok hs
      split
      · exact hreached.trap
      · split
        · next hs =>
          have hrest := (ih (ea := ea + 64) hreached.touch).ok hs
          exact hrest
        · next hs => exact (ih (ea := ea + 64) hreached.touch).error hs
theorem ends_execSave {a} (h : Fit good s) : Ends good (execSave a s) :=
  Ends.ite h.privilege (Ends.ite h.trap (Ends.ite h.trap (Ends.ite h.waitFor (by
      dsimp only
      split
      next hs => exact (h.handOn.modSlot.saveLines.error hs)
      next hs => exact (h.handOn.modSlot.saveLines.ok hs).unstall.retire))))
theorem ends_execRestore {a} (h : Fit good s) : Ends good (execRestore a s) :=
  Ends.ite h.privilege (Ends.ite h.trap (Ends.ite h.trap (Ends.ite h.waitFor (by
      split
      next hs => exact (h.loadLines.error hs)
      next hs => exact Ends.ite (h.loadLines.ok hs).unstall.trap (Fit.ite (h.loadLines.ok hs).unstall (h.loadLines.ok hs).unstall.modRegion.modRegion).handOn.retireTo))))
theorem ends_execHloc {d r} (h : Fit good s) : Ends good (execHloc d r s) := h.resolved (fun _ _ _ h1 => h1.retire)

/-! ### Streams -/

theorem Fit.buffer {ea size data} (h : Fit good s) : Fit good (s.buffer ea size data) := h.fresh.modSlot
theorem Fit.aheadLine {k win pl} (h : Fit good s) : Fit good (s.aheadLine k win pl).1 := by
  unfold State.aheadLine
  dsimp only
  split <;> exact h.touch.look
theorem Fit.readAhead {k brick x i n} (h : Fit good s) : Fit good (s.readAhead k brick x i n).1 := by
  induction n generalizing s i with
  | zero => exact h
  | succ n ih =>
    unfold State.readAhead
    dsimp only
    split
    · exact h
    · split
      · split
        · exact h
        · split
          · exact ih h
          · split
            · next hs => exact h.aheadLine.fst hs
            · next hs => exact ih (h.aheadLine.fst hs)
      · exact h
theorem Fit.sendAhead {ctx p sent} (h : Fit good s) : Fit good (s.sendAhead ctx p sent) := h.foldl (fun _ _ h1 => h1.stallAt)
theorem Fit.landAhead {key p a} (h : Fit good s) : Fit good (s.landAhead key p a) := by
  unfold State.landAhead
  dsimp only
  split
  · exact h
  · refine Fit.ite h (Fit.modCtx ?_)
    split
    · split
      · exact h.unstall.aheadLine
      · exact h.unstall
    · exact h.unstall
theorem Fit.landAheads {key} (h : Fit good s) : Fit good (s.landAheads key) :=
  (h.foldl (fun _ _ h1 => h1.landAhead)).foldl (fun _ _ h1 => h1.landAhead)
theorem Fit.unstallMod {ctx key f} (h : Fit good s) : Fit good ((s.unstall ctx).modSlot key f) := h.unstall.modSlot
/-- A pop of either mode: the outcomes leave from the state before the operands, the line from the state that popped. -/
theorem Fit.pop {s0 p} (h0 : Fit good s0) (h : Fit good s) : Reached good (·.2) (State.pop s0 s p) := by
  unfold State.pop
  dsimp only
  split
  · split
    · exact h0.withdraw.trap
    · exact h0.withdraw.demandPark
    · exact h0.deliver.next
    · refine Reached.ite h0.withdraw.trap (Reached.ite h0.withdraw.trap (Reached.ite h0.waitFor (Reached.ite h0.awaitMemory ?_)))
      split
      · exact h0.withdraw.trap
      · exact Reached.ite h.setFe.touch.withdraw.feWake.modSlot.unstallMod (Fit.ite h0 h0.same).park
  · split
    · exact h.unstallMod
    · split
      · exact h0.withdraw.trap
      · exact h0.withdraw.demandPark
      · exact h0.deliver.next
      · split
        · exact h0.withdraw.trap
        · split
          · exact h.unstallMod
          · exact h0.waitFor
          · split
            · exact h0.awaitMemory
            · split
              · exact h0.withdraw.trap
              · split
                · exact h.touch.choose.readAhead.next
                · exact h.touch.choose.readAhead.modSlot.sendAhead.unstallMod
theorem Fit.popReach {p} (h : Fit good s) : Fit good (s.popReach p).1 := by
  unfold State.popReach
  dsimp only
  split
  · exact h
  · split
    next hs => exact (h.walk.fst hs)
    next hs =>
      split
      · exact Fit.ite (h.walk.fst hs).translated (h.walk.fst hs).translated.look
      · exact (h.walk.fst hs)
      · exact (h.walk.fst hs)
      · exact (h.walk.fst hs)
theorem Fit.reachPops {ps} (h : Fit good s) : Fit good (s.reachPops ps).1 := by
  induction ps generalizing s with
  | nil => exact h
  | cons p ps ih =>
    unfold State.reachPops
    split
    · next hs => exact ih (h.popReach.fst hs)
    · exact h.popReach
theorem Fit.wLegal {srcs d go} (h : Fit good s) (hgo : Ends good go) : Ends good (s.wLegal srcs d go) := by
  unfold State.wLegal
  dsimp only
  split
  · exact h.trap
  · split
    · exact h.trap
    · exact hgo
theorem Fit.notAtEnd {srcs d go} (h : Fit good s) (hgo : Ends good go) : Ends good (s.notAtEnd srcs d go) := by
  unfold State.notAtEnd
  split
  · exact h.trap
  · exact hgo
theorem Fit.wChecks {srcs d go} (h : Fit good s) (hgo : Ends good go) : Ends good (s.wChecks srcs d go) := h.wLegal (h.notAtEnd hgo)
theorem Fit.popAll {s0 ps} (h0 : Fit good s0) (h : Fit good s) : Reached good (·.2) (State.popAll s0 s ps) := by
  induction ps generalizing s with
  | nil => exact h
  | cons p ps ih =>
    unfold State.popAll
    split
    · next hs => exact (h0.pop h).error hs
    · next hs =>
      have hpopped := (h0.pop h).ok hs
      split
      · next hs => exact (ih hpopped).error hs
      · next hs =>
        have hrest := (ih hpopped).ok hs
        exact hrest
theorem Fit.popping {ps go} (h : Fit good s) (hgo : ∀ x0 x1, Fit good x1 → Ends good (go x0 x1)) : Ends good (s.popping ps go) :=
  Ends.ite h.reachPops.next (by
      split
      · exact h.reachPops.awaitMemory
      · split
        next hs => exact ((h.reachPops.popAll h.reachPops).error hs)
        next hs => exact hgo _ _ ((h.reachPops.popAll h.reachPops).ok hs))
theorem Fit.push {v} (h : Fit good s) : Fit good (s.push v) := h.buffer.modSlot
theorem Fit.pushGuard {d go} (h : Fit good s) (hgo : Ends good go) : Ends good (s.pushGuard d go) := by
  unfold State.pushGuard
  dsimp only
  split
  · exact h.trap
  · exact Ends.ite h.waitFor hgo
theorem Fit.wideRun {srcs d f fin} (h : Fit good s) : Ends good (s.wideRun srcs d f fin) :=
  h.wChecks (h.pushGuard (h.popping (fun _ _ h1 => Ends.ite h1.push.retire h1.retire)))
theorem Fit.wideTo {srcs d f} (h : Fit good s) : Ends good (s.wideTo srcs d f) := h.wideRun
theorem ends_execSbind {z p} (h : Fit good s) : Ends good (execSbind z p s) :=
  Ends.ite h.trap (Ends.ite h.trap (Ends.ite (Ends.ite h.retire (Ends.ite h.choose.readAhead.next h.choose.readAhead.sendAhead.retire)) h.retire))

/-! ### Home -/

theorem Fit.scwPerform {k q} (h : Fit good s) : Fit good (s.scwPerform k q).1 := by
  unfold State.scwPerform
  split
  · exact h
  · split
    · exact h
    · split
      next hs => exact (h.writeAt.ok hs).handOn
      · exact h.handOn
      · exact h
theorem Fit.amoPerform {vd q o sz} (h : Fit good s) : Fit good (s.amoPerform vd q o sz).1 := by
  unfold State.amoPerform
  dsimp only
  split
  · exact h
  · split
    · exact h.poke.touch
    · exact h.touch
theorem Fit.iterPerform {vd q} (h : Fit good s) : Fit good (s.iterPerform vd q).1 := by
  unfold State.iterPerform
  dsimp only
  split
  · exact h
  · split
    · exact h
    · split
      · exact h.touch
      · exact h.poke.touch
theorem Fit.genMedia {vd win pa wr r} (h : Fit good s) : Fit good (s.genMedia vd win pa wr r) :=
  Fit.ite h (Fit.ite (Fit.ite h.counterAnswer h) (Fit.ite h h.granuleAnswer))
theorem Fit.genLook {vd win pa wr} (h : Fit good s) : Fit good (s.genLook vd win pa wr) := by
  unfold State.genLook
  split
  · exact h
  · exact h.same.genMedia
theorem Fit.nextGen {win} (h : Fit good s) : Fit good (s.nextGen win) := h.same
theorem Fit.genPerform {vd q wr} (h : Fit good s) : Fit good (s.genPerform vd q wr).1 := by
  unfold State.genPerform
  split
  · exact h
  · exact Fit.ite h.nextGen h
theorem Fit.readPerform {vd q size} (h : Fit good s) : Fit good (s.readPerform vd q size).1 := by
  unfold State.readPerform
  split
  · exact h.touch
  · exact h
theorem Fit.perform {k q} (h : Fit good s) : Fit good (s.perform k q).1 := by
  unfold State.perform
  split
  · exact h.readPerform
  · exact h.readPerform
  · exact h.readPerform
  · exact h.readPerform
  · exact h.readPerform
  · exact h.fePerform
  · exact h.fePerform
  · exact h.fePerform
  · exact h.fePerform
  · exact h.scwPerform
  · exact h.amoPerform
  · exact h.iterPerform
  · exact h.genPerform
  · exact h.genPerform
  · exact h
  · exact h
  · exact h
  · exact h
  · exact h
  · exact h
  · exact h
  · exact h
  · exact h
  · exact h
theorem Fit.pushed {key : Nat} {v} (h : Fit good s) : Fit good (State.push { s with cur := key } v) := Fit.push (h.same (t := { s with cur := key }))
theorem Fit.recur {key : Nat} (h : Fit good s) : Fit good { s with cur := key } := h.same
theorem Fit.repliedAt {key} (h : Fit good s) : Fit good (State.repliedAt s key) := by
  unfold State.repliedAt
  dsimp only
  split
  · exact h
  · split
    · exact h
    · exact h
    · exact Fit.ite h.endThread (Fit.ite h.setSlot (Fit.ite (Fit.ite h.pushed.recur.completeAt h) h.completeAt))
    · exact Fit.ite h.endThread (Fit.ite h.deliver h.trapCodeAt)
theorem Fit.dropKept {kv} (h : Fit good s) : Fit good (s.dropKept kv) := h.leave.modRegion.same
theorem Fit.endKept {ctx} (h : Fit good s) : Fit good (s.endKept ctx) := by
  unfold State.endKept
  split
  · exact h.dropKept
  · exact h
theorem ends_execReplyArrive {ctx} (h : Fit good s) : Ends good (execReplyArrive ctx s) := by
  unfold execReplyArrive
  split
  · exact Ends.ite h.repliedAt.next h.next
  · exact h.endKept.next
theorem Fit.setBirtil {port b} (h : Fit good s) : Fit good (s.setBirtil port b) := h.same
theorem Fit.cross {p bs} (h : Fit good s) : Fit good (s.cross p bs) := by
  unfold State.cross
  split
  · exact h.setBirtil
  · exact h
  · exact h
  · exact h
theorem Fit.send {q} (h : Fit good s) : Ends good (s.send q) := (Fit.ite h.stallAt h).cross.modSlot.park
theorem Fit.served {q} (h : Fit good s) : Ends good (s.served q) := by
  unfold State.served
  split
  · exact h.retire
  · exact h.trapCodeAt.next
  · exact h.send
  · exact h.send
theorem Fit.request {q} (h : Fit good s) : Ends good (s.request q) := Ends.ite (h.looking (fun _ h1 => h1.perform.unstall.served)) h.send
theorem Fit.mediaFor {k q r} (h : Fit good s) : Fit good (s.mediaFor k q r) := by
  unfold State.mediaFor
  split
  · exact h.genMedia
  · exact h.genMedia
  · exact h.media
theorem Fit.serveAt {k q r} (h : Fit good s) : Fit good (s.serveAt k q r) := h.inTurn (fun _ h1 => h1.mediaFor.perform.modCtx)
theorem Fit.endWaiting {ctx} (h : Fit good s) : Fit good (s.endWaiting ctx) := by
  unfold State.endWaiting
  split
  · exact Fit.ite h.endThread h
  · exact h.endKept
  · exact h
theorem ends_execLoadAtHome {ctx r} (h : Fit good s) : Ends good (execLoadAtHome ctx r s) := by
  unfold execLoadAtHome
  split
  · exact h.serveAt.next
  · exact h.next
theorem Fit.feArrive {k q} (h : Fit good s) : Fit good (s.feArrive k q) := by
  unfold State.feArrive
  split
  · exact h.feServe.feWake
  · exact h.modCtx.feJoin
theorem ends_execFullEmptyAtHome {ctx r} (h : Fit good s) : Ends good (execFullEmptyAtHome ctx r s) := by
  unfold execFullEmptyAtHome
  split
  · exact (h.inTurn (fun _ h1 => h1.mediaFor.feArrive.endWaiting)).next
  · exact h.next
theorem Fit.resvArrive {k q} (h : Fit good s) : Fit good (s.resvArrive k q) := by
  unfold State.resvArrive
  dsimp only
  split
  · exact h.same.modCtx
  · exact h.resvRun
theorem ends_execReservationAtHome {ctx r} (h : Fit good s) : Ends good (execReservationAtHome ctx r s) := by
  unfold execReservationAtHome
  split
  · exact Ends.ite (h.inTurn (fun _ h1 => h1.mediaFor.resvArrive.endWaiting)).next h.serveAt.next
  · exact h.next
theorem ends_execReservationTimeout {g} (h : Fit good s) : Ends good (execReservationTimeout g s) := by
  unfold execReservationTimeout
  split
  · exact Ends.ite h.modCtx.handOnWord.next h.next
  · exact h.next
theorem Fit.modMsg {id f} (h : Fit good s) : Fit good (s.modMsg id f) := h.same
theorem Fit.msgError {m c} (h : Fit good s) : Fit good (s.msgError m c) := h.modMsg.deferred
theorem Fit.updatePerform {m o sz} (h : Fit good s) : Given good id (s.updatePerform m o sz) := by
  unfold State.updatePerform
  split
  · exact Given.error
  · exact Given.value h.poke.touch
theorem Fit.msgPerform {m r} (h : Fit good s) : Fit good (s.msgPerform m r) := by
  unfold State.msgPerform
  refine Fit.ite h.msgError (h.inTurn fun t ht => ?_)
  dsimp only
  split
  · next hs =>
    split at hs
    · exact (ht.media.writeAt.ok hs).modMsg
    · exact (ht.media.updatePerform.ok hs).modMsg
  · exact ht.media.msgError
theorem ends_execStoreAtHome {id r} (h : Fit good s) : Ends good (execStoreAtHome id r s) := by
  unfold execStoreAtHome
  split
  · exact Ends.ite h.msgPerform.next h.next
  · exact h.next
theorem ends_execAtomicAtHome {id r} (h : Fit good s) : Ends good (execAtomicAtHome id r s) := by
  unfold execAtomicAtHome
  split
  · exact h.serveAt.next
  · split
    · exact Ends.ite h.msgPerform.next h.next
    · exact h.next
theorem Fit.dropOrphans (h : Fit good s) : Fit good s.dropOrphans := h.same
theorem ends_execAckArrive {id} (h : Fit good s) : Ends good (execAckArrive id s) := by
  unfold execAckArrive
  split
  · exact h.same.modCtx.dropOrphans.next
  · exact h.next
theorem Fit.translateEntry {key k e} (h : Fit good s) : Fit good (s.translateEntry key k e) := by
  unfold State.translateEntry
  dsimp only
  split
  next hs => exact (h.walk.fst hs)
  next hs =>
    split
    · exact (h.walk.fst hs).modCtx.deferred
    · exact (h.walk.fst hs).modCtx.deferred
    · exact (h.walk.fst hs).postDemand.modCtx
    · exact (h.walk.fst hs).translated.modCtx
theorem Fit.translateNext {key ctx id} (h : Fit good s) : Fit good (s.translateNext key ctx id) := by
  unfold State.translateNext
  split
  · exact h
  · split
    · exact h
    · exact Fit.ite h h.translateEntry
theorem Fit.translateOldest {key k} (h : Fit good s) : Fit good (s.translateOldest key k) := h.foldl (fun _ _ h1 => h1.translateNext)
theorem Fit.depart {key k e p} (h : Fit good s) : Fit good (s.depart key k e p) := Fit.ite h.same.cross.modCtx h
theorem Fit.departOldest {key ctx} (h : Fit good s) : Fit good (s.departOldest key ctx) := by
  unfold State.departOldest
  split
  · exact h
  · split
    · exact h
    · split
      · exact h.depart
      · exact h
theorem ends_execStoreDepart {ctx} (h : Fit good s) : Ends good (execStoreDepart ctx s) := by
  unfold execStoreDepart
  split
  · exact Ends.ite h.next h.translateOldest.departOldest.next
  · exact h.next
theorem Fit.updateGo {brick m} (h : Fit good s) : Fit good (s.updateGo brick m) := by
  unfold State.updateGo
  split
  next hs => exact (h.walk.fst hs).modMsg
  next hs =>
    split
    · exact (h.walk.fst hs).msgError
    · exact (h.walk.fst hs).msgError
    · exact (h.walk.fst hs).postDemand.modMsg
    · split
      · exact (h.walk.fst hs).translated.msgError
      · exact (h.walk.fst hs).translated.cross.modMsg
      · exact (h.walk.fst hs).translated.cross.modMsg
      · exact (h.walk.fst hs).translated.cross.modMsg
theorem Fit.updatesOn (h : Fit good s) : Fit good s.updatesOn := h.foldl (fun _ _ h1 => Fit.ite h1 h1.updateGo)
theorem Fit.updateHere {id} (h : Fit good s) : Fit good (s.updateHere id) := by
  unfold State.updateHere
  split
  · exact Fit.ite h.same.msgPerform h
  · exact h

/-! ### MemInstr -/

theorem Fit.reach {ea align k go} (h : Fit good s) (hgo : ∀ x0 x1 x2, Fit good x0 → Ends good (go x0 x1 x2)) : Ends good (s.reach ea align k go) := by
  unfold State.reach
  split
  · exact h.trap
  · exact h.resolved (fun _ _ _ h1 => hgo _ _ _ h1)
theorem Fit.drained {go} (h : Fit good s) (hgo : Ends good go) : Ends good (s.drained go) := Ends.ite h.waitFor hgo
theorem Fit.drainedAck {go} (h : Fit good s) (hgo : Ends good go) : Ends good (s.drainedAck go) := Ends.ite h.waitFor hgo
theorem Fit.drainedFor {p go} (h : Fit good s) (hgo : Ends good go) : Ends good (s.drainedFor p go) := Ends.ite (h.drained hgo) (h.drainedAck hgo)
theorem Fit.behindOwn {p ea size go} (h : Fit good s) (hgo : Ends good go) : Ends good (s.behindOwn p ea size go) := Ends.ite hgo h.waitFor
theorem Fit.loadFrom {q size} (h : Fit good s) : Ends good (s.loadFrom q size) := by
  unfold State.loadFrom
  split
  · exact h.served
  · exact h.waitFor
  · exact h.request
theorem Fit.loadPush {q} (h : Fit good s) : Ends good (s.loadPush q) := by
  unfold State.loadPush
  split
  · exact h.push.retire
  · exact h.waitFor
  · exact Ends.ite (h.looking (fun _ h1 => (by
      split
      · exact h1.touch.unstall.push.retire
      · exact h1.trap))) h.send
theorem ends_execLd {m r b i} (h : Fit good s) : Ends good (execLd m r b i s) :=
  Ends.ite (h.wChecks (Ends.ite (h.pushGuard (h.reach (fun _ _ _ h1 => h1.loadPush))) (h.reach (fun _ _ _ h1 => h1.loadFrom)))) (h.reach (fun _ _ _ h1 => h1.loadFrom))
theorem Fit.storeValue {ea size v} (h : Fit good s) : Ends good (s.storeValue ea size v) := by
  unfold State.storeValue
  split
  · exact h.trap
  · exact Ends.ite h.buffer.retire h.waitFor
theorem ends_execSt {m r b i} (h : Fit good s) : Ends good (execSt m r b i s) := Ends.ite (h.wChecks (by
      split
      · exact h.trap
      · exact Ends.ite h.waitFor (h.popping (fun _ _ h1 => h1.buffer.retire)))) h.storeValue
theorem ends_execStImm {m v b i} (h : Fit good s) : Ends good (execStImm m v b i s) := h.storeValue
theorem ends_execLdr {r b i} (h : Fit good s) : Ends good (execLdr r b i s) := h.reach (fun _ _ _ h1 => h1.loadFrom)
theorem ends_execZld {z g i} (h : Fit good s) : Ends good (execZld z g i s) := h.reach (fun _ _ _ h1 => h1.loadFrom)
theorem ends_execZst {z g i} (h : Fit good s) : Ends good (execZst z g i s) := Ends.ite h.trap h.storeValue
theorem ends_execZset {z g w} (h : Fit good s) : Ends good (execZset z g w s) := Ends.ite h.trap h.retire
theorem ends_execZget {z g w} (h : Fit good s) : Ends good (execZget z g w s) := Ends.ite h.trap h.retire
theorem Fit.fullEmpty {q} (h : Fit good s) : Ends good (s.fullEmpty q) :=
  Ends.ite (h.looking (fun _ h1 => Ends.ite h1.fePerform.feWake.served h1.same.modSlot.park)) h.send
theorem Fit.feLoad {kind acc r b i} (h : Fit good s) : Ends good (s.feLoad kind acc r b i) :=
  h.reach (fun _ _ _ h1 => Ends.ite h1.trap (h1.behindOwn h1.fullEmpty))
theorem Fit.feStore {kind v b i} (h : Fit good s) : Ends good (s.feStore kind v b i) :=
  h.reach (fun _ _ _ h1 => Ends.ite h1.trap (h1.drainedFor (h1.behindOwn h1.fullEmpty)))
theorem ends_execLdff {r b i} (h : Fit good s) : Ends good (execLdff r b i s) := h.feLoad
theorem ends_execLdfe {r b i} (h : Fit good s) : Ends good (execLdfe r b i s) := h.feLoad
theorem ends_execStef {r b i} (h : Fit good s) : Ends good (execStef r b i s) := h.feStore
theorem ends_execStefImm {v b i} (h : Fit good s) : Ends good (execStefImm v b i s) := h.feStore
theorem ends_execStff {r b i} (h : Fit good s) : Ends good (execStff r b i s) := h.feStore
theorem ends_execStffImm {v b i} (h : Fit good s) : Ends good (execStffImm v b i s) := h.feStore
theorem Fit.reserve {q} (h : Fit good s) : Ends good (s.reserve q) := Ends.ite (by
      split
      · exact h.same.modSlot.park
      · exact h.looking (fun _ h1 => (by
      split
      next hs => exact (h1.readPerform.fst hs).same.retire
      next hs => exact (h1.readPerform.fst hs).served))) h.send
theorem ends_execLrw {r b i} (h : Fit good s) : Ends good (execLrw r b i s) :=
  h.reach (fun _ _ _ h1 => Ends.ite h1.trap (h1.handOn.drained (h1.handOn.behindOwn h1.handOn.reserve)))
theorem ends_execScw {r b i} (h : Fit good s) : Ends good (execScw r b i s) := h.reach (fun _ _ _ h1 => h1.drainedFor (h1.behindOwn h1.request))
theorem ends_execAmo {o sz d a b c} (h : Fit good s) : Ends good (execAmo o sz d a b c s) :=
  h.reach (fun _ _ _ h1 => Ends.ite h1.trap (h1.drainedFor (h1.behindOwn h1.request)))
theorem ends_execRupd {o sz a b} (h : Fit good s) : Ends good (execRupd o sz a b s) := by
  unfold execRupd
  dsimp only
  split
  · exact h.trap
  · exact Ends.ite h.waitFor (Ends.ite h.same.updateGo.updateHere.retire h.same.updateGo.updateHere.next)
theorem ends_execIter {b i} (h : Fit good s) : Ends good (execIter b i s) := h.reach (fun _ _ _ h1 => (by
      split
      · exact h1.trap
      · exact h1.trap
      · exact h1.drainedFor (h1.behindOwn h1.request)
      · exact h1.drainedFor (h1.behindOwn h1.request)))
theorem ends_execNest {r b i} (h : Fit good s) : Ends good (execNest r b i s) := Ends.ite h.trap h.storeValue
theorem ends_execFenceDie (h : Fit good s) : Ends good (execFenceDie s) := h.drained h.retire
theorem ends_execFencePkg (h : Fit good s) : Ends good (execFencePkg s) := h.drainedAck h.retire
theorem ends_execFenceSys (h : Fit good s) : Ends good (execFenceSys s) := h.drainedAck h.emptyICache.retire
theorem Fit.modBarrier {b n f} (h : Fit good s) : Fit good (s.modBarrier b n f) := h.same
theorem Fit.modBarrierOf {vd b n f} (h : Fit good s) : Fit good (s.modBarrierOf vd b n f) := Fit.ite h.modBarrier h.same
theorem Fit.bind {vd b n} (h : Fit good s) : Fit good (s.bind vd b n) := h.modBarrierOf
theorem ends_execPrefHbm {r b i} (h : Fit good s) : Ends good (execPrefHbm r b i s) := Ends.ite h.trapOpen (by
      split
      · exact h.trap
      · split
        · exact h.trap
        · exact h.drainedAck (Ends.ite h.waitFor h.same.bind.retire))
theorem Fit.wakeAt {ea} (h : Fit good s) : Fit good (s.wakeAt ea) := by
  unfold State.wakeAt
  dsimp only
  split
  · exact Fit.ite h.wake h
  · exact h.translated.wake
  · exact h
theorem Fit.wakeBlock {ea} (h : Fit good s) : Fit good (s.wakeBlock ea) := by
  unfold State.wakeBlock
  split
  next hs => exact (h.walk.fst hs).unstall
  next hs => exact Fit.ite (h.walk.fst hs) (h.walk.fst hs).wakeAt
theorem Fit.wakeBlocks {a n} (h : Fit good s) : Fit good (s.wakeBlocks a n) := by
  induction n generalizing s a with
  | zero => exact h
  | succ n ih => exact Fit.ite h.wakeBlock (ih h.wakeBlock)
theorem ends_execPrefWake {r b i} (h : Fit good s) : Ends good (execPrefWake r b i s) :=
  Ends.ite h.trapOpen (Ends.ite h.wakeBlocks.next h.wakeBlocks.retire)
theorem Fit.reachGen {ea wr r go} (h : Fit good s) (hgo : ∀ x0 x1, Fit good x0 → Ends good (go x0 x1)) : Ends good (s.reachGen ea wr r go) :=
  h.reach (fun _ _ _ h1 => (by
      split
      · exact Ends.ite h1.trap (Ends.ite h1.stallAt.send (Ends.ite h1.unstall.genLook.next (by
      split
      · exact h1.unstall.genLook.trap
      · exact hgo _ _ h1.unstall.genLook)))
      · exact h1.trap
      · exact h1.trap
      · exact h1.trap))
theorem ends_execWrel {r b i} (h : Fit good s) : Ends good (execWrel r b i s) := h.drainedAck (h.reachGen (fun _ _ h1 => h1.nextGen.retire))
theorem ends_execWacq {r b i} (h : Fit good s) : Ends good (execWacq r b i s) := h.reachGen (fun _ _ h1 => h1.retire)
theorem Fit.sendThread {b} (h : Fit good s) : Fit good (s.sendThread b) := h.same.setSlot.fill
theorem ends_execMigr {b i} (h : Fit good s) : Ends good (execMigr b i s) :=
  Ends.ite h.privilege (h.drainedAck (Ends.ite h.trap (Ends.ite h.waitFor (h.reach (fun _ _ _ h1 => (by
      split
      · exact h1.trap
      · exact Ends.ite h1.handOn.retire h1.handOn.sendThread.next))))))

/-! ### Sync -/

theorem Fit.loseKept {kv c} (h : Fit good s) : Fit good (s.loseKept kv c) := Fit.ite h h.choose.dropKept.notify
theorem Fit.loseContext {ctx c} (h : Fit good s) : Fit good (s.loseContext ctx c) := by
  unfold State.loseContext
  split
  · exact h.choose.deliver
  · split
    · exact h.loseKept
    · exact h
theorem Fit.addMail {ctx e} (h : Fit good s) : Fit good (s.addMail ctx e).1 := by
  unfold State.addMail
  split
  · split
    · exact h.modCtx
    · split
      next hs => exact (h.contextPassage.fst hs)
      next hs => exact (h.contextPassage.fst hs).loseContext
      next hs => exact (h.contextPassage.fst hs).modCtx
  · exact h.modCtx
theorem Fit.post {ctx lane e} (h : Fit good s) : Fit good (s.post ctx lane e) := h.same
theorem Fit.refillInbox {key n} (h : Fit good s) : Fit good (s.refillInbox key n) := by
  induction n generalizing s with
  | zero => exact h
  | succ n ih =>
    unfold State.refillInbox
    dsimp only
    split
    · exact h
    · split
      · next hs => exact h.contextPassage.fst hs
      · next hs => exact (h.contextPassage.fst hs).loseContext
      · next hs => exact ih (h.contextPassage.fst hs).modSlot
theorem ends_execMqdq {d} (h : Fit good s) : Ends good (execMqdq d s) := by
  unfold execMqdq
  dsimp only
  split
  · exact h.retire
  · exact Ends.ite h.trap h.waitFor
theorem ends_execRsync (h : Fit good s) : Ends good (execRsync s) := Ends.ite h.waitFor h.retire
theorem ends_execQuit (h : Fit good s) : Ends good (execQuit s) := Ends.ite h.trap (h.drainedAck (Ends.ite h.waitFor h.endThread.next))
theorem ends_execSpawn {d a b} (h : Fit good s) : Ends good (execSpawn d a b s) :=
  Ends.ite h.trapOpen (h.drainedAck (Ends.ite h.retire (Ends.ite h.retire h.fresh.modRegion.same.send)))
theorem Fit.place {vd target e} (h : Fit good s) : Fit good (s.place vd target e).2.2 := by
  unfold State.place
  dsimp only
  split
  · split
    · exact h.startSpawn
    · exact h
  · split
    · exact h.same
    · exact h
theorem ends_execSpawnPlace {id} (h : Fit good s) : Ends good (execSpawnPlace id s) := by
  unfold execSpawnPlace
  dsimp only
  split
  · split
    · exact (Fit.ite h.same.place.modRegion h.same.place).modCtx.next
    · exact h.same.modCtx.next
  · exact h.next
theorem Fit.arriveAt {vd b n err bound} (h : Fit good s) : Fit good (s.arriveAt vd b n err bound) :=
  Fit.ite (h.modBarrierOf.foldl (fun _ _ h1 => h1.completeAt)) h.modBarrierOf
theorem ends_execBarrierArrival {id} (h : Fit good s) : Ends good (execBarrierArrival id s) := by
  unfold execBarrierArrival
  split
  · exact Ends.ite (Fit.next (by
      split
      · exact h.same.modCtx
      · exact h.same)) (Fit.next (by
      split
      · exact h.same.arriveAt.modCtx
      · exact h.same.arriveAt))
  · exact h.next
theorem ends_execBinit {a n} (h : Fit good s) : Ends good (execBinit a n s) := Ends.ite h.trap (Ends.ite h.trap h.modBarrier.retire)
theorem ends_execBarr {a n} (h : Fit good s) : Ends good (execBarr a n s) := Ends.ite h.trap (Ends.ite h.trap (h.drainedFor h.same.send))
theorem ends_execBwait {d n} (h : Fit good s) : Ends good (execBwait d n s) := Ends.ite h.trap (Ends.ite h.retire h.park)
theorem Fit.loseArrival {b vd a c xval} (h : Fit good s) : Fit good (s.loseArrival b vd a c xval) := (Fit.modRegion (by
      split
      · exact h.leave.same
      · exact h)).notify
theorem Fit.spillPassage {kind vd b i data} (h : Fit good s) : Fit good (s.spillPassage kind vd b i data).1 := by
  unfold State.spillPassage
  split
  · exact h.passage
  · exact h
theorem Fit.spill {b vd a} (h : Fit good s) : Fit good (s.spill b vd a).1 := by
  unfold State.spill
  dsimp only
  split
  · exact h.loseArrival
  · split
    next hs => exact (h.spillPassage.fst hs)
    next hs => exact (h.spillPassage.fst hs).choose.loseArrival
    next hs => exact (h.spillPassage.fst hs).same
theorem Fit.arrive {b vd a} (h : Fit good s) : Fit good (s.arrive b vd a).1 := by
  unfold State.arrive
  dsimp only
  split
  · exact h.spill
  · split
    · split
      · exact h.setSlot
      · exact h.same
    · split
      · exact h.same
      · exact h.spill
theorem ends_execMigrationArrive {id r} (h : Fit good s) : Ends good (execMigrationArrive id r s) := by
  unfold execMigrationArrive
  dsimp only
  split
  · split
    next hs => exact (h.same.arrive.fst hs).same.next
    next hs => exact (Fit.ite (h.same.arrive.fst hs) (h.same.arrive.fst hs).same).next
  · exact h.next
theorem Fit.reenter {b vd a rest} (h : Fit good s) : Fit good (s.reenter b vd a rest).1 := by
  unfold State.reenter
  dsimp only
  split
  next hs => exact (h.spillPassage.fst hs)
  next hs =>
    split
    · exact (h.spillPassage.fst hs)
    · split
      · exact (h.spillPassage.fst hs).same.loseArrival
      · exact (h.spillPassage.fst hs).same
      · exact (h.spillPassage.fst hs).same
theorem Fit.refillArrivals {q n} (h : Fit good s) : Fit good (s.refillArrivals q n) := by
  induction n generalizing s with
  | zero => exact h
  | succ n ih =>
    unfold State.refillArrivals
    dsimp only
    split
    · split
      · exact h
      · split
        · next hs => exact h.reenter.fst hs
        · next hs =>
          have hback := h.reenter.fst hs
          apply ih
          split
          · exact hback.fillFor
          · exact hback
    · exact h
theorem Fit.refillAll (h : Fit good s) : Fit good s.refillAll := h.foldl (fun _ _ h1 => h1.refillArrivals)
theorem Fit.restartPatience {vd} (h : Fit good s) : Fit good (s.restartPatience vd) := h.same
theorem ends_execArrivalSpill {b vd} (h : Fit good s) : Ends good (execArrivalSpill b vd s) := by
  unfold execArrivalSpill
  dsimp only
  split
  · exact Ends.ite (by
      split
      next hs => exact (h.same.spill.fst hs).same.next
      next hs => exact (h.same.spill.fst hs).next) h.next
  · exact h.next

/-! ### Ring -/

theorem Fit.ringPark {e kind} (h : Fit good s) : Ends good (s.ringPark e kind) := Ends.ite h.waitFor h.modSlot.park
theorem Fit.ringReach {ea align own go} (h : Fit good s) (hgo : ∀ x0 x1, Ends good (go x0 x1)) : Ends good (s.ringReach ea align own go) := by
  unfold State.ringReach
  split
  · exact h.trap
  · exact hgo _ _
theorem Fit.ringLine {ea srcs d go} (h : Fit good s) (hgo : ∀ x0 x1, Ends good (go x0 x1)) : Ends good (s.ringLine ea srcs d go) := h.wLegal (by
      split
      · exact h.trap
      · exact h.notAtEnd (h.ringReach (fun _ _ => hgo _ _)))
theorem Fit.ringWrite {go} (h : Fit good s) (hgo : Ends good go) : Ends good (s.ringWrite go) := h.drained (Ends.ite h.waitFor hgo)
theorem Fit.boardFrom {ea r nest} (h : Fit good s) : Ends good (s.boardFrom ea r nest) :=
  h.ringReach (fun _ _ => Ends.ite h.trap (Ends.ite h.trap (h.drained h.ringPark)))
theorem ends_execRbrd {r b i} (h : Fit good s) : Ends good (execRbrd r b i s) := h.boardFrom
theorem ends_execRalt {r b i} (h : Fit good s) : Ends good (execRalt r b i s) := h.ringReach (fun _ _ => h.ringWrite h.ringPark)
theorem ends_execRcap {m r b i} (h : Fit good s) : Ends good (execRcap m r b i s) := by
  unfold execRcap
  split
  · exact h.ringReach (fun _ _ => h.ringPark)
  · exact h.ringLine (fun _ _ => h.pushGuard h.ringPark)
theorem Fit.putValue {ea v} (h : Fit good s) : Ends good (s.putValue ea v) := h.ringReach (fun _ _ => h.ringWrite h.retire)
theorem ends_execRput {m r b i} (h : Fit good s) : Ends good (execRput m r b i s) := by
  unfold execRput
  split
  · exact h.putValue
  · exact h.ringLine (fun _ _ => h.ringWrite (h.popping (fun _ _ h2 => h2.retire)))
theorem ends_execRputImm {v b i} (h : Fit good s) : Ends good (execRputImm v b i s) := h.putValue
theorem ends_execRadd {r b i} (h : Fit good s) : Ends good (execRadd r b i s) := h.ringReach (fun _ _ => h.ringWrite h.ringPark)
theorem ends_execRwait {c r b i} (h : Fit good s) : Ends good (execRwait c r b i s) := h.ringReach (fun _ _ => h.ringPark)
theorem ends_execIterRing {b i} (h : Fit good s) : Ends good (execIterRing b i s) := h.ringReach (fun _ _ => h.ringWrite h.ringPark)
theorem ends_execNestRing {r b i} (h : Fit good s) : Ends good (execNestRing r b i s) := Ends.ite h.trap h.boardFrom
theorem Fit.ringGive {k st} (h : Fit good s) : Fit good (s.ringGive k st) := by
  unfold State.ringGive
  dsimp only
  split
  · exact h.modCtx.repliedAt.dropOrphans
  · exact h.modCtx.endKept.dropOrphans
theorem Fit.ringDone {k} (h : Fit good s) : Fit good (s.ringDone k) := h.modCtx.dropOrphans
theorem Fit.boardLine {idx b line vd region altpend poison} (h : Fit good s) : Fit good (s.boardLine idx b line vd region altpend poison) :=
  h.touch.same
theorem Fit.tryBoard {b k e nest} (h : Fit good s) : Offered good (s.tryBoard b k e nest) := by
  have hgot : Fit good (match nest with
      | some l => s.poke (kidOf k.vd 0) (.sram e.brick (64 * e.line)) (lineBytes l)
      | none => s.look k.vd 0 (.sram e.brick (64 * e.line)) 64 false false) := by
    cases nest with
    | none => exact h.look
    | some l => exact h.poke
  unfold State.tryBoard
  refine Offered.ite h.unstall.ringGive.offered (Offered.ite h.unstall.ringGive.offered
    (Offered.ite Offered.none (Offered.ite h.stallAt.offered ?_)))
  exact Offered.ite hgot.unstall.boardLine.ringGive.offered hgot.unstall.offered
theorem Fit.ringPoisoned {k e} (h : Fit good s) : Fit good (s.ringPoisoned k e) := h.ringGive
theorem Fit.setPayload {idx v} (h : Fit good s) : Fit good (s.setPayload idx v) := h.same
theorem Fit.ringMissed {k e} (h : Fit good s) : Fit good (s.ringMissed k e) := Fit.ite h.ringDone.deferred h.ringGive
theorem Fit.applyHead {key k e} (h : Fit good s) (hs : s.applyHead key k e = some t) : Fit good t := by
  unfold State.applyHead at hs
  dsimp only at hs
  split at hs
  · exact h.tryBoard _ hs
  · split at hs
    · cases hs
      exact h.ringMissed
    · split at hs
      · cases hs
      · split at hs
        · cases hs
        · split at hs
          · cases hs
          · split at hs <;> cases hs
            · exact h.ringPoisoned
            · exact h.ringGive
          · split at hs <;> cases hs
            · exact h.ringDone.deferred
            · exact h.setPayload.ringDone
          · split at hs <;> cases hs
            · exact h.ringPoisoned
            · exact h.setPayload.ringGive
          · split at hs
            · cases hs
              exact h.ringPoisoned
            · split at hs
              · cases hs
                exact h.ringGive
              · split at hs <;> cases hs
                exact h.modCtx
          · split at hs
            · cases hs
              exact h.ringPoisoned
            · split at hs <;> cases hs
              · exact h.ringGive
              · exact h.setPayload.ringGive
          · split at hs <;> cases hs
            exact h.same.modCtx
theorem Fit.stationAt {b key} (h : Fit good s) : Fit good (s.stationAt b key) := h.same
theorem Fit.applyAll {key ctx n} (h : Fit good s) : Fit good (s.applyAll key ctx n) := by
  induction n generalizing s with
  | zero => exact h
  | succ n ih =>
    unfold State.applyAll
    split
    · exact h
    · split
      · split
        · split
          · next hs => exact ih (h.applyHead hs)
          · exact h
        · exact h
      · exact h
theorem Fit.applyOne {b n want} (h : Fit good s) : Fit good (s.applyOne b n want) := Fit.ite h (by
      split
      · split
        · exact Fit.ite (by
      split
      next hs => exact ((h.applyHead hs)).stationAt
      · exact h) h
        · exact h
      · exact h)
theorem ends_execRingBoardApply {b n} (h : Fit good s) : Ends good (execRingBoardApply b n s) := h.applyOne.next
theorem ends_execRingCaptureApply {b n} (h : Fit good s) : Ends good (execRingCaptureApply b n s) := h.applyOne.next
theorem ends_execRingPutApply {b n} (h : Fit good s) : Ends good (execRingPutApply b n s) := h.applyOne.next
theorem ends_execRingAddApply {b n} (h : Fit good s) : Ends good (execRingAddApply b n s) := h.applyOne.next
theorem ends_execRingWaitApply {b n} (h : Fit good s) : Ends good (execRingWaitApply b n s) := h.applyOne.next
theorem ends_execRingClaimApply {b n} (h : Fit good s) : Ends good (execRingClaimApply b n s) := h.applyOne.next
theorem ends_execRingAlightMatch {b n} (h : Fit good s) : Ends good (execRingAlightMatch b n s) := h.applyOne.next
theorem Fit.rouse {b} (h : Fit good s) : Fit good (s.rouse b) := Fit.ite h.same h
theorem Fit.writeBack {w} (h : Fit good s) : Fit good (s.writeBack w) := h.poke.touch
theorem Fit.landBack {w} (h : Fit good s) : Fit good (s.landBack w) := by
  unfold State.landBack
  have hpoison : Fit good (if w.slot.poison then { s.writeBack w with poison := NSet.insert (s.writeBack w).poison w.place.granule }
      else s.writeBack w) := Fit.ite h.writeBack.same h.writeBack
  exact Fit.ite h.writeBack.same (Fit.foldl hpoison.same fun _ _ h1 => h1.ringGive)
theorem Fit.tryBack {w} (h : Fit good s) : Fit good (s.tryBack w) := Fit.ite h.stallAt.same h.unstall.landBack
theorem Fit.takeOff {key r stow} (h : Fit good s) : Fit good (s.takeOff key r stow) := h.same.rouse.tryBack
theorem Fit.applyStation {b} (h : Fit good s) : Fit good (s.applyStation b) := (h.foldl (fun _ _ h1 => h1.applyAll)).stationAt
theorem ends_execRingAlightWriteback {ring idx} (h : Fit good s) : Ends good (execRingAlightWriteback ring idx s) := by
  unfold execRingAlightWriteback
  dsimp only
  split
  · exact Ends.ite (by
      split
      · exact h.applyStation.takeOff.next
      · exact h.applyStation.next) h.next
  · exact h.next
theorem ends_execRingStow {ring idx} (h : Fit good s) : Ends good (execRingStow ring idx s) := by
  unfold execRingStow
  dsimp only
  split
  · exact Ends.ite (by
      split
      · exact h.applyStation.takeOff.next
      · exact h.applyStation.next) h.next
  · exact h.next
theorem Fit.reboardNow {b line} (h : Fit good s) : Fit good (s.reboardNow b line) := by
  unfold State.reboardNow
  split
  · split
    · exact Fit.ite (Fit.ite h.stallAt h.unstall.boardLine) h
    · exact h
  · exact h
theorem ends_execRingReboard {b line} (h : Fit good s) : Ends good (execRingReboard b line s) := h.reboardNow.next
theorem ends_execRingMiss {ctx} (h : Fit good s) : Ends good (execRingMiss ctx s) := by
  unfold execRingMiss
  split
  · split
    · exact Ends.ite h.next h.ringMissed.next
    · exact h.next
  · exact h.next
theorem ends_execRingSlotError {ring idx e} (h : Fit good s) : Ends good (execRingSlotError ring idx e s) := by
  unfold execRingSlotError
  dsimp only
  split
  · split
    · exact h.same.log.next
    · exact h.same.next
    · exact (h.foldl (fun _ _ h1 => h1.modCtx)).same.log.healthNotice.next
  · exact h.next
theorem ends_execRingLockClear {b line} (h : Fit good s) : Ends good (execRingLockClear b line s) := by
  unfold execRingLockClear
  split
  · exact Ends.ite h.same.next h.next
  · exact h.next
theorem Fit.ringNow (h : Fit good s) : Fit good s.ringNow :=
  (((h.foldl (fun _ _ h1 => h1.applyAll)).foldl (fun _ _ h1 => h1.reboardNow)).same.foldl (fun _ _ h1 => h1.tryBack)).foldl (fun _ _ h1 => Fit.ite h1.takeOff (Fit.ite h1.takeOff h1))

/-! ### Wide -/

theorem Fit.wide2 {o f d a b} (h : Fit good s) : Ends good (s.wide2 o f d a b) := h.wideTo
theorem ends_execWadd {f d a b} (h : Fit good s) : Ends good (execWadd f d a b s) := h.wide2
theorem ends_execWsub {f d a b} (h : Fit good s) : Ends good (execWsub f d a b s) := h.wide2
theorem ends_execWmul {f d a b} (h : Fit good s) : Ends good (execWmul f d a b s) := h.wide2
theorem ends_execWmin {f d a b} (h : Fit good s) : Ends good (execWmin f d a b s) := h.wide2
theorem ends_execWmax {f d a b} (h : Fit good s) : Ends good (execWmax f d a b s) := h.wide2
theorem ends_execWand {f d a b} (h : Fit good s) : Ends good (execWand f d a b s) := h.wide2
theorem ends_execWor {f d a b} (h : Fit good s) : Ends good (execWor f d a b s) := h.wide2
theorem ends_execWxor {f d a b} (h : Fit good s) : Ends good (execWxor f d a b s) := h.wide2
theorem ends_execWshl {f d a b} (h : Fit good s) : Ends good (execWshl f d a b s) := h.wide2
theorem ends_execWshr {f d a b} (h : Fit good s) : Ends good (execWshr f d a b s) := h.wide2
theorem ends_execWsra {f d a b} (h : Fit good s) : Ends good (execWsra f d a b s) := h.wide2
theorem ends_execWaddSat {f d a b} (h : Fit good s) : Ends good (execWaddSat f d a b s) := h.wide2
theorem ends_execWsubSat {f d a b} (h : Fit good s) : Ends good (execWsubSat f d a b s) := h.wide2
theorem ends_execWabs {f d a} (h : Fit good s) : Ends good (execWabs f d a s) := h.wideTo
theorem Fit.fma {np nc f d a b c} (h : Fit good s) : Ends good (s.fma np nc f d a b c) := h.wideTo
theorem ends_execWfma {f d a b c} (h : Fit good s) : Ends good (execWfma f d a b c s) := h.fma
theorem ends_execWfms {f d a b c} (h : Fit good s) : Ends good (execWfms f d a b c s) := h.fma
theorem ends_execWfnma {f d a b c} (h : Fit good s) : Ends good (execWfnma f d a b c s) := h.fma
theorem ends_execWfnms {f d a b c} (h : Fit good s) : Ends good (execWfnms f d a b c s) := h.fma
theorem Fit.wideCmp {rel f d a b} (h : Fit good s) : Ends good (s.wideCmp rel f d a b) := h.wideTo
theorem ends_execWceq {f d a b} (h : Fit good s) : Ends good (execWceq f d a b s) := h.wideCmp
theorem ends_execWcne {f d a b} (h : Fit good s) : Ends good (execWcne f d a b s) := h.wideCmp
theorem ends_execWclt {f d a b} (h : Fit good s) : Ends good (execWclt f d a b s) := h.wideCmp
theorem ends_execWcle {f d a b} (h : Fit good s) : Ends good (execWcle f d a b s) := h.wideCmp
theorem ends_execWsel {f d a b c} (h : Fit good s) : Ends good (execWsel f d a b c s) := h.wideTo
theorem ends_execWperm {f d a b} (h : Fit good s) : Ends good (execWperm f d a b s) := h.wideTo
theorem ends_execWbcst {f d g} (h : Fit good s) : Ends good (execWbcst f d g s) := h.wideTo
theorem ends_execWmov {f d a} (h : Fit good s) : Ends good (execWmov f d a s) := h.wideTo
theorem Fit.special {o f d a} (h : Fit good s) : Ends good (s.special o f d a) := h.wideTo
theorem ends_execWsig {f d a} (h : Fit good s) : Ends good (execWsig f d a s) := h.special
theorem ends_execWexp {f d a} (h : Fit good s) : Ends good (execWexp f d a s) := h.special
theorem ends_execWrcp {f d a} (h : Fit good s) : Ends good (execWrcp f d a s) := h.special
theorem ends_execWrsq {f d a} (h : Fit good s) : Ends good (execWrsq f d a s) := h.special
theorem ends_execWtanh {f d a} (h : Fit good s) : Ends good (execWtanh f d a s) := h.special
theorem ends_execWlog {f d a} (h : Fit good s) : Ends good (execWlog f d a s) := h.special
theorem ends_execWdot {f sat p d a b c} (h : Fit good s) : Ends good (execWdot f sat p d a b c s) := h.wideTo
theorem Fit.reduce {g a r} (h : Fit good s) : Ends good (s.reduce g a r) := h.wideRun
theorem ends_execWredSum {f g a} (h : Fit good s) : Ends good (execWredSum f g a s) := h.reduce
theorem ends_execWredMin {f g a} (h : Fit good s) : Ends good (execWredMin f g a s) := h.reduce
theorem ends_execWredMax {f g a} (h : Fit good s) : Ends good (execWredMax f g a s) := h.reduce
theorem ends_execWcvt {toPivot pv f sat r d a} (h : Fit good s) : Ends good (execWcvt toPivot pv f sat r d a s) := h.wideTo
theorem ends_execWcvtScaled {toPivot pv f sat r d a g} (h : Fit good s) : Ends good (execWcvtScaled toPivot pv f sat r d a g s) := h.wideTo

/-! ### Yard -/

theorem Fit.modKiln {kn f} (h : Fit good s) : Fit good (s.modKiln kn f) := h.same
theorem Fit.markTotals (h : Fit good s) : Fit good s.markTotals := h.same
theorem Fit.enterLane {k brick lane hods} (h : Fit good s) : Fit good (s.enterLane k brick lane hods) := h.same
theorem Fit.awaitYard {die n lane share} (h : Fit good s) : Ends good (s.awaitYard die n lane share) := h.same.waitFor
theorem Fit.hire {t' z n lane} (h : Fit good s) : Ends good (s.hire t' z n lane) := by
  unfold State.hire
  dsimp only
  split
  · exact h.trap
  · exact Ends.ite h.trap (h.drainedAck (Ends.ite (Ends.ite h.same.retire (h.same.foldl (fun _ _ h1 => h1.post)).retire) (by
      split
      · exact h.awaitYard
      · exact Ends.ite h.awaitYard h.enterLane.retire)))
theorem ends_execHire {t' z l} (h : Fit good s) : Ends good (execHire t' z l s) := h.hire
theorem ends_execHiret {t' z n l} (h : Fit good s) : Ends good (execHiret t' z n l s) := h.hire
theorem Fit.modEntry {id f} (h : Fit good s) : Fit good (s.modEntry id f) := h.same
theorem Fit.saveLine {vd a bs} (h : Fit good s) : Fit good (s.saveLine vd a bs) := by
  unfold State.saveLine
  dsimp only
  split
  · exact h.touch.look
  · exact h.touch.look.poke
theorem Fit.saveBytes {vd addr n bs} (h : Fit good s) : Fit good (s.saveBytes vd addr n bs) := by
  induction n generalizing s addr bs with
  | zero => exact h
  | succ n ih => exact ih h.saveLine
theorem Fit.loadLine {vd a} (h : Fit good s) : Fit good (s.loadLine vd a).2 := by
  unfold State.loadLine
  dsimp only
  split
  · exact h.touch.look.choose
  · exact h.touch.look
theorem Fit.loadBytes {vd addr n} (h : Fit good s) : Fit good (s.loadBytes vd addr n).2 := by
  induction n generalizing s addr with
  | zero => exact h
  | succ n ih => exact ih h.loadLine
theorem Fit.setSaved {kn h' b} (h : Fit good s) : Fit good (s.setSaved kn h' b) := by
  unfold State.setSaved
  split
  · exact h.modKiln
  · exact h.modEntry
  · exact h.modEntry
theorem Fit.savePallet {kn p} (h : Fit good s) : Fit good (s.savePallet kn p) := (h.foldl (fun _ _ h1 => h1.saveBytes)).saveBytes.setSaved
theorem Fit.loadRows {vd a rs} (h : Fit good s) : Fit good (s.loadRows vd a rs).2 := by
  induction rs generalizing s with
  | nil => exact h
  | cons r rs ih =>
    have hrow : Fit good (s.loadBytes vd (a + 512 * r) 8).2 := h.loadBytes
    rw [State.loadRows]
    generalize s.loadBytes vd (a + 512 * r) 8 = x at hrow ⊢
    exact ih hrow
theorem Fit.loadPallet {vd a} (h : Fit good s) : Fit good (s.loadPallet vd a).2 := h.loadLine.loadRows
theorem Fit.usePallet {kn h'} (h : Fit good s) : Fit good (s.usePallet kn h') := h.fresh.modKiln
theorem Fit.evict {kn p} (h : Fit good s) : Fit good (s.evict kn p) := h.savePallet.modKiln
theorem Fit.ite_fst {c : Prop} [Decidable c] {a b : State × Nat} (ha : Fit good a.1) (hb : Fit good b.1) :
    Fit good (if c then a else b).1 := by
  split
  · exact ha
  · exact hb
theorem Fit.holdPallet {token kn vd p pins} (h : Fit good s) : Fit good (State.holdPallet s token kn vd p pins).1 := by
  unfold State.holdPallet
  split
  · exact h.usePallet
  · split
    · exact h
    · next v _ =>
      cases v with
      | none =>
        refine Fit.ite_fst h.linesWait ?_
        dsimp only
        split
        · exact h.unstall.loadPallet.modKiln.setSaved.usePallet
        · exact Fit.usePallet (Fit.setSaved (Fit.modKiln h.unstall))
      | some q =>
        refine Fit.ite_fst h.linesWait ?_
        dsimp only
        split
        · exact h.unstall.evict.loadPallet.modKiln.setSaved.usePallet
        · exact Fit.usePallet (Fit.setSaved (Fit.modKiln h.unstall.evict))
theorem Fit.modPallet {kn h' f} (h : Fit good s) : Fit good (s.modPallet kn h' f) := h.modKiln
theorem Fit.useLease {vd handle more} (h : Fit good s) : Fit good (s.useLease vd handle more) := h.holdPallet
theorem Fit.withLease {handle go} (h : Fit good s) (hgo : ∀ x0, Ends good (go x0)) : Ends good (s.withLease handle go) := by
  unfold State.withLease
  split
  · exact h.trap
  · exact hgo _
theorem Fit.waitingAs {u} (h : Fit good s) : Fit good (s.waitingAs u) := h.same
theorem Fit.palletWaits {vd q} (h : Fit good s) : Fit good (s.palletWaits vd q) := Fit.ite h.waitingAs h
theorem ends_execPlse {d a} (h : Fit good s) : Ends good (execPlse d a s) := Ends.ite h.trap (Ends.ite h.retire h.modKiln.retire)
theorem Fit.slice {l v r byRow go} (h : Fit good s) (hgo : ∀ x0 x1 x2, Ends good (go x0 x1 x2)) : Ends good (s.slice l v r byRow go) := by
  unfold State.slice
  split
  · exact h.trap
  · exact Ends.ite h.trap (Ends.ite h.trap (hgo _ _ _))
theorem Fit.palletPerform {vd q} (h : Fit good s) : Fit good (s.palletPerform vd q).1 := by
  unfold State.palletPerform
  split
  · exact h.useLease.modKiln
  · exact h.useLease.modPallet
  · exact h.useLease
  · exact h.useLease.useLease.modPallet
  · exact h
theorem Fit.palletDo {q} (h : Fit good s) : Ends good (s.palletDo q) :=
  Ends.ite (Ends.ite h.palletPerform.push.retire h.palletPerform.retire) h.palletWaits.modSlot.park
theorem ends_execPcfg {a b r} (h : Fit good s) : Ends good (execPcfg a b r s) := h.withLease (fun _ => Ends.ite h.trap h.palletDo)
theorem Fit.pwr {a b r w byRow} (h : Fit good s) : Ends good (s.pwr a b r w byRow) :=
  h.wLegal (h.withLease (fun _ => h.slice (fun _ _ _ => h.notAtEnd (h.popping (fun _ _ h3 => h3.palletDo)))))
theorem ends_execPwrR {a b r w} (h : Fit good s) : Ends good (execPwrR a b r w s) := h.pwr
theorem ends_execPwrC {a b r w} (h : Fit good s) : Ends good (execPwrC a b r w s) := h.pwr
theorem Fit.prd {a b r w byRow} (h : Fit good s) : Ends good (s.prd a b r w byRow) := by
  unfold State.prd
  exact h.wLegal (h.withLease (fun _ => h.slice (fun _ _ _ => h.notAtEnd (h.pushGuard h.palletDo))))
theorem ends_execPrdR {a b r w} (h : Fit good s) : Ends good (execPrdR a b r w s) := h.prd
theorem ends_execPrdC {a b r w} (h : Fit good s) : Ends good (execPrdC a b r w s) := h.prd
theorem ends_execPcpy {a b sr er} (h : Fit good s) : Ends good (execPcpy a b sr er s) := h.withLease (fun _ => h.withLease (fun _ => (by
      split
      · exact Ends.ite h.trap h.palletDo
      · exact h.trap)))
theorem Fit.freeLease {handle} (h : Fit good s) : Fit good (s.freeLease handle) := h.modKiln
theorem ends_execPfree {a} (h : Fit good s) : Ends good (execPfree a s) := h.withLease (fun _ => Ends.ite h.modKiln.modSlot.park h.freeLease.retire)
theorem Fit.freeLeases {kn} (h : Fit good s) : Fit good (s.freeLeases kn) := h.foldl (fun _ _ h1 => (by
      split
      · exact Fit.ite h1 h1.freeLease.modCtx
      · exact h1))
theorem Fit.palletServe {ctx} (h : Fit good s) : Fit good (s.palletServe ctx) := by
  unfold State.palletServe
  split
  · split
    · exact Fit.ite h (Fit.ite h.palletPerform.modCtx h.palletWaits)
    · exact h
  · exact h
theorem Fit.palletsGo (h : Fit good s) : Fit good s.palletsGo := (h.foldl (fun _ _ h1 => h1.palletServe)).foldl (fun _ _ h1 => h1.freeLeases)

/-! ### Kiln -/

theorem Fit.unitReach {u ea k} (h : Fit good s) : Fit good (s.unitReach u ea k).1 := by
  unfold State.unitReach
  dsimp only
  split
  next hs => exact (h.walk.fst hs)
  next hs =>
    split
    · exact (h.walk.fst hs).unstall
    · exact (h.walk.fst hs).unstall
    · exact (h.walk.fst hs).unstall
    · split
      · exact (h.walk.fst hs).translated.unstall
      · split
        · exact (h.walk.fst hs).translated.stallAt
        · exact (h.walk.fst hs).translated
theorem Fit.unitDo {u p win size wr whole f} (h : Fit good s) (hf : ∀ t, Fit good t → Given good (·.1) (f t)) :
    Fit good (State.unitDo s u p win size wr whole f).1 := by
  unfold State.unitDo
  have hlate : ∀ c : Bool, Fit good (if c then ((s.look u.vd win p size wr whole).unstall u.token).allocated p true
      else (s.look u.vd win p size wr whole).unstall u.token) := fun c => Fit.ite h.look.unstall.allocated h.look.unstall
  dsimp only
  split
  · next hs =>
    have hdone := (hf _ (hlate _)).ok hs
    exact Fit.ite hdone.allocated hdone
  · exact h.look.unstall
theorem Given.map {ε α β : Type} {st : α → State} {st' : β → State} {r : Except ε α} {f : α → β} (h : Given good st r)
    (hf : ∀ x, Fit good (st x) → Fit good (st' (f x))) : Given good st' (r.map f) := by
  cases r with
  | error e => exact Given.error
  | ok x => exact Given.value (hf x (h.ok rfl))
theorem Fit.unitRead {u ea size} (h : Fit good s) : Fit good (State.unitRead s u ea size).1 := by
  unfold State.unitRead
  split
  · next hs => exact (h.unitReach.fst hs).unitDo fun t ht => Given.map (st := fun _ => t) (fun _ _ => ht) fun _ h1 => h1.touch
  · next hs => exact h.unitReach.fst hs
  · next hs => exact h.unitReach.fst hs
  · next hs => exact h.unitReach.fst hs
theorem Fit.unitWrite {u ea bs} (h : Fit good s) : Fit good (s.unitWrite u ea bs).1 := by
  unfold State.unitWrite
  split
  · next hs => exact (h.unitReach.fst hs).unitDo fun t ht => ht.writeAt.map fun _ h1 => h1
  · next hs => exact h.unitReach.fst hs
  · next hs => exact h.unitReach.fst hs
  · next hs => exact h.unitReach.fst hs
theorem Fit.noteEligible (h : Fit good s) : Fit good s.noteEligible := h.same
theorem ends_execEntryAge {die} (h : Fit good s) : Ends good (execEntryAge die s) := h.same.next
theorem Fit.gatherTemp {id kn} (h : Fit good s) : Fit good (s.gatherTemp id kn).1 := by
  unfold State.gatherTemp
  dsimp only
  split
  · exact h.unstall.foldl (fun _ _ h1 => h1.evict)
  · exact h.linesWait
theorem Fit.takePallets {kn e} (h : Fit good s) : Fit good (s.takePallets kn e).1 := Fit.foldl_fst h fun _ _ h1 => h1.holdPallet
theorem Fit.passKiln {kn vd} (h : Fit good s) : Fit good (s.passKiln kn vd) := Fit.ite h h.modKiln
theorem Fit.bringPallets {kn vd e} (h : Fit good s) : Fit good (s.bringPallets kn vd e).1 := by
  unfold State.bringPallets
  split
  next hs => exact (h.passKiln.gatherTemp.fst hs)
  next hs => exact (h.passKiln.gatherTemp.fst hs).takePallets
theorem Fit.stampGrant {e} (h : Fit good s) : Fit good (s.stampGrant e) := h.same
theorem Fit.grantTo {kn moves e} (h : Fit good s) : Fit good (s.grantTo kn moves e) := h.stampGrant.choose.modKiln.modEntry.noteEligible
theorem ends_execGrant {die k} (h : Fit good s) : Ends good (execGrant die k s) := by
  unfold execGrant
  dsimp only
  split
  · exact h.next
  · refine Ends.ite h.next ?_
    split
    · split
      · next hs => exact (h.bringPallets.fst hs).grantTo.next
      · exact h.waitingAs.next
    · exact h.next
theorem Fit.pullAll {u rs d} (h : Fit good s) : Fit good (s.pullAll u rs d).1 := by
  induction rs generalizing s d with
  | nil => exact h
  | cons r rs ih =>
    unfold State.pullAll
    split
    · exact ih h
    · split
      · next hs => exact ih (h.unitRead.fst hs)
      · next hs => exact h.unitRead.fst hs
      · next hs => exact h.unitRead.fst hs
      · next hs => exact h.unitRead.fst hs
theorem Fit.holdFor {kn e h'} (h : Fit good s) : Fit good (s.holdFor kn e h') := h.holdPallet
theorem Fit.doWork {kn e h' rep d} (h : Fit good s) : Fit good (s.doWork kn e h' rep d).1 := by
  unfold State.doWork
  dsimp only
  split
  · split <;> exact h.modKiln
  · exact h.modKiln
  · split
    · exact h.holdFor.modPallet
    · exact h
  · exact h.holdFor.modPallet
  · exact h.holdFor
theorem Fit.settleEntry {id} (h : Fit good s) : Fit good (s.settleEntry id) := by
  unfold State.settleEntry
  split
  · exact h
  · exact Fit.ite h.same h
theorem Fit.leaveKiln {id} (h : Fit good s) : Fit good (s.leaveKiln id) := by
  unfold State.leaveKiln
  split
  · exact h
  · split
    · exact Fit.ite h.modKiln h
    · exact h
theorem Fit.pullFails {id hod st value} (h : Fit good s) : Fit good (s.pullFails id hod st value) := h.modEntry.leaveKiln.settleEntry.noteEligible
theorem Fit.parkTemp {id} (h : Fit good s) : Fit good (s.parkTemp id) := h.same
theorem Fit.startOn {kn e i rep begun silent go d} (h : Fit good s) : Fit good (s.startOn kn e i rep begun silent go d) := h.doWork.modEntry
theorem Fit.pullHeld {e a ipa} (h : Fit good s) : Fit good (s.pullHeld e a ipa) := h.postDemand.modEntry.parkTemp.leaveKiln.noteEligible
theorem Fit.overlapStart {kn id} (h : Fit good s) : Fit good (s.overlapStart kn id) := by
  unfold State.overlapStart
  dsimp only
  split
  · exact h
  · split
    · exact h
    · split
      · exact Fit.ite h.pullAll.modKiln.startOn h.pullAll.modKiln
      · exact h.pullAll.modKiln
      · exact h.pullAll.modKiln
      · exact h.pullAll.modKiln
theorem ends_execHodStart {id} (h : Fit good s) : Ends good (execHodStart id s) := by
  unfold execHodStart
  dsimp only
  split
  · exact h.next
  · split
    · exact Ends.ite h.next (by
      split
      · exact (Fit.ite h.pullAll.modKiln.startOn h.pullAll.modKiln.overlapStart).next
      · exact h.pullAll.modKiln.overlapStart.next
      · exact (Fit.ite h.pullAll.modKiln.pullHeld h.pullAll.modKiln).next
      · exact Ends.ite h.pullAll.modKiln.choose.pullFails.next h.pullAll.modKiln.next)
    · exact h.next
theorem Fit.landRun {u i ls} (h : Fit good s) : Fit good (s.landRun u i ls).1 := by
  induction ls generalizing s i with
  | nil => exact h
  | cons l ls ih =>
    unfold State.landRun
    split
    · next hs => exact ih (h.unitWrite.fst hs)
    · next hs => exact h.unitWrite.fst hs
theorem Fit.landFirst {e kn l} (h : Fit good s) : Fit good (s.landFirst e kn l).1 := by
  unfold State.landFirst
  have hheld : Fit good (if s.hasPallet kn (e.holderOf (e.hods.getD l.hod 0)) then s
      else (s.holdPallet (e.palletToken (e.holderOf (e.hods.getD l.hod 0))) kn e.vd (e.reloadsAs (e.holderOf (e.hods.getD l.hod 0)))
        (e.holderOf (e.hods.getD l.hod 0) :: s.runningHolders kn ++ (s.landers kn).map Entry.landHolder)).1) := Fit.ite h h.holdPallet
  dsimp only
  revert hheld
  generalize (if s.hasPallet kn (e.holderOf (e.hods.getD l.hod 0)) then s
      else (s.holdPallet (e.palletToken (e.holderOf (e.hods.getD l.hod 0))) kn e.vd (e.reloadsAs (e.holderOf (e.hods.getD l.hod 0)))
        (e.holderOf (e.hods.getD l.hod 0) :: s.runningHolders kn ++ (s.landers kn).map Entry.landHolder)).1) = held
  intro hheld
  split
  · exact hheld
  · split
    · next hs => exact (hheld.landRun.fst hs).usePallet.modEntry
    · next hs =>
      have hrun := hheld.landRun.fst hs
      split
      · exact (Fit.ite hrun hrun.usePallet).modEntry
      · exact (Fit.ite hrun hrun.usePallet).modEntry
      · exact (Fit.ite hrun hrun.usePallet).modEntry.choose.modEntry
      · exact (Fit.ite hrun hrun.usePallet).modEntry.postDemand.modEntry.parkTemp
theorem Fit.landOn {id n} (h : Fit good s) : Fit good (s.landOn id n) := by
  induction n generalizing s with
  | zero => exact h
  | succ n ih =>
    unfold State.landOn
    split
    · exact h
    · split
      · exact Fit.ite (ih h.landFirst) h.landFirst
      · exact h
theorem Fit.replayOver {id} (h : Fit good s) : Fit good (s.replayOver id) := h.modEntry
theorem Fit.land {id} (h : Fit good s) : Fit good (s.land id) := by
  unfold State.land
  split
  · exact h
  · exact (Fit.ite h.landOn h).replayOver.leaveKiln.settleEntry.noteEligible
theorem Fit.endRun {kn e r} (h : Fit good s) : Fit good (s.endRun kn e r) := (Fit.ite h.usePallet h).modEntry.modKiln
theorem ends_execHodEnd {id} (h : Fit good s) : Ends good (execHodEnd id s) := by
  unfold execHodEnd
  split
  · exact h.next
  · split
    · exact h.endRun.land.next
    · exact h.next
theorem Fit.sendNext {id} (h : Fit good s) : Fit good (s.sendNext id) := by
  unfold State.sendNext
  split
  · exact h
  · split
    · exact Fit.ite h.modVd.modEntry.post h
    · exact h
theorem ends_execHodComplete {id} (h : Fit good s) : Ends good (execHodComplete id s) := h.land.sendNext.land.next
theorem Fit.entryRetry {id pull} (h : Fit good s) : Fit good (s.entryRetry id pull) := by
  unfold State.entryRetry
  split
  · exact h
  · split
    · exact Fit.ite h.modEntry.noteEligible h
    · exact Fit.ite h h.modEntry.land
    · exact h
    · exact h
    · exact h
theorem Fit.pullFatal {e va} (h : Fit good s) : Fit good (s.pullFatal e va) := by
  unfold State.pullFatal
  split
  · exact h.pullFails
  · exact h
theorem Fit.entryFatal {id va pull} (h : Fit good s) : Fit good (s.entryFatal id va pull) := by
  unfold State.entryFatal
  split
  · exact h
  · split
    · exact Fit.ite h.pullFatal h
    · exact Fit.ite h.pullFatal (by
      split
      · exact h.modEntry.land
      · exact h)
    · exact Fit.ite h.pullFatal h
    · exact h
    · exact h

/-! ### Engines -/

theorem Fit.command {kind g a b d} (h : Fit good s) : Ends good (s.command kind g a b d) := by
  unfold State.command
  dsimp only
  cases hb : (if dBound d then some (dBar d) else none) with
  | none =>
    split
    · exact Fit.retire (Fit.same h.fresh)
    · exact Ends.ite h.fresh.retire h.fresh.post.retire
  | some n =>
    have hbound : Fit good (s.bind s.me.vd s.brick n).fresh.2 := h.bind.fresh
    split
    · exact Fit.retire (Fit.same hbound)
    · exact Ends.ite hbound.arriveAt.retire hbound.arriveAt.post.retire
theorem Fit.commandDrained {kind t' a b d} (h : Fit good s) : Ends good (s.commandDrained kind t' a b d) := Ends.ite h.modSlot.waitFor h.command
theorem Fit.checkedCommand {kind t' a b c d} (h : Fit good s) : Ends good (s.checkedCommand kind t' a b c d) :=
  Ends.ite h.trap (Ends.ite h.trap (Ends.ite h.trap (Ends.ite h.trap (Ends.ite h.trap h.commandDrained))))
theorem Fit.engineCommand {kind t' a b c} (h : Fit good s) : Ends good (s.engineCommand kind t' a b c) := by
  unfold State.engineCommand
  dsimp only
  split
  · exact h.checkedCommand
  · exact h.reach (fun _ _ _ h1 => (by
      split
      · exact h1.checkedCommand
      · exact h1.waitFor
      · exact Ends.ite h1.stallAt.send (h1.unstall.looking (fun _ h2 => (by
      split
      · exact h2.touch.checkedCommand
      · exact h2.trap)))))
theorem ends_execCpy {t' a b c} (h : Fit good s) : Ends good (execCpy t' a b c s) := h.engineCommand
theorem ends_execGath {t' a b c} (h : Fit good s) : Ends good (execGath t' a b c s) := h.engineCommand
theorem ends_execScat {t' a b c} (h : Fit good s) : Ends good (execScat t' a b c s) := h.engineCommand
theorem ends_execColl {t' a b c} (h : Fit good s) : Ends good (execColl t' a b c s) := h.engineCommand
theorem Fit.modCmd {id f} (h : Fit good s) : Fit good (s.modCmd id f) := h.same
/-- The machine as the copy of a line leaves it. -/
def LineEnd.state : LineEnd → State
  | .moved s _ => s
  | .ended s _ _ _ => s
theorem Fit.lineWrite {c ea v} (h : Fit good s) : Fit good (s.lineWrite c ea v).state := by
  unfold State.lineWrite
  split
  · next hs => exact h.unitWrite.fst hs
  · next hs => exact h.unitWrite.fst hs
theorem Fit.lineRead {c ea size go} (h : Fit good s) (hgo : ∀ t v, Fit good t → Fit good (go t v).state) :
    Fit good (s.lineRead c ea size go).state := by
  unfold State.lineRead
  split
  · next hs => exact hgo _ _ (h.unitRead.fst hs)
  · next hs => exact h.unitRead.fst hs
theorem Fit.lineGot {c ea go} (h : Fit good s) (hgo : ∀ t v, Fit good t → Fit good (go t v).state) :
    Fit good (s.lineGot c ea go).state := by
  unfold State.lineGot
  split
  · exact hgo _ _ h
  · exact h.lineRead hgo
theorem Fit.copyLine {c r q l} (h : Fit good s) : Fit good (s.copyLine c r q l).state := by
  unfold State.copyLine
  exact h.lineGot fun _ _ h1 => h1.lineWrite
theorem Fit.rowIndex {c r go} (h : Fit good s) (hgo : ∀ t c x, Fit good t → Fit good (go t c x).state) :
    Fit good (s.rowIndex c r go).state := by
  unfold State.rowIndex
  split
  · exact hgo _ _ _ h
  · exact h.lineRead fun _ _ h1 => hgo _ _ _ h1
theorem LineEnd.state_rowDone (per : Nat) (r : LineEnd) : (r.rowDone per).state = r.state := by cases r <;> rfl
theorem Fit.prefLine {c} (h : Fit good s) : Fit good (s.prefLine c).state := by
  unfold State.prefLine
  dsimp only
  split
  · exact h
  · exact h
  · exact h
  · exact h.lineGot fun _ _ h1 => h1.lineWrite
theorem Fit.oneLine {c r} (h : Fit good s) (hs : s.oneLine c = r) : Fit good r.state := by
  subst hs
  unfold State.oneLine
  dsimp only
  split
  · exact h.copyLine
  · rw [LineEnd.state_rowDone]
    exact h.rowIndex fun _ _ _ h1 => h1.copyLine
  · rw [LineEnd.state_rowDone]
    exact h.rowIndex fun _ _ _ h1 => h1.copyLine
  · exact h.lineWrite
  · exact h.lineRead fun _ _ h1 => h1
  · exact h.prefLine
theorem Fit.moveLines {c n} (h : Fit good s) : Fit good (s.moveLines c n) := by
  induction n generalizing s c with
  | zero => exact h.modCmd
  | succ n ih =>
    unfold State.moveLines
    split
    · exact h.modCmd
    · split
      · next hs => exact ih (h.oneLine hs)
      · next hs => exact (h.oneLine hs).modCmd
      · next hs => exact (h.oneLine hs).postDemand.modCmd
      · next hs => exact (h.oneLine hs).choose.modCmd
      · next hs => exact (h.oneLine hs).modCmd
theorem Fit.runCmd {c} (h : Fit good s) : Fit good (s.runCmd c) := h.moveLines
theorem ends_execEngineCommandStart {id} (h : Fit good s) : Ends good (execEngineCommandStart id s) := by
  unfold execEngineCommandStart
  split
  · exact Ends.ite h.runCmd.next h.next
  · exact h.next
theorem ends_execEngineComplete {id} (h : Fit good s) : Ends good (execEngineComplete id s) := by
  unfold execEngineComplete
  split
  · split
    · next c _ _ =>
      have hposted : ∀ e, Fit good (({ s with cmds := s.cmds.filter fun x => decide (x.id ≠ id) }.modVd c.vd fun v =>
          { v with enginesDone := v.enginesDone + 1 }).post c.ctx (some c.lane) e) := fun e =>
        Fit.post (Fit.modVd (h.same (t := { s with cmds := s.cmds.filter fun x => decide (x.id ≠ id) })))
      dsimp only
      split
      · exact Fit.next (Fit.same (hposted ⟨inboxWord c.ticket 0 c.status c.kind.code, wrap c.value⟩))
      · exact Fit.next (hposted _)
    · exact h.next
  · exact h.next
theorem ends_execPrefComplete {id} (h : Fit good s) : Ends good (execPrefComplete id s) := by
  unfold execPrefComplete
  dsimp only
  split
  · exact Ends.ite (by
      split
      · exact Ends.ite (Fit.ite h.runCmd h).same.modCtx.arriveAt.next (Fit.ite h.runCmd h).next
      · exact (Fit.ite h.runCmd h).next) h.next
  · exact h.next
theorem Fit.stallNotice {g cmd} (h : Fit good s) : Fit good (s.stallNotice g cmd) := by
  unfold State.stallNotice
  split
  · exact h.post.notify
  · exact h
theorem Fit.stallAll {g} (h : Fit good s) : Fit good (s.stallAll g) := (h.foldl (fun _ _ h1 => h1.stallNotice)).same
theorem Fit.completeInst {g} (h : Fit good s) : Fit good (s.completeInst g) := h.same.foldl (fun _ _ h1 => (by
      dsimp only
      split
      · exact h1.modCmd.runCmd
      · exact h1.modCmd))
theorem Fit.joinInst {g c} (h : Fit good s) : Fit good (s.joinInst g c) :=
  Fit.ite (Fit.ite h.same.modCmd.stallAll h.same.modCmd).completeInst (Fit.ite h.same.modCmd.stallAll h.same.modCmd)
theorem ends_execCollArrive {id} (h : Fit good s) : Ends good (execCollArrive id s) := by
  unfold execCollArrive
  split
  · exact Ends.ite h.next (by
      split
      · exact Ends.ite h.joinInst.next h.modCmd.next
      · exact h.same.joinInst.next)
  · exact h.next
theorem ends_execCollPatienceExpiry {id} (h : Fit good s) : Ends good (execCollPatienceExpiry id s) := by
  unfold execCollPatienceExpiry
  split
  · exact Ends.ite h.stallAll.next h.next
  · exact h.next
theorem Fit.leaveLanes (h : Fit good s) : Fit good s.leaveLanes := h.same
theorem ends_execInboxEntryArrive {id} (h : Fit good s) : Ends good (execInboxEntryArrive id s) := by
  unfold execInboxEntryArrive
  dsimp only
  split
  · exact Ends.ite (by
      split
      next hs => exact (h.addMail.fst hs).next
      next hs =>
        split
        · exact Ends.ite (h.addMail.fst hs).same.leaveLanes.completeAt.next (h.addMail.fst hs).same.leaveLanes.next
        · exact (h.addMail.fst hs).same.leaveLanes.next) h.next
  · exact h.next

/-! ### Demand -/

theorem Fit.tableWrites {ws} (h : Fit good s) : Fit good (s.tableWrites ws) :=
  h.foldl fun _ _ h1 => Fit.ite (h1.same (mem := Memory.wf_writeBytes _ _)) h1
theorem Fit.writeTables {ws} (h : Fit good s) : Fit good (s.writeTables ws) := Fit.ite h.tableWrites h
theorem Fit.dropDemand {d} (h : Fit good s) : Fit good (s.dropDemand d) := h.same.modVd
theorem Fit.retryFor {d} (h : Fit good s) : Fit good (s.retryFor d) := by
  unfold State.retryFor
  split
  · exact h.modCtx
  · exact h.modCtx
  · split
    · exact h.modMsg.updateGo
    · exact h
  · exact h.modCmd
  · exact h.entryRetry
  · exact h.entryRetry
theorem ends_execDemandFaultRetry {id ws} (h : Fit good s) : Ends good (execDemandFaultRetry id ws s) := by
  unfold execDemandFaultRetry
  split
  · exact h.dropDemand.writeTables.retryFor.next
  · exact h.next
theorem Fit.moveOut {key k} (h : Fit good s) : Fit good (s.moveOut key k) := h.release.same.setSlot.fill
theorem Fit.hold {key k} (h : Fit good s) : Fit good (s.hold key k) := by
  unfold State.hold
  split
  next hs => exact (h.contextPassage.fst hs)
  next hs => exact (h.contextPassage.fst hs).loseContext
  next hs => exact (h.contextPassage.fst hs).moveOut
theorem Fit.longHold {d} (h : Fit good s) : Fit good (s.longHold d) := by
  unfold State.longHold
  split
  · split
    · exact Fit.ite h.hold h
    · exact h
  · split
    · exact Fit.ite h.hold h
    · exact h
  · exact h
  · exact h
  · exact h
  · exact h
theorem Fit.longHolds (h : Fit good s) : Fit good s.longHolds := h.foldl (fun _ _ h1 => h1.longHold)
theorem ends_execDemandFaultLong {id} (h : Fit good s) : Ends good (execDemandFaultLong id s) := by
  unfold execDemandFaultLong
  split
  · exact h.next
  · exact h.same.longHold.next
theorem Fit.reinject {c} (h : Fit good s) : Fit good (s.reinject c).1 := by
  unfold State.reinject
  dsimp only
  split
  · split
    next hs => exact (h.contextPassage.fst hs)
    next hs => exact (h.contextPassage.fst hs).loseKept
    next hs => exact (h.contextPassage.fst hs).same.arrive
  · exact h
theorem Fit.bringBack {c} (h : Fit good s) : Fit good (s.bringBack c) := by
  unfold State.bringBack
  split
  next hs => exact (h.reinject.fst hs).same
  next hs => exact (h.reinject.fst hs).same
theorem Fit.bringAllBack (h : Fit good s) : Fit good s.bringAllBack := h.foldl (fun _ _ h1 => h1.bringBack)
theorem ends_execPagePresent {id ws} (h : Fit good s) : Ends good (execPagePresent id ws s) := by
  unfold execPagePresent
  split
  · exact h.next
  · exact Ends.ite h.next (by
      split
      · exact h.dropDemand.writeTables.retryFor.bringBack.next
      · exact h.dropDemand.writeTables.retryFor.bringBack.next
      · exact h.dropDemand.writeTables.retryFor.next
      · exact h.dropDemand.writeTables.retryFor.next
      · exact h.dropDemand.writeTables.retryFor.next
      · exact h.dropDemand.writeTables.retryFor.next)
theorem Fit.deliverCtx {c code xval} (h : Fit good s) : Fit good (s.deliverCtx c code xval) := by
  unfold State.deliverCtx
  split
  · exact h.deliver
  · split
    · exact h.leave.same.modRegion.notify
    · exact h
theorem ends_execDemandFaultFatal {id} (h : Fit good s) : Ends good (execDemandFaultFatal id s) := by
  unfold execDemandFaultFatal
  dsimp only
  split
  · exact h.next
  · split
    · exact h.dropDemand.deliverCtx.next
    · split
      · exact (h.dropDemand.modCtx.foldl (fun _ _ h1 => h1.deferred)).dropOrphans.next
      · exact h.dropDemand.next
    · split
      · exact h.dropDemand.msgError.next
      · exact h.dropDemand.next
    · exact h.dropDemand.modCmd.next
    · exact h.dropDemand.entryFatal.next
    · exact h.dropDemand.entryFatal.next
theorem Fit.placeHandler {vd d whre va} (h : Fit good s) : Fit good (s.placeHandler vd d whre va) := by
  unfold State.placeHandler
  split
  · exact h
  · exact Fit.ite h.fatalDomain (Fit.ite h.modRegion.place.modRegion.fatalDomain h.modRegion.place)
theorem ends_execFaultHandlerPlace {vd} (h : Fit good s) : Ends good (execFaultHandlerPlace vd s) := by
  unfold execFaultHandlerPlace
  split
  · exact (Fit.ite h.same h.same.placeHandler).next
  · exact h.next

/-! ### Boot -/

theorem Fit.wiped (h : Fit good s) : Fit good s.wiped :=
  h.same (mem := Mem.wfFrom_filter _) (fe := fun hfe => hfe.filter _) (remapping := fun _ => .nil) (rows := fun _ => .nil)
    (rolling := fun _ => .nil) (slots := fun _ => .nil) (vds := fun _ => .nil)
theorem Fit.deviceReset (h : Fit good s) : Fit good s.deviceReset := h.wiped.same.foldl (fun _ _ h1 => h1.log)
theorem ends_execColdReset (h : Fit good s) : Ends good (execColdReset s) := h.deviceReset.next
theorem ends_execDrstGo (h : Fit good s) : Ends good (execDrstGo s) := h.deviceReset.next
theorem ends_execPfFunctionLevelReset (h : Fit good s) : Ends good (execPfFunctionLevelReset s) := h.deviceReset.next
theorem ends_execThermalTrip (h : Fit good s) : Ends good (execThermalTrip s) := h.deviceReset.next
theorem ends_execWatchdogReset (h : Fit good s) : Ends good (execWatchdogReset s) := Ends.ite h.same.deviceReset.next h.next
theorem ends_execLifeCycleChange {c} (h : Fit good s) : Ends good (execLifeCycleChange c s) := Ends.ite h.same.deviceReset.next h.next
theorem ends_execRcmdGo {v} (h : Fit good s) : Ends good (execRcmdGo v s) := Ends.ite h.next (by
      split
      · exact Ends.ite h.same.deviceReset.next h.same.next
      · exact h.same.next)
theorem ends_execHealthReport (h : Fit good s) : Ends good (execHealthReport s) := Ends.ite h.same.next h.next

/-! ### Power -/

theorem Fit.modIsland {i f} (h : Fit good s) : Fit good (s.modIsland i f) := h.same
theorem ends_execIslandStart {isl} (h : Fit good s) : Ends good (execIslandStart isl s) := Ends.ite h.same.next h.next
theorem Fit.enableKiln {k} (h : Fit good s) : Fit good (s.enableKiln k) := Fit.ite h.modKiln h
theorem Fit.allReady (h : Fit good s) : Fit good s.allReady := Fit.ite (Fit.ite h.same h.same) h
theorem ends_execIslandReady {isl} (h : Fit good s) : Ends good (execIslandReady isl s) := by
  unfold execIslandReady
  split
  · exact Ends.ite h.next (Ends.ite h.same.next (Fit.ite h.modIsland.enableKiln h.modIsland).allReady.next)
  · exact h.next
  · exact h.next
  · exact h.next
  · exact h.next
  · exact h.next
  · exact h.next
theorem ends_execKilnEnable {k} (h : Fit good s) : Ends good (execKilnEnable k s) := h.enableKiln.next
theorem ends_execIslandEnterHold {isl} (h : Fit good s) : Ends good (execIslandEnterHold isl s) := Ends.ite h.modIsland.next h.next
theorem ends_execIslandLeaveHold {isl} (h : Fit good s) : Ends good (execIslandLeaveHold isl s) := Ends.ite h.modIsland.next h.next
theorem Fit.darken {i} (h : Fit good s) : Fit good (s.darken i) := h.same
theorem ends_execIslandEnterOff {isl} (h : Fit good s) : Ends good (execIslandEnterOff isl s) := Ends.ite h.darken.modIsland.next h.next
theorem ends_execPowerSample {mw} (h : Fit good s) : Ends good (execPowerSample mw s) := Ends.ite h.next (Ends.ite (by
      split
      · exact h.same.modIsland.next
      · exact h.same.next) (Ends.ite (by
      split
      · exact h.same.modIsland.next
      · exact h.same.next) h.same.next))
theorem ends_execThermalHold {die} (h : Fit good s) : Ends good (execThermalHold die s) := (h.foldl (fun _ _ h1 => h1.modIsland)).next
theorem ends_execKilnPointSwitch {k} (h : Fit good s) : Ends good (execKilnPointSwitch k s) := Ends.ite h.modIsland.next h.next

/-! ### Upkeep -/

theorem ends_execHashmaskWrite {stack v} (h : Fit good s) : Ends good (execHashmaskWrite stack v s) := Ends.ite h.same.next h.next
theorem ends_execChannelRebuildComplete {stack} (h : Fit good s) : Ends good (execChannelRebuildComplete stack s) := h.same.next
theorem Fit.moveGranules {n} (h : Fit good s) : Fit good (s.moveGranules n) := h.same
theorem ends_execHypInvalidate {vd v} (h : Fit good s) : Ends good (execHypInvalidate vd v s) := Ends.ite h.writeTables.same.next h.next
theorem Fit.emptyAllICaches (h : Fit good s) : Fit good s.emptyAllICaches := h.same
theorem Fit.invalidated {id c} (h : Fit good s) : Fit good (s.invalidated id c) := by
  unfold State.invalidated
  split
  · exact Fit.ite h.completeAt h
  · exact h.modCtx
theorem ends_execInvalidateComplete {id} (h : Fit good s) : Ends good (execInvalidateComplete id s) := by
  unfold execInvalidateComplete
  split
  · exact h.next
  · exact Ends.ite (Fit.next (by
      split
      · exact h.same.invalidated
      · exact h.same)) h.next
theorem ends_execPatrolScrub {g r} (h : Fit good s) : Ends good (execPatrolScrub g r s) := by
  unfold execPatrolScrub
  split
  · exact h.next
  · exact h.corrected.next
  · exact h.uncorrectable.next
  · exact h.lost.next
theorem Fit.migrateSub {b sb} (h : Fit good s) : Fit good (s.migrateSub b sb) := h.same
theorem Fit.wakeWaiters {b sb} (h : Fit good s) : Fit good (s.wakeWaiters b sb) := h.foldl (fun _ _ h1 => h1.feWake)
theorem ends_execSubbankWithdraw {b sb} (h : Fit good s) : Ends good (execSubbankWithdraw b sb s) :=
  Ends.ite h.migrateSub.blankSub.modSub.log.wakeWaiters.next h.next
theorem ends_execSpareLineRemapDone {b sb g} (h : Fit good s) : Ends good (execSpareLineRemapDone b sb g s) :=
  Ends.ite (h.same (remapping := NSet.pairwise_erase _)).next h.next
theorem ends_execSpareRowRepairDone {g} (h : Fit good s) : Ends good (execSpareRowRepairDone g s) :=
  Ends.ite (h.same (rows := fun hrows => hrows.filter _)).next h.next
theorem ends_execMajorRolloverDone {blk} (h : Fit good s) : Ends good (execMajorRolloverDone blk s) :=
  (h.same (rolling := NSet.pairwise_erase _)).next
theorem ends_execSubbankRetention {b sb} (h : Fit good s) : Ends good (execSubbankRetention b sb s) := by
  unfold execSubbankRetention
  split
  · exact h.next
  · exact Ends.ite h.modSub.next h.next
theorem ends_execSubbankWakeDone {b sb} (h : Fit good s) : Ends good (execSubbankWakeDone b sb s) := Ends.ite h.modSub.next h.next
theorem ends_execSubbankPowerUpDone {b sb} (h : Fit good s) : Ends good (execSubbankPowerUpDone b sb s) := Ends.ite h.modSub.next h.next
theorem ends_execPchPowerDown {p} (h : Fit good s) : Ends good (execPchPowerDown p s) := Ends.ite h.same.next h.next
theorem ends_execPchSelfRefresh {p} (h : Fit good s) : Ends good (execPchSelfRefresh p s) := Ends.ite h.same.next h.next
theorem ends_execPchWakeDone {p} (h : Fit good s) : Ends good (execPchWakeDone p s) := Ends.ite h.same.next h.next

/-! ### Keys -/

theorem Fit.answer {call st} (h : Fit good s) : Fit good (s.answer call st) := h.same
theorem Fit.keyCall {call go} (h : Fit good s) (hgo : Fit good go.2) : Ends good (s.keyCall call go) := Ends.ite hgo.answer.next h.next
theorem Fit.eraseKey {kid who} (h : Fit good s) : Fit good (s.eraseKey kid who) := h.same
theorem Fit.clearUnits {kid} (h : Fit good s) : Fit good (s.clearUnits kid) := h.same
theorem Fit.newKey {kid} (h : Fit good s) : Fit good (s.newKey kid) := h.same
theorem ends_execVdkey {vd} (h : Fit good s) : Ends good (execVdkey vd s) := h.keyCall (by
      split
      · exact h
      · split
        · exact h
        · split
          · exact h
          · exact h.newKey)
theorem ends_execVderase {vd} (h : Fit good s) : Ends good (execVderase vd s) :=
  Ends.ite h.next (Ends.ite h.answer.next (Ends.ite h.answer.next h.eraseKey.next))
theorem ends_execWinopen {w units ms creator} (h : Fit good s) : Ends good (execWinopen w units ms creator s) := h.keyCall (by
      split
      · exact h
      · split
        · exact h
        · exact h.same)
theorem ends_execWinmembers {w ms} (h : Fit good s) : Ends good (execWinmembers w ms s) := Ends.ite h.next (by
      split
      · exact h.answer.next
      · split
        · exact h.answer.next
        · exact h.answer.next
        · exact Ends.ite h.answer.next (Ends.ite h.answer.next (Ends.ite h.answer.next h.same.next)))
theorem ends_execRekeyDrained {w} (h : Fit good s) : Ends good (execRekeyDrained w s) := by
  unfold execRekeyDrained
  split
  · exact h.next
  · exact Ends.ite h.same.next h.next
theorem Fit.rekeyOn {n} (h : Fit good s) : Fit good (s.rekeyOn n) := h.same
theorem ends_execRekeyClose {w} (h : Fit good s) : Ends good (execRekeyClose w s) := by
  unfold execRekeyClose
  split
  · exact h.next
  · exact Ends.ite h.same.answer.next h.next
theorem ends_execWinclose {w} (h : Fit good s) : Ends good (execWinclose w s) :=
  Ends.ite h.next (Ends.ite h.answer.next (Ends.ite h.answer.next h.eraseKey.next))
theorem Fit.zeroSaved {vd} (h : Fit good s) : Fit good (s.zeroSaved vd) :=
  (h.foldl fun _ _ h1 => h1.withdraw).same (slots := KMap.pairwise_map fun kv => by split <;> rfl)
theorem Fit.erasedFor {x} (h : Fit good s) : Fit good (s.erasedFor x) := by
  unfold State.erasedFor
  split
  · exact h.answer
  · exact h.same.answer
  · exact h
theorem ends_execAttest {vd nonce} (h : Fit good s) : Ends good (execAttest vd nonce s) := h.keyCall (by
      split
      · exact h
      · exact h.same)
theorem ends_execSpdmGetMeasurements {f} (h : Fit good s) : Ends good (execSpdmGetMeasurements f s) := h.same.next

/-! ### Net -/

theorem Fit.modEth {port f} (h : Fit good s) : Fit good (s.modEth port f) := h.same
theorem Fit.setSteer {qn q} (h : Fit good s) : Fit good (s.setSteer qn q) := h.same
theorem Fit.writeFrame {q x} (h : Fit good s) : Fit good (s.writeFrame q x) := h.poke.poke.poke.touch.setFe.feWake.setSteer
theorem Fit.putFrame {x} (h : Fit good s) : Fit good (s.putFrame x).1 := by
  unfold State.putFrame
  dsimp only
  split
  · exact h
  · split
    · exact h.stallAt
    · split
      · exact h.unstall.setSteer
      · exact h.unstall.writeFrame
theorem Fit.queueFrame {qn q port rule f} (h : Fit good s) : Fit good (s.queueFrame qn q port rule f) := Fit.ite h.same (by
      split
      next hs => exact (h.setSteer.putFrame.fst hs).same
      next hs => exact (h.setSteer.putFrame.fst hs))
theorem Fit.sendFrames {late xs} (h : Fit good s) : Fit good (s.sendFrames late xs) := by
  induction xs generalizing s late with
  | nil => exact h
  | cons x xs ih =>
    unfold State.sendFrames
    split
    · exact ih h
    · split
      · next hs => exact ih (h.putFrame.fst hs)
      · next hs => exact ih (h.putFrame.fst hs).same
theorem Fit.writeFrames (h : Fit good s) : Fit good s.writeFrames := h.sendFrames
theorem Fit.toManagement {port matched} (h : Fit good s) : Fit good (s.toManagement port matched) := h.modEth
theorem Fit.disabledDrop {rule qn} (h : Fit good s) : Fit good (s.disabledDrop rule qn) := h.same
theorem Fit.steer {port rule r f} (h : Fit good s) : Fit good (s.steer port rule r f) := by
  unfold State.steer
  dsimp only
  split
  · split
    · exact Fit.ite h.queueFrame h.disabledDrop
    · exact h.disabledDrop
  · exact h
  · exact h.toManagement
theorem ends_execFrameAccept {port bytes} (h : Fit good s) : Ends good (execFrameAccept port bytes s) :=
  Ends.ite h.modEth.next (Ends.ite h.next (Ends.ite h.modEth.toManagement.next (by
      split
      · exact h.modEth.steer.next
      · exact h.modEth.toManagement.next)))
theorem ends_execFrameDropAtPort {port why} (h : Fit good s) : Ends good (execFrameDropAtPort port why s) := h.modEth.next
theorem Fit.discipline {corr} (h : Fit good s) : Fit good (s.discipline corr) := Fit.ite h.same h.same
theorem ends_execPtpEventMessage {port corr} (h : Fit good s) : Ends good (execPtpEventMessage port corr s) := h.modEth.discipline.next
theorem ends_execPpsInput {corr} (h : Fit good s) : Ends good (execPpsInput corr s) := h.discipline.next
theorem ends_execFlitReceive {port bytes} (h : Fit good s) : Ends good (execFlitReceive port bytes s) :=
  Ends.ite h.next (Ends.ite h.setBirtil.next (Ends.ite h.setBirtil.next h.next))
theorem Fit.portDown {port} (h : Fit good s) : Fit good (s.portDown port) := h.setBirtil.log.foldl (fun _ _ h1 => h1.msgError)
theorem ends_execRetrainComplete {port ok} (h : Fit good s) : Ends good (execRetrainComplete port ok s) := by
  unfold execRetrainComplete
  dsimp only
  split
  · exact Ends.ite h.setBirtil.next (Ends.ite h.setBirtil.next h.portDown.next)
  · exact h.next
  · exact h.next
  · exact h.next

/-! ### Switch -/

theorem Fit.armSwitch {w} (h : Fit good s) : Fit good (s.armSwitch w) := h.same
theorem ends_execGangSwitchArm {out inc t'} (h : Fit good s) : Ends good (execGangSwitchArm out inc t' s) := Ends.ite h.fresh.armSwitch.next h.next
theorem Fit.dropImage {x} (h : Fit good s) : Fit good (s.dropImage x) := Fit.ite h.same h.same
theorem Fit.passBarriers {x} (h : Fit good s) : Fit good (s.passBarriers x) := by
  unfold State.passBarriers
  split
  · exact h.same
  · split
    next hs => exact (h.passage.fst hs)
    next hs => exact (h.passage.fst hs).dropImage.same
    next hs => exact (h.passage.fst hs).same
theorem Fit.passAllBarriers (h : Fit good s) : Fit good s.passAllBarriers := h.foldl (fun _ _ h1 => h1.passBarriers)
theorem Fit.swapBarriers {out inc} (h : Fit good s) : Fit good (s.swapBarriers out inc) := by
  cases out with
  | none =>
    cases inc with
    | none => exact h
    | some vd => exact h.same
  | some gone =>
    cases inc with
    | none => exact h.same
    | some vd => exact h.same
theorem Fit.stopSlot {key} (h : Fit good s) : Fit good (s.stopSlot key) := by
  unfold State.stopSlot
  exact Fit.ite h ((Fit.ite h.handOn.withdraw.unstall h.handOn.withdraw).same (slots := KMap.pairwise_set _ _))
theorem Fit.setResident {vd here} (h : Fit good s) : Fit good (s.setResident vd here) := h.modVd
theorem Fit.gangSwitch {w} (h : Fit good s) : Fit good (s.gangSwitch w) := by
  unfold State.gangSwitch
  dsimp only
  split
  · exact (Fit.setResident (by
      split
      · exact h.same.swapBarriers.setResident.foldl (fun _ _ h1 => h1.stopSlot)
      · exact h.same.swapBarriers)).restartPatience.foldl (fun _ _ h1 => h1.fill)
  · split
    · exact h.same.swapBarriers.setResident.foldl (fun _ _ h1 => h1.stopSlot)
    · exact h.same.swapBarriers
theorem ends_execGangSwitch {id} (h : Fit good s) : Ends good (execGangSwitch id s) := by
  unfold execGangSwitch
  split
  · exact Ends.ite h.next (Ends.ite h.gangSwitch.next h.same.next)
  · exact h.next
theorem Fit.restoreSlot {key at0 k} (h : Fit good s) : Fit good (s.restoreSlot key at0 k) :=
  Fit.ite h.same.setSlot.completeAt h.same.setSlot.repliedAt
theorem Fit.handover {key} (h : Fit good s) : Fit good (s.handover key) := by
  unfold State.handover
  split
  · split
    next hs => exact (h.contextPassage.fst hs)
    next hs => exact (h.contextPassage.fst hs).loseKept.setSlot.fill
    next hs => exact (h.contextPassage.fst hs).restoreSlot
  · exact h.setSlot.fill
theorem Fit.endSave {key k} (h : Fit good s) : Fit good (s.endSave key k) := by
  unfold State.endSave
  split
  next hs => exact (h.contextPassage.fst hs)
  next hs => exact (h.contextPassage.fst hs).loseContext.setSlot.handover
  next hs => exact (h.contextPassage.fst hs).setSlot.handover
theorem Fit.landLine {ctx key i} (h : Fit good s) : Fit good (s.landLine ctx key i) := by
  unfold State.landLine
  dsimp only
  split
  · exact h
  · split
    · exact h
    · split
      next hs => exact (h.passage.fst hs)
      next hs => exact (h.passage.fst hs)
      next hs => exact (h.passage.fst hs).loseContext
theorem Fit.landSaved {kv} (h : Fit good s) : Fit good (s.landSaved kv) := h.foldl (fun _ _ h1 => h1.landLine)
theorem Fit.landAllSaved (h : Fit good s) : Fit good s.landAllSaved := h.foldl (fun _ _ h1 => h1.landSaved)
theorem ends_execSlotHandover {b n} (h : Fit good s) : Ends good (execSlotHandover b n s) := by
  unfold execSlotHandover
  dsimp only
  split
  · exact h.handover.next
  · split
    · exact Ends.ite h.endSave.next h.next
    · exact h.handover.next
  · exact h.next
  · exact h.next
  · exact h.next
  · exact h.next

/-! ### Requests -/

theorem Fit.setFun {f x} (h : Fit good s) : Fit good (s.setFun f x) := h.same
theorem Fit.modFun {f g} (h : Fit good s) : Fit good (s.modFun f g) := h.setFun
theorem Fit.hostWrite {a bs} (h : Fit good s) : Fit good (s.hostWrite a bs) := h.same (mem := Memory.wf_writeBytes bs _)
theorem Fit.flush {f n} (h : Fit good s) : Fit good (s.flush f n) := by
  induction n generalizing s with
  | zero => exact h
  | succ n ih =>
    unfold State.flush
    dsimp only
    split
    · exact h
    · exact Fit.ite (ih h.hostWrite.hostWrite.setFun) h
theorem Fit.flushAll {f} (h : Fit good s) : Fit good (s.flushAll f) := Fit.ite h.flush h
theorem Fit.respond {f seq status value counters} (h : Fit good s) : Fit good (s.respond f seq status value counters) := Fit.ite h.modFun.flushAll h
theorem Fit.enable {f} (h : Fit good s) : Fit good (s.enable f) := h.modFun
theorem Fit.disable {f} (h : Fit good s) : Fit good (s.disable f) := h.same (vds := KMap.pairwise_map fun _ => rfl)
theorem ends_execQctlEnable {f} (h : Fit good s) : Ends good (execQctlEnable f s) := Ends.ite h.next h.enable.next
theorem ends_execQctlDisable {f} (h : Fit good s) : Ends good (execQctlDisable f s) := Ends.ite h.disable.next h.next
theorem ends_execQueueLiveClear {f} (h : Fit good s) : Ends good (execQueueLiveClear f s) := Ends.ite h.next h.modFun.next
theorem ends_execHostRegisterWrite {f r v} (h : Fit good s) : Ends good (execHostRegisterWrite f r v s) := by
  unfold execHostRegisterWrite
  split
  · exact Ends.ite h.next h.setFun.next
  · exact Ends.ite h.setFun.next (Ends.ite h.setFun.disable.next h.setFun.enable.next)
theorem ends_execVfFunctionLevelReset {f} (h : Fit good s) : Ends good (execVfFunctionLevelReset f s) := Ends.ite h.next h.disable.modFun.next
theorem ends_execQueuePoll {f} (h : Fit good s) : Ends good (execQueuePoll f s) :=
  Ends.ite h.next (Ends.ite h.setFun.next (Ends.ite h.same.setFun.next (Ends.ite (Ends.ite h.same.modFun.flushAll.setFun.next h.same.modFun.flushAll.hostWrite.setFun.next) (Ends.ite h.same.modFun.flushAll.next h.same.modFun.flushAll.setFun.next))))
theorem Fit.taken {f id} (h : Fit good s) : Fit good (s.taken f id) := h.modFun
theorem Fit.reply {f id status value} (h : Fit good s) : Fit good (State.reply s f id status value) := h.taken.respond
theorem Fit.serve {f id op pfOnly sound go} (h : Fit good s) (hgo : ∀ x0, Fit good (go x0)) : Ends good (s.serve f id op pfOnly sound go) := by
  unfold State.serve
  split
  · exact h.next
  · exact Ends.ite h.reply.next (Ends.ite h.reply.next (hgo _).next)
theorem ends_execNop {f id} (h : Fit good s) : Ends good (execNop f id s) := h.serve (fun _ => h.reply)
theorem ends_execUnknownRequest {f id} (h : Fit good s) : Ends good (execUnknownRequest f id s) := by
  unfold execUnknownRequest
  split
  · exact h.reply.next
  · exact h.next
theorem Fit.giveSubs {subs} (h : Fit good s) : Fit good (s.giveSubs subs) := h.same
theorem Fit.setVd {vd : Nat} {v : VDev} (h : Fit good s) : Fit good { s with vds := KMap.set s.vds vd v } := h.same (vds := KMap.pairwise_set vd v)
theorem ends_execVdcreate {f id place ws} (h : Fit good s) : Ends good (execVdcreate f id place ws s) :=
  h.serve fun _ => Fit.ite h.giveSubs.newKey.setVd.writeTables.reply h.reply
/-- The machine as the copy of a line for a request leaves it. -/
def CopyEnd.state : CopyEnd → State
  | .moved s | .held s | .failed s => s
theorem Fit.copyBytes {vd win p host load} (h : Fit good s) : Fit good (s.copyBytes vd win p host load).state := by
  unfold State.copyBytes
  dsimp only
  split
  · split
    · next hs => exact h.look.writeAt.ok hs
    · exact h.look
  · split
    · exact h.look.touch.hostWrite
    · exact h.look
theorem Fit.copiedTo {vd win p host load e} (h : Fit good s) (hs : s.copyBytes vd win p host load = e) : Fit good e.state := hs ▸ h.copyBytes
theorem Fit.copyOne {f r declined load i e} (h : Fit good s) (hs : s.copyOne f r declined load i = e) : Fit good e.state := by
  subst hs
  unfold State.copyOne
  dsimp only
  split
  · next hs => exact h.readTables.fst hs
  · next hs =>
    have hread := h.readTables.fst hs
    split
    · exact hread
    · exact hread
    · split <;> exact hread
    · split
      · exact hread
      · split
        · exact hread.stallAt
        · split
          · split
            · next hs => exact (hread.unstall.allocated.copiedTo hs).allocated
            · next hs => exact (hread.unstall.allocated.copiedTo hs).allocated
            · next hs => exact (hread.unstall.allocated.copiedTo hs).allocated
          · exact hread.unstall.copyBytes
theorem Fit.copyLines {f id r declined load i n} (h : Fit good s) : Fit good (s.copyLines f id r declined load i n) := by
  induction n generalizing s i with
  | zero => exact h.reply
  | succ n ih =>
    unfold State.copyLines
    split
    · next hs => exact ih (h.copyOne hs)
    · next hs => exact (h.copyOne hs).reply
    · next hs => exact (h.copyOne hs).modFun
theorem Fit.copyRequest {f id op ws load} (h : Fit good s) : Ends good (s.copyRequest f id op ws load) :=
  h.serve (fun _ => Fit.ite h.reply h.writeTables.copyLines)
theorem ends_execLoad {f id ws} (h : Fit good s) : Ends good (execLoad f id ws s) := h.copyRequest
theorem ends_execFetch {f id ws} (h : Fit good s) : Ends good (execFetch f id ws s) := h.copyRequest

/-! ### Trees -/

theorem Fit.startTree {f id vd space rs} (h : Fit good s) : Fit good (s.startTree f id vd space rs) := by
  unfold State.startTree
  split
  · exact h.reply
  · exact Fit.ite h.reply h.modVd.modRegion.place.taken
theorem ends_execLaunch {f id ws} (h : Fit good s) : Ends good (execLaunch f id ws s) := by
  refine h.serve fun r => ?_
  dsimp only
  split
  · exact h.reply
  · refine Fit.ite h.reply (Fit.ite h.reply ?_)
    split
    · next hs => exact h.writeTables.readTables.fst hs
    · next hs =>
      have hread := h.writeTables.readTables.fst hs
      split
      · exact hread.startTree
      · exact Fit.ite hread.reply hread
      · exact hread.reply
theorem Fit.answerCancels {vd} (h : Fit good s) : Fit good (s.answerCancels vd) := h.same.foldl (fun _ _ h1 => h1.respond)
theorem Fit.endTree {vd t'} (h : Fit good s) : Fit good (s.endTree vd t') := by
  unfold State.endTree
  split
  · exact h.modVd.answerCancels.respond
  · exact h.modVd.answerCancels
theorem ends_execLaunchResponse {vd} (h : Fit good s) : Ends good (execLaunchResponse vd s) := by
  unfold execLaunchResponse
  split
  · exact Ends.ite h.endTree.next h.next
  · exact h.next
theorem Fit.cancelRegion {vd top t'} (h : Fit good s) : Fit good (s.cancelRegion vd top t') := Fit.ite h.endRegions.modVd h.endRegions
theorem ends_execCancel {f id} (h : Fit good s) : Ends good (execCancel f id s) := h.serve (fun _ => Fit.ite h.reply (by
      dsimp only
      split
      · exact h.reply
      · split
        · exact h.reply
        · exact h.taken.modFun.cancelRegion))
theorem ends_execCancelDone {f id} (h : Fit good s) : Ends good (execCancelDone f id s) := by
  unfold execCancelDone
  split
  · exact h.next
  · split
    · exact h.modFun.respond.next
    · exact Ends.ite h.modFun.respond.next h.cancelRegion.next

/-! ### Services -/

theorem Fit.beginDestroy {vd} (h : Fit good s) : Fit good (s.beginDestroy vd) := h.same
theorem ends_execVddestroy {f id} (h : Fit good s) : Ends good (execVddestroy f id s) := h.serve (fun _ => (by
      dsimp only
      split
      · exact h.reply
      · exact Fit.ite h.reply h.beginDestroy.taken.modVd))
theorem Fit.leaveWindow {vd w x} (h : Fit good s) : Fit good (s.leaveWindow vd w x) := Fit.ite h (Fit.ite h.eraseKey h.same)
theorem Fit.dropBarriers {vd} (h : Fit good s) : Fit good (s.dropBarriers vd) := h.same
theorem Fit.freeSubs {subs} (h : Fit good s) : Fit good (s.freeSubs subs) :=
  h.same (mem := Mem.wfFrom_filter _) (fe := fun hfe => hfe.filter _)
theorem Fit.forget {vd} (h : Fit good s) : Fit good (s.forget vd) := h.same (vds := KMap.pairwise_erase vd)
theorem Fit.dropDevice {vd v} (h : Fit good s) : Fit good (s.dropDevice vd v) := by
  unfold State.dropDevice
  have htree : Fit good (match v.tree with
      | some t => s.endTree vd t
      | none => s) := by
    split
    · exact h.endTree
    · exact h
  exact Fit.eraseKey (Fit.dropBarriers (Fit.same htree))
theorem ends_execVddestroyDrained {vd} (h : Fit good s) : Ends good (execVddestroyDrained vd s) := by
  unfold execVddestroyDrained
  split
  · exact h.next
  · exact Ends.ite (Ends.ite (h.foldl (fun _ _ h1 => h1.leaveWindow)).next (Ends.ite h.next h.dropDevice.next)) h.next
theorem Fit.finishDestroy {vd} (h : Fit good s) : Fit good (s.finishDestroy vd) := by
  unfold State.finishDestroy
  split
  · exact h
  · split
    · exact h.freeSubs.forget.respond
    · exact h.freeSubs.forget
    · exact h.freeSubs.forget
theorem Fit.eraseAll (h : Fit good s) : Fit good s.eraseAll := h.foldl (fun _ _ h1 => (by
      split
      · exact h1.clearUnits.finishDestroy
      · exact h1.clearUnits.zeroSaved.erasedFor
      · exact h1.clearUnits.erasedFor))
theorem ends_execInfo {f id} (h : Fit good s) : Ends good (execInfo f id s) := h.serve (fun _ => Fit.ite h.taken.respond h.reply)
theorem Fit.steerset {f id kind sound go} (h : Fit good s) (hgo : ∀ x0, Fit good (go x0)) : Ends good (s.steerset f id kind sound go) := by
  unfold State.steerset
  split
  · exact h.next
  · exact Ends.ite (h.serve (fun _ => hgo _)) h.next
theorem ends_execSteersetRule {f id} (h : Fit good s) : Ends good (execSteersetRule f id s) := h.steerset (fun _ => Fit.ite h.reply h.same.reply)
theorem Fit.holdAwake {vd b sb} (h : Fit good s) : Fit good (s.holdAwake vd b sb) := (Fit.ite h h.setAlloc).modSub
theorem Fit.openQueue {qn q} (h : Fit good s) : Fit good (s.openQueue qn q) :=
  (h.foldl (fun _ _ h1 => h1.holdAwake)).same.foldl (fun _ _ h1 => Fit.ite h1 h1.poke.setFe)
theorem ends_execSteersetQueue {f id} (h : Fit good s) : Ends good (execSteersetQueue f id s) := h.steerset (fun _ => Fit.ite h.reply (by
      dsimp only
      split
      · exact (Fit.ite h.openQueue h).setSteer.reply
      · exact Fit.ite (Fit.ite h.setSteer.reply h.reply) (Fit.ite h.openQueue h).setSteer.reply))
theorem ends_execUpdate {f id} (h : Fit good s) : Ends good (execUpdate f id s) := by
  refine h.serve fun _ => Fit.ite h.reply ?_
  split
  · exact h.reply
  · exact Fit.same (s := s.taken f id) h.taken
theorem ends_execUpdateHandoff (h : Fit good s) : Ends good (execUpdateHandoff s) := by
  unfold execUpdateHandoff
  split
  · exact Ends.ite h.same.next h.next
  · exact h.next
theorem Fit.answerUpdate {u status} (h : Fit good s) : Fit good (s.answerUpdate u status) := by
  unfold State.answerUpdate
  split
  · exact h.respond
  · exact h
theorem Fit.rearm {u} (h : Fit good s) : Fit good (s.rearm u) := h.foldl (fun _ _ h1 => Fit.ite h1.armSwitch h1)
theorem ends_execUpdateHealthReport (h : Fit good s) : Ends good (execUpdateHealthReport s) := by
  unfold execUpdateHealthReport
  split
  · exact Ends.ite h.next (Ends.ite h.rearm.same.choose.answerUpdate.next h.rearm.same.answerUpdate.next)
  · exact h.next
theorem ends_execUpdateFallback (h : Fit good s) : Ends good (execUpdateFallback s) := by
  unfold execUpdateFallback
  split
  · exact Ends.ite h.same.next h.next
  · exact h.next

/-! ### Debug -/

theorem ends_execDebugAttach {who} (h : Fit good s) : Ends good (execDebugAttach who s) := by
  unfold execDebugAttach
  split
  · exact Ends.ite h.modVd.next h.next
  · exact h.next
theorem ends_execDebugDetach {vd} (h : Fit good s) : Ends good (execDebugDetach vd s) := Ends.ite h.next h.modVd.next
theorem Fit.debugReply {vd ws} (h : Fit good s) : Fit good (s.debugReply vd ws) := h.same
theorem ends_execDebugList {vd} (h : Fit good s) : Ends good (execDebugList vd s) := Ends.ite h.next h.debugReply.next
theorem Fit.haltArrivals {vd c} (h : Fit good s) : Fit good (s.haltArrivals vd c) := h.same
theorem ends_execDebugHalt {vd c} (h : Fit good s) : Ends good (execDebugHalt vd c s) :=
  Ends.ite h.next (h.same (slots := KMap.pairwise_map fun kv => by split <;> rfl)).haltArrivals.next
theorem Fit.haltOut {key} (h : Fit good s) : Fit good (s.haltOut key) := h.release.same.setSlot.fill
theorem Fit.haltSlot {key} (h : Fit good s) : Fit good (s.haltSlot key) := by
  unfold State.haltSlot
  dsimp only
  split
  next hs => exact (h.contextPassage.fst hs)
  next hs => exact (h.contextPassage.fst hs).loseContext
  next hs => exact (h.contextPassage.fst hs).haltOut
theorem ends_execDebugHaltTakesEffect {b n} (h : Fit good s) : Ends good (execDebugHaltTakesEffect b n s) := Ends.ite h.haltSlot.next h.next
theorem Fit.imageDo {id vd c off v bad go} (h : Fit good s) (hbad : ∀ x0, Fit good x0 → Fit good (bad x0)) (hgo : ∀ x0 x1 x2, Fit good x0 → Fit good (go x0 x1 x2)) : Fit good (s.imageDo id vd c off v bad go).1 := by
  unfold State.imageDo
  split
  · split
    · split
      next hs => exact (h.passage.fst hs)
      next hs => exact hbad _ (h.passage.fst hs)
      next hs =>
        split
        · exact hgo _ _ _ (h.passage.fst hs)
        · exact hbad _ (h.passage.fst hs)
    · exact hbad _ h
  · exact hbad _ h
theorem Fit.memoryDo {id vd space va wr bad go} (h : Fit good s) (hbad : ∀ x0, Fit good x0 → Fit good (bad x0)) (hgo : ∀ x0 x1 x2, Fit good x0 → Fit good (go x0 x1 x2)) : Fit good (s.memoryDo id vd space va wr bad go).1 := by
  unfold State.memoryDo
  dsimp only
  split
  next hs => exact (h.readTables.fst hs)
  next hs =>
    split
    · split
      · exact (h.readTables.fst hs).stallAt
      · exact hgo _ _ _ (h.readTables.fst hs).look.unstall
    · exact hbad _ (h.readTables.fst hs).unstall
    · exact hbad _ (h.readTables.fst hs).unstall
    · exact hbad _ (h.readTables.fst hs).unstall
theorem Fit.debugRead {id vd t'} (h : Fit good s) : Fit good (s.debugRead id vd t').1 := by
  unfold State.debugRead
  split
  · exact h.imageDo (fun _ h1 => h1.debugReply) (fun _ _ _ h1 => h1.debugReply)
  · exact h.memoryDo (fun _ h1 => h1.debugReply) (fun _ _ _ h1 => (by
      split
      · exact h1.touch.debugReply
      · exact h1.debugReply))
theorem Fit.debugWrite {id vd t' v} (h : Fit good s) : Fit good (s.debugWrite id vd t' v).1 := by
  unfold State.debugWrite
  split
  · exact h.imageDo (fun _ h1 => h1) (fun _ _ _ h1 => h1.same)
  · exact h.memoryDo (fun _ h1 => h1) (fun _ _ _ h1 => (by
      split
      next hs => exact (h1.writeAt.ok hs).emptyAllICaches
      · exact h1))
theorem Fit.resumeCtx {vd c step} (h : Fit good s) : Fit good (s.resumeCtx vd c step).1 := by
  unfold State.resumeCtx
  dsimp only
  split
  · split
    · split
      next hs => exact (h.contextPassage.fst hs)
      next hs => exact (h.contextPassage.fst hs).loseKept
      next hs => exact (h.contextPassage.fst hs).same.setSlot
    · exact h
  · exact h
theorem Fit.debugRun {id vd x} (h : Fit good s) : Fit good (s.debugRun id vd x).1 := by
  unfold State.debugRun
  split
  · exact h.debugRead
  · exact h.debugWrite
  · exact h.resumeCtx
theorem Fit.debugAsk {vd o} (h : Fit good s) : Fit good (s.debugAsk vd o) := Fit.ite h (Fit.ite h.same (by
      split
      next hs => exact (h.debugRun.fst hs).same
      next hs => exact (h.debugRun.fst hs)))
theorem Fit.debugSend {late xs} (h : Fit good s) : Fit good (s.debugSend late xs) := by
  induction xs generalizing s late with
  | nil => exact h
  | cons x xs ih =>
    unfold State.debugSend
    dsimp only
    split
    · exact ih h
    · split
      · exact ih h.same
      · split
        · next hs => exact ih (h.debugRun.fst hs)
        · next hs => exact ih (h.debugRun.fst hs).same
theorem Fit.debugOn (h : Fit good s) : Fit good s.debugOn := Fit.ite h.debugSend h
theorem ends_execDebugRead {vd t'} (h : Fit good s) : Ends good (execDebugRead vd t' s) := h.debugAsk.next
theorem ends_execDebugWrite {vd t' v} (h : Fit good s) : Ends good (execDebugWrite vd t' v s) := h.debugAsk.next
theorem ends_execDebugStep {vd c} (h : Fit good s) : Ends good (execDebugStep vd c s) := h.debugAsk.next
theorem ends_execDebugResume {vd c} (h : Fit good s) : Ends good (execDebugResume vd c s) := h.debugAsk.next

/-! ### Scalar -/

theorem Fit.alu2 {d a b f} (h : Fit good s) : Ends good (s.alu2 d a b f) := h.retire
theorem Fit.alu1 {d a f} (h : Fit good s) : Ends good (s.alu1 d a f) := h.retire
theorem ends_execAdd {d a b} (h : Fit good s) : Ends good (execAdd d a b s) := h.alu2
theorem ends_execSub {d a b} (h : Fit good s) : Ends good (execSub d a b s) := h.alu2
theorem ends_execAnd {d a b} (h : Fit good s) : Ends good (execAnd d a b s) := h.alu2
theorem ends_execOr {d a b} (h : Fit good s) : Ends good (execOr d a b s) := h.alu2
theorem ends_execXor {d a b} (h : Fit good s) : Ends good (execXor d a b s) := h.alu2
theorem ends_execAndn {d a b} (h : Fit good s) : Ends good (execAndn d a b s) := h.alu2
theorem ends_execShl {d a b} (h : Fit good s) : Ends good (execShl d a b s) := h.alu2
theorem ends_execShr {d a b} (h : Fit good s) : Ends good (execShr d a b s) := h.alu2
theorem ends_execSra {d a b} (h : Fit good s) : Ends good (execSra d a b s) := h.alu2
theorem ends_execRol {d a b} (h : Fit good s) : Ends good (execRol d a b s) := h.alu2
theorem ends_execMul {d a b} (h : Fit good s) : Ends good (execMul d a b s) := h.alu2
theorem ends_execMulhI64 {d a b} (h : Fit good s) : Ends good (execMulhI64 d a b s) := h.alu2
theorem ends_execMulhN64 {d a b} (h : Fit good s) : Ends good (execMulhN64 d a b s) := h.alu2
theorem ends_execDivI64 {d a b} (h : Fit good s) : Ends good (execDivI64 d a b s) := h.alu2
theorem ends_execDivN64 {d a b} (h : Fit good s) : Ends good (execDivN64 d a b s) := h.alu2
theorem ends_execRemI64 {d a b} (h : Fit good s) : Ends good (execRemI64 d a b s) := h.alu2
theorem ends_execRemN64 {d a b} (h : Fit good s) : Ends good (execRemN64 d a b s) := h.alu2
theorem ends_execMinI64 {d a b} (h : Fit good s) : Ends good (execMinI64 d a b s) := h.alu2
theorem ends_execMinN64 {d a b} (h : Fit good s) : Ends good (execMinN64 d a b s) := h.alu2
theorem ends_execMaxI64 {d a b} (h : Fit good s) : Ends good (execMaxI64 d a b s) := h.alu2
theorem ends_execMaxN64 {d a b} (h : Fit good s) : Ends good (execMaxN64 d a b s) := h.alu2
theorem ends_execCeq {d a b} (h : Fit good s) : Ends good (execCeq d a b s) := h.alu2
theorem ends_execCne {d a b} (h : Fit good s) : Ends good (execCne d a b s) := h.alu2
theorem ends_execCltI64 {d a b} (h : Fit good s) : Ends good (execCltI64 d a b s) := h.alu2
theorem ends_execCltN64 {d a b} (h : Fit good s) : Ends good (execCltN64 d a b s) := h.alu2
theorem ends_execCleI64 {d a b} (h : Fit good s) : Ends good (execCleI64 d a b s) := h.alu2
theorem ends_execCleN64 {d a b} (h : Fit good s) : Ends good (execCleN64 d a b s) := h.alu2
theorem ends_execClz {d a} (h : Fit good s) : Ends good (execClz d a s) := h.alu1
theorem ends_execCtz {d a} (h : Fit good s) : Ends good (execCtz d a s) := h.alu1
theorem ends_execPopc {d a} (h : Fit good s) : Ends good (execPopc d a s) := h.alu1
theorem ends_execMov {d a} (h : Fit good s) : Ends good (execMov d a s) := h.alu1
theorem ends_execSel {d a b c} (h : Fit good s) : Ends good (execSel d a b c s) := h.retire
theorem ends_execAddImm {d a i} (h : Fit good s) : Ends good (execAddImm d a i s) := h.alu1
theorem ends_execAndImm {d a i} (h : Fit good s) : Ends good (execAndImm d a i s) := h.alu1
theorem ends_execOrImm {d a i} (h : Fit good s) : Ends good (execOrImm d a i s) := h.alu1
theorem ends_execXorImm {d a i} (h : Fit good s) : Ends good (execXorImm d a i s) := h.alu1
theorem ends_execShlImm {d a n} (h : Fit good s) : Ends good (execShlImm d a n s) := h.alu1
theorem ends_execShrImm {d a n} (h : Fit good s) : Ends good (execShrImm d a n s) := h.alu1
theorem ends_execSraImm {d a n} (h : Fit good s) : Ends good (execSraImm d a n s) := h.alu1
theorem ends_execLui {d k c} (h : Fit good s) : Ends good (execLui d k c s) := h.alu1
theorem ends_execMovImm {d i} (h : Fit good s) : Ends good (execMovImm d i s) := h.alu1
theorem ends_execExtN64 {d a w p} (h : Fit good s) : Ends good (execExtN64 d a w p s) := h.alu1
theorem ends_execExtI64 {d a w p} (h : Fit good s) : Ends good (execExtI64 d a w p s) := h.alu1
theorem ends_execIns {d a w p} (h : Fit good s) : Ends good (execIns d a w p s) := h.alu2

/-! ### Turn -/

theorem Fit.pass {n} (h : Fit good s) : Fit good (s.pass n) := Fit.ite h.same (Fit.ite h.same h.same)
theorem Fit.background {n} (h : Fit good s) : Fit good (s.background n) := h.moveGranules.rekeyOn.eraseAll
theorem Fit.elapse {n} (h : Fit good s) : Fit good (s.elapse n) := by
  induction n generalizing s with
  | zero => exact h
  | succ n ih => exact Fit.ite (ih h.ringNow.pass.background) h.pass.background
theorem Fit.reachTurn {b n} (h : Fit good s) : Fit good (s.reachTurn b n) := h.elapse.same
theorem Fit.nextInstr (h : Fit good s) : Fit good s.nextInstr.2 := by
  unfold State.nextInstr
  dsimp only
  split
  · split <;> exact h
  · split
    · next hs =>
      have hfetched := h.fetch hs
      split <;> exact hfetched
    · exact h
    · exact h
    · exact h
theorem Fit.passed {key ctx} (h : Fit good s) : Fit good (s.passed key ctx) := by
  unfold State.passed
  split
  · exact Fit.ite h h.unstall
  · exact Fit.ite h h.unstall
  · exact h.unstall
  · exact h.unstall
  · exact h.unstall
  · exact h.unstall
  · exact h.unstall
theorem Fit.readyAll (h : Fit good s) : Fit good s.readyAll := h.same (slots := KMap.pairwise_map fun _ => rfl)
theorem Fit.spreadOver {key} (h : Fit good s) : Fit good (s.spreadOver key) := by
  unfold State.spreadOver
  split
  · exact Fit.ite h.completeAt h
  · exact h
  · exact h
  · exact h
  · exact h
  · exact h
theorem Fit.readFor {ctx brick p n} (h : Fit good s) : Fit good (s.readFor ctx brick p n) := by
  unfold State.readFor
  dsimp only
  split
  · exact h
  · split
    · exact Fit.ite h.readAhead.modCtx h
    · exact h
    · exact h
    · exact h
theorem Fit.savedAwake {kv} (h : Fit good s) : Fit good (s.savedAwake kv) := by
  unfold State.savedAwake
  split
  · exact Fit.ite h h.unstall.readFor.readFor.modCtx
  · exact h
  · exact h
  · exact h
  · exact h
  · exact h
theorem Fit.memoryGoes (h : Fit good s) : Fit good s.memoryGoes :=
  (((h.longHolds.same.writeNotices.writeFrames.bringAllBack.passAllBarriers.landAllSaved.debugOn.updatesOn.foldl (fun _ _ h1 => h1.landAheads)).foldl (fun _ _ h1 => h1.feWake)).closeSubs.foldl (fun _ _ h1 => h1.refillInbox)).refillAll
theorem Fit.settle (h : Fit good s) : Fit good s.settle :=
  ((h.memoryGoes.foldl (fun _ _ h1 => h1.spreadOver)).foldl (fun _ _ h1 => h1.savedAwake)).palletsGo.markTotals.readyAll

/-! ### The meaning of every instruction and event, and the step -/

theorem ends_exec (h : Fit good s) : ∀ i, Ends good (exec i s)
  | .add .. => ends_execAdd h
  | .sub .. => ends_execSub h
  | .and .. => ends_execAnd h
  | .or .. => ends_execOr h
  | .xor .. => ends_execXor h
  | .andn .. => ends_execAndn h
  | .shl .. => ends_execShl h
  | .shr .. => ends_execShr h
  | .sra .. => ends_execSra h
  | .rol .. => ends_execRol h
  | .mul .. => ends_execMul h
  | .mulhI64 .. => ends_execMulhI64 h
  | .mulhN64 .. => ends_execMulhN64 h
  | .divI64 .. => ends_execDivI64 h
  | .divN64 .. => ends_execDivN64 h
  | .remI64 .. => ends_execRemI64 h
  | .remN64 .. => ends_execRemN64 h
  | .minI64 .. => ends_execMinI64 h
  | .minN64 .. => ends_execMinN64 h
  | .maxI64 .. => ends_execMaxI64 h
  | .maxN64 .. => ends_execMaxN64 h
  | .clz .. => ends_execClz h
  | .ctz .. => ends_execCtz h
  | .popc .. => ends_execPopc h
  | .sel .. => ends_execSel h
  | .mov .. => ends_execMov h
  | .ceq .. => ends_execCeq h
  | .cne .. => ends_execCne h
  | .cltI64 .. => ends_execCltI64 h
  | .cltN64 .. => ends_execCltN64 h
  | .cleI64 .. => ends_execCleI64 h
  | .cleN64 .. => ends_execCleN64 h
  | .addImm .. => ends_execAddImm h
  | .andImm .. => ends_execAndImm h
  | .orImm .. => ends_execOrImm h
  | .xorImm .. => ends_execXorImm h
  | .shlImm .. => ends_execShlImm h
  | .shrImm .. => ends_execShrImm h
  | .sraImm .. => ends_execSraImm h
  | .lui .. => ends_execLui h
  | .movImm .. => ends_execMovImm h
  | .extN64 .. => ends_execExtN64 h
  | .extI64 .. => ends_execExtI64 h
  | .ins .. => ends_execIns h
  | .rpt .. => ends_execRpt h
  | .beq .. => ends_execBeq h
  | .bne .. => ends_execBne h
  | .bltI64 .. => ends_execBltI64 h
  | .bgeI64 .. => ends_execBgeI64 h
  | .bltN64 .. => ends_execBltN64 h
  | .bgeN64 .. => ends_execBgeN64 h
  | .jal .. => ends_execJal h
  | .jalr .. => ends_execJalr h
  | .ld .. => ends_execLd h
  | .st .. => ends_execSt h
  | .stImm .. => ends_execStImm h
  | .ldr .. => ends_execLdr h
  | .ldff .. => ends_execLdff h
  | .ldfe .. => ends_execLdfe h
  | .stef .. => ends_execStef h
  | .stefImm .. => ends_execStefImm h
  | .stff .. => ends_execStff h
  | .stffImm .. => ends_execStffImm h
  | .lrw .. => ends_execLrw h
  | .scw .. => ends_execScw h
  | .migr .. => ends_execMigr h
  | .prefHbm .. => ends_execPrefHbm h
  | .prefWake .. => ends_execPrefWake h
  | .wrel .. => ends_execWrel h
  | .wacq .. => ends_execWacq h
  | .rbrd .. => ends_execRbrd h
  | .ralt .. => ends_execRalt h
  | .rcap .. => ends_execRcap h
  | .rput .. => ends_execRput h
  | .rputImm .. => ends_execRputImm h
  | .radd .. => ends_execRadd h
  | .rwait .. => ends_execRwait h
  | .iter .. => ends_execIter h
  | .iterRing .. => ends_execIterRing h
  | .nest .. => ends_execNest h
  | .nestRing .. => ends_execNestRing h
  | .amo .. => ends_execAmo h
  | .rupd .. => ends_execRupd h
  | .fenceDie => ends_execFenceDie h
  | .fencePkg => ends_execFencePkg h
  | .fenceSys => ends_execFenceSys h
  | .rsync => ends_execRsync h
  | .mqdq .. => ends_execMqdq h
  | .quit => ends_execQuit h
  | .spawn .. => ends_execSpawn h
  | .binit .. => ends_execBinit h
  | .barr .. => ends_execBarr h
  | .bwait .. => ends_execBwait h
  | .wadd .. => ends_execWadd h
  | .wsub .. => ends_execWsub h
  | .wmul .. => ends_execWmul h
  | .wmin .. => ends_execWmin h
  | .wmax .. => ends_execWmax h
  | .wand .. => ends_execWand h
  | .wor .. => ends_execWor h
  | .wxor .. => ends_execWxor h
  | .wshl .. => ends_execWshl h
  | .wshr .. => ends_execWshr h
  | .wsra .. => ends_execWsra h
  | .waddSat .. => ends_execWaddSat h
  | .wsubSat .. => ends_execWsubSat h
  | .wabs .. => ends_execWabs h
  | .wfma .. => ends_execWfma h
  | .wfms .. => ends_execWfms h
  | .wfnma .. => ends_execWfnma h
  | .wfnms .. => ends_execWfnms h
  | .wceq .. => ends_execWceq h
  | .wcne .. => ends_execWcne h
  | .wclt .. => ends_execWclt h
  | .wcle .. => ends_execWcle h
  | .wsel .. => ends_execWsel h
  | .wperm .. => ends_execWperm h
  | .wbcst .. => ends_execWbcst h
  | .wmov .. => ends_execWmov h
  | .wsig .. => ends_execWsig h
  | .wexp .. => ends_execWexp h
  | .wrcp .. => ends_execWrcp h
  | .wrsq .. => ends_execWrsq h
  | .wtanh .. => ends_execWtanh h
  | .wlog .. => ends_execWlog h
  | .wdot .. => ends_execWdot h
  | .wredSum .. => ends_execWredSum h
  | .wredMin .. => ends_execWredMin h
  | .wredMax .. => ends_execWredMax h
  | .wcvt .. => ends_execWcvt h
  | .wcvtScaled .. => ends_execWcvtScaled h
  | .zld .. => ends_execZld h
  | .zst .. => ends_execZst h
  | .zset .. => ends_execZset h
  | .zget .. => ends_execZget h
  | .sbind .. => ends_execSbind h
  | .hire .. => ends_execHire h
  | .hiret .. => ends_execHiret h
  | .plse .. => ends_execPlse h
  | .pcfg .. => ends_execPcfg h
  | .pwrR .. => ends_execPwrR h
  | .pwrC .. => ends_execPwrC h
  | .prdR .. => ends_execPrdR h
  | .prdC .. => ends_execPrdC h
  | .pcpy .. => ends_execPcpy h
  | .pfree .. => ends_execPfree h
  | .cpy .. => ends_execCpy h
  | .gath .. => ends_execGath h
  | .scat .. => ends_execScat h
  | .coll .. => ends_execColl h
  | .crd .. => ends_execCrd h
  | .cwr .. => ends_execCwr h
  | .cwrXvec .. => ends_execCwrXvec h
  | .cwrXframe .. => ends_execCwrXframe h
  | .cwrSpaceid .. => ends_execCwrSpaceid h
  | .cwrBwphase .. => ends_execCwrBwphase h
  | .cwrBankmap .. => ends_execCwrBankmap h
  | .cwrSinv .. => ends_execCwrSinv h
  | .trap .. => ends_execTrap h
  | .xret => ends_execXret h
  | .halt => ends_execHalt h
  | .bkpt .. => ends_execBkpt h
  | .save .. => ends_execSave h
  | .restore .. => ends_execRestore h
  | .hloc .. => ends_execHloc h
  | .islandStart .. => ends_execIslandStart h
  | .islandReady .. => ends_execIslandReady h
  | .kilnEnable .. => ends_execKilnEnable h
  | .islandLeaveHold .. => ends_execIslandLeaveHold h
  | .kilnPointSwitch .. => ends_execKilnPointSwitch h
  | .healthReport => ends_execHealthReport h
  | .queueLiveClear .. => ends_execQueueLiveClear h
  | .queuePoll .. => ends_execQueuePoll h
  | .nop .. => ends_execNop h
  | .vddestroy .. => ends_execVddestroy h
  | .vddestroyDrained .. => ends_execVddestroyDrained h
  | .load .. => ends_execLoad h
  | .fetch .. => ends_execFetch h
  | .launch .. => ends_execLaunch h
  | .launchResponse .. => ends_execLaunchResponse h
  | .cancel .. => ends_execCancel h
  | .cancelDone .. => ends_execCancelDone h
  | .info .. => ends_execInfo h
  | .steersetRule .. => ends_execSteersetRule h
  | .steersetQueue .. => ends_execSteersetQueue h
  | .updateHandoff => ends_execUpdateHandoff h
  | .updateHealthReport => ends_execUpdateHealthReport h
  | .updateFallback => ends_execUpdateFallback h
  | .unknownRequest .. => ends_execUnknownRequest h
  | .rekeyDrained .. => ends_execRekeyDrained h
  | .rekeyClose .. => ends_execRekeyClose h
  | .debugHaltTakesEffect .. => ends_execDebugHaltTakesEffect h
  | .subbankWakeDone .. => ends_execSubbankWakeDone h
  | .subbankPowerUpDone .. => ends_execSubbankPowerUpDone h
  | .pchWakeDone .. => ends_execPchWakeDone h
  | .storeDepart .. => ends_execStoreDepart h
  | .storeAtHome .. => ends_execStoreAtHome h
  | .loadAtHome .. => ends_execLoadAtHome h
  | .atomicAtHome .. => ends_execAtomicAtHome h
  | .fullEmptyAtHome .. => ends_execFullEmptyAtHome h
  | .reservationAtHome .. => ends_execReservationAtHome h
  | .ackArrive .. => ends_execAckArrive h
  | .replyArrive .. => ends_execReplyArrive h
  | .faultHandlerPlace .. => ends_execFaultHandlerPlace h
  | .invalidateComplete .. => ends_execInvalidateComplete h
  | .reservationTimeout .. => ends_execReservationTimeout h
  | .haltWake .. => ends_execHaltWake h
  | .spawnPlace .. => ends_execSpawnPlace h
  | .migrationArrive .. => ends_execMigrationArrive h
  | .arrivalSpill .. => ends_execArrivalSpill h
  | .gangSwitch .. => ends_execGangSwitch h
  | .slotHandover .. => ends_execSlotHandover h
  | .entryAge .. => ends_execEntryAge h
  | .grant .. => ends_execGrant h
  | .hodStart .. => ends_execHodStart h
  | .hodEnd .. => ends_execHodEnd h
  | .hodComplete .. => ends_execHodComplete h
  | .inboxEntryArrive .. => ends_execInboxEntryArrive h
  | .engineCommandStart .. => ends_execEngineCommandStart h
  | .engineComplete .. => ends_execEngineComplete h
  | .collArrive .. => ends_execCollArrive h
  | .collPatienceExpiry .. => ends_execCollPatienceExpiry h
  | .prefComplete .. => ends_execPrefComplete h
  | .barrierArrival .. => ends_execBarrierArrival h
  | .ringMiss .. => ends_execRingMiss h
  | .illegalInstruction .. => ends_execIllegalInstruction h
  | .fetchFault => ends_execFetchFault h
  | .spareLineRemapDone .. => ends_execSpareLineRemapDone h
  | .spareRowRepairDone .. => ends_execSpareRowRepairDone h
  | .majorRolloverDone .. => ends_execMajorRolloverDone h
  | .coldReset => ends_execColdReset h
  | .drstGo => ends_execDrstGo h
  | .pfFunctionLevelReset => ends_execPfFunctionLevelReset h
  | .vfFunctionLevelReset .. => ends_execVfFunctionLevelReset h
  | .thermalTrip => ends_execThermalTrip h
  | .thermalHold .. => ends_execThermalHold h
  | .watchdogReset => ends_execWatchdogReset h
  | .lifeCycleChange .. => ends_execLifeCycleChange h
  | .rcmdGo .. => ends_execRcmdGo h
  | .islandEnterHold .. => ends_execIslandEnterHold h
  | .islandEnterOff .. => ends_execIslandEnterOff h
  | .powerSample .. => ends_execPowerSample h
  | .qctlEnable .. => ends_execQctlEnable h
  | .qctlDisable .. => ends_execQctlDisable h
  | .hostRegisterWrite .. => ends_execHostRegisterWrite h
  | .vdcreate .. => ends_execVdcreate h
  | .update .. => ends_execUpdate h
  | .vdkey .. => ends_execVdkey h
  | .vderase .. => ends_execVderase h
  | .winopen .. => ends_execWinopen h
  | .winmembers .. => ends_execWinmembers h
  | .winclose .. => ends_execWinclose h
  | .attest .. => ends_execAttest h
  | .spdmGetMeasurements .. => ends_execSpdmGetMeasurements h
  | .debugList .. => ends_execDebugList h
  | .debugHalt .. => ends_execDebugHalt h
  | .debugRead .. => ends_execDebugRead h
  | .debugWrite .. => ends_execDebugWrite h
  | .debugStep .. => ends_execDebugStep h
  | .debugResume .. => ends_execDebugResume h
  | .hashmaskWrite .. => ends_execHashmaskWrite h
  | .hypInvalidate .. => ends_execHypInvalidate h
  | .frameAccept .. => ends_execFrameAccept h
  | .frameDropAtPort .. => ends_execFrameDropAtPort h
  | .ptpEventMessage .. => ends_execPtpEventMessage h
  | .ppsInput .. => ends_execPpsInput h
  | .flitReceive .. => ends_execFlitReceive h
  | .retrainComplete .. => ends_execRetrainComplete h
  | .patrolScrub .. => ends_execPatrolScrub h
  | .subbankWithdraw .. => ends_execSubbankWithdraw h
  | .channelRebuildComplete .. => ends_execChannelRebuildComplete h
  | .subbankRetention .. => ends_execSubbankRetention h
  | .pchPowerDown .. => ends_execPchPowerDown h
  | .pchSelfRefresh .. => ends_execPchSelfRefresh h
  | .demandFaultRetry .. => ends_execDemandFaultRetry h
  | .demandFaultLong .. => ends_execDemandFaultLong h
  | .demandFaultFatal .. => ends_execDemandFaultFatal h
  | .pagePresent .. => ends_execPagePresent h
  | .gangSwitchArm .. => ends_execGangSwitchArm h
  | .ringStow .. => ends_execRingStow h
  | .ringReboard .. => ends_execRingReboard h
  | .ringBoardApply .. => ends_execRingBoardApply h
  | .ringCaptureApply .. => ends_execRingCaptureApply h
  | .ringPutApply .. => ends_execRingPutApply h
  | .ringAddApply .. => ends_execRingAddApply h
  | .ringWaitApply .. => ends_execRingWaitApply h
  | .ringClaimApply .. => ends_execRingClaimApply h
  | .ringAlightMatch .. => ends_execRingAlightMatch h
  | .ringAlightWriteback .. => ends_execRingAlightWriteback h
  | .ringSlotError .. => ends_execRingSlotError h
  | .debugAttach .. => ends_execDebugAttach h
  | .debugDetach .. => ends_execDebugDetach h
  | .ringLockClear .. => ends_execRingLockClear h
theorem Fit.issue (h : Fit good s) : Ends good s.issue := by
  have hready : Fit good (if s.me.frame.running then (s, none) else s.fetchReady s.cur s.me.pc).1 := by
    split
    · exact h
    · exact h.fetchReady
  unfold State.issue
  split
  next hs =>
    have hfetched := hready.fst hs
    refine Ends.ite hfetched.next ?_
    split
    · exact hfetched.awaitMemory
    · exact ends_exec hfetched.nextInstr _
theorem Ends.turned {key ctx o} (h : Ends good o) : Ends good (turned key ctx o) := by
  obtain ⟨t, rfl, ht⟩ := h
  exact ht.passed.next
theorem Ends.settled {o} (h : Ends good o) : Ends good (settled o) := by
  obtain ⟨t, rfl, ht⟩ := h
  exact ht.settle.next
theorem Fit.turn {b n} (h : Fit good s) : Ends good (s.turn b n) := by
  have hissues : Ends good (State.issue { s.reachTurn b (n % 8) with cur := 8 * b + n % 8 }) := Fit.issue h.reachTurn.same
  exact Ends.ite hissues.turned h.reachTurn.next
theorem Fit.firstStep {is o} (h : Fit good s) (hs : s.firstStep is = some o) : Ends good o := by
  induction is with
  | nil => cases hs
  | cons i is ih =>
    obtain ⟨t, hexec, ht⟩ := ends_exec h i
    unfold State.firstStep at hs
    rw [hexec] at hs
    dsimp only at hs
    split at hs
    · exact ih hs
    · cases hs
      exact ht.next
/-- Memory goes to sleep by one of three events. -/
theorem Fit.sleeps (h : Fit good s) : ∀ o ∈ s.sleeps, Ends good o := by
  intro o ho
  rcases List.mem_append.mp ho with ho | ho
  · rcases List.mem_append.mp ho with ho | ho
    · obtain ⟨kv, -, hkv⟩ := List.mem_filterMap.mp ho
      split at hkv
      · cases hkv
        exact ends_execSubbankWithdraw h
      · cases hkv
    · obtain ⟨b, -, hb⟩ := List.mem_flatMap.mp ho
      obtain ⟨sb, -, rfl⟩ := List.mem_map.mp hb
      exact ends_execSubbankRetention h
  · obtain ⟨kv, -, hkv⟩ := List.mem_flatMap.mp ho
    split at hkv
    · split at hkv
      · rcases List.mem_cons.mp hkv with rfl | hkv
        · exact ends_execPchPowerDown h
        · rw [List.mem_singleton.mp hkv]
          exact ends_execPchSelfRefresh h
      · cases hkv
    · split at hkv
      · rw [List.mem_singleton.mp hkv]
        exact ends_execPchSelfRefresh h
      · cases hkv
    · cases hkv
    · cases hkv
theorem Fit.autoMove (h : Fit good s) : Ends good s.autoMove := by
  unfold State.autoMove
  refine Ends.ite (ends_execColdReset h) ?_
  split
  · next hs => exact h.firstStep hs
  · split
    · next hs => exact h.sleeps _ (List.mem_of_find?_eq_some hs)
    · split
      · exact Ends.ite h.turn h.elapse.next
      · exact h.elapse.next
theorem Fit.move {m} (h : Fit good s) : Ends good (s.move m) := by
  cases m with
  | turn b n => exact h.turn
  | elapse n => exact h.elapse.next
  | event i => exact Ends.ite (ends_exec h i) h.next
  | outside a bytes => exact (h.same (mem := Memory.wf_writeBytes bytes _)).next
  | recovery i => exact (Fit.ite h.same h).next
  | storage ns a bytes => exact h.same.next
  | broken parts => exact h.same.next
  | media answers => exact h.same.next
theorem Fit.oneStep (h : Fit good s) : Ends good s.oneStep := by
  unfold State.oneStep
  split
  · next rest _ => exact (Fit.move (h.same (t := { s with agenda := rest }))).settled
  · exact h.autoMove.settled

/-- Settles O7: each update of the model that touches a field of the form keeps it, and so does each meaning made of them. -/
theorem everyStepKeepsTheForm : Obligations.EveryStepKeepsTheForm := by
  intro s t hform hstep
  obtain ⟨u, hu, hfit⟩ := Fit.oneStep (good := s.Formed) (s := s) id
  cases hstep.symm.trans hu
  exact hfit hform

/-- Settles O9: the lemmas on what ends an instruction give a next state with no premise on the state. -/
theorem everyMeaningAnswers : Obligations.EveryMeaningAnswers := fun i s =>
  have ⟨t, ht, _⟩ := ends_exec (good := False) (s := s) False.elim i
  ⟨t, ht⟩

end Sys2Proof.Machine
end

section
/-!
SUPPORT. Wide instructions over unbound, valid registers: what each operation gives in a lane. WideIntegerLanes, WideComparesAndMoves, WideReductionsAndDots and WideFloatLanes are assembled from these.
-/
namespace Sys2Proof.Machine

variable {s : State}

/-- An instruction of major 0x40 to 0x44 over unbound, valid registers writes the line it computes and completes. -/
theorem State.wideTo_plain {srcs : List WReg} (d : WReg) (f : (WReg → Line) → Line) (hunbound : s.me.unbound) (hvalid : s.me.valid srcs) :
    s.wideTo srcs d f = .next (s.after (s.me.setW d (f fun r => s.me.w[r]))) := by
  obtain ⟨h0, h1, h2⟩ := hunbound
  exact State.wideRun_plain (some d) f _ h0 h1 h2 hvalid

theorem Slot.valid.sub {k : Slot} {rs qs : List WReg} (h : k.valid qs) (hsub : rs ⊆ qs) : k.valid rs := fun r hr => h r (hsub hr)

theorem patternOf_lt (e : Nat) (x : Int) : patternOf e x < 2 ^ e := by
  have := Nat.two_pow_pos e
  unfold patternOf
  omega
theorem intValue_emod (sg : Bool) (e a : Nat) : intValue sg e a % ((2 ^ e : Nat) : Int) = (a : Int) % ((2 ^ e : Nat) : Int) := by
  unfold intValue signedOf
  split
  · split
    · simp
    · simp
  · simp
/-- Arithmetic on lane values wraps to arithmetic on lane patterns. -/
theorem patternOf_add (sg : Bool) (e a b : Nat) : patternOf e (intValue sg e a + intValue sg e b) = (a + b) % 2 ^ e := by
  unfold patternOf
  rw [Int.add_emod, intValue_emod, intValue_emod, ← Int.add_emod]
  norm_cast
theorem patternOf_sub (sg : Bool) {e a b : Nat} (hb : b < 2 ^ e) :
    patternOf e (intValue sg e a - intValue sg e b) = (a + 2 ^ e - b) % 2 ^ e := by
  unfold patternOf
  rw [Int.sub_emod, intValue_emod, intValue_emod, ← Int.sub_emod, ← Int.add_emod_right,
    show (a : Int) - b + (2 ^ e : Nat) = ((a + 2 ^ e - b : Nat) : Int) by omega]
  norm_cast
theorem patternOf_mul (sg : Bool) (e a b : Nat) : patternOf e (intValue sg e a * intValue sg e b) = a * b % 2 ^ e := by
  unfold patternOf
  rw [Int.mul_emod, intValue_emod, intValue_emod, ← Int.mul_emod]
  norm_cast
theorem eltFloat_int {f : Elt} (h : f.isInt = true) : eltFloat f = none := by
  cases f
  case bf16 => cases h
  case f16 => cases h
  case f32 => cases h
  all_goals rfl
theorem Bin.lanes_int {f : Elt} (h : f.isInt = true) (o : Bin) (x y : Nat) : o.lanes f x y = o.int (eltSigned f) (eltBits f) x y := by
  simp [Bin.lanes, eltFloat_int h]
theorem shr_lt {e x n : Nat} (hx : x < 2 ^ e) : x / 2 ^ n < 2 ^ e := (Nat.div_le_self x _).trans_lt hx

/-- An instruction of two lanes completes with the line whose lanes are those that its operation gives. -/
theorem State.wide2_lanes (o : Bin) (f : Elt) (d : WReg) {a b : WReg} (hunbound : s.me.unbound) (hvalid : s.me.valid [a, b]) :
    ∃ v : Line, s.wide2 o f d a b = .next (s.after (s.me.setW d v)) ∧ ∀ j, j < 512 / eltBits f →
      lane v (eltBits f) j = o.lanes f (lane s.me.w[a] (eltBits f) j) (lane s.me.w[b] (eltBits f) j) % 2 ^ eltBits f :=
  ⟨_, State.wideTo_plain d _ hunbound hvalid, fun _ hj => lane_allLanes _ _ hj⟩
/-- Every operation on lanes gives a pattern of the format. -/
theorem Bin.int_lt (o : Bin) (sg : Bool) {e a b : Nat} (ha : a < 2 ^ e) (hb : b < 2 ^ e) : o.int sg e a b < 2 ^ e := by
  cases o with
  | add => exact patternOf_lt e _
  | sub => exact patternOf_lt e _
  | mul => exact patternOf_lt e _
  | min =>
    unfold Bin.int
    dsimp only
    split <;> assumption
  | max =>
    unfold Bin.int
    dsimp only
    split <;> assumption
  | and => exact Nat.and_lt_two_pow a hb
  | or => exact Nat.or_lt_two_pow ha hb
  | xor => exact Nat.xor_lt_two_pow ha hb
  | shl => exact Nat.mod_lt _ (Nat.two_pow_pos e)
  | shr => exact (Nat.div_le_self a _).trans_lt ha
  | sra => exact patternOf_lt e _
  | addSat => exact patternOf_lt e _
  | subSat => exact patternOf_lt e _
theorem clampInt_eq (sg : Bool) (n : Nat) (v : Int) : clampInt sg n v =
    max (if sg then -(2 ^ (n - 1) : Int) else 0) (min (if sg then (2 ^ (n - 1) : Int) - 1 else (2 ^ n : Int) - 1) v) := by
  cases sg <;> simp [clampInt, intRange]
theorem patternOf_eq (e : Nat) (x : Int) : patternOf e x = (x % (2 ^ e : Int)).toNat := by
  unfold patternOf
  norm_cast
/-- The magnitude of a natural lane is the lane. -/
theorem absLane_int {f : Elt} (hint : f.isInt = true) {x : Nat} (hx : x < 2 ^ eltBits f) :
    absLane f x = ((intValue (eltSigned f) (eltBits f) x).natAbs % (2 ^ eltBits f : Int)).toNat := by
  unfold absLane
  rw [eltFloat_int hint]
  cases hs : eltSigned f
  · simp only [intValue]
    rw [Nat.mod_eq_of_lt hx]
    norm_cast
    simp [Nat.mod_eq_of_lt hx]
  · simp only [if_true]
    rw [patternOf_eq]

/-- Settles O17: each operation of Table 14.2 on the values of the lanes is the operation on their patterns. -/
theorem wideIntegerLanes : Obligations.WideIntegerLanes := by
  intro s f d a b hint hunbound hvalid e is n lo hi sat
  have hlanes : ∀ (i : Instr) (o : Bin) (op : Nat → Nat → Nat), exec i s = s.wide2 o f d a b →
      (∀ x y, x < 2 ^ e → y < 2 ^ e → o.int (eltSigned f) e x y = op x y) → is i op := fun i o op hi hop => by
    obtain ⟨v, hv, hl⟩ := State.wide2_lanes o f d hunbound hvalid
    refine ⟨v, hi.trans hv, fun j hj => ?_⟩
    have hx := lane_lt s.me.w[a] e j
    have hy := lane_lt s.me.w[b] e j
    rw [hl j hj, Bin.lanes_int hint, Nat.mod_eq_of_lt (Bin.int_lt o _ hx hy), hop _ _ hx hy]
  refine ⟨hlanes (.wadd f d a b) .add _ rfl fun x y _ _ => patternOf_add _ e x y, hlanes (.wsub f d a b) .sub _ rfl fun x y _ hy => patternOf_sub _ hy,
    hlanes (.wmul f d a b) .mul _ rfl fun x y _ _ => patternOf_mul _ e x y, hlanes (.wand f d a b) .and _ rfl fun _ _ _ _ => rfl, hlanes (.wor f d a b) .or _ rfl fun _ _ _ _ => rfl,
    hlanes (.wxor f d a b) .xor _ rfl fun _ _ _ _ => rfl, hlanes (.wshl f d a b) .shl _ rfl fun _ _ _ _ => rfl, hlanes (.wshr f d a b) .shr _ rfl fun _ _ _ _ => rfl,
    hlanes (.wsra f d a b) .sra (fun x y => (n x / (2 ^ (y % e) : Int) % (2 ^ e : Int)).toNat) rfl fun x y _ _ => ?_, hlanes (.wmin f d a b) .min _ rfl fun _ _ _ _ => rfl, hlanes (.wmax f d a b) .max _ rfl fun _ _ _ _ => rfl,
    hlanes (.waddSat f d a b) .addSat (fun x y => sat (n x + n y)) rfl fun x y _ _ => ?_, hlanes (.wsubSat f d a b) .subSat (fun x y => sat (n x - n y)) rfl fun x y _ _ => ?_,
    ?_⟩
  · exact (patternOf_eq e _).trans (by norm_cast)
  · exact (patternOf_eq e _).trans (by rw [clampInt_eq])
  · exact (patternOf_eq e _).trans (by rw [clampInt_eq])
  · have habs : execWabs f d a s = _ := State.wideTo_plain d _ hunbound (Slot.valid.sub hvalid (by simp))
    refine ⟨_, habs, fun j hj => ?_⟩
    have hx := lane_lt s.me.w[a] e j
    rw [map1, lane_allLanes _ _ hj, absLane_int hint hx, ← patternOf_eq, Nat.mod_eq_of_lt (patternOf_lt e _)]
    exact patternOf_eq e _

/-! ### Compares, selection and moves -/

theorem ite_ones_mod (c : Prop) [Decidable c] (e : Nat) : (if c then 2 ^ e - 1 else 0) % 2 ^ e = if c then 2 ^ e - 1 else 0 := by
  have := Nat.two_pow_pos e
  split
  · exact Nat.mod_eq_of_lt (by omega)
  · rfl
theorem lane_mod (l : Line) (e i : Nat) : lane l e i % 2 ^ e = lane l e i := Nat.mod_eq_of_lt (lane_lt l e i)
/-- An invalid source that no port stands for is the stale trap before anything else. -/
theorem State.wideRun_stale {a : WReg} (d : Option WReg) (f : (WReg → Line) → Line) (fin : Line → Slot → Slot) (hunbound : s.me.unbound)
    (hstale : s.me.wValid a = false) : s.wideRun [a] d f fin = .next (s.trapAt s.cur .stale (wrap (0x100 + a.val))) := by
  obtain ⟨h0, h1, h2⟩ := hunbound
  have hfirst : s.me.staleW [a] = some a := by simp [Slot.staleW, Slot.portOf_unbound h0 h1 h2, hstale]
  simp only [State.wideRun, State.wChecks, State.wLegal, hfirst]
  rfl

/-- Settles O19: each instruction through the lanes of its line, and the stale trap before all else. -/
theorem wideComparesAndMoves : Obligations.WideComparesAndMoves := by
  constructor
  · intro s f d a b c g hunbound hvalid e x y z is ones
    have hlanes : ∀ (i : Instr) (srcs : List WReg) (h : (WReg → Line) → Nat → Nat) (r : Nat → Nat), srcs ⊆ [a, b, c] →
        exec i s = s.wideTo srcs d (fun v => allLanes e (h v)) → (∀ j, h (fun q => s.me.w[q]) j % 2 ^ e = r j) → is i r :=
      fun i srcs h r hsub hi hr => ⟨_, hi.trans (State.wideTo_plain d _ hunbound (Slot.valid.sub hvalid hsub)),
        fun j hj => (lane_allLanes _ _ hj).trans (hr j)⟩
    have hab : [a, b] ⊆ [a, b, c] := by simp
    refine ⟨hlanes (.wclt f d a b) _ (fun v i => if laneLt f (lane (v a) e i) (lane (v b) e i) then ones else 0) _ hab rfl
        fun j => ite_ones_mod _ e,
      hlanes (.wceq f d a b) _ (fun v i => if laneEq f (lane (v a) e i) (lane (v b) e i) then ones else 0) _ hab rfl
        fun j => ite_ones_mod _ e,
      hlanes (.wcne f d a b) _ (fun v i => if !(laneEq f (lane (v a) e i) (lane (v b) e i)) then ones else 0) _ hab rfl
        fun j => (ite_ones_mod _ e).trans ?_,
      hlanes (.wcle f d a b) _ (fun v i => if laneLt f (lane (v a) e i) (lane (v b) e i) || laneEq f (lane (v a) e i) (lane (v b) e i)
        then ones else 0) _ hab rfl fun j => (ite_ones_mod _ e).trans ?_,
      hlanes (.wsel f d a b c) [a, b, c] (fun v i => if lane (v c) e i ≠ 0 then lane (v a) e i else lane (v b) e i) _ (List.Subset.refl _) rfl
        fun j => ?_,
      hlanes (.wperm f d a b) _ (fun v i => lane (v a) e (lane (v b) e i % (512 / e))) _ hab rfl fun j => lane_mod _ e _,
      hlanes (.wmov f d a) [a] (fun v i => lane (v a) e i) _ (by simp) rfl fun j => lane_mod _ e _,
      hlanes (.wbcst f d g) [] (fun _ _ => (s.me.getG g).toNat) _ (by simp) rfl fun j => rfl⟩
    · cases laneEq f (x j) (y j) <;> rfl
    · simp only [Bool.or_eq_true]
      rfl
    · split <;> exact lane_mod _ e _
  · intro s f d a hunbound hstale
    have hmov : execWmov f d a s = .next (s.trapAt s.cur .stale (wrap (0x100 + a.val))) := by
      rw [execWmov, State.wideTo, State.wideRun_stale _ _ _ hunbound hstale]
    have habs : execWabs f d a s = .next (s.trapAt s.cur .stale (wrap (0x100 + a.val))) := by
      rw [execWabs, State.wideTo, State.wideRun_stale _ _ _ hunbound hstale]
    have hsum : execWredSum f (Fin.ofNat 16 d.val) a s = .next (s.trapAt s.cur .stale (wrap (0x100 + a.val))) := by
      rw [execWredSum, State.reduce, State.wideRun_stale _ _ _ hunbound hstale]
    exact ⟨hmov, habs, hsum⟩

/-! ### Reductions and dot products -/

/-- A reduction of an unbound, valid register writes its value and completes. -/
theorem State.reduce_plain (g : GReg) {a : WReg} (r : Line → Word) (hunbound : s.me.unbound) (hvalid : s.me.valid [a]) :
    s.reduce g a r = .next (s.after (s.me.setG g (r s.me.w[a]))) := by
  obtain ⟨h0, h1, h2⟩ := hunbound
  exact State.wideRun_plain none _ _ h0 h1 h2 hvalid
theorem laneSum_eq_sum (sg : Bool) (e : Nat) (l : Line) (n : Nat) :
    laneSum sg e l n = ((List.range n).map fun j => intValue sg e (lane l e j)).sum := by
  induction n with
  | zero => rfl
  | succ n ih => rw [laneSum, ih, List.sum_range_succ]
theorem dotSum_eq_sum (sa sb : Bool) (e : Nat) (a b : Line) (j n : Nat) :
    dotSum sa sb e a b j n = ((List.range n).map fun i => intValue sa e (lane a e (j + i)) * intValue sb e (lane b e (j + i))).sum := by
  induction n with
  | zero => rfl
  | succ n ih => rw [dotSum, ih, List.sum_range_succ]
/-- A fold by the lesser of two lanes is the least of them. -/
theorem foldLanes_min (sg : Bool) (e : Nat) (l : Line) (n : Nat) : ∃ j, j ≤ n ∧ foldLanes (Bin.min.int sg e) e l n = lane l e j ∧
    ∀ m, m ≤ n → intValue sg e (lane l e j) ≤ intValue sg e (lane l e m) := by
  induction n with
  | zero => exact ⟨0, le_rfl, rfl, fun m hm => by rw [Nat.le_zero.mp hm]⟩
  | succ n ih =>
    obtain ⟨j, hj, hfold, hleast⟩ := ih
    have hnext : foldLanes (Bin.min.int sg e) e l (n + 1) = if intValue sg e (lane l e (n + 1)) < intValue sg e (lane l e j)
      then lane l e (n + 1) else lane l e j := by rw [foldLanes, hfold]; rfl
    by_cases hlt : intValue sg e (lane l e (n + 1)) < intValue sg e (lane l e j)
    · refine ⟨n + 1, le_rfl, hnext.trans (if_pos hlt), fun m hm => ?_⟩
      rcases Nat.le_succ_iff.mp hm with hm | rfl
      · exact hlt.le.trans (hleast m hm)
      · exact le_rfl
    · refine ⟨j, hj.trans n.le_succ, hnext.trans (if_neg hlt), fun m hm => ?_⟩
      rcases Nat.le_succ_iff.mp hm with hm | rfl
      · exact hleast m hm
      · exact not_lt.mp hlt
/-- A fold by the greater of two lanes is the greatest of them. -/
theorem foldLanes_max (sg : Bool) (e : Nat) (l : Line) (n : Nat) : ∃ j, j ≤ n ∧ foldLanes (Bin.max.int sg e) e l n = lane l e j ∧
    ∀ m, m ≤ n → intValue sg e (lane l e m) ≤ intValue sg e (lane l e j) := by
  induction n with
  | zero => exact ⟨0, le_rfl, rfl, fun m hm => by rw [Nat.le_zero.mp hm]⟩
  | succ n ih =>
    obtain ⟨j, hj, hfold, hgreatest⟩ := ih
    have hnext : foldLanes (Bin.max.int sg e) e l (n + 1) = if intValue sg e (lane l e j) < intValue sg e (lane l e (n + 1))
      then lane l e (n + 1) else lane l e j := by rw [foldLanes, hfold]; rfl
    by_cases hlt : intValue sg e (lane l e j) < intValue sg e (lane l e (n + 1))
    · refine ⟨n + 1, le_rfl, hnext.trans (if_pos hlt), fun m hm => ?_⟩
      rcases Nat.le_succ_iff.mp hm with hm | rfl
      · exact (hgreatest m hm).trans hlt.le
      · exact le_rfl
    · refine ⟨j, hj.trans n.le_succ, hnext.trans (if_neg hlt), fun m hm => ?_⟩
      rcases Nat.le_succ_iff.mp hm with hm | rfl
      · exact hgreatest m hm
      · exact not_lt.mp hlt
/-- A reduced lane is its value, as a word. -/
theorem laneWord_eq (f : Elt) {c : Nat} (hc : c < 2 ^ eltBits f) : laneWord f c = BitVec.ofInt 64 (intValue (eltSigned f) (eltBits f) c) := by
  unfold laneWord intValue
  cases eltSigned f
  · simp [wrap, Nat.mod_eq_of_lt hc]
  · rfl
theorem redBy_int {f : Elt} (hint : f.isInt = true) (o : Bin) (l : Line) :
    redBy o f l = laneWord f (foldLanes (o.int (eltSigned f) (eltBits f)) (eltBits f) l (512 / eltBits f - 1)) := by
  have hlanes : o.lanes f = o.int (eltSigned f) (eltBits f) := funext fun x => funext fun y => Bin.lanes_int hint o x y
  rw [redBy, eltFloat_int hint, hlanes]
theorem eltBits_div_pos (f : Elt) : 0 < 512 / eltBits f := by cases f <;> decide

/-- Settles O20: reductions and dots are sums and folds over the lanes. -/
theorem wideReductionsAndDots : Obligations.WideReductionsAndDots := by
  constructor
  · intro s f g a hunbound hvalid e l
    have hsum : execWredSum f g a s = _ := State.reduce_plain g (redSum f) hunbound hvalid
    have hmin : execWredMin f g a s = _ := State.reduce_plain g (redBy .min f) hunbound hvalid
    have hmax : execWredMax f g a s = _ := State.reduce_plain g (redBy .max f) hunbound hvalid
    refine ⟨hsum, hmin, hmax, fun hint => ⟨?_, ?_, ?_⟩⟩
    · rw [redSum, eltFloat_int hint]
      exact congrArg wrapInt (laneSum_eq_sum _ _ _ _)
    · obtain ⟨j, hj, hfold, hleast⟩ := foldLanes_min (eltSigned f) e s.me.w[a] (512 / e - 1)
      have hpos : 0 < 512 / e := eltBits_div_pos f
      exact ⟨j, by omega, by rw [redBy_int hint, hfold, laneWord_eq f (lane_lt _ _ _)], fun m hm => hleast m (by omega)⟩
    · obtain ⟨j, hj, hfold, hgreatest⟩ := foldLanes_max (eltSigned f) e s.me.w[a] (512 / e - 1)
      have hpos : 0 < 512 / e := eltBits_div_pos f
      exact ⟨j, by omega, by rw [redBy_int hint, hfold, laneWord_eq f (lane_lt _ _ _)], fun m hm => hgreatest m (by omega)⟩
  · intro s f sat p d a b c hunbound hvalid w e
    have hdot : execWdot f sat p d a b c s = _ := State.wideTo_plain d _ hunbound hvalid
    refine ⟨_, hdot, fun j hj => ?_⟩
    rw [lane_allLanes _ _ hj, dotSum_eq_sum]
    exact Nat.mod_eq_of_lt (patternOf_lt _ _)

/-! ### Floating lanes, special functions and conversions -/

theorem Bin.lanes_float {f : Elt} {x : FloatFmt} (hx : eltFloat f = some x) (o : Bin) : o.lanes f = o.float x := by
  funext p q
  rw [Bin.lanes, hx]
theorem fmaLane_float {f : Elt} {x : FloatFmt} (hx : eltFloat f = some x) (np nc : Bool) (p q r : Nat) : fmaLane f np nc p q r =
    x.rne ((if np then ((x.value p).mul (x.value q)).negate else (x.value p).mul (x.value q)).add
      (if nc then (x.value r).negate else x.value r)) := by
  rw [fmaLane, hx]
theorem width_of_eltFloat {f : Elt} {x : FloatFmt} (hx : eltFloat f = some x) : x.width = eltBits f := by
  cases f <;> cases hx <;> rfl
theorem absLane_float {f : Elt} {x : FloatFmt} (hx : eltFloat f = some x) (p : Nat) :
    absLane f p = if x.value p = .nan then x.nan else p % 2 ^ (eltBits f - 1) := by
  rw [absLane, hx, ← width_of_eltFloat hx]
  simp only [Num.isNan, decide_eq_true_eq]
theorem specialLane_float {f : Elt} {x : FloatFmt} (hx : eltFloat f = some x) (o : Special) : specialLane o f = o.apply x := by
  funext p
  rw [specialLane, hx]
/-- An instruction of major 0x44 applies its function to each lane. -/
theorem State.special_plain {f : Elt} {x : FloatFmt} (o : Special) (d : WReg) {a : WReg} (hx : eltFloat f = some x) (hunbound : s.me.unbound)
    (hvalid : s.me.valid [a]) : s.special o f d a = .next (s.after (s.me.setW d (map1 (eltBits f) (o.apply x) s.me.w[a]))) := by
  rw [State.special, State.wideTo_plain d _ hunbound hvalid, specialLane_float hx]
theorem specialValues : Special.exp.apply fp32 0 = 0x3F800000 ∧ Special.log.apply fp32 0x3F800000 = 0 ∧ Special.tanh.apply fp32 0 = 0 ∧
    Special.sig.apply fp32 0 = 0x3F000000 ∧ Special.rcp.apply fp32 0x40000000 = 0x3F000000 ∧
    Special.rsq.apply fp32 0x40800000 = 0x3F000000 ∧ Special.rcp.apply fp32 0 = 0x7F800000 := by decide +kernel

/-- A line of fewer lanes than fit is zero above them. -/
theorem ofLanes_getLsbD_above (e n : Nat) (f : Nat → Nat) {i : Nat} (hi : n * e ≤ i) : (ofLanes e n f).getLsbD i = false := by
  have hlt : lanesSum e f n < 2 ^ i := (lanesSum_lt e f n).trans_le (Nat.pow_le_pow_right (by norm_num) (by rwa [Nat.mul_comm]))
  rw [ofLanes, BitVec.getLsbD_ofNat, Nat.testBit_lt_two_pow hlt, Bool.and_false]
/-- A conversion fills the lanes that fit both lines, in order. -/
theorem cvtLine_lanes (p : Pivot) (src dst : Kind) (sat : Bool) (r : Rnd) (scales : Option Word) (a : Line) :
    (∀ j, j < 512 / max src.bits dst.bits → lane (cvtLine p src dst sat r scales a) dst.bits j =
      cvtElt src dst sat r (scales.map fun v => scaleOf p v j (512 / max src.bits dst.bits)) (lane a src.bits j) % 2 ^ dst.bits) ∧
    ∀ i, 512 / max src.bits dst.bits * dst.bits ≤ i → (cvtLine p src dst sat r scales a).getLsbD i = false :=
  ⟨fun _ hj => lane_ofLanes _ _ _ hj
      (((Nat.mul_comm _ _).trans_le (Nat.mul_le_mul_left _ (le_max_right _ _))).trans (Nat.div_mul_le_self 512 _)),
    fun _ hi => ofLanes_getLsbD_above _ _ _ hi⟩
theorem fmtKind_of_fmtPivot {f : Fmt} {q : Pivot} (h : fmtPivot f = some q) : fmtKind f = pivotKind q := by
  cases f with
  | b8 b => cases h
  | elt x => cases x <;> cases h <;> rfl
/-- Either word of two pivots converts the same way. -/
theorem execWcvtScaled_pivots {pv q : Pivot} {f f' : Fmt} (sat : Bool) (r : Rnd) (d a : WReg) (g : GReg) (hf : fmtPivot f = some q)
    (hf' : fmtPivot f' = some pv) : execWcvtScaled true pv f sat r d a g s = execWcvtScaled false q f' sat r d a g s := by
  simp only [execWcvtScaled, cvtKinds, scalePivot, hf, fmtKind_of_fmtPivot hf, fmtKind_of_fmtPivot hf', if_true, Option.getD_some,
    Bool.false_eq_true, if_false]

/-- Lines of the same lanes are the same result. -/
theorem State.writesLanes {d : WReg} {e : Nat} {g h : Nat → Nat} (hgh : ∀ j, g j = h j) :
    (.next (s.after (s.me.setW d (allLanes e g))) : Out) = .next (s.after (s.me.setW d (allLanes e h))) := by
  rw [show g = h from funext hgh]

/-- Settles O18: floating lanes are one rounding each, special functions the table's, and conversions fill the lanes that fit. -/
theorem wideFloatLanes : Obligations.WideFloatLanes := by
  refine ⟨?_, ⟨?_, specialValues⟩, ?_⟩
  · intro s f x d a b c hx hunbound hvalid e is v
    have hab : s.me.valid [a, b] := Slot.valid.sub hvalid (by simp)
    have hwide2 : ∀ (i : Instr) (o : Bin) (op : Nat → Nat → Nat → Nat), exec i s = s.wide2 o f d a b →
        (∀ p q r, o.float x p q = op p q r) → is i op := fun i o op hi hop => by
      have hdone : s.wide2 o f d a b = _ := State.wideTo_plain d _ hunbound hab
      refine hi.trans (hdone.trans ?_)
      rw [Bin.lanes_float hx]
      exact State.writesLanes fun j => hop _ _ _
    have hfma : ∀ (i : Instr) (np nc : Bool) (op : Nat → Nat → Nat → Nat), exec i s = s.fma np nc f d a b c →
        (∀ p q r, fmaLane f np nc p q r = op p q r) → is i op := fun i np nc op hi hop => by
      have hdone : s.fma np nc f d a b c = _ := State.wideTo_plain d _ hunbound hvalid
      refine hi.trans (hdone.trans ?_)
      exact State.writesLanes fun j => hop _ _ _
    have habs : execWabs f d a s = _ := State.wideTo_plain d _ hunbound (Slot.valid.sub hvalid (by simp))
    have habs' : is (.wabs f d a) fun p _ _ => if v p = .nan then x.nan else p % 2 ^ (e - 1) :=
      habs.trans (State.writesLanes fun j => absLane_float hx _)
    exact ⟨hwide2 (.wadd f d a b) .add (fun p q _ => x.rne ((v p).add (v q))) rfl fun _ _ _ => rfl,
      hwide2 (.wsub f d a b) .sub (fun p q _ => x.rne ((v p).add (v q).negate)) rfl fun _ _ _ => rfl,
      hwide2 (.wmul f d a b) .mul (fun p q _ => x.rne ((v p).mul (v q))) rfl fun _ _ _ => rfl,
      hwide2 (.wmin f d a b) .min (fun p q _ => minFloat x p q) rfl fun _ _ _ => rfl,
      hwide2 (.wmax f d a b) .max (fun p q _ => maxFloat x p q) rfl fun _ _ _ => rfl, habs',
      hfma (.wfma f d a b c) false false (fun p q r => x.rne (((v p).mul (v q)).add (v r))) rfl fun _ _ _ => fmaLane_float hx _ _ _ _ _,
      hfma (.wfms f d a b c) false true (fun p q r => x.rne (((v p).mul (v q)).add (v r).negate)) rfl
        fun _ _ _ => fmaLane_float hx _ _ _ _ _,
      hfma (.wfnma f d a b c) true false (fun p q r => x.rne (((v p).mul (v q)).negate.add (v r))) rfl
        fun _ _ _ => fmaLane_float hx _ _ _ _ _,
      hfma (.wfnms f d a b c) true true (fun p q r => x.rne (((v p).mul (v q)).negate.add (v r).negate)) rfl
        fun _ _ _ => fmaLane_float hx _ _ _ _ _⟩
  · intro s f x d a hx hunbound hvalid is
    have hspecial : ∀ (i : Instr) (o : Special), exec i s = s.special o f d a → is i o := fun i o hi =>
      hi.trans (State.special_plain o d hx hunbound hvalid)
    exact ⟨hspecial (.wsig f d a) _ rfl, hspecial (.wexp f d a) _ rfl, hspecial (.wrcp f d a) _ rfl, hspecial (.wrsq f d a) _ rfl,
      hspecial (.wtanh f d a) _ rfl, hspecial (.wlog f d a) _ rfl⟩
  · intro s up sat pv f r d a g hunbound hvalid src dst n
    have hkinds : cvtKinds up pv f = (src, dst) := by cases up <;> rfl
    have hplain : execWcvt up pv f sat r d a s = .next (s.after (s.me.setW d (cvtLine pv src dst sat r none s.me.w[a]))) := by
      rw [execWcvt, hkinds]
      exact State.wideTo_plain d _ hunbound hvalid
    have hscaled : execWcvtScaled up pv f sat r d a g s =
        .next (s.after (s.me.setW d (cvtLine (scalePivot up pv f) src dst sat r (some (s.me.getG g)) s.me.w[a]))) := by
      rw [execWcvtScaled, hkinds]
      exact State.wideTo_plain d _ hunbound hvalid
    exact ⟨⟨_, hplain, cvtLine_lanes _ _ _ _ _ _ _⟩, ⟨_, hscaled, cvtLine_lanes _ _ _ _ _ _ _⟩,
      fun q f' hf hf' => execWcvtScaled_pivots sat r d a g hf hf'⟩

end Sys2Proof.Machine
end

section
/-!
SUPPORT. The system instructions and the control registers: the branch each takes, the fields of the words that CRD reads, and how long a spread value parks its writer. SystemInstructions and ControlRegisters are assembled from these.
-/
namespace Sys2Proof.Machine

variable {s : State}

theorem State.attached_eq {d : VDev} (hd : s.vd? s.me.vd = some d) : s.attached = d.attached := by
  rw [State.attached, hd]
theorem State.haltOver_iff {k : Slot} : s.haltOver k = true ↔ k.wakeat.toNat ≤ s.devHalfNs / 2 ∨ k.inbox ≠ [] ∨ k.overflow ≠ [] := by
  simp only [State.haltOver, Bool.or_eq_true, decide_eq_true_eq, or_assoc]
  rfl
theorem State.fetch_misaligned {key : Nat} {va : Word} (h : va.toNat % 4 ≠ 0) : s.fetch key va = .fault .fetch := if_pos (.inl h)
/-- A slot that parks keeps all but its mode. -/
theorem State.park_eq (w : Wait) : s.park w = .next (s.setSlot s.cur { s.me with mode := .parked w }) := rfl
/-- A demand fault is posted for the context, which waits for its answer. -/
theorem State.demandPark_eq (ipa : Nat) (va : Word) : ∃ t : State, s.demandPark ipa va = .next t ∧ t.me.mode = .parked (.demand s.nextId) ∧
    t.demands = s.demands ++ [⟨s.nextId, s.me.vd, ipa, va, .slot s.me.ctx, false⟩] ∧ t.me.pc = s.me.pc :=
  ⟨_, rfl, congrArg Slot.mode (State.me_setSlot _ _), rfl,
    (congrArg Slot.pc (State.me_setSlot _ _)).trans rfl⟩

/-- Settles O40: each instruction's one branch, and the three ends of a fetch that fails. -/
theorem systemInstructions : Obligations.SystemInstructions := by
  refine ⟨fun s n d hd => ⟨rfl, fun hatt => ?_, fun hatt => ?_, fun hover => ?_, fun hlater hinbox hoverflow => ?_⟩, fun s b n hmode hwake => ?_,
    fun s => ⟨fun c hf => ?_, fun hf => ?_, fun ipa hf => ?_, State.fetch_misaligned⟩⟩
  · exact if_neg (by rw [State.attached_eq hd, hatt]; exact Bool.false_ne_true)
  · exact if_pos ((State.attached_eq hd).trans hatt)
  · exact if_pos (State.haltOver_iff.mpr hover)
  · refine if_neg fun h => ?_
    rcases State.haltOver_iff.mp h with h | h | h
    · omega
    · exact h hinbox
    · exact h hoverflow
  · exact if_pos ⟨hmode, State.haltOver_iff.mpr (.inl hwake)⟩
  · change execFetchFault s = _
    rw [execFetchFault, hf]
    rfl
  · change execFetchFault s = _
    rw [execFetchFault, hf]
  · have hexec : exec .fetchFault s = s.demandPark ipa s.me.pc := by
      change execFetchFault s = _
      rw [execFetchFault, hf]
    rw [hexec]
    exact State.demandPark_eq ipa s.me.pc

/-! ### Control registers -/

theorem State.xvec_eq {x : VDev} (hx : s.vd? s.me.vd = some x) : s.xvec = x.xvec := by rw [State.xvec, hx]
theorem State.bwphase_eq {x : VDev} (hx : s.vd? s.me.vd = some x) : s.bwphase = x.bwphase := by rw [State.bwphase, hx]
/-- Which control registers CRD reads at which level. -/
theorem crdAllowed_of {c : CReg} {l : Level} {v : Word}
    (h : l = .handler ∨ c ∉ [CReg.xpc, .xcause, .xval, .sinv, .xvec] ∨ (c = .xvec ∧ v = 0)) : crdAllowed c l v = true := by
  rcases h with rfl | h | ⟨rfl, rfl⟩
  · rfl
  · cases l with
    | handler => rfl
    | task => cases c <;> simp [crdAllowed] at h ⊢
  · cases l <;> rfl
theorem exec_crd_read {c : CReg} (d : GReg) (h : crdAllowed c s.me.level s.xvec = true) :
    exec (.crd d c) s = .next (s.after (s.me.setG d (s.crValue c))) := if_pos h
theorem Level.bit_eq (l : Level) : l.bit = b2n (decide (l = .handler)) := by cases l <;> rfl
theorem decide_mod_two (b : Bool) (n : Nat) (h : n % 2 = b2n b) : decide (n % 2 = 1) = b := by
  rw [h]
  cases b <;> rfl

/-- The fields of XSTAT stand in their places (Table 6.2). -/
theorem Slot.xstat_fields (k : Slot) : bits k.xstat 63 32 = 0 ∧ bits k.xstat 31 16 = k.zv.toNat ∧ bits k.xstat 15 8 = k.wv.toNat ∧
    bits k.xstat 7 4 = 0 ∧ bit k.xstat 3 = k.sstep ∧ bit k.xstat 2 = k.frame.active ∧ bit k.xstat 1 = decide (k.plevel = .handler) ∧
    bit k.xstat 0 = decide (k.level = .handler) := by
  have hz := k.zv.isLt
  have hw := k.wv.isLt
  have hs := b2n_le k.sstep
  have ha := b2n_le k.frame.active
  have hp := b2n_le (decide (k.plevel = .handler))
  have hl := b2n_le (decide (k.level = .handler))
  have hnat : k.xstat.toNat = k.zv.toNat * 2 ^ 16 + k.wv.toNat * 2 ^ 8 + b2n k.sstep * 8 + b2n k.frame.active * 4 +
      b2n (decide (k.plevel = .handler)) * 2 + b2n (decide (k.level = .handler)) := by
    rw [Slot.xstat, wrap, BitVec.toNat_ofNat, Level.bit_eq, Level.bit_eq]
    omega
  simp only [bits, bit, hnat, Nat.testBit_eq_decide_div_mod_eq]
  refine ⟨by omega, by omega, by omega, by omega, decide_mod_two _ _ (by omega), decide_mod_two _ _ (by omega), decide_mod_two _ _ (by omega),
    decide_mod_two _ _ (by omega)⟩
/-- The fields of XFRAME stand in their places (Table 6.6). -/
theorem Slot.xframe_fields (k : Slot) (hiter : k.frame.iter < 4096) (hpos : k.frame.pos < 16) (hlen : k.frame.lenm1 < 16)
    (hcnt : k.frame.cntm1 < 4096) (hstag : k.frame.stag < 8) :
    bit k.xframe 63 = k.frame.active ∧ bits k.xframe 62 48 = 0 ∧ bits k.xframe 47 36 = k.frame.iter ∧ bits k.xframe 35 32 = k.frame.pos ∧
      bits k.xframe 31 28 = k.frame.lenm1 ∧ bits k.xframe 27 16 = k.frame.cntm1 ∧ bits k.xframe 15 3 = 0 ∧
      bits k.xframe 2 0 = k.frame.stag := by
  have ha := b2n_le k.frame.active
  have hnat : k.xframe.toNat = b2n k.frame.active * 2 ^ 63 + k.frame.iter * 2 ^ 36 + k.frame.pos * 2 ^ 32 + k.frame.lenm1 * 2 ^ 28 +
      k.frame.cntm1 * 2 ^ 16 + k.frame.stag := by
    rw [Slot.xframe, wrap, BitVec.toNat_ofNat]
    omega
  simp only [bits, bit, hnat, Nat.testBit_eq_decide_div_mod_eq]
  refine ⟨decide_mod_two _ _ (by omega), by omega, by omega, by omega, by omega, by omega, by omega, by omega⟩

/-! ### CWR -/

theorem Level.ne_task {l : Level} (h : l = .handler) : l ≠ .task := by
  rw [h]
  exact Level.noConfusion
/-- A spread value stands everywhere at most 2,000 cycles later. -/
theorem State.spreadStop_bounds : s.cycle ≤ s.spreadStop.1 ∧ s.spreadStop.1 ≤ s.cycle + 2000 := by
  have : s.spreadStop.1 = s.cycle + s.choose.1 % 2001 := rfl
  omega
/-- CWR XVEC that may be written parks its slot until the value has spread. -/
theorem exec_cwrXvec_spreads {g : GReg} (hmay : ¬(s.me.level = .task ∧ s.xvec ≠ 0)) (hbits : bits (s.me.getG g) 1 0 = 0) :
    ∃ (t : State) (stop : Nat), exec (.cwrXvec g) s = .next t ∧ s.cycle ≤ stop ∧ stop ≤ s.cycle + 2000 ∧
      t.vds = (s.modVd s.me.vd fun d => { d with xvec := s.me.getG g }).vds ∧
      t.me = { s.me with mode := .parked (.spread stop (s.me.getG g) [] 0) } ∧ t.mem = s.mem := by
  obtain ⟨hlo, hhi⟩ := State.spreadStop_bounds (s := s)
  have hexec : exec (.cwrXvec g) s = _ := (if_neg hmay).trans (if_neg (not_not.mpr hbits))
  exact ⟨_, _, hexec, hlo, hhi, rfl, State.me_setSlot _ _, rfl⟩
theorem exec_cwrXvec_refused {g : GReg} (hmay : ¬(s.me.level = .task ∧ s.xvec ≠ 0)) (hbits : bits (s.me.getG g) 1 0 ≠ 0) :
    exec (.cwrXvec g) s = .next (s.trapAt s.cur .illegalOperand (s.me.getG g)) := (if_neg hmay).trans (if_pos hbits)
/-- The pseudo-channels that a raised phase wakes. -/
def State.woken (s : State) (phase : Nat) : KMap PchState :=
  s.pch.map fun kv => if (s.stacksOf s.me.vd).contains (kv.1 / 64) && sleepsUnder kv.2 phase then (kv.1, PchState.waking) else kv
/-- CWR BWPHASE sets the phase, wakes what it raises, and parks until all has spread. -/
theorem exec_cwrBwphase_eq {g : GReg} {d : VDev} (hlevel : s.me.level = .handler) (hd : s.vd? s.me.vd = some d) (hbits : bits (s.me.getG g) 63 8 = 0) :
    exec (.cwrBwphase g) s =
      let t := (s.modVd s.me.vd fun d => { d with bwphase := (s.me.getG g).setWidth 8 }).spreadStop
      let phase := effectivePhase d ((s.me.getG g).setWidth 8)
      if effectivePhase d d.bwphase < phase then { t.2 with pch := s.woken phase }.park (.spread t.1 (s.me.getG g) (s.stacksOf s.me.vd) phase)
      else t.2.park (.spread t.1 (s.me.getG g) [] 0) := by
  have hexec : exec (.cwrBwphase g) s = _ := (if_neg (Level.ne_task hlevel)).trans (if_neg (not_not.mpr hbits))
  rw [hexec, hd]
  rfl
theorem State.woken_selfRefresh {phase : Nat} {kv : Nat × PchState} (hmem : kv ∈ s.woken phase)
    (hstack : (s.stacksOf s.me.vd).contains (kv.1 / 64) = true) (hself : kv.2 = .selfRefresh) : phase < 2 := by
  obtain ⟨x, -, rfl⟩ := List.mem_map.mp hmem
  split at hself
  case isTrue => cases hself
  case isFalse h =>
    rw [if_neg h] at hstack
    rw [hstack, hself] at h
    simpa [sleepsUnder] using h
theorem State.spreadOver_eq {key stop ph : Nat} {x : Word} {sts : List Nat} (hmode : (s.slotAt key).mode = .parked (.spread stop x sts ph)) :
    s.spreadOver key = if stop ≤ s.cycle ∧ s.phaseServes sts ph then s.completeAt key (s.slotAt key).advance else s := by
  rw [State.spreadOver, hmode]

/-- A value that may not stand in the register is refused. -/
theorem State.refuseCwr_eq (v : Word) : s.refuseCwr v = .next (s.trapAt s.cur .illegalOperand v) := rfl
theorem exec_cwrBwphase_spreads {g : GReg} {d : VDev} (hlevel : s.me.level = .handler) (hd : s.vd? s.me.vd = some d)
    (hbits : bits (s.me.getG g) 63 8 = 0) :
    ∃ (t : State) (stop : Nat), exec (.cwrBwphase g) s = .next t ∧ s.cycle ≤ stop ∧ stop ≤ s.cycle + 2000 ∧
      t.vds = (s.modVd s.me.vd fun d => { d with bwphase := (s.me.getG g).setWidth 8 }).vds ∧ t.mem = s.mem ∧
      (effectivePhase d d.bwphase < effectivePhase d ((s.me.getG g).setWidth 8) →
        t.me = { s.me with mode := .parked (.spread stop (s.me.getG g) (s.stacksOf s.me.vd) (effectivePhase d ((s.me.getG g).setWidth 8))) } ∧
        ∀ kv ∈ t.pch, (s.stacksOf s.me.vd).contains (kv.1 / 64) = true → kv.2 = .selfRefresh →
          effectivePhase d ((s.me.getG g).setWidth 8) < 2) ∧
      (effectivePhase d ((s.me.getG g).setWidth 8) ≤ effectivePhase d d.bwphase →
        t.me = { s.me with mode := .parked (.spread stop (s.me.getG g) [] 0) } ∧ t.pch = s.pch) := by
  obtain ⟨hlo, hhi⟩ := State.spreadStop_bounds (s := s.modVd s.me.vd fun d => { d with bwphase := (s.me.getG g).setWidth 8 })
  have hexec := exec_cwrBwphase_eq hlevel hd hbits
  dsimp only at hexec
  split at hexec
  case isTrue hup =>
    exact ⟨_, _, hexec, hlo, hhi, rfl, rfl, fun _ => ⟨State.me_setSlot _ _, fun kv hkv => State.woken_selfRefresh hkv⟩,
      fun hdown => absurd hup (by omega)⟩
  case isFalse hdown =>
    exact ⟨_, _, hexec, hlo, hhi, rfl, rfl, fun hup => absurd hup hdown, fun _ => ⟨State.me_setSlot _ _, rfl⟩⟩
/-- CWR SINV posts its invalidation and waits for it. -/
theorem exec_cwrSinv_posts {g : GReg} (hlevel : s.me.level = .handler) (hhi : bits (s.me.getG g) 51 48 = 0) (hlo : bits (s.me.getG g) 11 2 = 0) :
    ∃ t : State, exec (.cwrSinv g) s = .next t ∧ t.me.mode = .parked (.invalidation s.nextId) ∧
      t.invals = s.invals ++ [⟨s.nextId, some s.me.ctx, s.me.vd, s.me.getG g⟩] := by
  have hexec : exec (.cwrSinv g) s = _ := (if_neg (Level.ne_task hlevel)).trans (if_neg (by simp [hhi, hlo]))
  exact ⟨_, hexec, congrArg Slot.mode (State.me_setSlot _ _), rfl⟩
theorem State.spreadOver_ends {key stop ph : Nat} {x : Word} {sts : List Nat} (hmode : (s.slotAt key).mode = .parked (.spread stop x sts ph)) :
    (stop ≤ s.cycle → s.phaseServes sts ph = true → s.spreadOver key = s.completeAt key (s.slotAt key).advance) ∧
    (s.cycle < stop ∨ s.phaseServes sts ph = false → s.spreadOver key = s) := by
  rw [State.spreadOver_eq hmode]
  refine ⟨fun hstop hserves => if_pos ⟨hstop, hserves⟩, fun hnot => if_neg fun ⟨hstop, hserves⟩ => ?_⟩
  rcases hnot with hnot | hnot
  · omega
  · rw [hserves] at hnot
    cases hnot
theorem exec_cwr_readOnly {g : GReg} {c : CReg}
    (hc : c ∈ [CReg.partid, .slotid, .brickid, .regionid, .ackcnt, .tkt, .mqval, .srem0, .srem1, .srem2, .devtime]) :
    exec (.cwr g c) s = .next (s.trapAt s.cur .privilege (instrWord (.cwr g c))) := by
  simp only [List.mem_cons, List.not_mem_nil, or_false] at hc
  rcases hc with rfl | rfl | rfl | rfl | rfl | rfl | rfl | rfl | rfl | rfl | rfl <;> rfl
/-- The handler's registers are closed at task level. -/
theorem exec_creg_task {g : GReg} {c : CReg} (hlevel : s.me.level = .task) (hc : c = .xpc ∨ c = .xcause ∨ c = .xval) :
    exec (.crd g c) s = s.privilege (.crd g c) ∧ exec (.cwr g c) s = s.privilege (.cwr g c) := by
  have hclosed : crdAllowed c s.me.level s.xvec = false := by
    rw [hlevel]
    rcases hc with rfl | rfl | rfl <;> rfl
  refine ⟨if_neg (by rw [hclosed]; exact Bool.false_ne_true), ?_⟩
  rcases hc with rfl | rfl | rfl
  · exact if_pos hlevel
  · exact if_pos hlevel
  · exact if_pos hlevel

/-- Settles O38: reads by the fields of the words they read, writes by the branch of the register, and the closed registers at task level. -/
theorem controlRegisters : Obligations.ControlRegisters := by
  refine ⟨fun s d c x hx => ?_, fun s g d hlevel hd => ?_, fun s g c hlevel => ?_⟩
  · refine ⟨fun h => exec_crd_read d (crdAllowed_of (State.xvec_eq hx ▸ h)), rfl, rfl, rfl, rfl, rfl, rfl, rfl, rfl, rfl,
      State.xvec_eq hx, rfl, rfl, rfl, rfl, rfl, congrArg (BitVec.setWidth 64) (State.bwphase_eq hx), rfl, rfl, rfl, s.me.xstat_fields,
      s.me.xframe_fields⟩
  · have hh := Level.ne_task hlevel
    have hmay : ¬(s.me.level = .task ∧ s.xvec ≠ 0) := fun h => hh h.1
    exact ⟨if_neg hh, if_neg hh, rfl, fun hbits => (if_neg hh).trans (if_neg (not_not.mpr hbits)), fun hbits => (if_neg hh).trans (if_pos hbits),
      fun h1 h2 => (if_neg hh).trans (if_neg (by simp [h1, h2])), fun h => (if_neg hh).trans (if_pos h),
      exec_cwrXvec_spreads hmay, exec_cwrXvec_refused hmay,
      fun h1 h2 h3 => (if_neg hh).trans (if_neg (by simp [h1, h2, h3])), fun h => (if_neg hh).trans (if_pos h),
      fun hbits hsb => (if_neg hh).trans ((if_neg (not_not.mpr hbits)).trans (if_neg (not_not.mpr hsb))),
      fun hbits hsb => (if_neg hh).trans ((if_neg (not_not.mpr hbits)).trans (if_pos hsb)), fun hbits => (if_neg hh).trans (if_pos hbits),
      exec_cwrBwphase_spreads hlevel hd, fun t key stop ph x sts => State.spreadOver_ends,
      fun hbits => (if_neg hh).trans (if_pos hbits), exec_cwrSinv_posts hlevel, fun h => (if_neg hh).trans (if_pos h),
      fun c hc => exec_cwr_readOnly hc⟩
  · have hmay : s.xvec = 0 → ¬(s.me.level = .task ∧ s.xvec ≠ 0) := fun hx h => h.2 hx
    exact ⟨if_pos hlevel, if_pos hlevel, if_pos hlevel, if_pos hlevel, if_pos hlevel, if_pos hlevel, if_pos hlevel, if_pos hlevel,
      fun hx => if_pos ⟨hlevel, hx⟩, exec_creg_task hlevel, if_pos hlevel, rfl, fun hx => exec_cwrXvec_refused (hmay hx),
      fun hx => exec_cwrXvec_spreads (hmay hx)⟩

end Sys2Proof.Machine
end

section
/-!
SUPPORT. Hires, which the yard takes or rejects, and the slices of a pallet. Hires and PalletSlices are assembled from these.
-/
namespace Sys2Proof.Machine

variable {s : State}

/-! ### Hires -/

/-- Entries that fit the inbox are appended to it. -/
theorem Slot.foldl_addInbox {es : List InboxEntry} : ∀ {k : Slot}, k.overflow = [] → k.inbox.length + es.length ≤ 16 →
    es.foldl Slot.addInbox k = { k with inbox := k.inbox ++ es } := by
  induction es with
  | nil =>
    intro k _ _
    rw [List.append_nil]
    rfl
  | cons e es ih =>
    intro k hover hroom
    rw [List.length_cons] at hroom
    have hadd : k.addInbox e = { k with inbox := k.inbox ++ [e] } := if_pos ⟨hover, by omega⟩
    rw [List.foldl_cons, hadd]
    refine (ih (k := { k with inbox := k.inbox ++ [e] }) hover ?_).trans ?_
    · rw [List.length_append, List.length_singleton]
      omega
    · rw [List.append_assoc]
      rfl
theorem rejections_length (ticket lane status n : Nat) : (rejections ticket lane status n).length = n := by simp [rejections]

section
/-- The z register `i` places after another. -/
def zReg (z : ZReg) (i : Nat) : ZReg := Fin.ofNat 16 (z.val + i)
/-- The hods of a hire of `n` z registers. -/
def Slot.hodsOf (k : Slot) (z : ZReg) (n : Nat) : List Line := (List.range n).map fun i => k.z[zReg z i]
theorem zReg_zero (z : ZReg) : zReg z 0 = z := by
  apply Fin.ext
  simp [zReg]
theorem Slot.hodsOf_one (k : Slot) (z : ZReg) : k.hodsOf z 1 = [k.z[z]] := by
  simp [Slot.hodsOf, zReg_zero]

variable {t : GReg} {z : ZReg} {n lane : Nat}
/-- A hire of valid z registers within the limit, with its stores done: what the yard says decides. -/
theorem State.hire_checked (hvalid : ∀ i < n, s.me.zValid (zReg z i) = true) (hlimit : s.me.hires + n ≤ 512) (hsb : s.me.sb = [])
    (hack : s.me.ackcnt = 0) : s.hire t z n lane =
      let st := s.yardCheck s.me.vd (s.brick / 512) (s.me.hodsOf z n)
      if st ≠ 0 then
        let es := rejections s.me.tkt.toNat lane st n
        let s' := { s with yardWaits := s.yardWaits.filter fun w => decide (w.1 ≠ s.me.ctx) }
        if s.me.mailRoom n then s'.retire fun k => es.foldl Slot.addInbox (k.hired t n)
        else (es.foldl (fun s' e => s'.post s.me.ctx (some lane) e) s').retire fun k => k.hired t n
      else
        match s.mustWait s.me (s.brick / 512) n with
        | some share => s.awaitYard (s.brick / 512) n lane share
        | none =>
          if 8 ≤ (s.laneOf (masterOf s.cur s.me.vd) lane).length then s.awaitYard (s.brick / 512) n lane true
          else (s.enterLane s.me s.brick lane (s.me.hodsOf z n)).retire fun k => k.hired t n := by
  have hfind : ((List.range n).find? fun i => !(s.me.zValid (zReg z i))) = none := by
    rw [List.find?_eq_none]
    intro i hi
    simp [hvalid i (List.mem_range.mp hi)]
  have hdrained : ∀ go, s.drainedAck go = go := fun go => if_neg (by simp [hsb, hack])
  unfold State.hire
  dsimp only
  rw [show ((List.range n).find? fun i => !(s.me.zValid (Fin.ofNat 16 (z.val + i)))) = none from hfind]
  dsimp only
  rw [if_neg (by omega), hdrained]
  rfl

/-- A hire that the yard takes joins its lane. -/
theorem State.hire_enters (hvalid : ∀ i < n, s.me.zValid (zReg z i) = true) (hlimit : s.me.hires + n ≤ 512) (hsb : s.me.sb = [])
    (hack : s.me.ackcnt = 0) (hyard : s.yardCheck s.me.vd (s.brick / 512) (s.me.hodsOf z n) = 0)
    (hroom : s.mustWait s.me (s.brick / 512) n = none) (hlane : (s.laneOf (masterOf s.cur s.me.vd) lane).length < 8) :
    ∃ u : State, s.hire t z n lane = .next (u.after { (s.me.setG t (s.me.tkt.setWidth 64)).dropAhead with
        tkt := s.me.tkt + BitVec.ofNat 32 n, hires := s.me.hires + n }) ∧ u.cur = s.cur ∧ u.slots = s.slots ∧ u.mem = s.mem ∧
      ∃ e, u.entries = s.entries ++ [e] ∧ e.hods = s.me.hodsOf z n ∧ e.ticket = s.me.tkt.toNat ∧ e.lane = lane ∧ e.ctx = s.me.ctx ∧
        e.master = masterOf s.cur s.me.vd ∧ e.vd = s.me.vd ∧ e.region = s.me.region ∧ e.stage = .waiting := by
  refine ⟨s.enterLane s.me s.brick lane (s.me.hodsOf z n), ?_, rfl, rfl, rfl, _, rfl, rfl, rfl, rfl, rfl, rfl, rfl, rfl, rfl⟩
  rw [State.hire_checked hvalid hlimit hsb hack]
  dsimp only
  rw [hyard, hroom]
  exact (if_neg (not_not.mpr rfl)).trans (if_neg (by omega))
/-- A hire that the yard rejects takes its tickets and leaves an entry for each hod. -/
theorem State.hire_rejected (hvalid : ∀ i < n, s.me.zValid (zReg z i) = true) (hlimit : s.me.hires + n ≤ 512) (hsb : s.me.sb = [])
    (hack : s.me.ackcnt = 0) (hinbox : s.me.inbox.length + n ≤ 16) (hover : s.me.overflow = []) {st : Nat} (hst : st ≠ 0)
    (hyard : s.yardCheck s.me.vd (s.brick / 512) (s.me.hodsOf z n) = st) :
    ∃ k : Slot, s.hire t z n lane = .next ({ s with yardWaits := s.yardWaits.filter fun w => decide (w.1 ≠ s.me.ctx) }.after k) ∧
      k.tkt = s.me.tkt + BitVec.ofNat 32 n ∧ k.getG t = s.me.tkt.setWidth 64 ∧ k.hires = s.me.hires + n ∧
      k.inbox = s.me.inbox ++ (List.range n).map fun i => ⟨inboxWord (s.me.tkt.toNat + i) lane st 1, 0⟩ := by
  have hadd : (rejections s.me.tkt.toNat lane st n).foldl Slot.addInbox (s.me.hired t n) =
      { s.me.hired t n with inbox := s.me.inbox ++ rejections s.me.tkt.toNat lane st n } :=
    Slot.foldl_addInbox hover (by rw [rejections_length]; exact hinbox)
  refine ⟨{ s.me.hired t n with inbox := s.me.inbox ++ rejections s.me.tkt.toNat lane st n }, ?_, rfl, Vector.getElem_set_self _, rfl, rfl⟩
  rw [State.hire_checked hvalid hlimit hsb hack]
  dsimp only
  rw [hyard]
  refine (if_pos hst).trans ((if_pos ?_).trans ?_)
  · exact decide_eq_true ⟨hover, hinbox⟩
  · exact congrArg (fun k => (.next ({ s with yardWaits := s.yardWaits.filter fun w => decide (w.1 ≠ s.me.ctx) }.after k) : Out)) hadd
/-- HIRE of an invalid z register is stale. -/
theorem exec_hire_stale {l : BitVec 3} (hstale : s.me.zValid z = false) :
    exec (.hire t z l) s = .next (s.trapAt s.cur .stale (wrap (0x200 + z.val))) := by
  have hfind : ((List.range 1).find? fun i => !(s.me.zValid (zReg z i))) = some 0 := by
    simp [List.range_succ, zReg_zero, hstale]
  change s.hire t z 1 l.toNat = _
  unfold State.hire
  dsimp only
  rw [show ((List.range 1).find? fun i => !(s.me.zValid (Fin.ofNat 16 (z.val + i)))) = some 0 from hfind]
  exact congrArg (fun r : ZReg => (s.trap .stale (zXval r))) (zReg_zero z)
end

/-- Settles O42: HIRE is HIRET of one z register; what the yard says decides between the lane and the inbox. -/
theorem hires : Obligations.Hires := by
  refine ⟨fun s t z l n => ⟨fun hz => ?_, fun hrun hvalid => ?_⟩, fun s t z l n => ⟨exec_hire_stale, fun hz => ?_, fun hrun hvalid => ?_⟩⟩
  · intro hlimit hsb hack hyard hroom hlane
    rw [← Slot.hodsOf_one] at hyard ⊢
    exact State.hire_enters (fun i hi => by rw [Nat.lt_one_iff.mp hi, zReg_zero, hz]) hlimit hsb hack hyard hroom hlane
  · intro hlimit hsb hack hyard hroom hlane
    exact State.hire_enters (fun i hi => hvalid i (by omega)) hlimit hsb hack hyard hroom hlane
  · intro hlimit hsb hack hinbox hover st hst hyard
    rw [← Slot.hodsOf_one] at hyard
    exact State.hire_rejected (fun i hi => by rw [Nat.lt_one_iff.mp hi, zReg_zero, hz]) hlimit hsb hack hinbox hover hst hyard
  · intro hlimit hsb hack hinbox hover st hst hyard
    exact State.hire_rejected (fun i hi => hvalid i (by omega)) hlimit hsb hack hinbox hover hst hyard

/-! ### Slices of a pallet (R335) -/

section
variable {g : PalletRegion} {byRow : Bool} {i j : Nat}

/-- The elements that a slice writes, in order. -/
def sliceWrites (g : PalletRegion) (byRow : Bool) (i j : Nat) (v : Line) : List (Nat × Nat × Nat) :=
  (List.range 16).filterMap fun e => (sliceCell g byRow i j e).map fun c => (c.1, c.2, lane v 32 e)
theorem writeSlice_eq (v : Line) (d : PalletData) : writeSlice g byRow i j v d = d.setCells (sliceWrites g byRow i j v) := by
  rw [writeSlice, PalletData.setCells, sliceWrites, List.foldl_filterMap]
  congr 1
  funext d e
  cases sliceCell g byRow i j e <;> rfl
theorem sliceCell_row {e : Nat} (h : j + e < g.cols) : sliceCell g true i j e = some (g.row0 + i, g.col0 + j + e) :=
  (if_neg (Nat.not_le.mpr h)).trans (if_pos rfl)
theorem sliceCell_col {e : Nat} (h : j + e < g.rows) : sliceCell g false i j e = some (g.row0 + j + e, g.col0 + i) :=
  (if_neg (Nat.not_le.mpr h)).trans (if_neg Bool.false_ne_true)
theorem sliceCell_beyond {e : Nat} (h : (if byRow then g.cols else g.rows) ≤ j + e) : sliceCell g byRow i j e = none := if_pos h
/-- An element of a slice stands at its own place of the pallet, and no other element of the slice does. -/
theorem sliceCell_injective {e e' : Nat} {c c' : Nat × Nat} (hc : sliceCell g byRow i j e = some c) (hc' : sliceCell g byRow i j e' = some c')
    (hkey : 128 * c'.1 + c'.2 = 128 * c.1 + c.2) : e' = e := by
  cases byRow
  · simp only [sliceCell, Bool.false_eq_true, if_false, Option.ite_none_left_eq_some, Option.some.injEq] at hc hc'
    obtain ⟨-, rfl⟩ := hc
    obtain ⟨-, rfl⟩ := hc'
    simp only at hkey
    omega
  · simp only [sliceCell, if_true, Option.ite_none_left_eq_some, Option.some.injEq] at hc hc'
    obtain ⟨-, rfl⟩ := hc
    obtain ⟨-, rfl⟩ := hc'
    simp only at hkey
    omega
/-- An element that a slice writes is the lane that it was written from. -/
theorem cell_writeSlice {d : PalletData} (h : d.Rising) (v : Line) {e : Nat} (he : e < 16) {c : Nat × Nat} (hc : sliceCell g byRow i j e = some c) :
    (writeSlice g byRow i j v d).cell c.1 c.2 = lane v 32 e := by
  have hwritten : (c.1, c.2, lane v 32 e) ∈ sliceWrites g byRow i j v :=
    List.mem_filterMap.mpr ⟨e, List.mem_range.mpr he, by rw [hc]; rfl⟩
  rw [writeSlice_eq]
  refine PalletData.cell_setCells _ (fun x hx hkey => ?_) h (.inr ⟨_, hwritten, rfl⟩)
  obtain ⟨e', -, hx⟩ := List.mem_filterMap.mp hx
  obtain ⟨c', hc', rfl⟩ := Option.map_eq_some_iff.mp hx
  rw [sliceCell_injective hc hc' hkey]
theorem lane_readSlice (d : PalletData) {e : Nat} (he : e < 16) : lane (readSlice g byRow i j d) 32 e =
    ((sliceCell g byRow i j e).elim 0 fun c => d.cell c.1 c.2) % 2 ^ 32 := by
  rw [readSlice, lane_allLanes 32 _ (by omega)]
  cases sliceCell g byRow i j e <;> rfl

end

section
variable {a b : GReg} {r : BitVec 2} {w : WReg} {le : Lease} {g : PalletRegion} {byRow : Bool}

theorem toW_ofNat : ∀ w : WReg, toW (Fin.ofNat 16 w.val) = w := by decide
/-- The checks of a slice whose index lies in its region pass. -/
theorem State.slice_of {v : Word} (go : PalletRegion → Nat → Nat → Out) (hg : KMap.find? le.regions r.toNat = some g)
    (hfields : v.toNat &&& (field 63 0 - (field 14 8 + field 6 0)) = 0)
    (hi : bits v 6 0 < if byRow then g.rows else g.cols) (hj : bits v 14 8 < if byRow then g.cols else g.rows) :
    s.slice le v r byRow go = go g (bits v 6 0) (bits v 14 8) := by
  unfold State.slice
  rw [hg]
  exact (if_neg (not_not.mpr hfields)).trans (if_neg (by omega))
/-- A request on a quiet pallet in its kiln can be performed. -/
theorem State.palletReady_one {vd : Nat} {q : Request} {h : Nat} (hhandles : q.handles = [h]) (hquiet : s.hodWriting (h / 256) (h % 4) = false)
    (hin : (s.useLease vd h [h]).hasPallet (h / 256) (.lease (h % 4)) = true) : s.palletReady vd q = true := by
  simp [State.palletReady, State.bringIn, hhandles, hquiet, hin]

variable (hunbound : s.me.unbound) (hl : s.lease? s.me.vd (s.brick / 512) (s.me.getG a).toNat = some le)
  (hg : KMap.find? le.regions r.toNat = some g)
  (hfields : (s.me.getG b).toNat &&& (field 63 0 - (field 14 8 + field 6 0)) = 0)
  (hi : bits (s.me.getG b) 6 0 < if byRow then g.rows else g.cols) (hj : bits (s.me.getG b) 14 8 < if byRow then g.cols else g.rows)
  (hquiet : s.hodWriting ((s.me.getG a).toNat / 256) ((s.me.getG a).toNat % 4) = false)
  (hin : (s.useLease s.me.vd (s.me.getG a).toNat [(s.me.getG a).toNat]).hasPallet ((s.me.getG a).toNat / 256) (.lease ((s.me.getG a).toNat % 4)) = true)
  (ha : s.answers = [])
include hunbound hl hg hfields hi hj hquiet hin ha

omit hunbound hl hg hfields hi hj hquiet hin in
theorem State.me_useLease (h : Nat) : (s.useLease s.me.vd h []).me = s.me := by
  obtain ⟨hslots, hcur, -⟩ := State.desk_eq (State.useLease_desk (kn := 0) (n := 0) ha s.me.vd h [])
  rw [State.me, State.slotAt, hslots, hcur]
  rfl
/-- PRD reads its slice into its register and completes. -/
theorem State.prd_eq : s.prd a b r w byRow =
    .next ((s.useLease s.me.vd (s.me.getG a).toNat []).after (s.me.setW w (readSlice g byRow (bits (s.me.getG b) 6 0) (bits (s.me.getG b) 14 8)
      ((s.useLease s.me.vd (s.me.getG a).toNat []).palletOf ((s.me.getG a).toNat / 256) (.lease ((s.me.getG a).toNat % 4)))))) := by
  obtain ⟨h0, h1, h2⟩ := hunbound
  have hlegal : s.me.illegalW [] (some w) = none := by simp [Slot.illegalW, Slot.portOf_unbound h0 h1 h2]
  have hpush : s.me.pushes (some w) = false := by simp [Slot.pushes, h2]
  have hend : s.me.streamEnd [] (some w) = none := by simp [Slot.streamEnd, Slot.popsOf_unbound h0 h1, hpush]
  have hw : toW (Fin.ofNat 16 w.val) = w := toW_ofNat w
  have hready : s.palletReady s.me.vd (palletReq (.prd g byRow (bits (s.me.getG b) 6 0) (bits (s.me.getG b) 14 8)) (s.me.getG a) w.val 0) = true :=
    State.palletReady_one rfl hquiet hin
  have hreply : s.me.replyPushes (palletReq (.prd g byRow (bits (s.me.getG b) 6 0) (bits (s.me.getG b) 14 8)) (s.me.getG a) w.val 0) = false := by
    simp only [Slot.replyPushes, palletReq, mkReq, hw, hpush]
  have hstale : s.me.staleW [] = none := rfl
  simp only [State.prd, State.wLegal, hstale, hlegal, State.withLease_some _ hl, State.slice_of _ hg hfields hi hj, State.notAtEnd, hend,
    State.pushGuard, hpush, Bool.false_eq_true, if_false, Bool.false_and, State.palletDo, hready, if_true]
  simp only [State.palletPerform, palletReq, mkReq] at hreply ⊢
  simp only [hreply, Bool.false_eq_true, if_false, State.retire, State.me_useLease ha, Slot.reply, hw]
  rfl
/-- PWR writes its slice from its register and completes. -/
theorem State.pwr_eq (hvalid : s.me.wValid w = true) : s.pwr a b r w byRow =
    .next (((s.useLease s.me.vd (s.me.getG a).toNat []).modPallet ((s.me.getG a).toNat / 256) (.lease ((s.me.getG a).toNat % 4))
      (writeSlice g byRow (bits (s.me.getG b) 6 0) (bits (s.me.getG b) 14 8) s.me.w[w])).after s.me) := by
  obtain ⟨h0, h1, h2⟩ := hunbound
  have hstale : s.me.staleW [w] = none := by simp [Slot.staleW, hvalid]
  have hlegal : s.me.illegalW [w] none = none := by simp [Slot.illegalW, h2]
  have hend : s.me.streamEnd [w] none = none := by simp [Slot.streamEnd, Slot.popsOf_unbound h0 h1, Slot.pushes]
  have hpop : ∀ go, s.popping (s.me.popsOf [w]) go = go [] s := fun go => by
    simp [Slot.popsOf_unbound h0 h1, State.popping, State.reachPops, State.popAll]
  have hready : s.palletReady s.me.vd (palletReq (.pwr g byRow (bits (s.me.getG b) 6 0) (bits (s.me.getG b) 14 8) s.me.w[w]) (s.me.getG a) 0 0) = true :=
    State.palletReady_one rfl hquiet hin
  obtain ⟨hslots, hcur, -⟩ := State.desk_eq (State.useLease_desk (kn := 0) (n := 0) ha s.me.vd (s.me.getG a).toNat [])
  have hdone := State.palletDo_ready hready rfl (fun _ => rfl) hslots hcur
  simp only [State.pwr, State.wLegal, hstale, hlegal, State.withLease_some _ hl, State.slice_of _ hg hfields hi hj, State.notAtEnd, hend, hpop]
  exact hdone
end

/-- Settles O44: row slices and column slices are one instruction each with its direction. -/
theorem palletSlices : Obligations.PalletSlices := by
  intro s a b r w le g hunbound hvalid h i j hl hg hquiet hin ha hfields u d l wrote
  have hlane : ∀ (byRow : Bool) (e : Nat), e < 16 → lane (readSlice g byRow i j d) 32 e =
      ((sliceCell g byRow i j e).elim 0 fun c => d.cell c.1 c.2) % 2 ^ 32 := fun byRow e he => lane_readSlice d he
  refine ⟨fun hi hj => ⟨⟨_, State.prd_eq (byRow := true) hunbound hl hg hfields hi hj hquiet hin ha, fun e he => ?_⟩,
      State.pwr_eq (byRow := true) hunbound hl hg hfields hi hj hquiet hin ha hvalid,
      fun hrising e he hcell => cell_writeSlice hrising l he (sliceCell_row hcell)⟩,
    fun hi hj => ⟨⟨_, State.prd_eq (byRow := false) hunbound hl hg hfields hi hj hquiet hin ha, fun e he => ?_⟩,
      State.pwr_eq (byRow := false) hunbound hl hg hfields hi hj hquiet hin ha hvalid,
      fun hrising e he hcell => cell_writeSlice hrising l he (sliceCell_col hcell)⟩⟩
  · refine (hlane true e he).trans ?_
    split
    · next hcell => rw [sliceCell_row hcell]; rfl
    · next hcell => rw [sliceCell_beyond (Nat.not_lt.mp hcell)]; rfl
  · refine (hlane false e he).trans ?_
    split
    · next hcell => rw [sliceCell_col hcell]; rfl
    · next hcell => rw [sliceCell_beyond (Nat.not_lt.mp hcell)]; rfl

end Sys2Proof.Machine
end

section
/-!
SUPPORT. Lines of a bank that stays ready while they are accessed, and the context image that SAVE writes and RESTORE reads. SaveAndRestore is assembled from these.
-/
namespace Sys2Proof.Machine

variable {s t u : State}

/-! ### Accesses to ready lines of a bank -/

/-- A use of a sub-bank changes neither its power nor its allocation. -/
theorem State.subBank_touch {b o : Nat} (ho : o < 2 ^ 20) (b' : Nat) {sb : Nat} (hsb : sb < 16) :
    ((s.touch (.sram b o)).subBank b' sb).power = (s.subBank b' sb).power ∧ ((s.touch (.sram b o)).subBank b' sb).alloc = (s.subBank b' sb).alloc := by
  by_cases hkey : subKey b' sb = subKey b (o / 2 ^ 16)
  · obtain ⟨rfl, rfl⟩ : b' = b ∧ sb = o / 2 ^ 16 := by
      unfold subKey at hkey
      omega
    rw [State.touch, State.subBank_modSub_self]
    exact ⟨rfl, rfl⟩
  · have hfind : KMap.find? (s.touch (.sram b o)).subbanks (subKey b' sb) = KMap.find? s.subbanks (subKey b' sb) := KMap.find?_set_ne _ _ hkey
    have hsame : (s.touch (.sram b o)).subBank b' sb = s.subBank b' sb := by
      rw [State.subBank, hfind]
      rfl
    rw [hsame]
    exact ⟨rfl, rfl⟩
theorem State.bankReady_touch {b o token vd b' off n : Nat} (ho : o < 2 ^ 20) (h : s.bankReady token vd b' off n) :
    (s.touch (.sram b o)).bankReady token vd b' off n := by
  obtain ⟨hoff, hfault, hfree, hline, hpoison⟩ := h
  obtain ⟨hpower, halloc⟩ := State.subBank_touch (s := s) (b := b) ho b' (sb := off / 2 ^ 16) (by omega)
  refine ⟨hoff, ?_, ?_, hline, hpoison⟩
  · have hsame : (s.touch (.sram b o)).sramFault vd b' off = s.sramFault vd b' off := by
      unfold State.sramFault
      simp only [hpower, halloc]
      rfl
    rw [hsame, hfault]
  · have hsame : (s.touch (.sram b o)).blocked token (.sram b' off) = s.blocked token (.sram b' off) := by
      unfold State.blocked State.stalled State.unitStill
      simp only [hpower]
      rfl
    rw [hsame, hfree]
/-- Laying bytes into a bank leaves its lines as ready as they were. -/
theorem State.bankReady_poke {kid b o token vd b' off n : Nat} {bs : List Byte} (h : s.bankReady token vd b' off n) :
    (s.poke kid (.sram b o) bs).bankReady token vd b' off n := by
  obtain ⟨hoff, hfault, hfree, hline, hpoison⟩ := h
  refine ⟨hoff, hfault, hfree, hline, ?_⟩
  rw [Bool.eq_false_iff] at hpoison ⊢
  intro hin
  exact hpoison (List.contains_iff_mem.mpr (List.mem_of_mem_filter (List.contains_iff_mem.mp hin)))

/-- What accesses to a bank leave as it was: the current slot, the devices, and every ready line. -/
structure Kept (s t : State) : Prop where
  slots : t.slots = s.slots
  cur : t.cur = s.cur
  vds : t.vds = s.vds
  answers : t.answers = s.answers
  ready : ∀ {token vd b off n}, s.bankReady token vd b off n → t.bankReady token vd b off n
theorem Kept.me (h : Kept s t) : t.me = s.me := by rw [State.me, State.slotAt, h.slots, h.cur]; rfl
theorem Kept.brick (h : Kept s t) : t.brick = s.brick := congrArg (· / 8) h.cur
theorem Kept.own (h : Kept s t) {off n : Nat} (hready : s.ownReady off n) : t.ownReady off n := by
  rw [State.ownReady, h.me, h.brick]
  exact h.ready hready
theorem Kept.trans (h : Kept s t) (h' : Kept t u) : Kept s u :=
  ⟨h'.slots.trans h.slots, h'.cur.trans h.cur, h'.vds.trans h.vds, h'.answers.trans h.answers, fun hr => h'.ready (h.ready hr)⟩
theorem Kept.refl (s : State) : Kept s s := ⟨rfl, rfl, rfl, rfl, id⟩
theorem State.kept_touch {b o : Nat} (ho : o < 2 ^ 20) : Kept s (s.touch (.sram b o)) := ⟨rfl, rfl, rfl, rfl, State.bankReady_touch ho⟩
theorem State.kept_write {kid b o : Nat} {bs : List Byte} (ho : o < 2 ^ 20) : Kept s ((s.poke kid (.sram b o) bs).touch (.sram b o)) :=
  ⟨rfl, rfl, rfl, rfl, fun hr => State.bankReady_touch ho (State.bankReady_poke hr)⟩

/-! ### The lines of an image -/

/-- A ready line of the own bank is reached at once. -/
theorem State.reachLine_own {ea : Word} {k : Access} (hready : s.ownReady ea.toNat 64) (ha : s.answers = []) :
    s.reachLine ea k = .ok (s, .sram s.brick ea.toNat, 0) := by
  obtain ⟨hoff, -, hfree, -⟩ := hready
  have hwhere : s.translated s.brick s.me.vd s.me.space s.me.level ea k = s := by
    unfold State.translated
    simp [bankOf_own hoff]
  have hlook : ∀ wr, s.look s.me.vd 0 (.sram s.brick ea.toNat) 64 wr wr = s := fun wr => by rw [State.look, ha]
  simp only [State.reachLine, State.walk_own hoff, State.resolve_own hoff, hwhere, hfree, hlook]
  simp
theorem leBytes_leNat (bs : List Byte) : leBytes bs.length (leNat bs) = bs := by
  induction bs with
  | nil => rfl
  | cons b bs ih =>
    have hb := b.isLt
    rw [List.length_cons, leBytes, leNat, show (b.toNat + 256 * leNat bs) / 256 = leNat bs by omega, ih]
    congr 1
    apply BitVec.eq_of_toNat_eq
    rw [BitVec.toNat_ofNat]
    omega
theorem leBytes_ofNat_leNat {n : Nat} {bs : List Byte} (h : bs.length = n) : leBytes n (BitVec.ofNat (8 * n) (leNat bs)).toNat = bs := by
  have hlt := leNat_lt bs
  rw [h, show 256 = 2 ^ 8 from rfl, ← pow_mul] at hlt
  rw [BitVec.toNat_ofNat, Nat.mod_eq_of_lt hlt, ← h, leBytes_leNat]
/-- Sixty-four bytes are the bytes of the line that they make. -/
theorem lineBytes_bytesLine {bs : List Byte} (h : bs.length = 64) : lineBytes (bytesLine bs) = bs := leBytes_ofNat_leNat (n := 64) h
theorem Mem.readBytes_add (m : List Host.Cell) (k n : Nat) : ∀ a : Nat,
    Mem.readBytes m a (k + n) = Mem.readBytes m a k ++ Mem.readBytes m (a + k) n := by
  induction k with
  | zero => exact fun a => by rw [Nat.zero_add]; rfl
  | succ k ih => exact fun a => by rw [Nat.succ_add, Mem.readBytes, ih, Nat.add_right_comm, Nat.add_assoc a k 1]; rfl
theorem toNat_nextLine {ea : Word} (h : ea.toNat < 2 ^ 20) : (ea + 64).toNat = ea.toNat + 64 := by
  rw [BitVec.toNat_add]
  have : (64 : Word).toNat = 64 := rfl
  omega
/-- The lines after the first are ready after it. -/
theorem Kept.nextLines (h : Kept s t) {ea : Word} {n : Nat} (hoff : ea.toNat < 2 ^ 20) (hready : ∀ j, j < n + 1 → s.ownReady (ea.toNat + 64 * j) 64) :
    ∀ j, j < n → t.ownReady ((ea + 64).toNat + 64 * j) 64 := fun j hj => by
  rw [toNat_nextLine hoff, show ea.toNat + 64 + 64 * j = ea.toNat + 64 * (j + 1) by omega]
  exact h.own (hready (j + 1) (by omega))
/-- The lines of an image are written one after another. -/
theorem State.saveLines_own (n : Nat) : ∀ {s : State} {ea : Word} {img : List Byte}, s.answers = [] → img.length = 64 * n →
    (∀ j, j < n → s.ownReady (ea.toNat + 64 * j) 64) →
    ∃ t, s.saveLines ea img n = .ok t ∧ Kept s t ∧ t.mem = Mem.writeBytes s.mem (bankAddr s.brick ea.toNat) img := by
  induction n with
  | zero =>
    intro s ea img _ himg _
    rw [List.length_eq_zero_iff.mp himg]
    exact ⟨s, rfl, Kept.refl s, rfl⟩
  | succ n ih =>
    intro s ea img ha himg hready
    have hfirst : s.ownReady ea.toNat 64 := hready 0 (Nat.succ_pos n)
    have hoff := hfirst.1
    have hlen : (img.take 64).length = 64 := by rw [List.length_take]; omega
    have hbytes : leBytes 64 (bytesLine (img.take 64)).toNat = img.take 64 := lineBytes_bytesLine hlen
    have hwrite : s.writeAt s.me.vd 0 (.sram s.brick ea.toNat) 64 (bytesLine (img.take 64)) =
        .ok ((s.poke (kidOf s.me.vd 0) (.sram s.brick ea.toNat) (img.take 64)).touch (.sram s.brick ea.toNat)) := by
      simp only [State.writeAt, State.homeFault_own hfirst, hbytes]
    have hkept : Kept s ((s.poke (kidOf s.me.vd 0) (.sram s.brick ea.toNat) (img.take 64)).touch (.sram s.brick ea.toNat)) :=
      State.kept_write hoff
    obtain ⟨t, ht, hrest, hmem⟩ := ih (ea := ea + 64) (img := img.drop 64) (hkept.answers.trans ha) (by rw [List.length_drop]; omega)
      (hkept.nextLines hoff hready)
    refine ⟨t, ?_, hkept.trans hrest, hmem.trans ?_⟩
    · rw [State.saveLines, State.reachLine_own hfirst ha]
      simp only [hwrite]
      exact ht
    · rw [hkept.brick, toNat_nextLine hoff, State.touch_mem, (State.poke_sram _ _ _ _ _).1]
      conv_rhs => rw [← List.take_append_drop 64 img, Mem.writeBytes_append, hlen]
      rfl
/-- The lines of an image are read one after another. -/
theorem State.loadLines_own (n : Nat) : ∀ {s : State} {ea : Word}, s.answers = [] → (∀ j, j < n → s.ownReady (ea.toNat + 64 * j) 64) →
    ∃ t, s.loadLines ea n = .ok (Mem.readBytes s.mem (bankAddr s.brick ea.toNat) (64 * n), t) ∧ Kept s t ∧ t.mem = s.mem := by
  induction n with
  | zero => exact fun _ _ => ⟨_, rfl, Kept.refl _, rfl⟩
  | succ n ih =>
    intro s ea ha hready
    have hfirst : s.ownReady ea.toNat 64 := hready 0 (Nat.succ_pos n)
    have hoff := hfirst.1
    have hread : s.readAt s.me.vd 0 (.sram s.brick ea.toNat) 64 = .ok (s.peekLine (.sram s.brick ea.toNat) 64) := by
      simp only [State.readAt, State.homeFault_own hfirst]
    have hkept : Kept s (s.touch (.sram s.brick ea.toNat)) := State.kept_touch hoff
    obtain ⟨t, ht, hrest, hmem⟩ := ih (ea := ea + 64) (hkept.answers.trans ha) (hkept.nextLines hoff hready)
    refine ⟨t, ?_, hkept.trans hrest, hmem.trans (State.touch_mem _ _)⟩
    rw [State.loadLines, State.reachLine_own hfirst ha]
    simp only [hread, ht]
    have hline : lineBytes (s.peekLine (.sram s.brick ea.toNat) 64) = Mem.readBytes s.mem (bankAddr s.brick ea.toNat) 64 :=
      lineBytes_bytesLine (Mem.readBytes_length _ _ _)
    rw [hline, hkept.brick, toNat_nextLine hoff, State.touch_mem, show 64 * (n + 1) = 64 + 64 * n by omega, Mem.readBytes_add]
    rfl

/-! ### SAVE and RESTORE (R356, R357) -/

theorem sum_map_length {α : Type} {n : Nat} (f : α → List Byte) (hf : ∀ x, (f x).length = n) (l : List α) :
    (l.map f).flatten.length = l.length * n := by
  induction l with
  | nil => simp
  | cons x l ih => rw [List.map_cons, List.flatten_cons, List.length_append, hf, ih, List.length_cons, Nat.succ_mul, Nat.add_comm]
theorem Port.image_length (p : Port) : p.image.length = 32 := by simp [Port.image, leBytes_length]
theorem zeros_length (n : Nat) : (zeros n).length = n := List.length_replicate
theorem lineBytes_length (l : Line) : (lineBytes l).length = 64 := leBytes_length _ _
/-- A context image is 4 KiB (Table 6.11). -/
theorem Slot.saveImage_length (k : Slot) : k.saveImage.length = 4096 := by
  simp only [Slot.saveImage, Slot.imageHead, Slot.imageWide, List.length_append, leBytes_length, zeros_length,
    sum_map_length _ fun v : Word => leBytes_length 8 v.toNat, sum_map_length _ fun i : Nat => leBytes_length 4 (k.frame.body.getD i 0).toNat,
    sum_map_length _ Port.image_length, sum_map_length _ lineBytes_length, Vector.length_toList, List.length_range]

/-- Changing a region leaves the others of its device. -/
theorem State.region?_modRegion_ne (vd : Nat) {r q : Nat} (f : Region → Region) (h : q ≠ r) : (s.modRegion vd r f).region? vd q = s.region? vd q := by
  unfold State.region? State.modRegion
  rw [State.vd?_modVd, if_pos rfl]
  cases s.vd? vd with
  | none => rfl
  | some v =>
    cases hv : v.tree with
    | none => simp [hv]
    | some t => simp [hv, Ne.symm h]
theorem State.region?_congr (h : t.vds = s.vds) (vd r : Nat) : t.region? vd r = s.region? vd r := by
  rw [State.region?, State.vd?, h]
  rfl
/-- A thread that moves from one region to another. -/
def State.rehomed (s : State) (vd home dest : Nat) : State :=
  if dest = home then s
  else (s.modRegion vd dest fun r => { r with live := r.live + 1 }).modRegion vd home fun r => { r with live := r.live - 1 }
theorem State.rehomed_live {vd home dest : Nat} (h : dest ≠ home) :
    ((s.rehomed vd home dest).region? vd dest).map (·.live) = (s.region? vd dest).map (·.live + 1) ∧
      ((s.rehomed vd home dest).region? vd home).map (·.live) = (s.region? vd home).map (·.live - 1) := by
  rw [State.rehomed, if_neg h]
  constructor
  · rw [State.region?_modRegion_ne _ _ h, State.region?_modRegion_self, Option.map_map]
    rfl
  · rw [State.region?_modRegion_self, State.region?_modRegion_ne _ _ (Ne.symm h), Option.map_map]
    rfl
/-- Moving a thread between regions changes devices alone. -/
theorem State.rehomed_keeps (vd home dest : Nat) : (s.rehomed vd home dest).me = s.me ∧ (s.rehomed vd home dest).cur = s.cur ∧
    (s.rehomed vd home dest).mem = s.mem := by
  unfold State.rehomed
  split <;> exact ⟨rfl, rfl, rfl⟩
theorem bits_low12 {v : Word} (h : v.toNat % 4096 = 0) : bits v 11 0 = 0 := by
  rw [bits]
  omega
section
variable {a : GReg} (hlevel : s.me.level = .handler) (hbusy : s.me.busy = false) (hmail : s.me.hasMail = false) (hquiet : s.me.quiet = true)
  (hresv : s.me.resv = none) (ha : s.answers = []) (haligned : (s.me.getG a).toNat % 4096 = 0)
  (hready : ∀ j, j < 64 → s.ownReady ((s.me.getG a).toNat + 64 * j) 64)
include hlevel hbusy hmail hquiet hresv ha haligned hready

/-- SAVE of a quiet slot into ready lines writes its image. -/
theorem exec_save_writes {img : List Byte} (himg : { s.me.dropAhead with pc := s.me.pc + 8 }.saveImage = img) (hlen : img.length = 64 * 64) :
    ∃ t : State, exec (.save a) s = .next (t.after t.me) ∧ t.cur = s.cur ∧ t.me = s.me.dropAhead ∧
      t.mem = Mem.writeBytes s.mem (bankAddr s.brick (s.me.getG a).toNat) img := by
  have hme : (s.modSlot s.cur Slot.dropAhead).me = s.me.dropAhead := State.me_setSlot _ _
  have hown : ∀ j, j < 64 → (s.modSlot s.cur Slot.dropAhead).ownReady ((s.me.getG a).toNat + 64 * j) 64 := fun j hj => by
    rw [State.ownReady, hme]
    exact hready j hj
  obtain ⟨t, ht, hkept, hmem⟩ := State.saveLines_own 64 (s := s.modSlot s.cur Slot.dropAhead) ha hlen hown
  refine ⟨t.unstall s.me.ctx, ?_, hkept.cur, hkept.me.trans hme, hmem⟩
  have hhand : s.handOn s.me = s := by rw [State.handOn, hresv]
  have hsave : (s.modSlot s.cur Slot.dropAhead).saveLines (s.me.getG a)
      ({ (s.modSlot s.cur Slot.dropAhead).me with pc := s.me.pc + 8 }.saveImage) 64 = .ok t := by
    rw [hme, himg]
    exact ht
  change execSave a s = _
  simp only [execSave, hlevel, hbusy, hmail, hquiet, bits_low12 haligned, hhand, hsave, Bool.or_self, Bool.not_true, Bool.false_eq_true, if_false,
    reduceCtorEq, ne_eq, not_true_eq_false]
  rfl
/-- RESTORE of a quiet slot from ready lines comes to the judgement of its image. -/
theorem exec_restore_reads {d : VDev} {tr : Tree} (hd : s.vd? s.me.vd = some d) (htree : d.tree = some tr) {img : List Byte}
    (himg : Mem.readBytes s.mem (bankAddr s.brick (s.me.getG a).toNat) (64 * 64) = img) :
    ∃ t : State, t.me = s.me ∧ t.cur = s.cur ∧ t.vds = s.vds ∧ t.mem = s.mem ∧ exec (.restore a) s =
      if !(imageSound img tr.regions.length) || !(t.regionRoom s.me.vd s.me.region (imgWord img 0xB8).toNat) then t.trap .illegalOperand (s.me.getG a)
      else (t.rehomed s.me.vd s.me.region (imgWord img 0xB8).toNat).retireTo (fun k => k.fromImage img) (imgWord img 0x80) := by
  obtain ⟨t, ht, hkept, hmem⟩ := State.loadLines_own 64 ha hready
  rw [himg] at ht
  have hvd : (t.unstall s.me.ctx).vd? s.me.vd = some d := (congrArg (KMap.find? · s.me.vd) hkept.vds).trans hd
  refine ⟨t.unstall s.me.ctx, hkept.me, hkept.cur, hkept.vds, hmem, ?_⟩
  have hhand : ∀ u : State, u.handOn s.me = u := fun u => by rw [State.handOn, hresv]
  change execRestore a s = _
  simp only [execRestore, hlevel, hbusy, hmail, hquiet, bits_low12 haligned, ht, hvd, htree, Bool.or_self, Bool.not_true, Bool.false_eq_true, if_false,
    reduceCtorEq, ne_eq, not_true_eq_false, hhand]
  rfl
end
/-- Settles O41: 64 lines are written or read one after another, each in a bank that stays ready; then the image is judged. -/
theorem saveAndRestore : Obligations.SaveAndRestore := by
  constructor
  · intro s a hlevel hbusy hmail hquiet hresv hwf ha ea img haligned hready
    have hlen : img.length = 4096 := Slot.saveImage_length _
    obtain ⟨t, hexec, hcur, hme, hmem⟩ := exec_save_writes hlevel hbusy hmail hquiet hresv ha haligned hready (img := img) rfl hlen
    refine ⟨hlen, t, hexec, hcur, hme, ?_, fun x hx => ?_⟩
    · rw [hmem, ← hlen]
      exact Mem.readBytes_writeBytes img _ hwf
    · rw [hmem]
      exact Mem.read_writeBytes_ne img _ (by rw [hlen]; exact hx)
  · intro s a d tr hlevel hbusy hmail hquiet hresv hd htree ha ea img dest haligned hready
    obtain ⟨t, hme, hcur, hvds, hmem, hexec⟩ := exec_restore_reads hlevel hbusy hmail hquiet hresv ha haligned hready hd htree (img := img) rfl
    obtain ⟨hrme, hrcur, hrmem⟩ := State.rehomed_keeps (s := t) s.me.vd s.me.region dest
    have hroom : t.regionRoom s.me.vd s.me.region dest = s.regionRoom s.me.vd s.me.region dest := by
      rw [State.regionRoom, State.region?_congr hvds]
      rfl
    refine ⟨fun hsound hfits => ⟨t.rehomed s.me.vd s.me.region dest, ?_, hrcur.trans hcur, hrme.trans hme, hrmem.trans hmem, fun hne => ?_⟩,
      fun hunsound => ⟨t, ?_, hcur, hme, hmem⟩, fun n => Vector.getElem_ofFn _, rfl⟩
    · rw [hexec, if_neg (by rw [hsound, hroom, hfits]; exact Bool.false_ne_true), State.retireTo, hrme, hme]
      rfl
    · rw [← State.region?_congr hvds, ← State.region?_congr hvds]
      exact State.rehomed_live hne
    · rw [hexec, if_pos (by rw [hunsound]; rfl)]
      rfl

end Sys2Proof.Machine
end

section
/-!
SUPPORT. A cancelled context whose reserving load is answered at its home; Reservations is refuted with it.
-/
namespace Sys2Proof.Machine

variable {s : State}

/-- A reserving load of a word of brick 0 on its way to its home. -/
def sentLrw : Request := ⟨.lrw, 0x2000, .sram 0 0x2000, 0, 0, 7, 0, .sent⟩
/-- A context parked on that load, whose thread has been cancelled: it ends when the answer lands (R376, R377). -/
def reservingCancelled : Slot := { Slot.empty with mode := .parked .reply, ctx := 5, req := some sentLrw, cancelled := true }
/-- The demonstration device with that context in its save area. -/
def reservingSaved : State := { State.reset.withDemo with saved := [(keepKey 5 8 0, reservingCancelled)] }
/-- The answer lands and the cancelled context ends with it: no context of its number is left. -/
theorem reservingSaved_ends : leavesContext (exec (.reservationAtHome 5 .sound) reservingSaved) 5 = false := by decide +kernel

/-- Refutes O27: the clause of an LRW at its home does not ask that its context goes on. The one of `reservingSaved` is cancelled, so it ends as the answer lands, and there is neither a reservation nor a stage of it left to read. -/
theorem not_reservations : ¬ Obligations.Reservations := by
  unfold Obligations.Reservations
  rintro ⟨-, hhome, -⟩
  have hfault : reservingSaved.homeFault 0 0 (.sram 0 0x2000) 8 false false = none := by decide +kernel
  obtain ⟨hlrw, -⟩ := hhome reservingSaved 5 reservingCancelled sentLrw rfl rfl (by decide) rfl rfl rfl (by decide +kernel) (by decide +kernel)
  obtain ⟨t, hexec, -, -, hresv, -⟩ := hlrw rfl rfl hfault
  have hgone := reservingSaved_ends
  rw [hexec] at hgone
  have hnone : t.ctxOf 5 = none := Option.isNone_iff_eq_none.mp (Option.isSome_eq_false_iff.mp hgone)
  rw [hnone] at hresv
  cases hresv

end Sys2Proof.Machine
end

section
/-!
SUPPORT. Table 13.7, AMO of the own bank, remote updates as they leave and as they are performed: Atomics.
-/
namespace Sys2Proof.Machine

variable {s : State}

/-! ### What an atomic operation makes of the old value (Table 13.7) -/

theorem amoSize_pow_bits (z : AmoSize) : 256 ^ z.size = 2 ^ z.bits := by cases z <;> rfl
/-- An update of values of `n` bits is a value of `n` bits. -/
theorem rmw_apply_lt (o : RmwOp) {n old v : Nat} (hold : old < 2 ^ n) (hv : v < 2 ^ n) : o.apply n old v < 2 ^ n := by
  have hite : ∀ p [Decidable p], (if p then v else old) < 2 ^ n := fun p _ => by split <;> assumption
  cases o with
  | add => exact Nat.mod_lt _ (Nat.two_pow_pos n)
  | and => exact Nat.and_lt_two_pow _ hv
  | or => exact Nat.or_lt_two_pow hold hv
  | xor => exact Nat.xor_lt_two_pow hold hv
  | minI => exact hite _
  | maxI => exact hite _
  | minN => exact hite _
  | maxN => exact hite _
/-- The value that stands at the place once an atomic operation is done: the old one if it writes nothing. -/
def amoLeaves (o : AmoOp) (n old v cmp : Nat) : Nat := (o.apply n old v cmp).getD old
theorem amoLeaves_lt (o : AmoOp) {n old v cmp : Nat} (hold : old < 2 ^ n) (hv : v < 2 ^ n) : amoLeaves o n old v cmp < 2 ^ n := by
  cases o with
  | rmw r => exact rmw_apply_lt r hold hv
  | swap => exact hv
  | cas =>
    simp only [amoLeaves, AmoOp.apply]
    split
    · exact hv
    · exact hold
/-- Table 13.7. -/
theorem amoLeaves_eq (o : AmoOp) (n old x cmp : Nat) : amoLeaves o n old x cmp =
    match o with
    | .swap => x
    | .cas => if old = cmp then x else old
    | .rmw .add => (old + x) % 2 ^ n
    | .rmw .and => old &&& x
    | .rmw .or => old ||| x
    | .rmw .xor => old ^^^ x
    | .rmw .minN => min old x
    | .rmw .maxN => max old x
    | .rmw .minI => if signedOf n x < signedOf n old then x else old
    | .rmw .maxI => if signedOf n old < signedOf n x then x else old := by
  cases o with
  | swap => rfl
  | cas =>
    simp only [amoLeaves, AmoOp.apply]
    split <;> rfl
  | rmw r =>
    cases r with
    | minN =>
      simp only [amoLeaves, AmoOp.apply, RmwOp.apply, Option.getD_some]
      split <;> omega
    | maxN =>
      simp only [amoLeaves, AmoOp.apply, RmwOp.apply, Option.getD_some]
      split <;> omega
    | add | and | or | xor | minI | maxI => rfl

theorem leNat_lt_bits {bs : List Byte} {n : Nat} (h : bs.length ≤ n) : leNat bs < 2 ^ (8 * n) := by
  rw [pow_mul]
  exact (leNat_lt bs).trans_le (Nat.pow_le_pow_right (by decide) h)
/-- The number of a line of at most 64 bytes. -/
theorem toNat_bytesLine {bs : List Byte} (h : bs.length ≤ 64) : (bytesLine bs).toNat = leNat bs := by
  change (BitVec.ofNat (8 * 64) (leNat bs)).toNat = _
  rw [BitVec.toNat_ofNat, Nat.mod_eq_of_lt (leNat_lt_bits h)]
theorem toNat_peekLine_sram (s : State) (b off : Nat) (z : AmoSize) :
    (s.peekLine (.sram b off) z.size).toNat = leNat (Mem.readBytes s.mem (Place.sram b off).key z.size) :=
  toNat_bytesLine (by rw [State.peek, Mem.readBytes_length]; cases z <;> decide)
theorem toNat_lineOf (v : Word) : (lineOf v).toNat = v.toNat := by
  exact BitVec.toNat_setWidth_of_le (by decide)

/-! ### AMO in the own bank (R285) -/

section
variable {o : AmoOp} {z : AmoSize} {d a b c : GReg} {ea : Word}

/-- The value of the own bank that an AMO finds. -/
abbrev State.ownOld (s : State) (off : Nat) (z : AmoSize) : Nat := leNat (Mem.readBytes s.mem (Place.sram s.brick off).key z.size)
/-- The machine once an AMO of the own bank is done: the value is written if there is one, the sub-bank was used, and the access waits no longer. -/
def State.ownAmo (s : State) (off : Nat) (z : AmoSize) : Option Nat → State
  | some v => ((s.poke (kidOf s.me.vd 0) (.sram s.brick off) (leBytes z.size v)).touch (.sram s.brick off)).unstall s.me.ctx
  | none => (s.touch (.sram s.brick off)).unstall s.me.ctx
theorem State.ownAmo_frame (s : State) (off : Nat) (z : AmoSize) (v : Option Nat) :
    (s.ownAmo off z v).me = s.me ∧ (s.ownAmo off z v).cur = s.cur := by cases v <;> exact ⟨rfl, rfl⟩
/-- An AMO changes no byte outside its word. -/
theorem State.read_ownAmo (off : Nat) (z : AmoSize) (v : Option Nat) {q : Nat}
    (hq : q < (Place.sram s.brick off).key ∨ (Place.sram s.brick off).key + z.size ≤ q) : Mem.read (s.ownAmo off z v).mem q = Mem.read s.mem q := by
  cases v with
  | none => rfl
  | some v => exact Mem.read_writeBytes_ne _ _ (by rwa [leBytes_length])
/-- What stands in the word then. -/
theorem State.ownOld_ownAmo (hwf : Memory.wf s.mem = true) (off : Nat) {z : AmoSize} {v : Option Nat} (hv : v.getD (s.ownOld off z) < 2 ^ z.bits) :
    leNat (Mem.readBytes (s.ownAmo off z v).mem (Place.sram s.brick off).key z.size) = v.getD (s.ownOld off z) := by
  cases v with
  | none => rfl
  | some v =>
    have hback := Mem.readBytes_writeBytes (leBytes z.size v) (Place.sram s.brick off).key hwf
    rw [leBytes_length] at hback
    refine (congrArg leNat hback).trans ?_
    rw [leNat_leBytes, amoSize_pow_bits z]
    exact Nat.mod_eq_of_lt hv
/-- An AMO of ready bytes of the own bank answers the old value, and leaves that of Table 13.7. -/
theorem State.amoPerform_own {off : Nat} (h : s.ownReady off z.size) {q : Request} (hp : q.place = .sram s.brick off) (hw : q.win = 0) :
    ∃ u, s.amoPerform s.me.vd q o z = (u, .done (bytesLine (Mem.readBytes s.mem (Place.sram s.brick off).key z.size))) ∧
      u.unstall s.me.ctx = s.ownAmo off z (o.apply z.bits (s.ownOld off z) (q.data.toNat % 2 ^ z.bits) (q.cmp.toNat % 2 ^ z.bits)) := by
  simp only [State.amoPerform, hp, hw, State.homeFault_own h, toNat_peekLine_sram]
  cases o.apply z.bits (s.ownOld off z) (q.data.toNat % 2 ^ z.bits) (q.cmp.toNat % 2 ^ z.bits) <;> exact ⟨_, rfl, rfl⟩
/-- AMO of the own bank, which no own store or update holds back, completes in its own step. -/
theorem exec_amo_own (hea : s.me.getG b = ea) (hdrained : s.me.sb = []) (ha : s.answers = []) (h : s.ownClear ea z.size) :
    exec (.amo o z d a b c) s =
      .next ((s.ownAmo ea.toNat z (o.apply z.bits (s.ownOld ea.toNat z) ((s.me.getG a).toNat % 2 ^ z.bits)
        ((s.me.getG c).toNat % 2 ^ z.bits))).after (s.me.setG d (BitVec.ofNat 64 (s.ownOld ea.toNat z))).dropAhead) := by
  obtain ⟨haligned, hready, hclear⟩ := h
  have hgo : execAmo o z d a b c s = s.request (mkReq (.amo o z) ea (.sram s.brick ea.toNat) 0 d.val (s.me.getG a) (s.me.getG c)) := by
    simp only [execAmo]
    rw [hea, State.reach_own hready.1 haligned]
    simp [Place.isHost, State.drainedFor, scopeFrom, State.drained, State.behindOwn, State.wordOpen, hdrained, hclear]
  generalize hq : mkReq (.amo o z) ea (.sram s.brick ea.toNat) 0 d.val (s.me.getG a) (s.me.getG c) = q at hgo
  have hplace : q.place = .sram s.brick ea.toNat := by rw [← hq]; rfl
  have hkind : q.kind = .amo o z := by rw [← hq]; rfl
  have hreg : q.reg = d.val := by rw [← hq]; rfl
  obtain ⟨u, hperform, hu⟩ := State.amoPerform_own (o := o) hready hplace (by rw [← hq]; rfl)
  rw [show q.data = s.me.getG a by rw [← hq]; rfl, show q.cmp = s.me.getG c by rw [← hq]; rfl] at hu
  have hat : s.perform s.me q = s.amoPerform s.me.vd q o z := by rw [State.perform, hkind]
  change execAmo o z d a b c s = _
  rw [hgo, State.request, hplace, State.atHand_own hready, if_pos rfl, State.looking_sound ha, hat, hperform]
  simp only [hu]
  refine (State.served_done _ q _).trans ?_
  rw [hkind, hreg]
  rw [(s.ownAmo_frame _ _ _).1, Slot.reply, lowWord_bytesLine, Fin.ofNat_val_eq_self]

end

/-! ### Remote updates (R286) -/

section
variable {o : RmwOp} {z : AmoSize} {m : Msg} {b off : Nat}

/-- The machine once a remote update has been performed at its place. -/
def State.updated (s : State) (m : Msg) (o : RmwOp) (z : AmoSize) : State :=
  ((s.poke (kidOf m.vd m.win) m.place (leBytes z.size (o.apply z.bits (s.peekLine m.place z.size).toNat (m.data.toNat % 2 ^ z.bits)))).touch
    m.place).modMsg m.id fun m => { m with performed := true }
/-- At a bank that can serve, with no fault there, an update is performed. -/
theorem State.msgPerform_update (hkind : m.kind = .rupd o z) (hplace : m.place = .sram b off) (hserves : s.blocked m.id m.place = false)
    (hfault : s.homeFault m.vd m.win m.place z.size true false = none) :
    s.msgPerform m .sound = s.updated m o z ∨ s.msgPerform m .sound = (s.updated m o z).unstall m.id := by
  have hopen : s.closing m.place = false := by
    rw [hplace] at hfault ⊢
    exact State.closing_of_sram (State.sramFault_of_home hfault)
  have hmedia : s.media m.vd m.win m.place m.size true (decide (m.size = 64)) .sound = s := by
    rw [hplace]
    exact ite_self s
  have hlink : s.linkDown m.place = false := by rw [hplace]; rfl
  rw [State.msgPerform, if_neg (by simp [hlink])]
  refine State.inTurn_serves (t := s.updated m o z) ?_ hserves hopen
  simp only [hmedia, hkind, State.updatePerform, hfault]
  rfl
/-- What an update leaves: the new value at its place, every other byte, the slots and the words of the other messages; its message is performed. -/
theorem State.updated_sram (hwf : Memory.wf s.mem = true) (hplace : m.place = .sram b off) :
    Mem.readBytes (s.updated m o z).mem (bankAddr b off) z.size =
      leBytes z.size (o.apply z.bits (leNat (Mem.readBytes s.mem (bankAddr b off) z.size)) (m.data.toNat % 2 ^ z.bits)) ∧
    (∀ a, a < bankAddr b off ∨ bankAddr b off + z.size ≤ a → Mem.read (s.updated m o z).mem a = Mem.read s.mem a) ∧
    (s.updated m o z).me = s.me ∧ (s.updated m o z).msgs = s.msgs.map fun x => if x.id = m.id then { x with performed := true } else x := by
  have hmem : (s.updated m o z).mem = Mem.writeBytes s.mem (bankAddr b off)
      (leBytes z.size (o.apply z.bits (leNat (Mem.readBytes s.mem (bankAddr b off) z.size)) (m.data.toNat % 2 ^ z.bits))) := by
    rw [State.updated, hplace, toNat_peekLine_sram]
    rfl
  rw [hmem]
  refine ⟨?_, fun a ha => Mem.read_writeBytes_ne _ _ (by rwa [leBytes_length]), ?_, ?_⟩
  · have hread := Mem.readBytes_writeBytes
      (leBytes z.size (o.apply z.bits (leNat (Mem.readBytes s.mem (bankAddr b off) z.size)) (m.data.toNat % 2 ^ z.bits))) (bankAddr b off) hwf
    rwa [leBytes_length] at hread
  · rw [State.updated, hplace]; rfl
  · rw [State.updated, hplace]; rfl
/-- ATOMIC_AT_HOME of an update that nothing goes before performs it. -/
theorem exec_atomicAtHome_update {id : Nat} {r : Media} (hnone : s.sentReq id ReqKind.isAtomic = none)
    (hm : (s.msgs.find? fun m => decide (m.id = id ∧ m.kind ≠ .store)) = some m) (hfree : s.msgFree m = true) :
    exec (.atomicAtHome id r) s = .next (s.msgPerform m r) := by
  show execAtomicAtHome id r s = _
  simp only [execAtomicAtHome, hnone, hm, hfree, if_true]

/-! ### RUPD leaves (R286) -/

/-- A message once its translation has given it its place. -/
def Msg.homed (m : Msg) (p : Place) (win : Nat) (home : Option Nat) (sc : Scope) : Msg :=
  { m with place := p, win := win, home := home, scope := sc, demand := none }
/-- An update whose walk is done and whose place is no host's has its place. -/
theorem State.updateGo_placed {u : State} {brick win : Nat} {p : Place} (hwalk : s.walk ⟨m.id, brick, m.vd, m.space, m.level⟩ m.ea = (u, none))
    (hplace : u.resolve brick m.vd m.space m.level m.ea .rw = .ok p win) (hhost : p.isHost = false) :
    s.updateGo brick m = ((u.translated brick m.vd m.space m.level m.ea .rw).cross p (leBytes 8 m.data.toNat)).modMsg m.id fun x =>
      x.homed p win ((u.translated brick m.vd m.space m.level m.ea .rw).homeBrick p) (scopeFrom brick p) := by
  simp only [State.updateGo, hwalk, hplace]
  cases p with
  | host a => cases hhost
  | sram b off => rfl
  | hbm a => rfl
  | peer x a => rfl
/-- A message of a new number stands last, and is the one of its number. -/
theorem msgs_find_new {ms : List Msg} {id : Nat} {f : Msg → Msg} (hfresh : ∀ x ∈ ms, x.id < id) (hid : m.id = id) (hf : (f m).id = id) :
    ((ms ++ [m]).map fun x => if x.id = id then f x else x) = ms ++ [f m] ∧
    ((ms ++ [f m]).find? fun x => decide (x.id = id)) = some (f m) := by
  refine ⟨?_, ?_⟩
  · rw [List.map_append, List.map_singleton, if_pos hid]
    exact congrArg (· ++ _) ((List.map_congr_left fun x hx => if_neg (hfresh x hx).ne).trans ms.map_id)
  · have hnone : (ms.find? fun x => decide (x.id = id)) = none := by
      rw [List.find?_eq_none]
      exact fun x hx => by simpa using (hfresh x hx).ne
    rw [List.find?_append, hnone]
    simp [hf]

end

/-- The message of an update by the current slot, before its translation. -/
def State.rupdMsg (s : State) (o : RmwOp) (z : AmoSize) (a b : GReg) : Msg :=
  ⟨s.nextId, s.me.ctx, s.cur, s.me.vd, s.me.region, .rupd o z, s.me.getG b, z.size, lineOf (s.me.getG a), .host 0, 0, none, .sys,
    s.me.level, s.me.space, none, false⟩
/-- The machine in which that message waits for its place. -/
def State.rupdSent (s : State) (o : RmwOp) (z : AmoSize) (a b : GReg) : State :=
  { s.fresh.2 with msgs := s.msgs ++ [s.rupdMsg o z a b] }

section
variable {o : RmwOp} {z : AmoSize} {a b : GReg} {t u v : State}

/-- RUPD of a sound address, with room for its acknowledgement, goes on past it. -/
theorem exec_rupd_goes (hfault : addrFault s.brick (s.me.getG b) z.size = none) (hroom : s.me.ackcnt < 65535)
    (ht : ((s.rupdSent o z a b).updateGo s.brick (s.rupdMsg o z a b)).updateHere s.nextId = t) (hme : t.me = s.me) :
    exec (.rupd o z a b) s = .next (t.after { t.me with ackcnt := t.me.ackcnt + 1 }) := by
  change execRupd o z a b s = _
  have hctx : t.me.ctx = s.me.ctx := congrArg Slot.ctx hme
  simp only [execRupd, hfault, if_neg (Nat.not_le.mpr hroom)]
  subst ht
  exact if_pos hctx
/-- A walked update of a place that is no host's stands last among the messages, with its place, and nothing else has changed but caches and links. -/
theorem State.updateGo_rupdSent {p : Place} {win : Nat} (hfresh : ∀ x ∈ s.msgs, x.id < s.nextId)
    (hwalk : (s.rupdSent o z a b).walk ⟨s.nextId, s.brick, s.me.vd, s.me.space, s.me.level⟩ (s.me.getG b) = (u, none))
    (humsgs : u.msgs = s.msgs ++ [s.rupdMsg o z a b])
    (hplace : u.resolve s.brick s.me.vd s.me.space s.me.level (s.me.getG b) .rw = .ok p win) (hhost : p.isHost = false) :
    ∃ v m home, (s.rupdSent o z a b).updateGo s.brick (s.rupdMsg o z a b) = v ∧
      m = (s.rupdMsg o z a b).homed p win home (scopeFrom s.brick p) ∧
      v.me = u.me ∧ v.mem = u.mem ∧ v.cur = u.cur ∧ v.msgs = s.msgs ++ [m] ∧ (v.msgs.find? fun x => decide (x.id = s.nextId)) = some m := by
  have hgo := State.updateGo_placed (m := s.rupdMsg o z a b) hwalk hplace hhost
  obtain ⟨q, n, hcaches⟩ := u.translated_caches s.brick s.me.vd s.me.space s.me.level (s.me.getG b) .rw
  change _ = ((u.translated s.brick s.me.vd s.me.space s.me.level (s.me.getG b) .rw).cross p _).modMsg s.nextId _ at hgo
  change _ = ((u.translated s.brick s.me.vd s.me.space s.me.level (s.me.getG b) .rw).cross p _).modMsg s.nextId fun x =>
    x.homed p win ((u.translated s.brick s.me.vd s.me.space s.me.level (s.me.getG b) .rw).homeBrick p) _ at hgo
  rw [hcaches] at hgo
  obtain ⟨hmap, hfind⟩ := msgs_find_new (m := s.rupdMsg o z a b) (f := fun x => x.homed p win ((u.withCaches q n).homeBrick p)
    (scopeFrom s.brick p)) hfresh rfl rfl
  have hmsgs : (((u.withCaches q n).cross p (leBytes 8 (s.rupdMsg o z a b).data.toNat)).modMsg s.nextId fun x =>
      x.homed p win ((u.withCaches q n).homeBrick p) (scopeFrom s.brick p)).msgs = _ :=
    (congrArg (List.map _) ((State.msgs_cross (u.withCaches q n) p _).trans humsgs)).trans hmap
  refine ⟨_, _, _, hgo, rfl, ?_, State.mem_cross _ _ _, ?_, hmsgs, (congrArg _ hmsgs).trans hfind⟩
  · cases p <;> rfl
  · cases p <;> rfl
/-- What is performed at once if it is an update of the own bank that nothing goes before; another message stays as it is. -/
theorem State.updateHere_away {id : Nat} {m : Msg} (hfind : (s.msgs.find? fun x => decide (x.id = id)) = some m) (haway : s.ownBank m.place = false) :
    s.updateHere id = s := by
  simp only [State.updateHere, hfind, haway, Bool.false_and, Bool.false_eq_true, if_false]
theorem State.updateHere_own {id : Nat} {m : Msg} (hfind : (s.msgs.find? fun x => decide (x.id = id)) = some m) (hown : s.ownBank m.place = true)
    (hfree : s.msgFree m = true) (ha : s.answers = []) : s.updateHere id = s.msgPerform m .sound := by
  simp only [State.updateHere, hfind, hown, hfree, Bool.and_self, if_true, ha]
  rw [show (List.nil : List Media).tail = s.answers from ha.symm]
  rfl
/-- A message is free if its context has no other message under way and no store that waits. -/
theorem State.msgFree_alone {m : Msg} (hdemand : m.demand = none) (hperformed : m.performed = false)
    (hmsgs : ∀ x ∈ s.msgs, x.id < m.id → x.ctx ≠ m.ctx) (hsb : ∀ k, s.ctxOf m.ctx = some k → k.sb = []) : s.msgFree m = true := by
  have hnone : (s.msgs.filter fun x => decide (x.ctx = m.ctx ∧ x.id < m.id ∧ ¬ x.performed)) = [] := by
    rw [List.filter_eq_nil_iff]
    intro x hx h
    obtain ⟨hctx, hid, -⟩ := of_decide_eq_true h
    exact hmsgs x hx hid hctx
  simp only [State.msgFree, hdemand, hperformed, hnone]
  cases hk : s.ctxOf m.ctx with
  | none => rfl
  | some k => simp [State.storesBefore, hsb k hk]

end
/-- RUPD whose place is elsewhere leaves: its message is under way, and nothing has been performed. -/
theorem exec_rupd_away {o : RmwOp} {z : AmoSize} {a b : GReg} {u : State} {p : Place} {win : Nat} (hfault : addrFault s.brick (s.me.getG b) z.size = none)
    (hroom : s.me.ackcnt < 65535) (hfresh : ∀ x ∈ s.msgs, x.id < s.nextId)
    (hwalk : (s.rupdSent o z a b).walk ⟨s.nextId, s.brick, s.me.vd, s.me.space, s.me.level⟩ (s.me.getG b) = (u, none)) (hume : u.me = s.me)
    (humsgs : u.msgs = s.msgs ++ [s.rupdMsg o z a b])
    (hplace : u.resolve s.brick s.me.vd s.me.space s.me.level (s.me.getG b) .rw = .ok p win) (hhost : p.isHost = false) (haway : u.ownBank p = false) :
    ∃ t : State, exec (.rupd o z a b) s = .next (t.after { t.me with ackcnt := t.me.ackcnt + 1 }) ∧ t.me = s.me ∧ t.mem = u.mem ∧
      ∃ m ∈ t.msgs, m.id = s.nextId ∧ m.place = p ∧ m.kind = .rupd o z ∧ m.performed = false := by
  obtain ⟨v, m, home, hgo, rfl, hme, hmem, hcur, hmsgs, hfind⟩ := State.updateGo_rupdSent hfresh hwalk humsgs hplace hhost
  have haway' : v.ownBank p = false := by
    rw [← haway]
    cases p with
    | sram b off => exact congrArg (fun c => decide (b = c / 8)) hcur
    | host _ | hbm _ | peer _ _ => rfl
  have hhere := State.updateHere_away hfind haway'
  refine ⟨v, exec_rupd_goes hfault hroom (by rw [hgo, hhere]) (hme.trans hume), hme.trans hume, hmem,
    (s.rupdMsg o z a b).homed p win home (scopeFrom s.brick p), ?_, rfl, rfl, rfl, rfl⟩
  rw [hmsgs]
  exact List.mem_append_right _ List.mem_cons_self
/-- The message of an update of the own bank that has its place. -/
def State.rupdHome (s : State) (o : RmwOp) (z : AmoSize) (a b : GReg) (off : Nat) : Msg :=
  (s.rupdMsg o z a b).homed (.sram s.brick off) 0 (s.homeBrick (.sram s.brick off)) (scopeFrom s.brick (.sram s.brick off))
/-- The machine in which that message waits to be performed. -/
def State.rupdHere (s : State) (o : RmwOp) (z : AmoSize) (a b : GReg) (off : Nat) : State :=
  { s.fresh.2 with msgs := s.msgs ++ [s.rupdHome o z a b off] }
theorem State.updateGo_own {o : RmwOp} {z : AmoSize} {a b : GReg} {off : Nat} (hfresh : ∀ x ∈ s.msgs, x.id < s.nextId)
    (hbank : bankOf s.brick (s.me.getG b).toNat = some (s.brick, off)) :
    (s.rupdSent o z a b).updateGo s.brick (s.rupdMsg o z a b) = s.rupdHere o z a b off := by
  have hwalk : (s.rupdSent o z a b).walk ⟨s.nextId, s.brick, s.me.vd, s.me.space, s.me.level⟩ (s.me.getG b) = (s.rupdSent o z a b, none) := by
    simp only [State.walk, State.noWalk, hbank, Option.isSome_some, Bool.true_or, if_true]
  have hplace : (s.rupdSent o z a b).resolve s.brick s.me.vd s.me.space s.me.level (s.me.getG b) .rw = .ok (.sram s.brick off) 0 := by
    simp only [State.resolve, hbank]
  have hstays : (s.rupdSent o z a b).translated s.brick s.me.vd s.me.space s.me.level (s.me.getG b) .rw = s.rupdSent o z a b := by
    simp only [State.translated, hbank, Option.isSome_some, Bool.true_or, if_true]
  have hgo := State.updateGo_placed (m := s.rupdMsg o z a b) hwalk hplace rfl
  change _ = (((s.rupdSent o z a b).translated s.brick s.me.vd s.me.space s.me.level (s.me.getG b) .rw).cross _ _).modMsg s.nextId fun x =>
    x.homed _ _ (((s.rupdSent o z a b).translated s.brick s.me.vd s.me.space s.me.level (s.me.getG b) .rw).homeBrick _) _ at hgo
  rw [hstays] at hgo
  have hmap := (msgs_find_new (m := s.rupdMsg o z a b) (f := fun x => x.homed (.sram s.brick off) 0 (s.homeBrick (.sram s.brick off))
    (scopeFrom s.brick (.sram s.brick off))) hfresh rfl rfl).1
  exact hgo.trans (congrArg (fun ms => { s.fresh.2 with msgs := ms }) hmap)
/-- RUPD of the own bank, with nothing of its context before it, performs its update at once. -/
theorem exec_rupd_own {o : RmwOp} {z : AmoSize} {a b : GReg} {off : Nat} (hfault : addrFault s.brick (s.me.getG b) z.size = none)
    (hroom : s.me.ackcnt < 65535) (hfresh : ∀ x ∈ s.msgs, x.id < s.nextId) (hbank : bankOf s.brick (s.me.getG b).toNat = some (s.brick, off))
    (hwf : Memory.wf s.mem = true) (ha : s.answers = []) (hserves : s.blocked s.nextId (.sram s.brick off) = false)
    (hserved : s.homeFault s.me.vd 0 (.sram s.brick off) z.size true false = none) (halone : ∀ m ∈ s.msgs, m.ctx ≠ s.me.ctx)
    (hsb : ∀ k, s.ctxOf s.me.ctx = some k → k.sb = []) :
    ∃ t : State, exec (.rupd o z a b) s = .next (t.after { t.me with ackcnt := t.me.ackcnt + 1 }) ∧ t.me = s.me ∧
      Mem.readBytes t.mem (bankAddr s.brick off) z.size = leBytes z.size
        (o.apply z.bits (leNat (Mem.readBytes s.mem (bankAddr s.brick off) z.size)) ((s.me.getG a).toNat % 2 ^ z.bits)) ∧
      (∀ q, q < bankAddr s.brick off ∨ bankAddr s.brick off + z.size ≤ q → Mem.read t.mem q = Mem.read s.mem q) ∧
      ∃ m ∈ t.msgs, m.id = s.nextId ∧ m.kind = .rupd o z ∧ m.performed = true := by
  have hown : (s.rupdHere o z a b off).ownBank (.sram s.brick off) = true := decide_eq_true rfl
  have hfree : (s.rupdHere o z a b off).msgFree (s.rupdHome o z a b off) = true := by
    refine State.msgFree_alone rfl rfl (fun x hx hid => ?_) hsb
    rcases List.mem_append.mp hx with hx | hx
    · exact halone x hx
    · rw [List.mem_singleton.mp hx] at hid
      exact absurd hid (Nat.lt_irrefl _)
  have hfind := (msgs_find_new (m := s.rupdMsg o z a b) (f := fun _ => s.rupdHome o z a b off) hfresh rfl rfl).2
  have hgo := (congrArg (State.updateHere · s.nextId) (State.updateGo_own (o := o) (z := z) (a := a) hfresh hbank)).trans
    (State.updateHere_own (s := s.rupdHere o z a b off) hfind hown hfree ha)
  obtain ⟨hback, hframe, hme, hmsgs⟩ := State.updated_sram (s := s.rupdHere o z a b off) (m := s.rupdHome o z a b off) (o := o) (z := z) hwf rfl
  have hdata : (s.rupdHome o z a b off).data.toNat = (s.me.getG a).toNat := toNat_lineOf _
  rw [hdata] at hback
  have hmem : { s.rupdHome o z a b off with performed := true } ∈ ((s.rupdHere o z a b off).updated (s.rupdHome o z a b off) o z).msgs := by
    rw [hmsgs]
    exact List.mem_map.mpr ⟨s.rupdHome o z a b off, List.mem_append_right _ List.mem_cons_self, if_pos rfl⟩
  rcases State.msgPerform_update (s := s.rupdHere o z a b off) (m := s.rupdHome o z a b off) (o := o) (z := z) rfl rfl hserves hserved
    with hperform | hperform
  · exact ⟨_, exec_rupd_goes hfault hroom (hgo.trans hperform) hme, hme, hback, hframe, _, hmem, rfl, rfl, rfl⟩
  · exact ⟨_, exec_rupd_goes hfault hroom (hgo.trans hperform) hme, hme, hback, hframe, _, hmem, rfl, rfl, rfl⟩

/-- Settles O28: AMO by `exec_amo_own` with Table 13.7 in `amoLeaves_eq`, RUPD by `exec_rupd_away` and `exec_rupd_own`, and an update at its home by `State.msgPerform_update`. -/
theorem atomics : Obligations.Atomics := by
  refine ⟨?_, ?_, ?_⟩
  · intro s o z d a b c ea p old x haligned hready ha hdrained hclear hwf
    have hexec := exec_amo_own (o := o) (d := d) (a := a) (c := c) (b := b) (ea := ea) rfl hdrained ha ⟨haligned, hready, hclear⟩
    have hold : old < 2 ^ z.bits := by
      have hlt := leNat_lt (Mem.readBytes s.mem p.key z.size)
      rwa [Mem.readBytes_length, amoSize_pow_bits] at hlt
    have hx : x < 2 ^ z.bits := Nat.mod_lt _ (Nat.two_pow_pos _)
    have hleaves := amoLeaves_lt o (cmp := (s.me.getG c).toNat % 2 ^ z.bits) hold hx
    obtain ⟨hme, hcur⟩ := s.ownAmo_frame ea.toNat z (o.apply z.bits old x ((s.me.getG c).toNat % 2 ^ z.bits))
    refine ⟨s.ownAmo ea.toNat z (o.apply z.bits old x ((s.me.getG c).toNat % 2 ^ z.bits)), ?_, hme, hcur,
      fun q hq => State.read_ownAmo ea.toNat z _ hq, ?_⟩
    · rw [hme]
      exact hexec
    · exact (State.ownOld_ownAmo hwf ea.toNat hleaves).trans (amoLeaves_eq o z.bits old x _)
  · intro s o z a b ea m s1 hfault hroom hfresh
    refine ⟨?_, ?_⟩
    · intro u p win hwalk hume humsgs hplace hhost haway
      exact exec_rupd_away hfault hroom hfresh hwalk hume humsgs hplace hhost haway
    · intro off p hbank _ hwf ha hserves hserved halone hsb
      exact exec_rupd_own hfault hroom hfresh hbank hwf ha hserves hserved halone hsb
  · intro s id b off o z m hwf hnone hm hkind hfree hplace hserves hserved
    have hfound := List.find?_some hm
    obtain ⟨hid, -⟩ := of_decide_eq_true hfound
    subst hid
    obtain ⟨hback, hframe, -, -⟩ := State.updated_sram (o := o) (z := z) hwf hplace
    have hexec := exec_atomicAtHome_update (r := .sound) hnone hm hfree
    rcases State.msgPerform_update hkind hplace hserves hserved with hperform | hperform
    · exact ⟨_, hexec.trans (congrArg _ hperform), hback, hframe⟩
    · exact ⟨_, hexec.trans (congrArg _ hperform), hback, hframe⟩

end Sys2Proof.Machine
end

section
/-!
SUPPORT. A contribution to a stalled collective whose stall notice is fatal to its domain; EnginesComplete is refuted with it.
-/
namespace Sys2Proof.Machine

variable {s : State}

/-- A collective's descriptor of four ranks, this one rank 0, in group 0; PATIENCE as it is when none is given. -/
def collDesc : Line := BitVec.ofNat 512 (2 ^ (64 * 4 + 34))
/-- A COLL of the thread of the demonstration device, whose contribution has been read. -/
def collStaged : Cmd :=
  ⟨40, .coll, 0, 1, 0, 0, 0, .task, 0, 0, 0, collDesc, 0, 0, none, .staged, 0, 0, 0, none, [], none⟩
/-- A collective of that group which has stalled with one contribution. -/
def collStalled : CollInst := ⟨7, 0, 0, 0, 0, 0, 4, 1000, 0, true, [⟨12, 5, true⟩]⟩
/-- The demonstration device with the two. Its region is a fault domain without a handler. -/
def stalledColl : State := { State.reset.withDemo with cmds := [collStaged], colls := [collStalled] }
/-- Does an outcome leave the slots of a state as they were? -/
def keepsSlots (s : State) (o : Out) : Bool :=
  match o with
  | .next t => decide (t.slots = s.slots)
  | _ => true
/-- The stall notice of the contribution is fatal to its domain, whose thread ends (R114, R115). -/
theorem stalledColl_ends : keepsSlots stalledColl (exec (.collArrive 40) stalledColl) = false := by decide +kernel

/-- Refutes O48: a contribution that joins a stalled collective has its stall notice at once, and that goes to its fault domain as well. The domain of `stalledColl` has no handler, so the notice is fatal to it and its thread ends: the slots are not as they were. -/
theorem not_enginesComplete : ¬ Obligations.EnginesComplete := by
  unfold Obligations.EnginesComplete
  rintro ⟨-, hcolls, -⟩
  obtain ⟨-, -, hstalled, -⟩ := hcolls stalledColl 40 collStaged rfl rfl (by decide +kernel) (by decide +kernel)
  obtain ⟨t, hexec, -, hslots, -⟩ := hstalled collStalled (by decide +kernel) (by decide +kernel) (by decide +kernel) rfl
  have hends := stalledColl_ends
  rw [hexec] at hends
  exact absurd hslots (of_decide_eq_false hends)

end Sys2Proof.Machine
end

section
/-!
SUPPORT. Engine commands read their descriptor, pass their checks and join their queue; a copy between ready lines of a bank moves them one after another. EngineCommands is assembled from these.
-/
namespace Sys2Proof.Machine

variable {s : State}

/-! ### Engine commands enter their queue (R339, R340) -/

section
variable {kind : CmdKind} {t a b c : GReg} {d : Line} {ea : Word}

/-- An engine command whose descriptor lies in the own bank, and no own store before it, reads it and goes on to its checks. -/
theorem State.engineCommand_own (hea : s.me.getG c = ea) (hdescr : s.me.descr = none) (ha : s.answers = []) (h : s.ownClear ea 64) :
    s.engineCommand kind t a b c = ((s.unstall s.me.ctx).touch (.sram s.brick ea.toNat)).checkedCommand kind t a b c (s.ownNest ea.toNat) := by
  obtain ⟨haligned, hready, hclear⟩ := h
  have hfree : s.blocked s.me.ctx (.sram s.brick ea.toNat) = false := hready.2.2.1
  have hread : (s.unstall s.me.ctx).readAt s.me.vd 0 (.sram s.brick ea.toNat) 64 = .ok (s.ownNest ea.toNat) := by
    have hfault : (s.unstall s.me.ctx).homeFault s.me.vd 0 (.sram s.brick ea.toNat) 64 false false = none := State.homeFault_own hready 0 64 false false
    simp only [State.readAt, hfault]
    rfl
  simp only [State.engineCommand, hdescr, hea, State.reach_own hready.1 haligned, hclear, hfree, Bool.false_eq_true, if_false]
  rw [State.looking_sound (s := s.unstall s.me.ctx) ha]
  simp only [hread]
/-- A misfit traps (R340). -/
theorem State.checkedCommand_misfit (h : misfit kind d = true) : s.checkedCommand kind t a b c d = s.trap .illegalOperand (s.me.getG c) := if_pos h
theorem bits_low6 {v : Word} (h : v.toNat % 64 = 0) : bits v 5 0 = 0 := by
  rw [bits]
  omega
/-- A command that passes its checks, of a drained slot, takes its ticket (R340). -/
theorem State.checkedCommand_sound (hfit : misfit kind d = false) (ha : (s.me.getG a).toNat % 64 = 0) (hb : (s.me.getG b).toNat % 64 = 0)
    (hbar : dBound d = false ∨ s.holdsBarrier s.me.vd (dBar d) = true ∧ (s.barrier s.brick (dBar d)).target ≠ 0)
    (hroom : s.me.engines < 256) (hsb : s.me.sb = []) (hack : s.me.ackcnt = 0) :
    s.checkedCommand kind t a b c d = s.command kind t a b d := by
  have hsound : (dBound d && (!(s.holdsBarrier s.me.vd (dBar d)) || decide ((s.barrier s.brick (dBar d)).target = 0))) = false := by
    rcases hbar with hbar | ⟨hholds, htarget⟩
    · rw [hbar, Bool.false_and]
    · rw [hholds, decide_eq_false htarget, Bool.not_true, Bool.or_self, Bool.and_false]
  simp only [State.checkedCommand, hfit, bits_low6 ha, bits_low6 hb, hsound, Nat.not_le.mpr hroom, State.commandDrained, hsb, hack,
    Bool.false_eq_true, if_false, ne_eq, not_true_eq_false, or_self]

/-- A slot that has taken the ticket of an engine command. -/
abbrev Slot.commands (k : Slot) (t : GReg) : Slot :=
  { (k.setG t (k.tkt.setWidth 64)).dropAhead with tkt := k.tkt + 1, engines := k.engines + 1 }
/-- The machine in which a command has bound the barrier that it names, if any, and has its number. -/
def State.bound (s : State) (d : Line) : State :=
  (if dBound d then s.bind s.me.vd s.brick (dBar d) else s).fresh.2
theorem State.bound_keeps (s : State) (d : Line) : (s.bound d).slots = s.slots ∧ (s.bound d).cur = s.cur ∧ (s.bound d).mem = s.mem ∧
    (s.bound d).cmds = s.cmds ∧ (s.bound d).vds = s.vds := by
  unfold State.bound
  split
  · rw [State.bind, State.modBarrierOf]
    split <;> exact ⟨rfl, rfl, rfl, rfl, rfl⟩
  · exact ⟨rfl, rfl, rfl, rfl, rfl⟩
/-- The command that a slot gives, with its number and its engine. -/
def State.newCmd (s u : State) (kind : CmdKind) (a b : GReg) (d : Line) (id e : Nat) : Cmd :=
  ⟨id, kind, s.me.vd, s.me.ctx, u.brick, u.cur % 8, s.me.region, s.me.level, s.me.space, s.me.tkt.toNat, e, d, s.me.getG a, s.me.getG b,
    if dBound d then some (dBar d) else none, .queued, 0, 0, 0, none, [], none⟩
theorem State.engineFor_congr {u : State} {k : Slot} (hvds : u.vds = s.vds) (hcur : u.cur = s.cur) : u.engineFor k kind d = s.engineFor k kind d := by
  simp only [State.engineFor, State.vd?, State.brick, hcur, hvds]
  rfl
/-- A command with an engine joins its queue. -/
theorem State.command_queued {e : Nat} (he : s.engineFor s.me kind d = some e) : ∃ id, let u := s.bound d
    let w := { u with cmds := u.cmds ++ [s.newCmd u kind a b d id e] }
    s.command kind t a b d = .next (w.after (w.me.commands t)) := by
  obtain ⟨-, hcur, -, -, hvds⟩ := s.bound_keeps d
  have heng : (s.bound d).engineFor s.me kind d = some e := (State.engineFor_congr hvds hcur).trans he
  cases hbound : dBound d with
  | true =>
    simp only [State.bound, hbound, if_true] at heng ⊢
    refine ⟨(s.bind s.me.vd s.brick (dBar d)).nextId, ?_⟩
    simp only [State.command, State.newCmd, hbound, if_true, heng]
    rfl
  | false =>
    simp only [State.bound, hbound, Bool.false_eq_true, if_false] at heng ⊢
    refine ⟨s.nextId, ?_⟩
    simp only [State.command, State.newCmd, hbound, Bool.false_eq_true, if_false, heng]
    rfl
theorem State.command_joins {e : Nat} (he : s.engineFor s.me kind d = some e) :
    ∃ (u : State) (x : Cmd), s.command kind t a b d = .next (u.after (s.me.commands t)) ∧ u.cur = s.cur ∧ u.slots = s.slots ∧ u.mem = s.mem ∧
      u.cmds = s.cmds ++ [x] ∧ x.kind = kind ∧ x.engine = e ∧ x.ticket = s.me.tkt.toNat ∧ x.desc = d ∧ x.dst = s.me.getG a ∧ x.src = s.me.getG b ∧
      x.ctx = s.me.ctx ∧ x.vd = s.me.vd ∧ x.phase = .queued ∧ x.barrier = (if dBound d then some (dBar d) else none) := by
  obtain ⟨id, hcommand⟩ := State.command_queued (t := t) (a := a) (b := b) he
  obtain ⟨hslots, hcur, hmem, hcmds, -⟩ := s.bound_keeps d
  have hme : (s.bound d).me = s.me := by
    rw [State.me, State.slotAt, hslots, hcur]
    rfl
  refine ⟨{ s.bound d with cmds := (s.bound d).cmds ++ [s.newCmd (s.bound d) kind a b d id e] }, s.newCmd (s.bound d) kind a b d id e,
    hcommand.trans ?_, hcur, hslots, hmem, ?_, rfl, rfl, rfl, rfl, rfl, rfl, rfl, rfl, rfl, rfl⟩
  · exact congrArg (fun k : Slot => Host.Outcome.next (State.after _ (k.commands t))) hme
  · rw [hcmds]
/-- A command without an engine and without a barrier completes at once with status 1. -/
theorem State.command_refused (he : s.engineFor s.me kind d = none) (hbound : dBound d = false) (hinbox : s.me.inbox.length < 16)
    (hover : s.me.overflow = []) : s.command kind t a b d = .next (s.fresh.2.after
      { s.me.commands t with inbox := s.me.inbox ++ [⟨inboxWord s.me.tkt.toNat 0 1 kind.code, 0⟩] }) := by
  have heng : s.fresh.2.engineFor s.me kind d = none := he
  have hroom : s.me.mailRoom 1 = true := decide_eq_true ⟨hover, hinbox⟩
  have hadd : (s.me.commands t).addInbox ⟨inboxWord s.me.tkt.toNat 0 1 kind.code, 0⟩ =
      { s.me.commands t with inbox := s.me.inbox ++ [⟨inboxWord s.me.tkt.toNat 0 1 kind.code, 0⟩] } := if_pos ⟨hover, hinbox⟩
  simp only [State.command, hbound, Bool.false_eq_true, if_false, heng, hroom, if_true]
  rw [State.retire]
  exact congrArg (fun k => Host.Outcome.next (s.fresh.2.after k)) hadd
end

/-! ### A copy between ready lines of one bank (R341) -/

theorem State.homeFault_ready {token vd b off n : Nat} (h : s.bankReady token vd b off n) (win size : Nat) (wr whole : Bool) :
    s.homeFault vd win (.sram b off) size wr whole = none := by
  obtain ⟨-, hfault, -, -, hpoison⟩ := h
  simp only [State.homeFault, hfault, hpoison, Bool.and_false, Bool.false_eq_true, if_false]
theorem State.waits_absent {token : Nat} (h : ∀ e ∈ s.stallq, e.token ≠ token) : (s.stallq.any fun e => decide (e.token = token)) = false := by
  rw [List.any_eq_false]
  exact fun e he => by simpa using h e he

section
variable {v : Agent} {ea : Word}

/-- An engine reaches a ready line of its bank. -/
theorem State.unitReach_ready (hready : s.bankReady v.token v.vd v.brick ea.toNat 64) (k : Access) :
    s.unitReach v ea k = (s, .ok (.sram v.brick ea.toNat, 0)) := by
  have hplace : s.translated v.brick v.vd v.space v.level ea k = s := by
    simp only [State.translated, bankOf_own hready.1, Option.isSome_some, Bool.true_or, if_true]
  have hlink : s.linkDown (.sram v.brick ea.toNat) = false := rfl
  simp only [State.unitReach, State.walk_own hready.1, State.resolve_own hready.1, hplace, hlink, hready.2.2.1, Bool.false_and, Bool.false_eq_true,
    if_false]

variable (ha : s.answers = []) (hstall : ∀ e ∈ s.stallq, e.token ≠ v.token)
include ha hstall
theorem State.unitDo_ready {f : State → Except Cause (State × Line)} {w : State} {x : Line} (size : Nat) (wr whole : Bool) (hf : f s = .ok (w, x)) :
    s.unitDo v (.sram v.brick ea.toNat) 0 size wr whole f = (w, .ok x) := by
  have hlook : s.look v.vd 0 (.sram v.brick ea.toNat) size wr whole = s := by rw [State.look, ha]
  simp only [State.unitDo, hlook, State.unstall_absent hstall, State.waits_absent hstall, Bool.false_and, Bool.false_eq_true, if_false, hf]

variable (hready : s.bankReady v.token v.vd v.brick ea.toNat 64)
include hready
/-- An engine reads a ready line of its bank. -/
theorem State.unitRead_ready : s.unitRead v ea 64 =
    (s.touch (.sram v.brick ea.toNat), .ok (bytesLine (Mem.readBytes s.mem (bankAddr v.brick ea.toNat) 64))) := by
  simp only [State.unitRead, State.unitReach_ready hready]
  refine State.unitDo_ready ha hstall 64 false false ?_
  simp only [State.readAt, State.homeFault_ready hready]
  rfl
/-- An engine writes a ready line of its bank. -/
theorem State.unitWrite_ready {bs : List Byte} (hlen : bs.length = 64) : s.unitWrite v ea bs =
    ((s.poke (kidOf v.vd 0) (.sram v.brick ea.toNat) bs).touch (.sram v.brick ea.toNat), .ok 0) := by
  have hbytes : leBytes 64 (bytesLine bs).toNat = bs := lineBytes_bytesLine hlen
  simp only [State.unitWrite, State.unitReach_ready hready]
  refine State.unitDo_ready ha hstall _ _ _ ?_
  simp only [State.writeAt, hlen, State.homeFault_ready hready, hbytes]
  rfl
end

theorem bankAddr_add (b x y : Nat) : bankAddr b (x + y) = bankAddr b x + y := (Nat.add_assoc _ _ _).symm
/-- A command that copies one row and has moved some of its lines. -/
structure Cmd.Copying (c : Cmd) (n : Nat) : Prop where
  kind : c.kind = .cpy
  phase : c.phase = .moving
  rows : dRows c.desc = 1
  rowlen : dRowlen c.desc = 64 * n
  pos : 0 < n
  got : c.got = none
  bytes : c.bytes = 64 * c.line
/-- A command with one more line moved. -/
abbrev Cmd.moves (c : Cmd) : Cmd := { c with line := c.line + 1, bytes := c.bytes + 64, got := none }
theorem Cmd.Copying.moves {c : Cmd} {n : Nat} (h : c.Copying n) : c.moves.Copying n := ⟨h.kind, h.phase, h.rows, h.rowlen, h.pos, rfl, by
  change c.bytes + 64 = 64 * (c.line + 1)
  rw [h.bytes, Nat.mul_add]⟩
theorem Cmd.Copying.total {c : Cmd} {n : Nat} (h : c.Copying n) : c.total = n := by
  simp only [Cmd.total, h.kind, h.rows, h.rowlen, Nat.mul_one, Nat.mul_div_cancel_left n (show 0 < 64 by decide)]
/-- The addresses of a line of the first row. -/
theorem toNat_rowLine {v x : Word} {l : Nat} (h : v.toNat + 64 * l < 2 ^ 20) : (v + wrap 0 * x + wrap (64 * l)).toNat = v.toNat + 64 * l := by
  rw [wrap, wrap, show (BitVec.ofNat 64 0) * x = 0#64 from BitVec.zero_mul, BitVec.add_zero, BitVec.toNat_add, BitVec.toNat_ofNat]
  omega

/-- The machine once one line of a copy has been moved. -/
def State.copied (s : State) (c : Cmd) : State :=
  let t := s.touch (.sram c.brick (c.src.toNat + 64 * c.line))
  (t.poke (kidOf c.vd 0) (.sram c.brick (c.dst.toNat + 64 * c.line))
    (Mem.readBytes s.mem (bankAddr c.brick (c.src.toNat + 64 * c.line)) 64)).touch (.sram c.brick (c.dst.toNat + 64 * c.line))
theorem State.kept_copied {c : Cmd} (hsrc : c.src.toNat + 64 * c.line < 2 ^ 20) (hdst : c.dst.toNat + 64 * c.line < 2 ^ 20) : Kept s (s.copied c) :=
  (State.kept_touch hsrc).trans (State.kept_write hdst)
/-- The next line of a copy between ready lines is moved. -/
theorem State.oneLine_copies {c : Cmd} {n : Nat} (hc : c.Copying n) (ha : s.answers = []) (hstall : ∀ e ∈ s.stallq, e.token ≠ c.id) (hline : c.line < n)
    (hsrc : s.bankReady c.id c.vd c.brick (c.src.toNat + 64 * c.line) 64) (hdst : s.bankReady c.id c.vd c.brick (c.dst.toNat + 64 * c.line) 64) :
    s.oneLine c = .moved (s.copied c) c.moves := by
  have hper : dRowlen c.desc / 64 = n := by rw [hc.rowlen, Nat.mul_div_cancel_left n (by decide)]
  have hrow : c.line / n = 0 := Nat.div_eq_of_lt hline
  have hcol : c.line % n = c.line := Nat.mod_eq_of_lt hline
  have hone : s.oneLine c = s.copyLine c 0 0 c.line := by
    simp only [State.oneLine, hc.kind, hper, hrow, hcol]
  have hread : s.unitRead c.view (c.src + wrap 0 * sext (BitVec.ofNat 32 (lbits c.desc 1 63 32)) + wrap (64 * c.line)) 64 = _ :=
    State.unitRead_ready (v := c.view) ha hstall (by rw [toNat_rowLine hsrc.1]; exact hsrc)
  rw [toNat_rowLine hsrc.1] at hread
  have hkept : Kept s (s.touch (.sram c.brick (c.src.toNat + 64 * c.line))) := State.kept_touch hsrc.1
  have hwrite : (s.touch (.sram c.brick (c.src.toNat + 64 * c.line))).unitWrite c.view
      (c.dst + wrap 0 * sext (BitVec.ofNat 32 (lbits c.desc 1 31 0)) + wrap (64 * c.line))
      (Mem.readBytes s.mem (bankAddr c.brick (c.src.toNat + 64 * c.line)) 64) = _ :=
    State.unitWrite_ready (v := c.view) (s := s.touch (.sram c.brick (c.src.toNat + 64 * c.line))) (hkept.answers.trans ha) hstall (by rw [toNat_rowLine hdst.1]; exact hkept.ready hdst) (Mem.readBytes_length _ _ _)
  rw [toNat_rowLine hdst.1] at hwrite
  have hbytes := lineBytes_bytesLine (Mem.readBytes_length s.mem (bankAddr c.brick (c.src.toNat + 64 * c.line)) 64)
  rw [hone, State.copyLine, State.lineGot, hc.got]
  simp only [State.lineRead, hread]
  rw [State.lineWrite, show c.view.brick = c.brick from rfl, hbytes, hwrite]
  rfl
/-- Memory once a line of a copy has been moved. -/
theorem State.mem_copied (s : State) (c : Cmd) : (s.copied c).mem =
    Mem.writeBytes s.mem (bankAddr c.brick (c.dst.toNat + 64 * c.line)) (Mem.readBytes s.mem (bankAddr c.brick (c.src.toNat + 64 * c.line)) 64) := rfl
/-- The lines of a copy between apart places are moved one after another. -/
theorem State.moveLines_copies {n : Nat} (k : Nat) : ∀ {s : State} {c : Cmd}, c.Copying n → c.line + k = n → s.answers = [] →
    (∀ e ∈ s.stallq, e.token ≠ c.id) → (c.src.toNat + 64 * n ≤ c.dst.toNat ∨ c.dst.toNat + 64 * n ≤ c.src.toNat) →
    (∀ j, j < n → s.bankReady c.id c.vd c.brick (c.src.toNat + 64 * j) 64 ∧ s.bankReady c.id c.vd c.brick (c.dst.toNat + 64 * j) 64) →
    ∃ (t : State) (y : Cmd), s.moveLines c (k + 1) = t.modCmd c.id (fun _ => y) ∧ y.phase = .ended ∧ y.status = c.status ∧ y.bytes = 64 * n ∧
      t.slots = s.slots ∧ t.mem = Mem.writeBytes s.mem (bankAddr c.brick (c.dst.toNat + 64 * c.line))
        (Mem.readBytes s.mem (bankAddr c.brick (c.src.toNat + 64 * c.line)) (64 * k)) := by
  induction k with
  | zero =>
    intro s c hc hline _ _ _ _
    have hend : c.total ≤ c.line := by rw [hc.total]; omega
    refine ⟨s, c.finished, ?_, ?_, ?_, ?_, rfl, rfl⟩
    · rw [State.moveLines, if_pos hend]
    · simp only [Cmd.finished, hc.kind]
    · simp only [Cmd.finished, hc.kind]
    · simp only [Cmd.finished, hc.kind, hc.bytes]
      omega
  | succ k ih =>
    intro s c hc hline ha hstall hapart hready
    have hlt : c.line < n := by omega
    obtain ⟨hsrc, hdst⟩ := hready c.line hlt
    have hkept : Kept s (s.copied c) := State.kept_copied hsrc.1 hdst.1
    obtain ⟨t, y, hmoves, hphase, hstatus, hbytes, hslots, hmem⟩ := ih (s := s.copied c) hc.moves (show c.line + 1 + k = n by omega)
      (hkept.answers.trans ha) hstall hapart fun j hj => ⟨hkept.ready (hready j hj).1, hkept.ready (hready j hj).2⟩
    refine ⟨t, y, ?_, hphase, hstatus, hbytes, hslots.trans hkept.slots, hmem.trans ?_⟩
    · rw [State.moveLines, if_neg (by rw [hc.total]; omega), State.oneLine_copies hc ha hstall hlt hsrc hdst]
      exact hmoves
    · have hkeep : Mem.readBytes (s.copied c).mem (bankAddr c.brick (c.src.toNat + 64 * (c.line + 1))) (64 * k) =
          Mem.readBytes s.mem (bankAddr c.brick (c.src.toNat + 64 * (c.line + 1))) (64 * k) := by
        refine Mem.readBytes_congr _ fun x hge hlt => ?_
        rw [State.mem_copied]
        refine Mem.read_writeBytes_ne _ _ ?_
        rw [Mem.readBytes_length]
        unfold bankAddr at hge hlt ⊢
        omega
      rw [hkeep, State.mem_copied, show 64 * (k + 1) = 64 + 64 * k by omega, Mem.readBytes_add, Mem.writeBytes_append, Mem.readBytes_length,
        Nat.mul_add, ← Nat.add_assoc, ← Nat.add_assoc, bankAddr_add c.brick _ (64 * 1), bankAddr_add c.brick _ (64 * 1)]

/-- Settles O47: the descriptor is read by `State.engineCommand_own` and judged by `State.checkedCommand`, and a copy moves its lines by `State.moveLines_copies`. -/
theorem engineCommands : Obligations.EngineCommands := by
  constructor
  · intro s t a b c i kind hmem ea home d haligned hready ha hdescr hclear
    have hexec : exec i s = ((s.unstall s.me.ctx).touch home).checkedCommand kind t a b c d := by
      refine Eq.trans ?_ (State.engineCommand_own (kind := kind) (t := t) (a := a) (b := b) (ea := ea) rfl hdescr ha ⟨haligned, hready, hclear⟩)
      simp only [List.mem_cons, Prod.mk.injEq, List.not_mem_nil, or_false] at hmem
      rcases hmem with ⟨rfl, rfl⟩ | ⟨rfl, rfl⟩ | ⟨rfl, rfl⟩ | ⟨rfl, rfl⟩ <;> rfl
    rw [hexec]
    refine ⟨fun hmisfit => State.checkedCommand_misfit hmisfit, fun hfit hdst hsrc hbar hroom hsb hack => ?_⟩
    rw [State.checkedCommand_sound (s := (s.unstall s.me.ctx).touch home) hfit hdst hsrc hbar hroom hsb hack]
    refine ⟨fun e he => ?_, fun hnone hbound hinbox hover => ?_⟩
    · exact State.command_joins (s := (s.unstall s.me.ctx).touch home) he
    · refine ⟨_, _, State.command_refused (s := (s.unstall s.me.ctx).touch home) hnone hbound hinbox hover, rfl, rfl, rfl, ?_, rfl⟩
      exact Slot.getG_setG_self _ _ _
  · intro s id n c hwf hc hkind hphase hdemand hgot hline hbytes horder ha hstall hrows hrowlen hpos _ _ hapart hready src dst
    obtain ⟨hid, hmove⟩ : c.id = id ∧ c.canMove = true := ⟨of_decide_eq_true (List.find?_some (p := fun c : Cmd => decide (c.id = id)) hc), by
      simp only [Cmd.canMove, hdemand, hphase]
      rfl⟩
    subst hid
    have hcopying : Cmd.Copying { c with phase := .moving } n := ⟨hkind, rfl, hrows, hrowlen, hpos, hgot, by
      change c.bytes = 64 * c.line
      rw [hline, hbytes]⟩
    obtain ⟨t, y, hmoves, hended, hstatus, hcount, hslots, hmem⟩ := State.moveLines_copies n hcopying (show c.line + n = n by omega) ha hstall hapart hready
    have hexec : exec (.engineCommandStart c.id) s = .next (t.modCmd c.id fun _ => y) := by
      rw [← hmoves]
      change execEngineCommandStart c.id s = _
      have hkeep : decide (c.kind ≠ .pref) = true := by rw [hkind]; rfl
      have htotal : ({ c with phase := .moving } : Cmd).total - c.line + 1 = n + 1 := by rw [hcopying.total, hline, Nat.sub_zero]
      simp only [execEngineCommandStart, hc, hmove, hkeep, horder, Bool.and_self, if_true, State.runCmd, hphase, htotal]
    change t.mem = Mem.writeBytes s.mem (bankAddr c.brick (c.dst.toNat + 64 * c.line))
      (Mem.readBytes s.mem (bankAddr c.brick (c.src.toNat + 64 * c.line)) (64 * n)) at hmem
    rw [hline, Nat.mul_zero, Nat.add_zero, Nat.add_zero] at hmem
    have hlen := Mem.readBytes_length s.mem src (64 * n)
    refine ⟨_, hexec, ?_, fun a ha => ?_, hslots, fun x hx hid => ?_⟩
    · have hback := Mem.readBytes_writeBytes (Mem.readBytes s.mem src (64 * n)) dst hwf
      rw [hlen] at hback
      exact (congrArg (fun m => Mem.readBytes m dst (64 * n)) hmem).trans hback
    · exact (congrArg (Mem.read · a) hmem).trans (Mem.read_writeBytes_ne _ _ (by rwa [hlen]))
    · obtain ⟨z, -, rfl⟩ := List.mem_map.mp hx
      split
      · exact ⟨hended, hstatus, hcount⟩
      · next hne => rw [if_neg hne] at hid; exact absurd hid hne

end Sys2Proof.Machine
end

section
/-!
SUPPORT. Threads that end, leave and arrive, and the bytes that a passage writes into a save region. ThreadsEndAndMove is assembled from these.
-/
namespace Sys2Proof.Machine

variable {s : State}

/-! ### QUIT and RSYNC (R297, R305) -/

/-- What a device owns and whether it is resident do not depend on its tree. -/
theorem State.residentOf_modRegion (s : State) (vd r : Nat) (f : Region → Region) (n : Nat) : (s.modRegion vd r f).residentOf n = s.residentOf n := by
  simp only [State.residentOf, State.modRegion, State.modVd, KMap.modify, List.find?_map, Option.map_map]
  have hsame : ∀ (g : VDev → VDev), (∀ v, (g v).resident = v.resident ∧ (g v).slotNums = v.slotNums) →
      ((fun kv : Nat × VDev => kv.2.resident && kv.2.slotNums.contains n) ∘ fun kv => if kv.1 = vd then (kv.1, g kv.2) else kv) =
        (fun kv : Nat × VDev => kv.2.resident && kv.2.slotNums.contains n) ∧
      ((fun kv : Nat × VDev => kv.1) ∘ fun kv => if kv.1 = vd then (kv.1, g kv.2) else kv) = fun kv : Nat × VDev => kv.1 := by
    intro g hg
    constructor <;> funext kv <;> simp only [Function.comp]
    · split
      · rw [(hg kv.2).1, (hg kv.2).2]
      · rfl
    · split <;> rfl
  obtain ⟨hp, hk⟩ := hsame (fun v => { v with tree := v.tree.map fun t => { t with regions := t.regions.modify r f } }) fun _ => ⟨rfl, rfl⟩
  rw [hp, hk]
/-- The machine in which a thread leaves its slot, free until it is filled again, and its region. -/
def State.vacate (s : State) (key : Nat) (k : Slot) : State :=
  ({ s with orphans := keepLeft s.orphans (keepKey k.ctx key k.vd) k }.modRegion k.vd k.region fun r => { r with live := r.live - 1 }).setSlot key k.freed
theorem State.endThread_eq {key : Nat} (h : (s.slotAt key).mode ≠ .free) :
    s.endThread key = ((s.leave (s.slotAt key)).vacate key (s.slotAt key)).fill key := if_neg h
/-- A slot that no resident device owns stays free. -/
theorem State.fill_unowned {key : Nat} (h : s.residentOf (key % 8) = none) : s.fill key = s := by
  simp only [State.fill, h, ite_self]
/-- A thread that ends, holds no reservation, and whose slot no resident device owns, frees its slot and is counted in its region no longer. -/
theorem State.endThread_frees {key : Nat} (hmode : (s.slotAt key).mode ≠ .free) (hresv : (s.slotAt key).resv = none)
    (hres : s.residentOf (key % 8) = none) : (s.endThread key).slotAt key = (s.slotAt key).freed ∧ (s.endThread key).mem = s.mem ∧
      (s.endThread key).region? (s.slotAt key).vd (s.slotAt key).region =
        (s.region? (s.slotAt key).vd (s.slotAt key).region).map fun r => { r with live := r.live - 1 } := by
  have hleave : (s.leave (s.slotAt key)).vds = s.vds ∧ (s.leave (s.slotAt key)).mem = s.mem := by
    rw [State.leave, State.release, State.handOn, hresv]
    exact ⟨rfl, rfl⟩
  rw [State.endThread_eq hmode]
  generalize s.leave (s.slotAt key) = w at hleave ⊢
  obtain ⟨hvds, hmem⟩ := hleave
  have hunowned : (w.vacate key (s.slotAt key)).residentOf (key % 8) = none := by
    refine (State.residentOf_modRegion _ _ _ _ _).trans ?_
    rw [← hres]
    exact congrArg (fun vds : KMap VDev => (List.find? (fun kv => kv.2.resident && kv.2.slotNums.contains (key % 8)) vds).map (·.1)) hvds
  rw [State.fill_unowned hunowned]
  refine ⟨State.slotAt_setSlot_self _ _ _, hmem, (State.region?_modRegion_self _ _ _ _).trans ?_⟩
  exact congrArg (Option.map _) (State.region?_congr hvds _ _)
/-- QUIT of a thread with nothing outstanding ends it (R297). -/
theorem exec_quit_ends (hbusy : s.me.busy = false) (hsb : s.me.sb = []) (hack : s.me.ackcnt = 0) (hring : s.me.ringq = []) :
    exec .quit s = .next (s.endThread s.cur) := by
  change execQuit s = _
  rw [execQuit, if_neg (by rw [hbusy]; exact Bool.false_ne_true), State.drainedAck_done hsb hack, if_neg (not_not.mpr hring)]
/-- QUIT waits for the stores and the ring queue (R297). -/
theorem exec_quit_drains (hbusy : s.me.busy = false) (h : s.me.sb ≠ [] ∨ s.me.ackcnt ≠ 0) :
    exec .quit s = .next (s.setSlot s.cur { s.me with mode := .parked (.cond .drainedAck) }) := by
  change execQuit s = _
  rw [execQuit, if_neg (by rw [hbusy]; exact Bool.false_ne_true), State.drainedAck_waits h]
theorem exec_quit_ring (hbusy : s.me.busy = false) (hsb : s.me.sb = []) (hack : s.me.ackcnt = 0) (hring : s.me.ringq ≠ []) :
    exec .quit s = .next (s.setSlot s.cur { s.me with mode := .parked (.cond .ringEmpty) }) := by
  change execQuit s = _
  rw [execQuit, if_neg (by rw [hbusy]; exact Bool.false_ne_true), State.drainedAck_done hsb hack, if_pos hring]
  rfl

/-! ### MIGR (R171, R292) -/

/-- MIGR of a quiet thread at task level goes on to the home of its place. -/
theorem exec_migr_walked {u : State} {b : GReg} {i : BitVec 14} {p : Place} {win d : Nat} (hlevel : s.me.level = .task) (hsb : s.me.sb = [])
    (hack : s.me.ackcnt = 0) (hbusy : s.me.busy = false) (hmail : s.me.hasMail = false) (hports : s.me.unbound) (hring : s.me.ringq = [])
    (hresv : s.me.resv = none) (hfault : addrFault s.brick (eaM s.me b i) 1 = none) (hwalk : s.walk s.agent (eaM s.me b i) = (u, none)) (hume : u.me = s.me)
    (hplace : u.resolve u.brick s.me.vd s.me.space s.me.level (eaM s.me b i) .read = .ok p win) (hhome : u.homeBrick p = some d) :
    let v := u.translated u.brick s.me.vd s.me.space s.me.level (eaM s.me b i) .read
    exec (.migr b i) s = if d = v.brick then v.retire Slot.dropAhead else .next (v.sendThread d) := by
  obtain ⟨h0, h1, h2⟩ := hports
  have hbound : s.me.ports.toList.any (·.bound) = false := by
    rw [List.any_eq_false]
    intro x hx
    obtain ⟨n, hn, rfl⟩ := List.getElem_of_mem hx
    simp only [Vector.length_toList] at hn
    rw [Vector.getElem_toList]
    interval_cases n
    · simp [h0]
    · simp [h1]
    · simp [h2]
  have hwhere : (u.translated u.brick s.me.vd s.me.space s.me.level (eaM s.me b i) .read).homeBrick p = some d := by
    obtain ⟨m, n, hcaches⟩ := u.translated_caches u.brick s.me.vd s.me.space s.me.level (eaM s.me b i) .read
    rw [hcaches, ← hhome]
    cases p <;> rfl
  have hhand : ∀ t : State, t.handOn s.me = t := fun t => by rw [State.handOn, hresv]
  intro v
  change execMigr b i s = _
  simp only [execMigr, hlevel, reduceCtorEq, if_false, State.drainedAck_done hsb hack, hbusy, hmail, hbound, Bool.or_self, Bool.false_eq_true,
    hring, ne_eq, not_true_eq_false]
  rw [State.reach_walked hfault hwalk hume hplace]
  simp only [hwhere, hhand]
  rfl


/-! ### Bytes that a passage writes into a save region (R66, R70) -/

/-- What a write into a save region leaves alone: the slots, who arrives or moves, and the answers still to come. -/
def State.transit (s : State) : KMap Slot × KMap (List Arrival) × KMap (List Arrival) × List MigMsg × List Media :=
  (s.slots, s.arrivals, s.spills, s.migMsgs, s.answers)
theorem State.transit_eq {t : State} (h : t.transit = s.transit) :
    t.slots = s.slots ∧ t.arrivals = s.arrivals ∧ t.spills = s.spills ∧ t.migMsgs = s.migMsgs ∧ t.answers = s.answers := by
  obtain ⟨hslots, h⟩ := Prod.mk.inj h
  obtain ⟨harrivals, h⟩ := Prod.mk.inj h
  obtain ⟨hspills, h⟩ := Prod.mk.inj h
  exact ⟨hslots, harrivals, hspills, Prod.mk.inj h⟩
theorem State.openGranule_transit (s : State) (kid g : Nat) : (s.openGranule kid g).transit = s.transit := by
  have hcount : ∀ t : State, (t.count g).transit = t.transit := by
    intro t
    simp only [State.count]
    split <;> rfl
  unfold State.openGranule
  split
  · rw [hcount]
    simp only [State.uncover]
    split <;> split <;> rfl
  · rfl
theorem State.opened_hbm_transit (s : State) (kid pa n : Nat) : (s.opened kid (.hbm pa) n).transit = s.transit :=
  foldl_view State.transit (fun s g => s.openGranule_transit kid g) _ s
/-- Uncovering a granule changes no byte outside it. -/
theorem State.read_openGranule (s : State) (kid g : Nat) {x : Nat} (hx : x < g / 64 * 64 ∨ g / 64 * 64 + 64 ≤ x) :
    Mem.read (s.openGranule kid g).mem x = Mem.read s.mem x := by
  unfold State.openGranule
  split
  · rw [State.count_mem, State.uncover_eq]
    have howned : (s.unitOwned kid g).mem = s.mem := by
      unfold State.unitOwned
      split <;> rfl
    unfold State.granuleBared
    split
    · rw [howned]
    · exact (Mem.read_blankRange_out _ hx).trans (by rw [howned])
  · rfl
/-- Bytes that lie in one granule open that granule. -/
theorem granulesOf_one {a n g : Nat} (hg : g % 64 = 0) (hlo : g ≤ a) (hpos : 0 < n) (hhi : a + n ≤ g + 64) : granulesOf a n = [g] := by
  have hcount : (a % 64 + n + 63) / 64 = 1 := by omega
  have hfirst : a / 64 * 64 = g := by omega
  rw [granulesOf, hcount, hfirst]
  rfl
/-- The media answer soundly, as far as answers are laid down. -/
abbrev State.soundMedia (s : State) : Prop := ∀ r ∈ s.answers, r = .sound
/-- Sound answers change nothing but that they are used up. -/
theorem State.look_quiet (h : s.soundMedia) (vd win : Nat) (p : Place) (size : Nat) (wr whole : Bool) :
    ∃ rest, s.look vd win p size wr whole = { s with answers := rest } ∧ ∀ r ∈ rest, r = .sound := by
  cases hans : s.answers with
  | nil => exact ⟨s.answers, State.look_sound hans vd win p size wr whole, h⟩
  | cons r rest =>
    have hr : r = .sound := h r (by rw [hans]; exact List.mem_cons_self)
    refine ⟨rest, ?_, fun x hx => h x (by rw [hans]; exact List.mem_cons_of_mem _ hx)⟩
    simp only [State.look, hans, hr]
    unfold State.media
    split
    · split <;> rfl
    · simp only [State.counterAnswer, State.granuleAnswer, ite_self]
    · rfl
    · rfl

/-- What writing bytes into consecutive granules of a save region leaves: the bytes at their place, every byte outside those granules, memory in form, and who is where. -/
structure Passed (s u : State) (g k a : Nat) (bs : List Byte) : Prop where
  wf : Memory.wf s.mem = true → Memory.wf u.mem = true
  back : Memory.wf s.mem = true → Mem.readBytes u.mem a bs.length = bs
  outside : ∀ x, x < g ∨ g + 64 * k ≤ x → Mem.read u.mem x = Mem.read s.mem x
  transit : ∃ rest, u.transit = { s with answers := rest }.transit
  sound : u.soundMedia
/-- Bytes laid into a granule that has been opened for them. -/
theorem Passed.lay {w : State} {g a : Nat} {bs : List Byte} {rest : List Media} (hlo : g ≤ a) (hhi : a + bs.length ≤ g + 64)
    (hrest : ∀ r ∈ rest, r = .sound) (hwf : Memory.wf s.mem = true → Memory.wf w.mem = true) (hout : ∀ x, x < g ∨ g + 64 ≤ x → Mem.read w.mem x = Mem.read s.mem x)
    (htransit : w.transit = { s with answers := rest }.transit) : Passed s (w.lay (.hbm a) bs) g 1 a bs := by
  refine ⟨fun h => Memory.wf_writeBytes _ _ (hwf h), fun h => Mem.readBytes_writeBytes bs a (hwf h), fun x hx => ?_, ⟨rest, htransit⟩, ?_⟩
  · exact (Mem.read_writeBytes_ne bs w.mem (a := a) (by omega)).trans (hout x (by omega))
  · have hans : w.answers = rest := (State.transit_eq htransit).2.2.2.2
    exact fun r hr => hrest r (hans ▸ hr)
/-- Bytes that lie in one granule are laid into it, once it is open. -/
theorem State.saveGranule_lays {u : State} {vd g a : Nat} {bs : List Byte} (hg : g % 64 = 0) (hlo : g ≤ a) (hpos : 0 < bs.length)
    (hhi : a + bs.length ≤ g + 64) (hsound : s.soundMedia) (h : s.saveGranule vd g (some (a, bs)) = (u, .done)) :
    ∃ (t : State) (rest : List Media), u = (t.openGranule (kidOf vd 0) g).lay (.hbm a) bs ∧ t.mem = s.mem ∧
      t.transit = { s with answers := rest }.transit ∧ ∀ r ∈ rest, r = .sound := by
  have hstart : (s.touch (.hbm g)).soundMedia := hsound
  obtain ⟨rest, hlook, hrest⟩ := State.look_quiet hstart vd 0 (.hbm g) 64 true (decide (bs.length = 64))
  have hopen : ∀ t : State, t.opened (kidOf vd 0) (.hbm a) bs.length = t.openGranule (kidOf vd 0) g := fun t => by
    rw [State.opened, show (Place.hbm a).key = a from rfl, granulesOf_one hg hlo hpos hhi]
    rfl
  simp only [State.saveGranule, Option.isSome_some, hlook, hopen] at h
  split at h
  · cases h
  · exact ⟨{ s.touch (.hbm g) with answers := rest }, rest, (Prod.mk.inj h).1.symm, rfl, rfl, hrest⟩
/-- Bytes that lie in one granule are written there. -/
theorem State.saveGranule_passed {u : State} {vd g a : Nat} {bs : List Byte} (hg : g % 64 = 0) (hlo : g ≤ a) (hpos : 0 < bs.length)
    (hhi : a + bs.length ≤ g + 64) (hsound : s.soundMedia) (h : s.saveGranule vd g (some (a, bs)) = (u, .done)) :
    Passed s u g 1 a bs := by
  obtain ⟨t, rest, rfl, hmem, htransit, hrest⟩ := State.saveGranule_lays hg hlo hpos hhi hsound h
  have hgranule : g / 64 * 64 = g := by omega
  refine Passed.lay hlo hhi hrest (fun h => State.wf_openGranule (by rw [hmem]; exact h) _ _) (fun x hx => ?_) ((t.openGranule_transit _ _).trans htransit)
  rw [State.read_openGranule t _ g (by omega), hmem]
/-- Writing goes on in the granules after the first, from their start. -/
theorem Passed.join {w u : State} {g a k : Nat} {bs : List Byte} (h : Passed s w g 1 a (bs.take (g + 64 - a)))
    (h' : Passed w u (g + 64) (k + 1) (g + 64) (bs.drop (g + 64 - a))) (hin : a ≤ g + 64) (hlen : (bs.take (g + 64 - a)).length = g + 64 - a) :
    Passed s u g (k + 1 + 1) a bs := by
  obtain ⟨rest, htransit⟩ := h'.transit
  obtain ⟨rest', hfirst⟩ := h.transit
  refine ⟨fun hwf => h'.wf (h.wf hwf), fun hwf => ?_, fun x hx => ?_, ⟨rest, ?_⟩, h'.sound⟩
  · have hback : Mem.readBytes u.mem a (g + 64 - a) = bs.take (g + 64 - a) := by
      refine (Mem.readBytes_congr _ fun y _ hy => h'.outside y (.inl (by omega))).trans ?_
      have hread := h.back hwf
      rwa [hlen] at hread
    have hsplit : bs.length = g + 64 - a + (bs.drop (g + 64 - a)).length := by
      rw [List.length_drop]
      rw [List.length_take] at hlen
      omega
    rw [hsplit, Mem.readBytes_add, hback, show a + (g + 64 - a) = g + 64 by omega, h'.back (h.wf hwf), List.take_append_drop]
  · rw [h'.outside x (by omega), h.outside x (by omega)]
  · obtain ⟨hslots, harrivals, hspills, hmigs, -⟩ := State.transit_eq hfirst
    rw [htransit]
    simp only [State.transit] at hslots harrivals hspills hmigs ⊢
    rw [hslots, harrivals, hspills, hmigs]
/-- Consecutive granules. -/
theorem granules_succ (g k : Nat) : (List.range (k + 1)).map (fun i => g + 64 * i) = g :: (List.range k).map fun i => g + 64 + 64 * i := by
  rw [List.range_succ_eq_map, List.map_cons, List.map_map]
  congr 1
  exact List.map_congr_left fun i _ => by simp only [Function.comp]; omega
/-- Bytes from a place in the first granule on are written granule by granule. -/
theorem State.saveGranules_passed {vd : Nat} (k : Nat) : ∀ {s u : State} {g a : Nat} {bs : List Byte}, g % 64 = 0 → g ≤ a → a < g + 64 →
    0 < bs.length → g + 64 * k < a + bs.length → a + bs.length ≤ g + 64 * (k + 1) → s.soundMedia →
    s.saveGranules vd a (some bs) ((List.range (k + 1)).map fun i => g + 64 * i) = (u, .done) → Passed s u g (k + 1) a bs := by
  induction k with
  | zero =>
    intro s u g a bs hg hlo _ hpos _ hhi hsound h
    rw [granules_succ] at h
    simp only [State.saveGranules, Option.map_some, List.range_zero, List.map_nil] at h
    have htake : bs.take (g + 64 - a) = bs := List.take_of_length_le (by omega)
    rw [htake] at h
    split at h
    · next w hw =>
      obtain ⟨rfl, -⟩ := Prod.mk.inj h
      exact State.saveGranule_passed hg hlo hpos (by omega) hsound hw
    · next hnot => exact absurd h (hnot u)
  | succ k ih =>
    intro s u g a bs hg hlo hin hpos hlast hhi hsound h
    rw [granules_succ] at h
    simp only [State.saveGranules, Option.map_some] at h
    split at h
    · next w hw =>
      have hlen : (bs.take (g + 64 - a)).length = g + 64 - a := by rw [List.length_take]; omega
      have hfirst := State.saveGranule_passed hg hlo (by omega) (by omega) hsound hw
      have hlater := ih (by omega) le_rfl (by omega) (by rw [List.length_drop]; omega) (by rw [List.length_drop]; omega)
        (by rw [List.length_drop]; omega) hfirst.sound h
      exact hfirst.join hlater (by omega) hlen
    · next hnot => exact absurd h (hnot u)
/-- A passage that writes and has ended has written its bytes. -/
theorem State.passage_passed {u : State} {token vd a n : Nat} {bs : List Byte} (hlen : bs.length = n) (hpos : 0 < n) (hsound : s.soundMedia)
    (h : s.passage token vd a n (some bs) = (u, .done)) : Passed s u (a / 64 * 64) ((a % 64 + n + 63) / 64) a bs := by
  subst hlen
  obtain ⟨k, hk⟩ : ∃ k, (a % 64 + bs.length + 63) / 64 = k + 1 := ⟨(a % 64 + bs.length + 63) / 64 - 1, by omega⟩
  simp only [State.passage] at h
  split at h
  · rw [granulesOf, hk] at h
    have hpassed := State.saveGranules_passed (s := s.unstall token) k (by omega) (by omega) (by omega) hpos (by omega) (by omega) hsound h
    rw [hk]
    exact ⟨hpassed.wf, hpassed.back, hpassed.outside, hpassed.transit, hpassed.sound⟩
  · cases h

/-! ### A spill (R116, R173) -/

/-- A migrant's message is 144 bytes (R171). -/
theorem Migrant.message_length (m : Migrant) : m.message.length = 144 := by
  simp only [Migrant.message, List.length_append, leBytes_length, sum_map_length _ fun v : Word => leBytes_length 8 v.toNat, Vector.length_toList]
theorem Arrival.message_length (a : Arrival) : a.message.length = 144 := by
  cases a <;> exact Migrant.message_length _
/-- An entry of a spill area that has been written holds its message, and no granule outside it has changed; who is where is as it was. -/
theorem State.spillPassage_passed {u : State} {vd b i : Nat} {v : VDev} {a : Arrival} (hv : s.vd? vd = some v) (hsound : s.soundMedia)
    (h : s.spillPassage spillOut vd b i (some a.message) = (u, .done)) :
    u.slots = s.slots ∧ u.arrivals = s.arrivals ∧ u.spills = s.spills ∧ u.migMsgs = s.migMsgs ∧
      (Memory.wf s.mem = true → Mem.readBytes u.mem (v.spillEntry b i) 144 = a.message ∧
        ∀ x, x < v.spillEntry b i / 64 * 64 ∨ (v.spillEntry b i + 143) / 64 * 64 + 64 ≤ x → Mem.readBytes u.mem x 1 = Mem.readBytes s.mem x 1) := by
  simp only [State.spillPassage, hv] at h
  have hpassed := State.passage_passed (Arrival.message_length a) (by decide) hsound h
  generalize v.spillEntry b i = e at hpassed ⊢
  obtain ⟨rest, htransit⟩ := hpassed.transit
  obtain ⟨hslots, harrivals, hspills, hmigs, -⟩ := State.transit_eq htransit
  refine ⟨hslots, harrivals, hspills, hmigs, fun hwf => ⟨?_, fun x hx => ?_⟩⟩
  · have hback := hpassed.back hwf
    rwa [Arrival.message_length] at hback
  · have hread := hpassed.outside x (by omega)
    simp only [Mem.readBytes, hread]
/-- An arrival spills to an area with room as its passage ends (R173). -/
theorem State.spill_passes {u : State} {b vd : Nat} {a : Arrival} {p : Passage} (hroom : (KMap.getD s.spills (queueKey b vd) []).length < 112)
    (h : s.spillPassage spillOut vd b (s.spillHead (queueKey b vd) + (KMap.getD s.spills (queueKey b vd) []).length) (some a.message) = (u, p)) :
    (p = .done → s.spill b vd a =
      ({ u with spills := KMap.set u.spills (queueKey b vd) (KMap.getD u.spills (queueKey b vd) [] ++ [a]) }, false)) ∧
    (p = .still → s.spill b vd a = (u, true)) := by
  constructor <;> rintro rfl <;> simp only [State.spill, if_neg (Nat.not_le.mpr hroom), h]

/-! ### MIGRATION_ARRIVE (R172) -/

/-- The machine after a migrant's arrival has been tried: one that waits for memory leaves its message under way. -/
def State.tried (s : State) (m : State × Bool) : State :=
  if m.2 then { m.1 with answers := s.answers, migMsgs := s.migMsgs }
  else if m.1.answers.length ≤ s.answers.length then m.1 else { m.1 with answers := s.answers }
/-- The machine in which a migration message has been taken up. -/
def State.tookUp (s : State) (id : Nat) : State :=
  { s with answers := .sound :: s.answers, migMsgs := s.migMsgs.filter fun x => decide (x.id ≠ id) }
theorem exec_migrationArrive {id : Nat} {m : MigMsg} (hm : (s.migMsgs.find? fun m => decide (m.id = id)) = some m) :
    exec (.migrationArrive id .sound) s =
      .next (s.tried ((s.tookUp id).arrive m.brick m.m.vd (.migrant m.m (s.patienceFrom m.m.vd)))) := by
  change execMigrationArrive id .sound s = _
  simp only [execMigrationArrive, hm]
  change (match (s.tookUp id).arrive m.brick m.m.vd (.migrant m.m (s.patienceFrom m.m.vd)) with
    | (u, true) => _
    | (u, false) => _) = _
  generalize (s.tookUp id).arrive m.brick m.m.vd (.migrant m.m (s.patienceFrom m.m.vd)) = r
  obtain ⟨u, b⟩ := r
  cases b <;> rfl
/-- The machine after the oldest arrival has been pushed out to the spill area: one that waits for memory stays in its queue. -/
def State.pushed (s : State) (m : State × Bool) : State := if m.2 then { m.1 with arrivals := s.arrivals } else m.1
theorem State.tried_false (s u : State) : (s.tried (u, false)).slots = u.slots ∧ (s.tried (u, false)).arrivals = u.arrivals ∧
    (s.tried (u, false)).spills = u.spills ∧ (s.tried (u, false)).migMsgs = u.migMsgs ∧ (s.tried (u, false)).mem = u.mem := by
  rw [State.tried, if_neg Bool.false_ne_true]
  split <;> exact ⟨rfl, rfl, rfl, rfl, rfl⟩

section
variable {b vd : Nat} (a : Arrival)

/-- Where a slot is free and nobody waits, an arrival takes the lowest free slot. -/
theorem State.arrive_free {n : Nat} (hres : s.isResident vd = true) (hspills : KMap.getD s.spills (queueKey b vd) [] = [])
    (harrivals : KMap.getD s.arrivals (queueKey b vd) [] = []) (hfree : s.freeSlot vd b = some n) :
    s.arrive b vd a = (s.setSlot (8 * b + n) a.slot, false) := by
  simp only [State.arrive, hres, hspills, harrivals, hfree, ne_eq, not_true_eq_false, decide_false, Bool.not_true, Bool.or_self, Bool.false_eq_true,
    if_false, if_true]
/-- With every slot occupied an arrival waits in the queue of its brick, if that has room. -/
theorem State.arrive_waits (hres : s.isResident vd = true) (hspills : KMap.getD s.spills (queueKey b vd) [] = [])
    (hfree : s.freeSlot vd b = none) (hroom : (KMap.getD s.arrivals (queueKey b vd) []).length < 8) :
    s.arrive b vd a = ({ s with arrivals := KMap.set s.arrivals (queueKey b vd) (KMap.getD s.arrivals (queueKey b vd) [] ++ [a]) }, false) := by
  simp only [State.arrive, hres, hspills, hfree, hroom, ne_eq, not_true_eq_false, decide_false, Bool.not_true, Bool.or_self, Bool.false_eq_true,
    if_false, if_true]
/-- An arrival of a device that is switched out spills. -/
theorem State.arrive_absent (hres : s.isResident vd = false) : s.arrive b vd a = s.spill b vd a := by
  simp only [State.arrive, hres, Bool.not_false, Bool.true_or, if_true]
/-- ARRIVAL_SPILL of the oldest arrival of a resident device that has waited long enough. -/
theorem exec_arrivalSpill_due {rest : List Arrival} (hq : KMap.getD s.arrivals (queueKey b vd) [] = a :: rest) (hres : s.isResident vd = true)
    (hdue : a.since + 2048 ≤ s.cycle) : exec (.arrivalSpill b vd) s =
      .next (s.pushed ({ s with arrivals := setQueue s.arrivals (queueKey b vd) rest }.spill b vd a)) := by
  change execArrivalSpill b vd s = _
  simp only [execArrivalSpill, hq, hres, decide_eq_true hdue, Bool.and_self, if_true]
  generalize State.spill _ b vd a = r
  obtain ⟨u, late⟩ := r
  cases late <;> rfl
theorem exec_arrivalSpill_stays {rest : List Arrival} (hq : KMap.getD s.arrivals (queueKey b vd) [] = a :: rest)
    (h : s.isResident vd = false ∨ s.cycle < a.since + 2048) : exec (.arrivalSpill b vd) s = .next s := by
  have hno : (s.isResident vd && decide (a.since + 2048 ≤ s.cycle)) = false := by
    rcases h with h | h
    · rw [h, Bool.false_and]
    · rw [decide_eq_false (Nat.not_le.mpr h), Bool.and_false]
  change execArrivalSpill b vd s = _
  simp only [execArrivalSpill, hq, hno, Bool.false_eq_true, if_false]
end

/-- MIGRATION_ARRIVE of a migrant that spills. -/
theorem exec_migrationArrive_spills {id : Nat} {m : MigMsg} {u : State} {p : Passage} {v : VDev}
    (hres : s.isResident m.m.vd = false) (hv : s.vd? m.m.vd = some v) (hroom : (KMap.getD s.spills (queueKey m.brick m.m.vd) []).length < 112)
    (h : (s.tookUp id).spillPassage spillOut m.m.vd m.brick
      (s.spillHead (queueKey m.brick m.m.vd) + (KMap.getD s.spills (queueKey m.brick m.m.vd) []).length) (some m.m.message) = (u, p)) :
    let t := s.tried ((s.tookUp id).arrive m.brick m.m.vd (.migrant m.m (s.patienceFrom m.m.vd)))
    let e := v.spillEntry m.brick (s.spillHead (queueKey m.brick m.m.vd) + (KMap.getD s.spills (queueKey m.brick m.m.vd) []).length)
    (p = .done → KMap.getD t.spills (queueKey m.brick m.m.vd) [] =
          KMap.getD u.spills (queueKey m.brick m.m.vd) [] ++ [.migrant m.m (s.patienceFrom m.m.vd)] ∧
        t.slots = u.slots ∧ t.mem = u.mem ∧ t.migMsgs = u.migMsgs ∧
        (s.answers = [] → u.spills = s.spills ∧ u.slots = s.slots ∧ u.migMsgs = (s.tookUp id).migMsgs ∧
          (Memory.wf s.mem = true → Mem.readBytes u.mem e 144 = m.m.message ∧
            ∀ x, x < e / 64 * 64 ∨ (e + 143) / 64 * 64 + 64 ≤ x → Mem.readBytes u.mem x 1 = Mem.readBytes s.mem x 1))) ∧
      (p = .still → t = { u with answers := s.answers, migMsgs := s.migMsgs }) := by
  intro t e
  obtain ⟨hdone, hstill⟩ := State.spill_passes (s := s.tookUp id) (a := .migrant m.m (s.patienceFrom m.m.vd)) hroom h
  have ht : t = s.tried ((s.tookUp id).spill m.brick m.m.vd (.migrant m.m (s.patienceFrom m.m.vd))) :=
    congrArg s.tried (State.arrive_absent (s := s.tookUp id) _ hres)
  refine ⟨fun hp => ?_, fun hp => ?_⟩
  · rw [hdone hp] at ht
    obtain ⟨hslots, -, hspills, hmigs, hmem⟩ := s.tried_false
      { u with spills := KMap.set u.spills (queueKey m.brick m.m.vd) (KMap.getD u.spills (queueKey m.brick m.m.vd) [] ++ [.migrant m.m (s.patienceFrom m.m.vd)]) }
    rw [ht]
    refine ⟨?_, hslots, hmem, hmigs, fun ha => ?_⟩
    · rw [hspills]
      exact KMap.getD_set_self _ _ _ _
    · have hsound : (s.tookUp id).soundMedia := fun r hr => by
        change r ∈ .sound :: s.answers at hr
        rw [ha] at hr
        exact List.mem_singleton.mp hr
      rw [hp] at h
      obtain ⟨hslots, -, hspills, hmigs, hbytes⟩ :=
        State.spillPassage_passed (s := s.tookUp id) (a := .migrant m.m (s.patienceFrom m.m.vd)) hv hsound h
      exact ⟨hspills, hslots, hmigs, hbytes⟩
  · rw [ht, hstill hp]
    rfl
/-- ARRIVAL_SPILL of the oldest arrival, due, of a resident device whose spill area has room. -/
theorem exec_arrivalSpill_passes {b vd : Nat} {a : Arrival} {rest : List Arrival} {u : State} {p : Passage} {v : VDev}
    (hq : KMap.getD s.arrivals (queueKey b vd) [] = a :: rest) (hres : s.isResident vd = true) (hv : s.vd? vd = some v)
    (hdue : a.since + 2048 ≤ s.cycle) (hroom : (KMap.getD s.spills (queueKey b vd) []).length < 112)
    (h : { s with arrivals := setQueue s.arrivals (queueKey b vd) rest }.spillPassage spillOut vd b
      (s.spillHead (queueKey b vd) + (KMap.getD s.spills (queueKey b vd) []).length) (some a.message) = (u, p)) :
    let e := v.spillEntry b (s.spillHead (queueKey b vd) + (KMap.getD s.spills (queueKey b vd) []).length)
    (p = .done → ∃ t : State, exec (.arrivalSpill b vd) s = .next t ∧ t.arrivals = u.arrivals ∧
        KMap.getD t.spills (queueKey b vd) [] = KMap.getD u.spills (queueKey b vd) [] ++ [a] ∧ t.slots = u.slots ∧ t.mem = u.mem ∧
        (s.answers = [] → u.arrivals = setQueue s.arrivals (queueKey b vd) rest ∧ u.spills = s.spills ∧ u.slots = s.slots ∧
          (Memory.wf s.mem = true → Mem.readBytes u.mem e 144 = a.message ∧
            ∀ x, x < e / 64 * 64 ∨ (e + 143) / 64 * 64 + 64 ≤ x → Mem.readBytes u.mem x 1 = Mem.readBytes s.mem x 1))) ∧
      (p = .still → exec (.arrivalSpill b vd) s = .next { u with arrivals := s.arrivals }) := by
  intro e
  have hexec := exec_arrivalSpill_due a hq hres hdue
  obtain ⟨hdone, hstill⟩ := State.spill_passes (s := { s with arrivals := setQueue s.arrivals (queueKey b vd) rest }) hroom h
  refine ⟨fun hp => ?_, fun hp => ?_⟩
  · rw [hdone hp] at hexec
    refine ⟨_, hexec, rfl, KMap.getD_set_self _ _ _ _, rfl, rfl, fun ha => ?_⟩
    have hsound : { s with arrivals := setQueue s.arrivals (queueKey b vd) rest }.soundMedia := fun r hr => by
      change r ∈ s.answers at hr
      rw [ha] at hr
      cases hr
    rw [hp] at h
    obtain ⟨hslots, harrivals, hspills, -, hbytes⟩ :=
      State.spillPassage_passed (s := { s with arrivals := setQueue s.arrivals (queueKey b vd) rest }) hv hsound h
    exact ⟨harrivals, hspills, hslots, hbytes⟩
  · rw [hexec, hstill hp]
    rfl

/-- Settles O31: QUIT by `State.endThread_frees`, MIGR by `exec_migr_walked`, an arrival by the cases of `State.arrive`, and a spill by what its passage writes, `State.spillPassage_passed`. -/
theorem threadsEndAndMove : Obligations.ThreadsEndAndMove := by
  refine ⟨fun s => ⟨fun hbusy hsb hack hring => ⟨exec_quit_ends hbusy hsb hack hring, fun hmode hresv hres => ?_⟩, ?_, exec_quit_drains,
    exec_quit_ring, ?_, ?_⟩, ?_, ?_, ?_⟩
  · obtain ⟨hslot, hmem, hregion⟩ := State.endThread_frees (key := s.cur) hmode hresv hres
    refine ⟨hslot, rfl, rfl, rfl, hmem, ?_⟩
    rw [show s.me = s.slotAt s.cur from rfl, hregion, Option.map_map]
    rfl
  · intro hbusy
    change execQuit s = _
    rw [execQuit, if_pos hbusy]
    rfl
  · intro hring
    change execRsync s = _
    rw [execRsync, if_neg (not_not.mpr hring)]
    rfl
  · intro hring
    change execRsync s = _
    rw [execRsync, if_pos hring]
    rfl
  · intro s u b i p win d ea hlevel hsb hack hbusy hmail hports hring hresv hfault hwalk hume hplace hhome v
    have hexec := exec_migr_walked hlevel hsb hack hbusy hmail hports hring hresv hfault hwalk hume hplace hhome
    obtain ⟨n, c, hcaches⟩ := u.translated_caches u.brick s.me.vd s.me.space s.me.level ea .read
    have hv : v = u.withCaches n c := hcaches
    change exec (.migr b i) s = if d = v.brick then v.retire Slot.dropAhead else .next (v.sendThread d) at hexec
    clear_value v
    subst hv
    have hvme : (u.withCaches n c).me = s.me := hume
    have hbrick : (u.withCaches n c).brick = u.brick := rfl
    rw [hbrick] at hexec
    refine ⟨fun hd => ?_, fun hd t ht => ?_⟩
    · rw [hexec, if_pos hd, State.retire, hvme]
      rfl
    · rw [hexec, if_neg hd, ht, State.sendThread, hvme]
      rfl
  · intro s id m hm q taken
    refine ⟨_, exec_migrationArrive hm, fun n hres hspills harrivals hfree => ?_, fun hres hspills hfree hroom => ?_, fun u p v hres hv hroom => ?_⟩
    · rw [State.arrive_free (s := s.tookUp id) _ hres hspills harrivals hfree]
      obtain ⟨hslots, -, -, hmigs, hmem⟩ := s.tried_false ((s.tookUp id).setSlot (8 * m.brick + n) (Arrival.migrant m.m (s.patienceFrom m.m.vd)).slot)
      generalize s.tried (_, false) = t at hslots hmigs hmem ⊢
      have hslot : t.slotAt (8 * m.brick + n) = landed m.m :=
        (congrArg (KMap.getD · (8 * m.brick + n) Slot.empty) hslots).trans (State.slotAt_setSlot_self (s.tookUp id) _ _)
      rw [hslot]
      exact ⟨rfl, rfl, rfl, rfl, rfl, rfl, hmem, hmigs⟩
    · rw [State.arrive_waits (s := s.tookUp id) _ hres hspills hfree hroom]
      obtain ⟨hslots, harrivals, -, hmigs, hmem⟩ := s.tried_false
        { s.tookUp id with arrivals := KMap.set s.arrivals q (KMap.getD s.arrivals q [] ++ [.migrant m.m (s.patienceFrom m.m.vd)]) }
      refine ⟨(congrArg (KMap.getD · q []) harrivals).trans (KMap.getD_set_self _ _ _ _), hslots, hmem, hmigs⟩
    · intro i e hpass
      exact exec_migrationArrive_spills hres hv hroom hpass
  · intro s b vd a rest hq
    refine ⟨?_, exec_arrivalSpill_stays a hq⟩
    intro u p v hres hv hdue q out i e hroom hpass
    exact exec_arrivalSpill_passes hq hres hv hdue hroom hpass

end Sys2Proof.Machine
end
